-- ==== Sys2Proof/Word.lean ====
section
/-! DEFINITION. The word types of the VX9: bytes, 32-bit words, 64-bit double words (spec 01 R13, R17; 00 R6). -/

namespace Sys2Proof

/-- One byte of memory (00 R6). -/
abbrev Byte := BitVec 8

/-- A 32-bit register element, instruction word or clause header (01 Table 1.1, 03 R68). -/
abbrev Word := BitVec 32

/-- A 64-bit value: a register pair, an affine base, an address (01 R17, R21). -/
abbrev Dword := BitVec 64

/-- One row: the 32 lanes' elements of a varying register (01 R15). -/
abbrev Row := Vector Word 32

end Sys2Proof
end

