-- ==== Sys2Proof/Machine/Bits.lean ====
section
/-! DEFINITION. Bit fields, extensions, byte order and lane masks (00 R6; 01 R24; 02 R43). -/

namespace Sys2Proof.Machine

open Sys2Proof

/-- Bits `[hi:lo]` of a word, as a number (00 R6). -/
def fieldNat (w : Word) (hi lo : Nat) : Nat := (w.toNat >>> lo) % 2 ^ (hi + 1 - lo)

/-- The `n`-bit two's-complement reading of the low `n` bits of `x`. -/
def signedOf (n x : Nat) : Int :=
  let y := x % 2 ^ n
  if 2 * y < 2 ^ n then (y : Int) else (y : Int) - 2 ^ n

/-- `x mod 2^n` of an exact integer, as a number (00 R10). -/
def wrapNat (n : Nat) (x : Int) : Nat := (x % (2 ^ n : Int)).toNat

/-- An exact integer modulo 2^32. -/
def word32 (x : Int) : Word := BitVec.ofInt 32 x

/-- An exact integer modulo 2^64. -/
def word64 (x : Int) : Dword := BitVec.ofInt 64 x

/-- The low half of a double word. -/
def lowHalf (d : Dword) : Word := d.setWidth 32

/-- The high half of a double word. -/
def highHalf (d : Dword) : Word := (d >>> 32).setWidth 32

/-- A double word from its two halves, bits [31:0] first (01 R17). -/
def joinHalves (lo hi : Word) : Dword := hi ++ lo

/-- Bit `L` of a lane mask (01 R24). -/
def laneIn (m : Word) (L : Fin 32) : Bool := m.getLsbD L.val

/-- The mask whose bit `L` is `f L`. -/
def maskOf (f : Fin 32 → Bool) : Word :=
  (List.finRange 32).foldl (fun acc L => if f L then acc ||| (1#32 <<< L.val) else acc) 0#32

/-- The home positions of a mask, ascending. -/
def lanesOf (m : Word) : List (Fin 32) := (List.finRange 32).filter (laneIn m)

/-- The lowest home position of a mask, 0 when the mask is empty. -/
def lowestLane (m : Word) : Fin 32 := (lanesOf m).headD 0

/-- The number of set bits of the low `n` bits of `x`. -/
def popcountNat : Nat → Nat → Nat
  | 0, _ => 0
  | n + 1, x => x % 2 + popcountNat n (x / 2)

/-- The number of bits needed to write `x`, 0 for 0: `x` has fuel `n` bits at most. -/
def bitLength (x : Nat) : Nat := if x = 0 then 0 else Nat.log2 x + 1

/-- The bytes of a number, lowest first (00 R6). -/
def bytesOfNat : Nat → Nat → List Byte
  | 0, _ => []
  | n + 1, x => BitVec.ofNat 8 x :: bytesOfNat n (x / 256)

/-- The number whose bytes, lowest first, are given (00 R6). -/
def natOfBytes : List Byte → Nat
  | [] => 0
  | b :: bs => b.toNat + 256 * natOfBytes bs

/-- The four bytes of a word, lowest address first. -/
def bytesOfWord (w : Word) : List Byte := bytesOfNat 4 w.toNat

/-- The word at the head of a byte list. -/
def wordOfBytes (bs : List Byte) : Word := BitVec.ofNat 32 (natOfBytes (bs.take 4))

/-- Element `i` of a word cut into elements of `n` bits (02 R46). -/
def elementNat (n : Nat) (w : Word) (i : Nat) : Nat := (w.toNat >>> (n * i)) % 2 ^ n

/-- A word with element `i` of `n` bits replaced (06 R159). -/
def setElement (n : Nat) (w : Word) (i : Nat) (x : Nat) : Word :=
  BitVec.ofNat 32 (w.toNat - elementNat n w i * 2 ^ (n * i) + (x % 2 ^ n) * 2 ^ (n * i))

/-- `n` consecutive bytes of a byte list from offset `o`, as a number. -/
def natAt (bs : List Byte) (o n : Nat) : Nat := natOfBytes ((bs.drop o).take n)

end Sys2Proof.Machine
end

