-- ==== Sys2Proof/Machine/Exact.lean ====
section
/-! DEFINITION. Exact dyadic numbers and the values of a floating-point operand (02 R46, R50, R64, R66):
the arithmetic that the manual forms exactly before its one rounding. -/

namespace Sys2Proof.Machine

open Sys2Proof

/-- The exact number (−1)^neg × mant × 2^exp; a zero keeps its sign. -/
structure Exact where
  neg : Bool
  mant : Nat
  exp : Int
  deriving DecidableEq, Repr

/-- What a floating-point operand holds (02 R46, R47). -/
inductive FpVal where
  | nan (signalling : Bool)
  | inf (neg : Bool)
  | num (e : Exact)
  deriving DecidableEq, Repr

/-- The magnitude of `e` in units of 2^`q`, for `q` at or below its exponent. -/
def Exact.scaledMant (e : Exact) (q : Int) : Nat := e.mant * 2 ^ (e.exp - q).toNat

/-- The signed magnitude of `e` in units of 2^`q`, for `q` at or below its exponent. -/
def Exact.scaled (e : Exact) (q : Int) : Int :=
  if e.neg then - (e.scaledMant q : Int) else (e.scaledMant q : Int)

/-- The exact number `x` × 2^`q`, positive when zero. -/
def Exact.ofInt (x : Int) (q : Int) : Exact := ⟨decide (x < 0), x.natAbs, q⟩

/-- The exact zero of a sign. -/
def Exact.zero (neg : Bool) : Exact := ⟨neg, 0, 0⟩

/-- The product of two exact numbers; the sign is the XOR of the signs, zeros included. -/
def Exact.mul (x y : Exact) : Exact := ⟨x.neg != y.neg, x.mant * y.mant, x.exp + y.exp⟩

/-- The negation of an exact number. -/
def Exact.negate (x : Exact) : Exact := ⟨!x.neg, x.mant, x.exp⟩

/-- The exact sum; `zneg` is the sign of a zero that is not the sum of two zeros of one sign (06 R146). -/
def Exact.add (zneg : Bool) (x y : Exact) : Exact :=
  let q := min x.exp y.exp
  let s := x.scaled q + y.scaled q
  if s = 0 then
    if x.mant = 0 && y.mant = 0 && x.neg == y.neg then Exact.zero x.neg else Exact.zero zneg
  else Exact.ofInt s q

/-- The sign of `x − y`. -/
def Exact.cmp (x y : Exact) : Ordering :=
  let q := min x.exp y.exp
  compare (x.scaled q) (y.scaled q)

/-- floor of an exact number. -/
def Exact.floor (x : Exact) : Int :=
  if x.exp ≥ 0 then x.scaled 0
  else (if x.neg then - (x.mant : Int) else (x.mant : Int)) / (2 ^ (-x.exp).toNat : Int)

/-- The exact number is an integer. -/
def Exact.isInteger (x : Exact) : Bool :=
  x.exp ≥ 0 || x.mant % 2 ^ (-x.exp).toNat == 0

/-- The exponent of the leading bit of a non-zero magnitude: floor(log2 |x|). -/
def Exact.top (x : Exact) : Int := x.exp + (bitLength x.mant : Int) - 1

/-- Integer square root, one result bit a step: `n` bits, the root so far `r`, of `x`. -/
def isqrtLoop (x : Nat) : Nat → Nat → Nat
  | 0, r => r
  | n + 1, r =>
    let t := r + 2 ^ n
    isqrtLoop x n (if t * t ≤ x then t else r)

/-- floor(√x). -/
def isqrt (x : Nat) : Nat := isqrtLoop x (bitLength x / 2 + 1) 0

/-- A dyadic that stands for `m` × 2^`q` plus a positive remainder below one unit when `sticky`: its extra
low bit keeps it off every rounding boundary of a format with fewer bits (02 R50). -/
def Exact.withSticky (neg : Bool) (m : Nat) (q : Int) (sticky : Bool) : Exact :=
  ⟨neg, 2 * m + (if sticky then 1 else 0), q - 1⟩

/-- x / y for non-zero `y`, with more than 64 quotient bits and a sticky bit. -/
def Exact.div (x y : Exact) : Exact :=
  let s := bitLength y.mant + 64
  let n := x.mant * 2 ^ s
  Exact.withSticky (x.neg != y.neg) (n / y.mant) (x.exp - y.exp - (s : Int)) (n % y.mant != 0)

/-- √x for a non-negative `x`, with more than 64 bits and a sticky bit. -/
def Exact.sqrt (x : Exact) : Exact :=
  let s : Nat := if x.exp % 2 = 0 then 160 else 161
  let n := x.mant * 2 ^ s
  let r := isqrt n
  Exact.withSticky false r ((x.exp - (s : Int)) / 2) (r * r != n)

/-- 1/√x for a positive `x`, with more than 64 bits and a sticky bit. -/
def Exact.rsqrt (x : Exact) : Exact :=
  let s0 : Nat := 2 * bitLength x.mant + 160
  let s : Nat := if (x.exp + (s0 : Int)) % 2 = 0 then s0 else s0 + 1
  let n := 2 ^ s / x.mant
  let r := isqrt n
  Exact.withSticky false r ((- x.exp - (s : Int)) / 2) (r * r != n || 2 ^ s % x.mant != 0)

/-- Flip the sign of a value. -/
def FpVal.negate : FpVal → FpVal
  | .nan s => .nan s
  | .inf n => .inf (!n)
  | .num e => .num e.negate

/-- The value is a NaN. -/
def FpVal.isNan : FpVal → Bool
  | .nan _ => true
  | _ => false

/-- The value is a signalling NaN. -/
def FpVal.isSignalling : FpVal → Bool
  | .nan s => s
  | _ => false

/-- The exact value is a zero. -/
def FpVal.isZero : FpVal → Bool
  | .num e => e.mant == 0
  | _ => false

/-- The value is infinite. -/
def FpVal.isInf : FpVal → Bool
  | .inf _ => true
  | _ => false

/-- The sign of a value that is no NaN. -/
def FpVal.isNeg : FpVal → Bool
  | .nan _ => false
  | .inf n => n
  | .num e => e.neg

end Sys2Proof.Machine
end

