-- ==== Sys2Proof/Machine/Float.lean ====
section
/-! DEFINITION. The six floating-point formats, rounding, overflow and the flags (02 R46 to R55; 06 R146). -/

namespace Sys2Proof.Machine

open Sys2Proof

/-- The floating-point formats of 02 Table 2.3. -/
inductive FFmt where
  | f32 | f16 | bf16 | e4m3 | e5m2 | e2m1
  deriving DecidableEq, Repr

/-- Exponent bits (02 Table 2.3). -/
def FFmt.ebits : FFmt → Nat
  | .f32 => 8 | .f16 => 5 | .bf16 => 8 | .e4m3 => 4 | .e5m2 => 5 | .e2m1 => 2

/-- Mantissa bits (02 Table 2.3). -/
def FFmt.mbits : FFmt → Nat
  | .f32 => 23 | .f16 => 10 | .bf16 => 7 | .e4m3 => 3 | .e5m2 => 2 | .e2m1 => 1

/-- Exponent bias (02 Table 2.3). -/
def FFmt.bias : FFmt → Nat
  | .f32 => 127 | .f16 => 15 | .bf16 => 127 | .e4m3 => 7 | .e5m2 => 15 | .e2m1 => 1

/-- Total bits (02 Table 2.3). -/
def FFmt.bits (f : FFmt) : Nat := 1 + f.ebits + f.mbits

/-- The largest exponent code is reserved for infinities and NaNs (02 R46). -/
def FFmt.ieee : FFmt → Bool
  | .f32 | .f16 | .bf16 | .e5m2 => true
  | .e4m3 | .e2m1 => false

/-- The canonical NaN (02 Table 2.4); E2M1 has none, and a NaN converted to it gives 0x0 (02 R48). -/
def FFmt.canonicalNan : FFmt → Nat
  | .f32 => 0x7FC00000 | .f16 => 0x7E00 | .bf16 => 0x7FC0 | .e4m3 => 0x7F | .e5m2 => 0x7E | .e2m1 => 0

/-- The largest finite value without its sign (02 Table 2.3). -/
def FFmt.maxFinite : FFmt → Nat
  | .f32 => 0x7F7FFFFF | .f16 => 0x7BFF | .bf16 => 0x7F7F | .e4m3 => 0x7E | .e5m2 => 0x7B | .e2m1 => 0x7

/-- The positive infinity of a format that has one (02 Table 2.4). -/
def FFmt.infinity (f : FFmt) : Nat := (2 ^ f.ebits - 1) * 2 ^ f.mbits

/-- The sign bit of a format. -/
def FFmt.signBit (f : FFmt) (neg : Bool) : Nat := if neg then 2 ^ (f.ebits + f.mbits) else 0

/-- The exponent of the smallest normal. -/
def FFmt.emin (f : FFmt) : Int := 1 - (f.bias : Int)

/-- The value of a bit pattern (02 R46, R47). -/
def FFmt.decode (f : FFmt) (b : Nat) : FpVal :=
  let m := b % 2 ^ f.mbits
  let e := (b / 2 ^ f.mbits) % 2 ^ f.ebits
  let neg := (b / 2 ^ (f.mbits + f.ebits)) % 2 == 1
  if f.ieee && e == 2 ^ f.ebits - 1 then
    if m = 0 then .inf neg else .nan (decide (m < 2 ^ (f.mbits - 1)))
  else if f == .e4m3 && e == 15 && m == 7 then .nan false
  else if e = 0 then .num ⟨neg, m, f.emin - f.mbits⟩
  else .num ⟨neg, 2 ^ f.mbits + m, (e : Int) - f.bias - f.mbits⟩

/-- FPSTAT flags (01 Table 1.4). -/
abbrev Flags := BitVec 5

/-- Invalid. -/
def flagNV : Flags := 1
/-- Divide by zero. -/
def flagDZ : Flags := 2
/-- Overflow. -/
def flagOF : Flags := 4
/-- Underflow. -/
def flagUF : Flags := 8
/-- Inexact. -/
def flagNX : Flags := 16

/-- A flag when a condition holds. -/
def flagIf (c : Bool) (x : Flags) : Flags := if c then x else 0

/-- The rounding modes an encoding names in two bits (02 Table 2.6). -/
inductive RMode where
  | rn | rz | ru | rd
  deriving DecidableEq, Repr

/-- How one result is rounded: a mode of 02 Table 2.6, or stochastically with the LFSR state after this
element's step (02 R55). -/
inductive Rounding where
  | mode (m : RMode)
  | stochastic (r : Word)
  deriving DecidableEq, Repr

/-- F of 02 R55: the discarded bits `rem` of `shift` places, as a 32-bit fraction with its sticky bit. -/
def stochasticFraction (rem shift : Nat) : Nat :=
  if shift ≤ 32 then rem * 2 ^ (32 - shift)
  else
    let f := rem / 2 ^ (shift - 32)
    if rem % 2 ^ (shift - 32) = 0 || f % 2 = 1 then f else f + 1

/-- The magnitude `sig` with `rem` discarded in `shift` places is rounded away from zero (02 R50, R55). -/
def roundsUp (r : Rounding) (neg : Bool) (sig rem shift : Nat) : Bool :=
  match r with
  | .mode .rn => decide (2 * rem > 2 ^ shift) || (2 * rem == 2 ^ shift && sig % 2 == 1)
  | .mode .rz => false
  | .mode .ru => !neg && rem != 0
  | .mode .rd => neg && rem != 0
  | .stochastic s => decide (s.toNat < stochasticFraction rem shift)

/-- A magnitude rounded to a multiple of 2^`q`: the multiple, and whether it is inexact. -/
def roundToQuantum (r : Rounding) (e : Exact) (q : Int) : Nat × Bool :=
  if q ≤ e.exp then (e.mant * 2 ^ (e.exp - q).toNat, false)
  else
    let shift := (q - e.exp).toNat
    let sig := e.mant / 2 ^ shift
    let rem := e.mant % 2 ^ shift
    (if roundsUp r e.neg sig rem shift then sig + 1 else sig, rem != 0)

/-- The overflow of a mode and sign is written as infinity, not as the largest finite value (02 Table 2.7). -/
def overflowsToInfinity (r : Rounding) (neg : Bool) : Bool :=
  match r with
  | .mode .rn => true
  | .stochastic _ => true
  | .mode .rz => false
  | .mode .ru => !neg
  | .mode .rd => neg

/-- What an overflow writes (02 R52, Table 2.7). -/
def FFmt.overflowBits (f : FFmt) (r : Rounding) (sat neg : Bool) : Nat :=
  let largest := f.signBit neg + f.maxFinite
  if sat || f == .e2m1 || !overflowsToInfinity r neg then largest
  else if f == .e4m3 then f.canonicalNan
  else f.signBit neg + f.infinity

/-- A rounded magnitude `sig` × 2^`q` (with at most one bit more than the format's precision) as exponent
and mantissa codes, before overflow is judged: the number E × 2^mbits + M. -/
def FFmt.packMagnitude (f : FFmt) (sig : Nat) (q : Int) : Nat :=
  if sig < 2 ^ f.mbits then sig
  else if sig < 2 ^ (f.mbits + 1) then (q + f.mbits + f.bias).toNat * 2 ^ f.mbits + (sig - 2 ^ f.mbits)
  else (q + 1 + f.mbits + f.bias).toNat * 2 ^ f.mbits

/-- Round a non-zero exact number to a format, with its flags (02 R50 to R52, R55; flushing by R49). -/
def FFmt.roundNonzero (f : FFmt) (r : Rounding) (sat ftz : Bool) (e : Exact) : Nat × Flags :=
  let q := max (e.top - f.mbits) (f.emin - f.mbits)
  let (sig, inexact) := roundToQuantum r e q
  let mag := f.packMagnitude sig q
  let normalMin := 2 ^ f.mbits
  let tinyBefore := decide (e.top < f.emin)
  let tiny :=
    match r with
    | .stochastic _ => decide (mag < normalMin)
    | .mode _ =>
      tinyBefore &&
        !(decide (e.top = f.emin - 1) &&
          decide ((roundToQuantum r e (e.top - f.mbits)).1 = 2 ^ (f.mbits + 1)))
  if mag > f.maxFinite then (f.overflowBits r sat e.neg, flagOF ||| flagNX)
  else if ftz && ((mag != 0 && decide (mag < normalMin)) || (tinyBefore && mag == normalMin)) then
    (f.signBit e.neg, flagUF ||| flagNX)
  else (f.signBit e.neg + mag, flagIf inexact flagNX ||| flagIf (inexact && tiny) flagUF)

/-- Write an infinity in a format (02 R52, Table 2.7). -/
def FFmt.roundInf (f : FFmt) (sat neg : Bool) : Nat × Flags :=
  if f.ieee then (f.signBit neg + (if sat then f.maxFinite else f.infinity), 0)
  else if f == .e4m3 then (if sat then f.signBit neg + f.maxFinite else f.canonicalNan, flagNV)
  else (f.signBit neg + f.maxFinite, flagNV)

/-- fp_round of 06 R146: one rounding of an exact result, a NaN written by 02 R48. -/
def FFmt.round (f : FFmt) (r : Rounding) (sat ftz : Bool) (v : FpVal) : Nat × Flags :=
  match v with
  | .nan _ => (f.canonicalNan, flagIf (f == .e2m1) flagNV)
  | .inf neg => f.roundInf sat neg
  | .num e => if e.mant = 0 then (f.signBit e.neg, 0) else f.roundNonzero r sat ftz e

/-- The bits hold a subnormal of the format. -/
def FFmt.isSubnormal (f : FFmt) (b : Nat) : Bool :=
  (b / 2 ^ f.mbits) % 2 ^ f.ebits == 0 && b % 2 ^ f.mbits != 0

/-- fp_read of 06 R146: the operand's value after negation and flushing. -/
def FFmt.read (f : FFmt) (neg ftz : Bool) (b : Nat) : FpVal :=
  let v := f.decode b
  let w := if neg then v.negate else v
  if ftz && f.isSubnormal b then .num (Exact.zero w.isNeg) else w

/-- NV of the signalling NaN operands (02 R48). -/
def signallingFlag (vs : List FpVal) : Flags := flagIf (vs.any FpVal.isSignalling) flagNV

/-- A rounding mode rounds exact zeros of opposite signs to −0 (06 R146). -/
def Rounding.zeroNeg : Rounding → Bool
  | .mode .rd => true
  | _ => false

/-- x + y before rounding, with NV (02 R51). -/
def fpAdd (r : Rounding) (x y : FpVal) : FpVal × Flags :=
  match x, y with
  | .nan _, _ => (.nan false, signallingFlag [x, y])
  | _, .nan _ => (.nan false, signallingFlag [x, y])
  | .inf a, .inf b => if a == b then (.inf a, 0) else (.nan false, flagNV)
  | .inf a, .num _ => (.inf a, 0)
  | .num _, .inf b => (.inf b, 0)
  | .num a, .num b => (.num (Exact.add r.zeroNeg a b), 0)

/-- x × y before rounding, with NV (02 R51). -/
def fpMul (x y : FpVal) : FpVal × Flags :=
  match x, y with
  | .nan _, _ => (.nan false, signallingFlag [x, y])
  | _, .nan _ => (.nan false, signallingFlag [x, y])
  | .inf a, .inf b => (.inf (a != b), 0)
  | .inf a, .num b => if b.mant = 0 then (.nan false, flagNV) else (.inf (a != b.neg), 0)
  | .num a, .inf b => if a.mant = 0 then (.nan false, flagNV) else (.inf (a.neg != b), 0)
  | .num a, .num b => (.num (a.mul b), 0)

/-- x × y + z before rounding: a 0 × ∞ product sets NV even when z is a quiet NaN (06 R148, R149). -/
def fpFma (r : Rounding) (x y z : FpVal) : FpVal × Flags :=
  let p := fpMul x y
  let s := fpAdd r p.1 z
  (s.1, p.2 ||| s.2)

/-- Round the outcome of an operation, its flags ORed together. -/
def FFmt.finish (f : FFmt) (r : Rounding) (sat ftz : Bool) (o : FpVal × Flags) : Nat × Flags :=
  let w := f.round r sat ftz o.1
  (w.1, w.2 ||| o.2)

/-- One LFSR step of 02 R53. -/
def lfsrStep (s : Word) : Word :=
  let t := s >>> 1
  if s.getLsbD 0 then t ^^^ 0x80200003#32 else t

/-- An exact number rounded to an integer by a mode (06 R154; conversions to integers, 02 R52). -/
def Exact.roundToInt (m : RMode) (e : Exact) : Int :=
  let s := (roundToQuantum (.mode m) e 0).1
  if e.neg then - (s : Int) else (s : Int)

end Sys2Proof.Machine
end

