-- ==== Sys2Proof/Syntax.lean ====
section
/-! DEFINITION. The one syntax of the model: one constructor for each row of the opcode table. Instructions of the
opcode map carry the fields of their encodings (03, 05, 06, 08, 11, 14, 17); engine and fabric commands the fields of
their 64 bytes (14, 16, 20); packets their header and data (20); events what names the thing that moves. -/

namespace Sys2Proof

open Sys2Proof.Machine (RMode)

/-- A 7-bit operand code (03 R84). -/
abbrev Code := BitVec 7

/-- A predicate source: bit 3 negates, bits [2:0] name p0 to p7 (05 R116). -/
abbrev PredRef := BitVec 4

/-- D, A, B and the two reuse bits of format F3 (03 R79). -/
structure F3 where
  d : Code
  a : Code
  b : Code
  ra : Bool
  rb : Bool
  deriving DecidableEq, Repr

/-- D, A and the reuse bit of A: format F3 with B unused (03 R85). -/
structure F2 where
  d : Code
  a : Code
  ra : Bool
  deriving DecidableEq, Repr

/-- D and A of format FI with an immediate (03 R79). -/
structure FI where
  d : Code
  a : Code
  imm : BitVec 11
  deriving DecidableEq, Repr

/-- The IT word (03 R83). -/
structure ItMod where
  width : BitVec 2
  signed : Bool
  sat : Bool
  deriving DecidableEq, Repr

/-- The FMOD word (03 R83). -/
structure FMod where
  rnd : RMode
  ftz : Bool
  sat : Bool
  negA : Bool
  negB : Bool
  deriving DecidableEq, Repr

/-- The modifiers of the FCX and HCX words (06 R149, R157). -/
structure FcMod where
  rnd : RMode
  ftz : Bool
  sat : Bool
  negA : Bool
  negB : Bool
  negC : Bool
  deriving DecidableEq, Repr

/-- The CVX word (06 R158). -/
structure CvMod where
  dfmt : BitVec 4
  sfmt : BitVec 4
  rnd : BitVec 3
  ftz : Bool
  sat : Bool
  selem : BitVec 3
  delem : BitVec 3
  deriving DecidableEq, Repr

/-- The SFX word (06 R163). -/
structure SfMod where
  rnd : RMode
  ftz : Bool
  la : BitVec 4
  tk : BitVec 3
  deriving DecidableEq, Repr

/-- The ABX word (06 R170). -/
structure AbMod where
  fmt : BitVec 2
  rnd : RMode
  sat : Bool
  incl : Bool
  la : BitVec 4
  tk : BitVec 3
  deriving DecidableEq, Repr

/-- OPSEL of the DPX word (05 R132). -/
inductive DotOp where
  | sad | dp4a | dp2a
  deriving DecidableEq, Repr

/-- T, BASE, LA and TK of format FM (03 R79). -/
structure Fm where
  t : Code
  base : Code
  la : BitVec 4
  tk : BitVec 3
  deriving DecidableEq, Repr

/-- The MX word (08 R224). -/
structure MxMod where
  size : BitVec 3
  sx : Bool
  win : Bool
  off : BitVec 22
  deriving DecidableEq, Repr

/-- The AX word (08 R236). -/
structure AxMod where
  aop : BitVec 3
  w64 : Bool
  signed : Bool
  c : Code
  e : Code
  deriving DecidableEq, Repr

/-- D, A, B and J of format FQ (03 R79). -/
structure FQ where
  d : Code
  a : Code
  b : Code
  j : BitVec 4
  deriving DecidableEq, Repr

/-- The XLX word's own fields (08 R248). -/
structure XlMod where
  rop : BitVec 3
  signed : Bool
  la : BitVec 4
  tk : BitVec 3
  deriving DecidableEq, Repr

/-- The FMM word and the MMX word of an MMA (11 R292). -/
structure MmaOp where
  a : Code
  bk : BitVec 5
  dk : BitVec 5
  reusea : Bool
  tk : BitVec 3
  la : BitVec 4
  epi : BitVec 4
  scale : Bool
  rs : BitVec 6
  cs : BitVec 6
  csel : BitVec 2
  tsel : BitVec 2
  bsp : Bool
  deriving DecidableEq, Repr

/-- The space of an MLD or MST with the field that names it (11 R301). -/
inductive XferSpace where
  | reg (a : Code)
  | global (bk : BitVec 5)
  | scratch (bk : BitVec 5)
  deriving DecidableEq, Repr

/-- MLD and MST (11 R301). -/
structure XferOp where
  space : XferSpace
  dk : BitVec 5
  tk : BitVec 3
  la : BitVec 4
  nrows : BitVec 5
  deriving DecidableEq, Repr

/-- MDRAIN (11 R305). -/
structure DrainOp where
  bk : BitVec 5
  dk : BitVec 5
  tk : BitVec 3
  la : BitVec 4
  ch : BitVec 4
  tileadd : Bool
  epi : BitVec 4
  int : Bool
  nrows : BitVec 5
  deriving DecidableEq, Repr

/-- CBLD and ACTLD (11 R306). -/
structure TableOp where
  bk : BitVec 5
  tk : BitVec 3
  la : BitVec 4
  tsel : BitVec 2
  deriving DecidableEq, Repr

/-- PUSH (14 R352). -/
structure PushOp where
  qid : BitVec 6
  kb : Bool
  guard : BitVec 4
  flagp : BitVec 3
  tk : BitVec 3
  la : BitVec 4
  deriving DecidableEq, Repr

/-- BARWAIT (14 R361). -/
structure BarwaitOp where
  d : Code
  a : Code
  ra : Bool
  e : Code
  la : BitVec 4
  tk : BitVec 3
  deriving DecidableEq, Repr

/-- TROWS, TCOLS and the other fields of TILE and TILEADD (14 R366, R373). -/
structure TileCmd where
  bar : Dword
  src : Dword
  shape : Dword
  trows : BitVec 16
  tcols : BitVec 16
  drained : Bool
  buffer : BitVec 2
  deriving DecidableEq, Repr

/-- DEST, LEN, addresses and the rest of a fabric command (20 R505). -/
structure FabCmd where
  bar : Dword
  dnode : BitVec 12
  dvf : BitVec 6
  cls : BitVec 2
  len : Word
  laddr : Dword
  raddr : Dword
  rbar : Dword
  opx : Dword
  operand : Dword
  deriving DecidableEq, Repr

/-- A packet: its header flit without TYPE, its data, and the 16-byte pieces of them that are poisoned (20 R493,
R508). OPX is the 24 bytes at 0x28. -/
structure Packet where
  ndata : Nat
  last : Bool
  dnode : Nat
  dvf : Nat
  svf : Nat
  snode : Nat
  sq : Nat
  cause : Nat
  domain : Nat
  seq : Nat
  addr : Nat
  len : Nat
  cmdtag : Nat
  rbar : Nat
  opx : Nat
  data : List Byte
  bad : List Nat
  deriving DecidableEq, Repr

/-- TYPE of a packet (20 R493). -/
inductive PacketType where
  | put | getRequest | send | atomic | reducePut | join | leave
  | ack | nack | getData | atomicResult
  deriving DecidableEq, Repr

/-- Slots of an input port that are free at the far end of a link, or that a flit gives back: shared ones, and the
reserved ones of each VC (20 R498). -/
structure Credits where
  shared : Nat
  reserved : Vector Nat 8
  deriving DecidableEq, Repr

/-- The kind of a host request to device memory (13 R330). -/
inductive HostAccess where
  | read (len : Nat)
  | write (bytes : List Byte)
  deriving DecidableEq, Repr

/-- What an ATS completion says (17 R457). -/
inductive AtsAnswer where
  | grant (frame size : Nat) (rd wr : Bool)
  | deny
  deriving DecidableEq, Repr

/-- What a Page Request response says (17 R457). -/
inductive PriAnswer where
  | success | invalidRequest | responseFailure
  deriving DecidableEq, Repr

/-- The instructions: one constructor for each row of the opcode table, in its order. -/
inductive Instr where
  -- integer, address, predicate and move instructions (05)
  | add (f : F3) (signed : Bool)
  | addIt (f : F3) (m : ItMod)
  | addImm (f : FI)
  | sub (f : F3) (signed : Bool)
  | subIt (f : F3) (m : ItMod)
  | addc (f : F3) (cin : PredRef) (cout : BitVec 3)
  | subb (f : F3) (cin : PredRef) (cout : BitVec 3)
  | mul (f : F3) (signed : Bool)
  | mulIt (f : F3) (m : ItMod)
  | mulhi (f : F3) (signed : Bool)
  | mulhiIt (f : F3) (m : ItMod)
  | mad (f : F3) (c : Code) (signed sat : Bool)
  | madw (f : F3) (c : Code) (signed : Bool)
  | div (f : F3) (signed : Bool)
  | divIt (f : F3) (m : ItMod)
  | rem (f : F3) (signed : Bool)
  | remIt (f : F3) (m : ItMod)
  | min (f : F3) (signed : Bool)
  | minIt (f : F3) (m : ItMod)
  | max (f : F3) (signed : Bool)
  | maxIt (f : F3) (m : ItMod)
  | abs (f : F2)
  | absIt (f : F2) (m : ItMod)
  | and (f : F3)
  | or (f : F3)
  | xor (f : F3)
  | andn (f : F3)
  | not (f : F2)
  | shl (f : F3)
  | shr (f : F3)
  | sar (f : F3)
  | shlImm (d a : Code) (n : BitVec 5)
  | shrImm (d a : Code) (n : BitVec 5)
  | sarImm (d a : Code) (n : BitVec 5)
  | rotImm (d a : Code) (n : BitVec 5)
  | rot (f : F3)
  | brev (f : F2)
  | promaImm (f : FI)
  | bfe (f : F3) (signed : Bool)
  | bfi (f : F3) (c : Code)
  | shf (f : F3) (c : Code) (right : Bool)
  | popc (f : F2)
  | clz (f : F2)
  | ctz (f : F2)
  | proma (f : F3)
  | promv (f : F2)
  | lea (f : F3) (h : BitVec 2)
  | leaLx (f : F3) (shift : BitVec 3) (signed : Bool)
  | add64 (f : F3)
  | sub64 (f : F3)
  | shl64 (f : F3)
  | sad (f : F3)
  | dp4a (f : F3)
  | dp2a (f : F3)
  | dpxDotForms (f : F3) (op : DotOp) (c : Code) (sa sb sat : Bool)
  | sel (f : F3) (p : PredRef) (w64 : Bool)
  | icmp (pd : BitVec 3) (a b : Code) (ra rb : Bool) (cmp : BitVec 3) (width : BitVec 2) (signed : Bool)
      (bop : BitVec 2) (pcomb : PredRef)
  | pand (pd : BitVec 3) (a b : PredRef)
  | por (pd : BitVec 3) (a b : PredRef)
  | pxor (pd : BitVec 3) (a b : PredRef)
  | mov (f : F2)
  | movmRead (d : Code) (n : BitVec 4)
  | movmWrite (a : Code) (n : BitVec 4) (ra : Bool)
  | movi (d : Code) (i : BitVec 18)
  | movhi (d : Code) (i : BitVec 18)
  | demoteFirst (f : F2)
  | demoteChk (f : F2)
  | demoteaChk (f : F2)
  -- floating point, conversion, special functions and the abacus (06)
  | fadd (f : F3) (m : RMode)
  | faddFmod (f : F3) (m : FMod)
  | fsub (f : F3) (m : RMode)
  | fsubFmod (f : F3) (m : FMod)
  | fmul (f : F3) (m : RMode)
  | fmulFmod (f : F3) (m : FMod)
  | ffma (f : F3) (c : Code) (m : FcMod)
  | fmac (f : F3) (m : RMode)
  | fmacFmod (f : F3) (m : FMod)
  | fmin (f : F3) (nan : Bool)
  | fmax (f : F3) (nan : Bool)
  | fneg (f : F2)
  | fcmp (pd : BitVec 3) (a b : Code) (ra rb : Bool) (cmp : BitVec 3) (bop : BitVec 2) (pcomb : PredRef) (ftz : Bool)
  | fclass (f : F2)
  | hadd2 (f : F3) (bf : Bool)
  | hadd2Hmod (f : F3) (bf : Bool) (m : FMod)
  | hmul2 (f : F3) (bf : Bool)
  | hmul2Hmod (f : F3) (bf : Bool) (m : FMod)
  | hfma2 (f : F3) (bf : Bool) (c : Code) (m : FcMod)
  | hmax2 (f : F3) (bf : Bool)
  | fcvt (f : F2) (m : CvMod)
  | frnd (f : F2) (m : RMode)
  | frndFmod (f : F2) (m : FMod)
  | fscale (f : F3) (m : RMode)
  | fscaleFmod (f : F3) (m : FMod)
  | fexp2 (f : F2) (m : SfMod)
  | flog2 (f : F2) (m : SfMod)
  | frcp (f : F2) (m : SfMod)
  | frsqrt (f : F2) (m : SfMod)
  | fsqrt (f : F2) (m : SfMod)
  | fdiv (f : F3) (m : SfMod)
  | fsin (f : F2) (m : SfMod)
  | fcos (f : F2) (m : SfMod)
  | ftanh (f : F2) (m : SfMod)
  | pack2 (f : F3) (bf : Bool)
  | pack2Cvx (f : F3) (m : CvMod)
  | unpack2 (f : F2) (bf : Bool)
  | unpack2Cvx (f : F2) (m : CvMod)
  | xclr (x : BitVec 2)
  | xmov (xd xs : BitVec 2)
  | xadd (x : BitVec 2) (a : Code) (ra : Bool) (bf : Bool)
  | xfma (x : BitVec 2) (a b : Code) (ra rb : Bool)
  | xrd (d : Code) (x : BitVec 2) (m : AbMod)
  | xscan (d : Code) (x : BitVec 2) (b : Code) (rb : Bool) (m : AbMod)
  -- control (08)
  | bra (cond : PredRef) (off : BitVec 21)
  | brq (neg : Bool) (off : BitVec 21)
  | jmp (a : Code) (ra : Bool)
  | call (cond : PredRef) (off : BitVec 21)
  | callr (a : Code) (ra : Bool)
  | ret
  | exit
  | armj (d a : Code) (j : BitVec 4)
  | join (j : BitVec 4)
  | waitj (j : BitVec 4)
  | yield
  | nop
  | bpt (i : BitVec 11)
  -- memory (08)
  | ld (m : Fm) (off : BitVec 4)
  | ldMx (m : Fm) (x : MxMod)
  | st (m : Fm) (off : BitVec 4)
  | stMx (m : Fm) (x : MxMod)
  | lds (m : Fm) (off : BitVec 4)
  | ldsMx (m : Fm) (x : MxMod)
  | sts (m : Fm) (off : BitVec 4)
  | stsMx (m : Fm) (x : MxMod)
  | ldc (m : Fm) (off : BitVec 4)
  | ldcMx (m : Fm) (x : MxMod)
  | stc (m : Fm) (off : BitVec 4)
  | stcMx (m : Fm) (x : MxMod)
  | atom (m : Fm) (off : BitVec 4) (x : AxMod)
  | fatom (m : Fm) (off : BitVec 4) (bf : Bool) (c : Code)
  | pref (base : Code) (la : BitVec 4) (tk : BitVec 3) (off : BitVec 4)
  | prefMx (base : Code) (la : BitVec 4) (tk : BitVec 3) (off : BitVec 22)
  | ldwp (m : Fm) (off : BitVec 4)
  | ldwpMx (m : Fm) (off : BitVec 22)
  | qtok (la : BitVec 4) (tk : BitVec 3)
  -- queues, team barriers and cross-lane instructions (08)
  | qpushP (d : Code) (p : PredRef)
  | qdepth (d a : Code)
  | tbar (a : Code) (ra : Bool)
  | lgetAbs (f : FQ)
  | lgetBelow (f : FQ)
  | lgetAbove (f : FQ)
  | lgetBfly (f : FQ)
  | pollEvery (pd : BitVec 3) (p : PredRef) (j : BitVec 4)
  | pollSome (pd : BitVec 3) (p : PredRef) (j : BitVec 4)
  | pollMask (d : Code) (p : PredRef) (j : BitVec 4)
  | lead (pd : BitVec 3) (j : BitVec 4)
  | lfold (d a : Code) (j : BitVec 4) (m : XlMod)
  | lsame (d a : Code) (j : BitVec 4) (all : Bool) (la : BitVec 4) (tk : BitVec 3)
  | tlp (f : FQ)
  -- matrix and cluster (11)
  | mmaBf16 (m : MmaOp)
  | mmaF16 (m : MmaOp)
  | mmaE4m3 (m : MmaOp)
  | mmaE5m2 (m : MmaOp)
  | mmaE2m1 (m : MmaOp)
  | mmaVq2 (m : MmaOp)
  | mmaI8 (m : MmaOp)
  | mld (x : XferOp)
  | mst (x : XferOp)
  | mdrain (x : DrainOp)
  | cbld (x : TableOp)
  | actld (x : TableOp)
  | mzero (a : Code) (ra : Bool)
  | mwait
  | mtree (a b : Code) (ra rb : Bool)
  | mepi (a : Code) (ra : Bool) (wmask : BitVec 5)
  | cbarArrive (a : Code) (ra : Bool)
  | cbarWait (a : Code) (ra : Bool)
  | cbarArriveWait (a : Code) (ra : Bool)
  -- engine instructions (14)
  | push (x : PushOp)
  | gset (g : BitVec 4)
  | gclr (g : BitVec 4)
  | barinit (a b : Code) (ra rb : Bool)
  | bararr (a b : Code) (ra rb : Bool)
  | barwait (x : BarwaitOp)
  -- system instructions (17)
  | trap (a : Code) (ra : Bool)
  | cclean (a b : Code) (ra rb : Bool)
  | pclass (a b : Code) (ra rb : Bool)
  | rtt
  | halt
  | sleep (a : Code) (ra : Bool)
  | rdsr (d : Code) (n : BitVec 11)
  | wrsr (a : Code) (n : BitVec 11)
  -- events of the core: a slot, or a pending operation and the home positions it writes
  | arbitration (slot : Nat)
  | loadComplete (op : Nat) (lanes : Word)
  | queueFill (op : Nat) (lanes : Word)
  | storeComplete (op : Nat)
  | atomicComplete (op : Nat) (lanes : Word)
  | qtokProduce (op : Nat) (lanes : Word)
  | returnStackRefill (slot : Nat)
  | sfuComplete (op : Nat) (lanes : Word)
  | xrdComplete (op : Nat) (lanes : Word)
  | xscanComplete (op : Nat) (lanes : Word)
  | lfoldComplete (op : Nat) (lanes : Word)
  | pushComplete (op : Nat) (lanes : Word)
  | barwaitPerformed (op : Nat)
  | sleepWake (gid : Nat)
  | transitResume (gid : Nat)
  | queueDeadlock (gid : Nat)
  | watchdog (gid : Nat)
  -- events of a quad: an entry or a pass
  | passReady (entry : Nat)
  | passGrant (quad : Nat)
  | passPromotion (entry : Nat)
  | passComplete (pass : Nat)
  | mzeroEntry (entry : Nat)
  | mtreeEntry (entry : Nat)
  | mldEntry (entry : Nat)
  | mstEntry (entry : Nat)
  | mdrainEntry (entry : Nat)
  | tableLoadComplete (entry : Nat)
  | blockWaitRelease (entry : Nat)
  -- engine queues: the queue, then the command at its head
  | guardConsume (q : Nat)
  | copy (q : Nat) (bar src dst len : Dword)
  | fill (q : Nat) (bar dst len : Dword) (pattern : BitVec 128)
  | tile (q : Nat) (c : TileCmd)
  | tileadd (q : Nat) (c : TileCmd)
  | gather (q : Nat) (bar src idx dst pitch : Dword) (count rowbytes : Word)
  | kvcommit (q : Nat) (bar stage cache lenaddr maskaddr : Dword) (entbytes : Word) (nslots : BitVec 8) (cap : Word)
  | signal (q : Nat) (bar addr value : Dword) (mode : BitVec 8) (decr : Dword)
  | vread (q : Nat) (bar shape dst : Dword) (trows tcols : BitVec 16) (vout : Dword)
  | move (q : Nat) (bar vaddr : Dword) (vf : BitVec 6) (dtier : BitVec 2) (frame : Dword)
  | wssnap (q : Nat) (bar dst : Dword) (len : Word) (vf : BitVec 6)
  | put (q : Nat) (c : FabCmd)
  | get (q : Nat) (c : FabCmd)
  | send (q : Nat) (c : FabCmd)
  | atomic (q : Nat) (c : FabCmd)
  | reduceput (q : Nat) (c : FabCmd)
  | colljoin (q : Nat) (c : FabCmd)
  | collleave (q : Nat) (c : FabCmd)
  -- packets, at the port they entered by (144: injected by this package)
  | putData (port : Nat) (p : Packet)
  | getRequest (port : Nat) (p : Packet)
  | sendPacket (port : Nat) (p : Packet)
  | atomicPacket (port : Nat) (p : Packet)
  | reduceputPacket (port : Nat) (p : Packet)
  | joinPacket (port : Nat) (p : Packet)
  | leavePacket (port : Nat) (p : Packet) (lost : Bool)
  | ack (port : Nat) (p : Packet)
  | nack (port : Nat) (p : Packet)
  | getData (port : Nat) (p : Packet)
  | atomicResult (port : Nat) (p : Packet)
  | fabricCommandComplete (cmd : Nat)
  | escape (port vc : Nat)
  | linkRetry (port seq : Nat)
  | linkDown (port : Nat)
  | linkRetrain (port : Nat)
  | memberLost (node vf : Nat)
  -- the memory system
  | orderedAccess (op : Nat)
  | drain (granule : Nat)
  | readonlyInvalidation (granule : Nat)
  | earlyClean (line : Nat)
  | directoryEccError (line : Nat) (classifier : Bool)
  | walkComplete (walk : Nat)
  | atsCompletion (fn page : Nat) (answer : AtsAnswer)
  | priResponse (fn page : Nat) (answer : PriAnswer)
  | atsInvalidate (fn page pages : Nat)
  | hostRequest (addr : Nat) (access : HostAccess)
  | snoop (line : Nat) (invalidate : Bool)
  -- launches and scheduling
  | sqtail (fn q tail : Nat)
  | launch (fn q : Nat)
  | signalEntry (fn q : Nat)
  | residencyGate (part dq : Nat)
  | carouselPlace (launch die : Nat)
  | fallbackPlacement (launch die : Nat)
  | launchComplete (launch : Nat)
  | submissionComplete (sub : Nat)
  | schedulingDecision (part : Nat)
  | quantumEnd (gang : Nat)
  | tick (part : Nat)
  | resumeInPlace (gang : Nat)
  | wsSweep (fn : Nat)
  | powerSample (watts : Nat)
  | relockEnd (die : Nat)
  | partCreate
  | partDestroy
  | partResize
  | partMode
  | coreRemove
  | vfBind
  | tlbInvalidate (fn : Nat)
  | invalidationDone (fn : Nat)
  | resume (fn seq : Nat)
  | kill (fn seq : Nat)
  | faultRecordAppend (fn : Nat)
  | registerWrite (fn off value : Nat)
  | llcTagError (channel way : Nat)
  | uncontainedError
  | coldReset
  | pfFlr
  | vfFlr (fn : Nat)
  | powerGate (die : Nat)
  | firmwareViolation (management : Bool) (clamp addr : Nat)
  | linkTrained (port : Nat)
  | forwardedPacket (port vc : Nat) (t : PacketType) (p : Packet) (room : Bool)
  deriving DecidableEq, Repr

end Sys2Proof
end

