-- ==== Sys2Proof/WellFormed.lean ====
section
/-! DEFINITION. Which instructions have an encoding: every value that the opcode map calls reserved is excluded here
(03 R80 to R83, R98). What an operand code may name is judged when the instruction issues (03 R99). -/

namespace Sys2Proof

open Sys2Proof.Machine (RMode)

/-- TK = 7 is reserved (03 R80). -/
def tkOk (tk : BitVec 3) : Bool := tk != 7

/-- A predicate source used as COND: p0 negated is reserved (03 R80). -/
def condOk (c : PredRef) : Bool := c != 8

/-- OFF4 of a short form: 0b1000 calls for an extension word (03 R80, Table 3.3). -/
def shortOff (o : BitVec 4) : Bool := o != 8

/-- The elements that a 32-bit register holds in a format of 06 Table 6.4. -/
def elementCount (f : BitVec 4) : Nat :=
  if f = 1 ∨ f = 2 then 2 else if f = 3 ∨ f = 4 then 4 else if f = 5 then 8 else 1

/-- A format that FTZ or .sr may name (06 R160). -/
def isF32Half (f : BitVec 4) : Bool := f == 0 || f == 1 || f == 2

/-- A floating format narrower than 32 bits (06 R159). -/
def isNarrowFloat (f : BitVec 4) : Bool := f == 1 || f == 2 || f == 3 || f == 4 || f == 5

/-- The CVX values that FCVT accepts (06 R160). -/
def fcvtOk (m : CvMod) : Bool :=
  m.sfmt != m.dfmt && decide (m.sfmt.toNat < 14) && decide (m.dfmt.toNat < 14) &&
  decide (m.selem.toNat < elementCount m.sfmt) && decide (m.delem.toNat < elementCount m.dfmt) &&
  decide (m.rnd.toNat ≤ 4) && (m.rnd != 4 || isNarrowFloat m.dfmt) &&
  (!m.ftz || isF32Half m.sfmt || isF32Half m.dfmt)

/-- The CVX values that PACK2 accepts (06 R161). -/
def pack2Ok (m : CvMod) : Bool :=
  m.sfmt == 0 && (m.dfmt == 1 || m.dfmt == 2) && m.selem == 0 && m.delem == 0 && decide (m.rnd.toNat ≤ 4)

/-- The CVX values that UNPACK2 accepts (06 R162). -/
def unpack2Ok (m : CvMod) : Bool :=
  m.dfmt == 0 && isNarrowFloat m.sfmt && !m.selem.getLsbD 0 && decide (m.selem.toNat < elementCount m.sfmt) &&
  m.rnd == 0 && !m.sat && m.delem == 0 && (!m.ftz || m.sfmt == 1 || m.sfmt == 2)

/-- The MX values of LD, LDS and LDC; `win` is accepted by LDS only (08 R224). -/
def loadMxOk (win : Bool) (x : MxMod) : Bool :=
  decide (x.size.toNat ≤ 4) && (!x.sx || decide (x.size.toNat ≤ 1)) &&
  (!x.win || (win && (x.size == 2 || x.size == 3)))

/-- The MX values of ST, STS and STC (08 R224). -/
def storeMxOk (win : Bool) (x : MxMod) : Bool := !x.sx && loadMxOk win x

/-- SCALE, RS, CS, CSEL and TSEL of an MMA (11 R292). -/
def mmaOk (scales vq2 : Bool) (m : MmaOp) : Bool :=
  tkOk m.tk && (!m.scale || scales) && (m.scale || (m.rs == 0 && m.cs == 0 && m.csel == 0)) &&
  (m.tsel == 0 || vq2)

/-- The instruction has an encoding (03 R98); commands, packets and events are bound by no opcode map. -/
def Instr.wf : Instr → Bool
  | .mulhiIt _ m | .divIt _ m | .remIt _ m | .minIt _ m | .maxIt _ m => !m.sat
  | .absIt _ m => m.signed
  | .lea _ h => h != 3
  | .dpxDotForms _ op _ sa sb _ => op != .sad || sa == sb
  | .icmp _ _ _ _ _ cmp _ _ bop _ => decide (cmp.toNat < 6) && bop != 3
  | .fcmp _ _ _ _ _ _ bop _ _ => bop != 3
  | .fadd _ m | .fsub _ m | .fmul _ m | .fmac _ m | .frnd _ m | .fscale _ m => m != .rd
  | .frndFmod _ m => !m.sat && !m.negB
  | .fscaleFmod _ m => !m.negB
  | .fcvt _ m => fcvtOk m
  | .pack2Cvx _ m => pack2Ok m
  | .unpack2Cvx _ m => unpack2Ok m
  | .fexp2 _ m | .flog2 _ m | .fsin _ m | .fcos _ m | .ftanh _ m => m.rnd == .rn && tkOk m.tk
  | .frcp _ m | .frsqrt _ m | .fsqrt _ m | .fdiv _ m => tkOk m.tk
  | .xrd _ _ m => m.fmt != 3 && !m.incl && tkOk m.tk
  | .xscan _ _ _ _ m => m.fmt != 3 && tkOk m.tk
  | .bra c _ | .call c _ => condOk c
  | .ld m o | .st m o | .lds m o | .sts m o | .ldc m o | .stc m o | .ldwp m o => tkOk m.tk && shortOff o
  | .ldMx m x | .ldcMx m x => tkOk m.tk && loadMxOk false x
  | .ldsMx m x => tkOk m.tk && loadMxOk true x
  | .stMx m x | .stcMx m x => tkOk m.tk && storeMxOk false x
  | .stsMx m x => tkOk m.tk && storeMxOk true x
  | .ldwpMx m _ => tkOk m.tk
  | .atom m _ x => tkOk m.tk && (!x.signed || x.aop == 1 || x.aop == 2) && (x.aop == 7 || x.e == 0x78)
  | .fatom m _ _ _ => tkOk m.tk
  | .pref _ _ tk o => tkOk tk && shortOff o
  | .prefMx _ _ tk _ => tkOk tk
  | .qtok _ tk => tkOk tk
  | .lfold _ _ _ m => decide (m.rop.toNat < 6) && (!m.signed || m.rop == 1 || m.rop == 2) && tkOk m.tk
  | .lsame _ _ _ _ _ tk => tkOk tk
  | .mmaBf16 m | .mmaF16 m | .mmaI8 m => mmaOk false false m
  | .mmaE4m3 m | .mmaE5m2 m | .mmaE2m1 m => mmaOk true false m
  | .mmaVq2 m => mmaOk true true m
  | .mld x | .mst x => tkOk x.tk
  | .mdrain x => tkOk x.tk
  | .cbld x | .actld x => tkOk x.tk
  | .mepi _ _ w => w != 0
  | .push x => tkOk x.tk
  | .barwait x => tkOk x.tk
  | _ => true

end Sys2Proof
end

