-- ==== Sys2Proof/Decode.lean ====
section
/-! DEFINITION. The decoder of instruction words and of 64-byte commands, and the encoders (03 R79 to R85, R96;
14 R362, R366; 16 Table 16.4; 20 R505). -/

namespace Sys2Proof

open Sys2Proof.Machine

/-- Why a word is no instruction. -/
inductive DecodeError where
  /-- Fewer bytes than the instruction has. -/
  | truncated
  /-- An opcode that 03 Table 3.9 leaves unassigned, or the tag of a header. -/
  | unassigned
  /-- A minor form that is reserved (03 R95). -/
  | reservedForm
  /-- An extension word of a kind that the instruction does not accept (03 R82). -/
  | badKind
  /-- A reserved bit that is set, or a reuse bit of a position that is not read (03 R85, R98). -/
  | reservedBits
  /-- A reserved value of a field, or a modifier that is not accepted (03 R83, R98). -/
  | reservedField
  /-- An operand field that the instruction does not use and that does not hold 0x78 (03 R85). -/
  | unusedField
  /-- A team-register number of 0x10 or above (05 R137). -/
  | badTeamRegister
  /-- A command whose OP is unknown or whose reserved bytes are not zero (14 R362). -/
  | badCommand
  deriving DecidableEq, Repr

/-- The error raises ILLEGAL_OPERAND and not ILLEGAL_OPCODE (03 R85, R98; 05 R137). -/
def DecodeError.isOperand : DecodeError → Bool
  | .unusedField | .badTeamRegister => true
  | _ => false

/-! Fields of an instruction word (03 R79). -/

/-- OP. -/
def fOp (w : Word) : BitVec 7 := w.extractLsb' 25 7
/-- D, T of FM. -/
def fD (w : Word) : Code := w.extractLsb' 18 7
/-- A, BASE of FM. -/
def fA (w : Word) : Code := w.extractLsb' 11 7
/-- B. -/
def fB (w : Word) : Code := w.extractLsb' 4 7
/-- RA. -/
def fRA (w : Word) : Bool := w.getLsbD 3
/-- RB. -/
def fRB (w : Word) : Bool := w.getLsbD 2
/-- M. -/
def fM (w : Word) : BitVec 2 := w.extractLsb' 0 2
/-- IMM11 of FI. -/
def fImm11 (w : Word) : BitVec 11 := w.extractLsb' 0 11
/-- IMM18 of FL. -/
def fImm18 (w : Word) : BitVec 18 := w.extractLsb' 0 18
/-- COND of FB. -/
def fCond (w : Word) : BitVec 4 := w.extractLsb' 21 4
/-- OFF21 of FB. -/
def fOff21 (w : Word) : BitVec 21 := w.extractLsb' 0 21
/-- LA of FM. -/
def fLaFM (w : Word) : BitVec 4 := w.extractLsb' 7 4
/-- TK of FM, FMM and FP. -/
def fTK (w : Word) : BitVec 3 := w.extractLsb' 4 3
/-- OFF4 of FM, J of FQ, LA of FMM and FP. -/
def fLow4 (w : Word) : BitVec 4 := w.extractLsb' 0 4
/-- A of FMM. -/
def fAmm (w : Word) : Code := w.extractLsb' 18 7
/-- BK of FMM. -/
def fBK (w : Word) : BitVec 5 := w.extractLsb' 13 5
/-- DK of FMM. -/
def fDK (w : Word) : BitVec 5 := w.extractLsb' 8 5
/-- REUSEA of FMM. -/
def fReuseA (w : Word) : Bool := w.getLsbD 7
/-- KIND of an extension word (03 R82). -/
def fKind (x : Word) : BitVec 5 := x.extractLsb' 27 5

/-! Packing, field by field, highest first (03 R79). -/

/-- A one-bit field. -/
abbrev bit (b : Bool) : BitVec 1 := BitVec.ofBool b

/-- Format F3. -/
def packF3 (op d a b : BitVec 7) (ra rb : Bool) (m : BitVec 2) : Word := op ++ d ++ a ++ b ++ bit ra ++ bit rb ++ m
/-- Format FI. -/
def packFI (op d a : BitVec 7) (i : BitVec 11) : Word := op ++ d ++ a ++ i
/-- Format FL. -/
def packFL (op d : BitVec 7) (i : BitVec 18) : Word := op ++ d ++ i
/-- Format FM. -/
def packFM (op t b : BitVec 7) (la : BitVec 4) (tk : BitVec 3) (o : BitVec 4) : Word := op ++ t ++ b ++ la ++ tk ++ o
/-- Format FB. -/
def packFB (op : BitVec 7) (c : BitVec 4) (o : BitVec 21) : Word := op ++ c ++ o
/-- Format FQ. -/
def packFQ (op d a b : BitVec 7) (j : BitVec 4) : Word := op ++ d ++ a ++ b ++ j
/-- Format FMM. -/
def packFMM (op a : BitVec 7) (bk dk : BitVec 5) (r : Bool) (tk : BitVec 3) (la : BitVec 4) : Word :=
  op ++ a ++ bk ++ dk ++ bit r ++ tk ++ la
/-- Format FP. -/
def packFP (op : BitVec 7) (q : BitVec 6) (kb : Bool) (g : BitVec 4) (f : BitVec 3) (tk : BitVec 3) (la : BitVec 4) : Word :=
  op ++ q ++ bit kb ++ g ++ f ++ (0 : BitVec 4) ++ tk ++ la

/-- An operand field that is not used (03 R85). -/
def unusedCode : Code := 0x78

/-- An extension word follows (03 Table 3.3). -/
def hasExt (w : Word) : Bool :=
  let op := (fOp w).toNat
  let f3 := op ∈ [0x00, 0x01, 0x03, 0x04, 0x05, 0x06, 0x07, 0x08, 0x09, 0x0A, 0x0B, 0x0C, 0x0D, 0x0E, 0x0F, 0x11, 0x13,
    0x14, 0x15, 0x16, 0x17, 0x18, 0x19, 0x1A, 0x1B, 0x1C, 0x1F] || (0x20 ≤ op && op ≤ 0x3F) ||
    op ∈ [0x42, 0x44, 0x45, 0x46, 0x4A, 0x4B, 0x5C, 0x6E, 0x6F, 0x71, 0x72, 0x73, 0x74, 0x78, 0x79]
  if f3 then fM w == 3
  else if op = 0x56 ∨ op = 0x57 then true
  else if 0x50 ≤ op ∧ op ≤ 0x59 then fLow4 w == 8
  else if 0x64 ≤ op ∧ op ≤ 0x6D then true
  else op == 0x62

/-- The outcome of a parse whose reserved bits are clear: reserved values before unused fields (03 R99). -/
def fin (i : Instr) (unused : Bool) : Except DecodeError Instr :=
  if i.wf then (if unused then .ok i else .error .unusedField) else .error .reservedField

/-- Reserved bits before everything else. -/
def chk (clear : Bool) (k : Except DecodeError Instr) : Except DecodeError Instr :=
  if clear then k else .error .reservedBits

/-- An extension word of the kind `k` whose low `n` bits are reserved (03 R82). -/
def ext (x : Word) (k : BitVec 5) (reserved : Nat) (body : Except DecodeError Instr) : Except DecodeError Instr :=
  if fKind x = k then chk (x.toNat % 2 ^ reserved == 0) body else .error .badKind

/-- D, A, B and the reuse bits. -/
def f3Of (w : Word) : F3 := ⟨fD w, fA w, fB w, fRA w, fRB w⟩
/-- D, A and its reuse bit. -/
def f2Of (w : Word) : F2 := ⟨fD w, fA w, fRA w⟩
/-- D, A and IMM11. -/
def fiOf (w : Word) : FI := ⟨fD w, fA w, fImm11 w⟩
/-- D, A, B and J. -/
def fqOf (w : Word) : FQ := ⟨fD w, fA w, fB w, fLow4 w⟩
/-- T, BASE, LA and TK. -/
def fmOf (w : Word) : Fm := ⟨fD w, fA w, fLaFM w, fTK w⟩

/-- A rounding code (02 Table 2.6). -/
def rmodeOf (b : BitVec 2) : RMode := if b = 0 then .rn else if b = 1 then .rz else if b = 2 then .ru else .rd
/-- The code of a rounding mode. -/
def rmodeBits : RMode → BitVec 2
  | .rn => 0 | .rz => 1 | .ru => 2 | .rd => 3

/-- Fields of the IT word. -/
def itOf (x : Word) : ItMod := ⟨x.extractLsb' 25 2, x.getLsbD 24, x.getLsbD 23⟩
/-- Fields of the FMOD word. -/
def fmodOf (x : Word) : FMod := ⟨rmodeOf (x.extractLsb' 25 2), x.getLsbD 24, x.getLsbD 23, x.getLsbD 22, x.getLsbD 21⟩
/-- Fields of the HMOD word below FMT. -/
def hmodOf (x : Word) : FMod := ⟨rmodeOf (x.extractLsb' 24 2), x.getLsbD 23, x.getLsbD 22, x.getLsbD 21, x.getLsbD 20⟩
/-- Modifiers of the FCX word. -/
def fcxOf (x : Word) : FcMod :=
  ⟨rmodeOf (x.extractLsb' 18 2), x.getLsbD 17, x.getLsbD 16, x.getLsbD 15, x.getLsbD 14, x.getLsbD 13⟩
/-- Modifiers of the HCX word. -/
def hcxOf (x : Word) : FcMod :=
  ⟨rmodeOf (x.extractLsb' 17 2), x.getLsbD 16, x.getLsbD 15, x.getLsbD 14, x.getLsbD 13, x.getLsbD 12⟩
/-- Fields of the CVX word. -/
def cvxOf (x : Word) : CvMod :=
  ⟨x.extractLsb' 23 4, x.extractLsb' 19 4, x.extractLsb' 16 3, x.getLsbD 15, x.getLsbD 14, x.extractLsb' 11 3,
    x.extractLsb' 8 3⟩
/-- Fields of the SFX word. -/
def sfxOf (x : Word) : SfMod :=
  ⟨rmodeOf (x.extractLsb' 25 2), x.getLsbD 24, x.extractLsb' 20 4, x.extractLsb' 17 3⟩
/-- Fields of the ABX word below OPSEL. -/
def abxOf (x : Word) : AbMod :=
  ⟨x.extractLsb' 24 2, rmodeOf (x.extractLsb' 22 2), x.getLsbD 21, x.getLsbD 20, x.extractLsb' 16 4, x.extractLsb' 13 3⟩
/-- Fields of the MX word. -/
def mxOf (x : Word) : MxMod := ⟨x.extractLsb' 24 3, x.getLsbD 23, x.getLsbD 22, x.extractLsb' 0 22⟩
/-- Fields of the AX word. -/
def axOf (x : Word) : AxMod :=
  ⟨x.extractLsb' 24 3, x.getLsbD 23, x.getLsbD 22, x.extractLsb' 15 7, x.extractLsb' 8 7⟩
/-- Fields of an MMA and its MMX word. -/
def mmaOf (w x : Word) : MmaOp :=
  ⟨fAmm w, fBK w, fDK w, fReuseA w, fTK w, fLow4 w, x.extractLsb' 23 4, x.getLsbD 22, x.extractLsb' 16 6,
    x.extractLsb' 10 6, x.extractLsb' 8 2, x.extractLsb' 6 2, x.getLsbD 5⟩

/-! The minor-form classes of 03 Table 3.8. -/

/-- Class T. -/
def decT (w x : Word) (short : F3 → Bool → Instr) (long : F3 → ItMod → Instr) : Except DecodeError Instr :=
  match fM w with
  | 0 => fin (short (f3Of w) true) true
  | 1 => fin (short (f3Of w) false) true
  | 2 => .error .reservedForm
  | _ => ext x 0x00 23 (fin (long (f3Of w) (itOf x)) true)

/-- Class R with A and B. -/
def decR (w x : Word) (short : F3 → RMode → Instr) (long : F3 → FMod → Instr) : Except DecodeError Instr :=
  match fM w with
  | 3 => ext x 0x01 21 (fin (long (f3Of w) (fmodOf x)) true)
  | m => fin (short (f3Of w) (rmodeOf m)) true

/-- Class H. -/
def decH (w x : Word) (short : F3 → Bool → Instr) (long : F3 → Bool → FMod → Instr) : Except DecodeError Instr :=
  match fM w with
  | 0 => fin (short (f3Of w) false) true
  | 1 => fin (short (f3Of w) true) true
  | 2 => .error .reservedForm
  | _ => ext x 0x02 20 (fin (long (f3Of w) (x.getLsbD 26) (hmodOf x)) true)

/-- Class X: only M = 0b11. -/
def decX (w : Word) (k : Except DecodeError Instr) : Except DecodeError Instr :=
  if fM w = 3 then k else .error .reservedForm

/-- Class Z: only M = 0b00. -/
def decZ (w : Word) (k : Except DecodeError Instr) : Except DecodeError Instr :=
  if fM w = 0 then k else .error .reservedForm

/-- A form with A only: RB clear and B unused. -/
def onlyA (w : Word) (i : F2 → Instr) : Except DecodeError Instr :=
  chk (!fRB w) (fin (i (f2Of w)) (fB w == unusedCode))

/-- A form with A only and no D. -/
def onlySrc (w : Word) (i : Code → Bool → Instr) : Except DecodeError Instr :=
  chk (!fRB w) (fin (i (fA w) (fRA w)) (fD w == unusedCode && fB w == unusedCode))

/-- A form with A and B and no D. -/
def twoSrc (w : Word) (i : Code → Code → Bool → Bool → Instr) : Except DecodeError Instr :=
  fin (i (fA w) (fB w) (fRA w) (fRB w)) (fD w == unusedCode)

/-- A form with no operand. -/
def noOperand (w : Word) (i : Instr) : Except DecodeError Instr :=
  chk (!fRA w && !fRB w) (fin i (fD w == unusedCode && fA w == unusedCode && fB w == unusedCode))

/-- PAND, POR and PXOR (05 R135). -/
def predForm (w : Word) (i : BitVec 3 → PredRef → PredRef → Instr) : Except DecodeError Instr :=
  chk (!fRA w && !fRB w && (fD w).extractLsb' 3 4 == 0 && (fA w).extractLsb' 4 3 == 0 && (fB w).extractLsb' 4 3 == 0)
    (fin (i ((fD w).extractLsb' 0 3) ((fA w).extractLsb' 0 4) ((fB w).extractLsb' 0 4)) true)

/-- An abacus field (06 R166). -/
def abacusOk (c : Code) : Bool := c.extractLsb' 2 5 == 0
/-- The accumulator that an abacus field names. -/
def abacusOf (c : Code) : BitVec 2 := c.extractLsb' 0 2

/-- A special function with A only (06 R163). -/
def decSF (w x : Word) (i : F2 → SfMod → Instr) : Except DecodeError Instr :=
  decX w (chk (!fRB w) (ext x 0x0E 17 (fin (i (f2Of w) (sfxOf x)) (fB w == unusedCode))))

/-- A memory instruction with a short and an MX form (08 R224). -/
def decFM (w x : Word) (short : Fm → BitVec 4 → Instr) (long : Fm → MxMod → Instr) : Except DecodeError Instr :=
  if fLow4 w = 8 then ext x 0x10 0 (fin (long (fmOf w) (mxOf x)) true)
  else fin (short (fmOf w) (fLow4 w)) true

/-- An MMA (11 R292). -/
def decMma (w x : Word) (i : MmaOp → Instr) : Except DecodeError Instr :=
  ext x 0x13 5 (fin (i (mmaOf w x)) true)

/-- MLD and MST (11 R289, R301). -/
def decXfer (w x : Word) (i : XferOp → Instr) : Except DecodeError Instr :=
  let sp : BitVec 2 := x.extractLsb' 25 2
  let mk (s : XferSpace) : Instr := i ⟨s, fDK w, fTK w, fLow4 w, x.extractLsb' 20 5⟩
  chk (!fReuseA w && x.extractLsb' 0 20 == 0)
    (if sp = 0 then chk (fBK w == 0) (fin (mk (.reg (fAmm w))) true)
     else if sp = 1 then fin (mk (.global (fBK w))) (fAmm w == unusedCode)
     else if sp = 2 then fin (mk (.scratch (fBK w))) (fAmm w == unusedCode)
     else .error .reservedField)

/-- CBLD and ACTLD (11 R306). -/
def decTable (w x : Word) (i : TableOp → Instr) : Except DecodeError Instr :=
  chk (!fReuseA w && fDK w == 0 && x.extractLsb' 0 25 == 0)
    (fin (i ⟨fBK w, fTK w, fLow4 w, x.extractLsb' 25 2⟩) (fAmm w == unusedCode))

/-- POLL and LEAD (08 R247). -/
def decPoll (w : Word) : Except DecodeError Instr :=
  let form : BitVec 2 := w.extractLsb' 9 2
  let p : PredRef := w.extractLsb' 4 4
  let dOk := (fD w).extractLsb' 3 4 == 0
  let aOk := fA w == unusedCode
  let pd : BitVec 3 := (fD w).extractLsb' 0 3
  chk (!w.getLsbD 8)
    (if form = 0 then chk dOk (fin (.pollEvery pd p (fLow4 w)) aOk)
     else if form = 1 then chk dOk (fin (.pollSome pd p (fLow4 w)) aOk)
     else if form = 2 then fin (.pollMask (fD w) p (fLow4 w)) aOk
     else chk (dOk && p == 0) (fin (.lead pd (fLow4 w)) aOk))

/-- LFOLD and LSAME (08 R248). -/
def decXlx (w x : Word) : Except DecodeError Instr :=
  let la : BitVec 4 := x.extractLsb' 18 4
  let tk : BitVec 3 := x.extractLsb' 15 3
  let rop : BitVec 3 := x.extractLsb' 23 3
  ext x 0x12 15
    (if x.getLsbD 26 then
      (if x.getLsbD 22 || decide (rop.toNat > 1) then .error .reservedField
       else fin (.lsame (fD w) (fA w) (fLow4 w) (rop == 1) la tk) (fB w == unusedCode))
     else fin (.lfold (fD w) (fA w) (fLow4 w) ⟨rop, x.getLsbD 22, la, tk⟩) (fB w == unusedCode))

/-- Opcodes 0x00 to 0x1F (05). -/
def decodeInt (w x : Word) : Except DecodeError Instr :=
  match (fOp w).toNat with
  | 0x00 => decT w x .add .addIt
  | 0x01 => decT w x .sub .subIt
  | 0x02 => fin (.addImm (fiOf w)) true
  | 0x03 => decX w (ext x 0x03 19
      (if x.getLsbD 26 then fin (.subb (f3Of w) (x.extractLsb' 22 4) (x.extractLsb' 19 3)) true
       else fin (.addc (f3Of w) (x.extractLsb' 22 4) (x.extractLsb' 19 3)) true))
  | 0x04 => decT w x .mul .mulIt
  | 0x05 => decT w x .mulhi .mulhiIt
  | 0x06 => decX w (ext x 0x04 18 (fin (.mad (f3Of w) (x.extractLsb' 20 7) (x.getLsbD 19) (x.getLsbD 18)) true))
  | 0x07 => decX w (ext x 0x04 19 (fin (.madw (f3Of w) (x.extractLsb' 20 7) (x.getLsbD 19)) true))
  | 0x08 => decT w x .div .divIt
  | 0x09 => decT w x .rem .remIt
  | 0x0A => decT w x .min .minIt
  | 0x0B => decT w x .max .maxIt
  | 0x0C =>
    (match fM w with
     | 0 => onlyA w .abs
     | 3 => chk (!fRB w) (ext x 0x00 23 (fin (.absIt (f2Of w) (itOf x)) (fB w == unusedCode)))
     | _ => .error .reservedForm)
  | 0x0D =>
    (match fM w with
     | 0 => fin (.and (f3Of w)) true
     | 1 => fin (.or (f3Of w)) true
     | 2 => fin (.xor (f3Of w)) true
     | _ => .error .reservedForm)
  | 0x0E =>
    (match fM w with
     | 0 => fin (.andn (f3Of w)) true
     | 1 => onlyA w .not
     | _ => .error .reservedForm)
  | 0x0F =>
    (match fM w with
     | 0 => fin (.shl (f3Of w)) true
     | 1 => fin (.shr (f3Of w)) true
     | 2 => fin (.sar (f3Of w)) true
     | _ => .error .reservedForm)
  | 0x10 =>
    chk (w.extractLsb' 5 4 == 0)
      (match w.extractLsb' 9 2 with
       | 0 => fin (.shlImm (fD w) (fA w) (w.extractLsb' 0 5)) true
       | 1 => fin (.shrImm (fD w) (fA w) (w.extractLsb' 0 5)) true
       | 2 => fin (.sarImm (fD w) (fA w) (w.extractLsb' 0 5)) true
       | _ => fin (.rotImm (fD w) (fA w) (w.extractLsb' 0 5)) true)
  | 0x11 =>
    (match fM w with
     | 0 => fin (.rot (f3Of w)) true
     | 1 => onlyA w .brev
     | _ => .error .reservedForm)
  | 0x12 => fin (.promaImm (fiOf w)) true
  | 0x13 =>
    (match fM w with
     | 0 => fin (.bfe (f3Of w) false) true
     | 1 => fin (.bfe (f3Of w) true) true
     | 2 => .error .reservedForm
     | _ => ext x 0x05 18
        (if x.getLsbD 26 then fin (.shf (f3Of w) (x.extractLsb' 19 7) (x.getLsbD 18)) true
         else if x.getLsbD 18 then .error .reservedField else fin (.bfi (f3Of w) (x.extractLsb' 19 7)) true))
  | 0x14 =>
    (match fM w with
     | 0 => onlyA w .popc
     | 1 => onlyA w .clz
     | 2 => onlyA w .ctz
     | _ => .error .reservedForm)
  | 0x15 =>
    (match fM w with
     | 0 => fin (.proma (f3Of w)) true
     | 1 => onlyA w .promv
     | _ => .error .reservedForm)
  | 0x16 =>
    (match fM w with
     | 3 => ext x 0x06 23 (fin (.leaLx (f3Of w) (x.extractLsb' 24 3) (x.getLsbD 23)) true)
     | h => fin (.lea (f3Of w) h) true)
  | 0x17 =>
    (match fM w with
     | 0 => fin (.add64 (f3Of w)) true
     | 1 => fin (.sub64 (f3Of w)) true
     | 2 => fin (.shl64 (f3Of w)) true
     | _ => .error .reservedForm)
  | 0x18 =>
    (match fM w with
     | 0 => fin (.sad (f3Of w)) true
     | 1 => fin (.dp4a (f3Of w)) true
     | 2 => fin (.dp2a (f3Of w)) true
     | _ => ext x 0x07 15
        (match x.extractLsb' 25 2 with
         | 0 => fin (.dpxDotForms (f3Of w) .sad (x.extractLsb' 18 7) (x.getLsbD 17) (x.getLsbD 16) (x.getLsbD 15)) true
         | 1 => fin (.dpxDotForms (f3Of w) .dp4a (x.extractLsb' 18 7) (x.getLsbD 17) (x.getLsbD 16) (x.getLsbD 15)) true
         | 2 => fin (.dpxDotForms (f3Of w) .dp2a (x.extractLsb' 18 7) (x.getLsbD 17) (x.getLsbD 16) (x.getLsbD 15)) true
         | _ => .error .reservedField))
  | 0x19 => decX w (ext x 0x08 22 (fin (.sel (f3Of w) (x.extractLsb' 23 4) (x.getLsbD 22)) true))
  | 0x1A => decX w (chk ((fD w).extractLsb' 3 4 == 0) (ext x 0x09 15
      (fin (.icmp ((fD w).extractLsb' 0 3) (fA w) (fB w) (fRA w) (fRB w) (x.extractLsb' 24 3) (x.extractLsb' 22 2)
        (x.getLsbD 21) (x.extractLsb' 19 2) (x.extractLsb' 15 4)) true)))
  | 0x1B =>
    (match fM w with
     | 0 => predForm w .pand
     | 1 => predForm w .por
     | 2 => predForm w .pxor
     | _ => .error .reservedForm)
  | 0x1C =>
    (match fM w with
     | 0 => onlyA w .mov
     | 1 => chk (!fRA w && !fRB w)
        (if (fB w).extractLsb' 4 3 = 0 then fin (.movmRead (fD w) ((fB w).extractLsb' 0 4)) (fA w == unusedCode)
         else .error .badTeamRegister)
     | 2 => chk (!fRB w)
        (if (fB w).extractLsb' 4 3 = 0 then fin (.movmWrite (fA w) ((fB w).extractLsb' 0 4) (fRA w)) (fD w == unusedCode)
         else .error .badTeamRegister)
     | _ => .error .reservedForm)
  | 0x1D => fin (.movi (fD w) (fImm18 w)) true
  | 0x1E => fin (.movhi (fD w) (fImm18 w)) true
  | 0x1F =>
    (match fM w with
     | 0 => onlyA w .demoteFirst
     | 1 => onlyA w .demoteChk
     | 2 => onlyA w .demoteaChk
     | _ => .error .reservedForm)
  | _ => .error .unassigned

/-- Opcodes 0x20 to 0x3F (06). -/
def decodeFloat (w x : Word) : Except DecodeError Instr :=
  match (fOp w).toNat with
  | 0x20 => decR w x .fadd .faddFmod
  | 0x21 => decR w x .fsub .fsubFmod
  | 0x22 => decR w x .fmul .fmulFmod
  | 0x23 => decX w (ext x 0x0A 13 (fin (.ffma (f3Of w) (x.extractLsb' 20 7) (fcxOf x)) true))
  | 0x24 => decR w x .fmac .fmacFmod
  | 0x25 =>
    (match fM w with
     | 0 => fin (.fmin (f3Of w) false) true
     | 1 => fin (.fmin (f3Of w) true) true
     | _ => .error .reservedForm)
  | 0x26 =>
    (match fM w with
     | 0 => fin (.fmax (f3Of w) false) true
     | 1 => fin (.fmax (f3Of w) true) true
     | _ => .error .reservedForm)
  | 0x27 => decZ w (onlyA w .fneg)
  | 0x28 => decX w (chk ((fD w).extractLsb' 3 4 == 0) (ext x 0x0B 17
      (fin (.fcmp ((fD w).extractLsb' 0 3) (fA w) (fB w) (fRA w) (fRB w) (x.extractLsb' 24 3) (x.extractLsb' 22 2)
        (x.extractLsb' 18 4) (x.getLsbD 17)) true)))
  | 0x29 => decZ w (onlyA w .fclass)
  | 0x2A => decH w x .hadd2 .hadd2Hmod
  | 0x2B => decH w x .hmul2 .hmul2Hmod
  | 0x2C => decX w (ext x 0x0C 12 (fin (.hfma2 (f3Of w) (x.getLsbD 26) (x.extractLsb' 19 7) (hcxOf x)) true))
  | 0x2D =>
    (match fM w with
     | 0 => fin (.hmax2 (f3Of w) false) true
     | 1 => fin (.hmax2 (f3Of w) true) true
     | _ => .error .reservedForm)
  | 0x2E => decX w (chk (!fRB w) (ext x 0x0D 8 (fin (.fcvt (f2Of w) (cvxOf x)) (fB w == unusedCode))))
  | 0x2F =>
    (match fM w with
     | 3 => chk (!fRB w) (ext x 0x01 21 (fin (.frndFmod (f2Of w) (fmodOf x)) (fB w == unusedCode)))
     | m => onlyA w (fun f => .frnd f (rmodeOf m)))
  | 0x30 => decR w x .fscale .fscaleFmod
  | 0x31 => decSF w x .fexp2
  | 0x32 => decSF w x .flog2
  | 0x33 => decSF w x .frcp
  | 0x34 => decSF w x .frsqrt
  | 0x35 => decSF w x .fsqrt
  | 0x36 => decX w (ext x 0x0E 17 (fin (.fdiv (f3Of w) (sfxOf x)) true))
  | 0x37 => decSF w x .fsin
  | 0x38 => decSF w x .fcos
  | 0x39 => decSF w x .ftanh
  | 0x3A =>
    (match fM w with
     | 0 => fin (.pack2 (f3Of w) false) true
     | 1 => fin (.pack2 (f3Of w) true) true
     | 2 => .error .reservedForm
     | _ => ext x 0x0D 8 (fin (.pack2Cvx (f3Of w) (cvxOf x)) true))
  | 0x3B =>
    (match fM w with
     | 0 => onlyA w (fun f => .unpack2 f false)
     | 1 => onlyA w (fun f => .unpack2 f true)
     | 2 => .error .reservedForm
     | _ => chk (!fRB w) (ext x 0x0D 8 (fin (.unpack2Cvx (f2Of w) (cvxOf x)) (fB w == unusedCode))))
  | 0x3C =>
    (match fM w with
     | 0 => chk (!fRA w && !fRB w && abacusOk (fD w))
        (fin (.xclr (abacusOf (fD w))) (fA w == unusedCode && fB w == unusedCode))
     | 1 => chk (!fRA w && !fRB w && abacusOk (fD w) && abacusOk (fA w))
        (fin (.xmov (abacusOf (fD w)) (abacusOf (fA w))) (fB w == unusedCode))
     | _ => .error .reservedForm)
  | 0x3D =>
    (match fM w with
     | 0 => chk (!fRB w && abacusOk (fD w)) (fin (.xadd (abacusOf (fD w)) (fA w) (fRA w) false) (fB w == unusedCode))
     | 1 => chk (!fRB w && abacusOk (fD w)) (fin (.xadd (abacusOf (fD w)) (fA w) (fRA w) true) (fB w == unusedCode))
     | _ => .error .reservedForm)
  | 0x3E => decZ w (chk (abacusOk (fD w)) (fin (.xfma (abacusOf (fD w)) (fA w) (fB w) (fRA w) (fRB w)) true))
  | 0x3F => decX w (chk (!fRA w && abacusOk (fA w)) (ext x 0x0F 13
      (if x.getLsbD 26 then fin (.xscan (fD w) (abacusOf (fA w)) (fB w) (fRB w) (abxOf x)) true
       else chk (!fRB w) (fin (.xrd (fD w) (abacusOf (fA w)) (abxOf x)) (fB w == unusedCode)))))
  | _ => .error .unassigned

/-- Opcodes 0x40 to 0x63 (08). -/
def decodeCore (w x : Word) : Except DecodeError Instr :=
  match (fOp w).toNat with
  | 0x40 => fin (.bra (fCond w) (fOff21 w)) true
  | 0x41 => chk ((fCond w).extractLsb' 0 3 == 0) (fin (.brq ((fCond w).getLsbD 3) (fOff21 w)) true)
  | 0x42 => decZ w (onlySrc w .jmp)
  | 0x43 => fin (.call (fCond w) (fOff21 w)) true
  | 0x44 => decZ w (onlySrc w .callr)
  | 0x45 => decZ w (noOperand w .ret)
  | 0x46 => decZ w (noOperand w .exit)
  | 0x47 => fin (.armj (fD w) (fA w) (fLow4 w)) (fB w == unusedCode)
  | 0x48 => fin (.join (fLow4 w)) (fD w == unusedCode && fA w == unusedCode && fB w == unusedCode)
  | 0x49 => fin (.waitj (fLow4 w)) (fD w == unusedCode && fA w == unusedCode && fB w == unusedCode)
  | 0x4A => decZ w (noOperand w .yield)
  | 0x4B => decZ w (noOperand w .nop)
  | 0x4C => fin (.bpt (fImm11 w)) (fD w == unusedCode && fA w == unusedCode)
  | 0x50 => decFM w x .ld .ldMx
  | 0x51 => decFM w x .st .stMx
  | 0x52 => decFM w x .lds .ldsMx
  | 0x53 => decFM w x .sts .stsMx
  | 0x54 => decFM w x .ldc .ldcMx
  | 0x55 => decFM w x .stc .stcMx
  | 0x56 => ext x 0x11 8
      (let cas := (axOf x).aop == 7
       fin (.atom (fmOf w) (fLow4 w) (if cas then axOf x else { axOf x with e := unusedCode })) (cas || (axOf x).e == unusedCode))
  | 0x57 => ext x 0x11 8
      (if x.extractLsb' 22 2 = 0 ∧ x.extractLsb' 25 2 = 0 then
        fin (.fatom (fmOf w) (fLow4 w) (x.getLsbD 24) (x.extractLsb' 15 7)) (x.extractLsb' 8 7 == unusedCode)
       else .error .reservedField)
  | 0x58 =>
    if fLow4 w = 8 then
      ext x 0x10 0
        (if x.extractLsb' 22 5 = 0 then
          fin (.prefMx (fA w) (fLaFM w) (fTK w) (x.extractLsb' 0 22)) (fD w == unusedCode)
         else .error .reservedField)
    else fin (.pref (fA w) (fLaFM w) (fTK w) (fLow4 w)) (fD w == unusedCode)
  | 0x59 =>
    if fLow4 w = 8 then
      ext x 0x10 0
        (if x.extractLsb' 22 5 = 0b01100 then fin (.ldwpMx (fmOf w) (x.extractLsb' 0 22)) true
         else .error .reservedField)
    else fin (.ldwp (fmOf w) (fLow4 w)) true
  | 0x5A => chk (fLow4 w == 0) (fin (.qtok (fLaFM w) (fTK w)) (fD w == 0x77 && fA w == unusedCode))
  | 0x5C =>
    (match fM w with
     | 0 => chk (!fRA w && !fRB w && (fA w).extractLsb' 4 3 == 0)
        (fin (.qpushP (fD w) ((fA w).extractLsb' 0 4)) (fB w == unusedCode))
     | 1 => chk (!fRA w && !fRB w) (fin (.qdepth (fD w) (fA w)) (fB w == unusedCode))
     | 2 => onlySrc w .tbar
     | _ => .error .reservedForm)
  | 0x5D => fin (.lgetAbs (fqOf w)) true
  | 0x5E => fin (.lgetBelow (fqOf w)) true
  | 0x5F => fin (.lgetAbove (fqOf w)) true
  | 0x60 => fin (.lgetBfly (fqOf w)) true
  | 0x61 => decPoll w
  | 0x62 => decXlx w x
  | 0x63 => fin (.tlp (fqOf w)) true
  | _ => .error .unassigned

/-- Opcodes 0x64 to 0x7B (11, 14, 17). -/
def decodeSystem (w x : Word) : Except DecodeError Instr :=
  match (fOp w).toNat with
  | 0x64 => decMma w x .mmaBf16
  | 0x65 => decMma w x .mmaF16
  | 0x66 => decMma w x .mmaE4m3
  | 0x67 => decMma w x .mmaE5m2
  | 0x68 => decMma w x .mmaE2m1
  | 0x69 => decMma w x .mmaVq2
  | 0x6A => decMma w x .mmaI8
  | 0x6B =>
    if fKind x = 0x14 then decXfer w x .mld else if fKind x = 0x15 then decXfer w x .mst else .error .badKind
  | 0x6C => chk (!fReuseA w) (ext x 0x16 12
      (fin (.mdrain ⟨fBK w, fDK w, fTK w, fLow4 w, x.extractLsb' 23 4, x.getLsbD 22, x.extractLsb' 18 4, x.getLsbD 17,
        x.extractLsb' 12 5⟩) (fAmm w == unusedCode)))
  | 0x6D =>
    if fKind x = 0x17 then decTable w x .cbld else if fKind x = 0x18 then decTable w x .actld else .error .badKind
  | 0x6E =>
    (match fM w with
     | 0 => onlySrc w .mzero
     | 1 => noOperand w .mwait
     | 2 => twoSrc w .mtree
     | _ => chk (!fRB w) (ext x 0x19 22
        (fin (.mepi (fA w) (fRA w) (x.extractLsb' 22 5)) (fD w == unusedCode && fB w == unusedCode))))
  | 0x6F =>
    (match fM w with
     | 0 => onlySrc w .cbarArrive
     | 1 => onlySrc w .cbarWait
     | 2 => onlySrc w .cbarArriveWait
     | _ => .error .reservedForm)
  | 0x70 => chk (w.extractLsb' 7 4 == 0)
      (fin (.push ⟨w.extractLsb' 19 6, w.getLsbD 18, w.extractLsb' 14 4, w.extractLsb' 11 3, fTK w, fLow4 w⟩) true)
  | 0x71 =>
    (match fM w with
     | 0 => chk (!fRA w && !fRB w && (fA w).extractLsb' 4 3 == 0)
        (fin (.gset ((fA w).extractLsb' 0 4)) (fD w == unusedCode && fB w == unusedCode))
     | 1 => chk (!fRA w && !fRB w && (fA w).extractLsb' 4 3 == 0)
        (fin (.gclr ((fA w).extractLsb' 0 4)) (fD w == unusedCode && fB w == unusedCode))
     | _ => .error .reservedForm)
  | 0x72 => decZ w (twoSrc w .barinit)
  | 0x73 => decZ w (twoSrc w .bararr)
  | 0x74 => decX w (chk (!fRB w) (ext x 0x1A 13
      (fin (.barwait ⟨fD w, fA w, fRA w, x.extractLsb' 20 7, x.extractLsb' 16 4, x.extractLsb' 13 3⟩) (fB w == unusedCode))))
  | 0x78 =>
    (match fM w with
     | 0 => onlySrc w .trap
     | 1 => twoSrc w .cclean
     | 2 => twoSrc w .pclass
     | _ => .error .reservedForm)
  | 0x79 =>
    (match fM w with
     | 0 => noOperand w .rtt
     | 1 => noOperand w .halt
     | 2 => onlySrc w .sleep
     | _ => .error .reservedForm)
  | 0x7A => fin (.rdsr (fD w) (fImm11 w)) (fA w == unusedCode)
  | 0x7B => fin (.wrsr (fA w) (fImm11 w)) (fD w == unusedCode)
  | _ => .error .unassigned

/-- The instruction of a word and the word that follows it (03 R96). -/
def decodeWords (w x : Word) : Except DecodeError Instr :=
  if (fOp w).toNat < 0x20 then decodeInt w x
  else if (fOp w).toNat < 0x40 then decodeFloat w x
  else if (fOp w).toNat < 0x64 then decodeCore w x
  else decodeSystem w x

/-- The instruction at the head of a byte list, with the bytes that follow it (00 R6; 03 R81). -/
def decodeBytes (bs : List Byte) : Except DecodeError (Instr × List Byte) :=
  if bs.length < 4 then .error .truncated
  else
    let w := wordOfBytes bs
    if hasExt w then
      (if bs.length < 8 then .error .truncated
       else (decodeWords w (wordOfBytes (bs.drop 4))).map (fun i => (i, bs.drop 8)))
    else (decodeWords w 0).map (fun i => (i, bs.drop 4))

/-- The instruction of `nbits` table bits; every later bit is zero. -/
def decodeTableWord (nbits w : Nat) : Option Instr :=
  match decodeBytes (bytesOfNat (nbits / 8) w ++ bytesOfNat (8 - nbits / 8) 0) with
  | .ok (i, _) => some i
  | .error _ => none

/-! The encoder. -/

/-- F3 with its own operand fields. -/
def encF3 (op : BitVec 7) (f : F3) (m : BitVec 2) : Word := packF3 op f.d f.a f.b f.ra f.rb m
/-- F3 with B unused. -/
def encF2 (op : BitVec 7) (f : F2) (m : BitVec 2) : Word := packF3 op f.d f.a unusedCode f.ra false m
/-- F3 with only A. -/
def encA (op : BitVec 7) (a : Code) (ra : Bool) (m : BitVec 2) : Word := packF3 op unusedCode a unusedCode ra false m
/-- F3 with A and B. -/
def encAB (op : BitVec 7) (a b : Code) (ra rb : Bool) (m : BitVec 2) : Word := packF3 op unusedCode a b ra rb m
/-- F3 with no operand. -/
def encZ (op : BitVec 7) (m : BitVec 2) : Word := packF3 op unusedCode unusedCode unusedCode false false m
/-- A destination predicate field (05 R116). -/
def predD (p : BitVec 3) : Code := (0 : BitVec 4) ++ p
/-- A source predicate field (05 R116). -/
def predS (p : PredRef) : Code := (0 : BitVec 3) ++ p
/-- An abacus field (06 R166). -/
def abacusC (x : BitVec 2) : Code := (0 : BitVec 5) ++ x

/-- The IT word. -/
def encIt (m : ItMod) : Word := (0x00 : BitVec 5) ++ m.width ++ bit m.signed ++ bit m.sat ++ (0 : BitVec 23)
/-- The FMOD word. -/
def encFmod (m : FMod) : Word :=
  (0x01 : BitVec 5) ++ rmodeBits m.rnd ++ bit m.ftz ++ bit m.sat ++ bit m.negA ++ bit m.negB ++ (0 : BitVec 21)
/-- The HMOD word. -/
def encHmod (bf : Bool) (m : FMod) : Word :=
  (0x02 : BitVec 5) ++ bit bf ++ rmodeBits m.rnd ++ bit m.ftz ++ bit m.sat ++ bit m.negA ++ bit m.negB ++ (0 : BitVec 20)
/-- The CYX word. -/
def encCyx (sub : Bool) (cin : PredRef) (cout : BitVec 3) : Word := (0x03 : BitVec 5) ++ bit sub ++ cin ++ cout ++ (0 : BitVec 19)
/-- The IX word. -/
def encIx (c : Code) (signed sat : Bool) : Word := (0x04 : BitVec 5) ++ c ++ bit signed ++ bit sat ++ (0 : BitVec 18)
/-- The BFX word. -/
def encBfx (shf : Bool) (c : Code) (dir : Bool) : Word := (0x05 : BitVec 5) ++ bit shf ++ c ++ bit dir ++ (0 : BitVec 18)
/-- The DPX word. -/
def encDpx (op : DotOp) (c : Code) (sa sb sat : Bool) : Word :=
  (0x07 : BitVec 5) ++ (match op with | .sad => (0 : BitVec 2) | .dp4a => 1 | .dp2a => 2) ++ c ++ bit sa ++ bit sb ++
    bit sat ++ (0 : BitVec 15)
/-- The FCX word. -/
def encFcx (c : Code) (m : FcMod) : Word :=
  (0x0A : BitVec 5) ++ c ++ rmodeBits m.rnd ++ bit m.ftz ++ bit m.sat ++ bit m.negA ++ bit m.negB ++ bit m.negC ++ (0 : BitVec 13)
/-- The HCX word. -/
def encHcx (bf : Bool) (c : Code) (m : FcMod) : Word :=
  (0x0C : BitVec 5) ++ bit bf ++ c ++ rmodeBits m.rnd ++ bit m.ftz ++ bit m.sat ++ bit m.negA ++ bit m.negB ++ bit m.negC ++
    (0 : BitVec 12)
/-- The CVX word. -/
def encCvx (m : CvMod) : Word :=
  (0x0D : BitVec 5) ++ m.dfmt ++ m.sfmt ++ m.rnd ++ bit m.ftz ++ bit m.sat ++ m.selem ++ m.delem ++ (0 : BitVec 8)
/-- The SFX word. -/
def encSfx (m : SfMod) : Word := (0x0E : BitVec 5) ++ rmodeBits m.rnd ++ bit m.ftz ++ m.la ++ m.tk ++ (0 : BitVec 17)
/-- The ABX word. -/
def encAbx (scan : Bool) (m : AbMod) : Word :=
  (0x0F : BitVec 5) ++ bit scan ++ m.fmt ++ rmodeBits m.rnd ++ bit m.sat ++ bit m.incl ++ m.la ++ m.tk ++ (0 : BitVec 13)
/-- The MX word. -/
def encMx (x : MxMod) : Word := (0x10 : BitVec 5) ++ x.size ++ bit x.sx ++ bit x.win ++ x.off
/-- The AX word. -/
def encAx (x : AxMod) : Word := (0x11 : BitVec 5) ++ x.aop ++ bit x.w64 ++ bit x.signed ++ x.c ++ x.e ++ (0 : BitVec 8)
/-- The XLX word. -/
def encXlx (same : Bool) (rop : BitVec 3) (signed : Bool) (la : BitVec 4) (tk : BitVec 3) : Word :=
  (0x12 : BitVec 5) ++ bit same ++ rop ++ bit signed ++ la ++ tk ++ (0 : BitVec 15)
/-- The MMX word. -/
def encMmx (m : MmaOp) : Word :=
  (0x13 : BitVec 5) ++ m.epi ++ bit m.scale ++ m.rs ++ m.cs ++ m.csel ++ m.tsel ++ bit m.bsp ++ (0 : BitVec 5)
/-- The FMM word of an MMA. -/
def encMma (op : BitVec 7) (m : MmaOp) : List Word := [packFMM op m.a m.bk m.dk m.reusea m.tk m.la, encMmx m]
/-- The words of an MLD or MST. -/
def encXfer (kind : BitVec 5) (x : XferOp) : List Word :=
  match x.space with
  | .reg a => [packFMM 0x6B a 0 x.dk false x.tk x.la, kind ++ (0 : BitVec 2) ++ x.nrows ++ (0 : BitVec 20)]
  | .global k => [packFMM 0x6B unusedCode k x.dk false x.tk x.la, kind ++ (1 : BitVec 2) ++ x.nrows ++ (0 : BitVec 20)]
  | .scratch k => [packFMM 0x6B unusedCode k x.dk false x.tk x.la, kind ++ (2 : BitVec 2) ++ x.nrows ++ (0 : BitVec 20)]
/-- The words of a CBLD or ACTLD. -/
def encTable (kind : BitVec 5) (x : TableOp) : List Word :=
  [packFMM 0x6D unusedCode x.bk 0 false x.tk x.la, kind ++ x.tsel ++ (0 : BitVec 25)]
/-- Format FM of a memory instruction. -/
def encFM (op : BitVec 7) (m : Fm) (o : BitVec 4) : Word := packFM op m.t m.base m.la m.tk o

/-- The words of an instruction of the opcode map; commands, packets and events have none (03 R79 to R83). -/
def encode : Instr → List Word
  | .add f s => [encF3 0x00 f (if s then 0 else 1)]
  | .addIt f m => [encF3 0x00 f 3, encIt m]
  | .addImm f => [packFI 0x02 f.d f.a f.imm]
  | .sub f s => [encF3 0x01 f (if s then 0 else 1)]
  | .subIt f m => [encF3 0x01 f 3, encIt m]
  | .addc f ci co => [encF3 0x03 f 3, encCyx false ci co]
  | .subb f ci co => [encF3 0x03 f 3, encCyx true ci co]
  | .mul f s => [encF3 0x04 f (if s then 0 else 1)]
  | .mulIt f m => [encF3 0x04 f 3, encIt m]
  | .mulhi f s => [encF3 0x05 f (if s then 0 else 1)]
  | .mulhiIt f m => [encF3 0x05 f 3, encIt m]
  | .mad f c s sat => [encF3 0x06 f 3, encIx c s sat]
  | .madw f c s => [encF3 0x07 f 3, encIx c s false]
  | .div f s => [encF3 0x08 f (if s then 0 else 1)]
  | .divIt f m => [encF3 0x08 f 3, encIt m]
  | .rem f s => [encF3 0x09 f (if s then 0 else 1)]
  | .remIt f m => [encF3 0x09 f 3, encIt m]
  | .min f s => [encF3 0x0A f (if s then 0 else 1)]
  | .minIt f m => [encF3 0x0A f 3, encIt m]
  | .max f s => [encF3 0x0B f (if s then 0 else 1)]
  | .maxIt f m => [encF3 0x0B f 3, encIt m]
  | .abs f => [encF2 0x0C f 0]
  | .absIt f m => [encF2 0x0C f 3, encIt m]
  | .and f => [encF3 0x0D f 0]
  | .or f => [encF3 0x0D f 1]
  | .xor f => [encF3 0x0D f 2]
  | .andn f => [encF3 0x0E f 0]
  | .not f => [encF2 0x0E f 1]
  | .shl f => [encF3 0x0F f 0]
  | .shr f => [encF3 0x0F f 1]
  | .sar f => [encF3 0x0F f 2]
  | .shlImm d a n => [packFI 0x10 d a ((0 : BitVec 2) ++ (0 : BitVec 4) ++ n)]
  | .shrImm d a n => [packFI 0x10 d a ((1 : BitVec 2) ++ (0 : BitVec 4) ++ n)]
  | .sarImm d a n => [packFI 0x10 d a ((2 : BitVec 2) ++ (0 : BitVec 4) ++ n)]
  | .rotImm d a n => [packFI 0x10 d a ((3 : BitVec 2) ++ (0 : BitVec 4) ++ n)]
  | .rot f => [encF3 0x11 f 0]
  | .brev f => [encF2 0x11 f 1]
  | .promaImm f => [packFI 0x12 f.d f.a f.imm]
  | .bfe f s => [encF3 0x13 f (if s then 1 else 0)]
  | .bfi f c => [encF3 0x13 f 3, encBfx false c false]
  | .shf f c r => [encF3 0x13 f 3, encBfx true c r]
  | .popc f => [encF2 0x14 f 0]
  | .clz f => [encF2 0x14 f 1]
  | .ctz f => [encF2 0x14 f 2]
  | .proma f => [encF3 0x15 f 0]
  | .promv f => [encF2 0x15 f 1]
  | .lea f h => [encF3 0x16 f h]
  | .leaLx f sh s => [encF3 0x16 f 3, (0x06 : BitVec 5) ++ sh ++ bit s ++ (0 : BitVec 23)]
  | .add64 f => [encF3 0x17 f 0]
  | .sub64 f => [encF3 0x17 f 1]
  | .shl64 f => [encF3 0x17 f 2]
  | .sad f => [encF3 0x18 f 0]
  | .dp4a f => [encF3 0x18 f 1]
  | .dp2a f => [encF3 0x18 f 2]
  | .dpxDotForms f op c sa sb sat => [encF3 0x18 f 3, encDpx op c sa sb sat]
  | .sel f p w => [encF3 0x19 f 3, (0x08 : BitVec 5) ++ p ++ bit w ++ (0 : BitVec 22)]
  | .icmp pd a b ra rb cmp width s bop pc =>
    [packF3 0x1A (predD pd) a b ra rb 3,
      (0x09 : BitVec 5) ++ cmp ++ width ++ bit s ++ bop ++ pc ++ (0 : BitVec 15)]
  | .pand pd a b => [packF3 0x1B (predD pd) (predS a) (predS b) false false 0]
  | .por pd a b => [packF3 0x1B (predD pd) (predS a) (predS b) false false 1]
  | .pxor pd a b => [packF3 0x1B (predD pd) (predS a) (predS b) false false 2]
  | .mov f => [encF2 0x1C f 0]
  | .movmRead d n => [packF3 0x1C d unusedCode (predS n) false false 1]
  | .movmWrite a n ra => [packF3 0x1C unusedCode a (predS n) ra false 2]
  | .movi d i => [packFL 0x1D d i]
  | .movhi d i => [packFL 0x1E d i]
  | .demoteFirst f => [encF2 0x1F f 0]
  | .demoteChk f => [encF2 0x1F f 1]
  | .demoteaChk f => [encF2 0x1F f 2]
  | .fadd f m => [encF3 0x20 f (rmodeBits m)]
  | .faddFmod f m => [encF3 0x20 f 3, encFmod m]
  | .fsub f m => [encF3 0x21 f (rmodeBits m)]
  | .fsubFmod f m => [encF3 0x21 f 3, encFmod m]
  | .fmul f m => [encF3 0x22 f (rmodeBits m)]
  | .fmulFmod f m => [encF3 0x22 f 3, encFmod m]
  | .ffma f c m => [encF3 0x23 f 3, encFcx c m]
  | .fmac f m => [encF3 0x24 f (rmodeBits m)]
  | .fmacFmod f m => [encF3 0x24 f 3, encFmod m]
  | .fmin f n => [encF3 0x25 f (if n then 1 else 0)]
  | .fmax f n => [encF3 0x26 f (if n then 1 else 0)]
  | .fneg f => [encF2 0x27 f 0]
  | .fcmp pd a b ra rb cmp bop pc ftz =>
    [packF3 0x28 (predD pd) a b ra rb 3, (0x0B : BitVec 5) ++ cmp ++ bop ++ pc ++ bit ftz ++ (0 : BitVec 17)]
  | .fclass f => [encF2 0x29 f 0]
  | .hadd2 f b => [encF3 0x2A f (if b then 1 else 0)]
  | .hadd2Hmod f b m => [encF3 0x2A f 3, encHmod b m]
  | .hmul2 f b => [encF3 0x2B f (if b then 1 else 0)]
  | .hmul2Hmod f b m => [encF3 0x2B f 3, encHmod b m]
  | .hfma2 f b c m => [encF3 0x2C f 3, encHcx b c m]
  | .hmax2 f b => [encF3 0x2D f (if b then 1 else 0)]
  | .fcvt f m => [encF2 0x2E f 3, encCvx m]
  | .frnd f m => [encF2 0x2F f (rmodeBits m)]
  | .frndFmod f m => [encF2 0x2F f 3, encFmod m]
  | .fscale f m => [encF3 0x30 f (rmodeBits m)]
  | .fscaleFmod f m => [encF3 0x30 f 3, encFmod m]
  | .fexp2 f m => [encF2 0x31 f 3, encSfx m]
  | .flog2 f m => [encF2 0x32 f 3, encSfx m]
  | .frcp f m => [encF2 0x33 f 3, encSfx m]
  | .frsqrt f m => [encF2 0x34 f 3, encSfx m]
  | .fsqrt f m => [encF2 0x35 f 3, encSfx m]
  | .fdiv f m => [encF3 0x36 f 3, encSfx m]
  | .fsin f m => [encF2 0x37 f 3, encSfx m]
  | .fcos f m => [encF2 0x38 f 3, encSfx m]
  | .ftanh f m => [encF2 0x39 f 3, encSfx m]
  | .pack2 f b => [encF3 0x3A f (if b then 1 else 0)]
  | .pack2Cvx f m => [encF3 0x3A f 3, encCvx m]
  | .unpack2 f b => [encF2 0x3B f (if b then 1 else 0)]
  | .unpack2Cvx f m => [encF2 0x3B f 3, encCvx m]
  | .xclr x => [packF3 0x3C (abacusC x) unusedCode unusedCode false false 0]
  | .xmov xd xs => [packF3 0x3C (abacusC xd) (abacusC xs) unusedCode false false 1]
  | .xadd x a ra b => [packF3 0x3D (abacusC x) a unusedCode ra false (if b then 1 else 0)]
  | .xfma x a b ra rb => [packF3 0x3E (abacusC x) a b ra rb 0]
  | .xrd d x m => [packF3 0x3F d (abacusC x) unusedCode false false 3, encAbx false m]
  | .xscan d x b rb m => [packF3 0x3F d (abacusC x) b false rb 3, encAbx true m]
  | .bra c o => [packFB 0x40 c o]
  | .brq n o => [packFB 0x41 (bit n ++ (0 : BitVec 3)) o]
  | .jmp a ra => [encA 0x42 a ra 0]
  | .call c o => [packFB 0x43 c o]
  | .callr a ra => [encA 0x44 a ra 0]
  | .ret => [encZ 0x45 0]
  | .exit => [encZ 0x46 0]
  | .armj d a j => [packFQ 0x47 d a unusedCode j]
  | .join j => [packFQ 0x48 unusedCode unusedCode unusedCode j]
  | .waitj j => [packFQ 0x49 unusedCode unusedCode unusedCode j]
  | .yield => [encZ 0x4A 0]
  | .nop => [encZ 0x4B 0]
  | .bpt i => [packFI 0x4C unusedCode unusedCode i]
  | .ld m o => [encFM 0x50 m o]
  | .ldMx m x => [encFM 0x50 m 8, encMx x]
  | .st m o => [encFM 0x51 m o]
  | .stMx m x => [encFM 0x51 m 8, encMx x]
  | .lds m o => [encFM 0x52 m o]
  | .ldsMx m x => [encFM 0x52 m 8, encMx x]
  | .sts m o => [encFM 0x53 m o]
  | .stsMx m x => [encFM 0x53 m 8, encMx x]
  | .ldc m o => [encFM 0x54 m o]
  | .ldcMx m x => [encFM 0x54 m 8, encMx x]
  | .stc m o => [encFM 0x55 m o]
  | .stcMx m x => [encFM 0x55 m 8, encMx x]
  | .atom m o x => [encFM 0x56 m o, encAx x]
  | .fatom m o b c => [encFM 0x57 m o, encAx ⟨if b then 1 else 0, false, false, c, unusedCode⟩]
  | .pref b la tk o => [packFM 0x58 unusedCode b la tk o]
  | .prefMx b la tk o => [packFM 0x58 unusedCode b la tk 8, encMx ⟨0, false, false, o⟩]
  | .ldwp m o => [encFM 0x59 m o]
  | .ldwpMx m o => [encFM 0x59 m 8, encMx ⟨3, false, false, o⟩]
  | .qtok la tk => [packFM 0x5A 0x77 unusedCode la tk 0]
  | .qpushP d p => [packF3 0x5C d (predS p) unusedCode false false 0]
  | .qdepth d a => [packF3 0x5C d a unusedCode false false 1]
  | .tbar a ra => [encA 0x5C a ra 2]
  | .lgetAbs f => [packFQ 0x5D f.d f.a f.b f.j]
  | .lgetBelow f => [packFQ 0x5E f.d f.a f.b f.j]
  | .lgetAbove f => [packFQ 0x5F f.d f.a f.b f.j]
  | .lgetBfly f => [packFQ 0x60 f.d f.a f.b f.j]
  | .pollEvery pd p j => [packFQ 0x61 (predD pd) unusedCode ((0 : BitVec 2) ++ (0 : BitVec 1) ++ p) j]
  | .pollSome pd p j => [packFQ 0x61 (predD pd) unusedCode ((1 : BitVec 2) ++ (0 : BitVec 1) ++ p) j]
  | .pollMask d p j => [packFQ 0x61 d unusedCode ((2 : BitVec 2) ++ (0 : BitVec 1) ++ p) j]
  | .lead pd j => [packFQ 0x61 (predD pd) unusedCode ((3 : BitVec 2) ++ (0 : BitVec 5)) j]
  | .lfold d a j m => [packFQ 0x62 d a unusedCode j, encXlx false m.rop m.signed m.la m.tk]
  | .lsame d a j all la tk => [packFQ 0x62 d a unusedCode j, encXlx true (if all then 1 else 0) false la tk]
  | .tlp f => [packFQ 0x63 f.d f.a f.b f.j]
  | .mmaBf16 m => encMma 0x64 m
  | .mmaF16 m => encMma 0x65 m
  | .mmaE4m3 m => encMma 0x66 m
  | .mmaE5m2 m => encMma 0x67 m
  | .mmaE2m1 m => encMma 0x68 m
  | .mmaVq2 m => encMma 0x69 m
  | .mmaI8 m => encMma 0x6A m
  | .mld x => encXfer 0x14 x
  | .mst x => encXfer 0x15 x
  | .mdrain x =>
    [packFMM 0x6C unusedCode x.bk x.dk false x.tk x.la,
      (0x16 : BitVec 5) ++ x.ch ++ bit x.tileadd ++ x.epi ++ bit x.int ++ x.nrows ++ (0 : BitVec 12)]
  | .cbld x => encTable 0x17 x
  | .actld x => encTable 0x18 x
  | .mzero a ra => [encA 0x6E a ra 0]
  | .mwait => [encZ 0x6E 1]
  | .mtree a b ra rb => [encAB 0x6E a b ra rb 2]
  | .mepi a ra w => [encA 0x6E a ra 3, (0x19 : BitVec 5) ++ w ++ (0 : BitVec 22)]
  | .cbarArrive a ra => [encA 0x6F a ra 0]
  | .cbarWait a ra => [encA 0x6F a ra 1]
  | .cbarArriveWait a ra => [encA 0x6F a ra 2]
  | .push x => [packFP 0x70 x.qid x.kb x.guard x.flagp x.tk x.la]
  | .gset g => [packF3 0x71 unusedCode (predS g) unusedCode false false 0]
  | .gclr g => [packF3 0x71 unusedCode (predS g) unusedCode false false 1]
  | .barinit a b ra rb => [encAB 0x72 a b ra rb 0]
  | .bararr a b ra rb => [encAB 0x73 a b ra rb 0]
  | .barwait x => [packF3 0x74 x.d x.a unusedCode x.ra false 3, (0x1A : BitVec 5) ++ x.e ++ x.la ++ x.tk ++ (0 : BitVec 13)]
  | .trap a ra => [encA 0x78 a ra 0]
  | .cclean a b ra rb => [encAB 0x78 a b ra rb 1]
  | .pclass a b ra rb => [encAB 0x78 a b ra rb 2]
  | .rtt => [encZ 0x79 0]
  | .halt => [encZ 0x79 1]
  | .sleep a ra => [encA 0x79 a ra 2]
  | .rdsr d n => [packFI 0x7A d unusedCode n]
  | .wrsr a n => [packFI 0x7B unusedCode a n]
  | _ => []

/-- The instruction has an encoding of words. -/
def Instr.encoded (i : Instr) : Bool := !(encode i).isEmpty

/-- Words of an instruction with its extension word (03 R81). -/
def Instr.words (i : Instr) : Nat := (encode i).length

/-- The bytes of an instruction as memory holds them (00 R6). -/
def encodeBytes (i : Instr) : List Byte := (encode i).flatMap bytesOfWord

/-! Commands of engine queues (14 R362, R366; 16 Table 16.4; 20 R505). -/

/-- `n` zero bytes at offset `o`. -/
def zeroAt (bs : List Byte) (o n : Nat) : Bool := natAt bs o n == 0

/-- A 64-bit field of a command. -/
def dwordAt (bs : List Byte) (o : Nat) : Dword := BitVec.ofNat 64 (natAt bs o 8)

/-- The fabric fields (20 Table 20.5). -/
def fabOf (bs : List Byte) : FabCmd :=
  let dest := BitVec.ofNat 32 (natAt bs 0x10 4)
  ⟨dwordAt bs 8, dest.extractLsb' 0 12, dest.extractLsb' 16 6, dest.extractLsb' 22 2, BitVec.ofNat 32 (natAt bs 0x14 4),
    dwordAt bs 0x18, dwordAt bs 0x20, dwordAt bs 0x28, dwordAt bs 0x30, dwordAt bs 0x38⟩

/-- TILE, TILEADD: `drained` tells a command that an MDRAIN appended (14 R373). -/
def tileOf (bs : List Byte) (drained : Bool) (mk : TileCmd → Instr) : Except DecodeError Instr :=
  if zeroAt bs 0x28 24 && zeroAt bs 0x24 2 && (if drained then true else zeroAt bs 0x26 2) then
    .ok (mk ⟨dwordAt bs 8, dwordAt bs 0x10, dwordAt bs 0x18, BitVec.ofNat 16 (natAt bs 0x20 2),
      BitVec.ofNat 16 (natAt bs 0x22 2), drained, BitVec.ofNat 2 (natAt bs 0x26 1)⟩)
  else .error .badCommand

/-- The command of 64 bytes at the head of queue `q`; `kind` is 0 for a copy queue, 1 for a fabric queue, 2 for yq. -/
def decodeCommand (q kind : Nat) (drained : Bool) (bs : List Byte) : Except DecodeError Instr :=
  let op := natAt bs 0 1
  let ok (zero : Bool) (i : Instr) : Except DecodeError Instr :=
    if zeroAt bs 1 7 && zero then .ok i else .error .badCommand
  let fab (mk : Nat → FabCmd → Instr) : Except DecodeError Instr :=
    ok ((natAt bs 0x10 4).testBit 12 == false && (natAt bs 0x10 4 / 4096) % 16 == 0 && zeroAt bs 0x13 1) (mk q (fabOf bs))
  if kind = 0 then
    (match op with
     | 0x01 => ok (zeroAt bs 0x28 24) (.copy q (dwordAt bs 8) (dwordAt bs 0x10) (dwordAt bs 0x18) (dwordAt bs 0x20))
     | 0x02 => ok (zeroAt bs 0x30 16)
        (.fill q (dwordAt bs 8) (dwordAt bs 0x10) (dwordAt bs 0x18) (BitVec.ofNat 128 (natAt bs 0x20 16)))
     | 0x03 => if zeroAt bs 1 7 then tileOf bs drained (.tile q) else .error .badCommand
     | 0x04 => if zeroAt bs 1 7 then tileOf bs drained (.tileadd q) else .error .badCommand
     | 0x05 => ok (zeroAt bs 0x38 8)
        (.gather q (dwordAt bs 8) (dwordAt bs 0x10) (dwordAt bs 0x18) (dwordAt bs 0x20) (dwordAt bs 0x28)
          (BitVec.ofNat 32 (natAt bs 0x30 4)) (BitVec.ofNat 32 (natAt bs 0x34 4)))
     | 0x06 => ok (zeroAt bs 0x35 3 && zeroAt bs 0x3C 4)
        (.kvcommit q (dwordAt bs 8) (dwordAt bs 0x10) (dwordAt bs 0x18) (dwordAt bs 0x20) (dwordAt bs 0x28)
          (BitVec.ofNat 32 (natAt bs 0x30 4)) (BitVec.ofNat 8 (natAt bs 0x34 1)) (BitVec.ofNat 32 (natAt bs 0x38 4)))
     | 0x07 => ok (zeroAt bs 0x21 7 && zeroAt bs 0x30 16)
        (.signal q (dwordAt bs 8) (dwordAt bs 0x10) (dwordAt bs 0x18) (BitVec.ofNat 8 (natAt bs 0x20 1)) (dwordAt bs 0x28))
     | 0x08 => ok (zeroAt bs 0x24 4 && zeroAt bs 0x30 16)
        (.vread q (dwordAt bs 8) (dwordAt bs 0x10) (dwordAt bs 0x18) (BitVec.ofNat 16 (natAt bs 0x20 2))
          (BitVec.ofNat 16 (natAt bs 0x22 2)) (dwordAt bs 0x28))
     | _ => .error .badCommand)
  else if kind = 1 then
    (match op with
     | 0x21 => fab .put
     | 0x22 => fab .get
     | 0x23 => fab .send
     | 0x24 => fab .atomic
     | 0x25 => fab .reduceput
     | 0x26 => fab .colljoin
     | 0x27 => fab .collleave
     | _ => .error .badCommand)
  else
    (match op with
     | 0x11 => ok (zeroAt bs 0x19 3 && natAt bs 0x18 1 < 64 && zeroAt bs 0x1D 3 && natAt bs 0x1C 1 < 4 && zeroAt bs 0x28 24)
        (.move q (dwordAt bs 8) (dwordAt bs 0x10) (BitVec.ofNat 6 (natAt bs 0x18 1)) (BitVec.ofNat 2 (natAt bs 0x1C 1))
          (dwordAt bs 0x20))
     | 0x12 => ok (zeroAt bs 0x1C 4 && natAt bs 0x20 1 < 64 && zeroAt bs 0x21 31)
        (.wssnap q (dwordAt bs 8) (dwordAt bs 0x10) (BitVec.ofNat 32 (natAt bs 0x18 4)) (BitVec.ofNat 6 (natAt bs 0x20 1)))
     | _ => .error .badCommand)

end Sys2Proof
end

