-- ==== Sys2Proof/Config.lean ====
section
/-! DEFINITION. What one device fixes (capacities, host configuration) and the values that the manual leaves open. -/

namespace Sys2Proof.Config

/-- A free 32-bit value, one for each number drawn: what a latched A row holds in a lane that was inactive when the
row was latched (10 R270; log 7). -/
opaque freeWord : Nat → Word

/-- A free count, one for each number drawn: which entry of a full TLB or walk cache goes (17 R456; log 116). -/
opaque freeCount : Nat → Nat

/-- The bytes that the Yuhan recorder writes for one item: its kind, requester, value and payload; the manual gives the
record buffer no layout (19 R487; log 8). -/
opaque recordBytes : List Nat → List Byte

/-- The items that a replay reads from the bytes of a record buffer (19 R488; log 8). -/
opaque recordItems : List Byte → List (List Nat)

/-- The CRC-32 of a flit with its sideband: the manual names no polynomial and no order of the bits (20 R491, R503; log
134). -/
opaque linkCrc : List Byte → Word

/-- The die that carries the host link (13 R318; log 9). -/
def hostDie : Nat := 0

/-- Time units in one nanosecond: every die clock period of 20/k ns (16 ≤ k ≤ 36) and the fabric clock period of
4/7 ns are whole numbers of units (14 R379; 20 R491). -/
def unitsPerNs : Nat := 7220177644680

end Sys2Proof.Config
end

