-- ==== Sys2Proof/Machine/Abacus.lean ====
section
/-! DEFINITION. The abacus accumulators (02 R63 to R65). -/

namespace Sys2Proof.Machine

open Sys2Proof

/-- An abacus accumulator: 576-bit body, bit 0 of weight 2^−266, and four sticky bits (02 Table 2.10). -/
structure Abacus where
  body : BitVec 576
  ovf : Bool
  inf : Bool
  nan : Bool
  ivd : Bool
  deriving DecidableEq, Repr

/-- The reset value of 02 Table 2.10, which XCLR gives (06 R168). -/
def Abacus.zero : Abacus := ⟨0, false, false, false, false⟩

/-- One input to an addition, classified (02 R64). -/
inductive AbacusInput where
  | nan
  | invalidProduct
  | inf (neg : Bool)
  | num (e : Exact)
  deriving DecidableEq, Repr

/-- An operand value added by XADD or XSCAN. -/
def AbacusInput.ofVal : FpVal → AbacusInput
  | .nan _ => .nan
  | .inf n => .inf n
  | .num e => .num e

/-- The exact product added by XFMA (06 R169). -/
def AbacusInput.ofProduct (x y : FpVal) : AbacusInput :=
  match x, y with
  | .nan _, _ => .nan
  | _, .nan _ => .nan
  | .inf a, .inf b => .inf (a != b)
  | .inf a, .num b => if b.mant = 0 then .invalidProduct else .inf (a != b.neg)
  | .num a, .inf b => if a.mant = 0 then .invalidProduct else .inf (a.neg != b)
  | .num a, .num b => .num (a.mul b)

/-- A body of all ones or zero that holds a sign (02 R64). -/
def Abacus.signBody (neg : Bool) : BitVec 576 := if neg then BitVec.allOnes 576 else 0

/-- One addition to an accumulator (02 R64). -/
def Abacus.add (x : Abacus) (i : AbacusInput) : Abacus :=
  match i with
  | .nan => { x with nan := true }
  | .invalidProduct => { x with ivd := true }
  | .inf neg =>
    if !x.inf then { x with inf := true, body := Abacus.signBody neg }
    else if neg != x.body.msb then { x with ivd := true }
    else x
  | .num e =>
    if x.inf || x.ovf then x
    else
      let t := x.body.toInt + e.scaled (-266)
      if t < -(2 ^ 575 : Int) || t > 2 ^ 575 - 1 then
        { x with ovf := true, body := Abacus.signBody (decide (t < 0)) }
      else { x with body := BitVec.ofInt 576 t }

/-- A read of an accumulator, rounded once (02 R65). -/
def Abacus.read (x : Abacus) (f : FFmt) (m : RMode) (sat : Bool) : Nat × Flags :=
  if x.nan || x.ivd then (f.canonicalNan, flagIf x.ivd flagNV)
  else if x.inf then f.roundInf sat x.body.msb
  else if x.ovf then (f.overflowBits (.mode m) sat x.body.msb, flagOF ||| flagNX)
  else f.round (.mode m) sat false (.num (Exact.ofInt x.body.toInt (-266)))

/-- All 580 bits of an accumulator, as the context save holds them (17 Table 17.8). -/
def Abacus.toNat (x : Abacus) : Nat :=
  x.body.toNat + 2 ^ 576 * (x.ovf.toNat + 2 * x.inf.toNat + 4 * x.nan.toNat + 8 * x.ivd.toNat)

/-- An accumulator from its 580 saved bits (17 Table 17.8). -/
def Abacus.ofNat (n : Nat) : Abacus :=
  ⟨BitVec.ofNat 576 n, n.testBit 576, n.testBit 577, n.testBit 578, n.testBit 579⟩

end Sys2Proof.Machine
end

