-- ==== Sys2Proof/Machine/Maps.lean ====
section
/-! DEFINITION. Finite maps held as lists in ascending key order, and byte memories in their canonical form. -/

namespace Sys2Proof.Machine

open Sys2Proof

/-- A finite map: keys strictly rising. -/
abbrev Assoc (α : Type) := List (Nat × α)

/-- The value of a key. -/
def Assoc.find {α : Type} (m : Assoc α) (k : Nat) : Option α :=
  match m with
  | [] => none
  | (i, x) :: r => if i = k then some x else Assoc.find r k

/-- Set the value of a key. -/
def Assoc.set {α : Type} (m : Assoc α) (k : Nat) (x : α) : Assoc α :=
  match m with
  | [] => [(k, x)]
  | (i, y) :: r => if i < k then (i, y) :: Assoc.set r k x else if i = k then (k, x) :: r else (k, x) :: (i, y) :: r

/-- Remove a key. -/
def Assoc.drop {α : Type} (m : Assoc α) (k : Nat) : Assoc α := m.filter (fun e => e.1 != k)

/-- Change the value of a key that is present. -/
def Assoc.modify {α : Type} (m : Assoc α) (k : Nat) (f : α → α) : Assoc α :=
  m.map (fun e => if e.1 = k then (e.1, f e.2) else e)

/-- The values, by ascending key. -/
def Assoc.vals {α : Type} (m : Assoc α) : List α := m.map Prod.snd

/-- The keys, ascending. -/
def Assoc.keys {α : Type} (m : Assoc α) : List Nat := m.map Prod.fst

/-- The value of a key, or a default. -/
def Assoc.getD {α : Type} (m : Assoc α) (k : Nat) (d : α) : α := (Assoc.find m k).getD d

/-- Byte memory: the listed bytes, by ascending address; every other byte reads 0 (19 R490, 07 R213). -/
abbrev Bytes := List (Nat × Byte)

/-- The byte at an address. -/
def Bytes.read (m : Bytes) (a : Nat) : Byte :=
  match m with
  | [] => 0
  | (i, b) :: r => if i = a then b else Bytes.read r a

/-- Write one byte, keeping the canonical form. -/
def Bytes.write (m : Bytes) (a : Nat) (x : Byte) : Bytes :=
  match m with
  | [] => if x = 0 then [] else [(a, x)]
  | (i, b) :: r =>
    if i < a then (i, b) :: Bytes.write r a x
    else if i = a then (if x = 0 then r else (a, x) :: r)
    else (if x = 0 then (i, b) :: r else (a, x) :: (i, b) :: r)

/-- `n` bytes from an address, lowest first. -/
def Bytes.readN (m : Bytes) (a : Nat) : Nat → List Byte
  | 0 => []
  | n + 1 => Bytes.read m a :: Bytes.readN m (a + 1) n

/-- Write bytes from an address upward. -/
def Bytes.writeN (m : Bytes) (a : Nat) : List Byte → Bytes
  | [] => m
  | b :: bs => Bytes.writeN (Bytes.write m a b) (a + 1) bs

/-- Set every byte from `lo` up to `hi` to 0. -/
def Bytes.clear (m : Bytes) (lo hi : Nat) : Bytes := m.filter (fun e => e.1 < lo || hi ≤ e.1)

/-- The canonical form: addresses strictly rising, no byte 0 listed. -/
def Bytes.wf : Bytes → Bool
  | [] => true
  | [(_, b)] => b != 0
  | (i, b) :: (j, c) :: r => b != 0 && decide (i < j) && Bytes.wf ((j, c) :: r)

/-- A set of numbers, ascending: insert. -/
def insertSorted (m : List Nat) (k : Nat) : List Nat :=
  match m with
  | [] => [k]
  | i :: r => if i < k then i :: insertSorted r k else if i = k then m else k :: m

end Sys2Proof.Machine
end

