-- ==== Sys2Proof/Machine/State.lean ====
section
/-! DEFINITION. The state of a VX9 package: everything the manual gives it, as plain data (INVENTORY.md, State). -/

namespace Sys2Proof.Machine

open Sys2Proof

/-- The two streams of a group (07 R174). -/
inductive Stream where
  | addr | comp
  deriving DecidableEq, Repr

/-- The access kinds of TRAPCAUSE (17 Table 17.1). -/
inductive AccessKind where
  | none | load | store | atomic | prefetch | fetch | stack | scratch | matrix | engine | clean
  deriving DecidableEq, Repr

/-- The fault codes of 17 Table 17.2. -/
inductive Cause where
  | translation | permission | transit | misaligned | illegalType | uniformDivergent | affineRange | nonuniform
  | nonaffine | streamOwner | illegalOpcode | illegalOperand | illegalClause | badTarget | hazard | queueDeadlock
  | poison | watchdog | breakpoint | trap | halted | cmdfail | submit
  deriving DecidableEq, Repr

/-- A special condition of a lane in one stream (07 R201; 17 R449). -/
inductive Park where
  | none
  | join (j : Nat)
  | sleep (deadline : Nat)
  deriving DecidableEq, Repr

/-- What a lane's PC names: a clause header, a word inside a clause that a trap left, or a word that a handler chose
(17 R436, R447). -/
inductive PcKind where
  | header | inside | redirected
  deriving DecidableEq, Repr

/-- One lane in one stream (07 R174, R176, R201, R205); `rbad` lists the return-stack entries, from the newest, whose rows
hold an uncorrectable error (19 R479). -/
structure LaneCtl where
  pc : Dword
  kind : PcKind
  exited : Bool
  park : Park
  rstack : List Dword
  rbad : List Nat
  spilled : Nat
  faulting : Bool
  deriving DecidableEq, Repr

/-- A register write that has not landed yet, one element each (03 R88). -/
inductive RegWrite where
  | vElem (n : Nat) (lane : Fin 32) (x : Word)
  | kReg (n : Nat) (x : Word)
  | aReg (n : Nat) (base : Dword) (stride : Int)
  | mReg (n : Nat) (x : Word)
  | pBit (n : Nat) (lane : Fin 32) (b : Bool)
  | qPush (n : Nat) (lane : Fin 32) (x : Word)
  | flags (lane : Fin 32) (f : Flags)
  deriving DecidableEq, Repr

/-- The results of one fixed-latency instruction, and the advancing cycle at which they land (03 R88). -/
structure Landing where
  due : Nat
  writes : List RegWrite
  deriving DecidableEq, Repr

/-- Why a stream's next instruction waits (07 R182, R184). -/
inductive WaitReason where
  | popEmpty | pushFull | slip | lookahead | counter | pendingFull | ordered | translation | drain | table | refill | clean | other
  deriving DecidableEq, Repr

/-- One stream of a group (07 R174): `landing` holds what its run has issued, due at advancing cycles, and `late` what an
ended run has left, due at cycles of the die; `slot` carried its last run, `lastEnd` is one more than the time at which
the cycle of that run's end began and `restUntil` the die cycle up to which the stream rests (03 R78; 07 R194); `tbarWait`
lists the team barriers that it waits at with their phases, `bpt` the BPTs of clauses that have not issued whole, by
header, with their codes and lanes (08 R219, R243), `joins` the masks that it arrived at with one more than the die cycle
(07 R203), `freed` the lanes that were released last and `freedAt` one more than the die cycle of that (07 R202). -/
structure StreamState where
  lanes : Vector LaneCtl 32
  tk : Vector Nat 7
  landing : List Landing
  late : List Landing
  arrivals : Vector Word 16
  slot : Nat
  lastEnd : Nat
  restUntil : Nat
  tbarWait : List (Nat × Nat)
  bpt : List (Dword × Nat × Word)
  joins : Assoc Nat
  freed : Word
  freedAt : Nat
  waiting : Option WaitReason
  deriving DecidableEq, Repr

/-- A queue entry's tag; a reserved entry names the operation that fills it (07 R179). -/
inductive QTag where
  | data | fault | poison
  | reserved (op : Nat)
  deriving DecidableEq, Repr

/-- A queue entry (07 R178). -/
structure QEntry where
  val : Word
  tag : QTag
  deriving DecidableEq, Repr

/-- An affine register (01 Table 1.2). -/
structure Affine where
  base : Dword
  stride : BitVec 16
  deriving DecidableEq, Repr

/-- A guard slot (01 R27). -/
inductive Guard where
  | unresolved | isTrue | isFalse
  deriving DecidableEq, Repr

/-- TRAPCAUSE, TRAPPC and TRAPADDR (17 R435). -/
structure TrapRegs where
  cause : Word
  pc : Dword
  addr : Dword
  deriving DecidableEq, Repr

/-- A compute lane's PC and parked state, saved at trap entry, and whether the lane is on the faulting path
(17 R439, R447). -/
structure SavedLane where
  pc : Dword
  kind : PcKind
  park : Park
  faulting : Bool
  deriving DecidableEq, Repr

/-- A fault raised and not yet delivered: the group quiesces first (17 R439). -/
structure PendingTrap where
  cause : Cause
  regs : TrapRegs
  deriving DecidableEq, Repr

/-- A group's place in the life of 16 R422 and 17 R441. -/
inductive GStatus where
  | running | halting | halted | finished
  deriving DecidableEq, Repr

/-- The A-operand reuse latch (10 R270). -/
structure Latch where
  valid : Vector Bool 4
  a : Code
  op : Nat
  rows : Vector Row 16
  deriving DecidableEq, Repr

/-- A launch record (04 Table 4.6). -/
structure LaunchRec where
  checked : Bool
  record : Bool
  codea : Dword
  codec : Dword
  trapvec : Dword
  argptr : Dword
  argsize : Nat
  wsdesc : Dword
  sptrbase : Dword
  stacksz : Nat
  seedbase : Word
  rsdepth : Nat
  slip : Nat
  aregs : Nat
  vregs : Nat
  qsel : Nat
  prio : Nat
  groups : Nat
  gangfh : Nat
  gangfw : Nat
  gangph : Nat
  gangpw : Nat
  scratch : Nat
  gridn : Nat
  hints : List (Dword × Nat × Nat)
  deriving DecidableEq, Repr

/-- One group (01 Table 1.1; 17 Tables 17.8 and 17.9). `ahead` is the fault behind the FAULT entries of the queues
(07 R189, R190), `landed` the elements that instruction writes reached last, each with its die cycle (01 R19), `cbarWait` the
cluster barriers that the group waits at with their phases (10 R286), `since` the time at which it came to its core, 0 where
it started. -/
structure Group where
  cfg : LaunchRec
  fn : Nat
  part : Nat
  launch : Nat
  gang : Nat
  team : Nat
  core : Nat
  slotIx : Nat
  vbase : Nat
  groupId : Nat
  teamId : Nat
  cx : Nat
  cy : Nat
  gridpos : Nat
  sysMode : Bool
  trapMode : Bool
  v : Vector Row 64
  k : Vector Word 32
  a : Vector Affine 16
  p : Vector Word 8
  j : Vector Word 16
  x : Vector Abacus 4
  q : Assoc (List QEntry)
  guards : Vector Guard 16
  fpstat : Row
  seed : Row
  sptr : Vector Dword 32
  cspill : Vector Dword 32
  regs : TrapRegs
  firstRegs : Option TrapRegs
  saved : Vector SavedLane 32
  sa : StreamState
  sc : StreamState
  latch : Latch
  epi : BitVec 160
  cbarPhase : Vector (Option Nat) 8
  cbarWait : List (Nat × Nat)
  mwait : List Nat
  status : GStatus
  escalated : Option Nat
  transitWait : Bool
  killed : Bool
  pendingTrap : Option PendingTrap
  ahead : Option PendingTrap
  landed : List (Nat × Nat × Fin 32)
  since : Nat
  deadlock : Nat
  wdog : Nat
  progress : Bool
  deriving DecidableEq, Repr

/-- A team barrier: its phase and the groups that have arrived (08 R242, R243); from die cycle `visible` on every group
sees the team-register writes that came before the arrivals (08 R244). -/
structure TBar where
  phase : Nat
  arrived : Word
  visible : Nat
  deriving DecidableEq, Repr

/-- A write to a team register: the die cycle at which it lands, the writer's slot and group (07 R210). -/
structure TeamWrite where
  cycle : Nat
  slot : Nat
  gid : Nat
  n : Nat
  x : Word
  deriving DecidableEq, Repr

/-- One team (01 R23; 07 R211; 08 R242); `late` holds the writes to its registers that not every group sees yet, in the
order in which they apply (07 R210), `blocks` the lane-store blocks that it was given, in order (16 R418). -/
structure Team where
  gang : Nat
  core : Nat
  teamId : Nat
  m : Vector Word 16
  late : List TeamWrite
  scratchSize : Nat
  sbase : Nat
  scratch : Bytes
  scratchPoison : List Nat
  tbar : Vector TBar 8
  blocks : List Nat
  deriving DecidableEq, Repr

/-- A cluster barrier: its phase and the groups that have arrived (10 R286). -/
structure CBar where
  phase : Nat
  arrived : List Nat
  deriving DecidableEq, Repr

/-- An accumulator-store row (10 Table 10.1). -/
structure AccRow where
  data : Row
  side : Word
  psn : Bool
  deriving DecidableEq, Repr

/-- A block of a quad that a gang takes with it when it is written whole: its record's directory entry, and its rows
(16 R425; 17 R461; log 119). -/
structure GangBlock where
  quad : Nat
  block : Nat
  index : Nat
  rows : List AccRow
  deriving DecidableEq, Repr

/-- A gang's place in the life of a cluster (16 R420, R422, R426). -/
inductive GangStatus where
  | running
  | halted (at_ : Nat)
  | saved (at_ : Nat)
  | finished
  deriving DecidableEq, Repr

/-- One cluster of a grid (10 R256; 17 R461): `sets` are the quads that held its context's tables when it was halted
(16 R425), `blocks` the accumulator blocks that it has taken along; a gang is `saved` when some of it was claimed, and
`pending` when it is written whole and holds nothing. -/
structure Gang where
  launch : Nat
  fn : Nat
  part : Nat
  die : Nat
  row : Nat
  col : Nat
  w : Nat
  h : Nat
  fallback : Bool
  gridpos : Nat
  teams : List Nat
  groups : List Nat
  cbar : Vector CBar 8
  quantumStart : Nat
  status : GangStatus
  pending : Bool
  sets : List Nat
  blocks : List GangBlock
  deriving DecidableEq, Repr

/-- A die's range of tickets (14 R375) and its fallback count (14 R377). -/
structure TicketRange where
  die : Nat
  front : Nat
  back : Nat
  count : Nat
  deriving DecidableEq, Repr

/-- A region of a working-set descriptor (16 Table 16.8): its address, its 64 KiB pieces and the count that must lie in
tier 1. -/
structure Region where
  base : Nat
  pages : Nat
  need : Nat
  deriving DecidableEq, Repr

/-- One launch (04 R108; 14 R375 to R378; 16 R415, R416). -/
structure Launch where
  cfg : LaunchRec
  lrec : Dword
  fn : Nat
  part : Nat
  sub : Nat
  ranges : List TicketRange
  regions : List Region
  gate : Bool
  finished : Nat
  killed : Bool
  unplaceable : Bool
  complete : Bool
  deriving DecidableEq, Repr

/-- A submission that was taken and has not completed (16 R411, R419). -/
structure Submission where
  fn : Nat
  part : Nat
  entryAddr : Nat
  doneAddr : Nat
  doneInc : Nat
  stAddr : Nat
  status : Nat
  offset : Nat
  launch : Option Nat
  deriving DecidableEq, Repr

/-- The tables of one context: the entries that differ from the default (02 R59; 10 R281), and the directory entry of its
master copy (16 R424). -/
structure Context where
  roots : Assoc Nat
  acts : Assoc (Word × Word)
  master : Option Nat
  deriving DecidableEq, Repr

/-- The run that an issue slot holds (03 R74, R76, R86): `code` are the words of its clause that have not issued, as they
were fetched when the clause was selected (03 R72), `cpred` is the value of CPRED `cprn` in each member, `fresh`
says that the clause's first instruction has not issued, `ready` is the die cycle from which the next instruction's
operands can be collected (07 R199; none: they are), `stalled` is why the slot is frozen and `woken` says that it may
try again. -/
structure Run where
  stream : Stream
  members : List (Nat × Word)
  pc : Dword
  hdr : Dword
  code : List Word
  words : Nat
  cprn : PredRef
  cpred : List (Nat × Word)
  fresh : Bool
  adv : Nat
  pinned : List Nat
  ends : Bool
  ready : Option Nat
  stalled : Option WaitReason
  woken : Bool
  deriving DecidableEq, Repr

/-- The words of a run's clause that have not issued. -/
def Run.left (r : Run) : Nat := r.code.length

/-- Where an access of a memory instruction goes (08 Table 8.3). -/
inductive Space where
  | phys
  | scratch (team : Nat)
  | window (gid : Nat)
  | wptr (die : Nat)
  deriving DecidableEq, Repr

/-- What an access does (08 R233, R237). -/
inductive Act where
  | load
  | store (x : Nat)
  | atom (op : BitVec 3) (signed : Bool) (v cmp : Nat)
  | fatom (bf : Bool) (v : Word)
  | barinit (count : Nat)
  deriving DecidableEq, Repr

/-- One access of one lane (08 R229). -/
structure LaneAccess where
  lane : Fin 32
  space : Space
  addr : Nat
  va : Nat
  size : Nat
  act : Act
  deriving DecidableEq, Repr

/-- What a lane's access gave: the registers it writes, or the poison it met (08 R231, R232). -/
structure LaneResult where
  lane : Fin 32
  writes : List RegWrite
  entries : List QEntry
  poison : Option Nat
  deriving DecidableEq, Repr

/-- The kinds of variable-latency instruction (03 R91). -/
inductive OpKind where
  | load (q : Option Nat)
  | store
  | atomic (q : Option Nat)
  | qtok
  | sfu | xrd | xscan | lfold | push
  | barwait (d : Code) (obj : Nat) (e : Option Word)
  | request
  deriving DecidableEq, Repr

/-- A variable-latency instruction of one group, pending (03 R91 to R93), or another that completes later than it issues,
`counted` being false then: `flags` land when it completes (06 R145),
`poisoned` is the lowest lane that met poison, with its address (17 R436). -/
structure VOp where
  bundle : Nat
  gid : Nat
  stream : Stream
  kind : OpKind
  counted : Bool
  access : AccessKind
  mask : Word
  tk : Nat
  window : Option Nat
  pend : List Nat
  todo : List LaneAccess
  isOrdered : Bool
  results : List LaneResult
  written : Word
  flags : List RegWrite
  poisoned : Option (Nat × Nat)
  load : MxMod
  t : Code
  entries : Nat
  deriving DecidableEq, Repr

/-- The fields of an MMA that its pass needs (10 R271; 11 R295); `readyAt` is the die cycle from which it is ready, where that
is settled. -/
structure PassInfo where
  op : Nat
  quarter : Nat
  lanes : Word
  rows : Vector Row 16
  scaled : Bool
  rsRow : Row
  csRow : Row
  cs : Nat
  csel : Nat
  tsel : Nat
  scratchB : Bool
  base : Nat
  pitch : Nat
  phys : List Nat
  enables : BitVec 4
  readyAt : Option Nat
  promoted : Bool
  waited : Nat
  deriving DecidableEq, Repr

/-- What an entry of the reservation table does (10 R266). -/
inductive EntryKind where
  | pass (p : PassInfo)
  | mzero
  | mtree (parents : Row)
  | mldReg (rows : List Row)
  | mldMem (scratch : Bool) (addrs : List Nat)
  | mstReg (v n : Nat)
  | mstMem (scratch : Bool) (addrs : List Nat)
  | mdrain (shape : Nat) (ch n : Nat) (tileadd int : Bool) (enables : BitVec 4)
  | table (act : Bool) (tsel : Nat) (addrs : List Nat)
  deriving DecidableEq, Repr

/-- An entry of a quad's reservation table (10 R266, R267); `chunks` holds the 16-byte pieces that it has read or has to
write, with their poison, and `moved` how many have been read or written (13 R323). -/
structure REntry where
  quad : Nat
  gid : Nat
  op : Nat
  prio : Nat
  cycle : Nat
  row : Nat
  col : Nat
  mask : Word
  epi : BitVec 160
  kind : EntryKind
  granted : Bool
  blocked : Bool
  chunks : List (List Byte × Bool)
  moved : Nat
  deriving DecidableEq, Repr

/-- A granted pass: its entries and the B it read (10 R272, R276). -/
structure Pass where
  quad : Nat
  entries : List Nat
  b : List Byte
  poisoned : Bool
  deriving DecidableEq, Repr

/-- A block that a claim wrote to its owner's save area (16 R423; 17 R461). -/
structure SavedBlock where
  context : Nat
  block : Nat
  rows : List AccRow
  deriving DecidableEq, Repr

/-- One quad beside its rows: block owners, engine time, the contexts whose table sets it holds, blocks saved
(10 R264, R274; 16 R423, R424), and when each context last ran there, of what its groups there no longer show. -/
structure Quad where
  owners : Assoc Nat
  busyUntil : Nat
  sets : List Nat
  saved : List SavedBlock
  ran : Assoc Nat
  deriving DecidableEq, Repr

/-- A drain buffer of a copy channel (14 R373). -/
structure DrainBuf where
  rows : List (List Nat)
  width : Nat
  efmt : Nat
  psn : List Bool
  deriving DecidableEq, Repr

/-- A command in a queue (14 R353). -/
structure QCmd where
  bytes : List Byte
  guard : Nat
  gid : Nat
  launch : Nat
  fn : Nat
  drained : Bool
  started : Bool
  deriving DecidableEq, Repr

/-- How far the command at a queue's head has come: the accesses of a command are performed one at a time
(14 R363); `bad` marks poisoned bytes of `buf`, `shape` is the shape record, `ending` holds the cause, count and object of the decrement that is
left (14 R364, R365), `verBad` says that the version word read was poisoned. -/
structure Progress where
  stage : Nat
  pos : Nat
  x : Nat
  y : Nat
  tries : Nat
  buf : List Byte
  bad : List Bool
  ending : Option (Nat × Int × Nat)
  shape : List Byte
  verBad : Bool
  deriving DecidableEq, Repr

/-- An engine queue (14 R350, R374); `appended` is the die cycle and the rank of its last append (14 R351). -/
structure EQueue where
  cmds : List QCmd
  prog : Option Progress
  wp : Dword
  bufs : Assoc DrainBuf
  appended : Option (Nat × Nat)
  deriving DecidableEq, Repr

/-- Where a die keeps a translation: in the TLB of a core or of an L2 slice, or in its last-level TLB (17 R456). -/
inductive TlbPlace where
  | core (c : Nat)
  | slice (n : Nat)
  | last
  deriving DecidableEq, Repr

/-- A cached translation: the leaf of a page of a function, on one die (17 R456). -/
structure TlbEntry where
  die : Nat
  place : TlbPlace
  fn : Nat
  level : Nat
  vpn : Nat
  leaf : Dword
  deriving DecidableEq, Repr

/-- An entry of a die's walk cache: the table that a level-3 or level-2 entry of a function points to (17 R456). -/
structure WalkCacheEntry where
  die : Nat
  fn : Nat
  level : Nat
  vpn : Nat
  table : Nat
  deriving DecidableEq, Repr

/-- Who waits for a walk or a host translation: a slot, a queue, or the device for an access of its own (17 R456). -/
inductive Waiter where
  | slot (n : Nat)
  | queue (q : Nat)
  | own
  deriving DecidableEq, Repr

/-- A miss that found no walker (17 R456). -/
structure Miss where
  die : Nat
  fn : Nat
  page : Nat
  waiter : Waiter
  deriving DecidableEq, Repr

/-- A page walk in progress, or one that failed and whose waiters have not all seen it (17 R456). -/
structure Walk where
  die : Nat
  fn : Nat
  page : Nat
  waiters : List Waiter
  failed : Option Cause
  deriving DecidableEq, Repr

/-- The ATS and PRI state of host memory of one function: asked for, granted, waiting to send a Page Request, waiting for
its response, or failed (17 R457). -/
inductive AtsState where
  | requested
  | granted (frame : Nat) (rd wr : Bool)
  | toPage
  | paging
  | failed (c : Cause)
  deriving DecidableEq, Repr

/-- A cached or outstanding host translation of `pages` 4 KiB pieces from `page` on; `limit` is the size of the leaf in
pieces, and `waiters` have yet to see a failure (17 R457). -/
structure AtsEntry where
  fn : Nat
  page : Nat
  pages : Nat
  limit : Nat
  st : AtsState
  waiters : List Waiter
  deriving DecidableEq, Repr

/-- An ATS invalidation whose completion has not been returned: the frames, with their sizes, that its entries held
(17 R458). -/
structure AtsInval where
  fn : Nat
  frames : List (Nat × Nat)
  deriving DecidableEq, Repr

/-- The classification states other than UNTOUCHED (13 R334). -/
inductive GState where
  | priv (c : Nat) (w : Bool)
  | readonly
  | shared
  deriving DecidableEq, Repr

/-- The directory's view of a 128-byte line (13 R346): `dirty` lines differ from memory, and `l1Dirty` ones from their L2;
`host` says that the host caches the line of device memory (19 R474). -/
structure Line where
  sharers : List Nat
  owner : Option Nat
  l1 : List Nat
  dirty : Bool
  l1Dirty : Bool
  host : Bool
  deriving DecidableEq, Repr

/-- What goes to the host: that a die holds no line, a clean one, or data with the poison of its 64-byte flit slots
(19 R475, R476, R479). -/
inductive HostAnswer where
  | miss
  | clean
  | data (bytes : List Byte) (poison : List Bool)
  deriving DecidableEq, Repr

/-- One core: resident groups, row blocks, cluster-barrier sets, permissions, service (16 R417, R418; 13 R342). -/
structure Core where
  slots : List (Option Nat)
  blocks : Assoc (List Nat)
  cbarSets : Nat
  perms : List Nat
  removed : Bool
  deriving DecidableEq, Repr

/-- One die's clock and management registers (14 R379 to R383; 19 R486); `placedIn` is one more than the cycle of its
carousel's last placement (14 R376), `relock` the end of a frequency step and the multiple of 50 MHz that it leads to. -/
structure Die where
  k50 : Nat
  relocks : Nat
  since : Nat
  cycleBase : Nat
  ncycleAcc : Nat
  relock : Option (Nat × Nat)
  lastStep : Nat
  d2dStall : Vector Nat 2
  pmcSel : Vector Word 8
  pmcVal : Vector Nat 8
  rascnt : Dword
  fwviol : Dword
  gateReq : Bool
  gated : Bool
  placedIn : Nat
  deriving DecidableEq, Repr

/-- A submission queue of a function (16 Table 16.6); `flag` is the place of the line of its head's dependence flag and
what the line held when the flag was loaded last, if the dependence did not hold then (16 R412). -/
structure SubQueue where
  base : Dword
  size : Nat
  head : Nat
  tail : Nat
  stopped : Bool
  flag : Option (Nat × List Byte)
  deriving DecidableEq, Repr

/-- A fault record waiting for room in its ring (17 R441). -/
structure FaultRec where
  regs : TrapRegs
  lrec : Dword
  gridpos : Nat
  ident : Nat
  reftime : Nat
  detail : List Byte
  gid : Option Nat
  part : Nat
  deriving DecidableEq, Repr

/-- An item of the Yuhan recorder (19 R487). -/
structure YItem where
  what : Nat
  who : Nat
  value : Nat
  payload : List Byte
  deriving DecidableEq, Repr

/-- A function's registers (16 Tables 16.3, 16.6, 16.13; 17 Table 17.4; 19 Table 19.5, R487; 20 Table 20.2); `sent` is the
second of REFTIME in which its last message went out, with how many went out in it (19 R484). -/
structure Fn where
  sqs : Assoc SubQueue
  sched : Dword
  vfcq : Dword
  vffq : Word
  root : Dword
  invaddr : Dword
  invcnt : Word
  invdone : Bool
  invLanes : List (Nat × Nat)
  invEntries : List (Nat × Nat)
  ctxbase : Dword
  ctxchunks : Word
  frbase : Dword
  frsize : Nat
  frtail : Nat
  frhead : Nat
  frdrop : Word
  wdcfg : Word
  ymode : Nat
  ybase : Dword
  ysize : Dword
  yused : Nat
  ystat : Nat
  yout : List Byte
  ylog : List YItem
  ywaits : Bool
  fabcfg : Word
  rxbase : Dword
  rxsize : Nat
  seq : Word
  waiting : List FaultRec
  awaiting : Assoc Nat
  atsOn : Bool
  priOn : Bool
  priFailed : Bool
  swept : Nat
  sent : Nat × Nat
  deriving DecidableEq, Repr

/-- A partition: its descriptor and its schedulers' state (16 Table 16.2, R412, R416, R420, R421; 20 R494, R495); `ticked` is
the last multiple accounted, and `switchDue` says that the choice of a tick waits for a command (16 R432). -/
structure Part where
  slices : Nat
  hbmch : Nat
  ddrch : Nat
  fports : Nat
  cqmask : Nat
  fqmask : Nat
  yq : Bool
  memmode : Bool
  dieorder : Nat
  dq : Assoc (List Nat)
  passes : Assoc Nat
  allowance : Assoc Int
  boosts : Assoc Nat
  idle : Assoc Nat
  history : List Nat
  running : Option Nat
  nextFn : Nat
  ticked : Nat
  switchDue : Bool
  throttled : Bool
  deriving DecidableEq, Repr

/-- A flit on a link with its sideband (20 R491): the VC and the kind of slot it takes, its link sequence number, its CRC,
the slots it gives back, and which flit of which packet it carries; one that carries none brings credits alone. -/
structure Flit where
  vc : Nat
  shared : Bool
  seq : Nat
  crc : Word
  credits : Credits
  body : Option (PacketType × Packet × Nat)
  deriving DecidableEq, Repr

/-- A packet that stands in an input buffer (20 R498 to R501): the fabric cycle in which its header came, its flits that
have arrived and that have left, the slots the others hold (true: shared), the cycle since which its next hop has been
refused, whether it must escape, whether it was given up, and the port and VC granted to it, with the shared slots it takes
there. -/
structure InPacket where
  vc : Nat
  ty : PacketType
  pkt : Packet
  since : Nat
  arrived : Nat
  sent : Nat
  slots : List Bool
  refused : Option Nat
  esc : Bool
  dropped : Bool
  route : Option (Nat × Nat)
  lent : Nat
  deriving DecidableEq, Repr

/-- One fabric port (20 R498, R502 to R504). Its input: the packets that stand there, and the slots that flits left, each with
the fabric cycle, the VC and the kind, whose credits are still to be returned. Its output: the free slots at the far end, the
retry buffer, what of it is still to be resent, and the cycle of the last flit. Its link: sequence numbers, the flit
that it asks for again, failed retries of one flit and mismatches of one flit, and when lane lock was lost. -/
structure Port where
  en : Bool
  up : Bool
  training : Bool
  dateline : Bool
  poolsz : Nat
  retries : Word
  inq : List InPacket
  left : List (Nat × Nat × Bool)
  far : Credits
  retry : List Flit
  resend : List Flit
  lastOut : Option Nat
  txSeq : Nat
  rxSeq : Nat
  ask : Option Nat
  fails : Nat × Nat
  mismatches : Nat
  unlocked : Option Nat
  deriving DecidableEq, Repr

/-- A packet of a command that has not been answered: where it went, its SEQ, its first byte in the command, and how many
accesses its answer has made (13 R323). -/
structure OpenPkt where
  dnode : Nat
  dvf : Nat
  seq : Nat
  off : Nat
  moved : Nat
  deriving DecidableEq, Repr

/-- A fabric command that has started and is not complete (20 R507, R509): `dests` are its destinations, `total` and
`sent` count its packets. -/
structure FabPending where
  q : Nat
  fn : Nat
  part : Nat
  launch : Nat
  kind : PacketType
  bar : Nat
  count : Nat
  laddr : Nat
  coll : Nat
  dests : List (Nat × Nat)
  total : Nat
  sent : Nat
  unanswered : List OpenPkt
  cause : Nat
  deriving DecidableEq, Repr

/-- The source's end of a stream of packets, from one fabric queue to one endpoint (20 R507): its next SEQ, and the
oldest packet when 64 were last unanswered, which must be answered before the next is sent. -/
structure TxStream where
  q : Nat
  fn : Nat
  dnode : Nat
  dvf : Nat
  seq : Nat
  hold : Option Nat
  deriving DecidableEq, Repr

/-- The destination's end of a stream: its next SEQ, the command in progress with its bytes so far, the command
that was refused and why, and the packet in progress: how many of its accesses are made, what they read, and the TAIL that a SEND took
(13 R323; 20 R507, R508, R511). -/
structure RxStream where
  snode : Nat
  svf : Nat
  sq : Nat
  dnode : Nat
  dvf : Nat
  next : Nat
  tag : Option Nat
  tally : Nat
  refused : Option (Nat × Nat)
  moved : Nat
  got : List Byte
  gotBad : List Nat
  slot : Option Nat
  deriving DecidableEq, Repr

/-- A membership of a collective, joined or being joined by a command, with the members that are lost, and those that no
route reaches, each since when (20 R512, R513). -/
structure Membership where
  fn : Nat
  coll : Nat
  members : List (Nat × Nat)
  heard : List (Nat × Nat)
  joined : Bool
  cmd : Nat
  lost : List (Nat × Nat)
  away : List ((Nat × Nat) × Nat)
  deriving DecidableEq, Repr

/-- The fabric of the package (20): `ports` are its ports 0 to 143 and the places where the partitions inject packets, 144 and on;
`localBox` holds packets that never leave the package, each with its partition; `gone` are packets that never will arrive, each
with its cause (log 96); `keptJoins` are JOINs that arrived early. -/
structure Fabric where
  ports : Assoc Port
  routes : Assoc Word
  pnode : Assoc Nat
  cmds : Assoc FabPending
  tx : List TxStream
  rx : List RxStream
  localBox : List (Nat × PacketType × Packet)
  members : List Membership
  keptJoins : List (Nat × Nat × Nat × Nat)
  gone : List (Packet × Nat)
  deriving DecidableEq, Repr

/-- A storage entry that holds an uncorrectable error (19 R479): a group and the operand code or accumulator concerned,
with the lane for a lane-store element. -/
structure BadEntry where
  gid : Nat
  what : Nat
  lane : Option (Fin 32)
  deriving DecidableEq, Repr

/-- The structures that a soft error can strike (19 Table 19.4). -/
inductive SoftTarget where
  | laneElement (gid row : Nat) (lane : Fin 32)
  | scratch (team block : Nat)
  | queueEntry (gid q : Nat) (lane : Fin 32) (ix : Nat)
  | groupEntry (gid : Nat) (code : Nat)
  | accRow (row : Nat)
  | memory (block : Nat)
  | corrected (die row : Nat)
  deriving DecidableEq, Repr

/-- What moves next (log 2). -/
inductive Move where
  | slot (n : Nat)
  | queue (q : Nat)
  | event (e : Instr)
  | soft (t : SoftTarget)
  | gateDie (die : Nat)
  | atsConfig (fn : Nat) (ats pri : Bool)
  | flitIn (port : Nat) (f : Flit)
  | flitOut (port : Nat)
  | flitsTaken (port n : Nat)
  | laneLock (port : Nat) (held : Bool)
  | farSlots (port : Nat) (far : Credits)
  | packetGone (p : Packet) (cause : Nat)
  | streamRestarts (p : Packet)
  | recorder (fn : Nat)
  | throttle (part : Nat) (on : Bool)
  | stepClock (die k50 : Nat)
  | answerInvals
  deriving DecidableEq, Repr

/-- A move and the time units that pass before it (log 2). -/
structure Timed where
  dt : Nat
  move : Move
  deriving DecidableEq, Repr

/-- The physical function's own registers (16 Table 16.13), and the power manager's view: one more than the number of
its last sample, and whether that sample was above the limit (19 R489). -/
structure PfRegs where
  pwrlim : Nat
  pcarg : Bytes
  pcmd : Option Nat
  result : Nat
  sampled : Nat
  above : Bool
  deriving DecidableEq, Repr

/-- Why the machine stops with a fault. -/
inductive Fault where
  /-- Raised by HOST_REQUEST at a device address that holds no memory, or none of a partition (13 R522; 19 R474); the
  manual gives the request no effect. Safe: the machine stops. -/
  | noMemory (addr : Nat)
  deriving DecidableEq, Repr

/-- Why the model has no meaning for a step. -/
inductive Refusal where
  /-- Raised by an arm of exec whose instruction has no meaning yet. Safe: the machine stops. -/
  | notModelled (mnemonic : String)
  /-- Raised by step when the agenda names an encoded instruction or a command as an event: instructions run only
  from memory, commands only from a queue. Safe: the machine stops. -/
  | agendaNotEvent
  deriving DecidableEq, Repr

/-- The whole machine. `ddr` is the capacity fitted in each DDR5 channel, 0 where none is, as the device reports it at
bring-up (00 R2); `home` lists the ordered accesses that wait at the homes of their granules, in the order in which they
arrived (13 R340), `fifo` the dies whose flits wait in the FIFOs toward a die that relocks, each with that die (14 R384),
`atsDone` the functions of the Invalidate Completions returned (17 R458), `dirErrors` the directory
and classifier errors logged (13 R349), `toHost` the answers to snoops, by line, and to
the host's reads of device memory, by address, and `lost` the host lines held modified at a cold reset (19 R475, R476). -/
structure State where
  units : Nat
  agenda : List Timed
  cur : Nat
  nextId : Nat
  bundleSeq : Nat
  free : Nat
  mem : Bytes
  poison : List Nat
  ddr : Vector Nat 16
  groups : Assoc Group
  teams : Assoc Team
  gangs : Assoc Gang
  launches : Assoc Launch
  subs : Assoc Submission
  contexts : Assoc Context
  runs : Assoc Run
  ops : Assoc VOp
  entries : Assoc REntry
  passes : Assoc Pass
  acc : Assoc AccRow
  quads : Assoc Quad
  cores : Assoc Core
  dies : Vector Die 4
  queues : Assoc EQueue
  tlb : List TlbEntry
  walkCache : List WalkCacheEntry
  walks : Assoc Walk
  misses : List Miss
  ats : List AtsEntry
  atsInvals : List AtsInval
  atsDone : List Nat
  granules : Assoc GState
  lines : Assoc Line
  home : List Nat
  fifo : List (Nat × Nat)
  dirErrors : List (Nat × Bool)
  toHost : List (Nat × HostAnswer)
  lost : List Nat
  fns : Assoc Fn
  parts : Assoc Part
  pf : PfRegs
  fabric : Fabric
  bad : List BadEntry
  frozenPup : Bool
  frozenMgmt : Bool
  viral : Bool
  retiredWays : List (Nat × Nat)
  msix : List (Nat × Nat)
  held : Bool
  deriving DecidableEq, Repr

/-- The memory of a state holds the canonical form. -/
abbrev State.memWf (s : State) : Prop := s.mem.wf = true

/-! Reset values. -/

/-- A lane that starts at a PC (01 R31; 07 R174). -/
def LaneCtl.start (pc : Dword) : LaneCtl := ⟨pc, .header, false, .none, [], [], 0, false⟩

/-- A stream at group start (01 R31). -/
def StreamState.start (pc : Dword) : StreamState :=
  { lanes := Vector.replicate 32 (LaneCtl.start pc), tk := Vector.replicate 7 0, landing := [], late := [],
    arrivals := Vector.replicate 16 0, slot := 0, lastEnd := 0, restUntil := 0, tbarWait := [], bpt := [], joins := [],
    freed := 0, freedAt := 0, waiting := none }

/-- A function's registers at reset (16 Tables 16.3, 16.6, 16.13; 17 Table 17.4; 19 Table 19.5; 20 Table 20.2). -/
def Fn.reset : Fn :=
  { sqs := [], sched := 0x3E801190000, vfcq := 0, vffq := 0, root := 0, invaddr := 0, invcnt := 0, invdone := true, invLanes := [], invEntries := [],
    ctxbase := 0, ctxchunks := 0, frbase := 0, frsize := 0, frtail := 0, frhead := 0, frdrop := 0, wdcfg := 0x0800,
    ymode := 0, ybase := 0, ysize := 0, yused := 0, ystat := 0, yout := [], ylog := [], ywaits := false, fabcfg := 0, rxbase := 0, rxsize := 0,
    seq := 0, waiting := [], awaiting := [], atsOn := false, priOn := false,
    priFailed := false, swept := 0, sent := (0, 0) }

/-- A submission queue at reset (16 Table 16.6). -/
def SubQueue.reset : SubQueue := ⟨0, 0, 0, 0, false, none⟩

/-- A die after bring-up (14 Table 14.7; 19 R490). -/
def Die.reset : Die :=
  { k50 := 32, relocks := 0, since := 0, cycleBase := 0, ncycleAcc := 0, relock := none, lastStep := 0,
    d2dStall := Vector.replicate 2 0, pmcSel := Vector.replicate 8 0, pmcVal := Vector.replicate 8 0, rascnt := 0,
    fwviol := 0, gateReq := false, gated := false, placedIn := 0 }

/-- A port at reset (20 Table 20.5a). -/
def Port.reset : Port :=
  { en := false, up := false, training := false, dateline := false, poolsz := 0x60, retries := 0, inq := [], left := [],
    far := ⟨0, Vector.replicate 8 0⟩, retry := [], resend := [], lastOut := none, txSeq := 0, rxSeq := 0, ask := none,
    fails := (0, 0), mismatches := 0, unlocked := none }

/-- A core with nothing placed on it (16 R417). -/
def Core.reset : Core := ⟨List.replicate 64 none, [], 0, [], false⟩

/-- An engine queue with nothing in it (14 R350, R374). -/
def EQueue.reset : EQueue := ⟨[], none, 0, [], none⟩

/-- A quad with nothing on it. -/
def Quad.reset : Quad := ⟨[], 0, [], [], []⟩

/-- An accumulator-store row after a scrub (10 Table 10.1). -/
def AccRow.zero : AccRow := ⟨Vector.replicate 32 0, 0, false⟩

/-- A line that no cache holds. -/
def Line.none : Line := ⟨[], Option.none, [], false, false, false⟩

/-- The package after bring-up (19 R490): memory scrubbed, no partition, every granule UNTOUCHED. -/
def State.reset : State :=
  { units := 0, agenda := [], cur := 0, nextId := 1, bundleSeq := 0, free := 0, mem := [], poison := [], ddr := Vector.replicate 16 (2 ^ 38), groups := [],
    teams := [], gangs := [], launches := [], subs := [], contexts := [], runs := [], ops := [], entries := [],
    passes := [], acc := [], quads := [], cores := [], dies := Vector.replicate 4 Die.reset, queues := [], tlb := [],
    walkCache := [], walks := [], misses := [], ats := [], atsInvals := [], atsDone := [], granules := [], lines := [],
    home := [], fifo := [], dirErrors := [], toHost := [], lost := [], fns := [], parts := [],
    pf := ⟨0x0960, [], none, 0, 0, false⟩,
    fabric := ⟨[], [], [], [], [], [], [], [], [], []⟩, bad := [], frozenPup := false, frozenMgmt := false,
    viral := false, retiredWays := [], msix := [], held := false }

end Sys2Proof.Machine
end

