-- ==== Sys2Proof/Machine/Ops.lean ====
section
/-! DEFINITION. Named operations on groups, lanes, queues and runs: landing results, stopping a stream, taking a
fault and returning from it, rejoin sets and barriers (03 R88; 07; 17 R435 to R449). -/

namespace Sys2Proof.Machine

open Sys2Proof

/-! Groups, teams, gangs. -/

/-- Change one group. -/
def State.modGroup (s : State) (gid : Nat) (f : Group → Group) : State := { s with groups := s.groups.modify gid f }

/-- Change one team. -/
def State.modTeam (s : State) (tid : Nat) (f : Team → Team) : State := { s with teams := s.teams.modify tid f }

/-- Change one gang. -/
def State.modGang (s : State) (k : Nat) (f : Gang → Gang) : State := { s with gangs := s.gangs.modify k f }

/-- Change one launch. -/
def State.modLaunch (s : State) (k : Nat) (f : Launch → Launch) : State := { s with launches := s.launches.modify k f }

/-- Change one pending operation. -/
def State.modOp (s : State) (k : Nat) (f : VOp → VOp) : State := { s with ops := s.ops.modify k f }

/-- Change one run. -/
def State.modRun (s : State) (k : Nat) (f : Run → Run) : State := { s with runs := s.runs.modify k f }

/-- The groups of a team. -/
def State.teamGroups (s : State) (tid : Nat) : List (Nat × Group) := s.groups.filter (fun e => e.2.team == tid)

/-- One stream of a group. -/
def Group.stream (g : Group) : Stream → StreamState
  | .addr => g.sa
  | .comp => g.sc

/-- Replace one stream of a group. -/
def Group.setStream (g : Group) (st : Stream) (x : StreamState) : Group :=
  match st with
  | .addr => { g with sa := x }
  | .comp => { g with sc := x }

/-- Change one stream of a group. -/
def Group.modStream (g : Group) (st : Stream) (f : StreamState → StreamState) : Group := g.setStream st (f (g.stream st))

/-- Change the lanes of a mask in one stream. -/
def Group.modLanes (g : Group) (st : Stream) (m : Word) (f : LaneCtl → LaneCtl) : Group :=
  g.modStream st (fun x => { x with lanes := Vector.ofFn (fun i => if laneIn m i then f x.lanes[i] else x.lanes[i]) })

/-- The home positions of a stream that satisfy a condition. -/
def StreamState.lanesWhere (x : StreamState) (p : LaneCtl → Bool) : Word := maskOf (fun i => p x.lanes[i])

/-- Lanes that have exited in a stream (07 R176). -/
def StreamState.exitedMask (x : StreamState) : Word := x.lanesWhere (fun l => l.exited)

/-- Lanes that have not exited in a stream. -/
def StreamState.liveMask (x : StreamState) : Word := x.lanesWhere (fun l => !l.exited)

/-- The stream has exited in every lane (08 R243). -/
def StreamState.allExited (x : StreamState) : Bool := x.liveMask == 0

/-- The die of a group's core (16 Table 16.14). -/
def Group.die (g : Group) : Nat := g.core / 96

/-- The quad of a group's core, numbered over the package (10 R257). -/
def Group.quad (g : Group) : Nat :=
  let c := g.core % 96
  g.die * 24 + (c / 12 / 2) * 6 + (c % 12) / 2

/-- The context of a group: its tenant in its partition (01 R14). -/
def Group.context (g : Group) : Nat := g.part * 65 + g.fn

/-- The code base of a stream, from which TRAPPC counts words (17 R436). -/
def Group.codeBase (g : Group) : Stream → Dword
  | .addr => g.cfg.codea
  | .comp => g.cfg.codec

/-- Units of one cycle of a die (14 R379). -/
def Die.period (d : Die) : Nat := 20 * Config.unitsPerNs / d.k50

/-- A die by number. -/
def State.die (s : State) (d : Nat) : Die := s.dies[d % 4]'(Nat.mod_lt d (by decide))

/-- Change one die. -/
def State.modDie (s : State) (d : Nat) (f : Die → Die) : State :=
  { s with dies := Vector.ofFn (fun i => if i.val = d then f s.dies[i] else s.dies[i]) }

/-- The time at which a relock of a die that is due to end at `t` stops its clock: 750 ns before (14 R383). -/
def relockStop (t : Nat) : Nat := t - 750 * Config.unitsPerNs

/-- A relock of the die is in progress: every slot of it is frozen (14 R383). -/
def State.relocking (s : State) (d : Nat) : Bool :=
  match (s.die d).relock with
  | some (t, _) => decide (relockStop t ≤ s.units)
  | none => false

/-- The core clock of a die runs. -/
def State.clockRuns (s : State) (d : Nat) : Bool := !s.relocking d && !(s.die d).gated

/-- Core cycles since the clock last started; none pass in a relock or behind a power gate. -/
def State.cyclesSince (s : State) (d : Nat) : Nat :=
  let x := s.die d
  if x.gated then 0
  else
    match x.relock with
    | some (t, _) => (Nat.min s.units (relockStop t) - x.since) / x.period
    | none => (s.units - x.since) / x.period

/-- CYCLE (14 R380). -/
def State.dieCycle (s : State) (d : Nat) : Nat := (s.die d).cycleBase + s.cyclesSince d

/-- The time at which the present cycle of a die began. -/
def State.cycleStart (s : State) (d : Nat) : Nat :=
  let x := s.die d
  if !s.clockRuns d then s.units else x.since + s.cyclesSince d * x.period

/-- REFTIME in nanoseconds (14 R382). -/
def State.reftime (s : State) : Nat := s.units / Config.unitsPerNs

/-- Count an event of 07 Table 7.2 in the counters that select it (19 Table 19.7). -/
def State.count (s : State) (core code n : Nat) : State :=
  s.modDie (core / 96) (fun d =>
    { d with pmcVal := Vector.ofFn (fun i =>
        if fieldNat d.pmcSel[i] 7 0 = code ∧ fieldNat d.pmcSel[i] 22 16 = core % 96 then (d.pmcVal[i] + n) % 2 ^ 64
        else d.pmcVal[i]) })

/-! Queues (07 R178 to R181). -/

/-- The key of a queue at a lane position. -/
def qKey (q : Nat) (L : Fin 32) : Nat := q * 32 + L.val

/-- The entries of a queue at a lane position, oldest first. -/
def Group.entries (g : Group) (q : Nat) (L : Fin 32) : List QEntry := g.q.getD (qKey q L) []

/-- Replace the entries of a queue at a lane position. -/
def Group.setEntries (g : Group) (q : Nat) (L : Fin 32) (es : List QEntry) : Group :=
  { g with q := if es.isEmpty then g.q.drop (qKey q L) else g.q.set (qKey q L) es }

/-- Depth of a queue (07 Table 7.1). -/
def queueDepth (q : Nat) : Nat := if q < 4 then 16 else if q < 6 then 8 else 4

/-- The stream that pops a queue (07 Table 7.1). -/
def queueConsumer (q : Nat) : Stream := if q < 4 ∨ q = 7 then .comp else .addr

/-- The stream that pushes a queue (07 Table 7.1). -/
def queueProducer (q : Nat) : Stream := if q < 4 ∨ q = 7 then .addr else .comp

/-- The entry is present (07 R179). -/
def QEntry.present (e : QEntry) : Bool :=
  match e.tag with
  | .reserved _ => false
  | _ => true

/-- Pushes of a stream's fixed-latency instructions that have not landed (07 R179; log 12). -/
def StreamState.pendingPushes (x : StreamState) (q : Nat) (L : Fin 32) : Nat :=
  (x.landing.flatMap (fun l => l.writes)).countP (fun w =>
    match w with
    | .qPush n M _ => n == q && M == L
    | _ => false)

/-- Reserved, present and landing entries of a queue at a lane position (07 R179). -/
def Group.occupancy (g : Group) (q : Nat) (L : Fin 32) : Nat :=
  (g.entries q L).length + (g.stream (queueProducer q)).pendingPushes q L

/-- The total that SLIP bounds (07 R181). -/
def Group.slipTotal (g : Group) (L : Fin 32) : Nat :=
  g.occupancy 0 L + g.occupancy 1 L + g.occupancy 2 L + g.occupancy 3 L + g.occupancy 7 L

/-- The lane's consumer of the queue has exited, so a push is discarded (07 R177). -/
def Group.discards (g : Group) (q : Nat) (L : Fin 32) : Bool := ((g.stream (queueConsumer q)).lanes[L]).exited

/-- The lane's producer of the queue has exited, so an empty pop gives 0 (07 R177). -/
def Group.producerGone (g : Group) (q : Nat) (L : Fin 32) : Bool := ((g.stream (queueProducer q)).lanes[L]).exited

/-- Append entries to a queue at a lane position, or discard them (07 R177, R179). -/
def Group.enqueue (g : Group) (q : Nat) (L : Fin 32) (es : List QEntry) : Group :=
  if g.discards q L then g else g.setEntries q L (g.entries q L ++ es)

/-- Drop the `n` oldest entries of a queue at a lane position. -/
def Group.dequeue (g : Group) (q : Nat) (L : Fin 32) (n : Nat) : Group := g.setEntries q L ((g.entries q L).drop n)

/-- Some lane holds an undelivered FAULT entry (07 R189). -/
def Group.hasFaultEntry (g : Group) : Bool := g.q.any (fun e => e.2.any (fun x => x.tag == .fault))

/-- Every FAULT entry goes, with the fault behind it (07 R191). -/
def Group.dropFaultEntries (g : Group) : Group :=
  { g with ahead := none, q := (g.q.map (fun e => (e.1, e.2.filter (fun x => x.tag != .fault)))).filter (fun e => !e.2.isEmpty) }

/-! Landing (03 R88, R89). -/

/-- Set one element of a row. -/
def setLane (r : Row) (L : Fin 32) (x : Word) : Row := r.set L x

/-- Set varying register `n` in one lane. -/
def Group.setV (g : Group) (n : Nat) (L : Fin 32) (x : Word) : Group :=
  if h : n < 64 then { g with v := g.v.set n (setLane g.v[n] L x) } else g

/-- Set a uniform register. -/
def Group.setK (g : Group) (n : Nat) (x : Word) : Group := if h : n < 32 then { g with k := g.k.set n x } else g

/-- Set an affine register. -/
def Group.setA (g : Group) (n : Nat) (x : Affine) : Group := if h : n < 16 then { g with a := g.a.set n x } else g

/-- Set or clear one bit of a mask. -/
def setBit (m : Word) (L : Fin 32) (b : Bool) : Word := if b then m ||| (1#32 <<< L.val) else m &&& ~~~(1#32 <<< L.val)

/-- Set a predicate in one lane; a write to p0 is discarded (01 R22). -/
def Group.setP (g : Group) (n : Nat) (L : Fin 32) (b : Bool) : Group :=
  if h : 0 < n ∧ n < 8 then { g with p := g.p.set n (setBit (g.p[n]'h.2) L b) h.2 } else g

/-- A predicate in one lane: p0 always reads true (01 R22). -/
def Group.pred (g : Group) (n : Nat) (L : Fin 32) : Bool :=
  if n = 0 then true else if h : n < 8 then laneIn (g.p[n]) L else true

/-- The value of a predicate source in one lane (05 R116). -/
def Group.predRef (g : Group) (r : PredRef) (L : Fin 32) : Bool := g.pred (r.toNat % 8) L != r.getLsbD 3

/-- OR flags into a lane's FPSTAT (01 R29). -/
def Group.orFlags (g : Group) (L : Fin 32) (f : Flags) : Group :=
  { g with fpstat := setLane g.fpstat L (g.fpstat[L] ||| f.setWidth 32) }

/-- Set a team register (01 R23). -/
def Team.setM (t : Team) (n : Nat) (x : Word) : Team := if h : n < 16 then { t with m := t.m.set n x } else t

/-- Writes to team registers apply, in order. -/
def Team.apply (t : Team) (ws : List TeamWrite) : Team := ws.foldl (fun t w => t.setM w.n w.x) t

/-- Put a write to a team register in its order: by the die cycle in which it lands, then by slot (07 R210). -/
def insertTeamWrite (w : TeamWrite) : List TeamWrite → List TeamWrite
  | [] => [w]
  | x :: r => if w.cycle < x.cycle ∨ (w.cycle = x.cycle ∧ w.slot < x.slot) then w :: x :: r else x :: insertTeamWrite w r

/-- Writes that landed before a die cycle are seen by every group from there on (07 R210). -/
def Team.settle (t : Team) (now : Nat) : Team :=
  { t.apply (t.late.filter (fun w => decide (w.cycle < now))) with late := t.late.filter (fun w => decide (now ≤ w.cycle)) }

/-- The team registers that a read of a group sees in a die cycle: what landed before, and, for the compute stream, its
own writes that have landed (03 R88; 07 R210). -/
def Team.view (t : Team) (now gid : Nat) (st : Stream) : Vector Word 16 :=
  (t.apply (t.late.filter (fun w => decide (w.cycle < now) || (st == .comp && w.gid == gid)))).m

/-- The team registers once everything has landed. -/
def Team.regs (t : Team) : Vector Word 16 := (t.apply t.late).m

/-- A write replaces a storage entry that held an error (19 R479). -/
def RegWrite.repairs (w : RegWrite) (b : BadEntry) : Bool :=
  match w with
  | .vElem n L _ => b.what == n && b.lane == some L
  | .kReg n _ => b.what == 0x40 + n
  | .aReg n _ _ => b.what == 0x60 + n
  | _ => false

/-- Storage entries of a group stop holding errors. -/
def State.repair (s : State) (gid : Nat) (p : BadEntry → Bool) : State :=
  { s with bad := s.bad.filter (fun b => !(b.gid == gid && p b)) }

/-- One write lands, in a cycle of the group's die. -/
def State.land (s : State) (cyc gid : Nat) (w : RegWrite) : State :=
  let s := s.repair gid w.repairs
  match w with
  | .vElem n L x => s.modGroup gid (fun g => g.setV n L x)
  | .kReg n x => s.modGroup gid (fun g => g.setK n x)
  | .aReg n b st => s.modGroup gid (fun g => g.setA n ⟨b, BitVec.ofInt 16 st⟩)
  | .mReg n x =>
    (match s.groups.find gid with
     | some g => s.modTeam g.team (fun t => { t with late := insertTeamWrite ⟨cyc, g.sc.slot % 6, gid, n, x⟩ t.late })
     | none => s)
  | .pBit n L b => s.modGroup gid (fun g => g.setP n L b)
  | .qPush n L x => s.modGroup gid (fun g => g.enqueue n L [⟨x, .data⟩])
  | .flags L f => s.modGroup gid (fun g => g.orFlags L f)

/-- The elements of varying registers that writes reach. -/
def vElemsOf (ws : List RegWrite) : List (Nat × Fin 32) :=
  ws.filterMap (fun w =>
    match w with
    | .vElem n L _ => some (n, L)
    | _ => none)

/-- The elements that instruction writes reached are noted with their cycle, those of past cycles forgotten (01 R19). -/
def Group.noteLanded (g : Group) (cyc : Nat) (ws : List RegWrite) : Group :=
  match vElemsOf ws with
  | [] => g
  | es => { g with landed := g.landed.filter (fun e => decide (cyc ≤ e.1 + 1)) ++ es.map (fun e => (cyc, e)) }

/-- A varying row that a write changes is no longer pinned (03 R86). -/
def State.unpin (s : State) (gid : Nat) (ws : List RegWrite) : State :=
  if s.runs.all (fun e => e.2.pinned.isEmpty) then s
  else { s with runs := s.runs.map (fun e =>
    (e.1, if e.2.members.any (fun m => m.1 == gid) then
        { e.2 with pinned := e.2.pinned.filter (fun n => !ws.any (fun w =>
            match w with
            | .vElem v _ _ => v == n
            | _ => false)) }
      else e.2)) }

/-- Writes land in order. -/
def State.landWrites (s : State) (cyc gid : Nat) (ws : List RegWrite) : State :=
  ws.foldl (fun s w => s.land cyc gid w) (s.unpin gid ws)

/-- The writes of instructions land in order, in a cycle of the group's die. -/
def State.landAllWrites (s : State) (cyc gid : Nat) (ws : List RegWrite) : State :=
  (s.landWrites cyc gid ws).modGroup gid (fun g => g.noteLanded cyc ws)

/-- Put a landing behind those that land no later than it. -/
def insertLanding (l : Landing) : List Landing → List Landing
  | [] => [l]
  | x :: r => if l.due < x.due then l :: x :: r else x :: insertLanding l r

/-- The landings of one stream whose advancing cycle has come land, in order, in a cycle of the die (03 R88, R89). -/
def State.landDue (s : State) (gid : Nat) (st : Stream) (adv cyc : Nat) : State :=
  match s.groups.find gid with
  | none => s
  | some g =>
    let x := g.stream st
    let ready := x.landing.takeWhile (fun l => l.due ≤ adv)
    let s := s.modGroup gid (fun g => g.modStream st (fun x => { x with landing := x.landing.drop ready.length }))
    s.landAllWrites cyc gid (ready.flatMap (fun l => l.writes))

/-- What ended runs of a stream have left lands, up to a cycle of the die (03 R88). -/
def State.landLate (s : State) (gid : Nat) (st : Stream) (now : Nat) : State :=
  match s.groups.find gid with
  | none => s
  | some g =>
    let ready := (g.stream st).late.takeWhile (fun l => l.due ≤ now)
    let s := s.modGroup gid (fun g => g.modStream st (fun x => { x with late := x.late.drop ready.length }))
    ready.foldl (fun s l => s.landAllWrites l.due gid l.writes) s

/-- Everything that ended runs of a stream have left lands (17 R439). -/
def State.landAll (s : State) (gid : Nat) (st : Stream) : State :=
  match s.groups.find gid with
  | none => s
  | some g => s.landLate gid st ((g.stream st).late.foldl (fun m l => Nat.max m l.due) 0)

/-- A stream leaves its run: the results that the run has issued stay due, the cycle of the die being `base` at advancing
cycle `adv` (03 R88). -/
def StreamState.retire (x : StreamState) (base adv : Nat) : StreamState :=
  { x with landing := [], late := x.landing.foldl (fun r l => insertLanding { l with due := base + (l.due - adv) } r) x.late }

/-! Runs and slots. -/

/-- A run carries a group in a stream. -/
def Run.carries (r : Run) (gid : Nat) (st : Stream) : Bool := r.stream == st && r.members.any (fun m => m.1 == gid)

/-- The slot that carries a group in a stream (07 R193). -/
def State.slotOf (s : State) (gid : Nat) (st : Stream) : Option (Nat × Run) := s.runs.find? (fun e => e.2.carries gid st)

/-- Move lanes of a stream to a PC. -/
def Group.setPc (g : Group) (st : Stream) (m : Word) (pc : Dword) (k : PcKind) : Group :=
  g.modLanes st m (fun l => { l with pc := pc, kind := k })

/-- Where lanes stand that stop before the instruction at a PC of a clause: before its first instruction they stand at the
header (17 R436; 18 Table 18.6). -/
def standAt (hdr pc : Dword) (k : PcKind) : Dword × PcKind :=
  if k = .inside ∧ pc = hdr + 4 then (hdr, .header) else (pc, k)

/-- What a run's PC names between two of its instructions. -/
def Run.pcKind (r : Run) : PcKind := if r.left = 0 then .header else .inside

/-- Where the lanes of a run stand between two of its instructions. -/
def Run.place (r : Run) : Dword × PcKind := standAt r.hdr r.pc r.pcKind

/-- The stream of a slot: four C-slots, then two A-slots (07 R193). -/
def slotStream (slot : Nat) : Stream := if slot % 6 < 4 then .comp else .addr

/-- The core of a slot. -/
def slotCore (slot : Nat) : Nat := slot / 6

/-- The die cycle of a slot. -/
def State.slotCycle (s : State) (slot : Nat) : Nat := s.dieCycle (slotCore slot / 96)

/-- The results that are due by the next advancing cycle of a run land in its groups, in the present cycle (03 R88). -/
def State.landRun (s : State) (slot : Nat) (r : Run) : State :=
  r.members.foldl (fun s m => s.landDue m.1 r.stream r.adv (s.slotCycle slot)) s

/-- The die cycle of the run's next advancing cycle: the present one at the earliest. -/
def Run.base (r : Run) (now : Nat) : Nat := Nat.max (r.ready.getD now) now

/-- A stream's part in a run ends: it rests for 8 cycles from its last issue, and its results stay due (03 R78, R88). -/
def StreamState.leave (x : StreamState) (r : Run) (now start : Nat) : StreamState :=
  { x.retire (r.base now) r.adv with
    lastEnd := start + 1, restUntil := (match r.ready with | some n => n + 7 | none => now + 8), waiting := none }

/-- A group leaves a run: its lanes keep their place there, and what was due in a cycle that froze the slot lands, the cycles
advancing again. -/
def State.leaveRun (s : State) (r : Run) (m : Nat × Word) : State :=
  match s.groups.find m.1 with
  | none => s
  | some g =>
    let now := s.dieCycle g.die
    (s.modGroup m.1 (fun g =>
      (g.setPc r.stream m.2 r.place.1 r.place.2).modStream r.stream (fun x => x.leave r now (s.cycleStart g.die)))).landLate
        m.1 r.stream now

/-- A run ends: its lanes keep their place, the drawn groups are released and the rest of 03 R78 begins. -/
def State.endRun (s : State) (slot : Nat) : State :=
  match s.runs.find slot with
  | none => s
  | some r => r.members.foldl (fun s m => s.leaveRun r m) { s with runs := s.runs.drop slot }

/-- One group leaves the run that carries it in a stream, before that stream's next unissued instruction
(07 R192; 17 R438, R439). -/
def State.stopStream (s : State) (gid : Nat) (st : Stream) : State :=
  match s.slotOf gid st with
  | none => s
  | some (slot, r) =>
    if r.members.length ≤ 1 then s.endRun slot
    else
      (s.modRun slot (fun r => { r with members := r.members.filter (fun m => m.1 != gid) })).leaveRun r
        ((r.members.find? (fun m => m.1 == gid)).getD (gid, 0))

/-- Every slot that waited may try again. -/
def State.wake (s : State) : State := { s with runs := s.runs.map (fun e => (e.1, { e.2 with woken := true })) }

/-! Faults and traps (17). -/

/-- Code of a cause (17 Table 17.2). -/
def Cause.code : Cause → Nat
  | .translation => 0x01 | .permission => 0x02 | .transit => 0x03 | .misaligned => 0x04
  | .illegalType => 0x08 | .uniformDivergent => 0x09 | .affineRange => 0x0A | .nonuniform => 0x0B
  | .nonaffine => 0x0C | .streamOwner => 0x0D | .illegalOpcode => 0x10 | .illegalOperand => 0x11
  | .illegalClause => 0x12 | .badTarget => 0x13 | .hazard => 0x14 | .queueDeadlock => 0x15 | .poison => 0x16
  | .watchdog => 0x17 | .breakpoint => 0x18 | .trap => 0x19 | .halted => 0x1A | .cmdfail => 0x1B | .submit => 0x1C

/-- Code of an access kind (17 Table 17.1). -/
def AccessKind.code : AccessKind → Nat
  | .none => 0 | .load => 1 | .store => 2 | .atomic => 3 | .prefetch => 4 | .fetch => 5 | .stack => 6 | .scratch => 7
  | .matrix => 8 | .engine => 9 | .clean => 10

/-- A fault as an instruction meets it (17 R435, R436). -/
structure FaultInfo where
  cause : Cause
  kind : AccessKind
  write : Bool
  addr : Nat
  deriving DecidableEq, Repr

/-- A fault with no access. -/
def FaultInfo.plain (c : Cause) : FaultInfo := ⟨c, .none, false, 0⟩

/-- TRAPCAUSE (17 Table 17.1). -/
def causeWord (f : FaultInfo) (runAhead : Bool) (st : Stream) : Word :=
  BitVec.ofNat 32 (f.cause.code + 2 ^ 8 * f.kind.code + (if st = .addr then 2 ^ 16 else 0) +
    (if runAhead then 2 ^ 17 else 0) + (if f.write then 2 ^ 18 else 0))

/-- A word offset of TRAPPC (17 R436). -/
def pcOffset (base pc : Dword) : Word := ((pc - base) >>> 2).setWidth 32

/-- A field of TRAPPC that names no resume point (17 R436). -/
def noResume : Word := 0xFFFFFFFF

/-- TRAPPC from its two fields (17 R436). -/
def trapPc (apc cpc : Word) : Dword := apc ++ cpc

/-- Record a fault of a group, to be delivered when the group is quiet; both streams stop and what they have issued at
fixed latency lands (17 R439 steps 1, 2). A fault that completes behind a recorded one is not recorded (log 112). -/
def State.raise (s : State) (gid : Nat) (c : Cause) (regs : TrapRegs) : State :=
  let s := (((s.stopStream gid .addr).stopStream gid .comp).landAll gid .addr).landAll gid .comp
  s.modGroup gid (fun g =>
    match g.pendingTrap with
    | some _ => g
    | none => { g with pendingTrap := some ⟨c, regs⟩ })

/-- A fault precise at the instruction at `pc` of a stream, met by the lanes of `m` (17 R436, R438). -/
def State.raiseAt (s : State) (gid : Nat) (st : Stream) (m : Word) (pc : Dword) (k : PcKind) (f : FaultInfo) : State :=
  match s.groups.find gid with
  | none => s
  | some g =>
    let off := pcOffset (g.codeBase st) pc
    let regs : TrapRegs :=
      ⟨causeWord f false st, if st = .addr then trapPc off noResume else trapPc noResume off, BitVec.ofNat 64 f.addr⟩
    let s := s.raise gid f.cause regs
    s.modGroup gid (fun g => (g.setPc st m pc k).modLanes st m (fun l => { l with faulting := true }))

/-- A fault that gives neither stream a resume point (17 R436). -/
def State.raiseLate (s : State) (gid : Nat) (st : Stream) (f : FaultInfo) : State :=
  s.raise gid f.cause ⟨causeWord f false st, trapPc noResume noResume, BitVec.ofNat 64 f.addr⟩

/-- The group has nothing under way but BARWAIT (17 R439 step 2; 16 R422). -/
def State.quiet (s : State) (gid : Nat) : Bool :=
  !s.ops.any (fun e => e.2.gid == gid && (match e.2.kind with | .barwait .. => false | _ => true)) &&
  !s.entries.any (fun e => e.2.gid == gid)

/-- FRSIZE is a size that the ring works with (17 R444). -/
def ringEnabled (n : Nat) : Bool := n ∈ [16, 32, 64, 128, 256, 512, 1024, 2048, 4096]

/-- The ring of a function is full (17 R441). -/
def Fn.ringFull (f : Fn) : Bool := (f.frtail + 1) % f.frsize == f.frhead % f.frsize

/-- A function's registers. -/
def State.fn (s : State) (f : Nat) : Fn := s.fns.getD f Fn.reset

/-- Change a function's registers. -/
def State.modFn (s : State) (f : Nat) (u : Fn → Fn) : State := { s with fns := s.fns.set f (u (s.fn f)) }

/-- The launch is killed: its groups stop at their next run boundary and its tickets are dropped (17 R443; 14 R378). -/
def State.killLaunch (s : State) (l : Nat) : State :=
  let s := s.modLaunch l (fun x => { x with killed := true, ranges := x.ranges.map (fun r => { r with front := r.back }) })
  { s with groups := s.groups.map (fun e => (e.1, if e.2.launch = l then { e.2 with killed := true } else e.2)) }

/-- IDENT of a fault record (17 Table 17.3). -/
def Group.ident (g : Group) (actionable : Bool) : Nat :=
  g.teamId + 2 ^ 8 * g.groupId + (if g.trapMode then 2 ^ 16 else 0) + (if actionable then 2 ^ 17 else 0)

/-- A record waits for the fault ring of a function; a disabled ring turns an actionable record into KILL, and a disabled
or full one drops every other (17 R441 to R443). -/
def State.postRecord (s : State) (f : Nat) (r : FaultRec) : State :=
  if ringEnabled (s.fn f).frsize && !(r.gid.isNone && (s.fn f).ringFull) then
    s.modFn f (fun x => { x with waiting := x.waiting ++ [r] })
  else
    match r.gid.bind (fun k => s.groups.find k) with
    | some g => s.killLaunch g.launch
    | none => s.modFn f (fun x => { x with frdrop := x.frdrop + 1 })

/-- A record that halts nothing (17 R442). -/
def State.postLog (s : State) (f part : Nat) (cause : Word) (addr : Nat) (detail : List Byte) : State :=
  s.postRecord f ⟨⟨cause, 0, BitVec.ofNat 64 addr⟩, 0, 0, 0, s.reftime, detail, none, part⟩

/-- The mark of an escalated group whose record has no sequence number yet. -/
def noSeq : Nat := 2 ^ 32

/-- Escalation: the group is halted in place and a record goes to the fault ring (17 R441). -/
def State.escalate (s : State) (gid : Nat) (p : PendingTrap) : State :=
  match s.groups.find gid with
  | none => s
  | some g =>
    let s := s.modGroup gid (fun g =>
      { g with firstRegs := if g.trapMode then some g.regs else none, regs := p.regs, pendingTrap := none,
               status := .halted, escalated := some noSeq })
    let lrec := ((s.launches.find g.launch).map (fun l => l.lrec)).getD 0
    s.postRecord g.fn ⟨p.regs, lrec, g.gridpos, g.ident true, s.reftime, [], some gid, g.part⟩

/-- What trap entry saves of a lane. -/
def LaneCtl.save (l : LaneCtl) : SavedLane := ⟨l.pc, l.kind, l.park, l.faulting⟩

/-- Trap entry (17 R439 step 5): compute PCs and parked states are saved, the handler starts at TRAPVEC. -/
def Group.enterTrap (g : Group) (p : PendingTrap) : Group :=
  let g := { g with
    saved := Vector.ofFn (fun i => g.sc.lanes[i].save)
    regs := p.regs
    trapMode := true
    pendingTrap := none
    sc := { g.sc with lanes := Vector.ofFn (fun i => { g.sc.lanes[i] with faulting := false }) } }
  g.modLanes .comp g.sc.liveMask (fun l => { l with pc := g.cfg.trapvec, kind := .header, park := .none })

/-- Delivery of a recorded fault once the group is quiet (17 R439 steps 3 to 5). -/
def State.settle (s : State) (gid : Nat) : State :=
  match s.groups.find gid with
  | none => s
  | some g =>
    match g.pendingTrap with
    | none => s
    | some p =>
      if !s.quiet gid then s
      else if p.cause = .transit ∧ g.cfg.trapvec = 0 ∧ !g.trapMode then
        s.modGroup gid (fun g => { g with regs := p.regs, pendingTrap := none, transitWait := true })
      else if g.cfg.trapvec = 0 ∨ g.trapMode ∨ p.cause = .watchdog ∨ p.cause = .halted ∨ g.sc.allExited then
        s.escalate gid p
      else s.modGroup gid (fun g => g.enterTrap p)

/-- A lane's place after RTT: the faulting path resumes at TRAPPC (17 R447). -/
def resumeLane (l : LaneCtl) (back : SavedLane) (base : Dword) (off : Word) : LaneCtl :=
  if l.exited then l
  else if back.faulting && off != noResume then
    let pc := base + (off.setWidth 64 <<< 2)
    { l with pc := pc, kind := if pc = back.pc then back.kind else .redirected, park := .none, faulting := false }
  else { l with pc := back.pc, kind := back.kind, park := back.park, faulting := false }

/-- The return of 17 R447: both streams get their places back and FAULT entries go (07 R191). -/
def Group.resume (g : Group) : Group :=
  let apc : Word := g.regs.pc.extractLsb' 32 32
  let cpc : Word := g.regs.pc.setWidth 32
  let back (i : Fin 32) : SavedLane :=
    if g.trapMode then g.saved[i] else g.sc.lanes[i].save
  let g := { g with
    sa := { g.sa with lanes := Vector.ofFn (fun i =>
      resumeLane g.sa.lanes[i] g.sa.lanes[i].save g.cfg.codea apc) }
    sc := { g.sc with lanes := Vector.ofFn (fun i => resumeLane g.sc.lanes[i] (back i) g.cfg.codec cpc) }
    trapMode := false
    transitWait := false }
  g.dropFaultEntries

/-- A waiter has seen the walks and host translations that failed for it. -/
def State.seenFaults (s : State) (fn : Nat) (w : Waiter) : State :=
  { s with
    walks := (s.walks.map (fun e =>
      if e.2.failed.isSome then (e.1, { e.2 with waiters := e.2.waiters.filter (fun x => x != w) }) else e)).filter
        (fun e => e.2.failed.isNone || !e.2.waiters.isEmpty)
    ats := (s.ats.map (fun e =>
      match e.st with
      | .failed _ => if e.fn = fn then { e with waiters := e.waiters.filter (fun x => x != w) } else e
      | _ => e)).filter (fun e => match e.st with | .failed _ => !e.waiters.isEmpty | _ => true) }

/-! Rejoin sets (07 R201, R202). -/

/-- Lanes are released in a cycle of the die: they form a path from the next one on (07 R202). -/
def StreamState.free (x : StreamState) (m : Word) (cyc : Nat) : StreamState :=
  { x with freed := if x.freedAt = cyc + 1 then x.freed ||| m else m, freedAt := cyc + 1 }

/-- The lanes that may form a path in a cycle of the die, as far as their release goes. -/
def StreamState.settled (x : StreamState) (cyc : Nat) : Word := if x.freedAt = cyc + 1 then ~~~x.freed else BitVec.allOnes 32

/-- The release of 07 R202 for one mask in one stream, in a cycle of the die. -/
def Group.release (g : Group) (st : Stream) (j : Fin 16) (cyc : Nat) : Group :=
  let x := g.stream st
  if (g.j[j] &&& ~~~(x.arrivals[j] ||| x.exitedMask)) = 0 then
    g.modStream st (fun x =>
      { x.free (x.lanesWhere (fun l => l.park == .join j.val)) cyc with
        lanes := Vector.ofFn (fun i =>
          if x.lanes[i].park = .join j.val then { x.lanes[i] with park := .none } else x.lanes[i])
        arrivals := x.arrivals.set j 0 })
  else g

/-- The release of 07 R202 for every mask of a stream. -/
def Group.releaseAll (g : Group) (st : Stream) (cyc : Nat) : Group :=
  (List.finRange 16).foldl (fun g j => g.release st j cyc) g

/-! Barriers (08 R243; 10 R286). -/

/-- The number of a team barrier of a stream. -/
def tbarIx (st : Stream) (n : Nat) : Fin 8 :=
  ⟨(match st with | .addr => 0 | .comp => 4) + n % 4, by cases st <;> simp <;> omega⟩

/-- A group has an ordered access outstanding (08 R230). -/
def State.orderedOutstanding (s : State) (gid : Nat) : Bool :=
  s.ops.any (fun e => e.2.gid == gid &&
    (e.2.isOrdered && !e.2.todo.isEmpty || (match e.2.kind with | .barwait .. => true | _ => false)))

/-- A group's stream counts as arrived at every team barrier: it has exited in every lane, and the ordered access that it
issued before is performed (08 R243, R244; 13 R325). -/
def State.goneAt (s : State) (gid : Nat) (g : Group) (st : Stream) : Bool :=
  g.status == .finished || ((g.stream st).allExited && !(st == .addr && s.orderedOutstanding gid))

/-- A team barrier's phase completes when every group whose stream has not exited has arrived (08 R243). -/
def State.checkTbar (s : State) (tid : Nat) (st : Stream) (n : Nat) : State :=
  match s.teams.find tid with
  | none => s
  | some t =>
    let b := t.tbar[tbarIx st n]
    if (s.teamGroups tid).all (fun e =>
        s.goneAt e.1 e.2 st || b.arrived.getLsbD e.2.groupId) && b.arrived != 0 then
      s.modTeam tid (fun t => { t with tbar := t.tbar.set (tbarIx st n) { b with phase := b.phase + 1, arrived := 0 } })
    else s

/-- A cluster barrier's phase completes when every group whose compute stream has not exited has arrived (10 R286). -/
def State.checkCbar (s : State) (gk : Nat) (n : Fin 8) : State :=
  match s.gangs.find gk with
  | none => s
  | some c =>
    let b := c.cbar[n]
    if c.groups.all (fun k =>
        b.arrived.contains k ||
          (match s.groups.find k with
           | some g => g.status == .finished || g.sc.allExited
           | none => true)) && !b.arrived.isEmpty then
      s.modGang gk (fun c => { c with cbar := c.cbar.set n ⟨b.phase + 1, []⟩ })
    else s

/-- A stream that exits counts as arrived at every barrier (08 R243; 10 R286). -/
def State.checkBarriers (s : State) (g : Group) (st : Stream) : State :=
  let s := (List.range 4).foldl (fun s n => s.checkTbar g.team st n) s
  match st with
  | .addr => s
  | .comp => (List.finRange 8).foldl (fun s n => s.checkCbar g.gang n) s

/-- An ordered access of a group is performed: what its address stream, having exited, still owed the team barriers is
done (13 R325). -/
def State.afterOrdered (s : State) (gid : Nat) : State :=
  match s.groups.find gid with
  | some g => if g.sa.allExited then s.checkBarriers g .addr else s
  | none => s

/-! Finishing (07 R176; 10 R258; 16 R418). -/

/-- Change one core. -/
def State.modCore (s : State) (c : Nat) (f : Core → Core) : State :=
  { s with cores := s.cores.set c (f (s.cores.getD c Core.reset)) }

/-- Give back the row blocks that an owner holds on a core (16 R418). -/
def Core.releaseBlocks (c : Core) (owner : Nat) : Core :=
  { c with blocks := (c.blocks.map (fun e => (e.1, e.2.filter (fun o => o != owner)))).filter (fun e => !e.2.isEmpty) }

/-- When every group of a gang has finished, the gang has: scratch and barrier set are released (10 R258); what scratch held
stays there until its launch is forgotten or its rows are given again (07 R213; 18 R472). -/
def State.finishGang (s : State) (gk : Nat) : State :=
  match s.gangs.find gk with
  | none => s
  | some c =>
    if c.status = .finished then s
    else if c.groups.all (fun k => ((s.groups.find k).map (fun g => g.status == .finished)).getD true) then
      let s := s.modGang gk (fun c => { c with status := .finished, pending := false })
      let s := s.modLaunch c.launch (fun l => { l with finished := l.finished + 1 })
      let nw := c.die * 96 + 12 * c.row + c.col
      let s := if c.pending then s else s.modCore nw (fun k => { k with cbarSets := k.cbarSets - 1 })
      c.teams.foldl (fun s t =>
        match s.teams.find t with
        | some x => s.modCore x.core (fun k => k.releaseBlocks t)
        | none => s) s
    else s

/-- A group has finished: its slot and rows are released, and a BARWAIT that still waits ends with it (07 R176). -/
def State.finishGroup (s : State) (gid : Nat) : State :=
  match s.groups.find gid with
  | none => s
  | some g =>
    let s := ((s.landAll gid .addr).landAll gid .comp).modGroup gid (fun g =>
      { g with status := .finished, q := [] })
    let s := { s with ops := s.ops.filter (fun e => e.2.gid != gid),
                      home := s.home.filter (fun k => ((s.ops.find k).map (fun (o : VOp) => o.gid != gid)).getD false) }
    let s := s.modCore g.core (fun c =>
      { (c.releaseBlocks gid) with slots := c.slots.map (fun o => if o = some gid then none else o) })
    s.finishGang g.gang

/-- A killed group stops once no slot carries it and nothing of it is under way; a group whose lanes are all finished
has finished (17 R443; 07 R176). -/
def State.reap (s : State) (gid : Nat) : State :=
  match s.groups.find gid with
  | none => s
  | some g =>
    if g.status = .finished then s
    else if (g.sa.allExited && g.sc.allExited && s.quiet gid) ||
        (g.killed && (s.slotOf gid .addr).isNone && (s.slotOf gid .comp).isNone && s.quiet gid) then
      s.finishGroup gid
    else s

/-- A group asked to halt is halted once no slot carries it and it is quiet (16 R422). -/
def State.haltIfQuiet (s : State) (gid : Nat) : State :=
  match s.groups.find gid with
  | none => s
  | some g =>
    if g.status = .halting ∧ (s.slotOf gid .addr).isNone ∧ (s.slotOf gid .comp).isNone ∧ s.quiet gid then
      ((s.landAll gid .addr).landAll gid .comp).modGroup gid (fun g => { g with status := .halted })
    else s

/-- Groups of killed launches that nothing carries stop. -/
def State.reapKilled (s : State) : State :=
  (Assoc.keys (s.groups.filter (fun e => e.2.killed && e.2.status != .finished))).foldl State.reap s

/-- What follows every change of a group's pending work: halts, deliveries, finishing. -/
def State.afterWork (s : State) (gid : Nat) : State := (((s.settle gid).haltIfQuiet gid).reap gid).reapKilled

/-- Lanes exit in a stream: the release of every mask is tested, and the last exit arrives at every barrier
(07 R176, R202; 08 R243). -/
def State.exitStream (s : State) (gid : Nat) (st : Stream) (m : Word) : State :=
  let s := s.modGroup gid (fun g =>
    (g.modLanes st m (fun l => { l with exited := true, park := .none, faulting := false })).releaseAll st (s.dieCycle g.die))
  match s.groups.find gid with
  | some g => if (g.stream st).allExited then s.checkBarriers g st else s
  | none => s

/-- EXIT of lanes in a stream; a fault that was never delivered is discarded when the compute stream has exited
everywhere, and the address stream ends in its lanes (07 R176, R191). -/
def State.exitLanes (s : State) (gid : Nat) (st : Stream) (m : Word) : State :=
  let s := s.exitStream gid st m
  match s.groups.find gid with
  | some g =>
    if st = .comp ∧ g.sc.allExited ∧ g.ahead.isSome then
      (s.modGroup gid Group.dropFaultEntries).exitStream gid .addr (g.sa.lanesWhere (fun l => l.faulting))
    else s
  | none => s

end Sys2Proof.Machine
end

