-- ==== Sys2Proof/Machine/Operands.lean ====
section
/-! DEFINITION. Operand codes: what they name, their types, which stream owns them, what a lane reads through them
and what a result writes (01 R15 to R39; 03 R84 to R90; 05 R113 to R117; 08 R226). -/

namespace Sys2Proof.Machine

open Sys2Proof

/-- What an operand code names (03 Table 3.5). -/
inductive Names where
  | v (n : Nat) | k (n : Nat) | a (n : Nat) | q (n : Nat) | m (n : Nat) | zero | laneId | groupId | one
  deriving DecidableEq, Repr

/-- The meaning of an operand code (03 Table 3.5). -/
def codeNames (c : Code) : Names :=
  let n := c.toNat
  if n < 0x40 then .v n else if n < 0x60 then .k (n - 0x40) else if n < 0x70 then .a (n - 0x60)
  else if n < 0x78 then .q (n - 0x70) else if n = 0x78 then .zero else if n = 0x79 then .laneId
  else if n = 0x7A then .groupId else if n = 0x7B then .one else .m (n - 0x7C)

/-- The types of 01 R34, in their order. -/
inductive Ty where
  | uni | aff | vary
  deriving DecidableEq, Repr

/-- The place of a type in the order of 01 R34. -/
def Ty.rank : Ty → Nat
  | .uni => 0 | .aff => 1 | .vary => 2

/-- The higher of two types. -/
def Ty.max (a b : Ty) : Ty := if a.rank < b.rank then b else a

/-- The type of what a code names (01 R34). -/
def Names.ty : Names → Ty
  | .v _ | .q _ => .vary
  | .a _ | .laneId => .aff
  | .k _ | .m _ | .zero | .groupId | .one => .uni

/-- A register or queue operand: its code, its width in words, and whether it is the data of a memory instruction
(08 R226). -/
structure Operand where
  code : Code
  words : Nat
  mem : Bool
  deriving DecidableEq, Repr

/-- A 32-bit operand. -/
def op32 (c : Code) : Operand := ⟨c, 1, false⟩
/-- A 64-bit operand (05 R114). -/
def op64 (c : Code) : Operand := ⟨c, 2, false⟩
/-- An operand of an integer width (05 R113). -/
def opInt (n : Nat) (c : Code) : Operand := if n = 64 then op64 c else op32 c

/-- What an operand names. -/
def Operand.names (o : Operand) : Names := codeNames o.code
/-- The type of an operand. -/
def Operand.ty (o : Operand) : Ty := o.names.ty

/-- Registers are numbered as hazards see them: operand codes, predicates from 0x100, team registers from 0x200,
accumulators from 0x400, rejoin masks from 0x500, guard slots from 0x600, FPSTAT 0x700, arrival sets from 0x800 (address
stream) and 0x810 (compute stream). -/
abbrev Res := Nat

/-- The registers that an operand reads or writes. -/
def Operand.regs (o : Operand) : List Res :=
  match o.names with
  | .v n => (List.range o.words).map (fun i => n + i)
  | .k n => (List.range o.words).map (fun i => 0x40 + n + i)
  | .a n => [0x60 + n]
  | .m n => [0x200 + n]
  | _ => []

/-- The register of a predicate; p0 is none. -/
def predRes (n : Nat) : List Res := if n % 8 = 0 then [] else [0x100 + n % 8]

/-- The register that a write changes. -/
def RegWrite.res : RegWrite → List Res
  | .vElem n _ _ => [n]
  | .kReg n _ => [0x40 + n]
  | .aReg n _ _ => [0x60 + n]
  | .mReg n _ => [0x200 + n]
  | .pBit n _ _ => predRes n
  | .qPush _ _ _ => []
  | .flags _ _ => [0x700]

/-- The arrival set of a mask in a stream, as a storage entry. -/
def arrivalRes (st : Stream) (j : Nat) : Res := (match st with | .addr => 0x800 | .comp => 0x810) + j

/-! Which codes are legal (01 R16, R17; 05 R114; 08 R226). -/

/-- The operand is malformed for a group of `vregs` varying registers, as a source or a destination. -/
def Operand.malformed (vregs : Nat) (o : Operand) : Bool :=
  match o.names with
  | .v n => n % o.words != 0 || decide (vregs < n + o.words)
  | .k n => n % o.words != 0
  | .q _ => !(o.mem || o.words == 1)
  | .m _ => o.words != 1
  | .a _ | .laneId | .groupId | .one => decide (o.words > 2)
  | .zero => false

/-- A use as a destination that is reserved (01 R34). -/
def Operand.reservedDst (o : Operand) : Bool :=
  match o.names with
  | .laneId | .groupId | .one => true
  | _ => false

/-! Ownership (01 R32, R33; 17 R434). -/

/-- The stream that owns varying register `n`, k`n`, a`n` or p`n`. -/
def ownerOf (low : Nat) (n : Nat) : Stream := if n < low then .addr else .comp

/-- A source that the stream may not read. -/
def Operand.foreignSrc (aregs : Nat) (st : Stream) (o : Operand) : Bool :=
  match o.names with
  | .v n => (List.range o.words).any (fun i => ownerOf aregs (n + i) != st)
  | .k n => ownerOf 16 n != st
  | .a n => ownerOf 8 n != st
  | .q n => queueConsumer n != st
  | _ => false

/-- A destination that the stream may not write. -/
def Operand.foreignDst (aregs : Nat) (st : Stream) (o : Operand) : Bool :=
  match o.names with
  | .v n => (List.range o.words).any (fun i => ownerOf aregs (n + i) != st)
  | .k n => ownerOf 16 n != st
  | .a n => ownerOf 8 n != st
  | .q n => queueProducer n != st
  | .m _ => st != .comp
  | _ => false

/-- A predicate that the stream may not name; p0 belongs to both. -/
def foreignPred (st : Stream) (n : Nat) : Bool := n % 8 != 0 && ownerOf 4 (n % 8) != st

/-! What an instruction names. -/

/-- The operands of an instruction: sources in the order of 03 R84, its destination, the predicates it reads
(`restricted` are those of 05 R117), the predicates it writes, its member mask, and what its own description adds. -/
structure Uses where
  srcs : List Operand := []
  dst : Option Operand := none
  preds : List PredRef := []
  restricted : List PredRef := []
  pdst : List Nat := []
  member : Option Nat := none
  /-- It names a register that only the compute stream has. -/
  compOnly : Bool := false
  /-- It names a register that only the address stream has. -/
  addrOnly : Bool := false
  /-- It stands in the address stream alone, whatever it names (14 R359). -/
  addrStream : Bool := false
  /-- The bundle must cover the group (08 R242; 17 R447). -/
  cover : Bool := false
  /-- CPRED true in only some of its lanes is a fault as well (08 R242). -/
  whole : Bool := false
  /-- The exceptions of 01 R35. -/
  anySrc : Bool := false
  /-- An affine source may meet an affine destination (01 Table 1.6). -/
  closed : Bool := false
  /-- It writes another register of uniform type: a team register or a special register (01 R38). -/
  group : Bool := false
  /-- Further registers read and written: team registers, accumulators, masks. -/
  alsoReads : List Nat := []
  alsoWrites : List Nat := []
  /-- Registers read in lanes that are not active as well, with those lanes (11 R294). -/
  laneReads : List (Nat × Word) := []
  /-- It reads the arrival set of this rejoin mask in its own stream (07 R201). -/
  arrival : Option Nat := none
  /-- Its own description calls this operand illegal. -/
  badOperand : Bool := false
  /-- Its own description calls this stream or register foreign. -/
  badOwner : Bool := false
  /-- Its own description calls this type illegal. -/
  badType : Bool := false
  deriving DecidableEq, Repr

/-- The highest type among the sources. -/
def Uses.srcTy (u : Uses) : Ty := u.srcs.foldl (fun t o => t.max o.ty) .uni

/-- The type of an instruction (01 R34; 05 R115). -/
def Uses.ty (u : Uses) : Ty :=
  match u.dst with
  | some d => if d.names = .zero then u.srcTy else d.ty
  | none => u.srcTy

/-- The destination is a register of uniform or affine type (01 R38). -/
def Uses.groupWrite (u : Uses) : Bool :=
  u.group || (match u.dst with
  | some d => d.names != .zero && d.ty != .vary
  | none => false)

/-- The instruction names a uniform or affine operand, so its bundle holds one group (01 R39). -/
def Uses.oneGroup (u : Uses) : Bool := u.srcs.any (fun o => o.ty != .vary) || (u.dst.map (fun o => o.ty != .vary)).getD false

/-! One group of the bundle that issues. -/

/-- What an instruction sees of one group of its bundle: `lanes` are the group's lanes in the bundle, `act` those in
which CPRED is true. -/
structure Ctx where
  gid : Nat
  g : Group
  m : Vector Word 16
  st : Stream
  lanes : Word
  act : Word
  pc : Dword
  hdr : Dword
  kind : PcKind
  adv : Nat
  cpred : Option PredRef
  deriving DecidableEq, Repr

/-- The resume point of an instruction (17 R436). -/
def Ctx.place (c : Ctx) : Dword × PcKind := standAt c.hdr c.pc c.kind

/-- The compute stream in trap mode (17 R434). -/
def Ctx.handler (c : Ctx) : Bool := c.g.trapMode && c.st == .comp

/-- The bundle covers every non-exited lane of the group (01 R38). -/
def Ctx.covers (c : Ctx) : Bool := (c.g.stream c.st).liveMask &&& ~~~c.lanes == 0

/-- The lanes that take part: for a cross-lane instruction, the participating set (08 R245). -/
def Ctx.part (c : Ctx) (u : Uses) : Word :=
  match u.member with
  | some j => if h : j < 16 then c.act &&& c.g.j[j] else c.act
  | none => c.act

/-- ILLEGAL_OPERAND of the operands (01 R42 item 1; 17 R434). -/
def Uses.illegalOperand (u : Uses) (c : Ctx) : Bool :=
  u.badOperand ||
  u.srcs.any (fun o => o.malformed c.g.cfg.vregs) ||
  (u.dst.map (fun o => o.malformed c.g.cfg.vregs || o.reservedDst)).getD false ||
  (c.handler && (u.srcs ++ u.dst.toList).any (fun o => match o.names with | .q _ => true | _ => false))

/-- STREAM_OWNER (01 R33; 17 R434). -/
def Uses.foreign (u : Uses) (c : Ctx) : Bool :=
  u.badOwner || (u.addrStream && c.st == .comp) || !c.handler &&
  (u.srcs.any (fun o => o.foreignSrc c.g.cfg.aregs c.st) ||
   (u.dst.map (fun o => o.foreignDst c.g.cfg.aregs c.st)).getD false ||
   (u.preds ++ u.restricted).any (fun p => foreignPred c.st p.toNat) ||
   u.pdst.any (foreignPred c.st) ||
   (u.compOnly && c.st == .addr) || (u.addrOnly && c.st == .comp))

/-- ILLEGAL_TYPE (01 R35, R36). -/
def Uses.illegalType (u : Uses) : Bool :=
  u.badType ||
  (match u.dst with
   | none => false
   | some d =>
     d.names != .zero &&
     ((!u.anySrc && u.srcs.any (fun o => decide (d.ty.rank < o.ty.rank))) ||
      (d.ty == .aff && !u.closed && u.srcs.any (fun o => o.ty == .aff))))

/-- The predicate sources of 05 R117 differ between the lanes of a mask. -/
def predsDiffer (g : Group) (ps : List PredRef) (m : Word) : Bool :=
  ps.any (fun p => (lanesOf m).any (fun L => g.predRef p L != g.predRef p (lowestLane m)))

/-- UNIFORM_DIVERGENT (01 R38; 05 R117; 08 R245); an instruction with no active lane has no effect and does not raise
it (03 R74). -/
def Uses.divergent (u : Uses) (c : Ctx) : Bool :=
  (u.groupWrite && c.act != 0 && (!c.covers || c.act != c.lanes || predsDiffer c.g u.restricted c.act)) ||
  (u.cover && c.act != 0 && !c.covers) || (u.whole && c.act != 0 && c.act != c.lanes) ||
  (match u.member with
   | some j =>
     if h : j < 16 then c.act != 0 && (c.g.j[j] &&& (c.g.stream c.st).liveMask &&& ~~~c.act) != 0 else false
   | none => false)

/-- The first of the encoding faults of 01 R42 that applies. -/
def Uses.encodingFault (u : Uses) (c : Ctx) : Option Cause :=
  if u.illegalOperand c then some .illegalOperand
  else if u.foreign c then some .streamOwner
  else if u.illegalType then some .illegalType
  else if u.divergent c then some .uniformDivergent
  else none

/-! Hazards and waits (03 R88 to R93). -/

/-- Registers read. -/
def Uses.reads (u : Uses) (c : Ctx) : List Res :=
  u.srcs.flatMap Operand.regs ++ u.alsoReads ++ (u.arrival.map (arrivalRes c.st)).toList ++ (u.preds ++ u.restricted ++ c.cpred.toList).flatMap (fun p => predRes p.toNat)

/-- Registers written. -/
def Uses.writes (u : Uses) : List Res := (u.dst.map Operand.regs).getD [] ++ u.pdst.flatMap predRes ++ u.alsoWrites

/-- The writes to team registers that a group has issued and that have not landed: the register, and the die cycle in which
the write lands if nothing freezes the slot. -/
def State.teamDue (s : State) (gid : Nat) (g : Group) : List (Res × Nat) :=
  let now := s.dieCycle g.die
  let at_ : Nat × Nat := match s.slotOf gid .comp with
    | some (_, r) => (r.base now, r.adv)
    | none => (now, 0)
  let ms (cyc : Nat) (l : Landing) : List (Res × Nat) :=
    l.writes.filterMap (fun w => match w with | .mReg n _ => some (0x200 + n, cyc) | _ => none)
  g.sc.landing.flatMap (fun l => ms (at_.1 + (l.due - at_.2)) l) ++ g.sc.late.flatMap (fun l => ms l.due l)

/-- A write to a team register that another group of the team has issued stands in the way: it has not landed and the
instruction reads the register, or it lands after the instruction's own write (01 R23; 03 R90). -/
def State.teamHazard (s : State) (c : Ctx) (rd wr : List Res) (lat : Option Nat) : Bool :=
  (s.teamGroups c.g.team).any (fun e => e.1 != c.gid && (s.teamDue e.1 e.2).any (fun w =>
    rd.contains w.1 || (match lat with | some n => decide (s.dieCycle c.g.die + n < w.2) && wr.contains w.1 | none => false)))

/-- HAZARD (03 R90): `lat` is the latency of the writes, none when it is not fixed; a write at no fixed latency raises
none against an earlier fixed-latency write, there being no latency to compare (log 103). CPRED is read whether or not
any lane is active (03 R74). -/
def State.hazard (s : State) (u : Uses) (c : Ctx) (lat : Option Nat) : Bool :=
  c.g.cfg.checked &&
  (let x := c.g.stream c.st
   let rd := if c.act = 0 then c.cpred.toList.flatMap (fun p => predRes p.toNat) else u.reads c
   let wr := if c.act = 0 then [] else u.writes
   x.landing.any (fun l => l.writes.any (fun w =>
     w.res.any (fun r => rd.contains r ||
       (match lat with | some n => decide (c.adv + n < l.due) && wr.contains r | none => false)))) ||
   s.teamHazard c rd wr lat ||
   s.ops.any (fun e => e.2.gid == c.gid && e.2.stream == c.st &&
     e.2.pend.any (fun r => rd.contains r)))

/-- The waits of 03 R92: an expired window, or a write to a pending destination. -/
def State.lookaheadWait (s : State) (u : Uses) (c : Ctx) : Bool :=
  let wr := u.writes
  s.ops.any (fun e => e.2.gid == c.gid && e.2.stream == c.st &&
    (e.2.window == some 0 || e.2.pend.any (fun r => wr.contains r)))

/-! Queue operands (03 R84; 07 R177 to R181, R190). -/

/-- The queues that the sources pop, one entry a list item, in order. -/
def Uses.popList (u : Uses) : List Nat :=
  u.srcs.flatMap (fun o => match o.names with | .q n => List.replicate o.words n | _ => [])

/-- Entries that a source list pops from a queue at one lane position. -/
def Uses.pops (u : Uses) (q : Nat) : Nat := u.popList.count q

/-- The entries pushed at one lane position by the destination. -/
def Uses.pushes (u : Uses) : Option (Nat × Nat) :=
  match u.dst with
  | some d => (match d.names with | .q n => some (n, d.words) | _ => none)
  | none => none

/-- The queues an instruction pops. -/
def Uses.popQueues (u : Uses) : List Nat := u.popList.eraseDups

/-- Some entry that a lane of the mask pops satisfies a condition. -/
def popAny (g : Group) (u : Uses) (m : Word) (p : QEntry → Bool) : Bool :=
  (lanesOf m).any (fun L => u.popQueues.any (fun q => ((g.entries q L).take (u.pops q)).any p))

/-- Every lane of the mask finds the entries it pops present, or its producer gone (07 R177, R180). -/
def popReady (g : Group) (u : Uses) (m : Word) : Bool :=
  (lanesOf m).all (fun L => u.popQueues.all (fun q =>
    let es := (g.entries q L).take (u.pops q)
    es.all QEntry.present && (es.length == u.pops q || g.producerGone q L)))

/-- Why a push waits (07 R180, R181). -/
def pushWait (g : Group) (st : Stream) (q n : Nat) (m : Word) : Option WaitReason :=
  if (lanesOf m).any (fun L => !g.discards q L && decide (queueDepth q < g.occupancy q L + n)) then some .pushFull
  else if st = .addr && (lanesOf m).any (fun L => !g.discards q L && decide (g.cfg.slip < g.slipTotal L + n)) then
    some .slip
  else none

/-- Why the queue operands of an instruction wait. -/
def queueWait (c : Ctx) (u : Uses) : Option WaitReason :=
  let m := c.part u
  if !popReady c.g u m then some .popEmpty
  else match u.pushes with
    | some (q, n) => pushWait c.g c.st q n m
    | none => none

/-! Reading. -/

/-- One element of a varying register. -/
def Group.vElem (g : Group) (n : Nat) (L : Fin 32) : Word := if h : n < 64 then (g.v[n])[L] else 0

/-- A uniform register. -/
def Group.kReg (g : Group) (n : Nat) : Word := if h : n < 32 then g.k[n] else 0

/-- An affine register. -/
def Group.aReg (g : Group) (n : Nat) : Affine := if h : n < 16 then g.a[n] else ⟨0, 0⟩

/-- The value of an affine register in a lane (01 R21). -/
def Affine.value (a : Affine) (L : Fin 32) : Dword := a.base + BitVec.ofInt 64 (a.stride.toInt * L.val)

/-- Words joined, lowest first. -/
def joinWords : List Word → Nat
  | [] => 0
  | w :: ws => w.toNat + 2 ^ 32 * joinWords ws

/-- The value of an operand in a lane; `skip` entries of its queue are popped by earlier sources (03 R84; 05 R114). -/
def Ctx.read (c : Ctx) (o : Operand) (skip : Nat) (L : Fin 32) : Nat :=
  match o.names with
  | .v n => joinWords ((List.range o.words).map (fun i => c.g.vElem (n + i) L))
  | .k n => joinWords ((List.range o.words).map (fun i => c.g.kReg (n + i)))
  | .a n => ((c.g.aReg n).value L).toNat % 2 ^ (32 * o.words)
  | .q n =>
    joinWords ((List.range o.words).map (fun i => (((c.g.entries n L).drop (skip + i)).head?.map (fun e => e.val)).getD 0))
  | .m n => if h : n < 16 then (c.m[n]).toNat else 0
  | .zero => 0
  | .laneId => L.val
  | .groupId => c.g.groupId
  | .one => 1

/-- The values of the sources in a lane, in order; `before` lists the queues already popped. -/
def Ctx.readAll (c : Ctx) (L : Fin 32) : List Operand → List Nat → List Nat
  | [], _ => []
  | o :: os, before =>
    (match o.names with
     | .q n => c.read o (before.count n) L :: Ctx.readAll c L os (before ++ List.replicate o.words n)
     | _ => c.read o 0 L :: Ctx.readAll c L os before)

/-- The values of an instruction's sources in a lane. -/
def Ctx.values (c : Ctx) (u : Uses) (L : Fin 32) : List Nat := c.readAll L u.srcs []

/-- The values of an instruction's predicate sources in a lane: the restricted ones first. -/
def Ctx.predValues (c : Ctx) (u : Uses) (L : Fin 32) : List Bool := (u.restricted ++ u.preds).map (fun p => c.g.predRef p L)

/-! Writing. -/

/-- The words of a value, lowest first. -/
def splitWords : Nat → Nat → List Word
  | 0, _ => []
  | n + 1, x => BitVec.ofNat 32 x :: splitWords n (x / 2 ^ 32)

/-- Number the elements of a list. -/
def numbered {α : Type} : Nat → List α → List (Nat × α)
  | _, [] => []
  | i, x :: xs => (i, x) :: numbered (i + 1) xs

/-- The writes of a value to a destination other than an affine register, in the lanes of a mask: a uniform
destination takes the value of the lowest lane (05 R113, R114). -/
def destWrites (d : Operand) (m : Word) (val : Fin 32 → Nat) : List RegWrite :=
  match d.names with
  | .v n => (lanesOf m).flatMap (fun L => (numbered n (splitWords d.words (val L))).map (fun e => .vElem e.1 L e.2))
  | .q n => (lanesOf m).flatMap (fun L => (splitWords d.words (val L)).map (fun w => .qPush n L w))
  | .k n => if m = 0 then [] else (numbered n (splitWords d.words (val (lowestLane m)))).map (fun e => .kReg e.1 e.2)
  | .m n => if m = 0 then [] else [.mReg n (BitVec.ofNat 32 (val (lowestLane m)))]
  | _ => []

/-! Operand collection (07 R199, R200). -/

/-- The varying registers that are read, each once. -/
def Uses.rows (u : Uses) : List Nat :=
  (u.srcs.flatMap (fun o => match o.names with | .v _ => o.regs | _ => [])).eraseDups

/-- Cycles that collection freezes the slot, given the pinned rows. -/
def Uses.collectFreeze (u : Uses) (pinned : List Nat) : Nat :=
  let rows := u.rows.filter (fun r => !pinned.contains r)
  ((List.range 4).foldl (fun m b => Nat.max m (rows.countP (fun r => r % 4 == b))) 1) - 1

/-- The rows that an instruction pins (03 R86): a reuse bit on a varying source. -/
def pinRows (ps : List (Operand × Bool)) : List Nat :=
  (ps.flatMap (fun e => if e.2 then (match e.1.names with | .v _ => e.1.regs | _ => []) else [])).eraseDups

end Sys2Proof.Machine
end

