-- ==== Sys2Proof/Machine/Flags.lean ====
section
/-! DEFINITION. Reading and writing integers of a width, saturation, comparisons, the combining of predicates, and
the flags that land in FPSTAT (02 R43 to R45; 05 R113, R134; 06 R145, R152). -/

namespace Sys2Proof.Machine

open Sys2Proof

/-- The width that a two-bit field names (03 R83). -/
def widthOf (w : BitVec 2) : Nat := 8 * 2 ^ w.toNat

/-- read_int of 05 R113: the low `n` bits, extended as `s` says. -/
def readInt (n : Nat) (s : Bool) (x : Nat) : Int := if s then signedOf n x else ((x % 2 ^ n : Nat) : Int)

/-- The value of `n` bits with the upper bits of a word filled (02 R43): narrow results are extended to 32 bits. -/
def fillInt (n : Nat) (s : Bool) (x : Nat) : Nat := if n < 32 ∧ s then wrapNat 32 (signedOf n x) else x % 2 ^ n

/-- write_int of 05 R113: an exact result modulo 2^n, filled. -/
def writeInt (n : Nat) (s : Bool) (e : Int) : Nat := fillInt n s (wrapNat n e)

/-- The least value of a type (02 Table 2.1). -/
def intMin (n : Nat) (s : Bool) : Int := if s then -(2 ^ (n - 1) : Int) else 0

/-- The greatest value of a type (02 Table 2.1). -/
def intMax (n : Nat) (s : Bool) : Int := if s then (2 ^ (n - 1) : Int) - 1 else (2 ^ n : Int) - 1

/-- clamp of 02 R44. -/
def clampInt (n : Nat) (s : Bool) (e : Int) : Int := max (intMin n s) (min (intMax n s) e)

/-- The result with or without .sat (02 R44). -/
def satInt (n : Nat) (s sat : Bool) (e : Int) : Nat := writeInt n s (if sat then clampInt n s e else e)

/-- Quotient and remainder of 02 R45 and Table 2.2. -/
def divInt (n : Nat) (s : Bool) (x y : Int) : Int × Int :=
  if y = 0 then (if s then (if x < 0 then intMin n s else intMax n s) else intMax n s, x)
  else if s ∧ x = intMin n s ∧ y = -1 then (intMin n s, 0)
  else (Int.tdiv x y, Int.tmod x y)

/-- CMP of ICMP (05 Table 5.2). -/
def cmpHolds (cmp : BitVec 3) (o : Ordering) : Bool :=
  match cmp.toNat with
  | 0 => o == .eq
  | 1 => o != .eq
  | 2 => o == .lt
  | 3 => o != .gt
  | 4 => o == .gt
  | _ => o != .lt

/-- BOP: how a comparison combines with PCOMB (05 Table 5.2; 06 R152). -/
def bopOf (bop : BitVec 2) (c p : Bool) : Bool :=
  match bop.toNat with
  | 0 => c && p
  | 1 => c || p
  | _ => c != p

/-- CMP of FCMP, with NV (06 Table 6.2). -/
def fcmpHolds (cmp : BitVec 3) (x y : FpVal) : Bool × Flags :=
  let nan := x.isNan || y.isNan
  let sig := x.isSignalling || y.isSignalling
  let nv := flagIf (sig || (nan && decide (2 ≤ cmp.toNat) && decide (cmp.toNat ≤ 5))) flagNV
  if nan then (cmp == 1 || cmp == 7, nv)
  else
    let o :=
      match x, y with
      | .inf a, .inf b => if a == b then Ordering.eq else if a then .lt else .gt
      | .inf a, _ => if a then .lt else .gt
      | _, .inf b => if b then .gt else .lt
      | .num a, .num b => Exact.cmp a b
      | _, _ => .eq
    (if cmp = 6 then true else if cmp = 7 then false else cmpHolds cmp o, nv)

/-- The flags of the lanes of a mask, as they land; only the compute stream has FPSTAT (06 R145). -/
def flagWrites (st : Stream) (m : Word) (f : Fin 32 → Flags) : List RegWrite :=
  match st with
  | .addr => []
  | .comp => ((lanesOf m).filter (fun L => f L != 0)).map (fun L => .flags L (f L))

/-- The writes of a predicate destination; a write to p0 is discarded (01 R22). -/
def predWrites (n : Nat) (m : Word) (f : Fin 32 → Bool) : List RegWrite :=
  if n % 8 = 0 then [] else (lanesOf m).map (fun L => .pBit (n % 8) L (f L))

end Sys2Proof.Machine
end

