-- ==== Sys2Proof/Machine/Yuhan.lean ====
section
/-! DEFINITION. The Yuhan recorder: the values that a recorded launch reads from counters, write pointers, queue
depths and full flags, and their return in replay; the order in which its requests are granted at every place that the
manual names, and the holding of each request in replay until its turn (19 R487, R488; log 8). -/

namespace Sys2Proof.Machine

open Sys2Proof

/-- The recorder's mode for a group: 0 for a launch that does not record (19 R487). -/
def State.yMode (s : State) (g : Group) : Nat := if g.cfg.record then (s.fn g.fn).ymode else 0

/-- Who made a request, in terms that a replay repeats: lane, group, team, cluster. -/
def Group.yWho (g : Group) (L : Nat) : Nat := ((g.gridpos * 16 + g.teamId) * 32 + g.groupId) * 32 + L

/-- An item as numbers. -/
def YItem.fields (i : YItem) : List Nat := i.what :: i.who :: i.value :: i.payload.map (fun b => b.toNat)

/-- An item from numbers. -/
def YItem.ofFields : List Nat → Option YItem
  | what :: who :: value :: payload => some ⟨what, who, value, payload.map (fun b => BitVec.ofNat 8 b)⟩
  | _ => none

/-- Append an item: its bytes go to the buffer in order, and recording stops when they do not fit (19 R487). -/
def State.record (s : State) (fn : Nat) (i : YItem) : State :=
  if (s.fn fn).ystat % 2 = 1 then s
  else
    let bs := Config.recordBytes i.fields
    s.modFn fn (fun x =>
      if x.ysize.toNat < x.yused + x.yout.length + bs.length then { x with ystat := x.ystat + 1 }
      else { x with yout := x.yout ++ bs })

/-- Drop the first item that satisfies a condition. -/
def dropFirst (p : YItem → Bool) : List YItem → List YItem
  | [] => []
  | i :: r => if p i then r else i :: dropFirst p r

/-- A request of a replayed launch matches no next record (19 R488). -/
def State.diverge (s : State) (g : Group) : State :=
  (s.modFn g.fn (fun x => { x with ystat := if x.ystat / 2 % 2 = 1 then x.ystat else x.ystat + 2 })).killLaunch g.launch

/-- The value of a recorded kind that a lane gets: the live one, or in replay the recorded one. -/
def State.yValue (s : State) (g : Group) (what L live : Nat) : Nat :=
  if s.yMode g = 2 then
    (((s.fn g.fn).ylog.find? (fun i => i.what == what && i.who == g.yWho L)).map (fun i => i.value)).getD live
  else live

/-- What recording or replaying a value leaves behind. -/
def State.yAfter (s : State) (g : Group) (what L live : Nat) : State :=
  if s.yMode g = 1 then s.record g.fn ⟨what, g.yWho L, live, []⟩
  else if s.yMode g = 2 then
    (if (s.fn g.fn).ylog.any (fun i => i.what == what && i.who == g.yWho L) then
       s.modFn g.fn (fun x => { x with ylog := dropFirst (fun i => i.what == what && i.who == g.yWho L) x.ylog })
     else s.diverge g)
  else s

/-- The same for several lanes, ascending. -/
def State.yAfterAll (s : State) (g : Group) (what : Nat) (live : Fin 32 → Nat) (ls : List (Fin 32)) : State :=
  if s.yMode g = 0 then s else ls.foldl (fun s L => s.yAfter g what L.val (live L)) s

/-! The order of requests at one place. An item of a kind names a requester and, as its value, a place. -/

/-- A request of a replayed launch has its turn at a place: no earlier one of another requester is left there. -/
def State.yTurn (s : State) (g : Group) (kind place who : Nat) : Bool :=
  s.yMode g != 2 ||
    (match (s.fn g.fn).ylog.find? (fun i => i.what == kind && i.value == place) with
     | some i => i.who == who || !(s.fn g.fn).ylog.any (fun i => i.what == kind && i.value == place && i.who == who)
     | none => true)

/-- A request is granted at a place: recorded, or in replay held against its record. A request whose turn has not come
holds the move that makes it: the step leaves the machine as it was (19 R488). -/
def State.order (s : State) (g : Group) (kind place who : Nat) (payload : List Byte := []) : State :=
  if s.yMode g = 1 then s.record g.fn ⟨kind, who, place, payload⟩
  else if s.yMode g = 2 then
    (let mine (i : YItem) : Bool := i.what == kind && i.value == place && i.who == who && i.payload == payload
     if !s.yTurn g kind place who then { s with held := true }
     else if (s.fn g.fn).ylog.any mine then s.modFn g.fn (fun x => { x with ylog := dropFirst mine x.ylog })
     else s.diverge g)
  else s

/-- Who makes the requests of a queue's commands. -/
def Group.yQueue (g : Group) (q : Nat) : Nat := 2 ^ 40 * (q % 32 + 1) + g.yWho 0

/-- Who makes the requests of a group's reservation-table entries in a quarter's lanes. -/
def Group.yEntry (g : Group) (L : Nat) : Nat := 2 ^ 50 + g.yWho L

/-- A command of a recorded launch is appended to a queue, in the queue's order, with its payload (19 R487). -/
def State.appendRecord (s : State) (g : Group) (q : Nat) (bytes : List Byte) : State := s.order g 6 q (g.yWho 0) bytes

/-- A team, in terms that a replay repeats. -/
def State.yTeam (s : State) (t : Nat) : Nat :=
  match s.teams.find t with
  | some x => ((s.gangs.find x.gang).map (fun y => y.gridpos)).getD 0 * 16 + x.teamId
  | none => 0

/-- A line of memory is accessed. -/
def State.orderLine (s : State) (g : Group) (key who : Nat) : State := s.order g 7 (key / 128) who

/-- The granule of an access changed from one state to another, in the order of its home (13 Table 13.2; 19 R487). -/
def State.orderChange (t s : State) (g : Group) (gr who : Nat) : State :=
  if t.granules.find gr = s.granules.find gr then t else t.order g 15 gr who

/-- Who makes a relearn. -/
def yRelearn : Nat := 2 ^ 60

/-- Granules were relearned: every recording notes each of them in the order of its home, and a replay takes it when its turn has
come (19 R487, R488). -/
def State.orderRelearn (t s : State) : State :=
  let fns := ((s.launches.filter (fun e => e.2.cfg.record && !e.2.complete)).map (fun e => e.2.fn)).eraseDups
  let gone := (Assoc.keys s.granules).filter (fun gr => (t.granules.find gr).isNone)
  let note (t : State) (fn gr : Nat) : State :=
    if (t.fn fn).ymode = 1 then t.record fn ⟨15, yRelearn, gr, []⟩
    else if (t.fn fn).ymode = 2 then
      match (t.fn fn).ylog.find? (fun i => i.what == 15 && i.value == gr) with
      | some i => if i.who = yRelearn then t.modFn fn (fun x => { x with ylog := x.ylog.erase i }) else t
      | none => t
    else t
  fns.foldl (fun t fn => gone.foldl (fun t gr => note t fn gr) t) t

/-- What a step that waits saw of the recorder does not count: it will see it again. -/
def State.unseen (t s : State) (fn : Nat) : State :=
  ({ t with free := s.free }).modFn fn (fun x =>
    { x with ylog := (s.fn fn).ylog, yout := (s.fn fn).yout, ystat := (s.fn fn).ystat })

/-- Team registers are written from a group, in the order in which the writes issue (19 R487). -/
def State.orderTeam (s : State) (g : Group) (ws : List RegWrite) : State :=
  match ws with
  | [.mReg n _] => s.order g 13 ((g.gridpos * 16 + g.teamId) * 16 + n) (g.yWho 0)
  | _ => s

/-! The kinds of item: an appended command is 6, an access to a line 7, a transition or a relearn of a granule 15, an access
to a row of a team's scratch 8, to a row of a group's window 14, the grant of a pass 9, an entry that leaves a quad's table 10, the consumption of a guard 11, a team
register 13. -/

/-- The value of a counter. -/
def yRdsr : Nat := 1
/-- LDWP. -/
def yLdwp : Nat := 2
/-- QDEPTH. -/
def yQdepth : Nat := 3
/-- FLAGP of a PUSH. -/
def yFlag : Nat := 4
/-- The launch record. -/
def yLaunch : Nat := 5
/-- The argument block. -/
def yArgs : Nat := 12
end Sys2Proof.Machine
end

