-- ==== Sys2Proof/Machine/Issue.lean ====
section
/-! DEFINITION. How an issue slot issues one instruction for its bundle: checks and waits in their order, effects,
the advance of the slot, control transfers and the end of a clause (03 R73 to R78, R88 to R99; 07 R180 to R198). -/

namespace Sys2Proof.Machine

open Sys2Proof

/-- What an instruction does in one group of its bundle: it waits, it faults, it delivers a run-ahead fault, or it
goes: an effect (a wait for a translation asks for it), and for a control transfer where each lane continues (none: the lane leaves the run). -/
inductive Verdict where
  | wait (r : WaitReason)
  | waitDo (r : WaitReason) (eff : State → State)
  | fault (f : FaultInfo)
  | faultAfter (f : FaultInfo)
  | deliver
  | go (eff : State → State) (jump : Option (Fin 32 → Option Dword))

/-- Every team register of a group's team, as a stream of the group sees it in this cycle (07 R210). -/
def State.teamRegs (s : State) (gid : Nat) (g : Group) (st : Stream) : Vector Word 16 :=
  match s.teams.find g.team with
  | some t => t.view (s.dieCycle g.die) gid st
  | none => Vector.replicate 16 0

/-- One group of a run, as an instruction sees it. -/
def State.ctx (s : State) (r : Run) (mem : Nat × Word) : Option Ctx :=
  (s.groups.find mem.1).map (fun g =>
    { gid := mem.1, g := g, m := s.teamRegs mem.1 g r.stream, st := r.stream, lanes := mem.2,
      act := mem.2 &&& Assoc.getD r.cpred mem.1 0, pc := r.pc, hdr := r.hdr, kind := r.pcKind, adv := r.adv,
      cpred := if r.fresh then some r.cprn else none })

/-- A storage entry that the instruction reads holds an uncorrectable error (19 R479). -/
def State.badRead (s : State) (u : Uses) (c : Ctx) : Bool :=
  s.bad.any (fun b => b.gid == c.gid && (u.reads c).contains b.what &&
    (match b.lane with
     | some L => laneIn c.act L || (c.act != 0 && u.laneReads.any (fun e => e.1 == b.what && laneIn e.2 L))
     | none => c.act != 0))

/-- The checks and waits of an instruction before its own (03 R99; 17 R437): none when it may go on. -/
def State.gate (s : State) (u : Uses) (lat : Option Nat) (c : Ctx) : Option Verdict :=
  match u.encodingFault c with
  | some e => some (.fault (FaultInfo.plain e))
  | none =>
    if s.lookaheadWait u c then some (.wait .lookahead)
    else if s.hazard u c lat then some (.fault (FaultInfo.plain .hazard))
    else if c.st == .comp && popAny c.g u (c.part u) (fun e => e.tag == .fault) then some .deliver
    else
      match queueWait c u with
      | some w => some (if c.st == .comp && c.g.ahead.isSome then .deliver else .wait w)
      | none => none

/-- The operands of an instruction bring in poison (07 R192; 19 R479). -/
def State.poisoned (s : State) (u : Uses) (c : Ctx) : Bool :=
  popAny c.g u (c.part u) (fun e => e.tag == .poison) || s.badRead u c

/-- The verdict of an instruction in one group: its gate, then its own meaning, then poison (17 R437). -/
def State.judge (s : State) (u : Uses) (lat : Ctx → Option Nat) (sem : State → Ctx → Verdict) (c : Ctx) : Verdict :=
  match s.gate u (lat c) c with
  | some v => v
  | none =>
    match sem s c with
    | .go e j => if s.poisoned u c then .fault (FaultInfo.plain .poison) else .go e j
    | v => v

/-! Effects on one group. -/

/-- The entries that the sources pop leave the queues of the lanes that take part. -/
def Group.pop (g : Group) (u : Uses) (m : Word) : Group :=
  (lanesOf m).foldl (fun g L => u.popQueues.foldl (fun g q => g.dequeue q L (u.pops q)) g) g

/-- Results that land at a fixed latency (03 R88). -/
def Group.landLater (g : Group) (st : Stream) (due : Nat) (ws : List RegWrite) : Group :=
  if ws.isEmpty then g
  else g.modStream st (fun x => { x with landing := insertLanding ⟨due, ws⟩ x.landing })

/-- Pop the operands and schedule the results of a fixed-latency instruction. -/
def State.issueFixed (s : State) (c : Ctx) (u : Uses) (lat : Nat) (ws : List RegWrite) : State :=
  (s.orderTeam c.g ws).modGroup c.gid (fun g => (g.pop u (c.part u)).landLater c.st (c.adv + lat) ws)

/-! The advance of a slot. -/

/-- The windows of a group's pending instructions in a stream count one more instruction (03 R92). -/
def State.countWindows (s : State) (gid : Nat) (st : Stream) : State :=
  { s with ops := s.ops.map (fun e =>
      (e.1, if e.2.gid = gid ∧ e.2.stream = st then { e.2 with window := e.2.window.map (fun w => w - 1) } else e.2)) }

/-- A group has issued: it makes progress and waits for nothing (17 R483). -/
def State.markIssue (s : State) (gid : Nat) (st : Stream) : State :=
  s.modGroup gid (fun g => { (g.modStream st (fun x => { x with waiting := none })) with progress := true })

/-- The BPTs of a run's clause: each member in whose lanes one has issued, with its code (08 R219). -/
def State.bptsDue (s : State) (r : Run) : List ((Nat × Word) × Nat) :=
  r.members.filterMap (fun m =>
    (s.groups.find m.1).bind (fun g =>
      ((g.stream r.stream).bpt.find? (fun e => e.1 == r.hdr && e.2.2 &&& m.2 != 0)).map (fun e => (m, e.2.1))))

/-- Lanes of a stream have no BPT of a clause pending. -/
def StreamState.dropBpt (x : StreamState) (hdr : Dword) (m : Word) : StreamState :=
  { x with bpt := (x.bpt.map (fun e => if e.1 = hdr then (e.1, e.2.1, e.2.2 &&& ~~~m) else e)).filter (fun e => e.2.2 != 0) }

/-- A BPT has issued in lanes of a clause; the first of a clause gives the code. -/
def StreamState.noteBpt (x : StreamState) (hdr : Dword) (code : Nat) (m : Word) : StreamState :=
  if x.bpt.any (fun e => e.1 == hdr && e.2.2 &&& m != 0) then x else { x with bpt := x.bpt ++ [(hdr, code, m)] }

/-- Deliver the BREAKPOINTs of a clause that has issued (08 R219). -/
def State.breakpoints (s : State) (r : Run) (due : List ((Nat × Word) × Nat)) (next : Dword) : State :=
  due.foldl (fun s e =>
    ((s.modGroup e.1.1 (fun g => g.modStream r.stream (fun x => x.dropBpt r.hdr e.1.2))).raiseAt e.1.1 r.stream e.1.2 next
      .header ⟨.breakpoint, .none, false, e.2⟩).afterWork e.1.1) s

/-- The address of the header that follows the clause of a run. -/
def Run.nextHeader (r : Run) (words : Nat) : Dword := r.pc + BitVec.ofNat 64 (4 * (words + (r.left - words)))

/-- One advancing cycle passes: the slot can collect for its next instruction in the next cycle of its die. What is due by
then lands when that instruction issues (03 R88, R94; 07 R199). -/
def State.tickRun (s : State) (slot : Nat) : State :=
  s.modRun slot (fun r => { r with adv := r.adv + 1, fresh := false, stalled := none, ready := some (s.slotCycle slot + 1) })

/-- The run moves past an instruction that transfers no control (03 R73, R75, R76). -/
def State.advance (s : State) (slot words : Nat) (pins : List Nat) (stop : Bool) : State :=
  match s.runs.find slot with
  | none => s
  | some r =>
    let s := s.modRun slot (fun r =>
      { r with pc := r.pc + BitVec.ofNat 64 (4 * words), code := r.code.drop words, words := r.words + words,
               pinned := pins })
    let s := s.tickRun slot
    if r.left - words = 0 then
      let due := s.bptsDue r
      (if stop || r.ends || !due.isEmpty then (s.endRun slot).breakpoints r due (r.nextHeader words) else s)
    else if stop then s.endRun slot else s

/-- The lanes of a bundle go where a transfer takes them: the run goes on when all stand at one PC and none has left
it (07 R198, R214). -/
def State.transfer (s : State) (slot words : Nat) (pins : List Nat) (stop : Bool) (dest : Nat → Fin 32 → Option Dword) : State :=
  match s.runs.find slot with
  | none => s
  | some r =>
    let next := r.nextHeader words
    let s := s.tickRun slot
    let s := r.members.foldl (fun s m => (lanesOf m.2).foldl (fun s L =>
      s.modGroup m.1 (fun g => g.setPc r.stream (setBit 0 L true) ((dest m.1 L).getD next) .header)) s) s
    let stay (m : Nat × Word) : Word := maskOf (fun L => laneIn m.2 L && (dest m.1 L).isSome)
    let members := r.members.map (fun m => (m.1, stay m))
    let pcs := (members.flatMap (fun m => (lanesOf m.2).map (fun L => (dest m.1 L).getD next))).eraseDups
    let gone := r.members.any (fun m =>
      (lanesOf m.2).any (fun L => (dest m.1 L).isNone &&
        !((s.groups.find m.1).map (fun g => (g.stream r.stream).lanes[L].exited)).getD true))
    let due := s.bptsDue r
    let ended := ((s.modRun slot (fun r => { r with members := members.map (fun m => (m.1, 0)) })).endRun slot).breakpoints r
      due next
    match pcs with
    | [pc] =>
      if stop || gone || r.ends || !due.isEmpty then ended
      else
        let s := s.modRun slot (fun x =>
          { x with pc := pc, code := [], words := x.words + words, members := members, pinned := pins })
        -- a group with no lane left in the bundle is released
        (members.filter (fun m => m.2 == 0)).foldl (fun s m => s.stopStream m.1 r.stream) s
    | _ => ended

/-! Issuing. -/

/-- Take a verdict that is a fault: the group leaves the run (17 R438, R439; 07 R190). -/
def State.takeFault (s : State) (r : Run) (words : Nat) (c : Ctx) (v : Verdict) : State :=
  match v with
  | .fault f => ((s.seenFaults c.g.fn (.slot s.cur)).raiseAt c.gid c.st c.lanes c.place.1 c.place.2 f).afterWork c.gid
  | .faultAfter f => (s.raiseAt c.gid c.st c.lanes (r.nextHeader words) .header f).afterWork c.gid
  | .deliver =>
    (match c.g.ahead with
     | some p =>
       let regs : TrapRegs := { p.regs with pc := p.regs.pc.extractLsb' 32 32 ++ pcOffset c.g.cfg.codec c.place.1 }
       let s := s.raise c.gid p.cause regs
       (s.modGroup c.gid (fun g =>
         (g.setPc .comp c.lanes c.place.1 c.place.2).modLanes .comp c.lanes (fun l => { l with faulting := true }))).afterWork c.gid
     | none => s)
  | _ => s

/-- The bundle of the current slot waits (03 R94). -/
def State.stall (s : State) (r : Run) (why : WaitReason) : State :=
  r.members.foldl (fun s m => s.modGroup m.1 (fun g => g.modStream r.stream (fun x => { x with waiting := some why })))
    (s.modRun s.cur (fun r => { r with stalled := some why, woken := false }))

/-- A verdict that takes the group out of the run. -/
def Verdict.isFault : Verdict → Bool
  | .fault _ | .faultAfter _ | .deliver => true
  | _ => false

/-- Where a transfer sends a group's lanes. -/
def jumpOf (vs : List (Ctx × Verdict)) (gid : Nat) (L : Fin 32) : Option (Option Dword) :=
  (vs.find? (fun e => e.1.gid == gid)).bind (fun e =>
    match e.2 with
    | .go _ (some j) => some (j L)
    | _ => none)

/-- Some verdict transfers control. -/
def anyJump (vs : List (Ctx × Verdict)) : Bool :=
  vs.any (fun e => match e.2 with | .go _ (some _) => true | _ => false)

/-- The first wait among verdicts. -/
def firstWait (vs : List (Ctx × Verdict)) : Option WaitReason :=
  vs.findSome? (fun e => match e.2 with | .wait w | .waitDo w _ => some w | _ => none)

/-- The effects of the waits. -/
def waitEffects (vs : List (Ctx × Verdict)) (s : State) : State :=
  vs.foldl (fun s e => match e.2 with | .waitDo _ f => f s | _ => s) s

/-- A queue load of the address stream left FAULT entries: the stream stops, the faulting lanes at the load
(07 R189). -/
def State.stopAhead (s : State) (c : Ctx) : State :=
  match s.groups.find c.gid with
  | none => s
  | some g =>
    if g.ahead.isSome && c.g.ahead.isNone then
      (s.stopStream c.gid .addr).modGroup c.gid (fun g =>
        g.setPc .addr (c.lanes &&& g.sa.lanesWhere (fun l => l.faulting)) c.place.1 c.place.2)
    else s

/-- The current slot issues one instruction of `words` words for its bundle. Groups that fault leave the bundle; then
either every other group goes, or none does and the slot is frozen (03 R94; 07 R193; 17 R438). A fault ends the run
(03 R76). `stop` ends the run after the instruction; `post` is what follows the effects of the whole bundle. -/
def State.issue (s : State) (words : Nat) (u : Uses) (lat : Ctx → Option Nat) (pins : List Nat) (stop : Bool)
    (sem : State → Ctx → Verdict) (post : State → State := fun s => s) : State :=
  match s.runs.find s.cur with
  | none => s
  | some r =>
    let cs := r.members.filterMap (s.ctx r)
    let vs := cs.map (fun c => (c, s.judge u lat sem c))
    let bad := vs.filter (fun e => e.2.isFault)
    let good := vs.filter (fun e => !e.2.isFault)
    let s1 := bad.foldl (fun s e => s.takeFault r words e.1 e.2) s
    match firstWait good with
    | some w =>
      let s1 := waitEffects good s1
      if bad.isEmpty then s1.stall r w else (s1.endRun s.cur).wake
    | none =>
      if good.isEmpty then s1.wake
      else
        let s1 := good.foldl (fun s e =>
          let s := (s.countWindows e.1.gid e.1.st).markIssue e.1.gid e.1.st
          match e.2 with
          | .go f _ => f s
          | _ => s) s1
        let s1 := post s1
        let done :=
          if anyJump good then
            s1.transfer s.cur words pins (stop || !bad.isEmpty) (fun gid L => (jumpOf good gid L).getD none)
          else s1.advance s.cur words pins (stop || !bad.isEmpty)
        (good.foldl (fun s e => (s.stopAhead e.1).afterWork e.1.gid) done).wake

end Sys2Proof.Machine
end

