-- ==== Sys2Proof/Machine/Alu.lean ====
section
/-! DEFINITION. The common form of the fixed-latency instructions that compute a result in each lane: their latency
rows, the affine results of 01 Table 1.6 and the writes they schedule (01 R36, R37; 03 R87; 05 R113 to R117). -/

namespace Sys2Proof.Machine

open Sys2Proof

/-- A row of 03 Table 3.6: the latency of each type, none for a dash. -/
structure LatRow where
  vary : Option Nat
  aff : Option Nat
  uni : Option Nat
  deriving DecidableEq, Repr

/-- The column of a type. -/
def LatRow.get (r : LatRow) : Ty → Option Nat
  | .vary => r.vary
  | .aff => r.aff
  | .uni => r.uni

/-- ADD and its row. -/
def latAlu : LatRow := ⟨some 2, some 2, some 1⟩
/-- MUL and its row. -/
def latMul : LatRow := ⟨some 4, some 2, some 1⟩
/-- DIV and REM. -/
def latDiv : LatRow := ⟨some 8, none, some 8⟩
/-- PROMA. -/
def latProma : LatRow := ⟨none, some 2, none⟩
/-- PROMV. -/
def latPromv : LatRow := ⟨some 2, none, none⟩
/-- DEMOTE and DEMOTEA. -/
def latDemote : LatRow := ⟨none, some 2, some 2⟩
/-- PAND, POR and PXOR. -/
def latPred : LatRow := ⟨some 1, some 1, some 1⟩
/-- FADD and its row. -/
def latFloat : LatRow := ⟨some 4, none, some 1⟩
/-- FCMP; POLL, LEAD and QDEPTH. -/
def latCmp : LatRow := ⟨some 2, none, some 1⟩
/-- LGET and TLP. -/
def latShuffle : LatRow := ⟨some 4, none, none⟩

/-- What an instruction computes in one lane. -/
structure LaneOut where
  val : Nat := 0
  stride : Int := 0
  pred : Bool := false
  flags : Flags := 0
  seed : Option Word := none
  deriving DecidableEq, Repr

/-- A fixed-latency instruction. `ext` is the width and signedness by which a result, and a uniform source beside an
affine one, is extended to 64 bits; `closed` is the operation of 01 Table 1.6 on bases and strides. -/
structure Alu where
  uses : Uses
  lat : LatRow
  ext : Nat × Bool := (32, false)
  fn : Ctx → Word → Except Cause (Fin 32 → LaneOut)
  closed : Option (List (Int × Int) → Int × Int) := none
  pins : List (Operand × Bool) := []

/-- Compute lane by lane from the values of the sources and predicates. -/
def lanewise (u : Uses) (f : List Nat → List Bool → LaneOut) (c : Ctx) (_m : Word) : Except Cause (Fin 32 → LaneOut) :=
  .ok (fun L => f (c.values u L) (c.predValues u L))

/-- The uses of an instruction with its illegal types completed: a dash of its latency row (05 R115). -/
def Alu.allUses (a : Alu) : Uses := { a.uses with badType := a.uses.badType || (a.lat.get a.uses.ty).isNone }

/-- The latency of an instruction. -/
def Alu.latency (a : Alu) : Nat := (a.lat.get a.uses.ty).getD 1

/-- An operand as base and stride: an affine register, LANEID, or a uniform value extended (01 Table 1.6). -/
def Ctx.affineOf (c : Ctx) (ext : Nat × Bool) (o : Operand) : Int × Int :=
  match o.names with
  | .a n => ((c.g.aReg n).base.toNat, (c.g.aReg n).stride.toInt)
  | .laneId => (0, 1)
  | _ => (readInt ext.1 ext.2 (c.read o 0 (lowestLane c.act)), 0)

/-- A stride is in range (01 R37). -/
def strideOk (x : Int) : Bool := decide (-32768 ≤ x) && decide (x ≤ 32767)

/-- The instruction applies 01 Table 1.6. -/
def Alu.isClosed (a : Alu) : Bool :=
  match a.uses.dst with
  | some d => d.names != .zero && d.ty == .aff && a.uses.srcs.any (fun o => o.ty == .aff)
  | none => false

/-- The writes of an instruction that is not closed: its destination, its predicate, its flags; the flags of a
uniform result go to every active lane (06 R145). -/
def Alu.writes (a : Alu) (c : Ctx) (m : Word) (out : Fin 32 → LaneOut) : List RegWrite :=
  (match a.uses.dst with
   | some d =>
     (match d.names with
      | .a n => if m = 0 then [] else [.aReg n (word64 (readInt a.ext.1 a.ext.2 (out (lowestLane m)).val)) (out (lowestLane m)).stride]
      | _ => destWrites d m (fun L => (out L).val))
   | none => []) ++
  (match a.uses.pdst with
   | n :: _ => predWrites n m (fun L => (out L).pred)
   | [] => []) ++
  flagWrites c.st m (fun L => (out (if a.uses.ty = .uni then lowestLane m else L)).flags)

/-- The LFSR states that the lanes of a mask step to (02 R54). -/
def Group.step (g : Group) (m : Word) (out : Fin 32 → LaneOut) : Group :=
  (lanesOf m).foldl (fun g L => match (out L).seed with | some x => { g with seed := g.seed.set L x } | none => g) g

/-- The verdict of a fixed-latency instruction. -/
def Alu.sem (a : Alu) (_s : State) (c : Ctx) : Verdict :=
  let u := a.allUses
  let m := c.part u
  if m = 0 then .go (fun s => s) none
  else if a.isClosed then
    (match a.closed, a.uses.dst with
     | some f, some d =>
       let r := f (u.srcs.map (c.affineOf a.ext))
       if strideOk r.2 then
         (match d.names with
          | .a n => .go (fun s => s.issueFixed c u a.latency [.aReg n (word64 r.1) r.2]) none
          | _ => .go (fun s => s) none)
       else .fault (FaultInfo.plain .affineRange)
     | _, _ => .go (fun s => s) none)
  else
    match a.fn c m with
    | .error e => .fault (FaultInfo.plain e)
    | .ok out =>
      .go (fun s => (s.issueFixed c u a.latency (a.writes c m out)).modGroup c.gid (fun g => g.step m out)) none

/-- Issue a fixed-latency instruction of `words` words. -/
def State.issueAlu (s : State) (words : Nat) (a : Alu) : State :=
  s.issue words a.allUses (fun _ => some a.latency) (pinRows a.pins) false a.sem

/-- The outcome of issuing a fixed-latency instruction. -/
def runAlu (words : Nat) (a : Alu) (s : State) : Host.Outcome State Fault Refusal := .next (s.issueAlu words a)

end Sys2Proof.Machine
end

