-- ==== Sys2Proof/Machine/Integer.lean ====
section
/-! DEFINITION. Integer, address, predicate and move instructions (05 R119 to R141). -/

namespace Sys2Proof.Machine

open Sys2Proof

/-- The pins of A and B. -/
def pins3 (f : F3) (n : Nat) : List (Operand × Bool) := [(opInt n f.a, f.ra), (opInt n f.b, f.rb)]

/-- A binary operation of width `n` on integers of signedness `s`. -/
def alu3 (f : F3) (row : LatRow) (n : Nat) (s : Bool) (g : Int → Int → Nat) : Alu :=
  let u : Uses := { srcs := [opInt n f.a, opInt n f.b], dst := some (opInt n f.d) }
  { uses := u, lat := row, ext := (n, s), pins := pins3 f n,
    fn := lanewise u (fun v _ => { val := g (readInt n s (v.getD 0 0)) (readInt n s (v.getD 1 0)) }) }

/-- A unary operation of width `n` on integers of signedness `s`. -/
def alu2 (f : F2) (row : LatRow) (n : Nat) (s : Bool) (g : Int → Nat) : Alu :=
  let u : Uses := { srcs := [opInt n f.a], dst := some (opInt n f.d) }
  { uses := u, lat := row, ext := (n, s), pins := [(opInt n f.a, f.ra)],
    fn := lanewise u (fun v _ => { val := g (readInt n s (v.getD 0 0)) }) }

/-- A binary operation on raw 32-bit words. -/
def aluBits (f : F3) (g : Word → Word → Word) : Alu :=
  alu3 f latAlu 32 false (fun x y => (g (word32 x) (word32 y)).toNat)

/-- A unary operation on a raw 32-bit word. -/
def aluBits1 (f : F2) (g : Word → Word) : Alu := alu2 f latAlu 32 false (fun x => (g (word32 x)).toNat)

/-- Make an instruction closed over affine sources (01 Table 1.6). -/
def Alu.withClosed (a : Alu) (ok : Bool) (f : (Int × Int) → (Int × Int) → Int × Int) : Alu :=
  { a with uses := { a.uses with closed := ok },
           closed := some (fun v => f (v.getD 0 (0, 0)) (v.getD 1 (0, 0))) }

/-- The destination is an affine register (05 R115). -/
def affineDst (u : Uses) : Bool :=
  match u.dst with
  | some d => d.names != .zero && d.ty == .aff
  | none => false

/-- .sat does not go with an affine destination (05 R115). -/
def Alu.noAffine (a : Alu) (no : Bool) : Alu :=
  { a with uses := { a.uses with badType := a.uses.badType || (no && affineDst a.uses) } }

/-- The type of an operand code. -/
def tyOf (c : Code) : Ty := (codeNames c).ty

/-! R119: ADD and SUB. -/

/-- ADD of a type, with or without .sat. -/
def aluAdd (f : F3) (n : Nat) (s sat : Bool) : Alu :=
  ((alu3 f latAlu n s (fun x y => satInt n s sat (x + y))).withClosed true
    (fun a b => (a.1 + b.1, a.2 + b.2))).noAffine sat

/-- SUB of a type, with or without .sat. -/
def aluSub (f : F3) (n : Nat) (s sat : Bool) : Alu :=
  ((alu3 f latAlu n s (fun x y => satInt n s sat (x - y))).withClosed true
    (fun a b => (a.1 - b.1, a.2 - b.2))).noAffine sat

/-- ADD with an immediate: .i32, closed, the immediate added to the base. -/
def aluAddImm (f : FI) : Alu :=
  (alu2 ⟨f.d, f.a, false⟩ latAlu 32 true (fun x => satInt 32 true false (x + f.imm.toInt))).withClosed true
    (fun a _ => (a.1 + f.imm.toInt, a.2))

/-- ADD, short form. -/
def execAdd (f : F3) (signed : Bool) : State → Host.Outcome State Fault Refusal := runAlu 1 (aluAdd f 32 signed false)
/-- ADD with an IT word. -/
def execAddIt (f : F3) (m : ItMod) : State → Host.Outcome State Fault Refusal :=
  runAlu 2 (aluAdd f (widthOf m.width) m.signed m.sat)
/-- ADD with an immediate. -/
def execAddImm (f : FI) : State → Host.Outcome State Fault Refusal := runAlu 1 (aluAddImm f)
/-- SUB, short form. -/
def execSub (f : F3) (signed : Bool) : State → Host.Outcome State Fault Refusal := runAlu 1 (aluSub f 32 signed false)
/-- SUB with an IT word. -/
def execSubIt (f : F3) (m : ItMod) : State → Host.Outcome State Fault Refusal :=
  runAlu 2 (aluSub f (widthOf m.width) m.signed m.sat)

/-! R120: ADDC and SUBB. -/

/-- ADDC or SUBB: `g` is the exact result from A, B and the carry. -/
def aluCarry (f : F3) (cin : PredRef) (cout : BitVec 3) (g : Int → Int → Int → Int) : Alu :=
  let u : Uses :=
    { srcs := [op32 f.a, op32 f.b], dst := some (op32 f.d), restricted := [cin], pdst := [cout.toNat] }
  { uses := u, lat := latAlu, pins := pins3 f 32,
    fn := lanewise u (fun v p =>
      let e := g (readInt 32 false (v.getD 0 0)) (readInt 32 false (v.getD 1 0)) (if p.getD 0 false then 1 else 0)
      { val := wrapNat 32 e, pred := decide (e < 0) || decide (2 ^ 32 ≤ e) }) }

/-- ADDC. -/
def execAddc (f : F3) (cin : PredRef) (cout : BitVec 3) : State → Host.Outcome State Fault Refusal :=
  runAlu 2 (aluCarry f cin cout (fun x y c => x + y + c))
/-- SUBB. -/
def execSubb (f : F3) (cin : PredRef) (cout : BitVec 3) : State → Host.Outcome State Fault Refusal :=
  runAlu 2 (aluCarry f cin cout (fun x y c => x - y - c))

/-! R121: MUL and MULHI. -/

/-- MUL of a type: closed when exactly one source is affine. -/
def aluMul (f : F3) (n : Nat) (s sat : Bool) : Alu :=
  ((alu3 f latMul n s (fun x y => satInt n s sat (x * y))).withClosed (tyOf f.a != .aff || tyOf f.b != .aff)
    (fun a b => (a.1 * b.1, a.2 * b.1 + b.2 * a.1))).noAffine sat

/-- MULHI of a type. -/
def aluMulhi (f : F3) (n : Nat) (s : Bool) : Alu :=
  alu3 f latMul n s (fun x y => writeInt n s ((x * y) / (2 ^ n : Int)))

/-- MUL, short form. -/
def execMul (f : F3) (signed : Bool) : State → Host.Outcome State Fault Refusal := runAlu 1 (aluMul f 32 signed false)
/-- MUL with an IT word. -/
def execMulIt (f : F3) (m : ItMod) : State → Host.Outcome State Fault Refusal :=
  runAlu 2 (aluMul f (widthOf m.width) m.signed m.sat)
/-- MULHI, short form. -/
def execMulhi (f : F3) (signed : Bool) : State → Host.Outcome State Fault Refusal := runAlu 1 (aluMulhi f 32 signed)
/-- MULHI with an IT word. -/
def execMulhiIt (f : F3) (m : ItMod) : State → Host.Outcome State Fault Refusal :=
  runAlu 2 (aluMulhi f (widthOf m.width) m.signed)

/-! R122: MAD and MADW. -/

/-- A three-source operation: A and B of width `n`, C and D of width `w`. -/
def alu4 (f : F3) (cc : Code) (row : LatRow) (n w : Nat) (s : Bool) (g : Int → Int → Int → Nat) : Alu :=
  let u : Uses := { srcs := [opInt n f.a, opInt n f.b, opInt w cc], dst := some (opInt w f.d) }
  { uses := u, lat := row, ext := (w, s), pins := pins3 f n,
    fn := lanewise u (fun v _ =>
      { val := g (readInt n s (v.getD 0 0)) (readInt n s (v.getD 1 0)) (readInt w s (v.getD 2 0)) }) }

/-- MAD. -/
def execMad (f : F3) (c : Code) (signed sat : Bool) : State → Host.Outcome State Fault Refusal :=
  runAlu 2 ((alu4 f c latMul 32 32 signed (fun x y z => satInt 32 signed sat (x * y + z))).noAffine sat)
/-- MADW. -/
def execMadw (f : F3) (c : Code) (signed : Bool) : State → Host.Outcome State Fault Refusal :=
  runAlu 2 (alu4 f c latMul 32 64 signed (fun x y z => wrapNat 64 (x * y + z)))

/-! R123: DIV and REM. -/

/-- DIV of a type. -/
def aluDiv (f : F3) (n : Nat) (s : Bool) : Alu := alu3 f latDiv n s (fun x y => writeInt n s (divInt n s x y).1)
/-- REM of a type. -/
def aluRem (f : F3) (n : Nat) (s : Bool) : Alu := alu3 f latDiv n s (fun x y => writeInt n s (divInt n s x y).2)

/-- DIV, short form. -/
def execDiv (f : F3) (signed : Bool) : State → Host.Outcome State Fault Refusal := runAlu 1 (aluDiv f 32 signed)
/-- DIV with an IT word. -/
def execDivIt (f : F3) (m : ItMod) : State → Host.Outcome State Fault Refusal :=
  runAlu 2 (aluDiv f (widthOf m.width) m.signed)
/-- REM, short form. -/
def execRem (f : F3) (signed : Bool) : State → Host.Outcome State Fault Refusal := runAlu 1 (aluRem f 32 signed)
/-- REM with an IT word. -/
def execRemIt (f : F3) (m : ItMod) : State → Host.Outcome State Fault Refusal :=
  runAlu 2 (aluRem f (widthOf m.width) m.signed)

/-! R124: MIN, MAX and ABS. -/

/-- MIN of a type. -/
def aluMin (f : F3) (n : Nat) (s : Bool) : Alu := alu3 f latAlu n s (fun x y => writeInt n s (if y < x then y else x))
/-- MAX of a type. -/
def aluMax (f : F3) (n : Nat) (s : Bool) : Alu := alu3 f latAlu n s (fun x y => writeInt n s (if x < y then y else x))
/-- ABS of a width. -/
def aluAbs (f : F2) (n : Nat) (sat : Bool) : Alu :=
  (alu2 f latAlu n true (fun x => satInt n true sat (x.natAbs : Int))).noAffine sat

/-- MIN, short form. -/
def execMin (f : F3) (signed : Bool) : State → Host.Outcome State Fault Refusal := runAlu 1 (aluMin f 32 signed)
/-- MIN with an IT word. -/
def execMinIt (f : F3) (m : ItMod) : State → Host.Outcome State Fault Refusal :=
  runAlu 2 (aluMin f (widthOf m.width) m.signed)
/-- MAX, short form. -/
def execMax (f : F3) (signed : Bool) : State → Host.Outcome State Fault Refusal := runAlu 1 (aluMax f 32 signed)
/-- MAX with an IT word. -/
def execMaxIt (f : F3) (m : ItMod) : State → Host.Outcome State Fault Refusal :=
  runAlu 2 (aluMax f (widthOf m.width) m.signed)
/-- ABS, short form. -/
def execAbs (f : F2) : State → Host.Outcome State Fault Refusal := runAlu 1 (aluAbs f 32 false)
/-- ABS with an IT word. -/
def execAbsIt (f : F2) (m : ItMod) : State → Host.Outcome State Fault Refusal := runAlu 2 (aluAbs f (widthOf m.width) m.sat)

/-! R125: logic. -/

/-- AND. -/
def execAnd (f : F3) : State → Host.Outcome State Fault Refusal := runAlu 1 (aluBits f (fun a b => a &&& b))
/-- OR. -/
def execOr (f : F3) : State → Host.Outcome State Fault Refusal := runAlu 1 (aluBits f (fun a b => a ||| b))
/-- XOR. -/
def execXor (f : F3) : State → Host.Outcome State Fault Refusal := runAlu 1 (aluBits f (fun a b => a ^^^ b))
/-- ANDN. -/
def execAndn (f : F3) : State → Host.Outcome State Fault Refusal := runAlu 1 (aluBits f (fun a b => a &&& ~~~b))
/-- NOT. -/
def execNot (f : F2) : State → Host.Outcome State Fault Refusal := runAlu 1 (aluBits1 f (fun a => ~~~a))

/-! R126: shifts and rotates. -/

/-- The amount of a shift in B: b mod 64. -/
def shiftAmount (b : Word) : Nat := b.toNat % 64

/-- SHL of an amount. -/
def shl32 (x : Word) (n : Nat) : Word := x <<< n
/-- SHR of an amount. -/
def shr32 (x : Word) (n : Nat) : Word := x >>> n
/-- SAR of an amount. -/
def sar32 (x : Word) (n : Nat) : Word := x.sshiftRight n
/-- ROT of an amount. -/
def rot32 (x : Word) (n : Nat) : Word := x.rotateLeft (n % 32)

/-- SHL with its amount in B: closed when A is affine and B is uniform. -/
def aluShl (f : F3) : Alu :=
  (aluBits f (fun a b => shl32 a (shiftAmount b))).withClosed (tyOf f.a == .aff && tyOf f.b == .uni)
    (fun a b => (a.1 * 2 ^ (b.1 % 64).toNat, a.2 * 2 ^ (b.1 % 64).toNat))

/-- A shift with an immediate amount. -/
def aluShiftImm (d a : Code) (g : Word → Word) : Alu := aluBits1 ⟨d, a, false⟩ g

/-- SHL. -/
def execShl (f : F3) : State → Host.Outcome State Fault Refusal := runAlu 1 (aluShl f)
/-- SHR. -/
def execShr (f : F3) : State → Host.Outcome State Fault Refusal := runAlu 1 (aluBits f (fun a b => shr32 a (shiftAmount b)))
/-- SAR. -/
def execSar (f : F3) : State → Host.Outcome State Fault Refusal := runAlu 1 (aluBits f (fun a b => sar32 a (shiftAmount b)))
/-- SHL by an immediate: closed over an affine A. -/
def execShlImm (d a : Code) (n : BitVec 5) : State → Host.Outcome State Fault Refusal :=
  runAlu 1 ((aluShiftImm d a (fun x => shl32 x n.toNat)).withClosed true
    (fun x _ => (x.1 * 2 ^ n.toNat, x.2 * 2 ^ n.toNat)))
/-- SHR by an immediate. -/
def execShrImm (d a : Code) (n : BitVec 5) : State → Host.Outcome State Fault Refusal :=
  runAlu 1 (aluShiftImm d a (fun x => shr32 x n.toNat))
/-- SAR by an immediate. -/
def execSarImm (d a : Code) (n : BitVec 5) : State → Host.Outcome State Fault Refusal :=
  runAlu 1 (aluShiftImm d a (fun x => sar32 x n.toNat))
/-- ROT by an immediate. -/
def execRotImm (d a : Code) (n : BitVec 5) : State → Host.Outcome State Fault Refusal :=
  runAlu 1 (aluShiftImm d a (fun x => rot32 x n.toNat))
/-- ROT. -/
def execRot (f : F3) : State → Host.Outcome State Fault Refusal := runAlu 1 (aluBits f (fun a b => rot32 a (shiftAmount b)))

/-- The bits of a word in reverse order. -/
def reverse32 (x : Word) : Word :=
  (List.range 32).foldl (fun acc i => if x.getLsbD (31 - i) then acc ||| (1#32 <<< i) else acc) 0

/-- BREV. -/
def execBrev (f : F2) : State → Host.Outcome State Fault Refusal := runAlu 1 (aluBits1 f reverse32)

/-! R127, R128: bit fields and funnel shifts. -/

/-- Position and width of the field that B names. -/
def fieldOf (b : Nat) : Nat × Nat :=
  let p := Nat.min (b % 256) 32
  (p, Nat.min (b / 256 % 256) (32 - p))

/-- BFE. -/
def bfeNat (s : Bool) (a b : Nat) : Nat :=
  let p := (fieldOf b).1
  let w := (fieldOf b).2
  if w = 0 then 0
  else
    let f := a / 2 ^ p % 2 ^ w
    if s then wrapNat 32 (signedOf w f) else f

/-- BFI. -/
def bfiNat (a b c : Nat) : Nat :=
  let p := (fieldOf b).1
  let w := (fieldOf b).2
  c - (c / 2 ^ p % 2 ^ w) * 2 ^ p + (a % 2 ^ w) * 2 ^ p

/-- BFE. -/
def execBfe (f : F3) (signed : Bool) : State → Host.Outcome State Fault Refusal :=
  let a := alu3 f latAlu 32 false (fun x y => bfeNat signed x.toNat y.toNat)
  runAlu 1 { a with ext := (32, signed) }
/-- BFI. -/
def execBfi (f : F3) (c : Code) : State → Host.Outcome State Fault Refusal :=
  runAlu 2 (alu4 f c latAlu 32 32 false (fun x y z => bfiNat x.toNat y.toNat z.toNat))
/-- SHF. -/
def execShf (f : F3) (c : Code) (right : Bool) : State → Host.Outcome State Fault Refusal :=
  runAlu 2 (alu4 f c latAlu 32 32 false (fun x y z =>
    let v := z.toNat * 2 ^ 32 + x.toNat
    let sh := y.toNat % 64
    if right then v / 2 ^ sh % 2 ^ 32 else v * 2 ^ sh % 2 ^ 64 / 2 ^ 32))

/-! R129: counts. -/

/-- Zero bits below the lowest set bit of the low `n` bits. -/
def trailingZeros : Nat → Nat → Nat
  | 0, _ => 0
  | n + 1, x => if x % 2 = 1 then 0 else 1 + trailingZeros n (x / 2)

/-- POPC. -/
def execPopc (f : F2) : State → Host.Outcome State Fault Refusal :=
  runAlu 1 (alu2 f latAlu 32 false (fun x => popcountNat 32 x.toNat))
/-- CLZ. -/
def execClz (f : F2) : State → Host.Outcome State Fault Refusal :=
  runAlu 1 (alu2 f latAlu 32 false (fun x => 32 - bitLength x.toNat))
/-- CTZ. -/
def execCtz (f : F2) : State → Host.Outcome State Fault Refusal :=
  runAlu 1 (alu2 f latAlu 32 false (fun x => trailingZeros 32 x.toNat))

/-! R139, R140: promotion. -/

/-- PROMA: base A and a stride. -/
def aluProma (d : Code) (srcs : List Operand) (stride : List Nat → Int) (pins : List (Operand × Bool)) : Alu :=
  let u : Uses :=
    { srcs := srcs, dst := some (op32 d),
      badType := tyOf d != .aff || srcs.any (fun o => o.ty != .uni) }
  { uses := u, lat := latProma, pins := pins,
    fn := fun c m =>
      let v := c.values u (lowestLane m)
      let st := stride v
      if strideOk st then .ok (fun _ => { val := v.getD 0 0, stride := st }) else .error .affineRange }

/-- PROMA with an immediate stride. -/
def execPromaImm (f : FI) : State → Host.Outcome State Fault Refusal :=
  runAlu 1 (aluProma f.d [op32 f.a] (fun _ => f.imm.toInt) [])
/-- PROMA with a stride in B. -/
def execProma (f : F3) : State → Host.Outcome State Fault Refusal :=
  runAlu 1 (aluProma f.d [op32 f.a, op32 f.b] (fun v => signedOf 32 (v.getD 1 0)) (pins3 f 32))

/-- PROMV. -/
def aluPromv (f : F2) : Alu :=
  let u : Uses := { srcs := [op64 f.a], dst := some (op64 f.d), badType := tyOf f.a == .vary }
  { uses := u, lat := latPromv, pins := [(op64 f.a, f.ra)],
    fn := lanewise u (fun v _ => { val := v.getD 0 0 }) }

/-- PROMV. -/
def execPromv (f : F2) : State → Host.Outcome State Fault Refusal := runAlu 1 (aluPromv f)

/-! R130, R131: address arithmetic. -/

/-- LEA of a shift and an index signedness. -/
def aluLea (f : F3) (shift : Nat) (s : Bool) : Alu :=
  let u : Uses := { srcs := [op64 f.a, op32 f.b], dst := some (op64 f.d) }
  { uses := u, lat := latAlu, ext := (64, false), pins := [(op64 f.a, f.ra), (op32 f.b, f.rb)],
    fn := lanewise u (fun v _ => { val := wrapNat 64 ((v.getD 0 0 : Int) + readInt 32 s (v.getD 1 0) * 2 ^ shift) }) }

/-- LEA, short forms: shifts 2, 3 and 4. -/
def execLea (f : F3) (h : BitVec 2) : State → Host.Outcome State Fault Refusal := runAlu 1 (aluLea f (h.toNat + 2) true)
/-- LEA with an LX word. -/
def execLeaLx (f : F3) (shift : BitVec 3) (signed : Bool) : State → Host.Outcome State Fault Refusal :=
  runAlu 2 (aluLea f shift.toNat signed)

/-- ADD64. -/
def execAdd64 (f : F3) : State → Host.Outcome State Fault Refusal :=
  runAlu 1 (alu3 f latAlu 64 false (fun x y => wrapNat 64 (x + y)))
/-- SUB64. -/
def execSub64 (f : F3) : State → Host.Outcome State Fault Refusal :=
  runAlu 1 (alu3 f latAlu 64 false (fun x y => wrapNat 64 (x - y)))

/-- SHL64: B is 32 bits. -/
def aluShl64 (f : F3) : Alu :=
  let u : Uses := { srcs := [op64 f.a, op32 f.b], dst := some (op64 f.d) }
  { uses := u, lat := latAlu, ext := (64, false), pins := [(op64 f.a, f.ra), (op32 f.b, f.rb)],
    fn := lanewise u (fun v _ => { val := v.getD 0 0 * 2 ^ (v.getD 1 0 % 64) % 2 ^ 64 }) }

/-- SHL64. -/
def execShl64 (f : F3) : State → Host.Outcome State Fault Refusal := runAlu 1 (aluShl64 f)

/-! R132: dot products and sums of differences. -/

/-- The sum over the elements of `n` bits. -/
def dotSum (op : DotOp) (sa sb : Bool) (a b : Nat) : Int :=
  let n := match op with | .dp2a => 16 | _ => 8
  (List.range (32 / n)).foldl (fun acc i =>
    let x := readInt n sa (a / 2 ^ (n * i))
    let y := readInt n sb (b / 2 ^ (n * i))
    acc + (match op with | .sad => ((x - y).natAbs : Int) | _ => x * y)) 0

/-- A dot product with addend `c`. -/
def aluDot (f : F3) (c : Code) (readD : Bool) (op : DotOp) (sa sb sat : Bool) : Alu :=
  let s := sa || sb
  let u : Uses :=
    { srcs := [op32 f.a, op32 f.b, op32 c], dst := some (op32 f.d),
      badOperand := readD && (match codeNames f.d with | .q _ => true | _ => false) }
  { uses := { u with badType := sat && affineDst u }, lat := latMul, ext := (32, s), pins := pins3 f 32,
    fn := lanewise u (fun v _ =>
      { val := satInt 32 s sat (readInt 32 s (v.getD 2 0) + dotSum op sa sb (v.getD 0 0) (v.getD 1 0)) }) }

/-- SAD.n8. -/
def execSad (f : F3) : State → Host.Outcome State Fault Refusal := runAlu 1 (aluDot f f.d true .sad false false false)
/-- DP4A.i8. -/
def execDp4a (f : F3) : State → Host.Outcome State Fault Refusal := runAlu 1 (aluDot f f.d true .dp4a true true false)
/-- DP2A.i16. -/
def execDp2a (f : F3) : State → Host.Outcome State Fault Refusal := runAlu 1 (aluDot f f.d true .dp2a true true false)
/-- The forms of the DPX word. -/
def execDpxDotForms (f : F3) (op : DotOp) (c : Code) (sa sb sat : Bool) : State → Host.Outcome State Fault Refusal :=
  runAlu 2 (aluDot f c false op sa sb sat)

/-! R133 to R135: select, compare, predicates. -/

/-- SEL. -/
def aluSel (f : F3) (p : PredRef) (w64 : Bool) : Alu :=
  let n := if w64 then 64 else 32
  let u : Uses := { srcs := [opInt n f.a, opInt n f.b], dst := some (opInt n f.d), restricted := [p] }
  { uses := u, lat := latAlu, ext := (n, false), pins := pins3 f n,
    fn := lanewise u (fun v q => { val := if q.getD 0 false then v.getD 0 0 else v.getD 1 0 }) }

/-- SEL. -/
def execSel (f : F3) (p : PredRef) (w64 : Bool) : State → Host.Outcome State Fault Refusal := runAlu 2 (aluSel f p w64)

/-- ICMP. -/
def aluIcmp (pd : BitVec 3) (a b : Code) (ra rb : Bool) (cmp : BitVec 3) (n : Nat) (s : Bool) (bop : BitVec 2)
    (pcomb : PredRef) : Alu :=
  let u : Uses := { srcs := [opInt n a, opInt n b], preds := [pcomb], pdst := [pd.toNat] }
  { uses := u, lat := latAlu, pins := [(opInt n a, ra), (opInt n b, rb)],
    fn := lanewise u (fun v p =>
      { pred := bopOf bop (cmpHolds cmp (compare (readInt n s (v.getD 0 0)) (readInt n s (v.getD 1 0)))) (p.getD 0 false) }) }

/-- ICMP. -/
def execIcmp (pd : BitVec 3) (a b : Code) (ra rb : Bool) (cmp : BitVec 3) (width : BitVec 2) (signed : Bool)
    (bop : BitVec 2) (pcomb : PredRef) : State → Host.Outcome State Fault Refusal :=
  runAlu 2 (aluIcmp pd a b ra rb cmp (widthOf width) signed bop pcomb)

/-- PAND, POR and PXOR. -/
def aluPred (pd : BitVec 3) (a b : PredRef) (g : Bool → Bool → Bool) : Alu :=
  let u : Uses := { preds := [a, b], pdst := [pd.toNat] }
  { uses := u, lat := latPred, fn := lanewise u (fun _ p => { pred := g (p.getD 0 false) (p.getD 1 false) }) }

/-- PAND. -/
def execPand (pd : BitVec 3) (a b : PredRef) : State → Host.Outcome State Fault Refusal :=
  runAlu 1 (aluPred pd a b (fun x y => x && y))
/-- POR. -/
def execPor (pd : BitVec 3) (a b : PredRef) : State → Host.Outcome State Fault Refusal :=
  runAlu 1 (aluPred pd a b (fun x y => x || y))
/-- PXOR. -/
def execPxor (pd : BitVec 3) (a b : PredRef) : State → Host.Outcome State Fault Refusal :=
  runAlu 1 (aluPred pd a b (fun x y => x != y))

/-! R136 to R138: moves. -/

/-- MOV: closed over an affine source. -/
def execMov (f : F2) : State → Host.Outcome State Fault Refusal :=
  runAlu 1 ((aluBits1 f (fun a => a)).withClosed true (fun a _ => a))

/-- MOVM, read. -/
def aluMovmRead (d : Code) (n : BitVec 4) : Alu :=
  let u : Uses := { dst := some (op32 d), alsoReads := [0x200 + n.toNat] }
  { uses := u, lat := latAlu, fn := fun c _ => .ok (fun _ => { val := (c.m[n.toFin]).toNat }) }

/-- MOVM, read. -/
def execMovmRead (d : Code) (n : BitVec 4) : State → Host.Outcome State Fault Refusal := runAlu 1 (aluMovmRead d n)

/-- What MOVM writes names. -/
def movmUses (a : Code) (n : BitVec 4) : Uses :=
  { srcs := [op32 a], group := true, compOnly := true, alsoWrites := [0x200 + n.toNat], badType := tyOf a != .uni }

/-- MOVM, write: the team register lands at the uniform latency (05 R137). -/
def execMovmWrite (a : Code) (n : BitVec 4) (ra : Bool) (s : State) : Host.Outcome State Fault Refusal :=
  .next (s.issue 1 (movmUses a n) (fun _ => some 1) (pinRows [(op32 a, ra)]) false (fun _ c =>
    if c.act = 0 then .go (fun s => s) none
    else
      let v := (c.values (movmUses a n) (lowestLane c.act)).getD 0 0
      .go (fun s => s.issueFixed c (movmUses a n) 1 [.mReg n.toNat (BitVec.ofNat 32 v)]) none))

/-- MOVI. -/
def aluMovi (d : Code) (i : BitVec 18) : Alu :=
  let u : Uses := { dst := some (op32 d) }
  { uses := u, lat := latAlu, ext := (32, true), fn := lanewise u (fun _ _ => { val := wrapNat 32 i.toInt }) }

/-- MOVI. -/
def execMovi (d : Code) (i : BitVec 18) : State → Host.Outcome State Fault Refusal := runAlu 1 (aluMovi d i)

/-- MOVHI: D is read as a source. -/
def aluMovhi (d : Code) (i : BitVec 18) : Alu :=
  let u : Uses :=
    { srcs := [op32 d], dst := some (op32 d), badType := tyOf d == .aff,
      badOperand := match codeNames d with | .q _ => true | _ => false }
  { uses := u, lat := latAlu, fn := lanewise u (fun v _ => { val := i.toNat * 2 ^ 14 + v.getD 0 0 % 2 ^ 14 }) }

/-- MOVHI. -/
def execMovhi (d : Code) (i : BitVec 18) : State → Host.Outcome State Fault Refusal := runAlu 1 (aluMovhi d i)

/-! R141: demotion. -/

/-- What a demotion names; D is uniform, or affine for DEMOTEA. -/
def demoteUses (f : F2) (ty : Ty) : Uses :=
  { srcs := [op32 f.a], dst := some (op32 f.d), anySrc := true, closed := true, badType := tyOf f.d != ty }

/-- The values of the lanes that a demotion considers, ascending. -/
def demoteValues (u : Uses) (c : Ctx) (m : Word) : List (Nat × Nat) :=
  (lanesOf m).map (fun L => (L.val, (c.values u L).getD 0 0))

/-- The progression of 01 R41: base and stride. -/
def progression (vs : List (Nat × Nat)) : Option (Nat × Int) :=
  match vs with
  | [] => none
  | (l1, x1) :: rest =>
    let s : Option Int :=
      match rest with
      | [] => some 0
      | (l2, x2) :: _ =>
        let d := signedOf 32 (wrapNat 32 ((x2 : Int) - x1))
        let k : Int := (l2 : Int) - l1
        if d % k = 0 then some (d / k) else none
    match s with
    | none => none
    | some s =>
      let b := wrapNat 32 ((x1 : Int) - s * l1)
      if strideOk s && vs.all (fun e => wrapNat 32 ((b : Int) + s * e.1) == e.2) then some (b, s) else none

/-- DEMOTE.first. -/
def aluDemoteFirst (f : F2) : Alu :=
  let u := demoteUses f .uni
  { uses := u, lat := latDemote, pins := [(op32 f.a, f.ra)], fn := lanewise u (fun v _ => { val := v.getD 0 0 }) }

/-- DEMOTE.chk. -/
def aluDemoteChk (f : F2) : Alu :=
  let u := demoteUses f .uni
  { uses := u, lat := latDemote, pins := [(op32 f.a, f.ra)],
    fn := fun c m =>
      let vs := (demoteValues u c m).map Prod.snd
      if vs.all (fun x => x == vs.headD 0) then .ok (fun _ => { val := vs.headD 0 }) else .error .nonuniform }

/-- DEMOTEA.chk: affine, whatever its source (05 R141). -/
def aluDemoteaChk (f : F2) : Alu :=
  let u := { demoteUses f .aff with closed := false, srcs := [op32 f.a] }
  { uses := u, lat := latDemote, pins := [(op32 f.a, f.ra)],
    fn := fun c m =>
      match progression (demoteValues u c m) with
      | some (b, s) => .ok (fun _ => { val := b, stride := s })
      | none => .error .nonaffine }

/-- DEMOTE.first. -/
def execDemoteFirst (f : F2) : State → Host.Outcome State Fault Refusal := runAlu 1 (aluDemoteFirst f)
/-- DEMOTE.chk. -/
def execDemoteChk (f : F2) : State → Host.Outcome State Fault Refusal := runAlu 1 (aluDemoteChk f)
/-- DEMOTEA.chk. -/
def execDemoteaChk (f : F2) : State → Host.Outcome State Fault Refusal := runAlu 1 (aluDemoteaChk f)

end Sys2Proof.Machine
end

