-- ==== Sys2Proof/Machine/Special.lean ====
section
/-! DEFINITION. The special functions of 06 R164: the exact mathematical value rounded once.
The transcendental ones are enclosed in fixed point with 512 fraction bits; the enclosure is far narrower than
the distance of any result from a rounding boundary of FP32 (log 6). -/

namespace Sys2Proof.Machine

open Sys2Proof

/-- Fraction bits of the fixed-point work. -/
def fxBits : Nat := 512

/-- 1.0 in fixed point. -/
def fxOne : Nat := 2 ^ fxBits

/-- Product of two fixed-point magnitudes, truncated. -/
def fxMul (x y : Nat) : Nat := x * y / fxOne

/-- The sum of `n` terms of a series: `t` is the running power, `z2` its ratio, term k is t / (2k+1),
with alternating signs when `alt`. -/
def oddSeries (alt : Bool) (z2 : Nat) : Nat → Nat → Nat → Int → Int
  | 0, _, _, acc => acc
  | n + 1, k, t, acc =>
    let term : Int := ((t / (2 * k + 1) : Nat) : Int)
    oddSeries alt z2 n (k + 1) (fxMul t z2) (if alt && k % 2 == 1 then acc - term else acc + term)

/-- atanh z for a fixed-point 0 ≤ z ≤ 1/3. -/
def fxAtanh (z : Nat) : Nat := (oddSeries false (fxMul z z) 170 0 z 0).toNat

/-- arctan z for a fixed-point 0 ≤ z ≤ 1/5. -/
def fxAtan (z : Nat) : Nat := (oddSeries true (fxMul z z) 120 0 z 0).toNat

/-- ln 2 = 2 atanh(1/3). -/
def fxLn2 : Nat := 2 * fxAtanh (fxOne / 3)

/-- π = 16 arctan(1/5) − 4 arctan(1/239). -/
def fxPi : Nat := 16 * fxAtan (fxOne / 5) - 4 * fxAtan (fxOne / 239)

/-- Taylor terms of exp: `t` is x^k/k!. -/
def expSeries (x : Nat) : Nat → Nat → Nat → Nat → Nat
  | 0, _, _, acc => acc
  | n + 1, k, t, acc => expSeries x n (k + 1) (fxMul t x / (k + 1)) (acc + t)

/-- exp x for a fixed-point 0 ≤ x ≤ 1. -/
def fxExp (x : Nat) : Nat := expSeries x 130 0 fxOne 0

/-- Taylor terms of sin: `t` is x^(2k+1)/(2k+1)!. -/
def sinSeries (x2 : Nat) : Nat → Nat → Nat → Int → Int
  | 0, _, _, acc => acc
  | n + 1, k, t, acc =>
    sinSeries x2 n (k + 1) (fxMul t x2 / ((2 * k + 2) * (2 * k + 3)))
      (if k % 2 == 1 then acc - (t : Int) else acc + (t : Int))

/-- sin x for a fixed-point 0 ≤ x ≤ π/2. -/
def fxSin (x : Nat) : Nat := (sinSeries (fxMul x x) 90 0 x 0).toNat

/-- The most by which a fixed-point result of this file may differ from the true value, in its last place. -/
def fxSlack : Nat := 2 ^ 32

/-- Round the value whose magnitude lies within the slack of `x` × 2^`q` in the direction of `r`; the lower end is odd
in its last place, so that the result counts as inexact. -/
def roundEnclosed (neg : Bool) (x : Nat) (q : Int) : FpVal :=
  .num ⟨neg, 2 * (x - fxSlack) + 1, q - 1⟩

/-- The fixed-point magnitude of an exact number with at most 512 fraction bits. -/
def Exact.toFx (e : Exact) : Nat := e.scaledMant (-(fxBits : Int))

/-- 2^a before rounding (06 Table 6.7). -/
def exp2Val (a : Exact) : FpVal :=
  let n := a.floor
  if a.isInteger then
    (if n ≥ 200 then .num ⟨false, 1, 200⟩ else if n ≤ -200 then .num ⟨false, 1, -200⟩ else .num ⟨false, 1, n⟩)
  else if n ≥ 200 then .num ⟨false, 3, 200⟩
  else if n ≤ -200 then .num ⟨false, 3, -202⟩
  else
    let f := (Exact.add false a (Exact.ofInt (-n) 0)).toFx
    roundEnclosed false (fxExp (fxMul f fxLn2)) (n - fxBits)

/-- log2 of a positive exact number that is no power of two, before rounding. -/
def log2Val (a : Exact) : FpVal :=
  let n := a.top
  let x := (⟨false, a.mant, a.exp - n⟩ : Exact).toFx
  let z := (x - fxOne) * fxOne / (x + fxOne)
  let l := 2 * fxAtanh z * fxOne / fxLn2
  let v : Int := n * fxOne + l
  roundEnclosed (decide (v < 0)) v.natAbs (-(fxBits : Int))

/-- The exact number is a power of two, positive. -/
def Exact.isPowerOfTwo (a : Exact) : Bool := a.mant != 0 && a.mant == 2 ^ (bitLength a.mant - 1)

/-- The fixed-point fraction |a| mod 2, for an exact number with at most 512 fraction bits. -/
def Exact.halfTurns (a : Exact) : Nat :=
  if a.exp ≥ 1 then 0 else (⟨false, a.mant, a.exp⟩ : Exact).scaledMant (-(fxBits : Int)) % (2 * fxOne)

/-- sin(π·a) before rounding (06 Table 6.7). -/
def sinPiVal (a : Exact) : FpVal :=
  let r := a.halfTurns
  let second := decide (r ≥ fxOne)
  let h := if second then r - fxOne else r
  let neg := a.neg != second
  if a.isInteger then .num (Exact.zero a.neg)
  else if 2 * h = fxOne then .num ⟨neg, 1, 0⟩
  else
    let g := if 2 * h > fxOne then fxOne - h else h
    roundEnclosed neg (fxSin (fxMul fxPi g)) (-(fxBits : Int))

/-- cos(π·a) before rounding (06 Table 6.7). -/
def cosPiVal (a : Exact) : FpVal :=
  let r := a.halfTurns
  let h := if r > fxOne then 2 * fxOne - r else r
  if h = 0 then .num ⟨false, 1, 0⟩
  else if h = fxOne then .num ⟨true, 1, 0⟩
  else if 2 * h = fxOne then .num (Exact.zero false)
  else if 2 * h < fxOne then
    (if 4 * h < fxOne then
      -- cos x = 1 − 2 sin²(x/2), which keeps the distance from 1
      let t := fxSin (fxMul fxPi h / 2)
      roundEnclosed false (fxOne - 2 * fxMul t t) (-(fxBits : Int))
    else roundEnclosed false (fxSin (fxMul fxPi (fxOne / 2 - h))) (-(fxBits : Int)))
  else roundEnclosed true (fxSin (fxMul fxPi (h - fxOne / 2))) (-(fxBits : Int))

/-- tanh a before rounding, for a non-zero exact number (06 Table 6.7). -/
def tanhVal (a : Exact) : FpVal :=
  if a.top ≥ 6 then .num ⟨a.neg, 2 ^ 200 - 1, -200⟩
  else
    let y := 2 * a.toFx * fxOne / fxLn2
    let n := y / fxOne
    let f := y % fxOne
    let u := fxExp (fxMul (fxOne - f) fxLn2) / 2 ^ (n + 1)
    roundEnclosed a.neg ((fxOne - u) * fxOne / (fxOne + u)) (-(fxBits : Int))

/-- The special functions of opcodes 0x31 to 0x39 (06 R163). -/
inductive SpecialFn where
  | exp2 | log2 | rcp | rsqrt | sqrt | div | sinPi | cosPi | tanh
  deriving DecidableEq, Repr

/-- A quotient with the cases of FDIV and FRCP in 06 Table 6.7. -/
def divVal (x y : FpVal) : FpVal × Flags :=
  match x, y with
  | .nan _, _ => (.nan false, signallingFlag [x, y])
  | _, .nan _ => (.nan false, signallingFlag [x, y])
  | .inf _, .inf _ => (.nan false, flagNV)
  | .inf a, .num b => (.inf (a != b.neg), 0)
  | .num a, .inf b => (.num (Exact.zero (a.neg != b)), 0)
  | .num a, .num b =>
    if b.mant = 0 then (if a.mant = 0 then (.nan false, flagNV) else (.inf (a.neg != b.neg), flagDZ))
    else if a.mant = 0 then (.num (Exact.zero (a.neg != b.neg)), 0)
    else (.num (a.div b), 0)

/-- The value of a special function at its operands before the one rounding, with NV and DZ (06 R164, Table 6.7). -/
def specialVal (fn : SpecialFn) (x y : FpVal) : FpVal × Flags :=
  match fn with
  | .div => divVal x y
  | .rcp => divVal (.num ⟨false, 1, 0⟩) x
  | _ =>
    match x with
    | .nan s => (.nan false, flagIf s flagNV)
    | .inf neg =>
      (match fn with
       | .exp2 => (if neg then .num (Exact.zero false) else .inf false, 0)
       | .log2 | .sqrt => if neg then (.nan false, flagNV) else (.inf false, 0)
       | .rsqrt => if neg then (.nan false, flagNV) else (.num (Exact.zero false), 0)
       | .tanh => (.num ⟨neg, 1, 0⟩, 0)
       | _ => (.nan false, flagNV))
    | .num a =>
      (match fn with
       | .exp2 => (exp2Val a, 0)
       | .log2 =>
         if a.mant = 0 then (.inf true, flagDZ)
         else if a.neg then (.nan false, flagNV)
         else if a.isPowerOfTwo then (.num (Exact.ofInt a.top 0), 0)
         else (log2Val a, 0)
       | .sqrt =>
         if a.mant = 0 then (.num a, 0) else if a.neg then (.nan false, flagNV) else (.num a.sqrt, 0)
       | .rsqrt =>
         if a.mant = 0 then (.inf a.neg, flagDZ) else if a.neg then (.nan false, flagNV) else (.num a.rsqrt, 0)
       | .sinPi => (sinPiVal a, 0)
       | .cosPi => (cosPiVal a, 0)
       | .tanh => (if a.mant = 0 then .num a else tanhVal a, 0)
       | _ => (.nan false, 0))

/-- One special function on FP32 operands: result bits and flags (06 R164). -/
def specialFn (fn : SpecialFn) (m : RMode) (ftz : Bool) (a b : Word) : Word × Flags :=
  let o := FFmt.f32.finish (.mode m) false ftz
    (specialVal fn (FFmt.f32.read false ftz a.toNat) (FFmt.f32.read false ftz b.toNat))
  (BitVec.ofNat 32 o.1, o.2)

end Sys2Proof.Machine
end

