-- ==== Sys2Proof/Machine/Variable.lean ====
section
/-! DEFINITION. Variable-latency instructions: how one starts, lands lane by lane and completes (03 R91 to R93). -/

namespace Sys2Proof.Machine

open Sys2Proof

/-- The count of a completion counter. -/
def StreamState.count (x : StreamState) (tk : Nat) : Nat := if h : tk < 7 then x.tk[tk] else 0

/-- Change a completion counter; TK = 0 counts nothing (03 R93). -/
def StreamState.modCount (x : StreamState) (tk : Nat) (f : Nat → Nat) : StreamState :=
  if h : 0 < tk ∧ tk < 7 then { x with tk := x.tk.set tk (f (x.tk[tk]'h.2)) h.2 } else x

/-- Why a variable-latency instruction waits at issue: a full counter, or 32 instructions pending (03 R92, R93). -/
def State.varWait (s : State) (c : Ctx) (m : Word) (tk : Nat) : Option WaitReason :=
  if m = 0 then none
  else if tk ≠ 0 ∧ 15 ≤ (c.g.stream c.st).count tk then some .counter
  else if 32 ≤ s.ops.countP (fun e => e.2.counted && e.2.gid == c.gid && e.2.stream == c.st) then some .pendingFull
  else none

/-- The access kind that a poison fault of an instruction names (17 Table 17.1). -/
def OpKind.access : OpKind → AccessKind
  | .atomic _ => .atomic
  | .barwait .. => .engine
  | .request => .matrix
  | _ => .load

/-- A variable-latency instruction as it issues in one group. -/
def VOp.start (s : State) (c : Ctx) (u : Uses) (kind : OpKind) (la : BitVec 4) (tk : BitVec 3) : VOp :=
  let pend := u.writes.filter (fun r => r < 0x400)
  { bundle := s.bundleSeq, gid := c.gid, stream := c.st, kind := kind, counted := true, access := kind.access, mask := c.part u, tk := tk.toNat,
    window := if pend.isEmpty then none else some la.toNat, pend := pend, todo := [], isOrdered := false,
    results := [], written := 0, flags := [], poisoned := none, load := ⟨2, false, false, 0⟩,
    t := (u.dst.map (fun o => o.code)).getD 0x78, entries := (u.pushes.map Prod.snd).getD 0 }

/-- The queue that a pending instruction fills. -/
def VOp.queue (o : VOp) : Option Nat := match codeNames o.t with | .q n => some n | _ => none

/-- Reserve the entries of a pending instruction, in order (07 R179). -/
def Group.reserve (g : Group) (q : Nat) (m : Word) (n id : Nat) : Group :=
  (lanesOf m).foldl (fun g L => g.enqueue q L (List.replicate n ⟨0, .reserved id⟩)) g

/-- Fill the entries that an instruction reserved at a lane position; those that it does not need are released
(07 R179, R189). -/
def fillEntries (id : Nat) : List QEntry → List QEntry → List QEntry
  | [], _ => []
  | e :: es, fs =>
    if e.tag = .reserved id then
      (match fs with
       | f :: fs => f :: fillEntries id es fs
       | [] => fillEntries id es [])
    else e :: fillEntries id es fs

/-- Fill reserved entries of a group's queue at a lane position. -/
def Group.fill (g : Group) (q : Nat) (L : Fin 32) (id : Nat) (fs : List QEntry) : Group :=
  g.setEntries q L (fillEntries id (g.entries q L) fs)

/-- The present die cycle of a group. -/
def State.groupCycle (s : State) (gid : Nat) : Nat := ((s.groups.find gid).map (fun g => s.dieCycle g.die)).getD 0

/-- The instruction becomes pending: its counter counts it, its queue entries are reserved. -/
def State.addOp (s : State) (o : VOp) : State :=
  ({ s with nextId := s.nextId + 1, ops := s.ops.set s.nextId o }).modGroup o.gid (fun g =>
    let g := g.modStream o.stream (fun x => x.modCount o.tk (fun n => n + 1))
    match o.queue with
    | some q => g.reserve q o.mask o.entries s.nextId
    | none => g)

/-- The instruction completes: its flags land, and the poison that it met is raised (03 R91, R93; 06 R145; 08 R232;
17 R435). -/
def State.finishOp (s : State) (id : Nat) : State :=
  match s.ops.find id with
  | none => s
  | some o =>
    let s := ({ s with ops := s.ops.drop id } : State).landAllWrites (s.groupCycle o.gid) o.gid o.flags
    let s := s.modGroup o.gid (fun g =>
      { (g.modStream o.stream (fun x => x.modCount o.tk (fun n => n - 1))) with progress := true })
    let s := match o.poisoned with
      | some e =>
        s.raiseLate o.gid o.stream ⟨.poison, o.access, (match o.kind with | .atomic _ => true | _ => false), e.2⟩
      | none => s
    ((s.afterOrdered o.gid).afterWork o.gid).wake

/-- The poison that results met, that of the lowest lane: its lane and address (17 R436). -/
def lowestPoison (rs : List LaneResult) (b : Option (Nat × Nat)) : Option (Nat × Nat) :=
  rs.foldl (fun b r =>
    match r.poison, b with
    | some a, some e => if r.lane.val < e.1 then some (r.lane.val, a) else b
    | some a, none => some (r.lane.val, a)
    | none, _ => b) b

/-- The elements of a window store land, but for those that an instruction write reaches in the same cycle: that write
takes effect last (01 R19). -/
def State.landWindow (s : State) (gid : Nat) (ws : List RegWrite) : State :=
  let cyc := s.groupCycle gid
  let kept := ((s.groups.find gid).map (fun g => g.landed)).getD []
  s.landWrites cyc gid (ws.filter (fun w =>
    match w with
    | .vElem n L _ => !kept.any (fun e => decide (cyc ≤ e.1) && e.2.1 == n && e.2.2 == L)
    | _ => true))

/-- The results of some lanes of a pending instruction are written; when the last is, it completes. -/
def State.completeLanes (s : State) (id : Nat) (m : Word) : State :=
  match s.ops.find id with
  | none => s
  | some o =>
    let now := o.results.filter (fun r => laneIn m r.lane)
    let left := o.results.filter (fun r => !laneIn m r.lane)
    let ws := now.flatMap (fun r => r.writes)
    let s := if o.kind = .store then s.landWindow o.gid ws else s.landAllWrites (s.groupCycle o.gid) o.gid ws
    let s := match o.queue with
      | some q => s.modGroup o.gid (fun g => now.foldl (fun (g : Group) (r : LaneResult) => g.fill q r.lane id r.entries) g)
      | none => s
    let s := s.modOp id (fun o =>
      { o with results := left, written := o.written ||| maskOf (fun L => now.any (fun r => r.lane == L)),
               poisoned := lowestPoison now o.poisoned })
    if left.isEmpty && o.todo.isEmpty then s.finishOp id else s.wake

/-- A pending instruction of a kind, with every access performed, writes some lanes' results (08 Table 8.4). -/
def State.completeKind (s : State) (op : Nat) (lanes : Word) (p : OpKind → Bool) : State :=
  match s.ops.find op with
  | some o => if p o.kind && o.todo.isEmpty then s.completeLanes op lanes else s
  | none => s

/-- The results of an instruction whose destination is in registers and whose values are known at issue. -/
def laneResults (u : Uses) (m : Word) (out : Fin 32 → LaneOut) : List LaneResult :=
  match u.dst with
  | some d =>
    if d.ty == .vary then
      (lanesOf m).map (fun L =>
        let isQ := u.pushes.isSome
        { lane := L,
          writes := if isQ then [] else destWrites d (setBit 0 L true) (fun L => (out L).val),
          entries := if isQ then (splitWords d.words (out L).val).map (fun w => ⟨w, .data⟩) else [],
          poison := none })
    else
      let L := lowestLane m
      [{ lane := L, writes := destWrites d m (fun _ => (out L).val), entries := [], poison := none }]
  | none => []

/-- The flags of such an instruction: those of a uniform result are those of the lowest lane (06 R145). -/
def laneFlagWrites (st : Stream) (u : Uses) (m : Word) (out : Fin 32 → LaneOut) : List RegWrite :=
  match u.dst with
  | some d => flagWrites st m (fun L => (out (if d.ty != .vary && u.ty == .uni then lowestLane m else L)).flags)
  | none => []

/-- Start a variable-latency instruction that computes a result in each lane from its operands. -/
def State.startCompute (s : State) (c : Ctx) (u : Uses) (kind : OpKind) (la : BitVec 4) (tk : BitVec 3)
    (out : Fin 32 → LaneOut) : State :=
  let m := c.part u
  let o := VOp.start s c u kind la tk
  (s.modGroup c.gid (fun g => g.pop u m)).addOp { o with results := laneResults u m out, flags := laneFlagWrites c.st u m out }

/-- The verdict of a variable-latency instruction that computes from its operands; `also` is what it does at issue. -/
def computeVerdict (s : State) (c : Ctx) (u : Uses) (kind : OpKind) (la : BitVec 4) (tk : BitVec 3)
    (out : Fin 32 → LaneOut) (also : State → State) : Verdict :=
  let m := c.part u
  if m = 0 then .go (fun s => s) none
  else match s.varWait c m tk.toNat with
    | some w => .wait w
    | none => .go (fun s => also (s.startCompute c u kind la tk out)) none

end Sys2Proof.Machine
end

