-- ==== Sys2Proof/Machine/FloatOps.lean ====
section
/-! DEFINITION. Floating-point, conversion, special-function and abacus instructions (06 R147 to R173). -/

namespace Sys2Proof.Machine

open Sys2Proof

/-- A source as FP32 (06 R146). -/
def f32 (neg ftz : Bool) (x : Nat) : FpVal := FFmt.f32.read neg ftz (x % 2 ^ 32)

/-- A lane's result from bits and flags. -/
def fout (r : Nat × Flags) : LaneOut := { val := r.1, flags := r.2 }

/-- The modifiers of a short form. -/
def shortMod (m : RMode) : FMod := ⟨m, false, false, false, false⟩

/-- An FP32 operation of two sources, rounded once. -/
def aluF3 (f : F3) (m : FMod) (g : Rounding → FpVal → FpVal → FpVal × Flags) : Alu :=
  let u : Uses := { srcs := [op32 f.a, op32 f.b], dst := some (op32 f.d) }
  { uses := u, lat := latFloat, pins := pins3 f 32,
    fn := lanewise u (fun v _ =>
      fout (FFmt.f32.finish (.mode m.rnd) m.sat m.ftz
        (g (.mode m.rnd) (f32 m.negA m.ftz (v.getD 0 0)) (f32 m.negB m.ftz (v.getD 1 0))))) }

/-- x − y before rounding. -/
def fpSub (r : Rounding) (x y : FpVal) : FpVal × Flags := fpAdd r x y.negate

/-- FMAC: D is read as a source after A and B. -/
def aluFmac (f : F3) (m : FMod) : Alu :=
  let u : Uses :=
    { srcs := [op32 f.a, op32 f.b, op32 f.d], dst := some (op32 f.d),
      badOperand := match codeNames f.d with | .q _ => true | _ => false }
  { uses := u, lat := latFloat, pins := pins3 f 32,
    fn := lanewise u (fun v _ =>
      fout (FFmt.f32.finish (.mode m.rnd) m.sat m.ftz
        (fpFma (.mode m.rnd) (f32 m.negA m.ftz (v.getD 0 0)) (f32 m.negB m.ftz (v.getD 1 0))
          (f32 false m.ftz (v.getD 2 0))))) }

/-- FADD, short form. -/
def execFadd (f : F3) (m : RMode) : State → Host.Outcome State Fault Refusal := runAlu 1 (aluF3 f (shortMod m) fpAdd)
/-- FADD with an FMOD word. -/
def execFaddFmod (f : F3) (m : FMod) : State → Host.Outcome State Fault Refusal := runAlu 2 (aluF3 f m fpAdd)
/-- FSUB, short form. -/
def execFsub (f : F3) (m : RMode) : State → Host.Outcome State Fault Refusal := runAlu 1 (aluF3 f (shortMod m) fpSub)
/-- FSUB with an FMOD word. -/
def execFsubFmod (f : F3) (m : FMod) : State → Host.Outcome State Fault Refusal := runAlu 2 (aluF3 f m fpSub)
/-- FMUL, short form. -/
def execFmul (f : F3) (m : RMode) : State → Host.Outcome State Fault Refusal :=
  runAlu 1 (aluF3 f (shortMod m) (fun _ => fpMul))
/-- FMUL with an FMOD word. -/
def execFmulFmod (f : F3) (m : FMod) : State → Host.Outcome State Fault Refusal := runAlu 2 (aluF3 f m (fun _ => fpMul))
/-- FMAC, short form. -/
def execFmac (f : F3) (m : RMode) : State → Host.Outcome State Fault Refusal := runAlu 1 (aluFmac f (shortMod m))
/-- FMAC with an FMOD word. -/
def execFmacFmod (f : F3) (m : FMod) : State → Host.Outcome State Fault Refusal := runAlu 2 (aluFmac f m)

/-- FFMA (R149). -/
def aluFfma (f : F3) (c : Code) (m : FcMod) : Alu :=
  let u : Uses := { srcs := [op32 f.a, op32 f.b, op32 c], dst := some (op32 f.d) }
  { uses := u, lat := latFloat, pins := pins3 f 32,
    fn := lanewise u (fun v _ =>
      fout (FFmt.f32.finish (.mode m.rnd) m.sat m.ftz
        (fpFma (.mode m.rnd) (f32 m.negA m.ftz (v.getD 0 0)) (f32 m.negB m.ftz (v.getD 1 0))
          (f32 m.negC m.ftz (v.getD 2 0))))) }

/-- FFMA. -/
def execFfma (f : F3) (c : Code) (m : FcMod) : State → Host.Outcome State Fault Refusal := runAlu 2 (aluFfma f c m)

/-! R150, R151: minimum, maximum and negation. -/

/-- `x` is below `y` in the order in which −0 is below +0. -/
def fpBelow (x y : FpVal) : Bool :=
  match x, y with
  | .inf a, .inf b => a && !b
  | .inf a, _ => a
  | _, .inf b => !b
  | .num a, .num b =>
    (match Exact.cmp a b with
     | .lt => true
     | .gt => false
     | .eq => a.mant == 0 && a.neg && !b.neg)
  | _, _ => false

/-- FMIN and FMAX of R150 in a format: the chosen operand's bits, and NV. -/
def fpPick (f : FFmt) (nan big : Bool) (x y : Nat) : Nat × Flags :=
  let a := f.decode x
  let b := f.decode y
  let nv := signallingFlag [a, b]
  if a.isNan && b.isNan then (f.canonicalNan, nv)
  else if a.isNan then (if nan then f.canonicalNan else y, nv)
  else if b.isNan then (if nan then f.canonicalNan else x, nv)
  else if big then (if fpBelow a b then y else x, nv)
  else (if fpBelow b a then y else x, nv)

/-- FMIN or FMAX. -/
def aluFpick (f : F3) (nan big : Bool) : Alu :=
  let u : Uses := { srcs := [op32 f.a, op32 f.b], dst := some (op32 f.d) }
  { uses := u, lat := latFloat, pins := pins3 f 32,
    fn := lanewise u (fun v _ => fout (fpPick .f32 nan big (v.getD 0 0) (v.getD 1 0))) }

/-- FMIN. -/
def execFmin (f : F3) (nan : Bool) : State → Host.Outcome State Fault Refusal := runAlu 1 (aluFpick f nan false)
/-- FMAX. -/
def execFmax (f : F3) (nan : Bool) : State → Host.Outcome State Fault Refusal := runAlu 1 (aluFpick f nan true)

/-- An operation of one FP32 source on its bits. -/
def aluF2 (f : F2) (g : Nat → Nat × Flags) : Alu :=
  let u : Uses := { srcs := [op32 f.a], dst := some (op32 f.d) }
  { uses := u, lat := latFloat, pins := [(op32 f.a, f.ra)], fn := lanewise u (fun v _ => fout (g (v.getD 0 0))) }

/-- FNEG. -/
def fnegBits (x : Nat) : Nat × Flags :=
  if (FFmt.f32.decode x).isNan then (FFmt.f32.canonicalNan, 0) else ((x + 2 ^ 31) % 2 ^ 32, 0)

/-- FNEG. -/
def execFneg (f : F2) : State → Host.Outcome State Fault Refusal := runAlu 1 (aluF2 f fnegBits)

/-! R152, R153: comparison and classification. -/

/-- FCMP. -/
def aluFcmp (pd : BitVec 3) (a b : Code) (ra rb : Bool) (cmp : BitVec 3) (bop : BitVec 2) (pcomb : PredRef)
    (ftz : Bool) : Alu :=
  let u : Uses := { srcs := [op32 a, op32 b], preds := [pcomb], pdst := [pd.toNat] }
  { uses := u, lat := latCmp, pins := [(op32 a, ra), (op32 b, rb)],
    fn := lanewise u (fun v p =>
      let r := fcmpHolds cmp (f32 false ftz (v.getD 0 0)) (f32 false ftz (v.getD 1 0))
      { pred := bopOf bop r.1 (p.getD 0 false), flags := r.2 }) }

/-- FCMP. -/
def execFcmp (pd : BitVec 3) (a b : Code) (ra rb : Bool) (cmp : BitVec 3) (bop : BitVec 2) (pcomb : PredRef)
    (ftz : Bool) : State → Host.Outcome State Fault Refusal := runAlu 2 (aluFcmp pd a b ra rb cmp bop pcomb ftz)

/-- FCLASS (06 Table 6.3). -/
def fclassBits (x : Nat) : Nat × Flags :=
  (match FFmt.f32.decode x with
   | .nan s => if s then 2 ^ 8 else 2 ^ 9
   | .inf n => if n then 1 else 2 ^ 7
   | .num e =>
     if e.mant = 0 then (if e.neg then 2 ^ 3 else 2 ^ 4)
     else if FFmt.f32.isSubnormal x then (if e.neg then 2 ^ 2 else 2 ^ 5)
     else if e.neg then 2 ^ 1 else 2 ^ 6, 0)

/-- FCLASS. -/
def execFclass (f : F2) : State → Host.Outcome State Fault Refusal := runAlu 1 (aluF2 f fclassBits)

/-! R154, R155: rounding to integer and scaling. -/

/-- FRND. -/
def frndBits (m : FMod) (x : Nat) : Nat × Flags :=
  match f32 m.negA m.ftz x with
  | .nan s => (FFmt.f32.canonicalNan, flagIf s flagNV)
  | .inf n => ((FFmt.f32.roundInf false n).1, 0)
  | .num e =>
    let i := e.roundToInt m.rnd
    if i = 0 then (FFmt.f32.signBit e.neg, 0)
    else ((FFmt.f32.round (.mode .rn) false false (.num (Exact.ofInt i 0))).1, 0)

/-- FRND, short form. -/
def execFrnd (f : F2) (m : RMode) : State → Host.Outcome State Fault Refusal := runAlu 1 (aluF2 f (frndBits (shortMod m)))
/-- FRND with an FMOD word. -/
def execFrndFmod (f : F2) (m : FMod) : State → Host.Outcome State Fault Refusal := runAlu 2 (aluF2 f (frndBits m))

/-- x × 2^n. Amounts beyond ±1,000 act as ±1,000: both overflow, and both lie below every rounding boundary. -/
def fscaleVal (x : FpVal) (n : Int) : FpVal :=
  match x with
  | .num e => .num { e with exp := e.exp + max (-1000) (min 1000 n) }
  | v => v

/-- FSCALE. -/
def aluFscale (f : F3) (m : FMod) : Alu :=
  let u : Uses := { srcs := [op32 f.a, op32 f.b], dst := some (op32 f.d) }
  { uses := u, lat := latFloat, pins := pins3 f 32,
    fn := lanewise u (fun v _ =>
      let x := f32 m.negA m.ftz (v.getD 0 0)
      fout (FFmt.f32.finish (.mode m.rnd) m.sat m.ftz (fscaleVal x (signedOf 32 (v.getD 1 0)), signallingFlag [x]))) }

/-- FSCALE, short form. -/
def execFscale (f : F3) (m : RMode) : State → Host.Outcome State Fault Refusal := runAlu 1 (aluFscale f (shortMod m))
/-- FSCALE with an FMOD word. -/
def execFscaleFmod (f : F3) (m : FMod) : State → Host.Outcome State Fault Refusal := runAlu 2 (aluFscale f m)

/-! R156, R157: packed halves. -/

/-- The format of a packed half. -/
def halfFmt (bf : Bool) : FFmt := if bf then .bf16 else .f16

/-- Two elements of 16 bits, their results and their flags joined. -/
def packHalves (g : Nat → Nat × Flags) : LaneOut :=
  let lo := g 0
  let hi := g 1
  { val := lo.1 % 2 ^ 16 + 2 ^ 16 * (hi.1 % 2 ^ 16), flags := lo.2 ||| hi.2 }

/-- Element `i` of a source of halves. -/
def half (x i : Nat) : Nat := x / 2 ^ (16 * i) % 2 ^ 16

/-- A packed operation of two sources. -/
def aluH3 (f : F3) (bf : Bool) (m : FMod) (g : Rounding → FpVal → FpVal → FpVal × Flags) : Alu :=
  let u : Uses := { srcs := [op32 f.a, op32 f.b], dst := some (op32 f.d) }
  let h := halfFmt bf
  { uses := u, lat := latFloat, pins := pins3 f 32,
    fn := lanewise u (fun v _ => packHalves (fun i =>
      h.finish (.mode m.rnd) m.sat m.ftz
        (g (.mode m.rnd) (h.read m.negA m.ftz (half (v.getD 0 0) i)) (h.read m.negB m.ftz (half (v.getD 1 0) i))))) }

/-- HADD2, short form. -/
def execHadd2 (f : F3) (bf : Bool) : State → Host.Outcome State Fault Refusal :=
  runAlu 1 (aluH3 f bf (shortMod .rn) fpAdd)
/-- HADD2 with an HMOD word. -/
def execHadd2Hmod (f : F3) (bf : Bool) (m : FMod) : State → Host.Outcome State Fault Refusal := runAlu 2 (aluH3 f bf m fpAdd)
/-- HMUL2, short form. -/
def execHmul2 (f : F3) (bf : Bool) : State → Host.Outcome State Fault Refusal :=
  runAlu 1 (aluH3 f bf (shortMod .rn) (fun _ => fpMul))
/-- HMUL2 with an HMOD word. -/
def execHmul2Hmod (f : F3) (bf : Bool) (m : FMod) : State → Host.Outcome State Fault Refusal :=
  runAlu 2 (aluH3 f bf m (fun _ => fpMul))

/-- HFMA2 (R157). -/
def aluHfma2 (f : F3) (bf : Bool) (c : Code) (m : FcMod) : Alu :=
  let u : Uses := { srcs := [op32 f.a, op32 f.b, op32 c], dst := some (op32 f.d) }
  let h := halfFmt bf
  { uses := u, lat := latFloat, pins := pins3 f 32,
    fn := lanewise u (fun v _ => packHalves (fun i =>
      h.finish (.mode m.rnd) m.sat m.ftz
        (fpFma (.mode m.rnd) (h.read m.negA m.ftz (half (v.getD 0 0) i)) (h.read m.negB m.ftz (half (v.getD 1 0) i))
          (h.read m.negC m.ftz (half (v.getD 2 0) i))))) }

/-- HFMA2. -/
def execHfma2 (f : F3) (bf : Bool) (c : Code) (m : FcMod) : State → Host.Outcome State Fault Refusal :=
  runAlu 2 (aluHfma2 f bf c m)

/-- HMAX2. -/
def aluHmax2 (f : F3) (bf : Bool) : Alu :=
  let u : Uses := { srcs := [op32 f.a, op32 f.b], dst := some (op32 f.d) }
  { uses := u, lat := latFloat, pins := pins3 f 32,
    fn := lanewise u (fun v _ => packHalves (fun i =>
      fpPick (halfFmt bf) false true (half (v.getD 0 0) i) (half (v.getD 1 0) i))) }

/-- HMAX2. -/
def execHmax2 (f : F3) (bf : Bool) : State → Host.Outcome State Fault Refusal := runAlu 1 (aluHmax2 f bf)

/-! R158 to R162: conversions. -/

/-- A format of 06 Table 6.4: floating point, or an integer of a width and signedness. -/
inductive CvFmt where
  | float (f : FFmt)
  | int (n : Nat) (s : Bool)
  deriving DecidableEq, Repr

/-- The format of a code; reserved codes never reach it (06 R160). -/
def cvFmt (c : BitVec 4) : CvFmt :=
  match c.toNat with
  | 0 => .float .f32 | 1 => .float .f16 | 2 => .float .bf16 | 3 => .float .e4m3 | 4 => .float .e5m2 | 5 => .float .e2m1
  | 6 => .int 8 true | 7 => .int 8 false | 8 => .int 16 true | 9 => .int 16 false | 10 => .int 32 true
  | 11 => .int 32 false | 12 => .int 64 true | _ => .int 64 false

/-- Words of an operand of a format. -/
def CvFmt.words : CvFmt → Nat
  | .int 64 _ => 2
  | _ => 1

/-- FTZ acts on the format (06 R160). -/
def FFmt.flushes (f : FFmt) : Bool := f == .f32 || f == .f16 || f == .bf16

/-- The rounding of a CVX word: .sr with the LFSR state after the step (02 R55). -/
def cvRounding (rnd : BitVec 3) (state : Word) : Rounding :=
  match rnd.toNat with
  | 0 => .mode .rn | 1 => .mode .rz | 2 => .mode .ru | 3 => .mode .rd | _ => .stochastic state

/-- The directed mode of a CVX word. -/
def cvMode (rnd : BitVec 3) : RMode :=
  match rnd.toNat with
  | 1 => .rz | 2 => .ru | 3 => .rd | _ => .rn

/-- A value rounded to an integer type (06 Table 6.5). -/
def fpToInt (m : RMode) (n : Nat) (s : Bool) (v : FpVal) : Nat × Flags :=
  match v with
  | .nan _ => (0, flagNV)
  | .inf neg => (writeInt n s (if neg then intMin n s else intMax n s), flagNV)
  | .num e =>
    let i := e.roundToInt m
    if i < intMin n s then (writeInt n s (intMin n s), flagNV)
    else if intMax n s < i then (writeInt n s (intMax n s), flagNV)
    else (writeInt n s i, flagIf (!e.isInteger) flagNX)

/-- One conversion (06 Table 6.5): the bits of the destination element, and flags. -/
def convert (src dst : CvFmt) (m : CvMod) (state : Word) (x : Nat) : Nat × Flags :=
  match src, dst with
  | .float f, .float g =>
    let v := f.read false (m.ftz && f.flushes) x
    g.finish (cvRounding m.rnd state) m.sat (m.ftz && g.flushes) (v, signallingFlag [v])
  | .float f, .int n s => fpToInt (cvMode m.rnd) n s (f.read false (m.ftz && f.flushes) x)
  | .int n s, .float g =>
    g.round (cvRounding m.rnd state) m.sat (m.ftz && g.flushes) (.num (Exact.ofInt (readInt n s x) 0))
  | .int n s, .int k t =>
    let e := readInt n s x
    (writeInt k t (if m.sat then clampInt k t e else e), 0)

/-- FCVT: reads element SELEM, and D when it replaces one element (R159). -/
def aluFcvt (f : F2) (m : CvMod) : Alu :=
  let src := cvFmt m.sfmt
  let dst := cvFmt m.dfmt
  let merge := isNarrowFloat m.dfmt
  let a : Operand := ⟨f.a, src.words, false⟩
  let d : Operand := ⟨f.d, dst.words, false⟩
  let u : Uses :=
    { srcs := if merge then [a, d] else [a], dst := some d, compOnly := m.rnd == 4,
      badOperand := merge && (match codeNames f.d with | .q _ => true | _ => false) }
  { uses := u, lat := latFloat, pins := [(a, f.ra)],
    fn := fun c _ => .ok (fun L =>
      let v := c.values u L
      let state := lfsrStep c.g.seed[L]
      let x := match src with
        | .float g => v.getD 0 0 / 2 ^ (g.bits * m.selem.toNat) % 2 ^ g.bits
        | .int _ _ => v.getD 0 0
      let r := convert src dst m state x
      let val := match dst with
        | .float g =>
          if merge then (setElement g.bits (BitVec.ofNat 32 (v.getD 1 0)) m.delem.toNat r.1).toNat else r.1
        | .int _ _ => r.1
      { val := val, flags := r.2, seed := if m.rnd = 4 then some state else none }) }

/-- FCVT. -/
def execFcvt (f : F2) (m : CvMod) : State → Host.Outcome State Fault Refusal := runAlu 2 (aluFcvt f m)

/-- PACK2: element 0 from A, element 1 from B (R161). -/
def aluPack2 (f : F3) (m : CvMod) : Alu :=
  let u : Uses := { srcs := [op32 f.a, op32 f.b], dst := some (op32 f.d), compOnly := m.rnd == 4 }
  { uses := u, lat := latFloat, pins := pins3 f 32,
    fn := fun c _ => .ok (fun L =>
      let v := c.values u L
      let s1 := lfsrStep c.g.seed[L]
      let s2 := lfsrStep s1
      let o := packHalves (fun i => convert (.float .f32) (cvFmt m.dfmt) m (if i = 0 then s1 else s2) (v.getD i 0))
      { o with seed := if m.rnd = 4 then some s2 else none }) }

/-- PACK2, short form. -/
def execPack2 (f : F3) (bf : Bool) : State → Host.Outcome State Fault Refusal :=
  runAlu 1 (aluPack2 f ⟨if bf then 2 else 1, 0, 0, false, false, 0, 0⟩)
/-- PACK2 with a CVX word. -/
def execPack2Cvx (f : F3) (m : CvMod) : State → Host.Outcome State Fault Refusal := runAlu 2 (aluPack2 f m)

/-- UNPACK2: two adjacent elements of A to the pair D (R162). -/
def aluUnpack2 (f : F2) (m : CvMod) : Alu :=
  let u : Uses := { srcs := [op32 f.a], dst := some (op64 f.d) }
  { uses := u, lat := latFloat, pins := [(op32 f.a, f.ra)],
    fn := lanewise u (fun v _ =>
      match cvFmt m.sfmt with
      | .float g =>
        let el (i : Nat) : Nat × Flags :=
          convert (.float g) (.float .f32) m 0 (v.getD 0 0 / 2 ^ (g.bits * (m.selem.toNat + i)) % 2 ^ g.bits)
        { val := (el 0).1 + 2 ^ 32 * (el 1).1, flags := (el 0).2 ||| (el 1).2 }
      | .int _ _ => {}) }

/-- UNPACK2, short form. -/
def execUnpack2 (f : F2) (bf : Bool) : State → Host.Outcome State Fault Refusal :=
  runAlu 1 (aluUnpack2 f ⟨0, if bf then 2 else 1, 0, false, false, 0, 0⟩)
/-- UNPACK2 with a CVX word. -/
def execUnpack2Cvx (f : F2) (m : CvMod) : State → Host.Outcome State Fault Refusal := runAlu 2 (aluUnpack2 f m)

/-! R163 to R165: special functions. -/

/-- What a special function of one source names. -/
def sfuUses (d : Code) (srcs : List Code) : Uses :=
  { srcs := srcs.map op32, dst := some (op32 d), badType := tyOf d == .aff }

/-- A dash for the affine type: a discarded result of affine sources is illegal as well (06 R143). -/
def Uses.noAffine (u : Uses) : Uses := { u with badType := u.badType || u.ty == .aff }

/-- Issue a special function. -/
def State.issueSfu (s : State) (fn : SpecialFn) (u : Uses) (pins : List (Operand × Bool)) (m : SfMod) : State :=
  let u := u.noAffine
  s.issue 2 u (fun _ => none) (pinRows pins) false (fun s c =>
    computeVerdict s c u .sfu m.la m.tk (fun L =>
      let v := c.values u L
      let r := specialFn fn m.rnd m.ftz (BitVec.ofNat 32 (v.getD 0 0)) (BitVec.ofNat 32 (v.getD 1 0))
      { val := r.1.toNat, flags := r.2 }) (fun s => s))

/-- A special function of one source. -/
def sfu2 (fn : SpecialFn) (f : F2) (m : SfMod) (s : State) : Host.Outcome State Fault Refusal :=
  .next (s.issueSfu fn (sfuUses f.d [f.a]) [(op32 f.a, f.ra)] m)

/-- FEXP2. -/
def execFexp2 (f : F2) (m : SfMod) : State → Host.Outcome State Fault Refusal := sfu2 .exp2 f m
/-- FLOG2. -/
def execFlog2 (f : F2) (m : SfMod) : State → Host.Outcome State Fault Refusal := sfu2 .log2 f m
/-- FRCP. -/
def execFrcp (f : F2) (m : SfMod) : State → Host.Outcome State Fault Refusal := sfu2 .rcp f m
/-- FRSQRT. -/
def execFrsqrt (f : F2) (m : SfMod) : State → Host.Outcome State Fault Refusal := sfu2 .rsqrt f m
/-- FSQRT. -/
def execFsqrt (f : F2) (m : SfMod) : State → Host.Outcome State Fault Refusal := sfu2 .sqrt f m
/-- FDIV. -/
def execFdiv (f : F3) (m : SfMod) (s : State) : Host.Outcome State Fault Refusal :=
  .next (s.issueSfu .div (sfuUses f.d [f.a, f.b]) (pins3 f 32) m)
/-- FSIN. -/
def execFsin (f : F2) (m : SfMod) : State → Host.Outcome State Fault Refusal := sfu2 .sinPi f m
/-- FCOS. -/
def execFcos (f : F2) (m : SfMod) : State → Host.Outcome State Fault Refusal := sfu2 .cosPi f m
/-- FTANH. -/
def execFtanh (f : F2) (m : SfMod) : State → Host.Outcome State Fault Refusal := sfu2 .tanh f m

/-! R166 to R173: the abacus. -/

/-- What an abacus instruction names: accumulators it reads and writes, and its operands. -/
def xUses (srcs : List Code) (rd wr : List (BitVec 2)) : Uses :=
  { srcs := srcs.map op32, compOnly := true, alsoReads := rd.map (fun n => 0x400 + n.toNat),
    alsoWrites := wr.map (fun n => 0x400 + n.toNat) }

/-- Set an accumulator. -/
def Group.setX (g : Group) (n : BitVec 2) (x : Abacus) : Group := { g with x := g.x.set n.toNat x n.isLt }

/-- Issue an abacus instruction that changes an accumulator and no register. -/
def State.issueX (s : State) (u : Uses) (pins : List (Operand × Bool)) (n : BitVec 2) (f : Ctx → Word → Abacus) : State :=
  s.issue 1 u (fun _ => none) (pinRows pins) false (fun _ c =>
    let m := c.act
    if m = 0 then .go (fun s => s) none
    else .go (fun s => (s.modGroup c.gid (fun g => (g.pop u m).setX n (f c m))).repair c.gid (fun b =>
      b.what == 0x400 + n.toNat)) none)

/-- XCLR. -/
def execXclr (x : BitVec 2) (s : State) : Host.Outcome State Fault Refusal :=
  .next (s.issueX (xUses [] [] [x]) [] x (fun _ _ => Abacus.zero))
/-- XMOV. -/
def execXmov (xd xs : BitVec 2) (s : State) : Host.Outcome State Fault Refusal :=
  .next (s.issueX (xUses [] [xs] [xd]) [] xd (fun c _ => c.g.x[xs.toFin]))

/-- XADD and XFMA: the values of every active lane, ascending (R169). -/
def addLanes (x : Abacus) (m : Word) (f : Fin 32 → List AbacusInput) : Abacus :=
  (lanesOf m).foldl (fun x L => (f L).foldl Abacus.add x) x

/-- XADD. -/
def execXadd (x : BitVec 2) (a : Code) (ra : Bool) (bf : Bool) (s : State) : Host.Outcome State Fault Refusal :=
  let u := xUses [a] [x] [x]
  .next (s.issueX u [(op32 a, ra)] x (fun c m => addLanes c.g.x[x.toFin] m (fun L =>
    let v := (c.values u L).getD 0 0
    if bf then [.ofVal (FFmt.bf16.decode (half v 0)), .ofVal (FFmt.bf16.decode (half v 1))]
    else [.ofVal (FFmt.f32.decode v)])))

/-- XFMA. -/
def execXfma (x : BitVec 2) (a b : Code) (ra rb : Bool) (s : State) : Host.Outcome State Fault Refusal :=
  let u := xUses [a, b] [x] [x]
  .next (s.issueX u [(op32 a, ra), (op32 b, rb)] x (fun c m => addLanes c.g.x[x.toFin] m (fun L =>
    let v := c.values u L
    [0, 1].map (fun i => AbacusInput.ofProduct (FFmt.bf16.decode (half (v.getD 0 0) i))
      (FFmt.bf16.decode (half (v.getD 1 0) i))))))

/-- The result format of an ABX word. -/
def abFmt (f : BitVec 2) : FFmt := if f = 0 then .f32 else if f = 1 then .f16 else .bf16

/-- XRD (R171): the accumulator counts as a uniform source. -/
def execXrd (d : Code) (x : BitVec 2) (m : AbMod) (s : State) : Host.Outcome State Fault Refusal :=
  let u := { xUses [] [x] [] with dst := some (op32 d), badType := tyOf d == .aff }
  .next (s.issue 2 u (fun _ => none) [] false (fun s c =>
    computeVerdict s c u .xrd m.la m.tk (fun _ => fout (c.g.x[x.toFin].read (abFmt m.fmt) m.rnd m.sat)) (fun s => s)))

/-- The running sums of XSCAN, lane by lane, and the accumulator after them (R172). -/
def scanLanes (f : FFmt) (m : AbMod) (val : Fin 32 → FpVal) :
    List (Fin 32) → Abacus → List (Fin 32 × LaneOut) → List (Fin 32 × LaneOut) × Abacus
  | [], x, acc => (acc, x)
  | L :: Ls, x, acc =>
    let y := x.add (.ofVal (val L))
    scanLanes f m val Ls y ((L, fout ((if m.incl then y else x).read f m.rnd m.sat)) :: acc)

/-- XSCAN. -/
def execXscan (d : Code) (x : BitVec 2) (b : Code) (rb : Bool) (m : AbMod) (s : State) :
    Host.Outcome State Fault Refusal :=
  let u := { xUses [b] [x] [x] with dst := some (op32 d), badType := tyOf d != .vary }
  .next (s.issue 2 u (fun _ => none) (pinRows [(op32 b, rb)]) false (fun s c =>
    let r := scanLanes (abFmt m.fmt) m (fun L => FFmt.f32.decode ((c.values u L).getD 0 0)) (lanesOf c.act)
      c.g.x[x.toFin] []
    computeVerdict s c u .xscan m.la m.tk (fun L => ((r.1.find? (fun e => e.1 == L)).map Prod.snd).getD {})
      (fun s => s.modGroup c.gid (fun g => g.setX x r.2))))

/-! Completions. -/

/-- SFU_COMPLETE. -/
def execSfuComplete (op : Nat) (lanes : Word) (s : State) : Host.Outcome State Fault Refusal :=
  .next (s.completeKind op lanes (fun k => k == .sfu))
/-- XRD_COMPLETE. -/
def execXrdComplete (op : Nat) (lanes : Word) (s : State) : Host.Outcome State Fault Refusal :=
  .next (s.completeKind op lanes (fun k => k == .xrd))
/-- XSCAN_COMPLETE. -/
def execXscanComplete (op : Nat) (lanes : Word) (s : State) : Host.Outcome State Fault Refusal :=
  .next (s.completeKind op lanes (fun k => k == .xscan))

end Sys2Proof.Machine
end

