-- ==== Sys2Proof/Machine/Memory.lean ====
section
/-! DEFINITION. Memory: the physical map, translation, the granule classifier, the directory's view of lines, poison,
and the performance of accesses (08 R223 to R239; 13; 17 R453 to R458). -/

namespace Sys2Proof.Machine

open Sys2Proof

/-! Physical memory (13 R522). Host memory lies above 2^64 in the model's one address space. -/

/-- Where host memory begins. -/
def hostBase : Nat := 2 ^ 64

/-- A memory channel by package number. -/
inductive Channel where
  | hbm (n : Nat)
  | ddr (c : Nat)
  deriving DecidableEq, Repr

/-- The channel in whose range a device physical address lies (13 Table 13.7). -/
def channelOf (pa : Nat) : Option Channel :=
  if pa < 2 ^ 40 then some (.hbm (pa / 2 ^ 31))
  else if 2 ^ 40 ≤ pa ∧ pa < 2 ^ 40 + 16 * 2 ^ 38 then some (.ddr ((pa - 2 ^ 40) / 2 ^ 38))
  else none

/-- The address holds memory: its channel is fitted, and reaches so far (00 R2; 13 R522). -/
def State.hasMemory (s : State) (pa : Nat) : Bool :=
  match channelOf pa with
  | some (.hbm _) => true
  | some (.ddr c) => decide ((pa - 2 ^ 40) % 2 ^ 38 < s.ddr.toList.getD c 0)
  | none => false

/-- The firmware region: the top 256 MiB of HBM4 channel 0 (13 R522; 19 R484). -/
def inFirmware (pa : Nat) : Bool := decide (2 ^ 31 - 2 ^ 28 ≤ pa) && decide (pa < 2 ^ 31)

/-- The home die of an address (13 R318). -/
def homeDie (key : Nat) : Nat :=
  match channelOf key with
  | some (.hbm n) => n / 128
  | some (.ddr c) => c / 4
  | none => Config.hostDie

/-- A partition by number. -/
def State.part (s : State) (p : Nat) : Option Part := s.parts.find p

/-- An address lies in the channels of a partition (13 R522; 16 R398; 17 R454). -/
def Part.holds (p : Part) (pa : Nat) : Bool :=
  match channelOf pa with
  | some (.hbm n) => p.hbmch.testBit n
  | some (.ddr c) => p.ddrch.testBit c
  | none => false

/-- It lies there outside the firmware region, which is reserved (19 R484; log 115). -/
def Part.owns (p : Part) (pa : Nat) : Bool := p.holds pa && !inFirmware pa

/-- The bytes of memory at a key. -/
def State.bytesAt (s : State) (key n : Nat) : List Byte := s.mem.readN key n

/-- The 16-byte blocks that a range touches (19 R479). -/
def blocksOf (key n : Nat) : List Nat := (List.range ((key % 16 + n + 15) / 16)).map (fun i => key / 16 + i)

/-- Some block of a range is poisoned. -/
def State.poisonIn (s : State) (key n : Nat) : Bool := (blocksOf key n).any (fun b => s.poison.contains b)

/-- The device gives up its modified copy of a line, as clean as it can be: under viral it writes no data to host memory, and
keeps what it holds modified (19 R482). -/
def State.keepsDirty (s : State) (line : Nat) : Bool := s.viral && decide (hostBase ≤ 128 * line)

/-- A write is kept from memory: viral holds and the place is host memory (19 R482). -/
def State.viralBlocks (s : State) (key : Nat) : Bool := s.viral && decide (hostBase ≤ key)

/-- Write bytes: blocks written whole lose their poison (19 R479). -/
def State.writeBytes (s : State) (key : Nat) (bs : List Byte) : State :=
  if s.viralBlocks key then s
  else
    { s with mem := s.mem.writeN key bs,
             poison := s.poison.filter (fun b => !(decide (key ≤ 16 * b) && decide (16 * b + 16 ≤ key + bs.length))) }

/-- Poisoned data is written: its blocks are poisoned. -/
def State.writePoison (s : State) (key n : Nat) : State :=
  if s.viralBlocks key then s else { s with poison := (blocksOf key n).foldl insertSorted s.poison }

/-! Translation (17 R453 to R457). -/

/-- What an access needs of a leaf (17 R454). -/
inductive Need where
  | read | write | both | fetch | clean
  deriving DecidableEq, Repr

/-- Bit fields of a page-table entry (17 Table 17.6). -/
def pteBit (e : Dword) (n : Nat) : Bool := e.getLsbD n

/-- FRAME as an address. -/
def pteFrame (e : Dword) : Nat := e.toNat / 2 ^ 16 % 2 ^ 36 * 2 ^ 16

/-- A reserved bit is set. -/
def pteReserved (e : Dword) : Bool := e.toNat / 2 ^ 52 != 0 || e.toNat / 2 ^ 10 % 2 ^ 6 != 0

/-- Bits below the index of a level. -/
def levelShift (level : Nat) : Nat := if level = 3 then 42 else if level = 2 then 29 else 16

/-- The index of a level in its table. -/
def levelIndex (level va : Nat) : Nat := va / 2 ^ levelShift level % (if level = 3 then 2 ^ 15 else 2 ^ 13)

/-- The address is canonical: bits [63:57] equal bit 56 (08 R225). -/
def canonicalVa (va : Nat) : Bool := va / 2 ^ 56 == 0 || va / 2 ^ 56 == 255

/-- The permissions of a leaf suffice. -/
def leafAllows (e : Dword) : Need → Bool
  | .read => pteBit e 2
  | .write => pteBit e 3
  | .both => pteBit e 2 && pteBit e 3
  | .fetch => pteBit e 4
  | .clean => true

/-- What a walk ends in: a leaf with its level and the address of its entry, or TRANSLATION; with `poison` when the
entry was poisoned (17 R454, R455). -/
inductive WalkEnd where
  | leaf (level : Nat) (e : Dword) (entry : Nat)
  | bad (poison : Bool)
  deriving DecidableEq, Repr

/-- A walk from the table at `base`, down the levels listed (17 R453). -/
def State.walkFrom (s : State) (va : Nat) : List Nat → Nat → WalkEnd
  | [], _ => .bad false
  | level :: rest, base =>
    let a := base + 8 * levelIndex level va
    if !s.hasMemory a then .bad false
    else if s.poisonIn a 8 then .bad true
    else
      let e : Dword := BitVec.ofNat 64 (natOfBytes (s.bytesAt a 8))
      if !pteBit e 0 || pteReserved e then .bad false
      else if pteBit e 1 then (if pteFrame e % 2 ^ levelShift level = 0 then .leaf level e a else .bad false)
      else if level = 1 then .bad false
      else s.walkFrom va rest (pteFrame e)

/-- The walk of a function's tables (17 R453). -/
def State.walkVa (s : State) (fn va : Nat) : WalkEnd :=
  s.walkFrom va [3, 2, 1] ((s.fn fn).root.toNat / 2 ^ 18 * 2 ^ 18)

/-- The cached entry that maps an address. -/
def TlbEntry.maps (t : TlbEntry) (die fn va : Nat) : Bool :=
  t.die == die && t.fn == fn && t.vpn == va % 2 ^ 57 / 2 ^ levelShift t.level

/-- The outcome of a translation: the place, a fault, a walk or a host translation to wait for. -/
inductive Xlat where
  | ok (key : Nat)
  | fault (c : Cause)
  | walk (page : Nat)
  | ats (page limit : Nat)
  | busy
  deriving DecidableEq, Repr

/-- The entry is about a piece of host memory of a function. -/
def AtsEntry.about (e : AtsEntry) (fn page : Nat) : Bool :=
  e.fn == fn && decide (e.page ≤ page) && decide (page < e.page + e.pages)

/-- The failure of a host translation that a waiter has to see. -/
def State.atsFailure (s : State) (fn page : Nat) (w : Waiter) : Option Cause :=
  s.ats.findSome? (fun e =>
    match e.st with
    | .failed c => if e.about fn page && e.waiters.contains w then some c else none
    | _ => none)

/-- The host translation of a piece, cached or under way. -/
def State.atsOf (s : State) (fn page : Nat) : Option AtsEntry :=
  s.ats.find? (fun e => e.about fn page && (match e.st with | .failed _ => false | _ => true))

/-- A host leaf's address, translated for a waiter under 17 R457; the leaf has `limit` pieces of 4 KiB. -/
def State.translateHost (s : State) (fn : Nat) (w : Waiter) (need : Need) (addr limit : Nat) : Xlat :=
  let page := addr / 4096
  if !(s.fn fn).atsOn then .fault .permission
  else
    match s.atsFailure fn page w, s.atsOf fn page with
    | some c, _ => .fault c
    | none, none => .ats page limit
    | none, some e =>
      match e.st with
      | .granted frame rd wr =>
        let ok := match need with
          | .read => rd | .write => wr | .both => rd && wr | .fetch => rd | .clean => true
        if ok then .ok (hostBase + (frame + (page - e.page)) * 4096 + addr % 4096)
        else if (s.fn fn).priFailed then .fault .permission
        else if (s.fn fn).priOn then .ats page limit
        else .fault .translation
      | _ => if e.waiters.contains w then .busy else .ats page limit

/-- A leaf is judged: PERMISSION and, of a HOST leaf, its translation; TRANSIT; then the place (17 R437, R454). -/
def State.judgeLeaf (s : State) (fn part : Nat) (w : Waiter) (need : Need) (level : Nat) (e : Dword) (va : Nat) : Xlat :=
  let addr := pteFrame e + va % 2 ^ levelShift level
  let moving (x : Xlat) : Xlat := match x with | .ok k => if pteBit e 5 then .fault .transit else .ok k | x => x
  if !leafAllows e need then .fault .permission
  else if pteBit e 9 then moving (s.translateHost fn w need addr (2 ^ (levelShift level - 12)))
  else if !(((s.part part).map (fun p => p.holds addr)).getD false && s.hasMemory addr) then .fault .permission
  else moving (.ok addr)

/-- A translation that walks in place, for the device's own accesses (16 R414; 17 R441; 20 R508). -/
def State.translateNow (s : State) (fn part : Nat) (need : Need) (va : Nat) : Xlat :=
  if !canonicalVa va || !(s.fn fn).root.getLsbD 0 then .fault .translation
  else
    match s.walkVa fn (va % 2 ^ 57) with
    | .leaf level e _ => s.judgeLeaf fn part .own need level e (va % 2 ^ 57)
    | .bad _ => .fault .translation

/-- The slice of a core position on its die (16 R397). -/
def coreSlice (core : Nat) : Nat := 2 * (core % 96 / 12 / 2) + (if 6 ≤ core % 12 then 1 else 0)

/-- A waiter finds an entry: in its core's TLB, in that of the core's slice, or in the die's last one (17 R456). -/
def TlbEntry.reaches (t : TlbEntry) (w : Waiter) : Bool :=
  match t.place, w with
  | .core c, .slot n => c == n / 6
  | .slice i, .slot n => i == coreSlice (n / 6)
  | .last, _ => true
  | _, _ => false

/-- What a cached entry says: the leaf of a page in motion is read again, and an entry that is a leaf no longer takes a
walk, which reports it (16 R403; 17 R455; log 50). -/
def State.readAgain (s : State) (fn va : Nat) (t : TlbEntry) : Option (Nat × Dword) :=
  if pteBit t.leaf 5 then
    match s.walkVa fn (va % 2 ^ 57) with
    | .leaf level e _ => some (level, e)
    | .bad _ => none
  else some (t.level, t.leaf)

/-- A translation through the TLBs of a die, for one waiter; the entry of a page in motion is read again (16 R403;
17 R456; log 50). -/
def State.translate (s : State) (die fn part : Nat) (w : Waiter) (need : Need) (va : Nat) : Xlat :=
  if !canonicalVa va || !(s.fn fn).root.getLsbD 0 then .fault .translation
  else
    match (s.tlb.find? (fun t => t.maps die fn va && t.reaches w)).bind (fun t => s.readAgain fn va t) with
    | some (level, e) => s.judgeLeaf fn part w need level e (va % 2 ^ 57)
    | none =>
      let page := va % 2 ^ 57 / 2 ^ 16
      match s.walks.find? (fun e => e.2.die == die && e.2.fn == fn && e.2.page == page && e.2.failed.isSome &&
          e.2.waiters.contains w) with
      | some e => .fault (e.2.failed.getD .translation)
      | none => .walk page

/-- Take a walker, or join the walk in progress; none when every walker of the die is busy, or the walk has 512 waiters
(17 R456). -/
def State.takeWalker (s : State) (m : Miss) : Option State :=
  match s.walks.find? (fun e => e.2.die == m.die && e.2.fn == m.fn && e.2.page == m.page && e.2.failed.isNone) with
  | some (i, x) =>
    if x.waiters.contains m.waiter then some s
    else if 512 ≤ x.waiters.length then none
    else some { s with walks := s.walks.modify i (fun x => { x with waiters := x.waiters ++ [m.waiter] }) }
  | none =>
    if 64 ≤ s.walks.countP (fun e => e.2.die == m.die && e.2.failed.isNone) then none
    else some { s with nextId := s.nextId + 1, walks := s.walks.set s.nextId ⟨m.die, m.fn, m.page, [m.waiter], none⟩ }

/-- Ask for a walk: a miss that no walker takes waits in the miss queue, behind those that came before it; one that joins
a walk in progress waits for none of them, and while a walker is free they wait only for their own (17 R456). -/
def State.requestWalk (s : State) (die fn page : Nat) (w : Waiter) : State :=
  let m : Miss := ⟨die, fn, page, w⟩
  if s.misses.contains m then s
  else
    match s.takeWalker m with
    | some s => s
    | none => { s with misses := s.misses ++ [m] }

/-- The misses of a die take walkers, in the order of their arrival, as far as there is room (17 R456). -/
def State.serveMisses (s : State) (die : Nat) : List Miss → State
  | [] => s
  | m :: ms =>
    if m.die ≠ die then s.serveMisses die ms
    else
      match s.takeWalker m with
      | some t => { t with misses := t.misses.filter (fun x => x != m) }.serveMisses die ms
      | none => s.serveMisses die ms

/-- Replace the host translation of a piece, which is not a failure, by an entry about that piece. -/
def State.setAts (s : State) (fn page : Nat) (e : AtsEntry) : State :=
  { s with ats := s.ats.filter (fun x => !(x.about fn page && (match x.st with | .failed _ => false | _ => true))) ++ [e] }

/-- A piece needs a Page Request: it is sent unless the function has 512 outstanding (17 R457). -/
def State.pageState (s : State) (fn : Nat) : AtsState :=
  if s.ats.countP (fun e => e.fn == fn && e.st == .paging) < 512 then .paging else .toPage

/-- Ask for a host translation: an ATS request, or a Page Request for a piece whose grant lacks a permission; a waiter
joins the one under way (17 R457). -/
def State.requestAts (s : State) (fn page limit : Nat) (w : Waiter) : State :=
  match s.atsOf fn page with
  | none => s.setAts fn page ⟨fn, page, 1, limit, .requested, [w]⟩
  | some e =>
    match e.st with
    | .granted _ _ _ => s.setAts fn page ⟨fn, page, 1, limit, s.pageState fn, [w]⟩
    | _ => if e.waiters.contains w then s else s.setAts fn page { e with waiters := e.waiters ++ [w] }

/-- What an access that cannot translate yet asks for. -/
def State.request (s : State) (die fn : Nat) (w : Waiter) : Xlat → State
  | .walk page => s.requestWalk die fn page w
  | .ats page limit => s.requestAts fn page limit w
  | _ => s

/-! The granule classifier (13 R334 to R343). -/

/-- The granule of a place. -/
def granuleOf (key : Nat) : Nat := key / 4096

/-- The state of a granule after a classified access, with the drain and invalidation it causes (13 Table 13.2): by a
core, or by a non-core agent. -/
def granuleNext (st : Option GState) (core : Option Nat) (write : Bool) : GState :=
  match st with
  | none =>
    (match core with
     | some c => .priv c write
     | none => if write then .shared else .readonly)
  | some (.priv c w) =>
    if core = some c then .priv c (w || write)
    else if write || w then .shared else .readonly
  | some .readonly => if write then .shared else .readonly
  | some .shared => .shared

/-- A permission is used: it becomes the core's most recent of 256 (13 R342). -/
def Core.usePerm (c : Core) (gr : Nat) : Core :=
  let l := c.perms.filter (fun x => x != gr) ++ [gr]
  { c with perms := l.drop (l.length - 256) }

/-- The permissions that a core drops to use another. -/
def Core.dropped (c : Core) (gr : Nat) : List Nat :=
  let l := c.perms.filter (fun x => x != gr) ++ [gr]
  l.take (l.length - 256)

/-- Lines of a granule. -/
def lineIn (gr : Nat) (line : Nat) : Bool := line / 32 == gr

/-- A core drops a permission: dirty lines of its granule go to L2, and of a READONLY one its copies go (13 R342). -/
def State.dropPerm (s : State) (core gr : Nat) : State :=
  { s with lines := s.lines.map (fun e =>
      if lineIn gr e.1 && e.2.l1.contains core then
        (e.1, if s.granules.find gr = some .readonly then { e.2 with l1 := e.2.l1.filter (fun c => c != core) }
              else { e.2 with l1Dirty := false })
      else e) }

/-- A core uses a permission. -/
def State.usePerm (s : State) (core gr : Nat) : State :=
  let out := (s.cores.getD core Core.reset).dropped gr
  out.foldl (fun s g => s.dropPerm core g) (s.modCore core (fun x => x.usePerm gr))

/-- Every core forgets a granule. -/
def State.dropPerms (s : State) (gr : Nat) : State :=
  { s with cores := s.cores.map (fun e => (e.1, { e.2 with perms := e.2.perms.filter (fun x => x != gr) })) }

/-- No L1 holds a line of a granule; what was dirty there is written to L2. -/
def State.clearL1 (s : State) (gr : Nat) : State :=
  { s with lines := s.lines.map (fun e => if lineIn gr e.1 then (e.1, { e.2 with l1 := [], l1Dirty := false }) else e) }

/-- No cache of the device holds a line any more. -/
def Line.forget (l : Line) : Option Line := if l.host then some { Line.none with host := true } else Option.none

/-- The lines that satisfy a condition leave the caches of the device. -/
def forgetLines (ls : Assoc Line) (p : Nat → Bool) : Assoc Line :=
  ls.filterMap (fun e => if p e.1 then e.2.forget.map (fun l => (e.1, l)) else some e)

/-- No cache of the device holds a line of a granule. -/
def State.clearLines (s : State) (gr : Nat) : State := { s with lines := forgetLines s.lines (lineIn gr) }

/-- Set a granule's state. -/
def State.setGranule (s : State) (gr : Nat) (st : GState) : State := { s with granules := s.granules.set gr st }

/-- The drain of a PRIVATE granule for a request (13 R339). -/
def State.drainFor (s : State) (gr : Nat) (core : Option Nat) (write : Bool) : State :=
  match s.granules.find gr with
  | some (.priv c w) =>
    if core = some c then s
    else
      let s := s.setGranule gr (granuleNext (some (.priv c w)) core write)
      if w || write then (s.clearL1 gr).dropPerms gr else s
  | _ => s

/-- The invalidation of a READONLY granule for a write (13 R341). -/
def State.invalidateReadonly (s : State) (gr : Nat) : State :=
  match s.granules.find gr with
  | some .readonly => ((s.clearLines gr).dropPerms gr).setGranule gr .shared
  | _ => s

/-- The directory's view of a line after an access through the caches of a die (13 R346, R347); a store recalls the copy
that the host caches (19 R474). -/
def Line.after (l : Line) (die : Nat) (core : Option Nat) (write : Bool) (inL1 : Bool) : Line :=
  let l1 := match core with
    | some c => if inL1 then insertSorted l.l1 c else l.l1
    | Option.none => l.l1
  if write then { sharers := [die], owner := some die, l1 := if inL1 then l1 else [], dirty := true, l1Dirty := inL1, host := false }
  else { sharers := insertSorted l.sharers die, owner := if l.owner = some die then l.owner else Option.none, l1 := l1,
         dirty := l.dirty && l.owner == some die, l1Dirty := l.l1Dirty, host := l.host }

/-- One classified access, with everything it causes, through the caches of a die (13 R336 to R347). -/
def State.classify (s : State) (key die : Nat) (core : Option Nat) (write : Bool) : State :=
  let gr := granuleOf key
  let s := s.drainFor gr core write
  let s := if write then s.invalidateReadonly gr else s
  let st := granuleNext (s.granules.find gr) core write
  let s := s.setGranule gr st
  let inL1 := match st with | .shared => false | _ => core.isSome && decide (key < hostBase)
  let s := match core, st with
    | some c, .priv _ _ => s.usePerm c gr
    | some c, .readonly => s.usePerm c gr
    | _, _ => s
  { s with lines := s.lines.set (key / 128) ((s.lines.getD (key / 128) Line.none).after die core write inL1)
           lost := s.lost.filter (fun x => x != key / 128) }

/-- An access by a core is an ordered access (13 R337, R342). -/
def State.needsOrder (s : State) (core key : Nat) (write : Bool) : Bool :=
  let has := (s.cores.getD core Core.reset).perms.contains (granuleOf key)
  match s.granules.find (granuleOf key) with
  | none | some .shared => true
  | some (.priv c _) => c != core || !has
  | some .readonly => write || !has

/-- Write back, invalidate and forget a granule: it is UNTOUCHED (13 R343). -/
def State.relearn (s : State) (gr : Nat) : State :=
  { (s.clearLines gr).dropPerms gr with granules := s.granules.drop gr }

/-! Performing lane accesses (13 R326; 08 R229). -/

/-- The access writes memory. -/
def Act.writes : Act → Bool
  | .load => false
  | _ => true

/-- The group of a pending instruction replays a recording. -/
def State.replays (s : State) (gid : Nat) : Bool := ((s.groups.find gid).map (fun g => s.yMode g == 2)).getD false

/-- The lane that an ordered instruction performs next: the lowest of its whole bundle (13 R337); in replay, where the
record says which group's turn it is, the lowest of its own (19 R488). -/
def State.nextOrdered (s : State) (op : Nat) : Option (VOp × LaneAccess) :=
  match s.ops.find op with
  | some o =>
    (match o.todo with
     | a :: _ =>
       if o.isOrdered && (s.replays o.gid || s.ops.all (fun e => e.2.bundle != o.bundle || e.2.todo.all (fun b => decide (a.lane.val ≤ b.lane.val))))
       then some (o, a) else none
     | [] => none)
  | none => none

/-- The ordered accesses to a granule among some instructions, each with its instruction and its core. -/
def State.requestsFor (s : State) (gr : Nat) (ids : List Nat) : List (Nat × Nat × LaneAccess) :=
  ids.filterMap (fun id => (s.nextOrdered id).bind (fun x =>
    if x.2.space = .phys ∧ granuleOf x.2.addr = gr then (s.groups.find x.1.gid).map (fun g => (id, g.core, x.2)) else none))

/-- An ordered access of a core can be performed where it is: its own die runs, or it has left it (14 R383; 19 R475). -/
def State.sendRuns (s : State) (op core : Nat) : Bool := s.home.contains op || s.clockRuns (core / 96)

/-- The ordered access to a granule that is served next, if it is such a one: the first that has arrived at its home, or,
where none waits there, one on its way (13 R340). -/
def State.nextRequest (s : State) (gr : Nat) (p : Nat × Nat × LaneAccess → Bool) : Option (Nat × Nat × LaneAccess) :=
  match s.requestsFor gr s.home with
  | r :: _ => if p r then some r else none
  | [] => (s.requestsFor gr (Assoc.keys s.ops)).find? (fun r => p r && s.sendRuns r.1 r.2.1)

/-- A request for the granule of an address has arrived at its home and waits there: later ones wait behind it
(13 R340). -/
def State.homeHeld (s : State) (key : Nat) : Bool := !(s.requestsFor (granuleOf key) s.home).isEmpty

/-- An access that goes to the home of an address waits there: behind a request that came before it, or for the relock of
the home's die (13 R340; 14 R384). -/
def State.homeWaits (s : State) (key : Nat) : Bool := s.homeHeld key || s.relocking (homeDie key)

/-- What an access from a die does when it waits at the home of an address: when the home's die relocks, its flit is in
the die-to-die FIFOs toward that die from now on (14 R384). -/
def State.waitHome (s : State) (die key : Nat) : State :=
  if s.relocking (homeDie key) && die != homeDie key && !s.fifo.contains (die, homeDie key) then
    { s with fifo := s.fifo ++ [(die, homeDie key)] }
  else s

/-- An access of the group's core to a granule that is being drained waits at the drain point (13 R339). -/
def State.atDrainPoint (s : State) (core : Nat) (key : Nat) : Bool :=
  match s.granules.find (granuleOf key) with
  | some (.priv c _) => c == core && (s.requestsFor (granuleOf key) s.home).any (fun r => r.2.1 != core)
  | _ => false

/-- The new value of an atomic (08 R237). -/
def atomNew (op : BitVec 3) (signed : Bool) (n old v cmp : Nat) : Nat :=
  let o := readInt n signed old
  let x := readInt n signed v
  match op.toNat with
  | 0 => (old + v) % 2 ^ n
  | 1 => if x < o then v else old
  | 2 => if o < x then v else old
  | 3 => old &&& v
  | 4 => old ||| v
  | 5 => old ^^^ v
  | 6 => v
  | _ => if old = cmp then v else old

/-- FATOM's new value (08 R237). -/
def fatomNew (bf : Bool) (old v : Nat) : Nat :=
  if bf then
    let el (i : Nat) : Nat :=
      (FFmt.bf16.finish (.mode .rn) false false
        (fpAdd (.mode .rn) (FFmt.bf16.decode (old / 2 ^ (16 * i) % 2 ^ 16)) (FFmt.bf16.decode (v / 2 ^ (16 * i) % 2 ^ 16)))).1
    el 0 + 2 ^ 16 * el 1
  else
    (FFmt.f32.finish (.mode .rn) false false (fpAdd (.mode .rn) (FFmt.f32.decode old) (FFmt.f32.decode v))).1

/-- The value that an access stores, given the old value. -/
def Act.newValue (a : Act) (size old : Nat) : Option Nat :=
  match a with
  | .load => none
  | .store x => some x
  | .atom op s v cmp => some (atomNew op s (8 * size) old v cmp)
  | .fatom bf v => some (fatomNew bf old v.toNat)
  | .barinit n => some (wrapNat 64 (signedOf 32 n) + 2 ^ 64 * ((old / 2 ^ 64 + 1) % 2 ^ 32))

/-- What the destination of a pending instruction receives in a lane: registers, or queue entries (08 R226, R231). -/
def VOp.receive (o : VOp) (L : Fin 32) (size x : Nat) (poison : Option Nat) : LaneResult :=
  let words := if size ≤ 4 then 1 else size / 4
  let v := if size < 4 then fillInt (8 * size) o.load.sx x else x
  match codeNames o.t with
  | .q _ =>
    { lane := L, writes := [], poison := none,
      entries := (splitWords words v).map (fun w => ⟨w, if poison.isSome then .poison else .data⟩) }
  | .zero => { lane := L, writes := [], entries := [], poison := none }
  | _ =>
    { lane := L, entries := [], poison := poison,
      writes := if poison.isSome then [] else destWrites ⟨o.t, words, true⟩ (setBit 0 L true) (fun _ => v) }

/-- The elements of the register window that a range of offsets covers: register, lane, in order (01 R18). -/
def windowCells (off size : Nat) : List (Nat × Fin 32) :=
  (List.range (size / 4)).map (fun i =>
    ((off + 4 * i) / 128, ⟨(off + 4 * i) % 128 / 4 % 32, Nat.mod_lt _ (by decide)⟩))

/-- The bytes that an access reads, and the poison it meets. -/
def State.readAccess (s : State) (a : LaneAccess) : Nat × Option Nat :=
  match a.space with
  | .phys => (natOfBytes (s.bytesAt a.addr a.size), if s.poisonIn a.addr a.size then some a.va else none)
  | .scratch t =>
    (match s.teams.find t with
     | some x =>
       (natOfBytes (x.scratch.readN a.addr a.size),
        if (blocksOf a.addr a.size).any (fun b => x.scratchPoison.contains b) then some a.va else none)
     | none => (0, none))
  | .window gid =>
    (match s.groups.find gid with
     | some g =>
       let cs := windowCells a.addr a.size
       (joinWords (cs.map (fun c => g.vElem c.1 c.2)),
        if cs.any (fun c => s.bad.any (fun b => b.gid == gid && b.what == c.1 && b.lane == some c.2)) then some a.va
        else none)
     | none => (0, none))
  | .wptr die => (((s.queues.getD (32 * die + a.addr / 8) EQueue.reset).wp).toNat, none)

/-- The group of a pending instruction that reads a write pointer. -/
def State.wptrGroup (s : State) (id : Nat) (a : LaneAccess) : Option Group :=
  match a.space with
  | .wptr _ => (s.ops.find id).bind (fun o => s.groups.find o.gid)
  | _ => none

/-- What an access reads as it is performed: LDWP in replay returns the recorded value (19 R488). -/
def State.readPerformed (s : State) (id : Nat) (a : LaneAccess) : Nat × Option Nat :=
  match s.wptrGroup id a with
  | some g => (s.yValue g yLdwp a.lane.val (s.readAccess a).1, none)
  | none => s.readAccess a

/-- An access of a group's to a line takes place at its home: its place in the order, then its transition (13 R333; 19
R487). -/
def State.accessLine (s : State) (g : Group) (key who die : Nat) (core : Option Nat) (write : Bool) : State :=
  ((s.orderLine g key who).classify key die core write).orderChange s g (granuleOf key) who

/-- The recorder sees an access: the value of a write pointer, or the order of the accesses to a line or a row
(19 R487). -/
def State.recordAccess (s : State) (id : Nat) (a : LaneAccess) : State :=
  match (s.ops.find id).bind (fun o => s.groups.find o.gid) with
  | none => s
  | some g =>
    match a.space with
    | .wptr _ => s.yAfter g yLdwp a.lane.val (s.readAccess a).1
    | .phys => s.orderLine g a.addr (g.yWho a.lane.val)
    | .scratch t => s.order g 8 (a.addr / 128 * 2 ^ 40 + s.yTeam t) (g.yWho a.lane.val)
    | .window t =>
      s.order g 14 (a.addr / 128 * 2 ^ 40 + ((s.groups.find t).map (fun x => x.yWho 0)).getD 0) (g.yWho a.lane.val)

/-- The recorder sees what an access of a pending instruction made of its granule. -/
def State.opChange (t s : State) (id : Nat) (a : LaneAccess) : State :=
  match (s.ops.find id).bind (fun o => s.groups.find o.gid) with
  | some g => t.orderChange s g (granuleOf a.addr) (g.yWho a.lane.val)
  | none => t

/-- Write the bytes of an access; a window store's elements land when the store completes (01 R19). -/
def State.writeAccess (s : State) (a : LaneAccess) (x : Nat) : State :=
  match a.space with
  | .phys => s.writeBytes a.addr (bytesOfNat a.size x)
  | .scratch t =>
    s.modTeam t (fun y =>
      { y with scratch := y.scratch.writeN a.addr (bytesOfNat a.size x),
               scratchPoison := y.scratchPoison.filter (fun b =>
                 !(decide (a.addr ≤ 16 * b) && decide (16 * b + 16 ≤ a.addr + a.size))) })
  | _ => s

/-- The writes that a window store makes when it completes. -/
def windowWrites (a : LaneAccess) (x : Nat) : List RegWrite :=
  (windowCells a.addr a.size).zipIdx.map (fun e => .vElem e.1.1 e.1.2 (BitVec.ofNat 32 (x / 2 ^ (32 * e.2))))

/-- One lane's access of a pending instruction is performed (13 R326). -/
def State.performAccess (s : State) (id : Nat) (core : Nat) (a : LaneAccess) : State :=
  let r := s.readPerformed id a
  let s := s.recordAccess id a
  let s := match a.space with
    | .phys => (s.classify a.addr (core / 96) (some core) a.act.writes).opChange s id a
    | _ => s
  let s := match a.act.newValue a.size r.1 with
    | some x => s.writeAccess a x
    | none => s
  s.modOp id (fun o =>
    let res : List LaneResult :=
      match a.act, a.space with
      | .store x, .window _ => [{ lane := a.lane, writes := windowWrites a x, entries := [], poison := none }]
      | .store _, _ => []
      | _, _ => if codeNames o.t = .zero then [] else [o.receive a.lane a.size r.1 r.2]
    { o with todo := o.todo.filter (fun b => b.lane != a.lane), results := o.results ++ res })

/-- Perform the accesses of pending instructions in a list of lanes, each instruction's own access of the lane. -/
def State.performLanes (s : State) (ids : List Nat) : List (Fin 32) → State
  | [] => s
  | L :: Ls =>
    let s := ids.foldl (fun s id =>
      match s.ops.find id with
      | some o =>
        (match o.todo.find? (fun a => a.lane == L), s.groups.find o.gid with
         | some a, some g => s.performAccess id g.core a
         | _, _ => s)
      | none => s) s
    s.performLanes ids Ls

/-- The accesses of a bundle that has issued: performed at once in ascending home position, unless one of them is an
ordered access, which makes the instruction one (13 R326, R337). In replay a bundle that would have to wait for its
turn is performed lane by lane as well (19 R488). -/
def State.performBundle (s : State) : State :=
  let mine := s.ops.filter (fun e => e.2.bundle == s.bundleSeq && !e.2.todo.isEmpty)
  let ids := Assoc.keys mine
  let t := s.performLanes ids (List.finRange 32)
  let s := if mine.any (fun e => e.2.isOrdered) || (t.held && !s.held) then
      ids.foldl (fun s id => s.modOp id (fun o => { o with isOrdered := true })) s
    else t
  { s with bundleSeq := s.bundleSeq + 1 }

end Sys2Proof.Machine
end

