-- ==== Sys2Proof/Machine/Control.lean ====
section
/-! DEFINITION. Control instructions: transfers, calls with their return stacks, exits, breakpoints and rejoin masks
(07 R201 to R209; 08 R214 to R222). -/

namespace Sys2Proof.Machine

open Sys2Proof

/-! Reading code (03 R73; 17 R437). -/

/-- A code word through the TLBs of a group's die, or why it cannot be read yet. -/
def State.codeAt (s : State) (g : Group) (slot : Nat) (va : Nat) : Xlat :=
  s.translate g.die g.fn g.part (.slot slot) .fetch va

/-- The word at a place. -/
def State.wordAt (s : State) (key : Nat) : Word := BitVec.ofNat 32 (natOfBytes (s.bytesAt key 4))

/-- The tag of a clause header (03 R68). -/
def isHeader (w : Word) : Bool := w.extractLsb' 27 5 == 0b11111#5

/-- What the check of a target says (03 R73; 08 R217): good, bad, or a translation to wait for. A target whose page
cannot be translated is no bad target: the fetch of its clause raises the fault (17 R437). -/
inductive TargetCheck where
  | good
  | bad
  | later (x : Xlat)
  deriving DecidableEq, Repr

/-- Check one target. -/
def State.checkTarget (s : State) (g : Group) (slot : Nat) (pc : Dword) : TargetCheck :=
  if pc.toNat % 4 ≠ 0 then .bad
  else
    match s.codeAt g slot pc.toNat with
    | .ok key => if s.poisonIn key 4 || isHeader (s.wordAt key) then .good else .bad
    | .fault _ => .good
    | x => .later x

/-- The verdict on a transfer of some lanes to their targets: every other lane of the bundle falls through
(08 R214). -/
def State.transferVerdict (s : State) (c : Ctx) (targets : List (Fin 32 × Dword)) (eff : State → State)
    (leave : Word) : Verdict :=
  let pcs := (targets.map Prod.snd).eraseDups
  match pcs.findSome? (fun pc => match s.checkTarget c.g s.cur pc with | .later x => some x | _ => none) with
  | some x => .waitDo .translation (fun s => s.request c.g.die c.g.fn (.slot s.cur) x)
  | none =>
    if pcs.any (fun pc => s.checkTarget c.g s.cur pc == .bad) then .fault (FaultInfo.plain .badTarget)
    else
      .go eff (some (fun L =>
        if laneIn leave L then none
        else some (((targets.find? (fun e => e.1 == L)).map Prod.snd).getD (c.pc + 4))))

/-- Issue a control instruction of one word. -/
def State.issueControl (s : State) (u : Uses) (pins : List (Operand × Bool)) (sem : State → Ctx → Verdict) : State :=
  s.issue 1 u (fun _ => none) (pinRows pins) false sem

/-- The target of a format FB instruction (08 R216). -/
def branchTarget (pc : Dword) (off : BitVec 21) : Dword := pc + (off.signExtend 64 <<< 2)

/-- The active lanes in which a condition holds. -/
def Ctx.taken (c : Ctx) (cond : PredRef) : List (Fin 32) := (lanesOf c.act).filter (c.g.predRef cond)

/-- BRA. -/
def execBra (cond : PredRef) (off : BitVec 21) (s : State) : Host.Outcome State Fault Refusal :=
  .next (s.issueControl { preds := [cond] } [] (fun s c =>
    s.transferVerdict c ((c.taken cond).map (fun L => (L, branchTarget c.pc off))) (fun s => s) 0))

/-- What BRQ names: it pops q6. -/
def brqUses : Uses := { srcs := [op32 0x76] }

/-- BRQ (07 R183). -/
def execBrq (neg : Bool) (off : BitVec 21) (s : State) : Host.Outcome State Fault Refusal :=
  .next (s.issueControl brqUses [] (fun s c =>
    let go := (lanesOf c.act).filter (fun L => ((c.values brqUses L).getD 0 0 != 0) != neg)
    s.transferVerdict c (go.map (fun L => (L, branchTarget c.pc off)))
      (fun s => (s.modGroup c.gid (fun g => g.pop brqUses c.act)).count c.g.core 0x01 1) 0))

/-- JMP. -/
def execJmp (a : Code) (ra : Bool) (s : State) : Host.Outcome State Fault Refusal :=
  let u : Uses := { srcs := [op64 a] }
  .next (s.issueControl u [(op64 a, ra)] (fun s c =>
    s.transferVerdict c ((lanesOf c.act).map (fun L => (L, BitVec.ofNat 64 ((c.values u L).getD 0 0)))) (fun s => s) 0))

/-! Return stacks (07 R205 to R208). -/

/-- Set a vector of addresses in one lane. -/
def setLaneD (v : Vector Dword 32) (L : Fin 32) (x : Dword) : Vector Dword 32 := v.set L x

/-- The spilled region of a stream in a lane: its first byte and its length (07 R206). -/
def Group.spillRegion (g : Group) (st : Stream) (L : Fin 32) : Nat × Nat :=
  let n := 8 * ((g.stream st).lanes[L]).spilled
  match st with
  | .addr => ((g.sptr[L]).toNat, n)
  | .comp => ((g.cspill[L]).toNat - n, n)

/-- Two byte ranges overlap. -/
def overlap (a b : Nat × Nat) : Bool := decide (a.1 < b.1 + b.2) && decide (b.1 < a.1 + a.2)

/-- The other stream. -/
def Stream.other : Stream → Stream
  | .addr => .comp
  | .comp => .addr

/-- Where a stream spills next (07 R206). -/
def Group.spillAddr (g : Group) (st : Stream) (L : Fin 32) : Nat :=
  match st with
  | .addr => (g.sptr[L] - 8).toNat
  | .comp => (g.cspill[L]).toNat

/-- Where a stream refills from (07 R207). -/
def Group.refillAddr (g : Group) (st : Stream) (L : Fin 32) : Nat :=
  match st with
  | .addr => (g.sptr[L]).toNat
  | .comp => (g.cspill[L] - 8).toNat

/-- A stack access of one lane: translated as an 8-byte access (17 R437). -/
def State.stackXlat (s : State) (g : Group) (need : Need) (va : Nat) : Xlat :=
  if va % 8 ≠ 0 then .fault .misaligned else s.translate g.die g.fn g.part (.slot s.cur) need va

/-- The verdict on the stack accesses of the lanes of a list, each at its address: a wait, the fault of the lowest
lane, or their places; a place may have to wait at its home (13 R340; 14 R384). -/
def State.stackAccesses (s : State) (c : Ctx) (need : Need) (forbidden : Fin 32 → Bool) (lanes : List (Fin 32 × Nat)) :
    Except Verdict (List (Fin 32 × Nat)) :=
  let xs := lanes.map (fun e => (e.1, e.2, s.stackXlat c.g need e.2))
  if c.st == .addr && !lanes.isEmpty && s.orderedOutstanding c.gid then .error (.wait .ordered)
  else
    match xs.find? (fun e => match e.2.2 with | .ok _ => false | .fault _ => false | _ => true) with
    | some e =>
      .error (.waitDo .translation (fun s => s.request c.g.die c.g.fn (.slot s.cur) e.2.2))
    | none =>
      match xs.find? (fun e => forbidden e.1 || (match e.2.2 with | .ok _ => false | _ => true)) with
      | some e =>
        let cause := match e.2.2 with | .fault x => x | _ => .permission
        .error (.fault ⟨cause, .stack, need == .write, e.2.1⟩)
      | none =>
        let ps := xs.filterMap (fun e => match e.2.2 with | .ok k => some (e.1, k) | _ => none)
        if ps.any (fun p => s.homeWaits p.2) then .error (.waitDo .drain (fun s => ps.foldl (fun s p => s.waitHome c.g.die p.2) s)) else .ok ps

/-- A return address is pushed in one lane; `spill` is the place of the entry that leaves the stack (07 R205, R206). -/
def State.pushReturn (s : State) (c : Ctx) (ret : Dword) (L : Fin 32) (spill : Option Nat) : State :=
  match spill with
  | none => s.modGroup c.gid (fun g => g.modLanes c.st (setBit 0 L true) (fun l =>
      { l with rstack := ret :: l.rstack, rbad := l.rbad.map (fun i => i + 1) }))
  | some key =>
    let lane := (c.g.stream c.st).lanes[L]
    let old := (lane.rstack.getLast?).getD 0
    let s := (s.accessLine c.g key (c.g.yWho L.val) c.g.die (some c.g.core) true).writeBytes key
      (bytesOfNat 8 old.toNat)
    let s := if lane.rbad.contains (lane.rstack.length - 1) then s.writePoison key 8 else s
    let s := s.count c.g.core 0x09 1
    s.modGroup c.gid (fun g =>
      let g := g.modLanes c.st (setBit 0 L true) (fun l =>
        { l with rstack := ret :: l.rstack.dropLast, spilled := l.spilled + 1,
                 rbad := (l.rbad.filter (fun i => decide (i + 1 < l.rstack.length))).map (fun i => i + 1) })
      match c.st with
      | .addr => { g with sptr := setLaneD g.sptr L (g.sptr[L] - 8) }
      | .comp => { g with cspill := setLaneD g.cspill L (g.cspill[L] + 8) })

/-- CALL and CALLR: push, spilling where the stack is full, then transfer (08 Table 8.1, R217). -/
def State.callVerdict (s : State) (c : Ctx) (targets : List (Fin 32 × Dword)) : Verdict :=
  let full := (targets.map Prod.fst).filter (fun L =>
    decide (c.g.cfg.rsdepth ≤ ((c.g.stream c.st).lanes[L]).rstack.length))
  let forbidden (L : Fin 32) : Bool := overlap (c.g.spillAddr c.st L, 8) (c.g.spillRegion c.st.other L)
  match s.stackAccesses c .write forbidden (full.map (fun L => (L, c.g.spillAddr c.st L))) with
  | .error v => v
  | .ok places =>
    s.transferVerdict c targets (fun s =>
      targets.foldl (fun s e =>
        s.pushReturn c (c.pc + 4) e.1 ((places.find? (fun p => p.1 == e.1)).map Prod.snd)) s) 0

/-- CALL. -/
def execCall (cond : PredRef) (off : BitVec 21) (s : State) : Host.Outcome State Fault Refusal :=
  .next (s.issueControl { preds := [cond] } [] (fun s c =>
    s.callVerdict c ((c.taken cond).map (fun L => (L, branchTarget c.pc off)))))

/-- CALLR. -/
def execCallr (a : Code) (ra : Bool) (s : State) : Host.Outcome State Fault Refusal :=
  let u : Uses := { srcs := [op64 a] }
  .next (s.issueControl u [(op64 a, ra)] (fun s c =>
    s.callVerdict c ((lanesOf c.act).map (fun L => (L, BitVec.ofNat 64 ((c.values u L).getD 0 0))))))

/-- One lane pops its newest return address. -/
def Group.popReturn (g : Group) (st : Stream) (L : Fin 32) : Group :=
  g.modLanes st (setBit 0 L true) (fun l =>
    { l with rstack := l.rstack.tail, rbad := (l.rbad.filter (fun i => i != 0)).map (fun i => i - 1) })

/-- The newest spilled entry of a lane comes back on chip from its place (07 R207). -/
def State.refill (s : State) (c : Ctx) (L : Fin 32) (key : Nat) : State :=
  let x : Dword := BitVec.ofNat 64 (natOfBytes (s.bytesAt key 8))
  let s := (s.accessLine c.g key (c.g.yWho L.val) c.g.die (some c.g.core) false).count c.g.core 0x0A 1
  s.modGroup c.gid (fun g =>
    let g := g.modLanes c.st (setBit 0 L true) (fun l => { l with spilled := l.spilled - 1, rstack := [x], rbad := [] })
    match c.st with
    | .addr => { g with sptr := setLaneD g.sptr L (g.sptr[L] + 8) }
    | .comp => { g with cspill := setLaneD g.cspill L (g.cspill[L] - 8) })

/-- The active lanes that must refill, and where from (07 R207). -/
def Ctx.refills (c : Ctx) : List (Fin 32 × Nat) :=
  ((lanesOf c.act).filter (fun L =>
    let l := (c.g.stream c.st).lanes[L]
    l.rstack.isEmpty && decide (0 < l.spilled))).map (fun L => (L, c.g.refillAddr c.st L))

/-- RET: it waits for its refills; a lane with no entry ends its stream; an entry whose row holds an error raises poison
consumption (07 R207; 08 Table 8.2; 19 R479). -/
def State.retVerdict (s : State) (c : Ctx) : Verdict :=
  let lane (L : Fin 32) : LaneCtl := (c.g.stream c.st).lanes[L]
  let held := (lanesOf c.act).filter (fun L => !(lane L).rstack.isEmpty)
  let ends := maskOf (fun L => laneIn c.act L && (lane L).rstack.isEmpty && (lane L).spilled == 0)
  match s.stackAccesses c .read (fun _ => false) c.refills with
  | .error v => v
  | .ok (_ :: _) => .wait .refill
  | .ok [] =>
    if held.any (fun L => (lane L).rbad.contains 0) then .fault (FaultInfo.plain .poison)
    else
    s.transferVerdict c (held.map (fun L => (L, (lane L).rstack.headD 0))) (fun s =>
      let s := s.modGroup c.gid (fun g => held.foldl (fun g L => g.popReturn c.st L) g)
      if ends = 0 then s else s.exitLanes c.gid c.st ends) ends

/-- RET. -/
def execRet (s : State) : Host.Outcome State Fault Refusal :=
  .next (s.issueControl {} [] (fun s c => s.retVerdict c))

/-- The refills of one group of a run that waits at a RET; poisoned data raises poison consumption there (17 R437), with
TRAPADDR 0 (log 106). -/
def State.refillGroup (s : State) (c : Ctx) : State :=
  match s.stackAccesses c .read (fun _ => false) c.refills with
  | .error _ => s
  | .ok places =>
    if places.any (fun p => s.poisonIn p.2 8) then
      ((s.raiseAt c.gid c.st c.lanes c.place.1 c.place.2 ⟨.poison, .stack, false, 0⟩).afterWork c.gid)
    else places.foldl (fun s p => s.refill c p.1 p.2) s

/-- RETURN_STACK_REFILL: the refill data of the RET that a slot waits at arrive (07 R207). -/
def execReturnStackRefill (slot : Nat) (s : State) : Host.Outcome State Fault Refusal :=
  match s.runs.find slot with
  | some r =>
    if r.stalled = some .refill then
      let here := { s with cur := slot }
      let done := (r.members.filterMap (here.ctx r)).foldl (fun s c => s.refillGroup c) here
      .next { (done.modRun slot (fun r => { r with stalled := none, woken := true })) with cur := s.cur }
    else .next s
  | none => .next s

/-! EXIT, YIELD, NOP and BPT (07 R176; 08 R217 to R219). -/

/-- EXIT. -/
def execExit (s : State) : Host.Outcome State Fault Refusal :=
  .next (s.issueControl {} [] (fun s c =>
    s.transferVerdict c [] (fun s => if c.act = 0 then s else s.exitLanes c.gid c.st c.act) c.act))

/-- YIELD: the run ends after the clause. -/
def execYield (s : State) : Host.Outcome State Fault Refusal :=
  .next (s.issue 1 {} (fun _ => none) [] true (fun _ _ => .go (fun s => s) none))

/-- NOP. -/
def execNop (s : State) : Host.Outcome State Fault Refusal :=
  .next (s.issue 1 {} (fun _ => none) [] false (fun _ _ => .go (fun s => s) none))

/-- BPT: the breakpoint is raised when the clause has issued. -/
def execBpt (i : BitVec 11) (s : State) : Host.Outcome State Fault Refusal :=
  .next (s.issue 1 {} (fun _ => none) [] false (fun _ c =>
    if c.act = 0 then .go (fun s => s) none
    else .go (fun s => s.modGroup c.gid (fun g => g.modStream c.st (fun x => x.noteBpt c.hdr i.toNat c.lanes))) none))

/-! Rejoin masks (07 R201, R202; 08 R220 to R222). -/

/-- Arrival bits of lanes that are not parked on the mask are cleared in a stream (07 R201). -/
def StreamState.clearArrivals (x : StreamState) (j : Fin 16) : StreamState :=
  { x with arrivals := x.arrivals.set j (x.arrivals[j] &&& x.lanesWhere (fun l => l.park == .join j.val)) }

/-- ARMJ in a group, in a cycle of the die: the new mask, and the release that it may bring. -/
def Group.armj (g : Group) (j : Fin 16) (act v : Word) (cyc : Nat) : Group :=
  let g := { g with j := g.j.set j ((g.j[j] &&& ~~~act) ||| (v &&& act)),
                    sa := g.sa.clearArrivals j, sc := g.sc.clearArrivals j }
  (g.release .addr j cyc).release .comp j cyc

/-- What ARMJ names: it reads the old mask and the arrival sets that it clears bits of. -/
def armjUses (d a : Code) (j : BitVec 4) : Uses :=
  { srcs := [op32 a], dst := some (op32 d), compOnly := true, badType := tyOf a != .uni || tyOf d == .aff,
    alsoReads := [0x500 + j.toNat, arrivalRes .addr j.toNat, arrivalRes .comp j.toNat] }

/-- ARMJ. -/
def execArmj (d a : Code) (j : BitVec 4) (s : State) : Host.Outcome State Fault Refusal :=
  let u := armjUses d a j
  let lat := if tyOf d = .vary then 2 else 1
  .next (s.issue 1 u (fun _ => some lat) [] false (fun _ c =>
    if c.act = 0 then .go (fun s => s) none
    else
      let old := c.g.j[j.toFin]
      let v := BitVec.ofNat 32 ((c.values u (lowestLane c.act)).getD 0 0)
      .go (fun s =>
        (s.issueFixed c u lat (destWrites (op32 d) c.act (fun _ => old.toNat))).modGroup c.gid (fun g =>
          g.armj j.toFin c.act v (s.dieCycle g.die))) none))

/-- What JOIN and WAITJ name. -/
def joinUses (j : BitVec 4) : Uses := { alsoReads := [0x500 + j.toNat], arrival := some j.toNat }

/-- Arrivals at a mask, in a cycle of the die (07 R201, R203); where an ARMJ writes the mask in the same cycle, the arrivals are
those in the new mask (log 124). -/
def Group.arrive (g : Group) (st : Stream) (j : Fin 16) (m : Word) (cyc : Nat) : Group :=
  g.modStream st (fun x => { x with
    arrivals := x.arrivals.set j (x.arrivals[j] ||| (m &&& g.j[j])), joins := x.joins.set j.val (cyc + 1) })

/-- JOIN. -/
def execJoin (j : BitVec 4) (s : State) : Host.Outcome State Fault Refusal :=
  .next (s.issue 1 (joinUses j) (fun _ => none) [] false (fun _ c =>
    .go (fun s => s.modGroup c.gid (fun g =>
      (g.arrive c.st j.toFin c.act (s.dieCycle g.die)).release c.st j.toFin (s.dieCycle g.die))) none))

/-- WAITJ: active lanes in the mask park. -/
def execWaitj (j : BitVec 4) (s : State) : Host.Outcome State Fault Refusal :=
  .next (s.issueControl (joinUses j) [] (fun s c =>
    let parks := c.act &&& c.g.j[j.toFin]
    s.transferVerdict c [] (fun s => s.modGroup c.gid (fun g =>
      ((g.arrive c.st j.toFin c.act (s.dieCycle g.die)).modLanes c.st parks (fun l => { l with park := .join j.toNat })).release c.st
        j.toFin (s.dieCycle g.die))) parks))

end Sys2Proof.Machine
end

