-- ==== Sys2Proof/Machine/MemOps.lean ====
section
/-! DEFINITION. Memory instructions, their completions, and the events of the memory system
(08 R223 to R240; 13 R336 to R349; 17 R455 to R458). -/

namespace Sys2Proof.Machine

open Sys2Proof

/-- The spaces of 08 Table 8.3. -/
inductive MemSpace where
  | global | scratch (win : Bool) | remote | wptr
  deriving DecidableEq, Repr

/-- What a memory instruction does at each address. -/
inductive MemAct where
  | load | store | pref
  | atom (op : BitVec 3) (signed : Bool)
  | fatom (bf : Bool)
  deriving DecidableEq, Repr

/-- A memory instruction with its fields read (08 R223 to R226, R236). -/
structure MemInstr where
  space : MemSpace
  act : MemAct
  m : Fm
  size : Nat
  off : Int
  mx : MxMod
  c : Code
  e : Code
  words : Nat
  deriving DecidableEq, Repr

/-- The data operand (08 R226). -/
def MemInstr.data (i : MemInstr) : Operand := ⟨i.m.t, if i.size ≤ 4 then 1 else i.size / 4, true⟩

/-- The base operand: 64 bits in global memory, 32 bits elsewhere; a queue pops as many entries (08 R223). -/
def MemInstr.base (i : MemInstr) : Operand := ⟨i.m.base, if i.space = .global then 2 else 1, true⟩

/-- An operand of an atomic. -/
def MemInstr.atomOp (i : MemInstr) (c : Code) : Operand := ⟨c, i.size / 4, false⟩

/-- The instruction writes T. -/
def MemInstr.isLoad (i : MemInstr) : Bool := match i.act with | .load | .atom _ _ | .fatom _ => true | _ => false

/-- An atomic. -/
def MemInstr.isAtomic (i : MemInstr) : Bool := match i.act with | .atom _ _ | .fatom _ => true | _ => false

/-- What a memory instruction names (08 R226 to R228, R237). DESIGN CHOICE, safe (log 108): an ATOM or FATOM with T = q7
raises ILLEGAL_OPERAND, as a load with T = q7 does; the spec names no fault for it. -/
def MemInstr.uses (i : MemInstr) : Uses :=
  let q7 := i.isLoad && codeNames i.m.t == .q 7
  match i.act with
  | .load =>
    { srcs := [i.base], dst := some i.data, badType := tyOf i.m.t == .aff, badOperand := q7 }
  | .store => { srcs := [i.base, i.data] }
  | .pref => { srcs := [i.base], badOperand := i.m.t != 0x78 }
  | _ =>
    { srcs := [i.base, i.atomOp i.c, i.atomOp i.e], dst := some i.data,
      badType := tyOf i.m.t != .vary && codeNames i.m.t != .zero, badOperand := q7 }

/-- The access kind of TRAPCAUSE (17 Table 17.1). -/
def MemInstr.kind (i : MemInstr) : AccessKind :=
  match i.space, i.act with
  | .scratch _, _ | .remote, _ => .scratch
  | _, .load => .load
  | _, .store => .store
  | _, .pref => .prefetch
  | _, _ => .atomic

/-- The effective address of a lane (08 R225). -/
def MemInstr.addr (i : MemInstr) (base : Nat) : Nat :=
  wrapNat (if i.space = .global then 64 else 32) ((base : Int) + i.off)

/-- What a lane's address leads to. -/
inductive LanePlace where
  | at (space : Space) (addr : Nat)
  | fault (c : Cause)
  | later (x : Xlat)
  deriving DecidableEq, Repr

/-- The permission a global access needs (17 R454). -/
def MemInstr.need (i : MemInstr) : Need :=
  match i.act with
  | .load | .pref => .read
  | .store => .write
  | _ => .both

/-- Judge one lane's address (08 R225, R234, R235, R239; 17 R437). -/
def State.place (s : State) (c : Ctx) (i : MemInstr) (a : Nat) : LanePlace :=
  if i.act ≠ .pref ∧ a % i.size ≠ 0 then .fault .misaligned
  else
    match i.space with
    | .global =>
      (match s.translate c.g.die c.g.fn c.g.part (.slot s.cur) i.need a with
       | .ok key => .at .phys key
       | .fault e => .fault e
       | x => .later x)
    | .scratch true => if a < c.g.cfg.vregs * 128 then .at (.window c.gid) a else .fault .permission
    | .scratch false =>
      (match s.teams.find c.g.team with
       | some t => if a < t.scratchSize then .at (.scratch c.g.team) a else .fault .permission
       | none => .fault .permission)
    | .remote =>
      let cx := a / 2 ^ 28
      let cy := a / 2 ^ 24 % 16
      let o := a % 2 ^ 18
      (match s.gangs.find c.g.gang with
       | some k =>
         if k.w ≤ cx ∨ k.h ≤ cy ∨ a / 2 ^ 18 % 2 ^ 6 ≠ 0 then .fault .permission
         else
           match k.teams.findSome? (fun t =>
               (s.teams.find t).bind (fun x => if x.teamId = cy * k.w + cx then some (t, x) else none)) with
           | some (t, x) => if o < x.scratchSize then .at (.scratch t) o else .fault .permission
           | none => .fault .permission
       | none => .fault .permission)
    | .wptr =>
      if 128 ≤ a ∨ !((s.part c.g.part).map (fun p => p.cqmask.testBit (16 * c.g.die + a / 8))).getD false then
        .fault .permission
      else .at (.wptr c.g.die) a

/-- The lanes that perform an access: one for a uniform load or store (08 R227). -/
def MemInstr.lanes (i : MemInstr) (act : Word) : List (Fin 32) :=
  let one : Bool := match i.act with
    | .load => i.uses.groupWrite
    | .store => tyOf i.m.t == .uni && tyOf i.m.base == .uni
    | _ => false
  if one then (lanesOf act).take 1 else lanesOf act

/-- What the access of a lane does, from the lane's operands. -/
def MemInstr.actOf (i : MemInstr) (v : List Nat) : Act :=
  match i.act with
  | .store => .store (v.getD 1 0 % 2 ^ (8 * i.size))
  | .atom op s => .atom op s (v.getD 1 0) (v.getD 2 0)
  | .fatom bf => .fatom bf (BitVec.ofNat 32 (v.getD 1 0))
  | _ => .load

/-- The kind of the pending operation. -/
def MemInstr.opKind (i : MemInstr) : OpKind :=
  let q := match codeNames i.m.t with | .q n => some n | _ => none
  match i.act with
  | .load => if codeNames i.m.t = .zero then .store else .load q
  | .store | .pref => .store
  | _ => .atomic q

/-- TRAPCAUSE, TRAPPC and TRAPADDR of a fault that FAULT entries carry (07 R190). -/
def Ctx.aheadTrap (c : Ctx) (f : FaultInfo) : PendingTrap :=
  ⟨f.cause, ⟨causeWord f true .addr, trapPc (pcOffset c.g.cfg.codea c.place.1) noResume, BitVec.ofNat 64 f.addr⟩⟩

/-- The pending operation of a memory instruction, its FAULT entries among its results. -/
def MemInstr.start (i : MemInstr) (s : State) (c : Ctx) (todo : List LaneAccess) (faults : List (Fin 32)) : VOp :=
  let o := VOp.start s c i.uses i.opKind i.m.la i.m.tk
  { o with
    access := i.kind, todo := todo, load := i.mx,
    isOrdered := todo.any (fun a => a.space == .phys && s.needsOrder c.g.core a.addr a.act.writes),
    results := faults.map (fun L => { lane := L, writes := [], entries := [⟨0, .fault⟩], poison := none }) }

/-- The verdict of a memory instruction in one group (08 R232; 17 R437). DESIGN CHOICE (log 104): an instruction that
completes at issue, PREF or one with no active lane, does not wait for a counter that holds 15. DESIGN CHOICE (log 107): a
register-window load into a queue whose address faults makes FAULT entries, as any load into a queue does. -/
def MemInstr.verdict (i : MemInstr) (s : State) (c : Ctx) : Verdict :=
  let u := i.uses
  let lanes := i.lanes c.act
  if c.act = 0 then .go (fun s => s) none
  else if s.orderedOutstanding c.gid then .wait .ordered
  else
    let xs := lanes.map (fun L =>
      let v := c.values u L
      let a := i.addr (v.getD 0 0)
      (L, v, a, s.place c i a))
    match xs.find? (fun e => match e.2.2.2 with | .later _ => true | _ => false) with
    | some (_, _, _, .later x) =>
      .waitDo .translation (fun s => s.request c.g.die c.g.fn (.slot s.cur) x)
    | _ =>
      let bad := xs.filterMap (fun e => match e.2.2.2 with | .fault x => some (e.1, e.2.2.1, x) | _ => none)
      let good : List LaneAccess := xs.filterMap (fun e =>
        match e.2.2.2 with
        | .at sp k => some { lane := e.1, space := sp, addr := k, va := e.2.2.1, size := i.size, act := i.actOf e.2.1 }
        | _ => none)
      let isQueue := i.act == .load && u.pushes.isSome
      match bad with
      | (L, a, x) :: _ =>
        let f : FaultInfo := ⟨x, i.kind, i.act != .load && i.act != .pref, a⟩
        if isQueue then
          match s.varWait c c.act i.m.tk.toNat with
          | some w => .wait w
          | none =>
            .go (fun s =>
              let faults := bad.map Prod.fst
              let s := (s.modGroup c.gid (fun g => g.pop u c.act)).seenFaults c.g.fn (.slot s.cur)
              let s := s.addOp (i.start s c good faults)
              s.modGroup c.gid (fun g =>
                { (g.modLanes .addr (maskOf (fun M => faults.contains M)) (fun l => { l with faulting := true })) with
                  ahead := some (c.aheadTrap f) })) none
        else
          let _ := L
          .fault f
      | [] =>
        if i.act = .pref then .go (fun s => s.modGroup c.gid (fun g => g.pop u c.act)) none
        else if good.any (fun a => a.space == .phys && s.atDrainPoint c.g.core a.addr) then .wait .drain
        else
          match s.varWait c c.act i.m.tk.toNat with
          | some w => .wait w
          | none => .go (fun s => (s.modGroup c.gid (fun g => g.pop u c.act)).addOp (i.start s c good [])) none

/-- Issue a memory instruction. -/
def State.issueMem (s : State) (words : Nat) (i : MemInstr) : State :=
  s.issue words i.uses (fun _ => none) [] false i.verdict State.performBundle

/-- The outcome of issuing a memory instruction. -/
def runMem (words : Nat) (i : MemInstr) (s : State) : Host.Outcome State Fault Refusal := .next (s.issueMem words i)

/-- A short form: four bytes, OFF4 scaled by four. -/
def memShort (sp : MemSpace) (act : MemAct) (m : Fm) (off : BitVec 4) : MemInstr :=
  ⟨sp, act, m, 4, off.toInt * 4, ⟨2, false, false, 0⟩, 0x78, 0x78, 1⟩

/-- A form with an MX word. -/
def memLong (sp : MemSpace) (act : MemAct) (m : Fm) (x : MxMod) : MemInstr :=
  ⟨sp, act, m, 2 ^ x.size.toNat, x.off.toInt, x, 0x78, 0x78, 2⟩

/-- LD. -/
def execLd (m : Fm) (off : BitVec 4) : State → Host.Outcome State Fault Refusal := runMem 1 (memShort .global .load m off)
/-- LD with an MX word. -/
def execLdMx (m : Fm) (x : MxMod) : State → Host.Outcome State Fault Refusal := runMem 2 (memLong .global .load m x)
/-- ST. -/
def execSt (m : Fm) (off : BitVec 4) : State → Host.Outcome State Fault Refusal := runMem 1 (memShort .global .store m off)
/-- ST with an MX word. -/
def execStMx (m : Fm) (x : MxMod) : State → Host.Outcome State Fault Refusal := runMem 2 (memLong .global .store m x)
/-- LDS. -/
def execLds (m : Fm) (off : BitVec 4) : State → Host.Outcome State Fault Refusal :=
  runMem 1 (memShort (.scratch false) .load m off)
/-- LDS with an MX word. -/
def execLdsMx (m : Fm) (x : MxMod) : State → Host.Outcome State Fault Refusal := runMem 2 (memLong (.scratch x.win) .load m x)
/-- STS. -/
def execSts (m : Fm) (off : BitVec 4) : State → Host.Outcome State Fault Refusal :=
  runMem 1 (memShort (.scratch false) .store m off)
/-- STS with an MX word. -/
def execStsMx (m : Fm) (x : MxMod) : State → Host.Outcome State Fault Refusal := runMem 2 (memLong (.scratch x.win) .store m x)
/-- LDC. -/
def execLdc (m : Fm) (off : BitVec 4) : State → Host.Outcome State Fault Refusal := runMem 1 (memShort .remote .load m off)
/-- LDC with an MX word. -/
def execLdcMx (m : Fm) (x : MxMod) : State → Host.Outcome State Fault Refusal := runMem 2 (memLong .remote .load m x)
/-- STC. -/
def execStc (m : Fm) (off : BitVec 4) : State → Host.Outcome State Fault Refusal := runMem 1 (memShort .remote .store m off)
/-- STC with an MX word. -/
def execStcMx (m : Fm) (x : MxMod) : State → Host.Outcome State Fault Refusal := runMem 2 (memLong .remote .store m x)

/-- ATOM: OFF4 is scaled by the access size. -/
def execAtom (m : Fm) (off : BitVec 4) (x : AxMod) : State → Host.Outcome State Fault Refusal :=
  let size := if x.w64 then 8 else 4
  runMem 2 ⟨.global, .atom x.aop x.signed, m, size, off.toInt * size, ⟨2, false, false, 0⟩, x.c, x.e, 2⟩

/-- FATOM. -/
def execFatom (m : Fm) (off : BitVec 4) (bf : Bool) (c : Code) : State → Host.Outcome State Fault Refusal :=
  runMem 2 ⟨.global, .fatom bf, m, 4, off.toInt * 4, ⟨2, false, false, 0⟩, c, 0x78, 2⟩

/-- PREF: OFF4 is scaled by 128. -/
def execPref (base : Code) (la : BitVec 4) (tk : BitVec 3) (off : BitVec 4) : State → Host.Outcome State Fault Refusal :=
  runMem 1 ⟨.global, .pref, ⟨0x78, base, la, tk⟩, 128, off.toInt * 128, ⟨0, false, false, 0⟩, 0x78, 0x78, 1⟩

/-- PREF with an MX word. -/
def execPrefMx (base : Code) (la : BitVec 4) (tk : BitVec 3) (off : BitVec 22) :
    State → Host.Outcome State Fault Refusal :=
  runMem 2 ⟨.global, .pref, ⟨0x78, base, la, tk⟩, 128, off.toInt, ⟨0, false, false, 0⟩, 0x78, 0x78, 2⟩

/-- LDWP: OFF4 is scaled by eight. -/
def execLdwp (m : Fm) (off : BitVec 4) : State → Host.Outcome State Fault Refusal :=
  runMem 1 ⟨.wptr, .load, m, 8, off.toInt * 8, ⟨3, false, false, 0⟩, 0x78, 0x78, 1⟩

/-- LDWP with an MX word. -/
def execLdwpMx (m : Fm) (off : BitVec 22) : State → Host.Outcome State Fault Refusal :=
  runMem 2 ⟨.wptr, .load, m, 8, off.toInt, ⟨3, false, false, 0⟩, 0x78, 0x78, 2⟩

/-- What QTOK names: q7, which it pushes. -/
def qtokUses : Uses := { dst := some (op32 0x77) }

/-- QTOK: it reserves one q7 entry in each active lane (08 R240). -/
def execQtok (la : BitVec 4) (tk : BitVec 3) (s : State) : Host.Outcome State Fault Refusal :=
  .next (s.issue 1 qtokUses (fun _ => none) [] false (fun s c =>
    if c.act = 0 then .go (fun s => s) none
    else if s.orderedOutstanding c.gid then .wait .ordered
    else match s.varWait c c.act tk.toNat with
      | some w => .wait w
      | none => .go (fun s =>
          let o := VOp.start s c qtokUses .qtok la tk
          s.addOp { o with results := (lanesOf c.act).map (fun L =>
            { lane := L, writes := [], entries := [⟨0, .data⟩], poison := none }) }) none))

/-! Completions (08 Table 8.4). -/

/-- LOAD_COMPLETE. -/
def execLoadComplete (op : Nat) (lanes : Word) (s : State) : Host.Outcome State Fault Refusal :=
  .next (s.completeKind op lanes (fun k => k == .load none))

/-- QUEUE_FILL. -/
def execQueueFill (op : Nat) (lanes : Word) (s : State) : Host.Outcome State Fault Refusal :=
  .next (s.completeKind op lanes (fun k => match k with | .load (some _) => true | _ => false))

/-- A pending window store of a group whose elements have not landed (01 R19). -/
def VOp.isWindowStore (o : VOp) : Bool :=
  o.kind == .store && (o.results.any (fun r => !r.writes.isEmpty) ||
    o.todo.any (fun a => match a.space with | .window _ => true | _ => false))

/-- An earlier window store of the group has not completed: its elements land first (08 R229; 13 R326). -/
def State.windowStoreWaits (s : State) (op : Nat) : Bool :=
  match s.ops.find op with
  | some o => o.isWindowStore && s.ops.any (fun e => decide (e.1 < op) && e.2.gid == o.gid && e.2.isWindowStore)
  | none => false

/-- STORE_COMPLETE: stores and discarding loads; a window store's elements land. -/
def execStoreComplete (op : Nat) (s : State) : Host.Outcome State Fault Refusal :=
  .next (if s.windowStoreWaits op then s else s.completeKind op (BitVec.allOnes 32) (fun k => k == .store))

/-- ATOMIC_COMPLETE. -/
def execAtomicComplete (op : Nat) (lanes : Word) (s : State) : Host.Outcome State Fault Refusal :=
  .next (s.completeKind op lanes (fun k => match k with | .atomic _ => true | _ => false))

/-- Every access that the lane's address stream issued before an operation has been performed (07 R185). -/
def State.earlierPerformed (s : State) (gid op : Nat) (L : Fin 32) : Bool :=
  !s.ops.any (fun e => decide (e.1 < op) && e.2.gid == gid && e.2.todo.any (fun a => a.lane == L))

/-- QTOK_PRODUCE. -/
def execQtokProduce (op : Nat) (lanes : Word) (s : State) : Host.Outcome State Fault Refusal :=
  match s.ops.find op with
  | some o =>
    .next (if o.kind = .qtok then
      s.completeLanes op (maskOf (fun L => laneIn lanes L && s.earlierPerformed o.gid op L)) else s)
  | none => .next s

/-! The memory system (13 R337 to R349). -/

/-- The granule of an ordered access needs no drain and no invalidation first (13 Table 13.2). -/
def State.mayPerform (s : State) (core : Nat) (a : LaneAccess) : Bool :=
  a.space != .phys ||
  (match s.granules.find (granuleOf a.addr) with
   | some (.priv c _) => c == core
   | some .readonly => !a.act.writes
   | _ => true)

/-- An ordered access is served: it is performed, with the drain or the invalidation that its granule's state calls for,
and waits at its home no longer (13 R336, R339 to R341). -/
def State.serve (s : State) (op core : Nat) (a : LaneAccess) : State :=
  let gid := (s.ops.find op).map (fun o => o.gid)
  let s := s.performAccess op core a
  let s := ({ s with home := s.home.filter (fun k => k != op) } : State)
  ((gid.map s.afterOrdered).getD s).wake

/-- No request that arrived earlier waits at the home of an access's granule (13 R340). -/
def State.firstAtHome (s : State) (op : Nat) (a : LaneAccess) : Bool :=
  a.space != .phys || (match s.requestsFor (granuleOf a.addr) s.home with | r :: _ => r.1 == op | [] => true)

/-- The access of an ordered instruction can be performed now: its granule lets it, it is first there, and the clocks of
its home and, unless it has left it, of its core's die run (13 R340; 14 R383, R384). -/
def State.performable (s : State) (op core : Nat) (a : LaneAccess) : Bool :=
  s.mayPerform core a && s.firstAtHome op a && s.sendRuns op core && !(a.space == .phys && s.relocking (homeDie a.addr))

/-- The access comes as far as its home: it is a memory access, and its core's die runs or is the home itself
(14 R383; 15 R390). -/
def State.arrivesHome (s : State) (core : Nat) (a : LaneAccess) : Bool :=
  a.space == .phys && (s.clockRuns (core / 96) || homeDie a.addr == core / 96)

/-- ORDERED_ACCESS: the next lane's access of an ordered instruction arrives at its home, or at the FIFO toward a home that
relocks, and is performed when the granule's state lets it be (13 R337, R340, R347; 14 R384). -/
def execOrderedAccess (op : Nat) (s : State) : Host.Outcome State Fault Refusal :=
  match s.nextOrdered op with
  | some (o, a) =>
    (match s.groups.find o.gid with
     | some g =>
       .next (if s.performable op g.core a then s.serve op g.core a
         else if s.home.contains op || !s.arrivesHome g.core a then s
         else { s.waitHome g.die a.addr with home := s.home ++ [op] })
     | none => .next s)
  | none => .next s

/-- DRAIN: the first request for a PRIVATE granule that does not come from its core is served (13 R339). -/
def execDrain (granule : Nat) (s : State) : Host.Outcome State Fault Refusal :=
  match s.granules.find granule with
  | some (.priv c _) =>
    (match s.nextRequest granule (fun r => r.2.1 != c) with
     | some (op, core, a) => .next (s.serve op core a)
     | none => .next s)
  | _ => .next s

/-- READONLY_INVALIDATION: the first write that waits for a READONLY granule is served (13 R341). -/
def execReadonlyInvalidation (granule : Nat) (s : State) : Host.Outcome State Fault Refusal :=
  match s.granules.find granule with
  | some .readonly =>
    (match s.nextRequest granule (fun r => r.2.2.act.writes) with
     | some (op, core, a) => .next (s.serve op core a)
     | none => .next s)
  | _ => .next s

/-- EARLY_CLEAN: a dirty line is written back and stays valid, which viral keeps from tier 3 (13 R348; 19 R482). -/
def execEarlyClean (line : Nat) (s : State) : Host.Outcome State Fault Refusal :=
  .next (if s.keepsDirty line then s else { s with lines := s.lines.modify line (fun l => { l with dirty := l.l1Dirty }) })

/-- DIRECTORY_ECC_ERROR: the line is recalled; for a classifier entry, every line of its granule, which becomes SHARED;
the error is logged (13 R349). -/
def execDirectoryEccError (line : Nat) (classifier : Bool) (s : State) : Host.Outcome State Fault Refusal :=
  let s := { s with dirErrors := s.dirErrors ++ [(line, classifier)] }
  .next (if classifier then
      (((s.clearLines (line / 32)).dropPerms (line / 32)).setGranule (line / 32) .shared).wake
    else { s with lines := forgetLines s.lines (fun n => n == line) })

/-! Walks and host translation (17 R455 to R458). -/

/-- The number of the physical function among functions. -/
def pfId : Nat := 64

/-- The messages that a function has sent in this second (19 R484). -/
def State.sentNow (s : State) (fn : Nat) : Nat :=
  if (s.fn fn).sent.1 = s.reftime / 1000000000 then (s.fn fn).sent.2 else 0

/-- Send an MSI-X message of a function. -/
def State.message (s : State) (fn vec : Nat) : State :=
  { s.modFn fn (fun x => { x with sent := (s.reftime / 1000000000, s.sentNow fn + 1) }) with msix := s.msix ++ [(fn, vec)] }

/-- A master breaks a clamp: FWVIOL records it, the master is frozen and vector 1 of the physical function is signalled,
unless the function has no message left to send (19 R484, R485; log 80). -/
def State.violate (s : State) (management : Bool) (clamp addr : Nat) : State :=
  let w := addr / 2 ^ 12 % 2 ^ 52 * 2 ^ 12 + clamp % 16 * 2 ^ 8 + (if management then 2 else 1)
  let s : State := { s.modDie 0 (fun x => { x with fwviol := BitVec.ofNat 64 w }) with
                     frozenMgmt := s.frozenMgmt || management, frozenPup := s.frozenPup || !management }
  if s.sentNow pfId < 65536 then s.message pfId 1 else s

/-- Signal an MSI-X vector of a function: a message beyond the limit does not take place, and freezes the master that
sends it (19 R484, R485; log 80). -/
def State.signal (s : State) (fn vec : Nat) : State :=
  if s.sentNow fn < 65536 then s.message fn vec
  else
    let management := decide (vec = 2)
    if (if management then s.frozenMgmt else s.frozenPup) then s else s.violate management 2 0

/-- A walk fails for its waiters, and its walker takes the next miss. -/
def State.failWalk (s : State) (walk die : Nat) (c : Cause) : State :=
  let s := { s with walks := s.walks.modify walk (fun x => { x with failed := some c }) }
  (s.serveMisses die s.misses).wake

/-- An entry enters a TLB: beyond the capacity a free choice of the device goes (17 R456; log 116). -/
def State.putTlb (s : State) (t : TlbEntry) (cap : Nat) : State :=
  let (mine, rest) := s.tlb.partition (fun x => x.die == t.die && x.place == t.place)
  let fresh := mine.filter (fun x => !(x.fn == t.fn && x.level == t.level && x.vpn == t.vpn))
  if fresh.length < cap then { s with tlb := rest ++ fresh ++ [t] }
  else
    let n := Config.freeCount s.free % fresh.length
    { s with tlb := rest ++ fresh.take n ++ fresh.drop (n + 1) ++ [t], free := s.free + 1 }

/-- A leaf enters the TLBs of a die: the last level, and those of the cores, with their slices, that waited for it. -/
def State.fillTlbs (s : State) (w : Walk) (level : Nat) (leaf : Dword) : State :=
  let t (p : TlbPlace) : TlbEntry := ⟨w.die, p, w.fn, level, w.page * 2 ^ 16 / 2 ^ levelShift level, leaf⟩
  let cores := (w.waiters.filterMap (fun x => match x with | .slot n => some (n / 6) | _ => none)).eraseDups
  cores.foldl (fun s c => (s.putTlb (t (.core c)) 64).putTlb (t (.slice (coreSlice c))) 32) (s.putTlb (t .last) 8192)

/-- The table that an entry of a table points to, if it is valid and no leaf. -/
def State.tableAt (s : State) (base level va : Nat) : Option Nat :=
  let e : Dword := BitVec.ofNat 64 (natOfBytes (s.bytesAt (base + 8 * levelIndex level va) 8))
  if pteBit e 0 && !pteBit e 1 then some (pteFrame e) else none

/-- The table of a level that the walk cache of a die knows. -/
def State.cachedTable (s : State) (die fn level va : Nat) : Option Nat :=
  (s.walkCache.find? (fun c => c.die == die && c.fn == fn && c.level == level && c.vpn == va / 2 ^ levelShift level)).map
    (fun c => c.table)

/-- A table enters the walk cache of a die: beyond 256 a free choice of the device goes (17 R456; log 116). -/
def State.cacheTable (s : State) (c : WalkCacheEntry) : State :=
  if (s.cachedTable c.die c.fn c.level (c.vpn * 2 ^ levelShift c.level)).isSome then s
  else
    let (mine, rest) := s.walkCache.partition (fun x => x.die == c.die)
    if mine.length < 256 then { s with walkCache := s.walkCache ++ [c] }
    else
      let n := Config.freeCount s.free % mine.length
      { s with walkCache := rest ++ mine.take n ++ mine.drop (n + 1) ++ [c], free := s.free + 1 }

/-- A walk through the walk cache of a die, from the lowest table that it knows (17 R453, R456). -/
def State.walkCached (s : State) (die fn va : Nat) : WalkEnd :=
  match s.cachedTable die fn 2 va, s.cachedTable die fn 3 va with
  | some t, _ => s.walkFrom va [1] t
  | none, some t => s.walkFrom va [2, 1] t
  | none, none => s.walkVa fn va

/-- A walk that found its leaf leaves the tables on its way in the walk cache. -/
def State.cacheWay (s : State) (die fn va level : Nat) : State :=
  let root := (s.fn fn).root.toNat / 2 ^ 18 * 2 ^ 18
  match if level = 3 then none else (s.cachedTable die fn 3 va).or (s.tableAt root 3 va) with
  | none => s
  | some t2 =>
    let s := s.cacheTable ⟨die, fn, 3, va / 2 ^ levelShift 3, t2⟩
    match if level = 2 then none else (s.cachedTable die fn 2 va).or (s.tableAt t2 2 va) with
    | none => s
    | some t1 => s.cacheTable ⟨die, fn, 2, va / 2 ^ levelShift 2, t1⟩

/-- A walk that met a poisoned entry is signalled to the physical function (17 R455). -/
def State.noteWalk (s : State) (fn va : Nat) : State :=
  match if canonicalVa va && (s.fn fn).root.getLsbD 0 then s.walkVa fn (va % 2 ^ 57) else .bad false with
  | .bad true => s.signal pfId 2
  | _ => s

/-- WALK_COMPLETE. -/
def execWalkComplete (walk : Nat) (s : State) : Host.Outcome State Fault Refusal :=
  match s.walks.find walk with
  | some w =>
    if w.failed.isSome then .next s
    else
      match if (s.fn w.fn).root.getLsbD 0 then s.walkCached w.die w.fn (w.page * 2 ^ 16) else .bad false with
      | .leaf level e entry =>
        let s := if level = 1 ∧ !pteBit e 6 then s.writeBytes entry (bytesOfNat 8 (e.toNat + 2 ^ 6)) else s
        let leaf := if level = 1 then e ||| 0x40 else e
        let s := (s.fillTlbs w level leaf).cacheWay w.die w.fn (w.page * 2 ^ 16) level
        let s := { s with walks := s.walks.drop walk }
        .next (s.serveMisses w.die s.misses).wake
      | .bad poison => .next (s.failWalk walk w.die .translation |> fun s => if poison then s.signal pfId 2 else s)
  | none => .next s

/-- A piece needs PRI: a Page Request, or the failure of an access that may not send one (17 R457). -/
def State.needsPri (s : State) (fn : Nat) : AtsState :=
  if (s.fn fn).priFailed then .failed .permission
  else if (s.fn fn).priOn then s.pageState fn
  else .failed .translation

/-- Replace the host translation under way of a piece by what has become of it. -/
def State.turnAts (s : State) (e : AtsEntry) (st : AtsState) : State :=
  { s with ats := s.ats.filter (fun x => x != e) ++ [{ e with st := st }] }

/-- ATS_COMPLETION: a grant is cached at the size that the host returns, in 4 KiB pieces, up to the leaf's (17 R457). -/
def execAtsCompletion (fn page : Nat) (answer : AtsAnswer) (s : State) : Host.Outcome State Fault Refusal :=
  .next (match s.atsOf fn page with
    | some e =>
      if e.st = .requested then
        (match answer with
         | .grant frame size rd wr =>
           let n := Nat.max 1 (Nat.min size e.limit)
           s.setAts fn page { e with page := page / n * n, pages := n, st := .granted (frame / n * n) rd wr, waiters := [] }
         | .deny => s.turnAts e (s.needsPri fn)).wake
      else s
    | none => s)

/-- A Page Request that had to wait is sent (17 R457). -/
def State.sendPage (s : State) (fn : Nat) : State :=
  match s.ats.find? (fun e => e.fn == fn && e.st == .toPage), s.pageState fn with
  | some e, .paging => s.turnAts e .paging
  | _, _ => s

/-- PRI_RESPONSE (17 R457). -/
def execPriResponse (fn page : Nat) (answer : PriAnswer) (s : State) : Host.Outcome State Fault Refusal :=
  .next (match s.atsOf fn page with
    | some e =>
      if e.st = .paging then
        ((match answer with
          | .success => s.turnAts e .requested
          | .invalidRequest => s.turnAts e (.failed .translation)
          | .responseFailure => (s.turnAts e (.failed .permission)).modFn fn (fun x => { x with priFailed := true })).sendPage
            fn).wake
      else s
    | none => s)

/-- Some access under way goes to a frame of host memory: one of a lane, or of a reservation-table entry. -/
def State.usesFrame (s : State) (frame n : Nat) : Bool :=
  let hit (a : Nat) : Bool := decide (hostBase + frame * 4096 ≤ a) && decide (a < hostBase + (frame + n) * 4096)
  s.ops.any (fun e => e.2.todo.any (fun a => a.space == .phys && hit a.addr)) ||
  s.entries.any (fun e =>
    match e.2.kind with
    | .pass p => !p.scratchB && !e.2.granted && p.phys.any hit
    | .mldMem false as | .mstMem false as | .table _ _ as => as.any hit
    | _ => false)

/-- ATS_INVALIDATE: matching entries go; the completion follows once the accesses that used them are performed. Up to 32
invalidations are outstanding (17 R458). -/
def execAtsInvalidate (fn page pages : Nat) (s : State) : Host.Outcome State Fault Refusal :=
  let gone (e : AtsEntry) : Bool := e.fn == fn && decide (e.page < page + pages) && decide (page < e.page + e.pages) &&
    (match e.st with | .granted _ _ _ => true | _ => false)
  let frames := s.ats.filterMap (fun e => match e.st with | .granted f _ _ => if gone e then some (f, e.pages) else none | _ => none)
  .next (if 32 ≤ s.atsInvals.length then s
    else { s with ats := s.ats.filter (fun e => !gone e), atsInvals := s.atsInvals ++ [⟨fn, frames⟩] })

/-- Invalidate Completions are returned (17 R458). -/
def State.answerInvals (s : State) : State :=
  let (left, done) := s.atsInvals.partition (fun i => i.frames.any (fun f => s.usesFrame f.1 f.2))
  { s with atsInvals := left, atsDone := s.atsDone ++ done.map (fun i => i.fn) }

end Sys2Proof.Machine
end

