-- ==== Sys2Proof/Machine/CrossLane.lean ====
section
/-! DEFINITION. Queue instructions, team barriers and cross-lane instructions (08 R241 to R249). -/

namespace Sys2Proof.Machine

open Sys2Proof

/-! Queue instructions (08 R241). -/

/-- QPUSH.p: it must name q4, q5 or q6. -/
def aluQpush (d : Code) (p : PredRef) : Alu :=
  let u : Uses :=
    { dst := some (op32 d), preds := [p], compOnly := true,
      badOwner := !(codeNames d == .q 4 || codeNames d == .q 5 || codeNames d == .q 6) }
  { uses := u, lat := latPred, fn := lanewise u (fun _ p => { val := if p.getD 0 false then 1 else 0 }) }

/-- QPUSH.p. -/
def execQpushP (d : Code) (p : PredRef) : State → Host.Outcome State Fault Refusal := runAlu 1 (aluQpush d p)

/-- The number of present entries of a queue at a lane position. -/
def Group.presentEntries (g : Group) (q : Nat) (L : Fin 32) : Nat := (g.entries q L).countP QEntry.present

/-- A recorded kind of value: the lanes that read it, and what recording or replaying it leaves behind. -/
def Verdict.recorded (v : Verdict) (what : Nat) (c : Ctx) (live : Fin 32 → Nat) (ls : List (Fin 32)) : Verdict :=
  match v with
  | .go e j => .go (fun s => (e s).yAfterAll c.g what live ls) j
  | v => v

/-- The count that QDEPTH reads: a uniform destination receives the smallest. -/
def Ctx.depthOf (c : Ctx) (d : Code) (q : Nat) (m : Word) (L : Fin 32) : Nat :=
  if tyOf d = .vary then c.g.presentEntries q L
  else (lanesOf m).foldl (fun x M => Nat.min x (c.g.presentEntries q M)) (c.g.presentEntries q (lowestLane m))

/-- The lanes for which a value read into D is recorded. -/
def readLanes (d : Code) (m : Word) : List (Fin 32) := if tyOf d = .vary then lanesOf m else (lanesOf m).take 1

/-- QDEPTH. -/
def aluQdepth (s : State) (d a : Code) : Alu :=
  let q := match codeNames a with | .q n => some n | _ => none
  let u : Uses := { dst := some (op32 d), badOperand := q.isNone }
  { uses := u, lat := latCmp,
    fn := fun c m => .ok (fun L =>
      { val := s.yValue c.g yQdepth (if tyOf d = .vary then L.val else (lowestLane m).val) (c.depthOf d (q.getD 0) m L) }) }

/-- QDEPTH. -/
def execQdepth (d a : Code) (s : State) : Host.Outcome State Fault Refusal :=
  let al := aluQdepth s d a
  let q := match codeNames a with | .q n => n | _ => 0
  .next (s.issue 1 al.allUses (fun _ => some al.latency) [] false (fun s c =>
    (al.sem s c).recorded yQdepth c (c.depthOf d q c.act) (readLanes d c.act)))

/-! Team barriers (08 R242, R243). -/

/-- What TBAR names. -/
def tbarUses (a : Code) : Uses := { srcs := [op32 a], cover := true, whole := true, badType := tyOf a != .uni }

/-- The die cycle from which every group sees the team-register writes that a group's compute stream has issued: the one
after the last of them lands (07 R210). -/
def Group.writesSeen (g : Group) (t : Team) (gid adv now : Nat) : Nat :=
  let isM (l : Landing) : Bool := l.writes.any (fun w => match w with | .mReg _ _ => true | _ => false)
  (((g.sc.landing.filter isM).map (fun (l : Landing) => now + (l.due - adv) + 1)) ++
    ((g.sc.late.filter isM).map (fun (l : Landing) => l.due + 1)) ++
    ((t.late.filter (fun (w : TeamWrite) => w.gid == gid)).map (fun (w : TeamWrite) => w.cycle + 1))).foldl Nat.max (now + 1)

/-- A group arrives at barrier `n` of its stream and waits for the phase (08 R243, R244). -/
def State.arriveTbar (s : State) (gid : Nat) (g : Group) (st : Stream) (adv n : Nat) : State :=
  match s.teams.find g.team with
  | none => s
  | some t =>
    let b := t.tbar[tbarIx st n]
    let s := s.modTeam g.team (fun t =>
      let seen := if st = .comp then Nat.max b.visible (g.writesSeen t gid adv (s.dieCycle g.die)) else 0
      { t with tbar := t.tbar.set (tbarIx st n) { b with arrived := b.arrived ||| (1#32 <<< g.groupId), visible := seen } })
    (s.modGroup gid (fun g => g.modStream st (fun x =>
      { x with tbarWait := x.tbarWait.filter (fun e => e.1 != n) ++ [(n, b.phase)] }))).checkTbar g.team st n

/-- TBAR: in the address stream it waits until the group's ordered access is performed (08 R244; 13 R325). -/
def execTbar (a : Code) (ra : Bool) (s : State) : Host.Outcome State Fault Refusal :=
  .next (s.issue 1 (tbarUses a) (fun _ => none) (pinRows [(op32 a, ra)]) false (fun s c =>
    if c.act = 0 then .go (fun s => s) none
    else if c.st == .addr && s.orderedOutstanding c.gid then .wait .ordered
    else
      let n := (c.values (tbarUses a) (lowestLane c.act)).getD 0 0 % 4
      .go (fun s => s.arriveTbar c.gid c.g c.st c.adv n) none))

/-! Shuffles (08 R246). -/

/-- What a shuffle names. -/
def shuffleUses (f : FQ) : Uses :=
  { srcs := [op32 f.a, op32 f.b], dst := some (op32 f.d), member := some f.j.toNat, alsoReads := [0x500 + f.j.toNat],
    badType := tyOf f.d != .vary }

/-- A position of the group, if it is one. -/
def laneAt (x : Int) : Option (Fin 32) :=
  if h : 0 ≤ x ∧ x < 32 then some ⟨x.toNat, by omega⟩ else none

/-- LGET: the source lane of lane `L` from its B value. -/
def aluLget (f : FQ) (src : Nat → Nat → Int) : Alu :=
  let u := shuffleUses f
  { uses := u, lat := latShuffle,
    fn := fun c m => .ok (fun L =>
      let v := c.values u L
      let from_ : Fin 32 :=
        match laneAt (src L.val (v.getD 1 0)) with
        | some M => if laneIn m M then M else L
        | none => L
      { val := (c.values u from_).getD 0 0 }) }

/-- LGET.abs. -/
def execLgetAbs (f : FQ) : State → Host.Outcome State Fault Refusal := runAlu 1 (aluLget f (fun _ b => (b % 32 : Nat)))
/-- LGET.below. -/
def execLgetBelow (f : FQ) : State → Host.Outcome State Fault Refusal := runAlu 1 (aluLget f (fun L b => (L : Int) - b))
/-- LGET.above. -/
def execLgetAbove (f : FQ) : State → Host.Outcome State Fault Refusal := runAlu 1 (aluLget f (fun L b => (L : Int) + b))
/-- LGET.bfly. -/
def execLgetBfly (f : FQ) : State → Host.Outcome State Fault Refusal :=
  runAlu 1 (aluLget f (fun L b => ((L ^^^ (b % 32) : Nat) : Int)))

/-! Votes (08 R247). -/

/-- A vote: `res` is what lane `L` receives, from the participating lanes and those in which the predicate holds. -/
def aluVote (pd : List Nat) (d : Option Code) (p : List PredRef) (j : BitVec 4) (res : Word → Word → Fin 32 → LaneOut) :
    Alu :=
  let u : Uses :=
    { preds := p, pdst := pd, dst := d.map op32, member := some j.toNat, alsoReads := [0x500 + j.toNat] }
  { uses := u, lat := latCmp,
    fn := fun c m =>
      let yes := maskOf (fun L => laneIn m L && (p.map (fun r => c.g.predRef r L)).getD 0 true)
      .ok (res m yes) }

/-- POLL.every. -/
def execPollEvery (pd : BitVec 3) (p : PredRef) (j : BitVec 4) : State → Host.Outcome State Fault Refusal :=
  runAlu 1 (aluVote [pd.toNat] none [p] j (fun m yes _ => { pred := yes == m }))
/-- POLL.some. -/
def execPollSome (pd : BitVec 3) (p : PredRef) (j : BitVec 4) : State → Host.Outcome State Fault Refusal :=
  runAlu 1 (aluVote [pd.toNat] none [p] j (fun _ yes _ => { pred := yes != 0 }))
/-- POLL.mask. -/
def execPollMask (d : Code) (p : PredRef) (j : BitVec 4) : State → Host.Outcome State Fault Refusal :=
  runAlu 1 (aluVote [] (some d) [p] j (fun _ yes _ => { val := yes.toNat }))
/-- LEAD. -/
def execLead (pd : BitVec 3) (j : BitVec 4) : State → Host.Outcome State Fault Refusal :=
  runAlu 1 (aluVote [pd.toNat] none [] j (fun m _ L => { pred := L == lowestLane m }))

/-! Reductions and matching (08 R248). -/

/-- What LFOLD and LSAME name: a group-wide result may go to a uniform destination (01 R35). -/
def foldUses (d a : Code) (j : BitVec 4) (wide : Bool) : Uses :=
  { srcs := [op32 a], dst := some (op32 d), member := some j.toNat, alsoReads := [0x500 + j.toNat], anySrc := wide,
    badType := if wide then tyOf d == .aff else tyOf d != .vary }

/-- One reduction step. -/
def foldStep (rop : BitVec 3) (signed : Bool) (x y : Nat) : Nat :=
  match rop.toNat with
  | 0 => (x + y) % 2 ^ 32
  | 1 => if readInt 32 signed y < readInt 32 signed x then y else x
  | 2 => if readInt 32 signed x < readInt 32 signed y then y else x
  | 3 => x &&& y
  | 4 => x ||| y
  | _ => x ^^^ y

/-- The reduction of a list of values. -/
def foldValues (rop : BitVec 3) (signed : Bool) : List Nat → Nat
  | [] => 0
  | x :: xs => xs.foldl (foldStep rop signed) x

/-- LFOLD. -/
def execLfold (d a : Code) (j : BitVec 4) (m : XlMod) (s : State) : Host.Outcome State Fault Refusal :=
  let u := foldUses d a j true
  .next (s.issue 2 u (fun _ => none) [] false (fun s c =>
    let r := foldValues m.rop m.signed ((lanesOf (c.part u)).map (fun L => (c.values u L).getD 0 0))
    computeVerdict s c u .lfold m.la m.tk (fun _ => { val := r }) (fun s => s)))

/-- LSAME: the lanes of the participating set that hold the value of lane `L`. -/
def sameMask (c : Ctx) (u : Uses) (L : Fin 32) : Word :=
  maskOf (fun M => laneIn (c.part u) M && (c.values u M).getD 0 0 == (c.values u L).getD 0 0)

/-- LSAME.each and LSAME.all. -/
def execLsame (d a : Code) (j : BitVec 4) (all : Bool) (la : BitVec 4) (tk : BitVec 3) (s : State) :
    Host.Outcome State Fault Refusal :=
  let u := foldUses d a j all
  .next (s.issue 2 u (fun _ => none) [] false (fun s c =>
    computeVerdict s c u .lfold la tk (fun L =>
      let same := sameMask c u L
      { val := (if all then (if same = c.part u then same else 0) else same).toNat }) (fun s => s)))

/-- LFOLD_COMPLETE. -/
def execLfoldComplete (op : Nat) (lanes : Word) (s : State) : Host.Outcome State Fault Refusal :=
  .next (s.completeKind op lanes (fun k => k == .lfold))

/-! The kaleidoscope permute (08 R249). -/

/-- One byte that TLP gathers: `tab` is the A value of a lane, 0 outside the participating set. -/
def tlpByte (tab : Fin 32 → Nat) (x : Nat) : Nat :=
  if 128 ≤ x then 0 else tab ⟨x / 4 % 32, Nat.mod_lt _ (by decide)⟩ / 256 ^ (x % 4) % 256

/-- TLP. -/
def aluTlp (f : FQ) : Alu :=
  let u := shuffleUses f
  { uses := u, lat := latShuffle,
    fn := fun c m => .ok (fun L =>
      let tab (M : Fin 32) : Nat := if laneIn m M then (c.values u M).getD 0 0 else 0
      let b := (c.values u L).getD 1 0
      let byte (i : Nat) : Nat := tlpByte tab (b / 256 ^ i % 256) * 256 ^ i
      { val := byte 0 + byte 1 + byte 2 + byte 3 }) }

/-- TLP. -/
def execTlp (f : FQ) : State → Host.Outcome State Fault Refusal := runAlu 1 (aluTlp f)

end Sys2Proof.Machine
end

