-- ==== Sys2Proof/Machine/Clock.lean ====
section
/-! DEFINITION. The clocks of a die: CYCLE, NCYCLE and their rate (14 R379 to R383). -/

namespace Sys2Proof.Machine

open Sys2Proof

/-- FREQ in MHz. -/
def Die.freq (d : Die) : Nat := 50 * d.k50

/-- INC: 1,600 / FREQ in 2.16 fixed point, ties up (14 R381). -/
def Die.inc (d : Die) : Nat := (2 * 32 * 2 ^ 16 + d.k50) / (2 * d.k50)

/-- The accumulator of NCYCLE, 64.16 (14 R381). -/
def State.ncycleAcc (s : State) (d : Nat) : Nat := (s.die d).ncycleAcc + s.cyclesSince d * (s.die d).inc

/-- The clock of a die stops behind a power gate: its counts are kept. -/
def State.gateClock (s : State) (d : Nat) : State :=
  let c := s.dieCycle d
  let n := s.ncycleAcc d
  s.modDie d (fun x => { x with cycleBase := c, ncycleAcc := n, relock := none, gated := true, since := s.units })

/-- A relock that is due to end by now ends: the die restarts at its new frequency at the very end of the 750 ns, RELOCKS
advances, and the FIFOs deliver (14 R383; 15 R390). -/
def State.endRelock (s : State) (d : Nat) : State :=
  match (s.die d).relock with
  | some (t, k) =>
    if t ≤ s.units then
      let c := s.dieCycle d
      let n := s.ncycleAcc d
      ({ s with fifo := s.fifo.filter (fun f => f.2 != d) }.modDie d (fun x =>
        { x with k50 := k, relocks := (x.relocks + 1) % 2 ^ 16, relock := none, since := t, cycleBase := c, ncycleAcc := n })).wake
    else s
  | none => s

end Sys2Proof.Machine
end

