-- ==== Sys2Proof/Machine/Save.lean ====
section
/-! DEFINITION. The context save format: the pool and its directory, and the records of groups, teams, gangs, quad
tables and accumulator blocks (17 R459 to R461; 16 R423, R424). -/

namespace Sys2Proof.Machine

open Sys2Proof

/-! The pool (17 R459). -/

/-- Bytes of a chunk. -/
def chunkSize : Nat := 65536

/-- An entry of the directory (17 Table 17.7). -/
structure DirEntry where
  index : Nat
  kind : Nat
  chunks : Nat
  lrec : Nat
  key : Nat
  first : Nat
  deriving DecidableEq, Repr

/-- CTXBASE as an address. -/
def Fn.pool (f : Fn) : Nat := f.ctxbase.toNat / chunkSize * chunkSize

/-- The directory entries of a pool that are not free; a function with no chunks has no pool. -/
def State.dirEntries (s : State) (fn : Nat) : List DirEntry :=
  let base := (s.fn fn).pool
  if (s.fn fn).ctxchunks = 0 then []
  else (List.range 2048).filterMap (fun i =>
    let a := base + 32 * i
    if s.mem.read a = 0 then none
    else
      let b := s.bytesAt a 32
      some ⟨i, natAt b 0 1, natAt b 4 4, natAt b 8 8, natAt b 16 8, natAt b 24 8⟩)

/-- A chunk belongs to some record; chunk 0 is the directory. -/
def chunkUsed (es : List DirEntry) (n : Nat) : Bool :=
  n == 0 || es.any (fun e => decide (e.first ≤ n) && decide (n < e.first + e.chunks))

/-- The lowest run of free chunks of a length. -/
def freeChunks (es : List DirEntry) (size n : Nat) : Option Nat :=
  (List.range size).find? (fun i =>
    decide (i + n ≤ size) && (List.range n).all (fun k => !chunkUsed es (i + k)))

/-- The contents of a record: bytes at offsets, zero elsewhere. -/
abbrev Layout := List (Nat × List Byte)

/-- Store a record at a chunk of a pool: every byte that no field fills is 0. -/
def State.storeRecord (s : State) (fn first chunks : Nat) (l : Layout) : State :=
  let a := (s.fn fn).pool + first * chunkSize
  let s := { s with mem := s.mem.clear a (a + chunks * chunkSize),
                    poison := s.poison.filter (fun b => b < a / 16 || (a + chunks * chunkSize) / 16 ≤ b) }
  l.foldl (fun s e => { s with mem := s.mem.writeN (a + e.1) e.2 }) s

/-- Put a record in a function's pool, in the lowest free directory entry and chunks; none when it does not fit. -/
def State.putRecord (s : State) (fn kind lrec key chunks : Nat) (l : Layout) : Option State :=
  let es := s.dirEntries fn
  match (List.range 2048).find? (fun i => !es.any (fun e => e.index == i)),
        freeChunks es (s.fn fn).ctxchunks.toNat chunks with
  | some i, some first =>
    let s := s.storeRecord fn first chunks l
    let entry := bytesOfNat 4 kind ++ bytesOfNat 4 chunks ++ bytesOfNat 8 lrec ++ bytesOfNat 8 key ++ bytesOfNat 8 first
    some { s with mem := s.mem.writeN ((s.fn fn).pool + 32 * i) entry }
  | _, _ => none

/-- Free the directory entry of a record. -/
def State.freeRecord (s : State) (fn kind lrec key : Nat) : State :=
  match (s.dirEntries fn).find? (fun e => e.kind == kind && e.lrec == lrec && e.key == key) with
  | some e =>
    let a := (s.fn fn).pool + 32 * e.index
    { s with mem := s.mem.clear a (a + 32) }
  | none => s

/-! Records (17 R460, R461). -/

/-- Words, lowest address first. -/
def bytesOfWords (ws : List Word) : List Byte := ws.flatMap bytesOfWord

/-- A double word. -/
def bytesOfDword (d : Dword) : List Byte := bytesOfNat 8 d.toNat

/-- A row of 32 words. -/
def bytesOfRow (r : Row) : List Byte := bytesOfWords r.toList

/-- A flag as a number. -/
def bitNat (b : Bool) (n : Nat) : Nat := if b then 2 ^ n else 0

/-- A trap register set, padded to 24 bytes. -/
def TrapRegs.bytes (t : TrapRegs) : List Byte := bytesOfNat 8 t.cause.toNat ++ bytesOfDword t.pc ++ bytesOfDword t.addr

/-- The rejoin mask of a parking, 0 for none. -/
def Park.maskNo : Park → Nat
  | .join j => j
  | _ => 0

/-- The deadline of a sleeping lane. -/
def Park.deadline : Park → Option Nat
  | .sleep d => some d
  | _ => Option.none

/-- A lane is parked: at a mask or asleep (17 R449). -/
def Park.isParked : Park → Bool
  | .none => false
  | _ => true

/-- A lane record (17 Table 17.9). -/
def laneRecord (g : Group) (L : Fin 32) : List Byte :=
  let a := g.sa.lanes[L]
  let c := g.sc.lanes[L]
  let back : SavedLane := if g.trapMode then g.saved[L] else ⟨0, .header, .none, false⟩
  let path := if g.trapMode && g.firstRegs.isNone then back.faulting else c.faulting
  let slot := match c.park.deadline with
    | some d => if g.trapMode then back.pc.toNat else d
    | none => back.pc.toNat
  let flags := bitNat a.exited 0 + bitNat c.exited 1 + bitNat a.faulting 2 + bitNat path 3 +
    bitNat a.park.isParked 4 + bitNat c.park.isParked 5 + bitNat back.park.isParked 6 +
    bitNat (c.park.deadline.isSome || back.park.deadline.isSome) 7
  let preds := (List.range 8).foldl (fun n i => n + bitNat (g.pred i L) i) 0
  bytesOfDword a.pc ++ bytesOfDword c.pc ++ bytesOfNat 8 slot ++ bytesOfDword g.sptr[L] ++ bytesOfDword g.cspill[L] ++
  bytesOfWord g.seed[L] ++ bytesOfWord g.fpstat[L] ++
  bytesOfNat 1 preds ++ bytesOfNat 1 flags ++ bytesOfNat 1 (a.park.maskNo + 16 * c.park.maskNo) ++
  bytesOfNat 1 (bitNat a.park.deadline.isSome 7 + back.park.maskNo) ++
  bytesOfNat 1 a.rstack.length ++ bytesOfNat 1 c.rstack.length ++
  (List.range 8).flatMap (fun q => bytesOfNat 1 (g.entries q L).length) ++ bytesOfNat 2 0

/-- The tag of a saved queue entry. -/
def QTag.saved : QTag → Nat
  | .data => 1
  | .fault => 2
  | .poison => 3
  | .reserved _ => 0

/-- The pending BARWAIT of a group, as its record holds it. -/
def State.barwaitRecord (s : State) (gid : Nat) : List Byte :=
  match s.ops.vals.find? (fun o => o.gid == gid && (match o.kind with | .barwait .. => true | _ => false)) with
  | some o =>
    (match o.kind with
     | .barwait d obj e =>
       bytesOfNat 8 (1 + 2 ^ 8 * d.toNat + 2 ^ 16 * o.tk) ++ bytesOfNat 8 obj ++
         bytesOfNat 8 ((e.map (fun w => w.toNat)).getD 0)
     | _ => [])
  | none => []

/-- The counters of a stream, four bits each. -/
def StreamState.countNat (x : StreamState) : Nat :=
  (List.range 6).foldl (fun n i => n + (x.tk.toList.getD (i + 1) 0) * 16 ^ i) 0

/-- Entry `e` of lane L of a return-stack image, in the record. -/
def stackAt (base e : Nat) (L : Fin 32) : Nat := base + 256 * e + 8 * L.val

/-- A return-stack image: entry `e` of lane L, oldest first, where its row of the group's block is written (07 Table 7.6). -/
def stackImage (base row : Nat) (hit : Nat → Bool) (x : StreamState) : Layout :=
  (List.finRange 32).flatMap (fun L =>
    (numbered 0 x.lanes[L].rstack.reverse).filterMap (fun e =>
      if hit (row + 2 * e.1) then some (stackAt base e.1 L, bytesOfDword e.2) else none))

/-- The poisoned ranges of a return-stack image. -/
def stackPoison (base row : Nat) (hit : Nat → Bool) (x : StreamState) : List (Nat × Nat) :=
  (List.finRange 32).flatMap (fun L =>
    let l := x.lanes[L]
    l.rbad.filterMap (fun i =>
      let e := l.rstack.length - 1 - i
      if hit (row + 2 * e) then some (stackAt base e L, 8) else none))

/-- What is written of a record: bytes at offsets, and the ranges among them that are poisoned. -/
structure RecordPart where
  bytes : Layout
  bad : List (Nat × Nat)
  deriving DecidableEq, Repr

/-- Where a record holds a storage entry: its offset and length (17 Table 17.8). -/
def entryRange (b : BadEntry) : Option (Nat × Nat) :=
  match b.lane with
  | some L => some (0x2000 + 128 * b.what + 4 * L.val, 4)
  | none =>
    if 0x40 ≤ b.what ∧ b.what < 0x60 then some (0x100 + 4 * (b.what - 0x40), 4)
    else if 0x60 ≤ b.what ∧ b.what < 0x70 then some (0x180 + 16 * (b.what - 0x60), 16)
    else if 0x400 ≤ b.what ∧ b.what < 0x404 then some (0x380 + 80 * (b.what - 0x400), 80)
    else if 0x500 ≤ b.what ∧ b.what < 0x510 then some (0x280 + 4 * (b.what - 0x500), 4)
    else if 0x800 ≤ b.what ∧ b.what < 0x820 then some (0x2C0 + 4 * (b.what - 0x800), 4)
    else if 0x600 ≤ b.what ∧ b.what < 0x610 then some (0x340 + (b.what - 0x600), 1)
    else none

/-- The part of a group record that goes with its slot (17 Table 17.8). -/
def State.groupRecord (s : State) (gid : Nat) (g : Group) : Layout :=
  [(0x0000, bytesOfNat 4 (bitNat g.trapMode 0 + bitNat g.escalated.isSome 1 + 2 ^ 8 * g.cfg.vregs + 2 ^ 16 * g.cfg.aregs +
      2 ^ 24 * g.cfg.rsdepth)),
   (0x0008, g.regs.bytes),
   (0x0020, bytesOfNat 8 (g.sa.countNat + 2 ^ 24 * g.sc.countNat)),
   (0x0028, g.cbarPhase.toList.flatMap (fun p => bytesOfNat 4 (p.getD 0))),
   (0x0048, s.barwaitRecord gid),
   (0x0068, (g.firstRegs.map TrapRegs.bytes).getD []),
   (0x0100, bytesOfWords g.k.toList),
   (0x0180, g.a.toList.flatMap (fun a => bytesOfDword a.base ++ bytesOfNat 2 a.stride.toNat ++ bytesOfNat 6 0)),
   (0x0280, bytesOfWords g.j.toList),
   (0x02C0, bytesOfWords (g.sa.arrivals.toList ++ g.sc.arrivals.toList)),
   (0x0340, (numbered 0 g.guards.toList).flatMap (fun e =>
      bytesOfNat 1 (if e.1 = 0 then 0 else match e.2 with | .unresolved => 0 | .isTrue => 1 | .isFalse => 2))),
   (0x0380, g.x.toList.flatMap (fun x => bytesOfNat 80 x.toNat)),
   (0x04C0, bytesOfNat 32 g.epi.toNat),
   (0x0500, (List.finRange 32).flatMap (laneRecord g)),
   (0x1000, bytesOfNat 16 ((numbered 0 g.latch.valid.toList).foldl (fun n e => n + bitNat e.2 e.1) 0 +
      2 ^ 8 * g.latch.a.toNat + 2 ^ 16 * g.latch.op)),
   (0x1100, (List.finRange 32).flatMap (fun L => g.latch.rows.toList.flatMap (fun r => bytesOfWord r[L])))] ++
  (List.range 8).flatMap (fun q => (List.finRange 32).flatMap (fun L =>
    (numbered 0 (g.entries q L)).map (fun e =>
      (0x6000 + 0x1000 * q + 256 * e.1 + 8 * L.val, bytesOfNat 8 (e.2.val.toNat + 2 ^ 32 * e.2.tag.saved)))))

/-- The part of a group record that goes with rows of its block (07 Table 7.6; 17 Table 17.8). -/
def Group.rowRecord (g : Group) (hit : Nat → Bool) : Layout :=
  (numbered 0 g.v.toList).filterMap (fun e =>
    if decide (e.1 < g.cfg.vregs) && hit e.1 then some (0x2000 + 128 * e.1, bytesOfRow e.2) else none) ++
  stackImage 0x4000 g.cfg.vregs hit g.sa ++ stackImage 0x5000 (g.cfg.vregs + 2 * g.cfg.rsdepth) hit g.sc

/-- What is written of a group: its slot's state, and the rows that are hit. -/
def State.groupPart (s : State) (gid : Nat) (g : Group) (slot : Bool) (hit : Nat → Bool) : RecordPart :=
  let mine := s.bad.filter (fun b => b.gid == gid)
  { bytes := (if slot then s.groupRecord gid g else []) ++ g.rowRecord hit
    bad := (mine.filter (fun b => if b.lane.isSome then hit b.what else slot)).filterMap entryRange ++
      stackPoison 0x4000 g.cfg.vregs hit g.sa ++ stackPoison 0x5000 (g.cfg.vregs + 2 * g.cfg.rsdepth) hit g.sc }

/-- The deadlines that a team record holds for a group (17 R460, R461): of a compute lane in trap mode its own, or else the
one that trap entry saved (log 114). -/
def deadlineAreas (g : Group) : Layout :=
  (List.finRange 32).flatMap (fun L =>
    let at_ (base : Nat) : Nat := base + 8 * (32 * g.groupId + L.val)
    (match (if g.trapMode then ((g.sc.lanes[L]).park.deadline).or (g.saved[L]).park.deadline else none) with
     | some d => [(at_ 0x100, bytesOfNat 8 d)]
     | none => []) ++
    (match (g.sa.lanes[L]).park.deadline with
     | some d => [(at_ 0x2100, bytesOfNat 8 d)]
     | none => []))

/-- The first chunk of a team record (17 R461). -/
def State.teamRecord (s : State) (tid : Nat) (t : Team) : Layout :=
  [(0x00, bytesOfWords t.regs.toList),
   (0x40, t.tbar.toList.flatMap (fun b => bytesOfNat 4 b.phase ++ bytesOfWord b.arrived))] ++
  (s.teamGroups tid).flatMap (fun e => deadlineAreas e.2)

/-- What is written of a team: its first chunk, and the scratch rows that are hit. -/
def State.teamPart (s : State) (tid : Nat) (t : Team) (own : Bool) (hit : Nat → Bool) : RecordPart :=
  { bytes := (if own then s.teamRecord tid t else []) ++
      (t.scratch.filter (fun c => hit (c.1 / 128))).map (fun c => (chunkSize + c.1, [c.2]))
    bad := (t.scratchPoison.filter (fun b => hit (b / 8))).map (fun b => (chunkSize + 16 * b, 16)) }

/-- Chunks of a team record. -/
def Team.chunks (t : Team) : Nat := 1 + (t.scratchSize + 65535) / 65536

/-- A gang header (17 R461). -/
def gangHeader (s : State) (c : Gang) (lrec : Nat) : Layout :=
  let arrived (b : CBar) : Nat :=
    (b.arrived.filterMap (fun k => s.groups.find k)).foldl (fun n g =>
      if n.testBit g.teamId then n else n + 2 ^ g.teamId) 0
  [(0x00, bytesOfNat 8 lrec), (0x08, bytesOfNat 4 c.gridpos),
   (0x0C, bytesOfNat 1 c.w ++ bytesOfNat 1 c.h ++ bytesOfNat 1 (if c.fallback then 1 else 0)),
   (0x40, c.cbar.toList.flatMap (fun b => bytesOfNat 4 b.phase ++ bytesOfNat 12 (arrived b)))]

/-- KEY of a group, a team and a gang (17 Table 17.7). -/
def recordKey (gridpos team group : Nat) : Nat := gridpos * 2 ^ 32 + team * 2 ^ 8 + group

/-- LREC of a launch. -/
def State.lrecOf (s : State) (launch : Nat) : Nat := ((s.launches.find launch).map (fun l => l.lrec.toNat)).getD 0

/-- Write a part of a record, in the record that stands in a pool or in a new one, zero elsewhere; none when it does not
fit. -/
def State.putPart (s : State) (fn kind lrec key chunks : Nat) (p : RecordPart) : Option State :=
  let place (s : State) : Option Nat :=
    ((s.dirEntries fn).find? (fun e => e.kind == kind && e.lrec == lrec && e.key == key)).map (fun e =>
      (s.fn fn).pool + e.first * chunkSize)
  (if (place s).isSome then some s else s.putRecord fn kind lrec key chunks []).bind (fun s =>
    (place s).map (fun a =>
      let s := p.bytes.foldl (fun s e => { s with mem := s.mem.writeN (a + e.1) e.2 }) s
      p.bad.foldl (fun s e => s.writePoison (a + e.1) e.2) s))

/-- Rows of a group block (07 Table 7.6). -/
def LaunchRec.groupRows (r : LaunchRec) : Nat := (r.vregs + 4 * r.rsdepth + 3) / 4 * 4

/-- The row of its team's region that row `j` of a group's block is (16 R418). -/
def Group.teamRow (g : Group) (j : Nat) : Nat := g.groupId * g.cfg.groupRows + j

/-- The row of its team's region that row `j` of its scratch is. -/
def LaunchRec.scratchRow (r : LaunchRec) (j : Nat) : Nat := r.groups * r.groupRows + j

/-- The block of a row of a team's region. -/
def Team.blockOf (t : Team) (row : Nat) : Nat := t.blocks.getD (row / 32) 0

/-- What an owner has in some blocks is put in its function's pool, with its slot's state, or a team's first chunk, when
`own` says so; none when it does not fit (16 R423; log 118). -/
def State.saveOwner (s : State) (o : Nat) (own : Bool) (hit : Nat → Bool) : Option State :=
  let team (s : State) (tid : Nat) (own : Bool) (hit : Nat → Bool) : Option State :=
    match s.teams.find tid with
    | none => some s
    | some t =>
      match s.gangs.find t.gang with
      | none => some s
      | some c =>
        let r := ((s.launches.find c.launch).map (fun l => l.cfg))
        s.putPart c.fn 2 (s.lrecOf c.launch) (recordKey c.gridpos t.teamId 0) t.chunks
          (s.teamPart tid t own (fun j => hit (t.blockOf ((r.map (fun r => r.scratchRow j)).getD j))))
  match s.groups.find o with
  | some g =>
    if g.status = .finished then some s
    else
      (s.putPart g.fn 1 (s.lrecOf g.launch) (recordKey g.gridpos g.teamId g.groupId) 1
        (s.groupPart o g own (fun j => ((s.teams.find g.team).map (fun t => hit (t.blockOf (g.teamRow j)))).getD false))).bind
        (fun s => if own then team s g.team true (fun _ => false) else some s)
  | none => team s o own hit

/-- The parts of a list of owners. -/
def State.saveOwners (s : State) (own : Nat → Bool) (hit : Nat → Nat → Bool) : List Nat → Option State
  | [] => some s
  | o :: os =>
    match s.saveOwner o (own o) (hit o) with
    | some s => s.saveOwners own hit os
    | none => none

/-- The core of an owner of rows. -/
def State.ownerCore (s : State) (o : Nat) : Core :=
  match s.groups.find o, s.teams.find o with
  | some g, _ => s.cores.getD g.core Core.reset
  | none, some t => s.cores.getD t.core Core.reset
  | none, none => Core.reset

/-- Everything that a gang still holds is written to its pool, its header included (16 R425; 17 R459, R461). -/
def State.saveRest (s : State) (c : Gang) : Option State :=
  match s.saveOwners (fun o => c.teams.contains o || (s.ownerCore o).slots.contains (some o))
      (fun o b => ((s.ownerCore o).blocks.getD b []).contains o) (c.teams ++ c.groups) with
  | some t =>
    let lrec := s.lrecOf c.launch
    t.putPart c.fn 3 lrec (recordKey c.gridpos 0 0) 1 ⟨gangHeader s c lrec, []⟩
  | none => none

/-! Reading records back (17 R461). -/

/-- The number in some bytes of a record at an offset. -/
abbrev RecordReader := Nat → Nat → Nat

/-- A parking takes its mask and its deadline from a record. -/
def Park.reread (p : Park) (j d : Nat) : Park :=
  match p with
  | .none => .none
  | .join _ => .join j
  | .sleep _ => .sleep d

/-- The return stack of a lane from its image, and its entries whose bytes are poisoned. -/
def LaneCtl.rereadStack (l : LaneCtl) (rd : RecordReader) (bad : Nat → Bool) (base n : Nat) (L : Fin 32) : LaneCtl :=
  { l with
    rstack := (List.range n).map (fun i => BitVec.ofNat 64 (rd (stackAt base (n - 1 - i) L) 8))
    rbad := (List.range n).filter (fun i => bad (stackAt base (n - 1 - i) L)) }

/-- The address-stream lane of a lane record (17 Table 17.9). -/
def rereadAddrLane (rd : RecordReader) (bad : Nat → Bool) (deadline : Nat) (L : Fin 32) (l : LaneCtl) : LaneCtl :=
  let o := 0x500 + 64 * L.val
  let f := rd (o + 0x31) 1
  { l with pc := BitVec.ofNat 64 (rd o 8), exited := f.testBit 0, faulting := f.testBit 2,
           park := l.park.reread (rd (o + 0x32) 1 % 16) deadline }.rereadStack rd bad 0x4000 (rd (o + 0x34) 1) L

/-- The compute-stream lane of a lane record. -/
def rereadCompLane (g : Group) (rd : RecordReader) (bad : Nat → Bool) (deadline : Nat) (L : Fin 32) (l : LaneCtl) : LaneCtl :=
  let o := 0x500 + 64 * L.val
  let f := rd (o + 0x31) 1
  { l with pc := BitVec.ofNat 64 (rd (o + 8) 8), exited := f.testBit 1,
           faulting := if g.trapMode && g.firstRegs.isNone then l.faulting else f.testBit 3,
           park := l.park.reread (rd (o + 0x32) 1 / 16) (if g.trapMode then deadline else rd (o + 0x10) 8) }.rereadStack
    rd bad 0x5000 (rd (o + 0x35) 1) L

/-- What trap entry saved, of a lane record. -/
def rereadSaved (g : Group) (rd : RecordReader) (deadline : Nat) (L : Fin 32) (l : SavedLane) : SavedLane :=
  let o := 0x500 + 64 * L.val
  if !g.trapMode then l
  else
    { l with pc := BitVec.ofNat 64 (rd (o + 0x10) 8), park := l.park.reread (rd (o + 0x33) 1 % 16) deadline,
             faulting := if g.firstRegs.isNone then (rd (o + 0x31) 1).testBit 3 else l.faulting }

/-- A trap register set of a record. -/
def TrapRegs.read (rd : RecordReader) (o : Nat) : TrapRegs :=
  ⟨BitVec.ofNat 32 (rd o 4), BitVec.ofNat 64 (rd (o + 8) 8), BitVec.ofNat 64 (rd (o + 16) 8)⟩

/-- The tag of a saved entry. -/
def QTag.ofSaved (n : Nat) (bad : Bool) : QTag := if bad || n == 3 then .poison else if n = 2 then .fault else .data

/-- The entries of a queue at a lane, of a record. -/
def rereadQueue (rd : RecordReader) (bad : Nat → Bool) (q : Nat) (L : Fin 32) : List QEntry :=
  (List.range (rd (0x536 + 64 * L.val + q) 1)).map (fun i =>
    let a := 0x6000 + 0x1000 * q + 256 * i + 8 * L.val
    ⟨BitVec.ofNat 32 (rd a 4), QTag.ofSaved (rd (a + 4) 1) (bad a)⟩)

/-- A group as its record gives it; `dl` reads the deadlines of its team record, and what no record holds stays. -/
def Group.reread (g : Group) (rd : RecordReader) (bad : Nat → Bool) (dl : RecordReader) : Group :=
  let at_ (base : Nat) (L : Fin 32) : Nat := dl (base + 8 * (32 * g.groupId + L.val)) 8
  let word (o : Nat) : Word := BitVec.ofNat 32 (rd o 4)
  let tk (sh : Nat) (v : Vector Nat 7) : Vector Nat 7 :=
    Vector.ofFn (fun i => if i.val = 0 then v[i] else rd 0x20 8 / 2 ^ sh / 16 ^ (i.val - 1) % 16)
  let guard (n : Nat) : Guard := if n = 1 then .isTrue else if n = 2 then .isFalse else .unresolved
  let g := { g with
    trapMode := (rd 0 1).testBit 0, escalated := if (rd 0 1).testBit 1 then some (g.escalated.getD 0) else none
    cfg := { g.cfg with vregs := rd 1 1, aregs := rd 2 1, rsdepth := rd 3 1 } }
  { g with
    regs := TrapRegs.read rd 0x08
    firstRegs := g.firstRegs.map (fun _ => TrapRegs.read rd 0x68)
    cbarPhase := Vector.ofFn (fun i => (g.cbarPhase[i]).map (fun _ => rd (0x28 + 4 * i.val) 4))
    k := Vector.ofFn (fun i => word (0x100 + 4 * i.val))
    a := Vector.ofFn (fun i => ⟨BitVec.ofNat 64 (rd (0x180 + 16 * i.val) 8), BitVec.ofNat 16 (rd (0x188 + 16 * i.val) 2)⟩)
    j := Vector.ofFn (fun i => word (0x280 + 4 * i.val))
    guards := Vector.ofFn (fun i => if i.val = 0 then g.guards[i] else guard (rd (0x340 + i.val) 1))
    x := Vector.ofFn (fun i => Abacus.ofNat (rd (0x380 + 80 * i.val) 80))
    epi := BitVec.ofNat 160 (rd 0x4C0 32)
    latch := ⟨Vector.ofFn (fun i => (rd 0x1000 1).testBit i.val), BitVec.ofNat 7 (rd 0x1001 1), rd 0x1002 1,
      Vector.ofFn (fun r => Vector.ofFn (fun L => word (0x1100 + 64 * L.val + 4 * r.val)))⟩
    v := Vector.ofFn (fun n => if n.val < g.cfg.vregs then Vector.ofFn (fun L => word (0x2000 + 128 * n.val + 4 * L.val)) else g.v[n])
    sptr := Vector.ofFn (fun L => BitVec.ofNat 64 (rd (0x518 + 64 * L.val) 8))
    cspill := Vector.ofFn (fun L => BitVec.ofNat 64 (rd (0x520 + 64 * L.val) 8))
    seed := Vector.ofFn (fun L => word (0x528 + 64 * L.val))
    fpstat := Vector.ofFn (fun L => word (0x52C + 64 * L.val))
    p := Vector.ofFn (fun n => maskOf (fun L => (rd (0x530 + 64 * L.val) 1).testBit n.val))
    q := (List.range 8).foldl (fun m q => (List.finRange 32).foldl (fun m L =>
      let es := rereadQueue rd bad q L
      if es.isEmpty then m else m.set (qKey q L) es) m) []
    saved := Vector.ofFn (fun L => rereadSaved g rd (at_ 0x100 L) L g.saved[L])
    sa := { g.sa with
      tk := tk 0 g.sa.tk, lanes := Vector.ofFn (fun L => rereadAddrLane rd bad (at_ 0x2100 L) L g.sa.lanes[L])
      arrivals := Vector.ofFn (fun i => word (0x2C0 + 4 * i.val)), restUntil := 0, joins := [], freedAt := 0 }
    sc := { g.sc with
      tk := tk 24 g.sc.tk, lanes := Vector.ofFn (fun L => rereadCompLane g rd bad (at_ 0x100 L) L g.sc.lanes[L])
      arrivals := Vector.ofFn (fun i => word (0x300 + 4 * i.val)), restUntil := 0, joins := [], freedAt := 0 }
    landed := [] }

/-- The storage entry that a word of a record belongs to (17 Table 17.8). -/
def entryOf (g : Group) (gid o : Nat) : Option BadEntry :=
  if 0x100 ≤ o ∧ o < 0x180 then some ⟨gid, 0x40 + (o - 0x100) / 4, none⟩
  else if 0x180 ≤ o ∧ o < 0x280 then some ⟨gid, 0x60 + (o - 0x180) / 16, none⟩
  else if 0x280 ≤ o ∧ o < 0x2C0 then some ⟨gid, 0x500 + (o - 0x280) / 4, none⟩
  else if 0x2C0 ≤ o ∧ o < 0x340 then some ⟨gid, 0x800 + (o - 0x2C0) / 4, none⟩
  else if 0x340 ≤ o ∧ o < 0x350 then some ⟨gid, 0x600 + (o - 0x340), none⟩
  else if 0x380 ≤ o ∧ o < 0x4C0 then some ⟨gid, 0x400 + (o - 0x380) / 80, none⟩
  else if 0x2000 ≤ o ∧ o < 0x2000 + 128 * g.cfg.vregs ∧ o % 4 = 0 then
    some ⟨gid, (o - 0x2000) / 128, some ⟨(o - 0x2000) % 128 / 4 % 32, Nat.mod_lt _ (by decide)⟩⟩
  else none

/-- The offsets of a record's poisoned blocks. -/
def State.poisonedOffsets (s : State) (a n : Nat) : List Nat :=
  (s.poison.filter (fun b => decide (a / 16 ≤ b) && decide (b < (a + n) / 16))).map (fun b => 16 * b - a)

/-- Where a record stands. -/
def State.recordPlace (s : State) (fn kind lrec key : Nat) : Option Nat :=
  ((s.dirEntries fn).find? (fun e => e.kind == kind && e.lrec == lrec && e.key == key)).map (fun e =>
    (s.fn fn).pool + e.first * chunkSize)

/-- The number in some bytes behind an address. -/
def State.reader (s : State) (a : Nat) : RecordReader := fun o n => natOfBytes (s.bytesAt (a + o) n)

/-- The pending BARWAIT of a group is read back; a record that names none leaves none. -/
def State.rereadBarwait (s : State) (gid : Nat) (rd : RecordReader) : State :=
  let back (o : VOp) : Option VOp :=
    match o.kind with
    | .barwait _ _ e =>
      if o.gid ≠ gid then some o
      else if (rd 0x48 1).testBit 0 then
        some { o with tk := rd 0x4A 1, kind := .barwait (BitVec.ofNat 7 (rd 0x49 1)) (rd 0x50 8) (e.map (fun _ => BitVec.ofNat 32 (rd 0x58 8))) }
      else none
    | _ => some o
  { s with ops := s.ops.filterMap (fun e => (back e.2).map (fun o => (e.1, o))) }

/-- A group is read back from its record; an entry whose bytes are poisoned holds an error (19 R479). -/
def State.rereadGroup (s : State) (gid : Nat) : State :=
  match s.groups.find gid with
  | none => s
  | some g =>
    match s.recordPlace g.fn 1 (s.lrecOf g.launch) (recordKey g.gridpos g.teamId g.groupId) with
    | none => s
    | some a =>
      let dl : RecordReader := match s.recordPlace g.fn 2 (s.lrecOf g.launch) (recordKey g.gridpos g.teamId 0) with
        | some b => s.reader b
        | none => fun _ _ => 0
      let offs := s.poisonedOffsets a chunkSize
      let bad := (offs.flatMap (fun o => (List.range 16).filterMap (fun i => entryOf g gid (o + i)))).eraseDups
      { (s.modGroup gid (fun g => g.reread (s.reader a) (fun o => offs.contains (o / 16 * 16)) dl)).rereadBarwait gid (s.reader a) with
        bad := s.bad.filter (fun b => b.gid != gid) ++ bad }

/-- A team is read back from its record. -/
def State.rereadTeam (s : State) (tid : Nat) : State :=
  match s.teams.find tid with
  | none => s
  | some t =>
    match s.gangs.find t.gang with
    | none => s
    | some c =>
      match s.recordPlace c.fn 2 (s.lrecOf c.launch) (recordKey c.gridpos t.teamId 0) with
      | none => s
      | some a =>
        let rd := s.reader a
        let lo := a + chunkSize
        s.modTeam tid (fun t =>
          { t with
            m := Vector.ofFn (fun i => BitVec.ofNat 32 (rd (4 * i.val) 4)), late := []
            tbar := Vector.ofFn (fun i => ⟨rd (0x40 + 8 * i.val) 4, BitVec.ofNat 32 (rd (0x44 + 8 * i.val) 4), 0⟩)
            scratch := (s.mem.filter (fun x => decide (lo ≤ x.1) && decide (x.1 < lo + t.scratchSize))).map (fun x => (x.1 - lo, x.2))
            scratchPoison := (s.poisonedOffsets lo t.scratchSize).map (fun o => o / 16) })

/-- The groups that have arrived at a cluster barrier, of the teams in a mask: those that had, and where none of a team had,
all of it (17 R461; log 128). -/
def State.rereadArrived (s : State) (c : Gang) (was : List Nat) (mask : Nat) : List Nat :=
  c.groups.filter (fun k =>
    match s.groups.find k with
    | some g => mask.testBit g.teamId &&
        (was.contains k || !was.any (fun o => ((s.groups.find o).map (fun h => h.teamId == g.teamId)).getD false))
    | none => false)

/-- The cluster barriers of a gang are read back from its header. -/
def State.rereadGang (s : State) (gk : Nat) : State :=
  match s.gangs.find gk with
  | none => s
  | some c =>
    match s.recordPlace c.fn 3 (s.lrecOf c.launch) (recordKey c.gridpos 0 0) with
    | none => s
    | some a =>
      let rd := s.reader a
      s.modGang gk (fun c =>
        { c with cbar := Vector.ofFn (fun i => ⟨rd (0x40 + 16 * i.val) 4, s.rereadArrived c c.cbar[i].arrived (rd (0x44 + 16 * i.val) 12)⟩) })

/-- Free every record of a gang in its function's pool (17 R461). -/
def State.freeGangRecords (s : State) (fn lrec gridpos : Nat) : State :=
  (s.dirEntries fn).foldl (fun s e =>
    if e.lrec = lrec ∧ e.key / 2 ^ 32 = gridpos ∧ (e.kind = 1 ∨ e.kind = 2 ∨ e.kind = 3) then
      (let a := (s.fn fn).pool + 32 * e.index
       { s with mem := s.mem.clear a (a + 32) })
    else s) s

/-! Quad tables: the master copy (16 R424; 02 R59, R60; 10 R281). -/

/-- A row of the default root table (02 Table 2.9). -/
def defaultRoot (r : Nat) : Nat :=
  let half := r / 256 % 2
  (List.range 8).foldl (fun n i => n + (half + 2 * (r / 2 ^ i % 2)) * 16 ^ i) 0 +
    (if half = 1 then popcountNat 8 r % 2 * 2 ^ 32 else 0)

/-- A row of a root table when its context is created: the default table is table 0, the others are zero. -/
def rootReset (key : Nat) : Nat := if key < 512 then defaultRoot key else 0

/-- A context's tables. -/
def State.context (s : State) (c : Nat) : Context := s.contexts.getD c ⟨[], [], none⟩

/-- Row `r` of root table `t`. -/
def Context.root (c : Context) (t r : Nat) : Nat := c.roots.getD (512 * t + r) (rootReset (512 * t + r))

/-- Entry `e` of activation table `t`: slope and intercept. -/
def Context.act (c : Context) (t e : Nat) : Word × Word := c.acts.getD (256 * t + e) (0, 0)

/-- Replace root table `t` by the rows of a list. -/
def Context.setRoots (c : Context) (t : Nat) (rows : List Nat) : Context :=
  { c with roots := (numbered (512 * t) rows).foldl (fun m e =>
      if e.2 = rootReset e.1 then m.drop e.1 else m.set e.1 e.2) c.roots }

/-- Replace activation table `t`. -/
def Context.setActs (c : Context) (t : Nat) (rows : List (Word × Word)) : Context :=
  { c with acts := (numbered (256 * t) rows).foldl (fun m e =>
      if e.2 = (0, 0) then m.drop e.1 else m.set e.1 e.2) c.acts }

/-- The quad-table record of a context (17 R461). -/
def Context.record (c : Context) : Layout :=
  (List.range 4).map (fun t => (4096 * t, (List.range 512).flatMap (fun r => bytesOfNat 8 (c.root t r)))) ++
  (List.range 4).map (fun t => (0x4000 + 2048 * t,
    (List.range 256).flatMap (fun e => bytesOfWord (c.act t e).1 ++ bytesOfWord (c.act t e).2)))

/-- The master copy follows the context's tables, in the record that its pool keeps for it or in a new one: contexts that
share a pool each have their own. -/
def State.writeMaster (s : State) (fn ctx : Nat) : State :=
  match (s.dirEntries fn).find? (fun e => e.kind == 4 && (s.context ctx).master == some e.index) with
  | some e => s.storeRecord fn e.first e.chunks (s.context ctx).record
  | none =>
    (match s.putRecord fn 4 0 0 1 (s.context ctx).record with
     | some t =>
       { t with contexts := t.contexts.set ctx { t.context ctx with
          master := ((t.dirEntries fn).find? (fun e => !(s.dirEntries fn).any (fun f => f.index == e.index))).map
            (fun e => e.index) } }
     | none => s)

/-! Accumulator blocks (10 R264; 16 R423). -/

/-- A quad by number. -/
def State.quad (s : State) (q : Nat) : Quad := s.quads.getD q Quad.reset

/-- Change a quad. -/
def State.modQuad (s : State) (q : Nat) (f : Quad → Quad) : State := { s with quads := s.quads.set q (f (s.quad q)) }

/-- Row `r` of quad `q`. -/
def State.accRow (s : State) (q r : Nat) : AccRow := s.acc.getD (4096 * q + r) AccRow.zero

/-- Set a row of a quad; a scrubbed row is not listed. -/
def State.setAcc (s : State) (q r : Nat) (x : AccRow) : State :=
  { s with acc := if x = AccRow.zero then s.acc.drop (4096 * q + r) else s.acc.set (4096 * q + r) x }

/-- The rows of a block. -/
def blockRows (b : Nat) : List Nat := (List.range 32).map (fun i => 32 * b + i)

/-- The bytes of an accumulator block's record. -/
def blockRecord (rows : List AccRow) : Layout :=
  (numbered 0 rows).map (fun e =>
    (144 * e.1, bytesOfRow e.2.data ++ bytesOfWord e.2.side ++ bytesOfNat 1 (if e.2.psn then 1 else 0)))

/-- A context has a group that runs on a quad. -/
def State.contextRuns (s : State) (ctx q : Nat) : Bool :=
  s.groups.any (fun e => e.2.context == ctx && e.2.quad == q && (e.2.status == .running || e.2.status == .halting))

/-- The block is written to its owner's save area; none when the pool has no room. -/
def State.saveBlock (s : State) (q b owner : Nat) : Option State :=
  let rows := (blockRows b).map (s.accRow q)
  (s.putRecord (owner % 65) 5 0 (q * 256 + b) 1 (blockRecord rows)).map (fun s =>
    s.modQuad q (fun x => { x with saved := x.saved ++ [⟨owner, b, rows⟩] }))

/-- The rows of an accumulator block's record; a row with poisoned bytes is poisoned (10 R265; 17 R461). -/
def State.blockRead (s : State) (a : Nat) : List AccRow :=
  let rd := s.reader a
  (List.range 32).map (fun r =>
    ⟨Vector.ofFn (fun L => BitVec.ofNat 32 (rd (144 * r + 4 * L.val) 4)), BitVec.ofNat 32 (rd (144 * r + 128) 4),
     (rd (144 * r + 132) 1).testBit 0 || s.poisonIn (a + 144 * r) 144⟩)

/-- The rows of a block that a context had saved: as its record holds them. -/
def State.savedRows (s : State) (q : Nat) (x : SavedBlock) : List AccRow :=
  match s.recordPlace (x.context % 65) 5 0 (q * 256 + x.block) with
  | some a => s.blockRead a
  | none => x.rows

/-- The block is scrubbed and given to a context; rows of it that the context had saved come back. -/
def State.giveBlock (s : State) (q b ctx : Nat) : State :=
  let s := s.modQuad q (fun x => { x with owners := x.owners.set b ctx })
  match (s.quad q).saved.find? (fun x => x.context == ctx && x.block == b) with
  | some x =>
    let s := (numbered (32 * b) (s.savedRows q x)).foldl (fun s e => s.setAcc q e.1 e.2) s
    let s := s.modQuad q (fun y => { y with saved := y.saved.filter (fun z => !(z.context == ctx && z.block == b)) })
    s.freeRecord (ctx % 65) 5 0 (q * 256 + b)
  | none => (blockRows b).foldl (fun s r => s.setAcc q r AccRow.zero) s

/-- The blocks of a list of rows that another context owns. -/
def State.foreignBlocks (s : State) (q ctx : Nat) (rows : List Nat) : List (Nat × Nat) :=
  (rows.map (fun r => r / 32)).eraseDups.filterMap (fun b =>
    match (s.quad q).owners.find b with
    | some o => if o = ctx then none else some (b, o)
    | none => none)

/-- The free blocks among rows become the context's own. -/
def State.acquire (s : State) (q ctx : Nat) (rows : List Nat) : State :=
  (rows.map (fun r => r / 32)).eraseDups.foldl (fun s b =>
    if ((s.quad q).owners.find b).isNone then s.giveBlock q b ctx else s) s

/-- CLAIM of accumulator blocks: those of halted contexts are saved, scrubbed and given to the claimant. -/
def State.claimBlocks (s : State) (q ctx : Nat) (rows : List Nat) : State :=
  (s.foreignBlocks q ctx rows).foldl (fun s e =>
    if s.contextRuns e.2 q then s
    else
      match s.saveBlock q e.1 e.2 with
      | some s => s.giveBlock q e.1 ctx
      | none => s) s

/-- A context gives up the blocks that it owns on a quad, and what of it is saved there. -/
def State.giveUpQuad (s : State) (q ctx : Nat) : State :=
  ((s.quad q).owners.filter (fun o => o.2 == ctx)).foldl (fun s o =>
    (blockRows o.1).foldl (fun s r => s.setAcc q r AccRow.zero) (s.modQuad q (fun x => { x with owners := x.owners.drop o.1 })))
    (s.modQuad q (fun x => { x with saved := x.saved.filter (fun z => z.context != ctx) }))

/-- A block of a quad is written to a pool for a gang, which takes it along; none when the pool has no room (16 R425). -/
def State.putBlock (s : State) (gk : Nat) (c : Gang) (q b : Nat) (rows : List AccRow) : Option State :=
  (s.putRecord c.fn 5 (s.lrecOf c.launch) (q * 256 + b) 1 (blockRecord rows)).map (fun t =>
    let ix := ((t.dirEntries c.fn).find? (fun e => !(s.dirEntries c.fn).any (fun f => f.index == e.index))).map (fun e => e.index)
    t.modGang gk (fun c => { c with blocks := c.blocks ++ [⟨q, b, ix.getD 0, rows⟩] }))

/-- The rows of a block that a gang has taken along: as its record holds them. -/
def State.gangRows (s : State) (fn : Nat) (b : GangBlock) : List AccRow :=
  match (s.dirEntries fn).find? (fun e => e.index == b.index) with
  | some e => s.blockRead ((s.fn fn).pool + e.first * chunkSize)
  | none => b.rows

/-- The records of the blocks that a gang has taken along are free. -/
def State.freeBlocks (s : State) (c : Gang) : State :=
  c.blocks.foldl (fun s b =>
    let a := (s.fn c.fn).pool + 32 * b.index
    { s with mem := s.mem.clear a (a + 32) }) s

/-- A context with nothing left in the partition releases its blocks: each is scrubbed and free. A launch that is taken and
not complete counts as running, placed or not (10 R264; log 130). -/
def State.releaseContext (s : State) (ctx : Nat) : State :=
  if s.launches.any (fun e => e.2.part * 65 + e.2.fn == ctx && !e.2.complete) ||
      s.gangs.any (fun e => e.2.part * 65 + e.2.fn == ctx && e.2.status != .finished) then s
  else
    s.quads.foldl (fun s e =>
      let s := (e.2.saved.filter (fun z => z.context == ctx)).foldl (fun s z =>
        s.freeRecord (ctx % 65) 5 0 (e.1 * 256 + z.block)) s
      let s := s.modQuad e.1 (fun x => { x with saved := x.saved.filter (fun z => z.context != ctx) })
      (e.2.owners.filter (fun o => o.2 == ctx)).foldl (fun s o =>
        (blockRows o.1).foldl (fun s r => s.setAcc e.1 r AccRow.zero)
          (s.modQuad e.1 (fun x => { x with owners := x.owners.drop o.1 }))) s) s

/-- When a group's last run on its core ended; 0 where it has had none there. -/
def Group.ranHere (g : Group) : Nat :=
  let n := Nat.max g.sa.lastEnd g.sc.lastEnd
  if g.since < n then n else 0

/-- The quads keep when the contexts of some groups ran there last: the groups go (16 R424). -/
def State.noteRan (s : State) (gs : List Group) : State :=
  gs.foldl (fun s g => s.modQuad g.quad (fun x =>
    { x with ran := x.ran.set g.context (Nat.max (x.ran.getD g.context 0) g.ranHere) })) s

/-- When a context ran last on a quad: now, or when the last run of its groups there ended (16 R424). -/
def State.lastRan (s : State) (q ctx : Nat) : Nat :=
  if s.contextRuns ctx q then s.units + 1
  else s.groups.foldl (fun m e => if e.2.context = ctx && e.2.quad = q then Nat.max m e.2.ranHere else m)
    ((s.quad q).ran.getD ctx 0)

/-- The tables of a context are read back from its master copy (16 R424; 17 R461). -/
def State.readMaster (s : State) (ctx : Nat) : State :=
  match (s.dirEntries (ctx % 65)).find? (fun e => e.kind == 4 && (s.context ctx).master == some e.index) with
  | none => s
  | some e =>
    let rd := s.reader ((s.fn (ctx % 65)).pool + e.first * chunkSize)
    let c := (List.range 4).foldl (fun (c : Context) t =>
      (c.setRoots t ((List.range 512).map (fun r => rd (4096 * t + 8 * r) 8))).setActs t
        ((List.range 256).map (fun k => (BitVec.ofNat 32 (rd (0x4000 + 2048 * t + 8 * k) 4),
          BitVec.ofNat 32 (rd (0x4000 + 2048 * t + 8 * k + 4) 4))))) (s.context ctx)
    { s with contexts := s.contexts.set ctx c }

/-- A request of a context uses its table set on a quad, claiming, of two that others hold, that of the context that ran
least recently (16 R424). -/
def State.useTables (s : State) (q ctx : Nat) : State :=
  match (s.quad q).sets with
  | [a, b] =>
    if a = ctx ∨ b = ctx then s
    else (s.modQuad q (fun x => { x with sets := [if s.lastRan q b < s.lastRan q a then a else b, ctx] })).readMaster ctx
  | l => if l.contains ctx then s else (s.modQuad q (fun x => { x with sets := l ++ [ctx] })).readMaster ctx

end Sys2Proof.Machine
end

