-- ==== Sys2Proof/Machine/Epilogue.lean ====
section
/-! DEFINITION. The arithmetic of a quad: matrix products, scales, VQ2 weights and the epilogue (02 R56 to R67;
10 R280 to R283; 11 R293 to R295). -/

namespace Sys2Proof.Machine

open Sys2Proof

/-! Element formats (11 Table 11.2). -/

/-- K of an MMA opcode. -/
def mmaK (op : Nat) : Nat := if op = 0x64 ∨ op = 0x65 then 32 else if op = 0x68 ∨ op = 0x69 then 128 else 64

/-- Bytes of a row of B. -/
def mmaRowBytes (op : Nat) : Nat := if op = 0x64 ∨ op = 0x65 then 64 else if op = 0x68 then 16 else 32

/-- The element format of B, and of A but for .vq2; none for .i8. -/
def mmaFmt (op : Nat) : Option FFmt :=
  if op = 0x64 then some .bf16 else if op = 0x65 then some .f16 else if op = 0x66 then some .e4m3
  else if op = 0x67 then some .e5m2 else if op = 0x68 then some .e2m1 else if op = 0x69 then some .e4m3 else none

/-- `n` elements of `w` bits of a number, lowest first. -/
def elementsOf (w : Nat) : Nat → Nat → List Nat
  | 0, _ => []
  | n + 1, x => x % 2 ^ w :: elementsOf w n (x / 2 ^ w)

/-- The eight weights of a VQ2 index (02 R58). -/
def vq2Weights (c : Context) (tsel index : Nat) : List FpVal :=
  let row := c.root tsel (index / 2 ^ 7 % 512)
  let n := popcountNat 7 index
  let s7 := (n + row / 2 ^ 32) % 2
  (List.range 8).map (fun i =>
    let s := if i < 7 then index / 2 ^ i % 2 else s7
    .num ⟨s == 1, row / 16 ^ i % 16, -1⟩)

/-- The values of a lane's A row, from its 16 registers. -/
def mmaARow (c : Context) (op tsel : Nat) (regs : List Nat) : List FpVal :=
  if op = 0x69 then regs.flatMap (fun r => vq2Weights c tsel (r % 2 ^ 16))
  else
    match mmaFmt op with
    | some f => regs.flatMap (fun r => (elementsOf f.bits (32 / f.bits) r).map f.decode)
    | none => []

/-- The values of a row of B. -/
def mmaBRow (op : Nat) (bytes : List Byte) : List FpVal :=
  match mmaFmt op with
  | some f => (elementsOf f.bits 32 (natOfBytes bytes)).map f.decode
  | none => []

/-- The INT8 values of a lane's A row or of a row of B. -/
def int8Row (n x : Nat) : List Int := (elementsOf 8 n x).map (signedOf 8)

/-- A UE5M3 scale; none for the reserved 0xFF (02 R61). -/
def ue5m3 (x : Nat) : Option Exact :=
  if x = 0xFF then none
  else if x / 8 = 0 then some ⟨false, x % 8, -17⟩
  else some ⟨false, 8 + x % 8, (x / 8 : Int) - 18⟩

/-- The exact sum of a list of values, the first alone when it is the only one. -/
def exactSum : List FpVal → FpVal
  | [] => .num (Exact.zero false)
  | x :: xs => xs.foldl (fun s y => (fpAdd (.mode .rn) s y).1) x

/-- One element of a floating-point pass, as FP32 bits (02 R62, R66). -/
def passElement (a b : List FpVal) (scale : Option (Nat × Nat)) (cval : Nat) : Nat :=
  let p := exactSum ((a.zip b).map (fun e => (fpMul e.1 e.2).1))
  let q : FpVal :=
    match scale with
    | none => p
    | some (r, c) =>
      (match ue5m3 r, ue5m3 c with
       | some x, some y => (fpMul (.num (x.mul y)) p).1
       | _, _ => .nan false)
  (FFmt.f32.round (.mode .rn) false false (fpAdd (.mode .rn) (FFmt.f32.decode cval) q).1).1

/-- One element of an .i8 pass (02 R67). -/
def passInt (a b : List Int) (cval : Nat) : Nat :=
  wrapNat 32 ((a.zip b).foldl (fun s e => s + e.1 * e.2) (cval : Int))

/-! The epilogue (10 Table 10.5, R282). -/

/-- A field of the configuration. -/
def epiField (e : BitVec 160) (hi lo : Nat) : Nat := e.toNat / 2 ^ lo % 2 ^ (hi + 1 - lo)

/-- The mask step is on. -/
def enMask (e : BitVec 4) : Bool := e.getLsbD 3
/-- The bias step is on. -/
def enBias (e : BitVec 4) : Bool := e.getLsbD 2
/-- The activation step is on. -/
def enAct (e : BitVec 4) : Bool := e.getLsbD 1
/-- The requantisation step is on. -/
def enQuant (e : BitVec 4) : Bool := e.getLsbD 0

/-- BIASROW. -/
def epiBiasRow (e : BitVec 160) : Nat := epiField e 31 20

/-- QFMT. -/
def epiQfmt (e : BitVec 160) : Nat := epiField e 16 15

/-- The rows that the bias step reads. -/
def biasRows (e : BitVec 160) (en : BitVec 4) : List Nat := if enBias en then [epiBiasRow e] else []

/-- An INT32 element as FP32 bits, by .rn. -/
def intToF32 (x : Nat) : Nat := (FFmt.f32.round (.mode .rn) false false (.num (Exact.ofInt (signedOf 32 x) 0))).1

/-- The entry that the activation step selects: floor and clamp of the exact index. -/
def actIndex (e : BitVec 160) (y : Nat) : Nat :=
  let d := (fpAdd (.mode .rn) (FFmt.f32.decode y) (FFmt.f32.decode (epiField e 127 96)).negate).1
  match (fpMul d (FFmt.f32.decode (epiField e 95 64))).1 with
  | .nan _ => 0
  | .inf neg => if neg then 0 else 255
  | .num x => (max 0 (min 255 x.floor)).toNat

/-- Mask, bias and activation on one FP32 element. -/
def epiSteps (c : Context) (e : BitVec 160) (en : BitVec 4) (side : Bool) (bias y : Nat) : Nat :=
  if enMask en && !side then epiField e 159 128
  else
    let y := if enBias en then
        (FFmt.f32.round (.mode .rn) false false
          (fpAdd (.mode .rn) (FFmt.f32.decode y) (FFmt.f32.decode bias)).1).1
      else y
    if enAct en then
      let a := c.act (epiField e 18 17) (actIndex e y)
      (FFmt.f32.round (.mode .rn) false false
        (fpFma (.mode .rn) (FFmt.f32.decode a.1.toNat) (FFmt.f32.decode y) (FFmt.f32.decode a.2.toNat)).1).1
    else y

/-- The rounding mode of two bits (02 Table 2.6). -/
def modeOf (n : Nat) : RMode := match n with | 0 => .rn | 1 => .rz | 2 => .ru | _ => .rd

/-- Requantisation of an FP32 element: its QFMT encoding. -/
def requantise (e : BitVec 160) (y : Nat) : Nat :=
  let p := (fpMul (FFmt.f32.decode y) (FFmt.f32.decode (epiField e 63 32))).1
  let m := modeOf (epiField e 14 13)
  match epiQfmt e with
  | 0 => (FFmt.e4m3.round (.mode m) true false p).1
  | 2 => (FFmt.bf16.round (.mode m) true false p).1
  | _ =>
    (match p with
     | .nan _ => 0
     | .inf neg => if neg then 0x80 else 0x7F
     | .num x => wrapNat 8 (clampInt 8 true (x.roundToInt m)))

/-- The exact FP32 value of a QFMT encoding (10 R283). -/
def requantF32 (e : BitVec 160) (x : Nat) : Nat :=
  let v : FpVal := match epiQfmt e with
    | 0 => FFmt.e4m3.decode x
    | 2 => FFmt.bf16.decode x
    | _ => .num (Exact.ofInt (signedOf 8 x) 0)
  (FFmt.f32.round (.mode .rn) false false v).1

/-- The width in bytes of a delivered element. -/
def deliveredWidth (e : BitVec 160) (en : BitVec 4) : Nat := if enQuant en then (if epiQfmt e = 2 then 2 else 1) else 4

/-- The bias element of tile row `i` at store column `c`. -/
def State.biasOf (s : State) (q : Nat) (e : BitVec 160) (i c : Nat) : Nat :=
  let r := s.accRow q (epiBiasRow e)
  let n := if epiField e 19 19 = 1 then c else i % 32
  (r.data.toList.getD n 0).toNat

/-- The epilogue of one element of a pass, written back as FP32 bits. -/
def State.epiPass (s : State) (q : Nat) (c : Context) (e : BitVec 160) (en : BitVec 4) (i r col y : Nat) : Nat :=
  let y := epiSteps c e en ((s.accRow q r).side.getLsbD col) (s.biasOf q e i col) y
  if enQuant en then requantF32 e (requantise e y) else y

/-- An element as MDRAIN delivers it. -/
def State.epiDrain (s : State) (q : Nat) (c : Context) (e : BitVec 160) (en : BitVec 4) (int : Bool) (i r col : Nat) :
    Nat :=
  let x := (((s.accRow q r).data).toList.getD col 0).toNat
  if en = 0 then x
  else
    let y := epiSteps c e en ((s.accRow q r).side.getLsbD col) (s.biasOf q e i col) (if int then intToF32 x else x)
    if enQuant en then requantise e y else y

end Sys2Proof.Machine
end

