-- ==== Sys2Proof/Machine/Matrix.lean ====
section
/-! DEFINITION. Matrix and cluster instructions: their requests to a quad's reservation table, waits and cluster
barriers (10 R262 to R270, R284 to R287; 11). -/

namespace Sys2Proof.Machine

open Sys2Proof

/-! Operands of format FMM (11 R289, R290). -/

/-- The group of the run that issues, as an instruction of one group sees it. -/
def State.curCtx (s : State) : Option Ctx :=
  (s.runs.find s.cur).bind (fun r => (r.members.filterMap (s.ctx r)).head?)

/-- DK as an operand. -/
def dkOp (dk : BitVec 5) : Operand := op32 (0x40 + dk.setWidth 7)

/-- BK as a pair. -/
def bkOp (bk : BitVec 5) : Operand := op64 (0x40 + bk.setWidth 7)

/-- The pitch register of BK. -/
def pitchOp (bk : BitVec 5) : Operand := op32 (0x42 + bk.setWidth 7)

/-- The registers of a block, as operands; none for a code that starts no block. -/
def blockOps (a : Code) (n : Nat) : List Operand :=
  if a.toNat + n ≤ 0x40 then (List.range n).map (fun i => op32 (a + BitVec.ofNat 7 i)) else []

/-- A block of registers is illegal: its code, or VREGS. -/
def blockBad (vregs : Nat) (a : Code) (n : Nat) : Bool := decide (0x40 ≤ a.toNat) || decide (vregs < a.toNat + n)

/-- A block holds a register of the other stream. -/
def blockForeign (g : Group) (a : Code) : Bool := !g.trapMode && decide (a.toNat < 0x40) && decide (a.toNat < g.cfg.aregs)

/-- The row and column of an accumulator address (10 Table 10.2). -/
def accAddr (x : Nat) : Nat × Nat := (x % 4096, x / 2 ^ 16 % 32)

/-- The store row of tile row `i`. -/
def tileRow (row i : Nat) : Nat := (row + i) % 4096

/-- The quarter of a home position. -/
def quarterMask (q : Nat) : Word := 0xFF#32 <<< (8 * q)

/-- The quarters that hold an active lane. -/
def quartersOf (m : Word) : List Nat := (List.range 4).filter (fun q => m &&& quarterMask q != 0)

/-! Requests (10 R266, R267). -/

/-- A new entry of a group. -/
def REntry.new (s : State) (c : Ctx) (acc : Nat) (mask : Word) (kind : EntryKind) : REntry :=
  { quad := c.g.quad, gid := c.gid, op := 0, prio := c.g.cfg.prio, cycle := s.dieCycle c.g.die, row := (accAddr acc).1,
    col := (accAddr acc).2, mask := mask, epi := c.g.epi, kind := kind, granted := false, blocked := false, chunks := [], moved := 0 }

/-- The entry covers a quarter (10 R266). -/
def REntry.covers (e : REntry) (q : Nat) : Bool :=
  match e.kind with
  | .pass _ | .mzero => e.mask &&& quarterMask q != 0
  | _ => true

/-- Two entries cover a common quarter. -/
def REntry.meets (a b : REntry) : Bool := (List.range 4).any (fun q => a.covers q && b.covers q)

/-- R268 allows an entry: a pass waits for older entries to be granted or performed, any other for older entries to
complete. -/
def State.inOrder (s : State) (id : Nat) (e : REntry) : Bool :=
  match e.kind with
  | .pass _ => s.entries.all (fun x => decide (id ≤ x.1) || x.2.gid != e.gid || x.2.granted || !x.2.meets e)
  | _ => s.entries.all (fun x => decide (id ≤ x.1) || x.2.gid != e.gid || !x.2.meets e)

/-- Change the pass of an entry. -/
def REntry.modPass (e : REntry) (f : PassInfo → PassInfo) : REntry :=
  match e.kind with
  | .pass p => { e with kind := .pass (f p) }
  | _ => e

/-- Two pass entries have the same key (10 R271). -/
def State.sameKey (s : State) (a b : REntry) : Bool :=
  match a.kind, b.kind, s.groups.find a.gid, s.groups.find b.gid with
  | .pass p, .pass q, some g, some h =>
    a.quad == b.quad && p.op == q.op && p.scratchB == q.scratchB && p.base == q.base && p.pitch == q.pitch &&
      p.cs == q.cs && p.csel == q.csel && p.tsel == q.tsel && (if p.scratchB then g.team == h.team else g.fn == h.fn)
  | _, _, _, _ => false

/-- Four entries with an entry's key are in the table and wait for a grant that R268 allows. -/
def State.fourWait (s : State) (e : REntry) : Bool :=
  decide (4 ≤ s.entries.countP (fun x => s.sameKey e x.2 && !x.2.granted && s.inOrder x.1 x.2))

/-- Entries of a quad with four of their key in the table and eligible are ready from the next cycle on, whether R268 allows
them or not (10 R271). -/
def State.noteEligible (s : State) (q : Nat) : State :=
  { s with entries := s.entries.map (fun x =>
      (x.1, if x.2.quad = q && s.fourWait x.2 then
          x.2.modPass (fun p => { p with readyAt := p.readyAt.or (some (s.dieCycle (q / 24) + 1)) }) else x.2)) }

/-- The instruction and its entries enter the table in the issue cycle. -/
def State.submit (s : State) (c : Ctx) (o : VOp) (es : List REntry) : State :=
  let id := s.nextId
  let s := (s.addOp o).useTables c.g.quad c.g.context
  (es.foldl (fun s e => { s with nextId := s.nextId + 1, entries := s.entries.set s.nextId { e with op := id } }) s).noteEligible c.g.quad

/-- Room in the reservation table of a quad. -/
def State.tableRoom (s : State) (q : Nat) : Nat := 32 - s.entries.countP (fun e => e.2.quad == q)

/-- The verdict of a request that is no variable-latency instruction (03 R91): it waits for room, then it enters. -/
def State.entryVerdict (s : State) (c : Ctx) (n : Nat) (eff : State → State) : Verdict :=
  if s.tableRoom c.g.quad < n then .wait .table else .go eff none

/-- The verdict of a request: it waits for room, then it enters. -/
def State.requestVerdict (s : State) (c : Ctx) (n : Nat) (tk : BitVec 3) (eff : State → State) : Verdict :=
  if s.tableRoom c.g.quad < n then .wait .table
  else match s.varWait c c.act tk.toNat with
    | some w => .wait w
    | none => .go eff none

/-! Addresses of engine threads (11 R289, R296, R304, R306; 10 R277). -/

/-- The 16-byte chunks of rows at a pitch. -/
def chunkAddrs (base pitch rows bytes : Nat) : List Nat :=
  (List.range rows).flatMap (fun k => (List.range (bytes / 16)).map (fun i => base + k * pitch + 16 * i))

/-- Translate or check the chunks of a matrix instruction: their places, or the verdict that stops it. A pitch that is not
aligned reports the base address, and of several chunks that fault the first in row order is reported (11 R293, R296;
log 131). -/
def State.matrixPlaces (s : State) (c : Ctx) (need : Need) (scratch : Bool) (align base pitch : Nat) (vas : List Nat) :
    Except Verdict (List Nat) :=
  let write := need == .write
  let fault (x : Cause) (a : Nat) : Verdict := .fault ⟨x, .matrix, write, a⟩
  if base % align ≠ 0 ∨ pitch % 16 ≠ 0 then .error (fault .misaligned base)
  else if scratch then
    let size := ((s.teams.find c.g.team).map (fun t => t.scratchSize)).getD 0
    if 2 ^ 32 ≤ base then .error (fault .permission base)
    else
      match vas.find? (fun a => decide (size < a + 16)) with
      | some a => .error (fault .permission a)
      | none => .ok vas
  else
    let xs := vas.map (fun a =>
      let a := a % 2 ^ 64
      (a, s.translate c.g.die c.g.fn c.g.part (.slot s.cur) need a))
    match xs.find? (fun e => match e.2 with | .ok _ => false | .fault _ => false | _ => true) with
    | some e => .error (.waitDo .translation (fun s => s.request c.g.die c.g.fn (.slot s.cur) e.2))
    | none =>
      match xs.find? (fun e => match e.2 with | .ok _ => false | _ => true) with
      | some (a, .fault x) => .error (fault x a)
      | _ => .ok (xs.filterMap (fun e => match e.2 with | .ok k => some k | _ => none))

/-! MMA (11 R292 to R296). -/

/-- The latch hits a quarter (10 R270). -/
def Latch.hits (l : Latch) (q : Nat) : Bool := l.valid.toList.getD q false

/-- The latch holds another block or opcode for a covered quarter. -/
def Latch.clashes (l : Latch) (a : Code) (op : Nat) (m : Word) : Bool :=
  (quartersOf m).any (fun q => l.hits q) && (l.a != a || l.op != op)

/-- What MMA names in a group. -/
def mmaUses (m : MmaOp) (op : Nat) (c : Ctx) : Uses :=
  let miss := (quartersOf c.act).any (fun q => !c.g.latch.hits q)
  let rs : Code := m.rs.setWidth 7
  let cs : Code := m.cs.setWidth 7
  let vr := c.g.cfg.vregs
  { srcs := [dkOp m.dk, bkOp m.bk, pitchOp m.bk] ++ (if miss then blockOps m.a 16 else []) ++
      (if m.scale then [op32 rs, op32 cs] else []),
    compOnly := true
    laneReads := if m.scale then [(m.rs.toNat, 0xFF), (m.cs.toNat, BitVec.allOnes 32)] else []
    badOperand := decide (28 < m.bk.toNat) || blockBad vr m.a 16 || (m.scale && (blockBad vr rs 1 || blockBad vr cs 1)) ||
      c.g.latch.clashes m.a op c.act || (enQuant m.epi && epiQfmt c.g.epi == 3),
    badOwner := blockForeign c.g m.a || (m.scale && (blockForeign c.g rs || blockForeign c.g cs)) }

/-- The A rows of a pass: latched rows in the quarters that hit, registers elsewhere. -/
def Ctx.aRows (c : Ctx) (a : Code) : Vector Row 16 :=
  Vector.ofFn (fun r => Vector.ofFn (fun L =>
    if c.g.latch.hits (L.val / 8) then c.g.latch.rows[r][L] else c.g.vElem (a.toNat + r.val) L))

/-- The latch after an MMA; rows of lanes that were inactive are free values (log 7). -/
def Ctx.newLatch (c : Ctx) (m : MmaOp) (op free : Nat) : Latch :=
  let l := c.g.latch
  let cover (q : Nat) : Bool := (quartersOf c.act).contains q
  if m.reusea then
    { valid := Vector.ofFn (fun q => l.valid[q] || cover q.val), a := m.a, op := op,
      rows := Vector.ofFn (fun r => Vector.ofFn (fun L =>
        if cover (L.val / 8) && !l.hits (L.val / 8) then
          (if laneIn c.act L then c.g.vElem (m.a.toNat + r.val) L else Config.freeWord (free + 32 * r.val + L.val))
        else l.rows[r][L])) }
  else { l with valid := Vector.ofFn (fun q => l.valid[q] && !cover q.val) }

/-- Issue an MMA. -/
def State.issueMma (s : State) (m : MmaOp) (op : Nat) : State :=
  let u := match s.curCtx with | some c => mmaUses m op c | none => {}
  s.issue 2 u (fun _ => none) [] false (fun s c =>
    if c.act = 0 then .go (fun s => s) none
    else
      let v := c.values u (lowestLane c.act)
      let base := v.getD 1 0
      let pitch := v.getD 2 0
      match s.matrixPlaces c .read m.bsp 16 base pitch (chunkAddrs base pitch (mmaK op) (mmaRowBytes op)) with
      | .error e => e
      | .ok phys =>
        let qs := quartersOf c.act
        s.requestVerdict c qs.length m.tk (fun s =>
          let es := qs.map (fun q =>
            REntry.new s c (v.getD 0 0) (c.act &&& quarterMask q) (.pass
              { op := op, quarter := q, lanes := c.act &&& quarterMask q, rows := c.aRows m.a, scaled := m.scale,
                rsRow := Vector.ofFn (fun L => c.g.vElem m.rs.toNat L), csRow := Vector.ofFn (fun L => c.g.vElem m.cs.toNat L),
                cs := m.cs.toNat, csel := m.csel.toNat, tsel := m.tsel.toNat, scratchB := m.bsp, base := base,
                pitch := pitch, phys := phys, enables := m.epi, readyAt := none, promoted := false, waited := 0 }))
          let l := c.newLatch m op s.free
          let s := s.submit c (VOp.start s c u .request m.la m.tk) es
          { s.modGroup c.gid (fun g => { g with latch := l }) with free := s.free + 512 }))

/-- MMA.bf16. -/
def execMmaBf16 (m : MmaOp) (s : State) : Host.Outcome State Fault Refusal := .next (s.issueMma m 0x64)
/-- MMA.f16. -/
def execMmaF16 (m : MmaOp) (s : State) : Host.Outcome State Fault Refusal := .next (s.issueMma m 0x65)
/-- MMA.e4m3. -/
def execMmaE4m3 (m : MmaOp) (s : State) : Host.Outcome State Fault Refusal := .next (s.issueMma m 0x66)
/-- MMA.e5m2. -/
def execMmaE5m2 (m : MmaOp) (s : State) : Host.Outcome State Fault Refusal := .next (s.issueMma m 0x67)
/-- MMA.e2m1. -/
def execMmaE2m1 (m : MmaOp) (s : State) : Host.Outcome State Fault Refusal := .next (s.issueMma m 0x68)
/-- MMA.vq2. -/
def execMmaVq2 (m : MmaOp) (s : State) : Host.Outcome State Fault Refusal := .next (s.issueMma m 0x69)
/-- MMA.i8. -/
def execMmaI8 (m : MmaOp) (s : State) : Host.Outcome State Fault Refusal := .next (s.issueMma m 0x6A)

/-! Row instructions (11 R297 to R300, R308). -/

/-- An operand that must be a uniform register. -/
def notUniformReg (c : Code) : Bool := match codeNames c with | .k _ => false | _ => true

/-- MZERO. -/
def execMzero (a : Code) (ra : Bool) (s : State) : Host.Outcome State Fault Refusal :=
  let u : Uses := { srcs := [op32 a], compOnly := true, badType := notUniformReg a }
  .next (s.issue 1 u (fun _ => none) (pinRows [(op32 a, ra)]) false (fun s c =>
    if c.act = 0 then .go (fun s => s) none
    else
      let acc := (c.values u (lowestLane c.act)).getD 0 0
      let qs := quartersOf c.act
      s.entryVerdict c qs.length (fun s =>
        s.submit c { VOp.start s c u .request 0 0 with counted := false } (qs.map (fun q => REntry.new s c acc (c.act &&& quarterMask q) .mzero)))))

/-- MWAIT: the requests pending now hold the group's next compute clause. -/
def execMwait (s : State) : Host.Outcome State Fault Refusal :=
  .next (s.issue 1 { compOnly := true } (fun _ => none) [] false (fun _ c =>
    if c.act = 0 then .go (fun s => s) none
    else .go (fun s => s.modGroup c.gid (fun g =>
      { g with mwait := (s.ops.filter (fun e => e.2.gid == c.gid && e.2.kind == .request)).map Prod.fst })) none))

/-- MTREE. -/
def execMtree (a b : Code) (ra rb : Bool) (s : State) : Host.Outcome State Fault Refusal :=
  let u : Uses := { srcs := [op32 a, op32 b], compOnly := true, cover := true, whole := true, badType := notUniformReg b }
  .next (s.issue 1 u (fun _ => none) (pinRows [(op32 a, ra), (op32 b, rb)]) false (fun s c =>
    if c.act = 0 then .go (fun s => s) none
    else
      let acc := (c.values u (lowestLane c.act)).getD 1 0
      let parents : Row := Vector.ofFn (fun L =>
        if laneIn c.act L then BitVec.ofNat 32 ((c.values u L).getD 0 0) else BitVec.ofNat 32 L.val)
      s.entryVerdict c 1 (fun s =>
        ((s.modGroup c.gid (fun g => g.pop u c.act)).submit c { VOp.start s c u .request 0 0 with counted := false }
          [REntry.new s c acc c.act (.mtree parents)]))))

/-- The configuration with some of its words replaced; bits [12:0] are reserved (10 Table 10.5). -/
def epiWrite (e : BitVec 160) (ws : List (Nat × Word)) : BitVec 160 :=
  let put (e : BitVec 160) (w : Nat × Word) : BitVec 160 :=
    (e &&& ~~~(BitVec.ofNat 160 (0xFFFFFFFF * 2 ^ (32 * w.1)))) ||| BitVec.ofNat 160 (w.2.toNat * 2 ^ (32 * w.1))
  ws.foldl put e &&& ~~~(BitVec.ofNat 160 0x1FFF)

/-- What MEPI names: the words that its mask selects; a register below k16 belongs to the address stream whatever the
mask (11 R297, R300). -/
def mepiUses (a : Code) (wmask : BitVec 5) (handler : Bool) : Uses :=
  { srcs := ((List.range 5).filter (fun w => wmask.getLsbD w)).map (fun w => op32 (a + BitVec.ofNat 7 w)), compOnly := true,
    group := true, badOperand := (match codeNames a with | .k n => decide (27 < n) | _ => true),
    badOwner := !handler && (match codeNames a with | .k n => decide (n < 16) | _ => false) }

/-- MEPI. -/
def execMepi (a : Code) (ra : Bool) (wmask : BitVec 5) (s : State) : Host.Outcome State Fault Refusal :=
  let ws := (List.range 5).filter (fun w => wmask.getLsbD w)
  let u := mepiUses a wmask ((s.curCtx.map Ctx.handler).getD false)
  .next (s.issue 2 u (fun _ => none) (pinRows [(op32 a, ra)]) false (fun _ c =>
    if c.act = 0 then .go (fun s => s) none
    else
      let vs := (c.values u (lowestLane c.act)).map (BitVec.ofNat 32)
      .go (fun s => s.modGroup c.gid (fun g => { g with epi := epiWrite g.epi (ws.zip vs) })) none))

/-! MLD and MST (11 R301 to R304). -/

/-- What MLD or MST names in a group: `n` rows. -/
def xferUses (x : XferOp) (c : Ctx) (store : Bool) : Uses :=
  let n := x.nrows.toNat + 1
  match x.space with
  | .reg a =>
    { srcs := dkOp x.dk :: (if store then [] else blockOps a n), compOnly := true,
      alsoWrites := if store then (blockOps a n).flatMap Operand.regs else [],
      badOperand := blockBad c.g.cfg.vregs a n, badOwner := blockForeign c.g a }
  | .global bk | .scratch bk =>
    { srcs := [dkOp x.dk, bkOp bk, pitchOp bk], compOnly := true, badOperand := decide (28 < bk.toNat) }

/-- The address space of a transfer is team scratch. -/
def spaceIsScratch (sp : XferSpace) : Bool :=
  match sp with
  | .scratch _ => true
  | _ => false

/-- MLD. -/
def execMld (x : XferOp) (s : State) : Host.Outcome State Fault Refusal :=
  let n := x.nrows.toNat + 1
  let u := match s.curCtx with | some c => xferUses x c false | none => {}
  .next (s.issue 2 u (fun _ => none) [] false (fun s c =>
    if c.act = 0 then .go (fun s => s) none
    else
      let v := c.values u (lowestLane c.act)
      let enter (kind : EntryKind) : Verdict :=
        s.requestVerdict c 1 x.tk (fun s =>
          s.submit c (VOp.start s c u .request x.la x.tk) [REntry.new s c (v.getD 0 0) c.act kind])
      match x.space with
      | .reg a => enter (.mldReg ((List.range n).map (fun r => Vector.ofFn (fun L => c.g.vElem (a.toNat + r) L))))
      | sp =>
        match s.matrixPlaces c .read (spaceIsScratch sp) 16 (v.getD 1 0) (v.getD 2 0)
            (chunkAddrs (v.getD 1 0) (v.getD 2 0) n 128) with
        | .error e => e
        | .ok phys => enter (.mldMem (spaceIsScratch sp) phys)))

/-- MST. -/
def execMst (x : XferOp) (s : State) : Host.Outcome State Fault Refusal :=
  let n := x.nrows.toNat + 1
  let u := match s.curCtx with | some c => xferUses x c true | none => {}
  .next (s.issue 2 u (fun _ => none) [] false (fun s c =>
    if c.act = 0 then .go (fun s => s) none
    else
      let v := c.values u (lowestLane c.act)
      let enter (o : VOp → VOp) (kind : EntryKind) : Verdict :=
        s.requestVerdict c 1 x.tk (fun s =>
          s.submit c (o (VOp.start s c u .request x.la x.tk)) [REntry.new s c (v.getD 0 0) c.act kind])
      match x.space with
      | .reg a =>
        enter (fun o => o)
          (.mstReg a.toNat n)
      | sp =>
        match s.matrixPlaces c .write (spaceIsScratch sp) 16 (v.getD 1 0) (v.getD 2 0)
            (chunkAddrs (v.getD 1 0) (v.getD 2 0) n 128) with
        | .error e => e
        | .ok phys => enter (fun o => o) (.mstMem (spaceIsScratch sp) phys)))

/-! MDRAIN and the table loads (11 R305 to R307). -/

/-- The partition and the tenant of a function own a copy channel of a die (16 R400). -/
def State.ownsCq (s : State) (part fn die n : Nat) : Bool :=
  ((s.part part).map (fun p => p.cqmask.testBit (16 * die + n))).getD false &&
    (fn == pfId || (s.fn fn).vfcq.getLsbD (16 * die + n))

/-- MDRAIN. The permission fault of a channel that the tenant does not own has kind matrix, sets WRITE and names the
shape record's address, and so does a shape that is not aligned, with WRITE clear (11 R305; logs 113, 131). -/
def execMdrain (x : DrainOp) (s : State) : Host.Outcome State Fault Refusal :=
  let bad := match s.curCtx with | some c => enQuant x.epi && epiQfmt c.g.epi == 3 | none => false
  let u : Uses := { srcs := [dkOp x.dk, bkOp x.bk], compOnly := true, badOperand := bad || decide (30 < x.bk.toNat) }
  .next (s.issue 2 u (fun _ => none) [] false (fun s c =>
    if c.act = 0 then .go (fun s => s) none
    else
      let v := c.values u (lowestLane c.act)
      let shape := v.getD 1 0
      if shape % 64 ≠ 0 then .fault ⟨.misaligned, .matrix, false, shape⟩
      else if !s.ownsCq c.g.part c.g.fn c.g.die x.ch.toNat then .fault ⟨.permission, .matrix, true, shape⟩
      else
        s.requestVerdict c 1 x.tk (fun s =>
          s.submit c (VOp.start s c u .request x.la x.tk)
            [REntry.new s c (v.getD 0 0) c.act
              (.mdrain shape x.ch.toNat (x.nrows.toNat + 1) x.tileadd x.int x.epi)])))

/-- CBLD or ACTLD: a table of `bytes` bytes; their faults have kind matrix (11 R306; log 131). -/
def State.issueTable (s : State) (x : TableOp) (act : Bool) (bytes : Nat) : State :=
  let u : Uses := { srcs := [bkOp x.bk], compOnly := true, badOperand := decide (30 < x.bk.toNat) }
  s.issue 2 u (fun _ => none) [] false (fun s c =>
    if c.act = 0 then .go (fun s => s) none
    else
      let base := (c.values u (lowestLane c.act)).getD 0 0
      match s.matrixPlaces c .read false 64 base 0 (chunkAddrs base 0 1 bytes) with
      | .error e => e
      | .ok phys =>
        s.requestVerdict c 1 x.tk (fun s =>
          s.submit c (VOp.start s c u .request x.la x.tk) [REntry.new s c 0 c.act (.table act x.tsel.toNat phys)]))

/-- CBLD. -/
def execCbld (x : TableOp) (s : State) : Host.Outcome State Fault Refusal := .next (s.issueTable x false 4096)
/-- ACTLD. -/
def execActld (x : TableOp) (s : State) : Host.Outcome State Fault Refusal := .next (s.issueTable x true 2048)

/-! Cluster barriers (10 R286; 11 R309). -/

/-- What CBAR names. -/
def cbarUses (a : Code) : Uses :=
  { srcs := [op32 a], compOnly := true, cover := true, whole := true, badType := tyOf a != .uni }

/-- The number of a cluster barrier. -/
def cbarIx (n : Nat) : Fin 8 := ⟨n % 8, Nat.mod_lt _ (by decide)⟩

/-- The group has arrived at the barrier's current phase. -/
def State.cbarArrived (s : State) (gid : Nat) (g : Group) (n : Fin 8) : Bool :=
  ((s.gangs.find g.gang).map (fun k => k.cbar[n].arrived.contains gid)).getD false

/-- A group arrives at a cluster barrier. -/
def State.arriveCbar (s : State) (gid : Nat) (g : Group) (n : Fin 8) : State :=
  match s.gangs.find g.gang with
  | none => s
  | some k =>
    let b := k.cbar[n]
    let s := s.modGang g.gang (fun k => { k with cbar := k.cbar.set n { b with arrived := insertSorted b.arrived gid } })
    (s.modGroup gid (fun g => { g with cbarPhase := g.cbarPhase.set n (some b.phase) })).checkCbar g.gang n

/-- A group waits for the phase at which it last arrived, or for the phase in progress. -/
def State.waitCbar (s : State) (gid : Nat) (n : Fin 8) : State :=
  match s.groups.find gid with
  | none => s
  | some g =>
    let now := ((s.gangs.find g.gang).map (fun k => k.cbar[n].phase)).getD 0
    s.modGroup gid (fun g =>
      { g with cbarWait := g.cbarWait.filter (fun e => e.1 != n.val) ++ [(n.val, (g.cbarPhase[n]).getD now)] })

/-- Issue a CBAR: an arrival at a phase that the group has already arrived at waits for the phase to complete. -/
def State.issueCbar (s : State) (a : Code) (ra arrive wait : Bool) : State :=
  s.issue 1 (cbarUses a) (fun _ => none) (pinRows [(op32 a, ra)]) false (fun s c =>
    if c.act = 0 then .go (fun s => s) none
    else
      let n := cbarIx ((c.values (cbarUses a) (lowestLane c.act)).getD 0 0)
      if arrive && s.cbarArrived c.gid c.g n then .wait .other
      else
        .go (fun s =>
          let s := if arrive then s.arriveCbar c.gid c.g n else s
          if wait then s.waitCbar c.gid n else s) none)

/-- CBAR.arrive. -/
def execCbarArrive (a : Code) (ra : Bool) (s : State) : Host.Outcome State Fault Refusal :=
  .next (s.issueCbar a ra true false)
/-- CBAR.wait. -/
def execCbarWait (a : Code) (ra : Bool) (s : State) : Host.Outcome State Fault Refusal :=
  .next (s.issueCbar a ra false true)
/-- CBAR.arrive.wait. -/
def execCbarArriveWait (a : Code) (ra : Bool) (s : State) : Host.Outcome State Fault Refusal :=
  .next (s.issueCbar a ra true true)

end Sys2Proof.Machine
end

