-- ==== Sys2Proof/Machine/Quad.lean ====
section
/-! DEFINITION. What a quad does with the entries of its reservation table: passes, row requests, drains, table loads
and the wait for blocks (10 R264 to R285; 11 R291 to R307). -/

namespace Sys2Proof.Machine

open Sys2Proof

/-- The rows that a request touches (10 R264). -/
def REntry.rows (e : REntry) : List Nat :=
  let tile (n : Nat) : List Nat := (List.range n).map (tileRow e.row)
  let lanes : List Nat := (lanesOf e.mask).map (fun L => tileRow e.row L.val)
  match e.kind with
  | .pass p => lanes ++ biasRows e.epi p.enables
  | .mzero => lanes
  | .mtree _ => tile 32
  | .mldReg rs => tile rs.length
  | .mldMem _ as => tile (as.length / 8)
  | .mstReg _ n => tile n
  | .mstMem _ as => tile (as.length / 8)
  | .mdrain _ _ n _ _ en => tile n ++ biasRows e.epi en
  | .table _ _ _ => []

/-- The rows that a pass entry writes. -/
def REntry.dRows (e : REntry) : List Nat := (lanesOf e.mask).map (fun L => tileRow e.row L.val)

/-- The context that made a request. -/
def State.entryContext (s : State) (e : REntry) : Nat := ((s.groups.find e.gid).map Group.context).getD 0

/-- Change an entry. -/
def State.modEntry (s : State) (id : Nat) (f : REntry → REntry) : State := { s with entries := s.entries.modify id f }

/-- The recorder sees an entry: its grant, or its effect, in the order of its quad (19 R487). -/
def State.orderEntry (s : State) (kind : Nat) (e : REntry) : State :=
  match s.groups.find e.gid with
  | some g => s.order g kind e.quad (g.yEntry (lowestLane e.mask).val)
  | none => s

/-- An entry leaves the table; with the last entry of its instruction, the instruction completes. -/
def State.freeEntry (s : State) (id : Nat) : State :=
  match s.entries.find id with
  | none => s
  | some e =>
    let s := s.orderEntry 10 e
    let s := ({ s with entries := s.entries.drop id } : State).noteEligible e.quad
    if s.entries.any (fun x => x.2.op == e.op) then s.wake else s.finishOp e.op

/-- Perform an entry that its turn has come for and whose blocks its context owns or may take; an entry that meets a
block of another context waits (10 R264). -/
def State.performEntry (s : State) (id : Nat) (p : EntryKind → Bool) (f : State → REntry → State) : State :=
  match s.entries.find id with
  | none => s
  | some e =>
    if !(p e.kind) || e.blocked || !s.inOrder id e then s
    else
      let ctx := s.entryContext e
      if s.foreignBlocks e.quad ctx e.rows != [] then s.modEntry id (fun e => { e with blocked := true })
      else f (s.acquire e.quad ctx e.rows) e

/-! Engine reads and writes (10 R276, R278; 11 R304). -/

/-- Read bytes for an engine thread of a group's core. -/
def State.engineRead (s : State) (g : Group) (scratch : Bool) (a n : Nat) : List Byte × Bool × State :=
  if scratch then
    (match s.teams.find g.team with
     | some t =>
       (t.scratch.readN a n, (blocksOf a n).any (fun b => t.scratchPoison.contains b), s)
     | none => (List.replicate n 0, false, s))
  else (s.bytesAt a n, s.poisonIn a n, s.accessLine g a (g.yEntry 0) g.die (some g.core) false)

/-- Read a list of 16-byte chunks, in order. -/
def State.engineReadAll (s : State) (g : Group) (scratch : Bool) (as : List Nat) : List Byte × Bool × State :=
  as.foldl (fun (x : List Byte × Bool × State) a =>
    let r := x.2.2.engineRead g scratch a 16
    (x.1 ++ r.1, x.2.1 || r.2.1, r.2.2)) ([], false, s)

/-- Write 16 bytes for an engine thread, poisoned or not. -/
def State.engineWrite (s : State) (g : Group) (scratch : Bool) (a : Nat) (bs : List Byte) (poison : Bool) : State :=
  if scratch then
    s.modTeam g.team (fun t =>
      let clean := t.scratchPoison.filter (fun b => b != a / 16)
      { t with scratch := t.scratch.writeN a bs, scratchPoison := if poison then insertSorted clean (a / 16) else clean })
  else
    let s := (s.accessLine g a (g.yEntry 0) g.die (some g.core) true).writeBytes a bs
    if poison then s.writePoison a 16 else s

/-! Passes (10 R271 to R279). -/

/-- The pass of an entry. -/
def REntry.pass? (e : REntry) : Option PassInfo := match e.kind with | .pass p => some p | _ => none

/-- The pass entry waits for a grant, and R268 allows it; in replay its turn has come (19 R488). -/
def State.eligiblePass (s : State) (id : Nat) (e : REntry) : Bool :=
  (match e.kind with | .pass _ => true | _ => false) && !e.granted && s.inOrder id e &&
    ((s.groups.find e.gid).map (fun g => s.yTurn g 9 e.quad (g.yEntry (lowestLane e.mask).val))).getD true

/-- The entry is ready: it has been since four entries of its key stood eligible, or 16 cycles have passed (10 R271). -/
def State.passReadyNow (s : State) (e : REntry) : Bool :=
  match e.kind with
  | .pass p =>
    let now := s.dieCycle (e.quad / 24)
    decide (e.cycle + 16 ≤ now) || (p.readyAt.map (fun c => decide (c ≤ now))).getD false
  | _ => false

/-- PASS_READY: an entry whose time has come is ready from now on. -/
def execPassReady (entry : Nat) (s : State) : Host.Outcome State Fault Refusal :=
  match s.entries.find entry with
  | some e =>
    .next (if s.passReadyNow e then
        s.modEntry entry (fun e => e.modPass (fun p => { p with readyAt := p.readyAt.or (some (s.dieCycle (e.quad / 24))) })) else s)
  | none => .next s

/-- The core of an entry, by its index in the quad: row by row, a choice of the model (10 R272; log 109). -/
def State.coreIndex (s : State) (e : REntry) : Nat :=
  match s.groups.find e.gid with
  | some g => let c := g.core % 96; c / 12 % 2 * 2 + c % 12 % 2
  | none => 0

/-- The order of choice of R272: larger comes first. -/
def State.passKey (s : State) (e : REntry) : Nat × Nat × Nat × Nat :=
  match e.pass? with
  | some p => (if p.promoted then 8 else e.prio, e.cycle, s.coreIndex e, p.quarter)
  | none => (0, 0, 0, 0)

/-- One entry is chosen before another. -/
def chosenBefore (a b : Nat × Nat × Nat × Nat) : Bool :=
  if a.1 ≠ b.1 then decide (b.1 < a.1)
  else if a.2.1 ≠ b.2.1 then decide (a.2.1 < b.2.1)
  else if a.2.2.1 ≠ b.2.2.1 then decide (a.2.2.1 < b.2.2.1)
  else decide (a.2.2.2 < b.2.2.2)

/-- The first of a list in the order of choice; between two entries that R272 does not tell apart, the one of the lower
number (log 110). -/
def State.bestEntry (s : State) (es : List (Nat × REntry)) : Option (Nat × REntry) :=
  es.foldl (fun (best : Option (Nat × REntry)) e =>
    match best with
    | none => some e
    | some b => if chosenBefore (s.passKey e.2) (s.passKey b.2) then some e else some b) none

/-- The further entries of a pass: up to `n`, in the order of choice, none sharing a row with one already taken. -/
def State.fuse (s : State) : Nat → List (Nat × REntry) → List (Nat × REntry) → List (Nat × REntry)
  | 0, taken, _ => taken
  | n + 1, taken, pool =>
    let fit := pool.filter (fun e => !(taken.any (fun t => t.1 == e.1 || t.2.dRows.any (fun r => e.2.dRows.contains r))))
    match s.bestEntry fit with
    | some e => s.fuse n (taken ++ [e]) pool
    | none => taken

/-- Pass entries whose rows another context owns wait for the block. -/
def State.blockPasses (s : State) (q : Nat) : State :=
  { s with entries := s.entries.map (fun x =>
      if x.2.quad = q && s.eligiblePass x.1 x.2 && s.passReadyNow x.2 &&
          s.foreignBlocks q (s.entryContext x.2) x.2.rows != [] then (x.1, { x.2 with blocked := true })
      else x) }

/-- A pass was granted while the entry waited; the 256th promotes it (10 R273). -/
def PassInfo.passedBy (p : PassInfo) : PassInfo := { p with waited := p.waited + 1, promoted := p.promoted || decide (256 ≤ p.waited + 1) }

/-- PASS_GRANT: the engine of a quad grants one pass and reads its B, which may have to wait at its home (14 R384). -/
def execPassGrant (quad : Nat) (s : State) : Host.Outcome State Fault Refusal :=
  let now := s.dieCycle (quad / 24)
  if now < (s.quad quad).busyUntil then .next s
  else
    let s := s.blockPasses quad
    let pool := s.entries.filter (fun x => x.2.quad == quad && s.eligiblePass x.1 x.2 && !x.2.blocked)
    match s.bestEntry (pool.filter (fun x => s.passReadyNow x.2)) with
    | none => .next s
    | some e =>
      if (e.2.pass?.map (fun p => !p.scratchB && p.phys.any s.homeWaits)).getD false then
        .next ((e.2.pass?.map (fun p => p.phys.foldl (fun s k => s.waitHome (quad / 24) k) s)).getD s)
      else
      let same := pool.filter (fun x => s.sameKey e.2 x.2 && s.foreignBlocks quad (s.entryContext x.2) x.2.rows == [])
      let taken := s.fuse 3 [e] same
      let s1 := taken.foldl (fun s x =>
        ((s.acquire quad (s.entryContext x.2) x.2.rows).orderEntry 9 x.2).modEntry x.1 (fun e => { e with granted := true })) s
      match s1.groups.find e.2.gid, e.2.pass? with
      | some g, some p =>
        let r := s1.engineReadAll g p.scratchB p.phys
        -- the read is also that of every other entry taken, by its own core (10 R276, R278)
        let s2 := (taken.drop 1).foldl (fun s x =>
          match s.groups.find x.2.gid with
          | some h => (s.engineReadAll h p.scratchB p.phys).2.2
          | none => s) r.2.2
        let s2 := { s2 with
          passes := s2.passes.set s2.nextId ⟨quad, taken.map Prod.fst, r.1, r.2.1⟩
          nextId := s2.nextId + 1
          entries := s2.entries.map (fun (x : Nat × REntry) =>
            if x.2.quad = quad && !x.2.granted then (x.1, x.2.modPass PassInfo.passedBy) else x) }
        .next ((s2.modQuad quad (fun x => { x with busyUntil := now + 2 })).noteEligible quad)
      | _, _ => .next s

/-- PASS_PROMOTION (10 R273). -/
def execPassPromotion (entry : Nat) (s : State) : Host.Outcome State Fault Refusal :=
  .next (s.modEntry entry (fun e => e.modPass (fun p => if 256 ≤ p.waited then { p with promoted := true } else p)))

/-- The rows of B of a pass. -/
def splitRows (n : Nat) : Nat → List Byte → List (List Byte)
  | 0, _ => []
  | k + 1, bs => bs.take n :: splitRows n k (bs.drop n)

/-- The element of tile column `j` of lane `i` after a pass, before the epilogue. -/
def passValue (op : Nat) (a b : List FpVal) (ai bi : List Int) (scale : Option (Nat × Nat)) (cval : Nat) : Nat :=
  if op = 0x6A then passInt ai bi cval else passElement a b scale cval

/-- One row of a pass: the store row of lane `i` (11 R295). -/
def State.passRow (s : State) (ctx : Context) (e : REntry) (p : PassInfo) (bf : List (List FpVal)) (bi : List (List Int))
    (psn : Bool) (L : Fin 32) : Nat × AccRow :=
  let r := tileRow e.row L.val
  let old := s.accRow e.quad r
  let regs := p.rows.toList.map (fun x => (x[L]).toNat)
  let a := mmaARow ctx p.op p.tsel regs
  let ai := if p.op = 0x6A then regs.flatMap (int8Row 4) else []
  let rs := elementNat 8 (p.rsRow.toList.getD (L.val / 4) 0) (L.val % 4)
  let value (c : Fin 32) : Word :=
    let j := (c.val + 32 - e.col) % 32
    let cs := elementNat 8 (p.csRow.toList.getD j 0) p.csel
    let y := passValue p.op a (bf.map (fun row => row.getD j (.nan false))) ai (bi.map (fun row => row.getD j 0))
      (if p.scaled then some (rs, cs) else none) (old.data[c]).toNat
    let y := if p.enables = 0 then y
      else s.epiPass e.quad ctx e.epi p.enables L.val r c.val (if p.op = 0x6A then intToF32 y else y)
    BitVec.ofNat 32 y
  (r, { old with data := Vector.ofFn value, psn := psn })

/-- PASS_COMPLETE: the oldest pass of its quad writes D for every quarter it holds. -/
def execPassComplete (pass : Nat) (s : State) : Host.Outcome State Fault Refusal :=
  match s.passes.find pass with
  | none => .next s
  | some x =>
    if s.passes.any (fun y => decide (y.1 < pass) && y.2.quad == x.quad) then .next s
    else
      let es := x.entries.filterMap (fun id => (s.entries.find id).map (fun e => (id, e)))
      let rows := es.flatMap (fun e =>
        match e.2.pass? with
        | some p =>
          let ctx := s.context (s.entryContext e.2)
          let bRows := splitRows (mmaRowBytes p.op) (mmaK p.op) x.b
          let bf := if p.op = 0x6A then [] else bRows.map (mmaBRow p.op)
          let bi := if p.op = 0x6A then bRows.map (fun b => int8Row 32 (natOfBytes b)) else []
          (lanesOf e.2.mask).map (s.passRow ctx e.2 p bf bi x.poisoned)
        | none => [])
      let s := rows.foldl (fun s r => s.setAcc x.quad r.1 r.2) s
      let s := { s with passes := s.passes.drop pass }
      .next (x.entries.foldl (fun s id => s.freeEntry id) s)

/-! Row requests. -/

/-- MZERO_ENTRY (11 R298). -/
def execMzeroEntry (entry : Nat) (s : State) : Host.Outcome State Fault Refusal :=
  .next (s.performEntry entry (fun k => k == .mzero) (fun s e =>
    (e.dRows.foldl (fun s r => s.setAcc e.quad r { AccRow.zero with side := (s.accRow e.quad r).side }) s).freeEntry entry))

/-- Ancestor masks of R299, in ascending tile row. -/
def ancestors (parents : Row) : Nat → List Word
  | 0 => []
  | n + 1 =>
    let before := ancestors parents n
    let p := (parents.toList.getD n 0).toNat
    before ++ [(1#32 <<< n) ||| (if p < n then before.getD p 0 else 0)]

/-- MTREE_ENTRY (11 R299). -/
def execMtreeEntry (entry : Nat) (s : State) : Host.Outcome State Fault Refusal :=
  .next (s.performEntry entry (fun k => match k with | .mtree _ => true | _ => false) (fun s e =>
    match e.kind with
    | .mtree parents =>
      let anc := ancestors parents 32
      ((numbered 0 anc).foldl (fun s x =>
        let r := tileRow e.row x.1
        s.setAcc e.quad r { s.accRow e.quad r with side := x.2.rotateLeft e.col }) s).freeEntry entry
    | _ => s))

/-- A row whose word `c` of the transfer goes to store column (COL + c) mod 32, in the lanes of a mask (11 R301). -/
def AccRow.load (r : AccRow) (col : Nat) (mask : Word) (w : Fin 32 → Word) : AccRow :=
  { r with data := Vector.ofFn (fun x =>
      let c : Fin 32 := ⟨(x.val + 32 - col) % 32, Nat.mod_lt _ (by decide)⟩
      if laneIn mask c then w c else r.data[x]) }

/-- Word `c` of a row of a transfer. -/
def AccRow.word (r : AccRow) (col : Nat) (c : Nat) : Word := r.data.toList.getD ((col + c) % 32) 0

/-- One 16-byte read of an entry; the last gives all the bytes, and the poison of each piece, to what is done with them
(13 R323). -/
def State.entryReads (s : State) (id : Nat) (e : REntry) (scratch : Bool) (as : List Nat)
    (done : State → List Byte → List Bool → State) : State :=
  match s.groups.find e.gid, as.drop e.moved with
  | some g, a :: more =>
    if !scratch && s.homeWaits a then s.waitHome (e.quad / 24) a
    else
    let r := s.engineRead g scratch a 16
    let cs := e.chunks ++ [(r.1, r.2.1)]
    let s := r.2.2.modEntry id (fun e => { e with chunks := cs, moved := e.moved + 1 })
    if more.isEmpty then done s (cs.flatMap Prod.fst) (cs.map Prod.snd) else s
  | _, _ => s

/-- MLD_ENTRY (11 R302): a load from memory makes one access at each of these. -/
def execMldEntry (entry : Nat) (s : State) : Host.Outcome State Fault Refusal :=
  .next (s.performEntry entry (fun k => match k with | .mldReg _ | .mldMem _ _ => true | _ => false) (fun s e =>
    match e.kind with
    | .mldReg rows =>
      ((numbered 0 rows).foldl (fun s x =>
        let r := tileRow e.row x.1
        let old := s.accRow e.quad r
        s.setAcc e.quad r { old.load e.col e.mask (fun c => x.2[c]) with
          psn := old.psn && e.mask != BitVec.allOnes 32 }) s).freeEntry entry
    | .mldMem scratch as =>
      s.entryReads entry e scratch as (fun s bs bad =>
        ((List.range (as.length / 8)).foldl (fun s i =>
           let r := tileRow e.row i
           s.setAcc e.quad r { (s.accRow e.quad r).load e.col (BitVec.allOnes 32) (fun c =>
             BitVec.ofNat 32 (natAt bs (128 * i + 4 * c.val) 4)) with psn := ((bad.drop (8 * i)).take 8).any id }) s).freeEntry entry)
    | _ => s))

/-- The 16-byte pieces that an MST stores, taken from the rows as they are when the entry is performed. -/
def State.mstChunks (s : State) (e : REntry) (n : Nat) : List (List Byte × Bool) :=
  (List.range n).map (fun i =>
    let row := s.accRow e.quad (tileRow e.row (i / 8))
    (bytesOfWords ((List.range 4).map (fun k => row.word e.col (4 * (i % 8) + k))), row.psn))

/-- One 16-byte write of an entry; the last frees it (13 R323). -/
def State.entryWrites (s : State) (id : Nat) (e : REntry) (scratch : Bool) (as : List Nat) : State :=
  let cs := if e.moved = 0 then s.mstChunks e as.length else e.chunks
  match s.groups.find e.gid, as.drop e.moved, cs.drop e.moved with
  | some g, a :: more, c :: _ =>
    if !scratch && s.homeWaits a then s.waitHome (e.quad / 24) a
    else
    let s := (s.engineWrite g scratch a c.1 c.2).modEntry id (fun e => { e with chunks := cs, moved := e.moved + 1 })
    if more.isEmpty then s.freeEntry id else s
  | _, _, _ => s

/-- MST_ENTRY (11 R303): a store to memory makes one access at each of these. -/
def execMstEntry (entry : Nat) (s : State) : Host.Outcome State Fault Refusal :=
  .next (s.performEntry entry (fun k => match k with | .mstReg _ _ | .mstMem _ _ => true | _ => false) (fun s e =>
    match e.kind with
    | .mstReg v n =>
      let rows := (List.range n).map (fun i => (v + i, s.accRow e.quad (tileRow e.row i)))
      let ws := (rows.filter (fun x => !x.2.psn)).flatMap (fun x =>
        (lanesOf e.mask).map (fun L => RegWrite.vElem x.1 L (x.2.word e.col L.val)))
      let s := s.landAllWrites (s.groupCycle e.gid) e.gid ws
      let s := if rows.any (fun x => x.2.psn) then s.modOp e.op (fun o => { o with poisoned := some (0, 0) }) else s
      s.freeEntry entry
    | .mstMem scratch as => s.entryWrites entry e scratch as
    | _ => s))

/-! Drains (10 R284, R285; 14 R373). -/

/-- The key of an engine queue: cq0 to cq15, fq0 to fq7 and yq of a die. -/
def queueKey (die qid : Nat) : Nat := 32 * die + qid

/-- An engine queue. -/
def State.queue (s : State) (q : Nat) : EQueue := s.queues.getD q EQueue.reset

/-- Change an engine queue. -/
def State.modQueue (s : State) (q : Nat) (f : EQueue → EQueue) : State := { s with queues := s.queues.set q (f (s.queue q)) }

/-- The first drain buffer of a channel that is free. -/
def EQueue.freeBuffer (q : EQueue) : Option Nat := (List.range 4).find? (fun i => (q.bufs.find i).isNone)

/-- The command that MDRAIN appends (14 R373). -/
def drainCommand (tileadd : Bool) (shape n buffer : Nat) : List Byte :=
  bytesOfNat 8 (if tileadd then 4 else 3) ++ bytesOfNat 8 0 ++ bytesOfNat 8 0 ++ bytesOfNat 8 shape ++
  bytesOfNat 2 n ++ bytesOfNat 2 32 ++ bytesOfNat 2 0 ++ bytesOfNat 1 buffer ++ bytesOfNat 1 0x80 ++ bytesOfNat 24 0

/-- The element format that a drain delivers (14 R373). -/
def drainFormat (e : BitVec 160) (en : BitVec 4) (int : Bool) : Nat :=
  if enQuant en then (match epiQfmt e with | 0 => 3 | 1 => 6 | _ => 2) else if int then 0xA else 0

/-- The rank of an append among those of one die cycle: by core, then A-slot 0, A-slot 1, MDRAIN (14 R351). -/
def appendRank (core way : Nat) : Nat := core % 96 * 4 + way

/-- An append that ranks later has reached the queue in this die cycle: this one waits for the next (14 R351). -/
def State.appendWaits (s : State) (q rank : Nat) : Bool :=
  match (s.queue q).appended with
  | some (cyc, r) => cyc == s.dieCycle (q / 32) && decide (rank < r)
  | none => false

/-- A command reaches a queue's tail. -/
def State.append (s : State) (q rank : Nat) (c : QCmd) : State :=
  s.modQueue q (fun e => { e with cmds := e.cmds ++ [c], appended := some (s.dieCycle (q / 32), rank) })

/-- A drain finds room in its queue and a free buffer; until it does it waits and acquires nothing (10 R264, R284). -/
def State.drainRoom (s : State) (e : REntry) : Bool :=
  match e.kind, s.groups.find e.gid with
  | .mdrain _ ch _ _ _ _, some g =>
    let q := queueKey g.die ch
    (s.queue q).freeBuffer.isSome && decide ((s.queue q).cmds.length < 64) && !s.appendWaits q (appendRank g.core 2)
  | _, _ => false

/-- MDRAIN_ENTRY; a row is poisoned, and so is a row to which a poisoned bias row is added (10 R265, R285). -/
def execMdrainEntry (entry : Nat) (s : State) : Host.Outcome State Fault Refusal :=
  .next (if !((s.entries.find entry).map s.drainRoom).getD false then s else s.performEntry entry (fun k => match k with | .mdrain .. => true | _ => false) (fun s e =>
    match e.kind, s.groups.find e.gid with
    | .mdrain shape ch n tileadd int en, some g =>
      let q := queueKey g.die ch
      (match (s.queue q).freeBuffer with
       | some b =>
         let ctx := s.context g.context
         let rows := (List.range n).map (fun i =>
           (List.range 32).map (fun j =>
             s.epiDrain e.quad ctx e.epi en int i (tileRow e.row i) ((e.col + j) % 32)))
         let bias := (biasRows e.epi en).any (fun r => (s.accRow e.quad r).psn)
         let psn := (List.range n).map (fun i => (s.accRow e.quad (tileRow e.row i)).psn || bias)
         let bytes := drainCommand tileadd shape n b
         let s := ((s.appendRecord g q bytes).append q (appendRank g.core 2)
             ⟨bytes, 0, e.gid, g.launch, g.fn, true, false⟩).modQueue q (fun x =>
           { x with bufs := x.bufs.set b ⟨rows, deliveredWidth e.epi en, drainFormat e.epi en int, psn⟩ })
         s.freeEntry entry
       | none => s)
    | _, _ => s))

/-- TABLE_LOAD_COMPLETE (11 R306; 16 R424): one access of the load, the last of which completes it. TRAPADDR of the poison
fault is 0 (log 111). -/
def execTableLoadComplete (entry : Nat) (s : State) : Host.Outcome State Fault Refusal :=
  .next (s.performEntry entry (fun k => match k with | .table .. => true | _ => false) (fun s e =>
    match e.kind, s.groups.find e.gid with
    | .table act tsel as, some g =>
     s.entryReads entry e false as (fun s bs bad =>
      let s :=
        if bad.any id then s.modOp e.op (fun o => { o with poisoned := some (0, 0) })
        else
          let c := s.context g.context
          let c :=
            if act then c.setActs tsel ((List.range 256).map (fun i =>
              (BitVec.ofNat 32 (natAt bs (8 * i) 4), BitVec.ofNat 32 (natAt bs (8 * i + 4) 4))))
            else c.setRoots tsel ((List.range 512).map (fun i => natAt bs (8 * i) 8 % 2 ^ 36))
          ({ s with contexts := s.contexts.set g.context c }).writeMaster g.fn g.context
      s.freeEntry entry)
    | _, _ => s))

/-- BLOCK_WAIT_RELEASE: the blocks of halted contexts are claimed; once no other context owns a block of the request,
it may proceed. -/
def execBlockWaitRelease (entry : Nat) (s : State) : Host.Outcome State Fault Refusal :=
  match s.entries.find entry with
  | some e =>
    if !e.blocked then .next s
    else
      let ctx := s.entryContext e
      let s := s.claimBlocks e.quad ctx e.rows
      .next (if s.foreignBlocks e.quad ctx e.rows = [] then s.modEntry entry (fun e => { e with blocked := false }) else s)
  | none => .next s

end Sys2Proof.Machine
end

