-- ==== Sys2Proof/Machine/Engine.lean ====
section
/-! DEFINITION. Engine instructions: PUSH, guards and barrier objects (14 R350 to R361). -/

namespace Sys2Proof.Machine

open Sys2Proof

/-! PUSH (14 R352, R353). -/

/-- The partition and the tenant of a function own a fabric queue of a die (16 R400). -/
def State.ownsFq (s : State) (part fn die n : Nat) : Bool :=
  ((s.part part).map (fun p => p.fqmask.testBit (8 * die + n))).getD false &&
    (fn == pfId || (s.fn fn).vffq.getLsbD (8 * die + n))

/-- A group may append to queue `qid` of its die. -/
def State.ownsQueue (s : State) (g : Group) (qid : Nat) : Bool :=
  if qid < 16 then s.ownsCq g.part g.fn g.die qid
  else if qid < 24 then s.ownsFq g.part g.fn g.die (qid - 16)
  else ((s.part g.part).map (fun p => p.yq)).getD false

/-- What PUSH names in a group. -/
def pushUses (x : PushOp) (sys : Bool) : Uses :=
  { srcs := (List.range 16).map (fun w => op32 (BitVec.ofNat 7 (0x40 + (if x.kb then 16 else 0) + w))),
    pdst := [x.flagp.toNat], addrOnly := true,
    badOperand := decide (24 < x.qid.toNat) || (x.qid == 24 && !sys) || x.flagp == 0 || decide (3 < x.flagp.toNat) }

/-- PUSH: it waits until the group's ordered access is performed (13 R325, R328). -/
def execPush (x : PushOp) (s : State) : Host.Outcome State Fault Refusal :=
  let u := pushUses x ((s.curCtx.map (fun c => c.g.sysMode)).getD false)
  .next (s.issue 1 u (fun _ => none) [] false (fun s c =>
    if c.act = 0 then .go (fun s => s) none
    else if !s.ownsQueue c.g x.qid.toNat then .fault ⟨.permission, .engine, true, 0⟩
    else if s.orderedOutstanding c.gid then .wait .ordered
    else
      match s.varWait c c.act x.tk.toNat with
      | some w => .wait w
      | none =>
        let q := queueKey c.g.die x.qid.toNat
        let live := decide (64 ≤ (s.queue q).cmds.length)
        let liveBit := if live then 1 else 0
        let full := s.yValue c.g yFlag 0 liveBit != 0
        let bytes := (c.values u (lowestLane c.act)).flatMap (fun w => bytesOfNat 4 w)
        -- a replay returns the recorded flag and waits for the room that the recording found
        if (live && !full) || (!full && s.appendWaits q (appendRank c.g.core (s.cur % 6 - 4))) then .wait .other
        else
        .go (fun s =>
          let s := s.yAfter c.g yFlag 0 liveBit
          let s := if full then s else
            (s.appendRecord c.g q bytes).append q (appendRank c.g.core (s.cur % 6 - 4))
              ⟨bytes, x.guard.toNat, c.gid, c.g.launch, c.g.fn, false, false⟩
          let o := VOp.start s c u .push x.la x.tk
          s.addOp { o with results := (lanesOf c.act).map (fun L =>
            { lane := L, writes := [.pBit x.flagp.toNat L full], entries := [], poison := none }) }) none))

/-- PUSH_COMPLETE. -/
def execPushComplete (op : Nat) (lanes : Word) (s : State) : Host.Outcome State Fault Refusal :=
  .next (s.completeKind op lanes (fun k => k == .push))

/-! Guards (14 R355 to R357). -/

/-- GSET and GCLR in a group. -/
def State.issueGuard (s : State) (g : BitVec 4) (v : Guard) : State :=
  s.issue 1 { compOnly := true, badOperand := g == 0 } (fun _ => none) [] false (fun _ c =>
    if c.act = 0 then .go (fun s => s) none
    else .go (fun s => (s.modGroup c.gid (fun x => { x with guards := x.guards.set g.toNat v g.isLt })).repair c.gid
      (fun b => b.what == 0x600 + g.toNat)) none)

/-- GSET. -/
def execGset (g : BitVec 4) (s : State) : Host.Outcome State Fault Refusal := .next (s.issueGuard g .isTrue)
/-- GCLR. -/
def execGclr (g : BitVec 4) (s : State) : Host.Outcome State Fault Refusal := .next (s.issueGuard g .isFalse)

/-- The resolution that a guarded command finds: a slot that a finished group left UNRESOLVED counts as FALSE, and a
command of a halted group keeps waiting (14 R357). -/
def State.guardOf (s : State) (c : QCmd) : Guard :=
  match s.groups.find c.gid with
  | none => .isFalse
  | some g =>
    let v := if g.status = .halted then .unresolved else g.guards.toList.getD c.guard .unresolved
    if v = .unresolved ∧ g.status = .finished then .isFalse else v

/-- The head of a queue of a lower number on the die waits for the same slot: that one consumes it (14 R355). -/
def State.guardTaken (s : State) (q : Nat) (c : QCmd) : Bool :=
  (List.range (q % 32)).any (fun i =>
    match (s.queue (q / 32 * 32 + i)).cmds with
    | d :: _ => d.gid == c.gid && d.guard == c.guard && !d.started
    | [] => false)

/-- GUARD_CONSUME: the command at a queue's head consumes its slot, and starts or is discarded. -/
def execGuardConsume (q : Nat) (s : State) : Host.Outcome State Fault Refusal :=
  match (s.queue q).cmds with
  | c :: rest =>
    if c.guard = 0 || c.started || s.guardTaken q c then .next s
    else
      (match s.guardOf c with
       | .unresolved => .next s
       | v =>
         let s := (match s.groups.find c.gid with
           | some g => s.order g 11 (g.yWho 0 * 16 + c.guard) (q % 32)
           | none => s).modGroup c.gid (fun g =>
           if h : c.guard < 16 then { g with guards := g.guards.set c.guard .unresolved h } else g)
         .next (s.modQueue q (fun x =>
           { x with cmds := if v = .isTrue then { c with started := true } :: rest else rest })))
  | [] => .next s

/-! Barrier objects (14 R358 to R361). -/

/-- BARINIT or BARARR in a group: one access of the lowest active lane (14 R359); neither is a variable-latency
instruction of 03 R91. -/
def State.issueBar (s : State) (a b : Code) (pins : List (Operand × Bool)) (size : Nat) (act : Nat → Act) : State :=
  let u : Uses := { srcs := [op64 a, op32 b], addrStream := true, badType := tyOf a != .uni || tyOf b != .uni }
  s.issue 1 u (fun _ => none) (pinRows pins) false (fun s c =>
    if c.act = 0 then .go (fun s => s) none
    else if s.orderedOutstanding c.gid then .wait .ordered
    else
      let v := c.values u (lowestLane c.act)
      let va := v.getD 0 0
      let fault (x : Cause) : Verdict := .fault ⟨x, .engine, true, va⟩
      if va % 16 ≠ 0 then fault .misaligned
      else
        match s.translate c.g.die c.g.fn c.g.part (.slot s.cur) .both va with
        | .fault e => fault e
        | .ok key =>
          if s.atDrainPoint c.g.core key then .wait .drain
          else
            .go (fun s =>
                 let o := VOp.start s c u .store 0 0
                 s.addOp { o with
                   counted := false
                   todo := [⟨lowestLane c.act, .phys, key, va, size, act (v.getD 1 0)⟩]
                   isOrdered := s.needsOrder c.g.core key true }) none
        | x => .waitDo .translation (fun s => s.request c.g.die c.g.fn (.slot s.cur) x)) State.performBundle

/-- BARINIT. -/
def execBarinit (a b : Code) (ra rb : Bool) (s : State) : Host.Outcome State Fault Refusal :=
  .next (s.issueBar a b [(op64 a, ra), (op32 b, rb)] 16 (fun n => .barinit n))

/-- BARARR. -/
def execBararr (a b : Code) (ra rb : Bool) (s : State) : Host.Outcome State Fault Refusal :=
  .next (s.issueBar a b [(op64 a, ra), (op32 b, rb)] 8 (fun n => .atom 0 false (wrapNat 64 (-(signedOf 32 n))) 0))

/-- What BARWAIT names. -/
def barwaitUses (x : BarwaitOp) : Uses :=
  { srcs := op64 x.a :: (if x.e = 0x78 then [] else [op32 x.e]), dst := some (op32 x.d), addrStream := true,
    badOperand := (match codeNames x.d with | .q _ => true | _ => false),
    badType := tyOf x.a != .uni || tyOf x.e != .uni || tyOf x.d == .aff }

/-- BARWAIT: it waits for its object. -/
def execBarwait (x : BarwaitOp) (s : State) : Host.Outcome State Fault Refusal :=
  let u := barwaitUses x
  .next (s.issue 2 u (fun _ => none) (pinRows [(op64 x.a, x.ra)]) false (fun s c =>
    if c.act = 0 then .go (fun s => s) none
    else if s.orderedOutstanding c.gid then .wait .ordered
    else
      let v := c.values u (lowestLane c.act)
      let va := v.getD 0 0
      let fault (e : Cause) : Verdict := .fault ⟨e, .engine, false, va⟩
      if va % 16 ≠ 0 then fault .misaligned
      else
        match s.translate c.g.die c.g.fn c.g.part (.slot s.cur) .read va with
        | .fault e => fault e
        | .ok key =>
          if s.atDrainPoint c.g.core key then .wait .drain
          else
            (match s.varWait c c.act x.tk.toNat with
             | some w => .wait w
             | none => .go (fun s =>
                 s.addOp (VOp.start s c u
                   (.barwait x.d va (if x.e = 0x78 then none else some (BitVec.ofNat 32 (v.getD 1 0)))) x.la x.tk)) none)
        | y => .waitDo .translation (fun s => s.request c.g.die c.g.fn (.slot s.cur) y)))

/-- The object satisfies a BARWAIT (14 R361). -/
def barHolds (o : Nat) (e : Option Word) : Bool :=
  decide (signedOf 64 o ≤ 0) &&
    (match e with
     | none => true
     | some p => o / 2 ^ 64 % 2 ^ 32 == p.toNat)

/-- A pending BARWAIT of the group can be performed. -/
abbrev Group.barwaitLive (g : Group) : Prop :=
  (g.status = .running ∨ g.status = .halting) ∧ g.trapMode = false ∧ g.transitWait = false ∧ g.pendingTrap = none

/-- BARWAIT_PERFORMED: a pending BARWAIT reads its object; when the condition holds it is performed and writes D. A
halted group's BARWAIT waits for the resume, and that of a group in a trap for RTT (16 R422; 17 R439). -/
def execBarwaitPerformed (op : Nat) (s : State) : Host.Outcome State Fault Refusal :=
  match s.ops.find op with
  | none => .next s
  | some o =>
    (match o.kind, s.groups.find o.gid with
     | .barwait d va e, some g =>
       (match s.translateNow g.fn g.part .read va with
        | .ok key =>
          let v := natOfBytes (s.bytesAt key 16)
          if g.barwaitLive ∧ barHolds v e ∧ s.homeWaits key = false then
            let s := s.accessLine g key (g.yWho (lowestLane o.mask).val) g.die (some g.core) false
            let st := v / 2 ^ 96
            let s := s.landAllWrites (s.dieCycle g.die) o.gid (destWrites (op32 d) o.mask (fun _ => st))
            let s := if s.poisonIn key 16 then s.modOp op (fun o => { o with poisoned := some ((lowestLane o.mask).val, va) }) else s
            .next (s.finishOp op)
          else .next (if g.barwaitLive then s.waitHome g.die key else s)
        | _ => .next (s.noteWalk g.fn va))
     | _, _ => .next s)

end Sys2Proof.Machine
end

