-- ==== Sys2Proof/Machine/Shape.lean ====
section
/-! DEFINITION. What the core reads of an instruction when it selects its clause: its engine class, its operands, its
type, the queues it pops and whether one group alone may issue it (01 R34, R39; 03 R69 to R72, R77). -/

namespace Sys2Proof.Machine

open Sys2Proof

/-- The engine class of an opcode, as ECLASS numbers it (03 Tables 3.1, 3.9); none for an unassigned opcode. -/
def opClass (op : Nat) : Option Nat :=
  if op ≤ 0x1F then some 0
  else if op ≤ 0x30 then some 0
  else if op ≤ 0x39 then some 1
  else if op ≤ 0x3B then some 0
  else if op ≤ 0x3F then some 3
  else if op ≤ 0x4C then some 6
  else if op ≤ 0x4F then none
  else if op ≤ 0x5A then some 2
  else if op = 0x5B then none
  else if op ≤ 0x63 then some 3
  else if op ≤ 0x6F then some 4
  else if op ≤ 0x74 then some 5
  else if op ≤ 0x77 then none
  else if op ≤ 0x7B then some 7
  else none

/-- Sources A and B and destination D of a width. -/
def shape3 (f : F3) (n : Nat) : Uses := { srcs := [opInt n f.a, opInt n f.b], dst := some (opInt n f.d) }

/-- Sources A, B and C, and destination D. -/
def shape4 (f : F3) (c : Code) (n w : Nat) : Uses :=
  { srcs := [opInt n f.a, opInt n f.b, opInt w c], dst := some (opInt w f.d) }

/-- Source A and destination D of a width. -/
def shape2 (d a : Code) (n : Nat) : Uses := { srcs := [opInt n a], dst := some (opInt n d) }

/-- Sources only. -/
def shapeS (srcs : List Operand) : Uses := { srcs := srcs }

/-- The operand codes that special register `n` types like (01 Table 1.3): uniform, LANEID affine, three varying. -/
def specialCode (n : Nat) : Code := if n = 0 then 0x79 else if n = 9 ∨ n = 10 ∨ n = 11 then 0x00 else 0x7A

/-- Bits of a special register. -/
def specialWidth (n : Nat) : Nat := if n = 6 ∨ n = 7 ∨ n = 8 ∨ n = 10 ∨ n = 13 ∨ n = 14 then 64 else 32

/-- The operands of an instruction of the opcode map, with their widths. -/
def instrShape (i : Instr) : Uses :=
  match i with
  | .add f _ | .sub f _ | .mul f _ | .mulhi f _ | .div f _ | .rem f _ | .min f _ | .max f _ => shape3 f 32
  | .addIt f m | .subIt f m | .mulIt f m | .mulhiIt f m | .divIt f m | .remIt f m | .minIt f m | .maxIt f m =>
    shape3 f (widthOf m.width)
  | .addImm f | .promaImm f => shape2 f.d f.a 32
  | .addc f _ _ | .subb f _ _ => shape3 f 32
  | .mad f c _ _ => shape4 f c 32 32
  | .madw f c _ => shape4 f c 32 64
  | .abs f => shape2 f.d f.a 32
  | .absIt f m => shape2 f.d f.a (widthOf m.width)
  | .and f | .or f | .xor f | .andn f | .shl f | .shr f | .sar f | .rot f | .bfe f _ | .proma f => shape3 f 32
  | .not f | .brev f | .popc f | .clz f | .ctz f => shape2 f.d f.a 32
  | .shlImm d a _ | .shrImm d a _ | .sarImm d a _ | .rotImm d a _ => shape2 d a 32
  | .bfi f c | .shf f c _ => shape4 f c 32 32
  | .promv f => shape2 f.d f.a 64
  | .lea f _ | .leaLx f _ _ | .shl64 f => { srcs := [op64 f.a, op32 f.b], dst := some (op64 f.d) }
  | .add64 f | .sub64 f => shape3 f 64
  | .sad f | .dp4a f | .dp2a f => shape4 f f.d 32 32
  | .dpxDotForms f _ c _ _ _ => shape4 f c 32 32
  | .sel f _ w => shape3 f (if w then 64 else 32)
  | .icmp _ a b _ _ _ w _ _ _ => { srcs := [opInt (widthOf w) a, opInt (widthOf w) b], pdst := [0] }
  | .fcmp _ a b _ _ _ _ _ _ => { srcs := [op32 a, op32 b], pdst := [0] }
  | .pand _ _ _ | .por _ _ _ | .pxor _ _ _ => { pdst := [0] }
  | .mov f | .demoteFirst f | .demoteChk f | .demoteaChk f => shape2 f.d f.a 32
  | .movmRead d _ => { srcs := [op32 0x7C], dst := some (op32 d) }
  | .movmWrite a _ _ => { srcs := [op32 a], dst := some (op32 0x7C) }
  | .movi d _ => { dst := some (op32 d) }
  | .movhi d _ => { srcs := [op32 d], dst := some (op32 d) }
  | .fadd f _ | .fsub f _ | .fmul f _ | .fmin f _ | .fmax f _ | .fscale f _ => shape3 f 32
  | .faddFmod f _ | .fsubFmod f _ | .fmulFmod f _ | .fscaleFmod f _ => shape3 f 32
  | .ffma f c _ => shape4 f c 32 32
  | .fmac f _ | .fmacFmod f _ => shape4 f f.d 32 32
  | .fneg f | .fclass f | .frnd f _ | .frndFmod f _ => shape2 f.d f.a 32
  | .hadd2 f _ | .hmul2 f _ | .hmax2 f _ | .hadd2Hmod f _ _ | .hmul2Hmod f _ _ => shape3 f 32
  | .hfma2 f _ c _ => shape4 f c 32 32
  | .fcvt f m => (aluFcvt f m).uses
  | .fexp2 f _ | .flog2 f _ | .frcp f _ | .frsqrt f _ | .fsqrt f _ | .fsin f _ | .fcos f _ | .ftanh f _ =>
    shape2 f.d f.a 32
  | .fdiv f _ | .pack2 f _ | .pack2Cvx f _ => shape3 f 32
  | .unpack2 f _ | .unpack2Cvx f _ => { srcs := [op32 f.a], dst := some (op64 f.d) }
  | .xadd _ a _ _ => shapeS [op32 a]
  | .xfma _ a b _ _ => shapeS [op32 a, op32 b]
  | .xrd d _ _ => { dst := some (op32 d) }
  | .xscan d _ b _ _ => { srcs := [op32 b], dst := some (op32 d) }
  | .brq _ _ => brqUses
  | .jmp a _ | .callr a _ | .sleep a _ => shapeS [op64 a]
  | .armj d a _ => shape2 d a 32
  | .ld m o => (memShort .global .load m o).uses
  | .ldMx m x => (memLong .global .load m x).uses
  | .st m o => (memShort .global .store m o).uses
  | .stMx m x => (memLong .global .store m x).uses
  | .lds m o => (memShort (.scratch false) .load m o).uses
  | .ldsMx m x => (memLong (.scratch x.win) .load m x).uses
  | .sts m o => (memShort (.scratch false) .store m o).uses
  | .stsMx m x => (memLong (.scratch x.win) .store m x).uses
  | .ldc m o => (memShort .remote .load m o).uses
  | .ldcMx m x => (memLong .remote .load m x).uses
  | .stc m o => (memShort .remote .store m o).uses
  | .stcMx m x => (memLong .remote .store m x).uses
  | .atom m _ x =>
    let w := if x.w64 then 64 else 32
    { srcs := [op64 m.base, opInt w x.c] ++ (if x.aop = 7 then [opInt w x.e] else []), dst := some (opInt w m.t) }
  | .fatom m _ _ c => { srcs := [op64 m.base, op32 c], dst := some (op32 m.t) }
  | .pref b _ _ _ | .prefMx b _ _ _ => shapeS [op64 b]
  | .ldwp m _ | .ldwpMx m _ => { srcs := [op32 m.base], dst := some (op64 m.t) }
  | .qtok _ _ => qtokUses
  | .qpushP d _ => { dst := some (op32 d) }
  | .qdepth d _ => { dst := some (op32 d) }
  | .tbar a _ | .mzero a _ | .cbarArrive a _ | .cbarWait a _ | .cbarArriveWait a _ | .trap a _ | .mepi a _ _ =>
    shapeS [op32 a]
  | .lgetAbs f | .lgetBelow f | .lgetAbove f | .lgetBfly f | .tlp f =>
    { srcs := [op32 f.a, op32 f.b], dst := some (op32 f.d) }
  | .pollEvery _ _ _ | .pollSome _ _ _ | .lead _ _ => { pdst := [0] }
  | .pollMask d _ _ => { dst := some (op32 d) }
  | .lfold d a _ _ | .lsame d a _ _ _ _ => shape2 d a 32
  | .mmaBf16 m | .mmaF16 m | .mmaE4m3 m | .mmaE5m2 m | .mmaE2m1 m | .mmaVq2 m | .mmaI8 m =>
    shapeS [op32 m.a, dkOp m.dk, bkOp m.bk]
  | .mld x => (match x.space with
    | .reg a => shapeS [dkOp x.dk, op32 a]
    | _ => shapeS [dkOp x.dk])
  | .mst x => (match x.space with
    | .reg a => { srcs := [dkOp x.dk], dst := some (op32 a) }
    | _ => shapeS [dkOp x.dk])
  | .mdrain x => shapeS [dkOp x.dk, bkOp x.bk]
  | .cbld x | .actld x => shapeS [bkOp x.bk]
  | .mtree a b _ _ => shapeS [op32 a, op32 b]
  | .push x => shapeS [op32 (if x.kb then 0x50 else 0x40)]
  | .barinit a b _ _ | .bararr a b _ _ | .cclean a b _ _ | .pclass a b _ _ => shapeS [op64 a, op32 b]
  | .barwait x => { srcs := op64 x.a :: (if x.e = 0x78 then [] else [op32 x.e]), dst := some (op32 x.d) }
  | .rdsr d n => { srcs := [opInt (specialWidth n.toNat) (specialCode n.toNat)], dst := some (opInt (specialWidth n.toNat) d) }
  | .wrsr a n => { srcs := [opInt (specialWidth n.toNat) a], dst := some (opInt (specialWidth n.toNat) (specialCode n.toNat)) }
  | _ => {}

/-- A cross-lane or abacus instruction (01 R39; 08 R245). -/
def crossLane (i : Instr) : Bool :=
  match i with
  | .lgetAbs _ | .lgetBelow _ | .lgetAbove _ | .lgetBfly _ | .tlp _ | .pollEvery _ _ _ | .pollSome _ _ _
  | .pollMask _ _ _ | .lead _ _ | .lfold _ _ _ _ | .lsame _ _ _ _ _ _ | .xclr _ | .xmov _ _ | .xadd _ _ _ _
  | .xfma _ _ _ _ _ | .xrd _ _ _ | .xscan _ _ _ _ _ => true
  | _ => false

/-- An instruction of chapter 11 (11 R288). -/
def matrixInstr (i : Instr) : Bool :=
  match i with
  | .mmaBf16 _ | .mmaF16 _ | .mmaE4m3 _ | .mmaE5m2 _ | .mmaE2m1 _ | .mmaVq2 _ | .mmaI8 _ | .mld _ | .mst _ | .mdrain _
  | .cbld _ | .actld _ | .mzero _ _ | .mwait | .mtree _ _ _ _ | .mepi _ _ _ | .cbarArrive _ _ | .cbarWait _ _
  | .cbarArriveWait _ _ => true
  | _ => false

/-- One group alone may issue the instruction (01 R39; 11 R288). -/
def confined (i : Instr) : Bool := crossLane i || matrixInstr i || (instrShape i).oneGroup

/-- The instruction is legal in a clause of any class (03 R69): its type is uniform or affine, it acts on predicates
alone, or it is NOP. An instruction with no operand has no type. -/
def anyClass (i : Instr) : Bool :=
  match i with
  | .nop => true
  | _ =>
    let u := instrShape i
    (u.dst.isSome || !u.srcs.isEmpty || !u.pdst.isEmpty) && u.ty != .vary

/-- A control transfer (03 R71), by its word. -/
def isTransfer (w : Word) : Bool :=
  let op := (fOp w).toNat
  (0x40 ≤ op && op ≤ 0x46) || op = 0x49 || op = 0x4A || (op = 0x78 && fM w == 0) || (op = 0x79 && fM w != 3)

/-- The opcode's form of a word has a second source in B (03 Table 3.9). -/
def wordHasB (w : Word) : Bool :=
  let op := (fOp w).toNat
  !(op ∈ [0x02, 0x0C, 0x10, 0x12, 0x14, 0x1C, 0x1D, 0x1E, 0x1F, 0x27, 0x29, 0x2E, 0x2F, 0x3B] ||
    (op ∈ [0x0E, 0x11, 0x15] && fM w == 1) || (0x31 ≤ op && op ≤ 0x39 && op != 0x36))

/-- The type of the source that the extension word of a word gives, if its opcode takes one there (03 Table 3.8). -/
def wordC (w x : Word) : Ty :=
  let op := (fOp w).toNat
  if op ∈ [0x06, 0x07, 0x23] then (codeNames (x.extractLsb' 20 7)).ty
  else if op = 0x2C ∨ (op = 0x13 ∧ fM w = 3) then (codeNames (x.extractLsb' 19 7)).ty
  else if op = 0x18 ∧ fM w = 3 then (codeNames (x.extractLsb' 18 7)).ty
  else .uni

/-- The type that the operand fields give the word of an instruction that does not decode, with its extension word
(01 R34; 03 R69, R98): that of its destination, else the highest among its sources; none where it names no operand. -/
def wordTy (w x : Word) : Option Ty :=
  let op := (fOp w).toNat
  let d := (codeNames (fD w)).ty
  let a := (codeNames (fA w)).ty
  let b := (codeNames (fB w)).ty
  let dst (src : Ty) : Option Ty := some (if fD w = 0x78 then src else d)
  if op = 0x1A ∨ op = 0x28 then some (a.max b)
  else if op = 0x1C then (if fM w = 2 then some .uni else dst (if fM w = 1 then .uni else a))
  else if op = 0x1D ∨ op = 0x1E then dst .uni
  else if op ≤ 0x3B then dst (if wordHasB w then (a.max b).max (wordC w x) else a)
  else if op = 0x3C then none
  else if op = 0x3D then some a
  else if op = 0x3E then some (a.max b)
  else if op = 0x3F then dst (if x.getLsbD 26 then b else .uni)
  else if op = 0x42 ∨ op = 0x44 then some a
  else if op = 0x47 then dst a
  else if op ≤ 0x4F then none
  else if op = 0x51 ∨ op = 0x53 ∨ op = 0x55 then some (d.max a)
  else if op ≤ 0x5A then dst a
  else if op = 0x5C then (if fM w = 2 then some a else dst .uni)
  else if op = 0x61 then (if w.extractLsb' 9 2 = 2 then dst .uni else some .uni)
  else if op = 0x62 then dst a
  else if op ≤ 0x63 then dst (a.max b)
  else if op ≤ 0x6B then some (codeNames (fAmm w)).ty
  else if op ≤ 0x6D then some .uni
  else if op = 0x6E then (if fM w = 1 then none else if fM w = 2 then some (a.max b) else some a)
  else if op = 0x6F then some a
  else if op = 0x70 then some .uni
  else if op = 0x71 then none
  else if op ≤ 0x73 then some (a.max b)
  else if op = 0x74 then dst a
  else if op = 0x78 then some (if fM w = 0 then a else a.max b)
  else if op = 0x79 then (if fM w = 2 then some a else none)
  else if op = 0x7A then dst (codeNames (specialCode (fImm11 w).toNat)).ty
  else some (codeNames (specialCode (fImm11 w).toNat)).ty

/-- The word of an instruction that does not decode breaks R69 in a clause of another class. -/
def wordConfined (w x : Word) : Bool :=
  let op := (fOp w).toNat
  op != 0x1B && op != 0x4B &&
    (match wordTy w x with
     | none | some .vary => true
     | _ => false)

/-- Entries that an instruction pops from a queue at one lane position (03 R77). -/
def popCount (i : Instr) (q : Nat) : Nat := (instrShape i).pops q

/-! Clauses (03 R68 to R72). -/

/-- The instructions of a clause's words: each with its word, its extension word (else 0) and its decoding; none when an
extension word would fall beyond the words. -/
def splitClause : Nat → List Word → Option (List (Word × Word × Except DecodeError Instr))
  | 0, _ => some []
  | _, [] => some []
  | fuel + 1, w :: ws =>
    if hasExt w then
      (match ws with
       | [] => none
       | x :: ws => (splitClause fuel ws).map (fun r => (w, x, decodeWords w x) :: r))
    else (splitClause fuel ws).map (fun r => (w, 0, decodeWords w 0) :: r)

/-- COUNT of a header. -/
def hdrCount (h : Word) : Nat := fieldNat h 3 0
/-- ECLASS of a header. -/
def hdrClass (h : Word) : Nat := fieldNat h 6 4
/-- WAIT of a header names a counter. -/
def hdrWaits (h : Word) (t : Nat) : Bool := h.getLsbD (6 + t)
/-- WAITQ of a header. -/
def hdrWaitq (h : Word) : Bool := h.getLsbD 13
/-- BOUNDARY of a header. -/
def hdrBoundary (h : Word) : Bool := h.getLsbD 14
/-- CPRED of a header. -/
def hdrCpred (h : Word) : PredRef := h.extractLsb' 15 4

/-- An instruction breaks R69 or R70 in a clause of a class. -/
def breaksClass (cls : Nat) (st : Stream) (e : Word × Word × Except DecodeError Instr) : Bool :=
  match opClass (fOp e.1).toNat with
  | none => false
  | some c =>
    (st == .comp && c == 2) || (st == .addr && c == 4) ||
      (c != cls && (match e.2.2 with
        | .ok i => !anyClass i
        | .error _ => wordConfined e.1 e.2.1))

/-- The check of 03 R72 on a header and its COUNT words. -/
def clauseIllegal (st : Stream) (h : Word) (ws : List Word) : Bool :=
  !isHeader h || hdrCount h == 0 || fieldNat h 26 19 != 0 || hdrCpred h == 8 ||
  (hdrClass h == 2 && st == .comp) || (hdrClass h == 4 && st == .addr) ||
  ws.any isHeader ||
  (match splitClause ws.length ws with
   | none => true
   | some es => es.any (breaksClass (hdrClass h) st) || es.dropLast.any (fun e => isTransfer e.1))

end Sys2Proof.Machine
end

