-- ==== Sys2Proof/Machine/Arbitrate.lean ====
section
/-! DEFINITION. Clause selection: fetching a clause and checking it, eligibility, the choice of a group by a free slot
and the drawing of others into its bundle, and the next clause of a run (03 R72 to R78; 07 R193 to R198). -/

namespace Sys2Proof.Machine

open Sys2Proof

/-! Fetching (17 R437 item 1). -/

/-- What reading code words gives. -/
inductive Fetched where
  | words (ws : List Word)
  | fault (f : FaultInfo)
  | need (x : Xlat)
  deriving DecidableEq, Repr

/-- Read `n` code words from an address, for a slot. -/
def State.fetchWords (s : State) (g : Group) (slot : Nat) : Nat → Nat → Fetched
  | _, 0 => .words []
  | va, n + 1 =>
    match s.codeAt g slot va with
    | .ok key =>
      if s.poisonIn key 4 then .fault ⟨.poison, .fetch, false, va⟩
      else
        (match s.fetchWords g slot ((va + 4) % 2 ^ 64) n with
         | .words ws => .words (s.wordAt key :: ws)
         | x => x)
    | .fault c => .fault ⟨c, .fetch, false, va⟩
    | x => .need x

/-- A clause: its header, the words from `skip` words behind the header on, and the fault that it raises when it is
selected (03 R72). -/
structure Clause where
  hdr : Dword
  head : Word
  skip : Nat
  words : List Word
  fault : Option Cause
  deriving DecidableEq, Repr

/-- What a path finds at its PC. -/
inductive Pick where
  | need (x : Xlat)
  | fault (f : FaultInfo)
  | deliver
  | held (r : WaitReason)
  | clause (c : Clause)
  deriving DecidableEq, Repr

/-- The header of the clause that holds a word which a trap left: the nearest one behind it (17 R447). -/
def State.headerBehind (s : State) (g : Group) (slot pc : Nat) : Nat → Nat → Pick
  | _, 0 => .fault (FaultInfo.plain .illegalClause)
  | n, fuel + 1 =>
    let va := (pc + 2 ^ 64 - 4 * n) % 2 ^ 64
    match s.fetchWords g slot va 1 with
    | .words [w] =>
      if isHeader w then
        (if hdrCount w < n then .fault (FaultInfo.plain .illegalClause) else .clause ⟨BitVec.ofNat 64 va, w, n - 1, [], none⟩)
      else s.headerBehind g slot pc (n + 1) fuel
    | .words _ => .fault (FaultInfo.plain .illegalClause)
    | .fault f => .fault f
    | .need x => .need x

/-- The header that governs a PC (03 R72, R73; 17 R447). -/
def State.headerAt (s : State) (g : Group) (slot : Nat) (pc : Dword) (k : PcKind) : Pick :=
  if pc.toNat % 4 ≠ 0 then .fault (FaultInfo.plain .badTarget)
  else
    match s.fetchWords g slot pc.toNat 1 with
    | .fault f => .fault f
    | .need x => .need x
    | .words ws =>
      let w := ws.headD 0
      if isHeader w then .clause ⟨pc, w, 0, [], none⟩
      else
        match k with
        | .header => .fault (FaultInfo.plain .illegalClause)
        | .redirected => .fault (FaultInfo.plain .badTarget)
        | .inside => s.headerBehind g slot pc.toNat 1 15

/-- The words of the clause of a header, checked (03 R72). -/
def State.clauseWords (s : State) (g : Group) (st : Stream) (slot : Nat) (c : Clause) : Pick :=
  match s.fetchWords g slot ((c.hdr.toNat + 4) % 2 ^ 64) (hdrCount c.head) with
  | .fault f => .fault f
  | .need x => .need x
  | .words ws =>
    .clause { c with
      words := ws.drop c.skip
      fault :=
        if clauseIllegal st c.head ws then some .illegalClause
        else if !(g.trapMode && st == .comp) && foreignPred st (hdrCpred c.head).toNat then some .streamOwner
        else none }

/-- The instructions of a clause that decode. -/
def Clause.instrs (c : Clause) : List Instr :=
  ((splitClause c.words.length c.words).getD []).filterMap (fun e => match e.2.2 with | .ok i => some i | .error _ => none)

/-! Eligibility (03 R77). -/

/-- The entries that a clause pops are present in every lane of a mask (03 R77). -/
def Group.waitqReady (g : Group) (is : List Instr) (m : Word) : Bool :=
  (List.range 8).all (fun q =>
    let n := (is.map (fun i => popCount i q)).sum
    n == 0 || (lanesOf m).all (fun L =>
      let es := (g.entries q L).take n
      es.all QEntry.present && es.length == n))

/-- The value of a uniform operand of a group as it stands. -/
def State.uniformNow (s : State) (gid : Nat) (g : Group) (a : Code) : Nat :=
  ({ gid := gid, g := g, m := s.teamRegs gid g .comp, st := .comp, lanes := 0, act := 0, pc := 0, hdr := 0, kind := .header,
     adv := 0, cpred := none } : Ctx).read (op32 a) 0 0

/-- A wait that the group's earlier instructions set still holds its stream (08 R243; 10 R286; 11 R308). -/
def State.barrierHolds (s : State) (g : Group) (st : Stream) : Bool :=
  ((g.stream st).tbarWait.any (fun e =>
    ((s.teams.find g.team).map (fun t =>
      decide ((t.tbar[tbarIx st e.1]).phase ≤ e.2) || decide (s.dieCycle g.die < (t.tbar[tbarIx st e.1]).visible))).getD false)) ||
  (st == .comp &&
    (g.cbarWait.any (fun e =>
      ((s.gangs.find g.gang).map (fun k => decide ((k.cbar[cbarIx e.1]).phase ≤ e.2))).getD false) ||
     g.mwait.any (fun id => (s.ops.find id).isSome)))

/-- An arriving CBAR of a clause meets a phase that the group has arrived at (10 R286). -/
def State.arrivesAgain (s : State) (gid : Nat) (g : Group) (is : List Instr) : Bool :=
  is.any (fun i => match i with
    | .cbarArrive a _ | .cbarArriveWait a _ => s.cbarArrived gid g (cbarIx (s.uniformNow gid g a))
    | _ => false)

/-- Why a clause is not eligible, as far as its header says. -/
def State.heldAt (s : State) (gid : Nat) (g : Group) (st : Stream) (c : Clause) : Option WaitReason :=
  if (List.range 6).any (fun t => hdrWaits c.head (t + 1) && (g.stream st).count (t + 1) != 0) then some .counter
  else if s.barrierHolds g st then some .other
  else if s.ops.any (fun e => e.2.gid == gid && e.2.stream == st && e.2.window == some 0) then some .lookahead
  else none

/-- Why a clause is not eligible for a path of a group, as its words say. -/
def State.heldBy (s : State) (gid : Nat) (g : Group) (m : Word) (c : Clause) : Option WaitReason :=
  if s.arrivesAgain gid g c.instrs then some .other
  else if hdrWaitq c.head && !g.waitqReady c.instrs m then some .popEmpty
  else none

/-! Paths (07 R195). -/

/-- The lanes that may stand on a path in a cycle of the die: neither exited nor parked, and released before it
(07 R195, R202). -/
def StreamState.walkers (x : StreamState) (cyc : Nat) : Word :=
  x.settled cyc &&& x.lanesWhere (fun l => !l.exited && l.park == .none)

/-- The path of a stream in a cycle of the die: the lowest PC at which a lane stands that may stand on one, and its lanes. -/
def StreamState.path (x : StreamState) (cyc : Nat) : Option (Dword × PcKind × Word) :=
  let free := x.walkers cyc
  let best := (lanesOf free).foldl (fun (b : Option LaneCtl) L =>
    let l := x.lanes[L]
    match b with
    | some c => if l.pc.toNat < c.pc.toNat then some l else b
    | none => some l) none
  best.map (fun l => (l.pc, l.kind, free &&& x.lanesWhere (fun c => c.pc == l.pc)))

/-- A group may be selected in a stream: it runs, its last run there has rested, nothing stops the stream
(03 R78; 07 R189; 16 R422; 17 R439, R443). -/
def State.selectable (s : State) (gid : Nat) (g : Group) (st : Stream) : Bool :=
  g.status == .running && !g.killed && g.pendingTrap.isNone && !g.transitWait &&
  ((s.gangs.find g.gang).map (fun k => k.status == .running)).getD false &&
  (st == .comp || (!g.trapMode && g.ahead.isNone)) &&
  (s.slotOf gid st).isNone && decide ((g.stream st).restUntil ≤ s.dieCycle g.die) && (g.stream st).late.isEmpty &&
  !((s.part g.part).map (fun p => p.throttled)).getD false

/-- What a path finds at its PC: a header; then, unless the header holds it, the clause; then, unless its words hold it,
the fault that the clause raises (03 R72, R77). -/
def State.clauseAt (s : State) (gid : Nat) (g : Group) (st : Stream) (slot : Nat) (pc : Dword) (k : PcKind) (m : Word) : Pick :=
  match s.headerAt g slot pc k with
  | .clause c =>
    (match s.heldAt gid g st c with
     | some w => .held w
     | none =>
       match s.clauseWords g st slot c with
       | .clause c =>
         (match s.heldBy gid g m c, c.fault with
          | some w, _ => .held w
          | none, some e => .fault (FaultInfo.plain e)
          | none, none => .clause c)
       | x => x)
  | .fault f => if s.barrierHolds g st then .held .other else .fault f
  | x => x

/-- What a group offers a slot: its path and what it finds there. -/
def State.offer (s : State) (slot gid : Nat) (g : Group) (st : Stream) : Option (Dword × PcKind × Word × Pick) :=
  if !s.selectable gid g st then none
  else
    ((g.stream st).path (s.dieCycle g.die)).map (fun p =>
      (p.1, p.2.1, p.2.2,
        match s.clauseAt gid g st slot p.1 p.2.1 p.2.2 with
        | .held w => if w = .popEmpty ∧ st = .comp ∧ g.ahead.isSome then .deliver else .held w
        | x => x))

/-- A WAITQ clause holds a stream of a group for want of an entry (07 R182). -/
def State.waitqHolds (s : State) (gid : Nat) (g : Group) (st : Stream) : Bool :=
  match s.offer (6 * g.core + (if st = .comp then 0 else 4)) gid g st with
  | some (_, _, _, .held .popEmpty) => true
  | _ => false

/-! The choice of a slot (07 R194). -/

/-- A group stands before another in the order of choice. -/
def chosenFirst (st : Stream) (a b : Group) : Bool :=
  if a.cfg.prio ≠ b.cfg.prio then decide (b.cfg.prio < a.cfg.prio)
  else if (a.stream st).lastEnd ≠ (b.stream st).lastEnd then decide ((a.stream st).lastEnd < (b.stream st).lastEnd)
  else decide (a.slotIx < b.slotIx)

/-- The pick lets its group be chosen. -/
def Pick.ready : Pick → Bool
  | .fault _ | .deliver | .clause _ => true
  | _ => false

/-- What a slot can choose from. -/
def State.offers (s : State) (slot : Nat) : List (Nat × Group × Dword × PcKind × Word × Pick) :=
  (s.groups.filter (fun e => e.2.core == slotCore slot)).filterMap (fun e =>
    (s.offer slot e.1 e.2 (slotStream slot)).map (fun o => (e.1, e.2, o)))

/-- The group that a slot chooses. -/
def chooseOffer (st : Stream) (os : List (Nat × Group × Dword × PcKind × Word × Pick)) :
    Option (Nat × Group × Dword × PcKind × Word × Pick) :=
  os.foldl (fun b o =>
    match b with
    | some c => if chosenFirst st o.2.1 c.2.1 then some o else b
    | none => some o) none

/-- Groups drawn into a bundle, in ascending GROUPID (07 R196). -/
def drawGroups (pc : Dword) : List (Nat × Group × Dword × PcKind × Word × Pick) → List (Nat × Word) → List (Nat × Word)
  | [], b => b
  | o :: os, b =>
    let m := o.2.2.2.2.1
    let fits := decide (b.length < 4) && o.2.2.1 == pc && (match o.2.2.2.2.2 with | .clause c => c.skip == 0 | _ => false) &&
      b.all (fun e => e.2 &&& m == 0)
    drawGroups pc os (if fits then b ++ [(o.1, m)] else b)

/-- Insert by GROUPID. -/
def insertOffer (o : Nat × Group × Dword × PcKind × Word × Pick) :
    List (Nat × Group × Dword × PcKind × Word × Pick) → List (Nat × Group × Dword × PcKind × Word × Pick)
  | [] => [o]
  | x :: r => if o.2.1.groupId < x.2.1.groupId then o :: x :: r else x :: insertOffer o r

/-- The lanes of a group in which a predicate holds. -/
def Group.predMask (g : Group) (p : PredRef) : Word := maskOf (g.predRef p)

/-- The participation of a run's clause, read when its first instruction issues (03 R74). -/
def State.readCpred (s : State) (slot : Nat) : State :=
  match s.runs.find slot with
  | some r =>
    if r.fresh then
      let cp := r.members.map (fun m => (m.1, ((s.groups.find m.1).map (fun g => g.predMask r.cprn)).getD 0))
      s.modRun slot (fun r => { r with cpred := cp })
    else s
  | none => s

/-- The lanes of a bundle begin a clause: no BPT of it is pending there (08 R219). -/
def State.enterClause (s : State) (st : Stream) (members : List (Nat × Word)) (c : Clause) : State :=
  if c.skip = 0 then members.foldl (fun s e => s.modGroup e.1 (fun g => g.modStream st (fun x => x.dropBpt c.hdr e.2))) s else s

/-- The run that begins with a clause. -/
def Clause.run (c : Clause) (st : Stream) (members : List (Nat × Word)) : Run :=
  { stream := st, members := members, pc := c.hdr + BitVec.ofNat 64 (4 * (c.skip + 1)), hdr := c.hdr,
    code := c.words, words := 0, cprn := hdrCpred c.head, cpred := [], fresh := true, adv := 0, pinned := [],
    ends := hdrBoundary c.head, ready := none, stalled := none, woken := true }

/-- Ask for the translations that offers need. -/
def State.requestOffers (s : State) (slot : Nat) (os : List (Nat × Group × Dword × PcKind × Word × Pick)) : State :=
  os.foldl (fun s o => match o.2.2.2.2.2 with
    | .need x => s.request o.2.1.die o.2.1.fn (.slot slot) x
    | _ => s) s

/-- The die cycle from which a slot can collect for a new run: the one after the last issue of the run before it
(07 R193, R199). -/
def State.slotReady (s : State) (slot : Nat) : Nat :=
  (s.groups.filter (fun e => e.2.core == slotCore slot && (e.2.stream (slotStream slot)).slot == slot)).foldl
    (fun n e => Nat.max n ((e.2.stream (slotStream slot)).restUntil - 7)) (s.slotCycle slot)

/-- A slot begins a run with a clause of a group and draws others of its team (07 R196, R197). -/
def State.beginRun (s : State) (slot gid : Nat) (g : Group) (m : Word) (c : Clause)
    (os : List (Nat × Group × Dword × PcKind × Word × Pick)) : State :=
  let st := slotStream slot
  let others := (os.filter (fun o => o.2.1.team == g.team && o.1 != gid)).foldl (fun l o => insertOffer o l) []
  let members :=
    if c.skip = 0 && !c.instrs.any confined then drawGroups c.hdr others [(gid, m)] else [(gid, m)]
  let s := { s with runs := s.runs.set slot { c.run st members with ready := some (s.slotReady slot) } }
  let s := (members.foldl (fun s e => s.modGroup e.1 (fun g => g.modStream st (fun x => { x with waiting := none, slot := slot }))) s).enterClause
    st members c
  (if 1 < members.length then s.count g.core 0x08 1 else s).readCpred slot

/-- A free slot of the same kind with a lower number has something to choose: it chooses first (07 R194). -/
def State.lowerChooses (s : State) (slot : Nat) : Bool :=
  (List.range (slot % 6)).any (fun i =>
    let other := slot / 6 * 6 + i
    slotStream other == slotStream slot && (s.runs.find other).isNone &&
      (s.offers other).any (fun o => o.2.2.2.2.2.ready))

/-- ARBITRATION: a free slot chooses a group and begins a run, or raises the fault that its clause meets. -/
def execArbitration (slot : Nat) (s : State) : Host.Outcome State Fault Refusal :=
  let st := slotStream slot
  if (s.runs.find slot).isSome || !s.clockRuns (slotCore slot / 96) || s.lowerChooses slot then .next s
  else
    let os := s.offers slot
    let s := s.requestOffers slot os
    match chooseOffer st (os.filter (fun o => o.2.2.2.2.2.ready)) with
    | some (gid, g, pc, k, m, .clause c) =>
      let _ := (pc, k)
      .next (s.beginRun slot gid g m c os)
    | some (gid, g, pc, k, m, .fault f) =>
      .next ((((s.seenFaults g.fn (.slot slot)).raiseAt gid st m pc k f).afterWork gid).wake)
    | some (gid, g, pc, k, m, .deliver) =>
      let c : Ctx := { gid := gid, g := g, m := s.teamRegs gid g st, st := st, lanes := m, act := 0, pc := pc, hdr := pc, kind := k,
                       adv := 0, cpred := none }
      .next ((s.takeFault ((⟨pc, 0, 0, [], none⟩ : Clause).run st [(gid, m)]) 0 c .deliver).wake)
    | _ => .next s

/-! The instruction that a run stands at. -/

/-- The instruction at a run's place. -/
def Run.instr (r : Run) : Option Instr :=
  match r.code with
  | w :: ws => (match decodeWords w (ws.headD 0) with | .ok i => some i | .error _ => none)
  | [] => none

/-- Why a group of a stalled run still waits: for its lookahead, or for a queue (07 R182, R184). -/
def State.memberWait (s : State) (r : Run) (m : Nat × Word) : Option WaitReason :=
  if r.stalled ∈ [some .popEmpty, some .pushFull, some .slip, some .lookahead] then
    r.instr.bind (fun i => (s.ctx r m).bind (fun c =>
      if s.lookaheadWait (instrShape i) c then some .lookahead else queueWait c (instrShape i)))
  else none

/-- The machine as the next instruction of a slot finds it: what is due has landed, and a clause that begins has read its
predicate (03 R74, R88). -/
def State.arrive (s : State) (slot : Nat) (r : Run) : State := (({ s with cur := slot } : State).landRun slot r).readCpred slot

/-- What the next instruction of a run reads: the rows of a matrix instruction are those of its block (10 R269, R270). -/
def State.rowUses (s : State) (r : Run) : Uses :=
  match r.instr, (r.members.filterMap (s.ctx r)).head? with
  | some (.mmaBf16 m), some c => mmaUses m 0x64 c
  | some (.mmaF16 m), some c => mmaUses m 0x65 c
  | some (.mmaE4m3 m), some c => mmaUses m 0x66 c
  | some (.mmaE5m2 m), some c => mmaUses m 0x67 c
  | some (.mmaE2m1 m), some c => mmaUses m 0x68 c
  | some (.mmaVq2 m), some c => mmaUses m 0x69 c
  | some (.mmaI8 m), some c => mmaUses m 0x6A c
  | some (.mld x), some c => xferUses x c false
  | some (.mst x), some c => xferUses x c true
  | some i, _ => instrShape i
  | none, _ => {}

/-- The cycles for which collection freezes a slot before the next instruction of its run (07 R199): a row that a due write
changes is no longer pinned. -/
def State.collectCycles (s : State) (slot : Nat) (r : Run) : Nat :=
  let t := s.arrive slot r
  ((t.runs.find slot).map (fun q => (t.rowUses q).collectFreeze q.pinned)).getD 0

/-- The operands of the next instruction of a run have been collected (07 R199). -/
def State.collects (s : State) (slot : Nat) (r : Run) : Bool :=
  match r.ready with
  | none => true
  | some n => decide (n + s.collectCycles slot r ≤ s.slotCycle slot)

/-! The next clause of a run (03 R76). -/

/-- A run ends, with what follows for its groups. -/
def State.closeRun (s : State) (slot : Nat) : State :=
  (((s.runs.find slot).map (fun r => r.members)).getD []).foldl (fun s m => s.afterWork m.1) (s.endRun slot) |>.wake

/-- A group's lanes that stand at the header a run goes on with join its lanes in the run, being on the path with them, where
no other group has their columns (07 R195; 18 R466; log 19). -/
def State.joined (s : State) (r : Run) (m : Nat × Word) : Nat × Word :=
  match s.groups.find m.1 with
  | none => m
  | some g =>
    let x := g.stream r.stream
    let others := r.members.foldl (fun b e => if e.1 = m.1 then b else b ||| e.2) 0
    (m.1, m.2 ||| (x.walkers (s.dieCycle g.die) &&& ~~~others &&& x.lanesWhere (fun l => l.pc == r.pc && l.kind == .header)))

/-- A run between two clauses takes the next one, or ends: before a clause that would take it above 24 words, one that
is not eligible, or one that its bundle may not issue (07 R197). Eligibility sees what is due by then. -/
def State.nextClause (s : State) (slot : Nat) : State :=
  match s.runs.find slot with
  | none => s
  | some r0 =>
    let now := s
    let s := now.landRun slot r0
    let r := { r0 with members := r0.members.map (s.joined r0) }
    let gs := r.members.filterMap (fun m => (s.groups.find m.1).map (fun g => (m, g)))
    match gs with
    | [] => now.closeRun slot
    | (m, g) :: _ =>
      match s.clauseAt m.1 g r.stream slot r.pc .header m.2 with
      | .clause c =>
        if decide (24 < r.words + c.words.length) ||
            gs.any (fun e => (s.heldAt e.1.1 e.2 r.stream c).isSome || (s.heldBy e.1.1 e.2 e.1.2 c).isSome) ||
            (decide (1 < gs.length) && c.instrs.any confined) then now.closeRun slot
        else
          ((now.modRun slot (fun q =>
            { c.run r.stream r.members with words := q.words, adv := q.adv, pinned := q.pinned, ready := q.ready })).enterClause
              r.stream r.members c).readCpred slot
      | .need x => (now.closeRun slot).request g.die g.fn (.slot slot) x
      | _ => now.closeRun slot

end Sys2Proof.Machine
end

