-- ==== Sys2Proof/Machine/Copy.lean ====
section
/-! DEFINITION. Commands of the copy channels (14 R362 to R374; 13 R328 to R333). A command advances one access, or
one row's reads, at a time; an AON tile and the last read of VREAD are one event. -/

namespace Sys2Proof.Machine

open Sys2Proof

/-! What every command shares. -/

/-- The command at a queue's head. -/
def State.headCmd (s : State) (q : Nat) : Option QCmd := (s.queue q).cmds.head?

/-- The die of a queue. -/
def queueDie (q : Nat) : Nat := q / 32

/-- Progress of a command that starts. -/
def Progress.start : Progress := ⟨0, 0, 0, 0, 0, [], [], none, [], false⟩

/-- The progress of a queue's head. -/
def State.progress (s : State) (q : Nat) : Progress := (s.queue q).prog.getD Progress.start

/-- Set the progress of a queue's head. -/
def State.setProgress (s : State) (q : Nat) (p : Progress) : State := s.modQueue q (fun x => { x with prog := some p })

/-- The partition in which a command's addresses are judged. -/
def State.cmdPart (s : State) (c : QCmd) : Nat :=
  ((s.launches.find c.launch).map (fun l => l.part)).getD (fieldNat (lowHalf (s.fn c.fn).sched) 4 0)

/-- Translate an address for a command. -/
def State.cmdXlat (s : State) (q : Nat) (c : QCmd) (need : Need) (va : Nat) : Xlat :=
  s.translate (queueDie q) c.fn (s.cmdPart c) (.queue q) need (va % 2 ^ 64)

/-- Causes of 14 Table 14.3. -/
def failCode : Cause → Nat
  | .permission => 4
  | _ => 3

/-- What one translated access of a command gives: a place, a wait, or a cause of failure. -/
inductive Reach where
  | at_ (key : Nat)
  | wait (s : State)
  | fail (cause : Nat)
  deriving DecidableEq, Repr

/-- Reach an address: TRANSIT waits for the move to end (14 R363), a line homed on a die that relocks for that die (14 R384),
and a granule for the requests that came to its home before (13 R340). -/
def State.reach (s : State) (q : Nat) (c : QCmd) (need : Need) (va : Nat) : Reach :=
  match s.cmdXlat q c need va with
  | .ok key =>
    if s.homeWaits key then .wait (s.waitHome (queueDie q) key)
    else .at_ key
  | .fault .transit => .wait s
  | .fault e => .fail (failCode e)
  | .busy => .wait s
  | x => .wait (s.request (queueDie q) c.fn (.queue q) x)

/-- Bytes read by a command. -/
inductive ReadOut where
  | got (bytes : List Byte) (bad : List Bool) (s : State)
  | wait (s : State)
  | fail (cause : Nat)
  deriving DecidableEq, Repr

/-- The recorder sees an access of a command (19 R487). -/
def State.orderCmd (s : State) (q : Nat) (c : QCmd) (key : Nat) : State :=
  match s.groups.find c.gid with
  | some g => s.orderLine g key (g.yQueue q)
  | none => s

/-- The recorder sees what an access of a command made of its granule. -/
def State.orderCmdChange (t s : State) (q : Nat) (c : QCmd) (key : Nat) : State :=
  match s.groups.find c.gid with
  | some g => t.orderChange s g (granuleOf key) (g.yQueue q)
  | none => t

/-- An access of a command takes place at its home. -/
def State.cmdAccess (s : State) (q : Nat) (c : QCmd) (key : Nat) (write : Bool) : State :=
  ((s.orderCmd q c key).classify key (queueDie q) none write).orderCmdChange s q c key

/-- The largest naturally aligned access at an address that does not pass a number of bytes (13 R323). -/
def accessSize (a left : Nat) : Nat :=
  if a % 16 = 0 ∧ 16 ≤ left then 16 else if a % 8 = 0 ∧ 8 ≤ left then 8 else if a % 4 = 0 ∧ 4 ≤ left then 4
  else if a % 2 = 0 ∧ 2 ≤ left then 2 else 1

/-- Read `n` bytes from an address, in naturally aligned pieces of at most 16 bytes. -/
def State.cmdRead (s : State) (q : Nat) (c : QCmd) (va : Nat) : Nat → Nat → ReadOut
  | _, 0 => .got [] [] s
  | 0, _ => .got [] [] s
  | fuel + 1, n =>
    let size := accessSize va n
    match s.reach q c .read va with
    | .wait s => .wait s
    | .fail e => .fail e
    | .at_ key =>
      let bs := s.bytesAt key size
      let bad := s.poisonIn key size
      (match (s.cmdAccess q c key false).cmdRead q c (va + size) fuel (n - size) with
       | .got rest restBad s => .got (bs ++ rest) (List.replicate size bad ++ restBad) s
       | x => x)

/-- Read `n` bytes. -/
def State.readBytes (s : State) (q : Nat) (c : QCmd) (va n : Nat) : ReadOut := s.cmdRead q c va (n + 1) n

/-- A write of a command. -/
inductive WriteOut where
  | done (s : State)
  | wait (s : State)
  | fail (cause : Nat)
  deriving DecidableEq, Repr

/-- Write bytes that lie in one 16-byte block; a data write moves WP (14 R374). -/
def State.cmdWrite (s : State) (q : Nat) (c : QCmd) (va : Nat) (bs : List Byte) (bad data : Bool) : WriteOut :=
  match s.reach q c .write va with
  | .wait s => .wait s
  | .fail e => .fail e
  | .at_ key =>
    let s := (s.cmdAccess q c key true).writeBytes key bs
    let s := if bad then s.writePoison key bs.length else s
    .done (if data then s.modQueue q (fun x => { x with wp := BitVec.ofNat 64 (va + bs.length) }) else s)

/-- What a command does in one step. -/
inductive CmdOut where
  | wait (s : State)
  | more (s : State)
  | done (s : State) (count : Int) (bar : Nat)
  | fail (s : State) (cause : Nat) (count : Int) (bar : Nat)
  deriving DecidableEq, Repr

/-- The record of a failed command (14 R365; 17 R442). -/
def State.logFailure (s : State) (q : Nat) (c : QCmd) (cause bar : Nat) : State :=
  let detail := bytesOfNat 1 (q % 32) ++ bytesOfNat 1 (queueDie q) ++ bytesOfNat 1 cause ++ bytesOfNat 5 0 ++ bytesOfNat 8 bar
  s.postLog c.fn (s.cmdPart c) (BitVec.ofNat 32 (Cause.cmdfail.code + 2 ^ 8 * AccessKind.engine.code)) 0 detail

/-- The command at the head is over: it leaves its queue and frees its drain buffer (14 R373). -/
def State.popCommand (s : State) (q : Nat) : State :=
  (s.modQueue q (fun x =>
    match x.cmds with
    | c :: rest =>
      { x with cmds := rest, prog := none, bufs := if c.drained then x.bufs.drop (natAt c.bytes 0x26 1 % 4) else x.bufs }
    | [] => { x with prog := none })).wake

/-- A waiter of a queue has seen its failed walks. -/
def State.queueSeen (s : State) (q : Nat) (c : QCmd) : State := s.seenFaults c.fn (.queue q)

/-- The decrement of REMAIN, with ERR and CAUSE when the command failed: one atomic access, whose bytes stay poisoned when
those it reads are (14 R363 to R365). -/
def State.decrement (s : State) (key cause : Nat) (count : Int) (die : Nat) : State :=
  let o := natOfBytes (s.bytesAt key 16)
  let remain := wrapNat 64 ((o % 2 ^ 64 : Nat) - count)
  let st := o / 2 ^ 96
  let st := if cause = 0 then st else if st / 2 % 2 ^ 7 = 0 then st / 2 ^ 8 * 2 ^ 8 + 2 * cause + 1 else st / 2 * 2 + 1
  let bad := s.poisonIn key 16
  let s := s.classify key die none true
  if cause = 0 then s.writeBytes key (bytesOfNat 8 remain)
  else
    let s := s.writeBytes key (bytesOfNat 8 remain ++ bytesOfNat 4 (o / 2 ^ 64) ++ bytesOfNat 4 st)
    if bad then s.writePoison key 16 else s

/-- The end of a command: its decrement, its log, and the next command's turn. -/
def State.endCommand (s : State) (q : Nat) (c : QCmd) (cause : Nat) (count : Int) (bar : Nat) : State :=
  if bar = 0 then (if cause = 0 then s else s.logFailure q c cause bar).popCommand q
  else
    match s.reach q c .both bar with
    | .wait s => s.setProgress q { s.progress q with ending := some (cause, count, bar) }
    | .fail e => ((s.queueSeen q c).logFailure q c (if cause = 0 then e else cause) bar).popCommand q
    | .at_ key =>
      let s := ((s.orderCmd q c key).decrement key cause count (queueDie q)).orderCmdChange s q c key
      (if cause = 0 then s else s.logFailure q c cause bar).popCommand q

/-- Run one step of the command at the head of a queue. -/
def State.runCommand (s : State) (q : Nat) (body : State → QCmd → Progress → CmdOut) : State :=
  match s.headCmd q with
  | none => s
  | some c =>
    if c.guard ≠ 0 ∧ !c.started then s
    else
      let p := s.progress q
      match p.ending with
      | some (cause, count, bar) => s.endCommand q c cause count bar
      | none =>
        match body s c p with
        | .wait t => t.unseen s c.fn
        | .more s => s.wake
        | .done s count bar => s.endCommand q c 0 count bar
        | .fail s cause count bar =>
          let s := s.queueSeen q c
          -- an object that is not aligned faults: no decrement (14 R365)
          if bar % 16 ≠ 0 then (s.logFailure q c cause bar).popCommand q else s.endCommand q c cause count bar

/-- Judge a command's own fields before any access: BADCMD, then MISALIGNED, BAR included. -/
def judgeFields (s : State) (count : Int) (bar : Nat) (bad misaligned : Bool) (go : CmdOut) : CmdOut :=
  if bad then .fail s 1 count bar
  else if misaligned || bar % 16 != 0 then .fail s 2 count bar
  else go

/-- Copy bytes that lie in one 16-byte block at each end, as one read and one write. -/
def State.copyChunk (s : State) (q : Nat) (c : QCmd) (src dst n : Nat) (next : State → CmdOut) (count : Int) (bar : Nat) :
    CmdOut :=
  match s.readBytes q c src n with
  | .wait s => .wait s
  | .fail e => .fail s e count bar
  | .got bs bad s =>
    match s.cmdWrite q c dst bs (bad.any (fun b => b)) true with
    | .wait s => .wait s
    | .fail e => .fail s e count bar
    | .done s => next s

/-- Move on to the next item of a command. -/
def State.nextItem (s : State) (q : Nat) (p : Progress) : CmdOut := .more (s.setProgress q { p with pos := p.pos + 1 })

/-! COPY, FILL, GATHER, SIGNAL and KVCOMMIT (14 R366 to R368). -/

/-- COPY. -/
def execCopy (q : Nat) (bar src dst len : Dword) (s : State) : Host.Outcome State Fault Refusal :=
  .next (s.runCommand q (fun s c p =>
    let n : Nat := len.toNat
    judgeFields s n bar.toNat false (n % 16 != 0 || src.toNat % 16 != 0 || dst.toNat % 16 != 0)
      (if n ≤ 16 * p.pos then .done s n bar.toNat
       else s.copyChunk q c (src.toNat + 16 * p.pos) (dst.toNat + 16 * p.pos) 16 (fun s => s.nextItem q p) n bar.toNat)))

/-- FILL. -/
def execFill (q : Nat) (bar dst len : Dword) (pattern : BitVec 128) (s : State) : Host.Outcome State Fault Refusal :=
  .next (s.runCommand q (fun s c p =>
    let n : Nat := len.toNat
    judgeFields s n bar.toNat false (n % 16 != 0 || dst.toNat % 16 != 0)
      (if n ≤ 16 * p.pos then .done s n bar.toNat
       else
         match s.cmdWrite q c (dst.toNat + 16 * p.pos) (bytesOfNat 16 pattern.toNat) false true with
         | .wait s => .wait s
         | .fail e => .fail s e n bar.toNat
         | .done s => s.nextItem q p)))

/-- GATHER: `pos` counts chunks of all rows; `x` holds the index of the row in progress. -/
def execGather (q : Nat) (bar src idx dst pitch : Dword) (count rowbytes : Word) (s : State) :
    Host.Outcome State Fault Refusal :=
  .next (s.runCommand q (fun s c p =>
    let rows := count.toNat
    let rb := rowbytes.toNat
    let total : Int := rows * rb
    judgeFields s total bar.toNat (rows == 0 || decide (65536 < rows) || decide (rb < 16) || decide (65536 < rb))
      (idx.toNat % 4 != 0 || src.toNat % 16 != 0 || dst.toNat % 16 != 0 || pitch.toNat % 16 != 0 || rb % 16 != 0)
      (let per := rb / 16
       if rows * per ≤ p.pos then .done s total bar.toNat
       else
         let k := p.pos / per
         if p.stage = 0 then
           match s.readBytes q c (idx.toNat + 4 * k) 4 with
           | .wait s => .wait s
           | .fail e => .fail s e total bar.toNat
           | .got bs _ s => .more (s.setProgress q { p with stage := 1, x := natOfBytes bs })
         else
           let o := 16 * (p.pos % per)
           s.copyChunk q c (src.toNat + p.x * pitch.toNat + o) (dst.toNat + k * rb + o) 16
             (fun s => s.nextItem q { p with stage := if (p.pos + 1) % per = 0 then 0 else 1 }) total bar.toNat)))

/-- The slots of a mask, ascending. -/
def slotsOf (m n : Nat) : List Nat := (List.range n).filter (fun i => m.testBit i)

/-- KVCOMMIT: stage 0 reads the length, stage 3 the mask, stage 1 copies the entries and then stores the length. -/
def execKvcommit (q : Nat) (bar stage cache lenaddr maskaddr : Dword) (entbytes : Word) (nslots : BitVec 8) (cap : Word)
    (s : State) : Host.Outcome State Fault Refusal :=
  .next (s.runCommand q (fun s c p =>
    let eb := entbytes.toNat
    let n := nslots.toNat
    let total : Int := n * eb
    let b := bar.toNat
    judgeFields s total b (decide (eb < 16) || decide (65536 < eb) || n == 0 || decide (32 < n))
      (stage.toNat % 16 != 0 || cache.toNat % 16 != 0 || eb % 16 != 0 || lenaddr.toNat % 8 != 0 || maskaddr.toNat % 4 != 0)
      (if p.stage = 0 then
         match s.readBytes q c lenaddr.toNat 8 with
         | .wait s => .wait s
         | .fail e => .fail s e total b
         | .got lb _ s => .more (s.setProgress q { p with stage := 3, x := natOfBytes lb })
       else if p.stage = 3 then
         match s.readBytes q c maskaddr.toNat 4 with
         | .wait s => .wait s
         | .fail e => .fail s e total b
         | .got mb _ s =>
           let m := natOfBytes mb % 2 ^ n
           if cap.toNat < p.x + popcountNat 32 m then .fail s 6 total b
           else .more (s.setProgress q { p with stage := 1, pos := 0, y := m })
       else
         let slots := slotsOf p.y n
         let per := eb / 16
         if slots.length * per ≤ p.pos then
           match s.cmdWrite q c lenaddr.toNat (bytesOfNat 8 (p.x + slots.length)) false false with
           | .wait s => .wait s
           | .fail e => .fail s e total b
           | .done s => .done s total b
         else
           let e := p.pos / per
           let o := 16 * (p.pos % per)
           s.copyChunk q c (stage.toNat + slots.getD e 0 * eb + o) (cache.toNat + (p.x + e) * eb + o) 16
             (fun s => s.nextItem q p) total b)))

/-- SIGNAL. -/
def execSignal (q : Nat) (bar addr value : Dword) (mode : BitVec 8) (decr : Dword) (s : State) :
    Host.Outcome State Fault Refusal :=
  .next (s.runCommand q (fun s c _ =>
    let n : Int := decr.toInt
    judgeFields s n bar.toNat (decide (1 < mode.toNat)) (addr.toNat % 8 != 0)
      (if addr = 0 then .done s n bar.toNat
       else
         match s.reach q c (if mode = 0 then .write else .both) addr.toNat with
         | .wait s => .wait s
         | .fail e => .fail s e n bar.toNat
         | .at_ key =>
           let old := natOfBytes (s.bytesAt key 8)
           let s := s.cmdAccess q c key true
           .done (s.writeBytes key (bytesOfNat 8 (if mode = 0 then value.toNat else old + value.toNat))) n bar.toNat)))

/-! Tensor shapes (14 R369, R370). -/

/-- A shape record (14 Table 14.5). -/
structure Shape where
  base : Nat
  stride1 : Nat
  stride2 : Nat
  veraddr : Nat
  baraddr : Nat
  dim0 : Nat
  dim1 : Nat
  dim2 : Nat
  org0 : Int
  org1 : Int
  org2 : Nat
  efmt : Nat
  ver : Bool
  aon : Bool
  reserved : Nat
  deriving DecidableEq, Repr

/-- The record in 64 bytes. -/
def Shape.of (bs : List Byte) : Shape :=
  { base := natAt bs 0 8, stride1 := natAt bs 8 8, stride2 := natAt bs 0x10 8, veraddr := natAt bs 0x18 8,
    baraddr := natAt bs 0x20 8, dim0 := natAt bs 0x28 4, dim1 := natAt bs 0x2C 4, dim2 := natAt bs 0x30 4,
    org0 := signedOf 32 (natAt bs 0x34 4), org1 := signedOf 32 (natAt bs 0x38 4), org2 := natAt bs 0x3C 2,
    efmt := natAt bs 0x3E 1, ver := (natAt bs 0x3F 1).testBit 1, aon := (natAt bs 0x3F 1).testBit 0,
    reserved := natAt bs 0x3F 1 / 4 }

/-- esize of EFMT; none for an invalid format. -/
def esizeOf (efmt : Nat) : Option Nat :=
  if efmt = 0 ∨ efmt = 0xA then some 4 else if efmt = 2 then some 2 else if efmt = 3 ∨ efmt = 6 then some 1 else none

/-- A field of the record is out of its range. -/
def Shape.bad (r : Shape) (e : Nat) : Bool :=
  r.dim0 == 0 || r.dim1 == 0 || r.dim2 == 0 || r.reserved != 0 || decide (r.stride1 < r.dim0 * e) ||
    decide (r.stride2 < r.dim1 * r.stride1)

/-- An address or pitch of the record is off its multiple. -/
def Shape.misaligned (r : Shape) (e : Nat) : Bool :=
  r.base % e != 0 || r.stride1 % e != 0 || r.stride2 % e != 0 || (r.ver && r.veraddr % 8 != 0)

/-- The columns of a tile row that are not clipped: the first and their number. -/
def Shape.run (r : Shape) (tcols i : Nat) : Nat × Nat :=
  let y := r.org1 + i
  if y < 0 ∨ r.dim1 ≤ y ∨ r.dim2 ≤ r.org2 then (0, 0)
  else
    let lo := (max 0 (-r.org0)).toNat
    let hi := (min (tcols : Int) (r.dim0 - r.org0)).toNat
    (lo, hi - lo)

/-- The address of tile element (i, j). -/
def Shape.addr (r : Shape) (e i j : Nat) : Nat :=
  wrapNat 64 (r.base + r.org2 * r.stride2 + (r.org1 + i) * r.stride1 + (r.org0 + j) * e)

/-- Lines that a tile covers, its rows ascending: the count and the last line (14 R371; 13 R332). -/
def Shape.lines (r : Shape) (e trows tcols : Nat) : Nat :=
  let ver := r.veraddr / 128
  let x := (List.range trows).foldl (fun (x : Nat × Int × Bool) i =>
    let (lo, n) := r.run tcols i
    if n = 0 then x
    else
      let first : Int := (r.addr e i lo / 128 : Nat)
      let last : Int := ((r.addr e i lo + n * e - 1) / 128 : Nat)
      let new := last - max first (x.2.1 + 1) + 1
      (x.1 + new.toNat, max last x.2.1, x.2.2 || (decide (first ≤ ver) && decide ((ver : Int) ≤ last)))) (0, -1, false)
  x.1 + (if r.ver && !x.2.2 then 1 else 0)

/-- What a tile command knows once it has read its shape. -/
structure TileJob where
  shape : Shape
  esize : Nat
  bar : Nat
  count : Int
  deriving DecidableEq, Repr

/-- A step of a tile or VREAD command begins: its own fields, then its shape record (14 R365, R369). -/
def State.withShape (s : State) (q : Nat) (c : QCmd) (p : Progress) (bar shape trows tcols : Nat) (drained misaligned : Bool)
    (badShape : Shape → Nat → Bool) (go : State → TileJob → CmdOut) : CmdOut :=
  judgeFields s 0 bar (trows == 0 || decide (4096 < trows) || tcols == 0 || decide (4096 < tcols))
    (shape % 64 != 0 || misaligned)
    (if p.shape.length < 64 then
       match s.readBytes q c (shape + p.shape.length) 16 with
       | .wait s => .wait s
       | .fail e => .fail s e 0 (if drained then 0 else bar)
       | .got bs _ s => .more (s.setProgress q { p with shape := p.shape ++ bs })
     else
       let r := Shape.of p.shape
       let bar := if drained then r.baraddr else bar
       match esizeOf r.efmt with
       | none => .fail s 1 0 bar
       | some e =>
         let count : Int := trows * tcols * e
         if r.bad e || badShape r e then .fail s 1 count bar
         else if r.misaligned e || bar % 16 != 0 then .fail s 2 count bar
         else go s ⟨r, e, bar, count⟩)

/-! TILE and TILEADD (14 R371, R373). -/

/-- The packed source of a tile row: the drain buffer's, or SRC's. -/
def State.tileRowBytes (s : State) (q : Nat) (c : QCmd) (t : TileCmd) (e i : Nat) : ReadOut :=
  if t.drained then
    match (s.queue q).bufs.find t.buffer.toNat with
    | some b =>
      let row := b.rows.getD i []
      .got (row.flatMap (fun x => bytesOfNat e x)) (List.replicate (row.length * e) (b.psn.getD i false)) s
    | none => .got (List.replicate (32 * e) 0) (List.replicate (32 * e) false) s
  else s.readBytes q c (t.src.toNat + i * t.tcols.toNat * e) (t.tcols.toNat * e)

/-- The next piece of the source of a tile row, of which `o` bytes have been read (13 R323): a drained row is whole. -/
def State.tileRowPiece (s : State) (q : Nat) (c : QCmd) (t : TileCmd) (e i o : Nat) : ReadOut :=
  if t.drained then s.tileRowBytes q c t e i
  else
    let a := t.src.toNat + i * t.tcols.toNat * e + o
    s.readBytes q c a (accessSize a (t.tcols.toNat * e - o))

/-- The new bytes of an element of TILEADD (14 R371). -/
def tileSum (efmt e old src : Nat) : Nat :=
  let fp (f : FFmt) : Nat := (f.finish (.mode .rn) false false (fpAdd (.mode .rn) (f.decode old) (f.decode src))).1
  if efmt = 0 then fp .f32 else if efmt = 2 then fp .bf16 else (old + src) % 2 ^ (8 * e)

/-- The bytes that a write of a tile stores, given what memory holds: the source itself, or the sums. -/
def tileBytes (add : Bool) (efmt e : Nat) (old src : List Byte) : List Byte :=
  if add then bytesOfNat e (tileSum efmt e (natOfBytes old) (natOfBytes src)) else src

/-- One write of a tile row at byte `o` of its run: its size and the state after it. -/
def State.tileWrite (s : State) (q : Nat) (c : QCmd) (add : Bool) (j : TileJob) (row : List Byte) (bad : List Bool)
    (tcols i o : Nat) : WriteOut × Nat :=
  let (lo, n) := j.shape.run tcols i
  let a := (j.shape.addr j.esize i lo + o) % 2 ^ 64
  let size := if add then j.esize else accessSize a (n * j.esize - o)
  match s.reach q c (if add then .both else .write) a with
  | .wait s => (.wait s, 0)
  | .fail e => (.fail e, 0)
  | .at_ key =>
    let src := (row.drop (lo * j.esize + o)).take size
    let poison := ((bad.drop (lo * j.esize + o)).take size).any (fun b => b) || (add && s.poisonIn key size)
    let bs := tileBytes add j.shape.efmt j.esize (s.bytesAt key size) src
    let s := (s.cmdAccess q c key true).writeBytes key bs
    let s := if poison then s.writePoison key size else s
    (.done (s.modQueue q (fun x => { x with wp := BitVec.ofNat 64 (a + size) })), size)

/-- All writes of a tile row from byte `o`. -/
def State.tileRowAll (s : State) (q : Nat) (c : QCmd) (add : Bool) (j : TileJob) (row : List Byte) (bad : List Bool)
    (tcols i : Nat) : Nat → Nat → WriteOut
  | 0, _ => .done s
  | fuel + 1, o =>
    if (j.shape.run tcols i).2 * j.esize ≤ o then .done s
    else
      match s.tileWrite q c add j row bad tcols i o with
      | (.done s, n) => s.tileRowAll q c add j row bad tcols i fuel (o + n)
      | (x, _) => x

/-- Every row of an AON tile, reads and writes. -/
def State.tileAll (s : State) (q : Nat) (c : QCmd) (t : TileCmd) (add : Bool) (j : TileJob) : List Nat → WriteOut
  | [] => .done s
  | i :: is =>
    match s.tileRowBytes q c t j.esize i with
    | .wait s => .wait s
    | .fail e => .fail e
    | .got row bad s =>
      match s.tileRowAll q c add j row bad t.tcols.toNat i (row.length + 1) 0 with
      | .done s => s.tileAll q c t add j is
      | x => x

/-- A command whose accesses are one event waits: what its accesses asked for stands, and nothing else that they did. -/
def State.waitsLike (s t : State) : State :=
  { s with walks := t.walks, misses := t.misses, ats := t.ats, nextId := t.nextId, fifo := t.fifo }

/-- An AON tile: every address is translated first; then the tile and its version word change as one event. -/
def State.tileAon (s : State) (q : Nat) (c : QCmd) (t : TileCmd) (add : Bool) (j : TileJob) : CmdOut :=
  match s.tileAll q c t add j (List.range t.trows.toNat) with
  | .wait s' => .wait (s.waitsLike s')
  | .fail e => .fail s e j.count j.bar
  | .done s' =>
    if !j.shape.ver then .done s' j.count j.bar
    else
      match s.reach q c .both j.shape.veraddr with
      | .wait s => .wait s
      | .fail e => .fail s e j.count j.bar
      | .at_ key =>
        let v := natOfBytes (s'.bytesAt key 8)
        .done ((s'.cmdAccess q c key true).writeBytes key (bytesOfNat 8 (v + 1))) j.count j.bar

/-- A TILE or TILEADD step. -/
def State.tileStep (s : State) (q : Nat) (c : QCmd) (t : TileCmd) (add : Bool) (p : Progress) (j : TileJob) : CmdOut :=
  if j.shape.aon && decide (512 < j.shape.lines j.esize t.trows.toNat t.tcols.toNat) then .fail s 5 j.count j.bar
  else if j.shape.aon then s.tileAon q c t add j
  else if t.trows.toNat ≤ p.pos then .done s j.count j.bar
  else if p.stage = 0 then
    match s.tileRowPiece q c t j.esize p.pos p.buf.length with
    | .wait s => .wait s
    | .fail e => .fail s e j.count j.bar
    | .got bs bad s =>
      let row := p.buf ++ bs
      .more (s.setProgress q { p with
        stage := if t.tcols.toNat * j.esize ≤ row.length then 1 else 0, x := 0, buf := row, bad := p.bad ++ bad })
  else if (j.shape.run t.tcols.toNat p.pos).2 * j.esize ≤ p.x then
    .more (s.setProgress q { p with stage := 0, pos := p.pos + 1, x := 0, buf := [], bad := [] })
  else
    match s.tileWrite q c add j p.buf p.bad t.tcols.toNat p.pos p.x with
    | (.wait s, _) => .wait s
    | (.fail e, _) => .fail s e j.count j.bar
    | (.done s, n) => .more (s.setProgress q { p with x := p.x + n })

/-- A shape that TILE or TILEADD refuses. -/
def State.badTile (s : State) (q : Nat) (t : TileCmd) (add : Bool) (r : Shape) (e : Nat) : Bool :=
  (r.ver && !r.aon) || (add && !(r.efmt == 0 || r.efmt == 2 || r.efmt == 0xA)) ||
    (t.drained && (match (s.queue q).bufs.find t.buffer.toNat with
      | some b => b.width != e || b.efmt != r.efmt
      | none => false))

/-- TILE and TILEADD. -/
def State.runTile (s : State) (q : Nat) (t : TileCmd) (add : Bool) : State :=
  s.runCommand q (fun s c p =>
    s.withShape q c p t.bar.toNat t.shape.toNat t.trows.toNat t.tcols.toNat t.drained false (s.badTile q t add) (fun s j =>
      s.tileStep q c t add p j))

/-- TILE. -/
def execTile (q : Nat) (c : TileCmd) (s : State) : Host.Outcome State Fault Refusal := .next (s.runTile q c false)
/-- TILEADD. -/
def execTileadd (q : Nat) (c : TileCmd) (s : State) : Host.Outcome State Fault Refusal := .next (s.runTile q c true)

/-! VREAD (14 R372; 13 R333). -/

/-- The packed bytes of a tile row: clipped elements are zero. -/
def State.vreadRow (s : State) (q : Nat) (c : QCmd) (j : TileJob) (tcols i : Nat) : ReadOut :=
  let (lo, n) := j.shape.run tcols i
  let pad (k : Nat) : List Byte := List.replicate (k * j.esize) 0
  if n = 0 then .got (pad tcols) (List.replicate (tcols * j.esize) false) s
  else
    match s.readBytes q c (j.shape.addr j.esize i lo) (n * j.esize) with
    | .got bs bad s =>
      .got (pad lo ++ bs ++ pad (tcols - lo - n))
        (List.replicate (lo * j.esize) false ++ bad ++ List.replicate ((tcols - lo - n) * j.esize) false) s
    | x => x

/-- Every row of a tile, in order. -/
def State.vreadRows (s : State) (q : Nat) (c : QCmd) (j : TileJob) (tcols : Nat) : List Nat → ReadOut
  | [] => .got [] [] s
  | i :: is =>
    match s.vreadRow q c j tcols i with
    | .got bs bad s =>
      (match s.vreadRows q c j tcols is with
       | .got rest restBad s => .got (bs ++ rest) (bad ++ restBad) s
       | x => x)
    | x => x

/-- A VREAD step: stage 0 reads the version, 1 the rows, 2 the version again, 3 delivers, 4 writes the version out. -/
def State.vreadStep (s : State) (q : Nat) (c : QCmd) (p : Progress) (j : TileJob) (dst vout trows tcols : Nat) : CmdOut :=
  let fail (e : Nat) : CmdOut := .fail s e j.count j.bar
  let ver (s : State) : ReadOut := s.readBytes q c j.shape.veraddr 8
  match p.stage with
  | 0 =>
    if 4 ≤ p.tries then
      -- under ownership: version and tile as one event
      (match ver s with
       | .wait s => .wait s
       | .fail e => fail e
       | .got vb vbad s1 =>
         match s1.vreadRows q c j tcols (List.range trows) with
         | .wait s' => .wait (s.waitsLike s')
         | .fail e => fail e
         | .got bs bad s => .more (s.setProgress q { p with stage := 3, pos := 0, x := natOfBytes vb, buf := bs, bad := bad, verBad := vbad.any id }))
    else
      (match ver s with
       | .wait s => .wait s
       | .fail e => fail e
       | .got vb vbad s =>
         .more (s.setProgress q { p with stage := 1, pos := 0, x := natOfBytes vb, y := 0, buf := [], bad := [], verBad := vbad.any id }))
  | 1 =>
    if trows ≤ p.pos then .more (s.setProgress q { p with stage := 2 })
    else
      let (lo, n) := j.shape.run tcols p.pos
      let pad (k : Nat) : List Byte := List.replicate (k * j.esize) 0
      let clean (k : Nat) : List Bool := List.replicate (k * j.esize) false
      if n * j.esize ≤ p.y then
        .more (s.setProgress q { p with pos := p.pos + 1, y := 0, buf := p.buf ++ pad (tcols - lo - n), bad := p.bad ++ clean (tcols - lo - n) })
      else
        let a := j.shape.addr j.esize p.pos lo + p.y
        let size := accessSize a (n * j.esize - p.y)
        let before := if p.y = 0 then lo else 0
        (match s.readBytes q c a size with
         | .wait s => .wait s
         | .fail e => fail e
         | .got bs bad s =>
           .more (s.setProgress q { p with y := p.y + size, buf := p.buf ++ pad before ++ bs, bad := p.bad ++ clean before ++ bad }))
  | 2 =>
    (match ver s with
     | .wait s => .wait s
     | .fail e => fail e
     | .got vb _ s =>
       .more (s.setProgress q
         (if natOfBytes vb = p.x then { p with stage := 3, pos := 0 } else { p with stage := 0, tries := p.tries + 1 })))
  | 3 =>
    if p.buf.length ≤ p.pos then .more (s.setProgress q { p with stage := 4 })
    else
      let size := accessSize (dst + p.pos) (p.buf.length - p.pos)
      (match s.cmdWrite q c (dst + p.pos) ((p.buf.drop p.pos).take size) (((p.bad.drop p.pos).take size).any (fun b => b)) true with
       | .wait s => .wait s
       | .fail e => fail e
       | .done s => .more (s.setProgress q { p with pos := p.pos + size }))
  | _ =>
    if vout = 0 then .done s j.count j.bar
    else
      (match s.cmdWrite q c vout (bytesOfNat 8 p.x) p.verBad false with
       | .wait s => .wait s
       | .fail e => fail e
       | .done s => .done s j.count j.bar)

/-- VREAD. -/
def execVread (q : Nat) (bar shape dst : Dword) (trows tcols : BitVec 16) (vout : Dword) (s : State) :
    Host.Outcome State Fault Refusal :=
  .next (s.runCommand q (fun s c p =>
    s.withShape q c p bar.toNat shape.toNat trows.toNat tcols.toNat false (dst.toNat % 16 != 0 || vout.toNat % 8 != 0)
      (fun r _ => !r.ver) (fun s j => s.vreadStep q c p j dst.toNat vout.toNat trows.toNat tcols.toNat)))

end Sys2Proof.Machine
end

