-- ==== Sys2Proof/Machine/Yoyo.lean ====
section
/-! DEFINITION. The yo-yo engine: page moves, working sets and their sweep; relearning of granules
(16 R402 to R409; 13 R343, R345). -/

namespace Sys2Proof.Machine

open Sys2Proof

/-! Page tables as a whole. -/

/-- A leaf of a function's page tables. -/
structure Leaf where
  level : Nat
  va : Nat
  word : Dword
  entry : Nat
  deriving DecidableEq, Repr

/-- The indexes of the entries of a table that are not all zero. -/
def State.tableEntries (s : State) (base size : Nat) : List Nat :=
  ((s.mem.filter (fun c => decide (base ≤ c.1) && decide (c.1 < base + size))).map (fun c => (c.1 - base) / 8)).eraseDups

/-- The word of an entry. -/
def State.pte (s : State) (a : Nat) : Dword := BitVec.ofNat 64 (natOfBytes (s.bytesAt a 8))

/-- A valid entry. -/
def pteValid (e : Dword) : Bool := pteBit e 0 && !pteReserved e

/-- The leaves of a table at a level and of the tables below it. -/
def State.leavesFrom (s : State) : List Nat → Nat → Nat → List Leaf
  | [], _, _ => []
  | level :: rest, base, va =>
    (s.tableEntries base (if level = 3 then 2 ^ 18 else 2 ^ 16)).flatMap (fun i =>
      let e := s.pte (base + 8 * i)
      let va := va + i * 2 ^ levelShift level
      if !pteValid e then []
      else if pteBit e 1 then [⟨level, va, e, base + 8 * i⟩]
      else s.leavesFrom rest (pteFrame e) va)

/-- The root table of a function. -/
def Fn.rootBase (f : Fn) : Nat := f.root.toNat / 2 ^ 18 * 2 ^ 18

/-- The canonical address of 57 bits: bits [63:57] equal bit 56 (08 R225). -/
def canonical57 (va : Nat) : Nat := if va.testBit 56 then va + 127 * 2 ^ 57 else va

/-- Every leaf of a function, by ascending address. -/
def State.leaves (s : State) (fn : Nat) : List Leaf :=
  if (s.fn fn).root.getLsbD 0 then
    (s.leavesFrom [3, 2, 1] (s.fn fn).rootBase 0).map (fun l => { l with va := canonical57 l.va })
  else []

/-- The frames that hold tables of a function below its root: their addresses. -/
def State.tablesFrom (s : State) : List Nat → Nat → List Nat
  | [], _ => []
  | level :: rest, base =>
    (s.tableEntries base (if level = 3 then 2 ^ 18 else 2 ^ 16)).flatMap (fun i =>
      let e := s.pte (base + 8 * i)
      if pteValid e && !pteBit e 1 && level != 1 then pteFrame e :: s.tablesFrom rest (pteFrame e) else [])

/-- A leaf maps a byte of a frame of device memory. -/
def Leaf.covers (l : Leaf) (a n : Nat) : Bool :=
  !pteBit l.word 9 && decide (pteFrame l.word < a + n) && decide (a < pteFrame l.word + 2 ^ levelShift l.level)

/-- Functions whose registers are listed. -/
def State.fnList (s : State) : List Nat := Assoc.keys s.fns

/-- A 64 KiB frame is free: no leaf maps it and it holds no page table (log 40). -/
def State.frameFree (s : State) (a : Nat) : Bool :=
  s.fnList.all (fun f =>
    !(s.leaves f).any (fun l => l.covers a 65536) &&
    !(decide ((s.fn f).rootBase < a + 65536) && decide (a < (s.fn f).rootBase + 2 ^ 18) && (s.fn f).root.getLsbD 0) &&
    !((s.fn f).root.getLsbD 0 && (s.tablesFrom [3, 2, 1] (s.fn f).rootBase).contains a)) &&
  s.queues.all (fun e => e.2.cmds.all (fun c => !(e.1 % 32 ≥ 24 && natAt c.bytes 0 1 == 0x11 && natAt c.bytes 0x20 8 == a &&
    (match e.2.prog with | some p => p.stage == 1 && e.2.cmds.head? == some c | none => false))))

/-- The tier of an address of the map (13 Table 13.7). -/
def tierOf (a : Nat) : Nat :=
  match channelOf a with
  | some (.hbm _) => 1
  | some (.ddr _) => 2
  | none => 0

/-- The tier of the memory at an address; 0 where there is none (00 R2; 13 R522). -/
def State.frameTier (s : State) (a : Nat) : Nat := if s.hasMemory a then tierOf a else 0

/-- The frames of a partition in a tier, by ascending address, channel by channel: the first, and how many are fitted and
not reserved to the firmware (00 R2; 13 R522; 19 R484; log 115). -/
def State.channelBases (s : State) (p : Part) (tier : Nat) : List (Nat × Nat) :=
  if tier = 1 then
    ((List.range 512).filter p.hbmch.testBit).map (fun n => (n * 2 ^ 31, if n = 0 then 2 ^ 15 - 2 ^ 12 else 2 ^ 15))
  else ((List.range 16).filter p.ddrch.testBit).map (fun c => (2 ^ 40 + c * 2 ^ 38, s.ddr.toList.getD c 0 / 2 ^ 16))

/-- The first free frame of a tier in a partition. -/
def State.findFrame (s : State) (p : Part) (tier : Nat) : Option Nat :=
  (s.channelBases p tier).findSome? (fun b =>
    ((List.range b.2).find? (fun i => s.frameFree (b.1 + 65536 * i))).map (fun i => b.1 + 65536 * i))

/-- The number of frames of a tier in a partition. -/
def State.frames (s : State) (p : Part) (tier : Nat) : Nat := ((s.channelBases p tier).map Prod.snd).sum

/-! Relearning (13 R343). -/

/-- Relearn the granules that satisfy a condition. -/
def State.relearnWhere (s : State) (p : Nat → Bool) : State :=
  let t : State :=
    { s with
      lines := forgetLines s.lines (fun n => p (n / 32))
      granules := s.granules.filter (fun e => !p e.1)
      cores := s.cores.map (fun e => (e.1, { e.2 with perms := e.2.perms.filter (fun g => !p g) })) }
  t.orderRelearn s

/-- VFSCHED.BOUND and PART (16 Table 16.3). -/
def Fn.bound (f : Fn) : Option Nat := if f.sched.getLsbD 5 then some (f.sched.toNat % 32) else none

/-- The tenants of a partition, ascending. -/
def State.tenants (s : State) (part : Nat) : List Nat :=
  s.fnList.filter (fun f => f != pfId && (s.fn f).bound == some part)

/-- The granules of host memory that a HOST leaf of a function reaches through its host translations (13 R343; 17 R457). -/
def State.hostMapped (s : State) (fn : Nat) (l : Leaf) (gr : Nat) : Bool :=
  s.ats.any (fun e =>
    match e.st with
    | .granted frame _ _ =>
      let i := gr - (hostBase / 4096 + frame)
      e.fn == fn && decide (hostBase / 4096 + frame ≤ gr) && decide (i < e.pages) &&
        decide (pteFrame l.word ≤ 4096 * (e.page + i)) && decide (4096 * (e.page + i) < pteFrame l.word + 2 ^ levelShift l.level)
    | _ => false)

/-- A granule lies in memory that some leaf of a function maps (13 R343). -/
def State.granuleMapped (s : State) (fn : Nat) (ls : List Leaf) (gr : Nat) : Bool :=
  ls.any (fun l => if pteBit l.word 9 then s.hostMapped fn l gr else l.covers (gr * 4096) 4096)

/-- The granules of a partition: those of its channels, or in shared-channel mode those its functions map. -/
def State.relearnPart (s : State) (part : Nat) : State :=
  match s.part part with
  | none => s
  | some p =>
    if p.memmode then
      let ls := (s.tenants part).map (fun f => (f, s.leaves f))
      s.relearnWhere (fun g => ls.any (fun x => s.granuleMapped x.1 x.2 g))
    else s.relearnWhere (fun g => p.holds (g * 4096))

/-- The granules of a tenant. -/
def State.relearnTenant (s : State) (fn : Nat) : State :=
  let ls := s.leaves fn
  s.relearnWhere (s.granuleMapped fn ls)

/-! MOVE (16 R403, R405 to R407). -/

/-- TLB entries for a page of a function are removed, on every die. -/
def State.dropTlb (s : State) (fn va : Nat) : State :=
  { s with tlb := s.tlb.filter (fun t => !(t.fn == fn && t.vpn == va % 2 ^ 57 / 2 ^ levelShift t.level)) }

/-- Set or clear TRANSIT in an entry. -/
def State.setTransit (s : State) (entry : Nat) (e : Dword) (frame : Nat) (on : Bool) : State :=
  let w := e.toNat % 2 ^ 16 + frame + e.toNat / 2 ^ 52 * 2 ^ 52
  s.writeBytes entry (bytesOfNat 8 (if on then w ||| 2 ^ 5 else w - (if pteBit e 5 then 2 ^ 5 else 0)))

/-- Some entry of a reservation table uses bytes of a frame: its thread reads or writes there (10 R277). -/
def State.entryUses (s : State) (frame : Nat) : Bool :=
  let inFrame (a : Nat) : Bool := decide (frame ≤ a) && decide (a < frame + 65536)
  s.entries.any (fun e =>
    match e.2.kind with
    | .pass p => !p.scratchB && p.phys.any inFrame
    | .mldMem sc as | .mstMem sc as => !sc && as.any inFrame
    | .table _ _ as => as.any inFrame
    | _ => false) ||
  s.ops.any (fun e => e.2.todo.any (fun a => a.space == .phys && inFrame a.addr))

/-- The page changes its frame: lines written back, bytes, poison and granule states move (16 R403 steps 3 to 5). -/
def State.movePage (s : State) (src dst : Nat) : State :=
  let moved (g : Nat) : Option Nat := if src / 4096 ≤ g ∧ g < src / 4096 + 16 then some (g - src / 4096 + dst / 4096) else none
  let old := s.granules.filterMap (fun e => (moved e.1).map (fun g => (g, e.2)))
  let inPage (a g : Nat) : Bool := decide (a / 4096 ≤ g) && decide (g < a / 4096 + 16)
  let s := s.relearnWhere (fun g => inPage src g || inPage dst g)
  let cells := (s.mem.filter (fun c => decide (src ≤ c.1) && decide (c.1 < src + 65536))).map (fun c => (c.1 - src + dst, c.2))
  let bad := (s.poison.filter (fun b => decide (src / 16 ≤ b) && decide (b < src / 16 + 4096))).map (fun b => b - src / 16 + dst / 16)
  { s with
    mem := cells.foldl (fun m c => m.write c.1 c.2) (s.mem.clear dst (dst + 65536))
    poison := bad.foldl insertSorted (s.poison.filter (fun b => !(decide (dst / 16 ≤ b) && decide (b < dst / 16 + 4096))))
    granules := old.foldl (fun m e => m.set e.1 e.2) s.granules }

/-- A move of the puppeteer's that is still queued will free a frame. -/
def State.frameLeaving (s : State) (fr : Nat) : Bool :=
  s.queues.any (fun e => e.1 % 32 == 25 && e.2.cmds.any (fun c =>
    match s.walkVa c.fn (natAt c.bytes 0x10 8 % 2 ^ 57) with
    | .leaf 1 w _ => pteFrame w == fr
    | _ => false))

/-- A queue of the yo-yo engine moves a page whose source frame a die homes (16 R407). -/
def State.moveUnderWay (s : State) (die : Nat) : Bool :=
  s.queues.any (fun e => decide (24 ≤ e.1 % 32) && (match e.2.prog, e.2.cmds with
    | some p, c :: _ => natAt c.bytes 0 1 == 0x11 && p.stage == 1 && homeDie p.x == die
    | _, _ => false))

/-- MOVE: stage 0 judges and marks the page, stage 1 moves it once no pass uses it. The engine of the source frame's home
die performs it, one move at a time (16 R407). Queue 25 of a die is the puppeteer's own (16 R405, R416): its commands name
their function beside their bytes, and leave no record of a failure. -/
def execMove (q : Nat) (bar vaddr : Dword) (vf : BitVec 6) (dtier : BitVec 2) (frame : Dword) (s : State) :
    Host.Outcome State Fault Refusal :=
  .next (s.runCommand q (fun s c p =>
    let va := vaddr.toNat
    let fr := frame.toNat
    let b := bar.toNat
    let own := q % 32 = 25
    let fn := if own then c.fn else vf.toNat
    let failIn (s : State) (cause : Nat) : CmdOut := if own then .done s 65536 0 else .fail s cause 65536 b
    let fail := failIn s
    judgeFields s 65536 b (dtier == 0 || dtier == 3) (va % 65536 != 0 || fr % 65536 != 0)
      (if !own && (s.fn fn).bound != some (s.cmdPart c) then fail 8
       else
         match if (s.fn fn).root.getLsbD 0 && canonicalVa va then s.walkVa fn (va % 2 ^ 57) else .bad false with
         | .leaf 1 e entry =>
           if p.stage = 0 then
             (if pteBit e 5 then .wait s
              else if pteBit e 9 || s.frameTier (pteFrame e) = 0 || s.frameTier (pteFrame e) = dtier.toNat then fail 7
              else if !(if own then s.parts.any (fun x => x.2.owns fr)
                        else ((s.part (s.cmdPart c)).map (fun x => x.owns fr)).getD false) then fail 4
              else if own && !s.frameFree fr && s.frameLeaving fr then .wait s
              else if s.frameTier fr ≠ dtier.toNat || !s.frameFree fr then fail 7
              else if s.moveUnderWay (homeDie (pteFrame e)) || !s.clockRuns (homeDie (pteFrame e)) then .wait s
              else
                .more (((s.setTransit entry e (pteFrame e) true).dropTlb fn va).setProgress q
                  { p with stage := 1, x := pteFrame e }))
           else if s.entryUses (pteFrame e) || s.relocking (homeDie (pteFrame e)) || s.relocking (homeDie fr) then .wait s
           else
             let s := s.movePage (pteFrame e) fr
             .done ((s.setTransit entry e fr false).dropTlb fn va) 65536 (if own then 0 else b)
         | .leaf _ _ _ => fail 7
         -- a poisoned entry is signalled (17 R455)
         | .bad poison => failIn (if poison then s.signal pfId 2 else s) 7)))

/-! Working sets (16 R406, R408, R409). -/

/-- AGE of a leaf. -/
def leafAge (e : Dword) : Nat := e.toNat / 2 ^ 7 % 4

/-- The recorded working set of a function: address and AGE, ascending. -/
def State.workingSet (s : State) (fn : Nat) : List (Nat × Nat) :=
  ((s.leaves fn).filter (fun l => l.level == 1 && leafAge l.word != 0)).map (fun l => (l.va, leafAge l.word))

/-- WSSNAP: stage 0 takes the working set, stage 1 writes it. -/
def execWssnap (q : Nat) (bar dst : Dword) (len : Word) (vf : BitVec 6) (s : State) : Host.Outcome State Fault Refusal :=
  .next (s.runCommand q (fun s c p =>
    let n := len.toNat
    let b := bar.toNat
    let total : Int := n * 8
    judgeFields s total b (decide (n < 2) || decide (65536 < n) || n % 2 != 0) (dst.toNat % 16 != 0)
      (if (s.fn vf.toNat).bound ≠ some (s.cmdPart c) then .fail s 8 total b
       else if p.stage = 0 then
         let ws := ((s.workingSet vf.toNat).take n).map (fun e => e.1 + e.2)
         let bytes := ws.flatMap (fun x => bytesOfNat 8 x) ++ List.replicate (8 * (n - ws.length)) 0
         .more (s.setProgress q { p with stage := 1, pos := 0, buf := bytes })
       else if p.buf.length ≤ p.pos then .done s total b
       else
         match s.cmdWrite q c (dst.toNat + p.pos) ((p.buf.drop p.pos).take 16) false false with
         | .wait s => .wait s
         | .fail e => .fail s e total b
         | .done s => .more (s.setProgress q { p with pos := p.pos + 16 }))))

/-- The working set of a tenant is recorded: WSREC is set and the function is bound (16 R408). -/
def Fn.recorded (f : Fn) : Bool := f.sched.getLsbD 42 && f.bound.isSome

/-- VFSCHED takes a value: recording that begins now sweeps first at the next multiple (16 R408). -/
def Fn.setSched (f : Fn) (sched : Dword) (now : Nat) : Fn :=
  let y := { f with sched := sched }
  if y.recorded && !f.recorded then { y with swept := now } else y

/-- WS_SWEEP: the entries of a recorded tenant age (16 R408), once for each multiple of 1,000,000 ns since the recording
began. -/
def execWsSweep (fn : Nat) (s : State) : Host.Outcome State Fault Refusal :=
  if (s.fn fn).recorded ∧ (s.fn fn).swept < s.reftime / 1000000 then
    let s := s.modFn fn (fun x => { x with swept := x.swept + 1 })
    .next (((s.leaves fn).filter (fun l => l.level == 1)).foldl (fun s l =>
      let age := if pteBit l.word 6 then 3 else leafAge l.word - 1
      let w := l.word.toNat - leafAge l.word * 2 ^ 7 - (if pteBit l.word 6 then 2 ^ 6 else 0) + age * 2 ^ 7
      (s.writeBytes l.entry (bytesOfNat 8 w)).dropTlb fn l.va) s)
  else .next s

/-! Moves that the puppeteer requests (16 R409, R416). -/

/-- The puppeteer's queue of a die. -/
def moveQueue (die : Nat) : Nat := 32 * die + 25

/-- A MOVE command of the puppeteer's: the function stands beside its bytes, for the physical one has no VF. -/
def moveCommand (va vf tier frame : Nat) : List Byte :=
  bytesOfNat 8 0x11 ++ bytesOfNat 8 0 ++ bytesOfNat 8 va ++ bytesOfNat 4 (vf % 64) ++ bytesOfNat 4 tier ++ bytesOfNat 8 frame ++
    bytesOfNat 24 0

/-- Some queued move of the puppeteer names a page or a frame. -/
def State.moveQueued (s : State) (fn va : Nat) : Bool :=
  s.queues.any (fun e => e.1 % 32 == 25 && e.2.cmds.any (fun c => natAt c.bytes 0x10 8 == va && c.fn == fn))

/-- Frames that queued moves of the puppeteer take. -/
def State.framesTaken (s : State) : List Nat :=
  s.queues.flatMap (fun e => if e.1 % 32 = 25 then e.2.cmds.map (fun c => natAt c.bytes 0x20 8) else [])

/-- The first free frame of a tier that no queued move takes. -/
def State.takeFrame (s : State) (p : Part) (tier : Nat) : Option Nat :=
  (s.channelBases p tier).findSome? (fun b =>
    ((List.range b.2).find? (fun i => !(s.framesTaken.contains (b.1 + 65536 * i)) && s.frameFree (b.1 + 65536 * i))).map
      (fun i => b.1 + 65536 * i))

/-- Request the move of a page to a frame of a tier. -/
def State.requestMoveTo (s : State) (fn va src tier frame : Nat) : State :=
  s.modQueue (moveQueue (homeDie src)) (fun x =>
    { x with cmds := x.cmds ++ [⟨moveCommand va fn tier frame, 0, 0, 0, fn, false, false⟩] })

/-- Request the move of a page to a tier, to the first free frame. -/
def State.requestMove (s : State) (part fn va src tier : Nat) : State :=
  if s.moveQueued fn va then s
  else
    match (s.part part).bind (fun p => s.takeFrame p tier) with
    | some f => s.requestMoveTo fn va src tier f
    | none => s

/-- The recorded pages of a tenant in a tier that no move is queued for, each with its AGE. -/
def State.pagesIn (s : State) (fn tier : Nat) : List Leaf :=
  (s.leaves fn).filter (fun l =>
    l.level == 1 && !pteBit l.word 9 && s.frameTier (pteFrame l.word) == tier && !s.moveQueued fn l.va)

/-- The pages of a tenant that leave tier 1 first: the lowest AGE, then the lowest address. -/
def State.victims (s : State) (fn : Nat) : List Leaf :=
  [0, 1, 2, 3].flatMap (fun a => (s.pagesIn fn 1).filter (fun l => leafAge l.word == a))

/-- One recorded page of the incoming tenant moves up: to a free frame, or to the frame of a page of the outgoing tenant
that moves down first (16 R409). -/
def State.moveUp (s : State) (part : Nat) (fn : Nat) (out : Option Nat) (l : Leaf) : State :=
  match (s.part part).bind (fun p => s.takeFrame p 1) with
  | some f => s.requestMoveTo fn l.va (pteFrame l.word) 1 f
  | none =>
    match out.bind (fun o => (s.victims o).head?.map (fun v => (o, v))), (s.part part).bind (fun p => s.takeFrame p 2) with
    | some (o, v), some f =>
      (s.requestMoveTo o v.va (pteFrame v.word) 2 f).requestMoveTo fn l.va (pteFrame l.word) 1 (pteFrame v.word)
    | _, _ => s

/-- The moves of a tenant switch (16 R409). -/
def State.switchMoves (s : State) (part fn : Nat) (out : Option Nat) : State :=
  ([3, 2, 1].flatMap (fun a => (s.pagesIn fn 2).filter (fun l => leafAge l.word == a))).foldl
    (fun s l => s.moveUp part fn out l) s

end Sys2Proof.Machine
end

