-- ==== Sys2Proof/Machine/System.lean ====
section
/-! DEFINITION. System instructions and the events of a group's traps (17 R443 to R452; 07 R182; 16 R404; 19 R483). -/

namespace Sys2Proof.Machine

open Sys2Proof

/-! Illegal opcodes that a mode decides, and words that do not decode (03 R98; 17 R447, R451). -/

/-- Every group of the current slot's bundle that satisfies a condition raises a fault at the instruction
(17 R438). -/
def State.faultMembers (s : State) (p : Group → Bool) (e : Cause) : State :=
  match s.runs.find s.cur with
  | none => s
  | some r =>
    (r.members.filterMap (s.ctx r)).foldl (fun s c =>
      if p c.g then s.takeFault r 1 c (.fault (FaultInfo.plain e)) else s) s

/-- Raise ILLEGAL_OPCODE in the groups whose mode forbids an instruction, then issue it in the others. -/
def State.issueIn (s : State) (ok : Group → Bool) (go : State → State) : State :=
  let members := ((s.runs.find s.cur).map (fun r => r.members)).getD []
  if members.all (fun m => ((s.groups.find m.1).map ok).getD true) then go s
  else
    let s := s.faultMembers (fun g => !ok g) .illegalOpcode
    if (s.runs.find s.cur).isSome then go s else s.wake

/-! TRAP, RTT, HALT, SLEEP (17 R446 to R449). -/

/-- What TRAP names. -/
def trapUses (a : Code) : Uses := { srcs := [op32 a], badType := tyOf a != .uni }

/-- TRAP. -/
def execTrap (a : Code) (ra : Bool) (s : State) : Host.Outcome State Fault Refusal :=
  let u := trapUses a
  .next (s.issueControl u [(op32 a, ra)] (fun s c =>
    if c.act = 0 then .go (fun s => s) (some (fun _ => some (c.pc + 4)))
    else if s.poisoned u c then .fault (FaultInfo.plain .poison)
    else .faultAfter ⟨.trap, .none, false, (c.values u (lowestLane c.act)).getD 0 0⟩))

/-- RTT in the groups of the bundle: they leave trap mode once the run has let them go. -/
def State.returnTraps (s before : State) : State :=
  (((before.runs.find before.cur).map (fun r => r.members)).getD []).foldl (fun s m =>
    match before.groups.find m.1, s.groups.find m.1 with
    | some old, some g =>
      if old.trapMode && !g.trapMode then
        (s.modGroup m.1 (fun g => Group.resume { g with trapMode := true })).afterWork m.1
      else s
    | _, _ => s) s

/-- RTT: a return takes the group's lanes out of the run, which ends; with no active lane it does nothing (03 R74, R76). -/
def execRtt (s : State) : Host.Outcome State Fault Refusal :=
  .next (s.issueIn (fun g => g.trapMode) (fun s =>
    ((s.issue 1 { cover := true } (fun _ => none) [] false (fun _ c =>
      if c.act = 0 then .go (fun s => s) (some (fun _ => some (c.pc + 4)))
      else .go (fun s => s.modGroup c.gid (fun g => { g with trapMode := false })) (some (fun _ => none)))).returnTraps s)))

/-- HALT. -/
def execHalt (s : State) : Host.Outcome State Fault Refusal :=
  .next (s.issueControl {} [] (fun _ c =>
    if c.act = 0 then .go (fun s => s) (some (fun _ => some (c.pc + 4)))
    else .faultAfter (FaultInfo.plain .halted)))

/-- SLEEP: a deadline already reached parks nothing. -/
def execSleep (a : Code) (ra : Bool) (s : State) : Host.Outcome State Fault Refusal :=
  let u : Uses := { srcs := [op64 a], badType := tyOf a != .uni }
  .next (s.issueControl u [(op64 a, ra)] (fun s c =>
    let d := (c.values u (lowestLane c.act)).getD 0 0
    let m := if s.reftime < d then c.act else 0
    s.transferVerdict c [] (fun s => s.modGroup c.gid (fun g =>
      g.modLanes c.st m (fun l => { l with park := .sleep d }))) m))

/-! CCLEAN and PCLASS (17 R450, R451). -/

/-- The addresses at which a range of bytes enters each 4 KiB piece: pieces of host memory are translated one by one
(17 R457). -/
def pageStarts (a n : Nat) : List Nat :=
  (List.range ((a % 4096 + n + 4095) / 4096)).map (fun i => if i = 0 then a else (a / 4096 + i) * 4096)

/-- The bytes of a range in the piece at which it enters. -/
def pieceLength (a n x : Nat) : Nat := Nat.min (a + n) ((x / 4096 + 1) * 4096) - x

/-- Translate the pieces of a range: the first wait, the first fault that counts, or the places of the pieces. -/
def State.cleanPages (s : State) (c : Ctx) (a n : Nat) (skips : Cause → Bool) : Except Verdict (List (Nat × Nat)) :=
  let xs := (pageStarts a n).map (fun x => (x, s.translate c.g.die c.g.fn c.g.part (.slot s.cur) .clean (x % 2 ^ 64)))
  match xs.find? (fun e => match e.2 with | .ok _ | .fault _ => false | _ => true) with
  | some e => .error (.waitDo .translation (fun s => s.request c.g.die c.g.fn (.slot s.cur) e.2))
  | none =>
    match xs.findSome? (fun e => match e.2 with | .fault x => if skips x then none else some (e.1, x) | _ => none) with
    | some (va, x) => .error (.fault ⟨x, .clean, false, va % 2 ^ 64⟩)
    | none => .ok (xs.filterMap (fun e => match e.2 with | .ok k => some (k, pieceLength a n e.1) | _ => none))

/-- What CCLEAN and PCLASS name. -/
def rangeUses (a b : Code) : Uses := { srcs := [op64 a, op32 b], badType := tyOf a != .uni || tyOf b != .uni }

/-- Write back the dirty lines of a piece: they stay valid and clean (17 R450). -/
def State.cleanPiece (s : State) (key n : Nat) : State :=
  { s with lines := s.lines.map (fun e =>
      if key ≤ 128 * e.1 ∧ 128 * e.1 < key + n ∧ s.keepsDirty e.1 = false then (e.1, { e.2 with dirty := false, l1Dirty := false }) else e) }

/-- CCLEAN. -/
def execCclean (a b : Code) (ra rb : Bool) (s : State) : Host.Outcome State Fault Refusal :=
  let u := rangeUses a b
  .next (s.issue 1 u (fun _ => none) (pinRows [(op64 a, ra), (op32 b, rb)]) false (fun s c =>
    if c.act = 0 then .go (fun s => s) none
    else
      let v := c.values u (lowestLane c.act)
      let va := v.getD 0 0
      let lines := if v.getD 1 0 % 4096 = 0 then 4096 else v.getD 1 0 % 4096
      if va % 128 ≠ 0 then .fault ⟨.misaligned, .clean, false, va⟩
      else
        match s.cleanPages c va (128 * lines) (fun e => e == .transit) with
        | .error v => v
        | .ok ps => .go (fun s => ps.foldl (fun s p => s.cleanPiece p.1 p.2) (s.seenFaults c.g.fn (.slot s.cur))) none))

/-- PCLASS: it waits for a page in motion; its relearn ends at once. -/
def execPclass (a b : Code) (ra rb : Bool) (s : State) : Host.Outcome State Fault Refusal :=
  let u := rangeUses a b
  .next (s.issueIn (fun g => g.sysMode) (fun s =>
    s.issue 1 u (fun _ => none) (pinRows [(op64 a, ra), (op32 b, rb)]) false (fun s c =>
      if c.act = 0 then .go (fun s => s) none
      else
        let v := c.values u (lowestLane c.act)
        let va := v.getD 0 0
        let n := if v.getD 1 0 % 65536 = 0 then 65536 else v.getD 1 0 % 65536
        if va % 4096 ≠ 0 then .fault ⟨.misaligned, .clean, false, va⟩
        else
          match s.cleanPages c va (4096 * n) (fun e => e == .translation) with
          | .error (.fault f) => if f.cause = .transit then .wait .clean else .fault f
          | .error v => v
          | .ok ps => .go (fun s => (s.seenFaults c.g.fn (.slot s.cur)).relearnWhere (fun gr =>
              ps.any (fun p => decide (p.1 ≤ gr * 4096) && decide (gr * 4096 < p.1 + p.2)))) none)))

/-! Special registers (01 R28 to R30; 17 R452). -/

/-- DIEORIENT of a die (16 R394). -/
def dieOrient (p : Nat) : Nat :=
  p + 4 * p + 16 * ((p + 1) % 4) + 64 * ((p + 3) % 4) + 256 * ((p + 2) % 4) + (if 2 ≤ p then 1024 else 0)

/-- The value of a special register in a lane. -/
def State.special (s : State) (g : Group) (n : Nat) (L : Fin 32) : Nat :=
  match n with
  | 0 => L.val
  | 1 => g.groupId
  | 2 => g.teamId
  | 3 => g.cx
  | 4 => g.cy
  | 5 => g.gridpos
  | 6 => s.dieCycle g.die % 2 ^ 64
  | 7 => s.ncycleAcc g.die / 2 ^ 16 % 2 ^ 64
  | 8 => s.reftime % 2 ^ 64
  | 9 => g.fpstat[L].toNat
  | 10 => g.sptr[L].toNat
  | 11 => g.seed[L].toNat
  | 12 => g.regs.cause.toNat
  | 13 => g.regs.pc.toNat
  | 14 => g.regs.addr.toNat
  | _ => dieOrient g.die

/-- The counters that the recorder keeps (19 R487). -/
def isCounter (n : Nat) : Bool := n == 6 || n == 7 || n == 8

/-- The type of a special register (01 Table 1.3). -/
def specialTy (n : Nat) : Ty := (codeNames (specialCode n)).ty

/-- RDSR as a fixed-latency instruction; of FPSTAT it reads a register that flags land in (03 R90; log 11). -/
def aluRdsr (s : State) (d : Code) (n : Nat) (sys : Bool) : Alu :=
  let w := specialWidth n
  let u : Uses :=
    { dst := some (opInt w d), compOnly := n == 9 || n == 11, addrOnly := n == 10,
      alsoReads := if n = 9 then [0x700] else []
      badOperand := decide (15 < n) || (n == 15 && !sys),
      badType := codeNames d != .zero && decide ((tyOf d).rank < (specialTy n).rank) }
  { uses := u, lat := latAlu, ext := (w, false),
    fn := fun c _ => .ok (fun L =>
      let x := s.special c.g n L
      let x := if isCounter n then s.yValue c.g yRdsr 0 x else x
      if n = 0 ∧ tyOf d = .aff then { val := 0, stride := 1 } else { val := x }) }

/-- RDSR; REFTIME in the address stream is read once the group's earlier accesses are performed (15 R392; log 123). -/
def execRdsr (d : Code) (n : BitVec 11) (s : State) : Host.Outcome State Fault Refusal :=
  let al (c : Option Ctx) : Alu := aluRdsr s d n.toNat ((c.map (fun c => c.g.sysMode)).getD false)
  let a := al s.curCtx
  .next (s.issue 1 a.allUses (fun _ => some a.latency) [] false (fun s c =>
    if n.toNat = 8 ∧ c.st = .addr ∧ c.act ≠ 0 ∧ s.orderedOutstanding c.gid then .wait .ordered
    else (a.sem s c).recorded yRdsr c (fun L => s.special c.g n.toNat L) (if isCounter n.toNat && c.act != 0 then [0] else [])))

/-- What WRSR names: the trap registers are written in trap mode only. -/
def wrsrUses (a : Code) (n : Nat) (trapMode : Bool) : Uses :=
  { srcs := [opInt (specialWidth n) a], group := n == 12 || n == 13 || n == 14, compOnly := n == 9 || n == 11,
    addrOnly := n == 10,
    badOperand := !(n == 9 || n == 10 || n == 11 || (trapMode && (n == 12 || n == 13 || n == 14))),
    badType := decide ((specialTy n).rank < (tyOf a).rank) }

/-- The effect of WRSR in a group: reserved bits stay 0, SEED never becomes 0 (01 R29; 02 R53; 17 Table 17.1). -/
def Group.writeSpecial (g : Group) (n : Nat) (m : Word) (v : Fin 32 → Nat) : Group :=
  let one : Nat := v (lowestLane m)
  match n with
  | 9 => { g with fpstat := Vector.ofFn (fun i => if laneIn m i then BitVec.ofNat 32 (v i % 32) else g.fpstat[i]) }
  | 10 => { g with sptr := Vector.ofFn (fun i => if laneIn m i then BitVec.ofNat 64 (v i) else g.sptr[i]) }
  | 11 => { g with seed := Vector.ofFn (fun i =>
      if laneIn m i then (if BitVec.ofNat 32 (v i) = 0 then 1 else BitVec.ofNat 32 (v i)) else g.seed[i]) }
  | 12 => { g with regs := { g.regs with cause := BitVec.ofNat 32 (one % 2 ^ 19) } }
  | 13 => { g with regs := { g.regs with pc := BitVec.ofNat 64 one } }
  | 14 => { g with regs := { g.regs with addr := BitVec.ofNat 64 one } }
  | _ => g

/-- WRSR: it takes effect at issue. -/
def execWrsr (a : Code) (n : BitVec 11) (s : State) : Host.Outcome State Fault Refusal :=
  let u := wrsrUses a n.toNat ((s.curCtx.map (fun c => c.g.trapMode)).getD false)
  .next (s.issue 1 u (fun _ => none) [] false (fun _ c =>
    if c.act = 0 then .go (fun s => s) none
    else .go (fun s => s.modGroup c.gid (fun g =>
      (g.pop u c.act).writeSpecial n.toNat c.act (fun L => (c.values u L).getD 0 0))) none))

/-! Events of a group (07 R182; 16 R404; 17 R449; 19 R483). -/

/-- SLEEP_WAKE: the lanes of a group whose deadlines REFTIME has reached may form a path again; a halted group keeps
its deadlines. -/
def execSleepWake (gid : Nat) (s : State) : Host.Outcome State Fault Refusal :=
  let awake (l : LaneCtl) : LaneCtl :=
    match l.park with
    | .sleep d => if d ≤ s.reftime then { l with park := .none } else l
    | _ => l
  let all : Word := BitVec.allOnes 32
  .next (s.modGroup gid (fun g =>
    if g.status = .running then (g.modLanes .addr all awake).modLanes .comp all awake else g))

/-- The page of a TRANSIT fault is no longer in motion. -/
def State.transitOver (s : State) (g : Group) : Bool :=
  match s.translateNow g.fn g.part .clean g.regs.addr.toNat with
  | .fault .transit => false
  | _ => true

/-- TRANSIT_RESUME: with TRAPVEC 0 the group resumes as by RTT once the page stands still (16 R404). -/
def execTransitResume (gid : Nat) (s : State) : Host.Outcome State Fault Refusal :=
  match s.groups.find gid with
  | some g =>
    if g.transitWait && g.status == .running && s.transitOver g then .next ((s.modGroup gid Group.resume).wake) else .next s
  | none => .next s

/-- A stream's next instruction waits on a queue of the group (07 R182). -/
def State.waitsOnQueue (s : State) (gid : Nat) (g : Group) (st : Stream) : Bool :=
  !(st == .addr && g.ahead.isSome) &&
  ((match s.slotOf gid st with
    | some (_, r) =>
      (r.members.filterMap (fun m => if m.1 = gid then s.memberWait r m else none)).any (fun w => w != .lookahead)
    | none => false) || s.waitqHolds gid g st)

/-- The condition of a queue deadlock. -/
def State.deadlocked (s : State) (gid : Nat) (g : Group) : Bool :=
  g.status == .running && g.pendingTrap.isNone && s.waitsOnQueue gid g .comp && s.waitsOnQueue gid g .addr

/-- The lanes and PC at which a stream's next instruction stands. -/
def State.nextOf (s : State) (gid : Nat) (g : Group) (st : Stream) : Option (Dword × Word) :=
  match s.slotOf gid st with
  | some (_, r) => some (r.place.1, ((r.members.find? (fun m => m.1 == gid)).map Prod.snd).getD 0)
  | none => ((g.stream st).path (s.dieCycle g.die)).map (fun p => (p.1, p.2.2))

/-- QUEUE_DEADLOCK: the count has reached 4,096; both streams have resume points (07 R182; 17 R436). -/
def execQueueDeadlock (gid : Nat) (s : State) : Host.Outcome State Fault Refusal :=
  match s.groups.find gid with
  | none => .next s
  | some g =>
    if 4096 ≤ g.deadlock ∧ s.deadlocked gid g then
      let a := s.nextOf gid g .addr
      let c := s.nextOf gid g .comp
      let off (st : Stream) (p : Option (Dword × Word)) : Word := (p.map (fun x => pcOffset (g.codeBase st) x.1)).getD noResume
      let regs : TrapRegs := ⟨causeWord (FaultInfo.plain .queueDeadlock) false .comp, trapPc (off .addr a) (off .comp c), 0⟩
      let s := s.raise gid .queueDeadlock regs
      let mark (st : Stream) (p : Option (Dword × Word)) (s : State) : State :=
        s.modGroup gid (fun g => g.modLanes st ((p.map Prod.snd).getD 0) (fun l => { l with faulting := true }))
      .next (((mark .comp c (mark .addr a s)).modGroup gid (fun g => { g with deadlock := 0 })).afterWork gid).wake
    else .next s

/-- WATCHDOG: the counter has reached its limit (19 R483). -/
def execWatchdog (gid : Nat) (s : State) : Host.Outcome State Fault Refusal :=
  match s.groups.find gid with
  | none => .next s
  | some g =>
    let limit := (s.fn g.fn).wdcfg.toNat % 2 ^ 16
    if limit ≠ 0 ∧ limit * 2 ^ 20 ≤ g.wdog ∧ g.status = .running ∧ g.pendingTrap.isNone then
      let s := s.raiseLate gid .comp (FaultInfo.plain .watchdog)
      .next (((s.modGroup gid (fun g => { g with wdog := 0 })).afterWork gid).wake)
    else .next s

/-! The answers to fault records (17 R443). -/

/-- The escalated group whose record carries a sequence number. -/
def State.awaitingGroup (s : State) (fn seq : Nat) : Option (Nat × Group) :=
  s.groups.find? (fun e => e.2.fn == fn && e.2.escalated == some seq && e.2.status != .finished)

/-- A nested resume: the handler goes on in trap mode, its faulting path at TRAPPC, and the first trap's registers come
back. -/
def Group.resumeNested (g : Group) (first : TrapRegs) : Group :=
  let cpc : Word := g.regs.pc.setWidth 32
  { g with
    sc := { g.sc with lanes := Vector.ofFn (fun i =>
      let l := g.sc.lanes[i]
      resumeLane l l.save g.cfg.codec cpc) }
    regs := first, firstRegs := none }

/-- A gang is halted. -/
def State.gangStands (s : State) (gang : Nat) : Bool :=
  match s.gangs.find gang with
  | some c => c.status != .running && c.status != .finished
  | none => false

/-- RESUME: a group of a halted gang goes on with its gang (16 R422). -/
def execResume (fn seq : Nat) (s : State) : Host.Outcome State Fault Refusal :=
  match s.awaitingGroup fn seq with
  | none => .next s
  | some (gid, _) =>
    .next ((s.modGroup gid (fun g =>
      let g := match g.firstRegs with
        | some r => g.resumeNested r
        | none => g.resume
      { g with escalated := none, status := if s.gangStands g.gang then .halted else .running })).wake)

/-- KILL. -/
def execKill (fn seq : Nat) (s : State) : Host.Outcome State Fault Refusal :=
  match s.awaitingGroup fn seq with
  | none => .next s
  | some (gid, g) =>
    let s := s.modGroup gid (fun g => { g with escalated := none })
    let s := s.killLaunch g.launch
    .next (((Assoc.keys (s.groups.filter (fun e => e.2.launch == g.launch))).foldl (fun s k => s.afterWork k) s).wake)

/-- The bytes of a fault record (17 Table 17.3). -/
def FaultRec.bytes (r : FaultRec) (seq : Word) : List Byte :=
  bytesOfWord seq ++ bytesOfWord r.regs.cause ++ bytesOfDword r.regs.pc ++ bytesOfDword r.regs.addr ++ bytesOfDword r.lrec ++
    bytesOfNat 4 r.gridpos ++ bytesOfNat 4 r.ident ++ bytesOfNat 8 r.reftime ++ r.detail ++
    List.replicate (16 - r.detail.length) 0

/-- FAULT_RECORD_APPEND: the oldest waiting record is written, dropped or, when it cannot be written, counted; an
actionable one then acts as KILL (17 R441, R442). -/
def execFaultRecordAppend (fn : Nat) (s : State) : Host.Outcome State Fault Refusal :=
  match (s.fn fn).waiting with
  | [] => .next s
  | r :: rest =>
    let f := s.fn fn
    let dropped (s : State) : State := s.modFn fn (fun x => { x with waiting := rest, frdrop := x.frdrop + 1 })
    let lost (s : State) : State :=
      match r.gid.bind (fun k => s.groups.find k) with
      | some g => ((dropped s).killLaunch g.launch).reapKilled
      | none => dropped s
    if !ringEnabled f.frsize then
      .next (match r.gid with
        | some _ => lost s
        | none => dropped s)
    else if f.ringFull then .next (if r.gid.isNone then dropped s else s)
    else
      let va := (f.frbase.toNat / 4096 * 4096 + 64 * (f.frtail % f.frsize)) % 2 ^ 64
      match s.translateNow fn r.part .write va with
      | .ok key =>
        if s.homeWaits key then .next s
        else
        let s := (s.classify key (homeDie key) none true).writeBytes key (r.bytes f.seq)
        let s := s.modFn fn (fun x =>
          { x with waiting := rest, seq := x.seq + 1, frtail := (x.frtail + 1) % x.frsize })
        let s := match r.gid with
          | some k => s.modGroup k (fun g => { g with escalated := some f.seq.toNat })
          | none => s
        .next (s.signal fn 0)
      | .fault .transit | .busy => .next s
      | .ats page limit => .next (s.requestAts fn page limit .own)
      | _ => .next (lost ((s.noteWalk fn va).seenFaults fn .own))

end Sys2Proof.Machine
end

