-- ==== Sys2Proof/Machine/Submit.lean ====
section
/-! DEFINITION. Submission queues and launches: the device's own accesses, ring entries, launch records and their check,
working-set descriptors, the classification epoch, completion (04 R108 to R110; 13 R343; 16 R410 to R416, R419). -/

namespace Sys2Proof.Machine

open Sys2Proof

/-! The device's own accesses (16 R414). -/

/-- What a read of the device's own gives. -/
inductive OwnRead where
  | got (bytes : List Byte) (s : State)
  | wait (s : State)
  | fail (addr : Nat)
  deriving DecidableEq, Repr

/-- Read bytes for a function, as a non-core agent, in pieces that stay in one 16-byte block. -/
def State.ownRead (s : State) (fn part va : Nat) : Nat → Nat → OwnRead
  | _, 0 => .got [] s
  | 0, _ => .got [] s
  | fuel + 1, n =>
    let size := Nat.min n (16 - va % 16)
    match s.translateNow fn part .read (va % 2 ^ 64) with
    | .ok key =>
      if s.homeWaits key then .wait s
      else if s.poisonIn key size then .fail va
      else
        (match (s.classify key (homeDie key) none false).ownRead fn part (va + size) fuel (n - size) with
         | .got rest s' => .got (s.bytesAt key size ++ rest) s'
         | x => x)
    | .fault .transit | .busy => .wait s
    | .ats page limit => .wait (s.requestAts fn page limit .own)
    | _ => .fail va

/-- Read `n` bytes. -/
def State.readOwn (s : State) (fn part va n : Nat) : OwnRead := s.ownRead fn part va (n + 1) n

/-- The record of a submission fault (16 R414; 17 R442); a poisoned page-table entry is signalled (17 R455). -/
def State.submitFault (s : State) (fn part : Nat) (write : Bool) (addr access entry : Nat) : State :=
  ((s.noteWalk fn (addr % 2 ^ 64)).seenFaults fn .own).postLog fn part (BitVec.ofNat 32 (Cause.submit.code + 2 ^ 8 * (if write then 2 else 1) + (if write then 2 ^ 18 else 0))) addr
    (bytesOfNat 1 access ++ bytesOfNat 7 0 ++ bytesOfNat 8 entry)

/-! Ring entries (16 R410 to R412). -/

/-- The sizes at which a submission queue works (16 R410). -/
def sqSizes : List Nat := [16, 32, 64, 128, 256, 512, 1024, 2048, 4096]

/-- A submission queue of a function. -/
def State.sq (s : State) (fn q : Nat) : SubQueue := (s.fn fn).sqs.getD q SubQueue.reset

/-- Change a submission queue. -/
def State.modSq (s : State) (fn q : Nat) (f : SubQueue → SubQueue) : State :=
  s.modFn fn (fun x => { x with sqs := x.sqs.set q (f (x.sqs.getD q SubQueue.reset)) })

/-- The address of the head entry: the low 12 bits of SQBASE read back and count for nothing (16 R410; log 78). -/
def SubQueue.headAddr (q : SubQueue) : Nat := q.base.toNat / 4096 * 4096 + 64 * (q.head % q.size)

/-- The queue has an entry to take. -/
def SubQueue.hasEntry (q : SubQueue) : Bool := sqSizes.contains q.size && !q.stopped && q.head != q.tail

/-- The partition of a submission queue: the tenant's, or the one whose queues the physical function holds
(16 R400; 17 R433). -/
def State.sqPart (s : State) (fn q : Nat) : Option Nat :=
  if fn = pfId then (if (s.parts.find (q / 8)).isSome then some (q / 8) else none)
  else (s.fn fn).bound.bind (fun p => if (s.parts.find p).isSome then some p else none)

/-- The lowest failing field of an entry that completes at once with ENTRY_INVALID (16 R411). -/
def entryError (b : List Byte) : Option Nat :=
  let zero (o n : Nat) : Option Nat := if natAt b o n = 0 then none else some o
  ([(if natAt b 0 1 = 1 ∨ natAt b 0 1 = 2 then none else some 0), zero 1 7,
    (if natAt b 0x10 8 % 8 = 0 then none else some 0x10), (if natAt b 0x20 8 % 8 = 0 then none else some 0x20),
    (if natAt b 0x30 8 % 16 = 0 then none else some 0x30), zero 0x38 8]).findSome? id

/-- What stands at the head of a submission queue; `held` when its dependence does not hold, after the reads that say so
(16 R411, R412, R414). -/
inductive Head where
  | none
  | wait (s : State)
  | ringFault (addr : Nat)
  | invalid (bytes : List Byte) (offset : Nat) (s : State)
  | depFault (bytes : List Byte) (addr : Nat) (s : State)
  | held (s : State)
  | ready (bytes : List Byte) (s : State)
  deriving DecidableEq, Repr

/-- The line of a dependence flag and what it holds. -/
def State.flagLine (s : State) (fn part va : Nat) : Option (Nat × List Byte) :=
  match s.translateNow fn part .read va with
  | .ok key => some (key / 128 * 128, s.bytesAt (key / 128 * 128) 128)
  | _ => none

/-- Judge the head of a submission queue. A flag that does not hold yet is read again only after its line has changed. -/
def State.queueHead (s : State) (fn part q : Nat) : Head :=
  let x := s.sq fn q
  if !x.hasEntry || (x.flag.map (fun f => s.bytesAt f.1 128 == f.2)).getD false then .none
  else
    match s.readOwn fn part x.headAddr 64 with
    | .wait s => .wait s
    | .fail a => .ringFault a
    | .got b s =>
      match entryError b with
      | some o => .invalid b o s
      | none =>
        if natAt b 0x10 8 = 0 then .ready b s
        else
          match s.readOwn fn part (natAt b 0x10 8) 8 with
          | .wait s => .wait s
          | .fail a => .depFault b a s
          | .got f s =>
            if natOfBytes f < natAt b 0x18 8 then .held (s.modSq fn q (fun y => { y with flag := s.flagLine fn part (natAt b 0x10 8) }))
            else .ready b s

/-- The head can be taken. -/
def Head.takeable : Head → Bool
  | .none | .wait _ | .held _ => false
  | _ => true

/-- The head is a SIGNAL entry. -/
def Head.isSignal : Head → Bool
  | .depFault b _ _ | .ready b _ => natAt b 0 1 == 2
  | _ => false

/-- The functions that submit to a partition, in the order of their turns: the virtual functions, then the physical
function. -/
def State.submitters (s : State) (part : Nat) : List Nat := s.tenants part ++ [pfId]

/-- The queues of a function that carry launches of a partition, the highest number first. -/
def State.queuesOf (s : State) (part fn : Nat) : List Nat :=
  ((Assoc.keys (s.fn fn).sqs).filter (fun q => fn != pfId || q / 8 == part)).reverse

/-- A list turned so that it begins with its first element at or above a number. -/
def turnFrom (l : List Nat) (n : Nat) : List Nat := l.filter (fun x => n ≤ x) ++ l.filter (fun x => x < n)

/-- The queue that is served next in a partition (16 R412). -/
def State.served (s : State) (part : Nat) : Option (Nat × Nat) :=
  let first := ((s.part part).map (fun p => p.nextFn)).getD 0
  (turnFrom (s.submitters part) first).findSome? (fun fn =>
    (s.queuesOf part fn).findSome? (fun q => if (s.queueHead fn part q).takeable then some (fn, q) else none))

/-- Change a partition. -/
def State.modPart (s : State) (p : Nat) (f : Part → Part) : State := { s with parts := s.parts.modify p f }

/-! The launch record (04 R108, R109). -/

/-- The fields of a launch record. -/
def LaunchRec.of (b : List Byte) : LaunchRec :=
  let w (o : Nat) : Nat := natAt b o 4
  let d (o : Nat) : Dword := BitVec.ofNat 64 (natAt b o 8)
  let f (o hi lo : Nat) : Nat := w o / 2 ^ lo % 2 ^ (hi + 1 - lo)
  { checked := (w 4).testBit 0, record := (w 4).testBit 1, codea := d 0x08, codec := d 0x10, trapvec := d 0x18,
    argptr := d 0x20, argsize := w 0x54, wsdesc := d 0x28, sptrbase := d 0x30, stacksz := w 0x38, seedbase := BitVec.ofNat 32 (w 0x3C),
    rsdepth := f 0x40 31 24, slip := f 0x40 23 16, aregs := f 0x40 15 8, vregs := f 0x40 7 0, qsel := f 0x44 14 12,
    prio := f 0x44 10 8, groups := f 0x44 5 0, gangfh := f 0x48 15 12, gangfw := f 0x48 11 8, gangph := f 0x48 7 4,
    gangpw := f 0x48 3 0, scratch := w 0x4C, gridn := w 0x50,
    hints := (List.range 4).map (fun i => (d (0x80 + 16 * i), w (0x88 + 16 * i), f (0x8C + 16 * i) 1 0)) }

/-- The byte that holds the lowest set bit of bits `lo` to `hi` of the word at an offset. -/
def zeroField (b : List Byte) (o lo hi : Nat) : Option Nat :=
  ((List.range (hi + 1 - lo)).find? (fun i => (natAt b o 4).testBit (lo + i))).map (fun i => o + (lo + i) / 8)

/-- The first non-zero byte of a span of zeros. -/
def zeroBytes (b : List Byte) (o n : Nat) : Option Nat :=
  ((List.range n).find? (fun i => natAt b (o + i) 1 != 0)).map (fun i => o + i)

/-- The failures of a launch record: their offsets. -/
def recordFailures (b : List Byte) : List Nat :=
  let r := LaunchRec.of b
  let bad (c : Bool) (o : Nat) : Option Nat := if c then some o else none
  ([bad (natAt b 0 4 != 0x4C520100) 0x00, zeroField b 0x04 2 31,
    bad (r.codea.toNat % 4 != 0) 0x08, bad (r.codec.toNat % 4 != 0) 0x10, bad (r.trapvec.toNat % 4 != 0) 0x18,
    bad (r.stacksz % 8 != 0) 0x38,
    bad (r.vregs % 2 != 0 || decide (r.vregs < 2) || decide (64 < r.vregs)) 0x40,
    bad (decide (r.vregs < r.aregs)) 0x41, bad (r.slip == 0 || decide (64 < r.slip)) 0x42,
    bad (decide (r.rsdepth < 2) || decide (16 < r.rsdepth)) 0x43,
    bad (r.groups == 0 || decide (32 < r.groups)) 0x44, zeroField b 0x44 6 7, zeroField b 0x44 11 11, zeroField b 0x44 15 31,
    bad (r.gangpw == 0 || decide (12 < r.gangpw) || r.gangph == 0 || decide (8 < r.gangph) ||
         decide (12 < r.gangpw * r.gangph) || decide (r.gangpw < r.gangfw) || decide (r.gangph < r.gangfh) ||
         (r.gangfw == 0) != (r.gangfh == 0)) 0x48,
    bad (decide (12 < r.gangfw) || decide (8 < r.gangfh)) 0x49, zeroField b 0x48 16 31,
    bad (r.scratch % 128 != 0 || decide (262144 < r.scratch)) 0x4C, bad (r.gridn == 0) 0x50,
    zeroBytes b 0x58 0x28, zeroBytes b 0xC0 0x40] ++
   (List.range 4).flatMap (fun i =>
     let o := 0x80 + 16 * i
     [bad (natAt b (o + 8) 4 != 0 && natAt b o 8 % 4096 != 0) o,
      bad (natAt b (o + 8) 4 != 0 && (natAt b (o + 12) 4 % 4 == 0 || natAt b (o + 12) 4 % 4 == 3)) (o + 12),
      zeroField b (o + 12) 2 31])).filterMap id

/-- The offset that a refused launch reports: the lowest. -/
def recordError (b : List Byte) : Option Nat :=
  match recordFailures b with
  | [] => none
  | o :: os => some (os.foldl Nat.min o)

/-! Working-set descriptors (16 R415). -/

/-- A region entry; none when it is malformed. -/
def regionOf (b : List Byte) : Option Region :=
  let base := natAt b 0 8
  let pages := natAt b 8 8
  let t := natAt b 0x10 2
  if base % 65536 ≠ 0 ∨ pages = 0 ∨ 1000 < t ∨ natAt b 0x12 14 ≠ 0 then none
  else some ⟨base, pages, (t * pages + 999) / 1000⟩

/-- A descriptor as read. -/
inductive WsRead where
  | got (rs : List Region) (s : State)
  | malformed (s : State)
  | wait (s : State)
  | fail (addr : Nat)
  deriving DecidableEq, Repr

/-- Read a working-set descriptor. -/
def State.readWs (s : State) (fn part va : Nat) : WsRead :=
  match s.readOwn fn part va 16 with
  | .wait s => .wait s
  | .fail a => .fail a
  | .got h s =>
    let n := natAt h 0 4
    if n = 0 ∨ 64 < n ∨ natAt h 4 12 ≠ 0 then .malformed s
    else
      match s.readOwn fn part (va + 16) (32 * n) with
      | .wait s => .wait s
      | .fail a => .fail a
      | .got b s =>
        let rs := (List.range n).map (fun i => regionOf ((b.drop (32 * i)).take 32))
        if rs.all Option.isSome then .got (rs.filterMap id) s else .malformed s

/-! Taking an entry (16 R412, R413). -/

/-- The submission of an entry. -/
def Submission.of (fn part at_ : Nat) (b : List Byte) : Submission :=
  { fn := fn, part := part, entryAddr := at_, doneAddr := natAt b 0x20 8, doneInc := natAt b 0x28 8, stAddr := natAt b 0x30 8,
    status := 0, offset := 0, launch := none }

/-- The head entry of a queue is taken: the ring and the turn move on. -/
def State.takeHead (s : State) (fn q part : Nat) (x : Submission) : State :=
  let s := s.modSq fn q (fun y => { y with head := (y.head + 1) % y.size, flag := none })
  let s := s.modPart part (fun p => { p with nextFn := fn + 1 })
  { s with subs := s.subs.set s.nextId x, nextId := s.nextId + 1 }

/-- An entry that completes at once, with a status and an offset. -/
def State.refuseEntry (s : State) (fn q part : Nat) (b : List Byte) (status offset : Nat) : State :=
  let x := Submission.of fn part (s.sq fn q).headAddr b
  s.takeHead fn q part
    { x with status := status, offset := offset,
             stAddr := if x.stAddr % 16 = 0 then x.stAddr else 0, doneAddr := if x.doneAddr % 8 = 0 then x.doneAddr else 0 }

/-- Take a head that starts no launch: a fault, an invalid entry, or a SIGNAL. -/
def State.takePlain (s : State) (fn q part : Nat) : Head → State
  | .ringFault a =>
    let at_ := (s.sq fn q).headAddr
    (s.submitFault fn part false a 1 at_).modSq fn q (fun y => { y with stopped := true })
  | .invalid b o s => s.refuseEntry fn q part b 4 o
  | .depFault b a s => (s.submitFault fn part false a 4 (s.sq fn q).headAddr).refuseEntry fn q part b 6 0x10
  | .ready b s => s.takeHead fn q part (Submission.of fn part (s.sq fn q).headAddr b)
  | .wait s | .held s => s
  | .none => s

/-! Geometry of a partition (16 R396, R397). -/

/-- Slices of a die in a partition. -/
def Part.dieSlices (p : Part) (d : Nat) : Nat := p.slices / 2 ^ (8 * d) % 256

/-- The dies of a partition in logical order. -/
def Part.dies (p : Part) : List Nat :=
  (((List.range 4).map (fun i => p.dieorder / 4 ^ i % 4)).eraseDups).filter (fun d => p.dieSlices d != 0)

/-- The slice of a core position. -/
def sliceOf (row col : Nat) : Nat := 2 * (row / 2) + (if 6 ≤ col then 1 else 0)

/-- The cores of a rectangle lie in the partition and are in service. -/
def State.rectIn (s : State) (p : Part) (d row col w h : Nat) : Bool :=
  (List.range h).all (fun y => (List.range w).all (fun x =>
    (p.dieSlices d).testBit (sliceOf (row + y) (col + x)) &&
      !(s.cores.getD (96 * d + 12 * (row + y) + col + x) Core.reset).removed))

/-- North-west corners of a shape on a die, in the order of choice (14 R376). -/
def corners (w h : Nat) : List (Nat × Nat) :=
  if w = 0 ∨ h = 0 then []
  else (List.range (9 - h)).flatMap (fun r => (List.range (13 - w)).map (fun c => (r, c)))

/-- The fallback shape of a launch (04 R109). -/
def LaunchRec.fallback (r : LaunchRec) : Nat × Nat :=
  if r.gangfw = 0 then (r.gangpw, r.gangph) else (r.gangfw, r.gangfh)

/-- 32-row blocks that a team takes (16 R418). -/
def LaunchRec.blocks (r : LaunchRec) : Nat := (r.groups * r.groupRows + r.scratch / 128 + 31) / 32

/-- An empty core can take a team (16 R417). -/
def LaunchRec.fitsEmpty (r : LaunchRec) : Bool := decide (r.blocks ≤ 240)

/-- Some rectangle of the partition could hold a shape with every core empty. -/
def State.couldHold (s : State) (p : Part) (r : LaunchRec) (w h : Nat) : Bool :=
  r.fitsEmpty && p.dies.any (fun d => (corners w h).any (fun c => s.rectIn p d c.1 c.2 w h))

/-- The pool of a function can hold a group record, a team record and a gang header (17 R459). -/
def State.poolHolds (s : State) (fn : Nat) (r : LaunchRec) : Bool :=
  decide (1 + 1 + (1 + (r.scratch + 65535) / 65536) + 1 ≤ (s.fn fn).ctxchunks.toNat)

/-- The launch can be placed at all. -/
def State.placeable (s : State) (fn : Nat) (p : Part) (r : LaunchRec) : Bool :=
  s.poolHolds fn r && (s.couldHold p r r.gangpw r.gangph || s.couldHold p r r.fallback.1 r.fallback.2)

/-! Starting a launch (13 R343; 14 R375; 16 R416, R420, R421). -/

/-- A tenant has work in a partition: a launch that is not complete. -/
def State.hasWork (s : State) (part fn : Nat) : Bool :=
  s.launches.any (fun e => e.2.part == part && e.2.fn == fn && !e.2.complete)

/-- The tenants of a partition that have work, ascending; the physical function counts as one. -/
def State.workers (s : State) (part : Nat) : List Nat := (s.submitters part).filter (s.hasWork part)

/-- The places of the granules that a hint covers. -/
def State.hintPlaces (s : State) (fn part : Nat) (base : Dword) (count : Nat) : List Xlat :=
  (List.range count).map (fun i => s.translateNow fn part .clean ((base.toNat + 4096 * i) % 2 ^ 64))

/-- The granules that a hint names. -/
def State.hintGranules (s : State) (fn part : Nat) (base : Dword) (count : Nat) : List Nat :=
  (s.hintPlaces fn part base count).filterMap (fun x =>
    match x with
    | .ok key => some (granuleOf key)
    | _ => none)

/-- A launch whose hints cover a page in motion, or one that the host has still to translate, waits for it (04 R110;
16 R414): what it asks for. -/
def State.hintsWait (s : State) (fn part : Nat) (r : LaunchRec) : Option State :=
  (r.hints.flatMap (fun h => s.hintPlaces fn part h.1 h.2.1)).foldl (fun (w : Option State) x =>
    match x with
    | .fault .transit | .busy => some (w.getD s)
    | .ats page limit => some ((w.getD s).requestAts fn page limit .own)
    | _ => w) none

/-- The hints of a launch apply to granules that are UNTOUCHED when it starts; a later hint goes first (04 R110). -/
def State.applyHints (s : State) (fn part : Nat) (r : LaunchRec) : State :=
  r.hints.foldl (fun t h =>
    (s.hintGranules fn part h.1 h.2.1).foldl (fun t g =>
      if (s.granules.find g).isNone then t.setGranule g (if h.2.2 = 1 then .readonly else .shared) else t) t) s

/-- The classification epoch of a launch (13 R343). -/
def State.epoch (s : State) (fn part : Nat) (r : LaunchRec) : State :=
  let s := if s.launches.any (fun e => e.2.part == part && !e.2.complete) then s else s.relearnPart part
  let t := (s.applyHints fn part r).seenFaults fn .own
  -- a hint whose walk meets a poisoned entry names no granule, and is signalled (17 R455)
  r.hints.foldl (fun t h => (List.range h.2.1).foldl (fun t i => t.noteWalk fn ((h.1.toNat + 4096 * i) % 2 ^ 64)) t) t

/-- A tenant's work arrives when it has none: its pass rises to the lowest of the others, and after ten idle ticks it is
boosted (16 R420, R421). -/
def State.workArrives (s : State) (part fn : Nat) : State :=
  if s.hasWork part fn then s
  else
    let others := s.workers part
    s.modPart part (fun p =>
      let low := (others.map (fun t => p.passes.getD t 0)).min?
      { p with
        passes := match low with
          | some l => p.passes.set fn (Nat.max (p.passes.getD fn 0) l)
          | none => p.passes
        boosts := if 10 ≤ p.idle.getD fn 0 then p.boosts.set fn 2 else p.boosts
        idle := p.idle.drop fn })

/-- The context of a tenant comes to be at its first launch in a partition: its tables and their master copy. It lasts
until the partition is destroyed or the function is reset, whatever VF_BIND does between (02 R59; 16 R424; log 129). -/
def State.openContext (s : State) (part fn : Nat) : State :=
  let ctx := part * 65 + fn
  if (s.contexts.find ctx).isSome then s else { s with contexts := s.contexts.set ctx ⟨[], [], none⟩ }.writeMaster fn ctx

/-- The tickets of each die of a partition (14 R375). -/
def ticketRanges (dies : List Nat) (n : Nat) : List TicketRange :=
  (numbered 0 dies).map (fun e => ⟨e.2, e.1 * n / dies.length, (e.1 + 1) * n / dies.length, 0⟩)

/-- The bytes of a record buffer as a replay finds them, up to the first that cannot be read. -/
def State.bufferBytes (s : State) (fn part va : Nat) : Nat → Nat → List Byte
  | _, 0 => []
  | 0, _ => []
  | fuel + 1, n =>
    let size := Nat.min n (16 - va % 16)
    match s.translateNow fn part .read (va % 2 ^ 64) with
    | .ok key => if s.poisonIn key size then [] else s.bytesAt key size ++ s.bufferBytes fn part (va + size) fuel (n - size)
    | _ => []

/-- The recorder starts on a launch, with its record and its argument block as read; a block that cannot be read leaves its item
out, and the launch runs on (19 R487; log 133). A replay takes the items of its record buffer (19 R488; log 8). -/
def State.recordLaunch (s : State) (fn part : Nat) (r : LaunchRec) (rb : List Byte) : State :=
  let f := s.fn fn
  if r.record && f.ymode == 1 then
    let s := (s.modFn fn (fun x => { x with yused := 0, yout := [], ylog := [], ywaits := false })).record fn ⟨yLaunch, 0, 0, rb⟩
    match s.readOwn fn part r.argptr.toNat r.argsize with
    | .got b s => s.record fn ⟨yArgs, 0, 0, b⟩
    | _ => s
  else if r.record && f.ymode == 2 then
    let items := (Config.recordItems (s.bufferBytes fn part f.ybase.toNat (f.ysize.toNat + 1) f.ysize.toNat)).filterMap YItem.ofFields
    s.modFn fn (fun x => { x with ylog := items.filter (fun i => i.what != yLaunch && i.what != yArgs), ywaits := true })
  else s

/-- The recorder's own move. It writes the next bytes of a recording at YBASE + USED, one access at a time, and stops with TRUNC
where they cannot be written; when a replay has used its records up, it signals vector 3 (19 R474, R487, R488; log 8). -/
def State.recorderMove (s : State) (fn : Nat) : State :=
  let f := s.fn fn
  if f.yout.isEmpty then
    (if f.ywaits && f.ylog.isEmpty then ((s.modFn fn (fun x => { x with ywaits := false })).signal fn 3).wake else s)
  else
    let va := (f.ybase.toNat + f.yused) % 2 ^ 64
    let bs := f.yout.take (16 - va % 16)
    let lost : State := s.modFn fn (fun x => { x with yout := [], ystat := if x.ystat % 2 = 1 then x.ystat else x.ystat + 1 })
    match f.bound with
    | none => lost.wake
    | some part =>
      match s.translateNow fn part .write va with
      | .ok key =>
        if s.homeWaits key then s
        else
          (((s.classify key (homeDie key) none true).writeBytes key bs).modFn fn (fun x =>
            { x with yused := x.yused + bs.length, yout := x.yout.drop bs.length })).wake
      | .fault .transit | .busy => s
      | .ats page limit => s.requestAts fn page limit .own
      | _ => (lost.noteWalk fn va |>.seenFaults fn .own).wake

/-- A launch joins its dispatch queue. -/
def State.startLaunch (s : State) (fn part : Nat) (p : Part) (sub lrec : Nat) (rb : List Byte) (rs : List Region) : State :=
  let r := LaunchRec.of rb
  let s := (s.workArrives part fn).openContext part fn
  let s := (s.epoch fn part r).recordLaunch fn part r rb
  let id := s.nextId
  let l : Launch :=
    { cfg := r, lrec := BitVec.ofNat 64 lrec, fn := fn, part := part, sub := sub, ranges := ticketRanges p.dies r.gridn,
      regions := rs, gate := false, finished := 0, killed := false, unplaceable := false, complete := false }
  let s := { s with nextId := id + 1, launches := s.launches.set id l }
  let s := { s with subs := s.subs.modify sub (fun x => { x with launch := some id }) }
  s.modPart part (fun p => { p with dq := p.dq.set r.qsel (p.dq.getD r.qsel [] ++ [id]) })

/-- Take a LAUNCH entry: read and check its record and its working-set descriptor, check placement, start it. A record
that is not aligned to 256 is read as it stands (log 105). -/
def State.takeLaunch (s : State) (fn q part : Nat) (p : Part) (b : List Byte) : State :=
  let at_ := (s.sq fn q).headAddr
  let lrec := natAt b 0x08 8
  let fault (s : State) (a access : Nat) : State := (s.submitFault fn part false a access at_).refuseEntry fn q part b 6 0x08
  match s.readOwn fn part lrec 256 with
  | .wait s => s
  | .fail a => fault s a 2
  | .got rb s' =>
    let r := LaunchRec.of rb
    let err := recordError rb
    let ws : WsRead :=
      if r.wsdesc = 0 ∨ (err.getD 0x100 < 0x28) then .got [] s' else s'.readWs fn part r.wsdesc.toNat
    match ws, err with
    | .wait s, _ => s
    | .malformed s, _ => s.refuseEntry fn q part b 1 0x28
    | .fail _, some o => s'.refuseEntry fn q part b 1 o
    | .fail a, none => fault s' a 3
    | .got _ s, some o => s.refuseEntry fn q part b 1 o
    | .got rs s, none =>
      if !s.placeable fn p r then s.refuseEntry fn q part b 2 0
      else
        match s.hintsWait fn part r with
        | some s => s
        | none =>
          let sub := s.nextId
          (s.takeHead fn q part (Submission.of fn part at_ b)).startLaunch fn part p sub lrec rb rs

/-- SQTAIL: the doorbell; a stopped queue reads its entry again (16 R410, R414). -/
def execSqtail (fn q tail : Nat) (s : State) : Host.Outcome State Fault Refusal :=
  .next (s.modSq fn q (fun x => { x with tail := tail % 4096, stopped := false }))

/-- LAUNCH: the queue that is served next has an entry to take that is not a SIGNAL. -/
def execLaunch (fn q : Nat) (s : State) : Host.Outcome State Fault Refusal :=
  match s.sqPart fn q with
  | none => .next s
  | some part =>
    match s.part part, s.queueHead fn part q with
    | some p, h =>
      (match h with
       | .wait s | .held s => .next s
       | .none => .next s
       | .ready b s' =>
         if s.served part = some (fn, q) && natAt b 0 1 == 1 then .next (s'.takeLaunch fn q part p b) else .next s
       | h => if s.served part = some (fn, q) && !h.isSignal then .next (s.takePlain fn q part h) else .next s)
    | none, _ => .next s

/-- SIGNAL_ENTRY: a SIGNAL entry is taken, and completes (16 R413). -/
def execSignalEntry (fn q : Nat) (s : State) : Host.Outcome State Fault Refusal :=
  match s.sqPart fn q with
  | none => .next s
  | some part =>
    let h := s.queueHead fn part q
    match h with
    | .held s => .next s
    | h => if s.served part = some (fn, q) && h.isSignal then .next (s.takePlain fn q part h) else .next s

/-! Completion (14 R378; 16 R419). -/

/-- Every ticket of a launch is placed, or dropped. -/
def Launch.allPlaced (l : Launch) : Bool := l.ranges.all (fun r => r.front == r.back)

/-- A launch leaves its dispatch queue. -/
def State.leaveDq (s : State) (id : Nat) : State :=
  { s with parts := s.parts.map (fun e => (e.1, { e.2 with dq := e.2.dq.map (fun d => (d.1, d.2.filter (fun x => x != id))) })) }

/-- The gangs of a launch. -/
def State.gangsOf (s : State) (launch : Nat) : List (Nat × Gang) := s.gangs.filter (fun e => e.2.launch == launch)

/-- LAUNCH_COMPLETE: every ticket placed and every cluster finished; a killed launch, when its groups have stopped. -/
def execLaunchComplete (launch : Nat) (s : State) : Host.Outcome State Fault Refusal :=
  match s.launches.find launch with
  | some l =>
    if !l.complete && l.allPlaced && (s.gangsOf launch).all (fun e => e.2.status == .finished) then
      let s := (s.gangsOf launch).foldl (fun s e => s.freeGangRecords l.fn l.lrec.toNat e.2.gridpos) s
      let s := (s.modLaunch launch (fun l => { l with complete := true })).leaveDq launch
      .next (s.releaseContext (l.part * 65 + l.fn))
    else .next s
  | none => .next s

/-- A command of a launch is in a queue or under way. -/
def State.commandsLeft (s : State) (launch : Nat) : Bool :=
  s.queues.any (fun e => e.2.cmds.any (fun c => c.launch == launch)) ||
    s.fabric.cmds.any (fun e => e.2.launch == launch)

/-- STATUS at completion (16 R411). -/
def State.finalStatus (s : State) (x : Submission) : Nat :=
  match x.launch.bind (fun l => s.launches.find l) with
  | some l => if l.killed then 5 else if l.unplaceable then 2 else x.status
  | none => x.status

/-- A launch that is over leaves the machine, with its gangs, teams and groups. -/
def State.forgetLaunch (s : State) (launch : Nat) : State :=
  { s.noteRan ((s.groups.filter (fun e => e.2.launch == launch)).map Prod.snd) with
    launches := s.launches.drop launch
    gangs := s.gangs.filter (fun e => e.2.launch != launch)
    groups := s.groups.filter (fun e => e.2.launch != launch)
    teams := s.teams.filter (fun e => ((s.gangs.find e.2.gang).map (fun c => c.launch)) != some launch)
    bad := s.bad.filter (fun b => ((s.groups.find b.gid).map (fun g => g.launch)) != some launch) }

/-- Where a completion access goes: it waits, faults, or has a place. -/
inductive OwnPlace where
  | skip
  | wait (s : State)
  | fail (addr : Nat)
  | at_ (key : Nat)
  deriving DecidableEq, Repr

/-- The place of a completion access of a function; address 0 is none. -/
def State.ownPlace (s : State) (fn part addr : Nat) (need : Need) (size : Nat) : OwnPlace :=
  if addr = 0 then .skip
  else
    match s.translateNow fn part need addr with
    | .ok key => if s.homeWaits key then .wait s else if need = .both && s.poisonIn key size then .fail addr else .at_ key
    | .fault .transit | .busy => .wait s
    | .ats page limit => .wait (s.requestAts fn page limit .own)
    | _ => .fail addr

/-- SUBMISSION_COMPLETE: the status record, then the completion flag. -/
def execSubmissionComplete (sub : Nat) (s : State) : Host.Outcome State Fault Refusal :=
  match s.subs.find sub with
  | none => .next s
  | some x =>
    let isOver := match x.launch with
      | some l => ((s.launches.find l).map (fun y => y.complete)).getD true && !s.commandsLeft l
      | none => true
    if !isOver then .next s
    else
      match s.ownPlace x.fn x.part x.stAddr .write 16, s.ownPlace x.fn x.part x.doneAddr .both 8 with
      | .wait s, _ => .next s
      | _, .wait s => .next s
      | st, dn =>
        let status := s.finalStatus x
        let s := match st with
          | .at_ key =>
            (s.classify key (homeDie key) none true).writeBytes key
              (bytesOfNat 4 status ++ bytesOfNat 4 x.offset ++ bytesOfNat 8 s.reftime)
          | .fail a => s.submitFault x.fn x.part true a 5 x.entryAddr
          | _ => s
        let s := match dn with
          | .at_ key =>
            (s.classify key (homeDie key) none true).writeBytes key
              (bytesOfNat 8 (natOfBytes (s.bytesAt key 8) + x.doneInc))
          | .fail a => s.submitFault x.fn x.part true a 6 x.entryAddr
          | _ => s
        let s := { s with subs := s.subs.drop sub }
        .next (match x.launch with
          | some l => s.forgetLaunch l
          | none => s)

end Sys2Proof.Machine
end

