-- ==== Sys2Proof/Machine/Place.lean ====
section
/-! DEFINITION. Placing clusters: group start, free and claimable rows, claims, halts of gangs, resumption in place and
restoration (01 R31; 04 R111; 07 R211; 10 R256; 14 R376; 16 R417, R418, R422 to R426). -/

namespace Sys2Proof.Machine

open Sys2Proof

/-! Group and team start (01 R31; 04 R111). -/

/-- The serial number of a lane. -/
def laneSerial (gridpos team group lane : Nat) : Nat := ((gridpos * 12 + team) * 32 + group) * 32 + lane

/-- SEED at group start. -/
def seedOf (base : Word) (lsn : Nat) : Word :=
  let s := base ^^^ BitVec.ofNat 32 (lsn * 0x9E3779B9)
  if s = 0 then 1 else s

/-- SPTR at group start. -/
def sptrOf (r : LaunchRec) (lsn : Nat) : Dword := r.sptrbase + BitVec.ofNat 64 ((lsn + 1) * r.stacksz)

/-- The epilogue configuration at group start (10 Table 10.5). -/
def epiReset : BitVec 160 := BitVec.ofNat 160 (0xFF800000 * 2 ^ 128 + 0x3F800000 * 2 ^ 32)

/-- The uniform registers at group start: both argument pairs hold ARGPTR. -/
def startK (arg : Dword) : Vector Word 32 :=
  Vector.ofFn (fun i => if i.val % 16 = 0 then lowHalf arg else if i.val % 16 = 1 then highHalf arg else 0)

/-- Where a group stands in its cluster. -/
structure Seat where
  fn : Nat
  part : Nat
  launch : Nat
  gang : Nat
  team : Nat
  core : Nat
  slotIx : Nat
  vbase : Nat
  groupId : Nat
  teamId : Nat
  cx : Nat
  cy : Nat
  gridpos : Nat
  deriving DecidableEq, Repr

/-- A group at its start. -/
def Group.start (r : LaunchRec) (x : Seat) : Group :=
  let lsn (i : Fin 32) : Nat := laneSerial x.gridpos x.teamId x.groupId i.val
  { cfg := r, fn := x.fn, part := x.part, launch := x.launch, gang := x.gang, team := x.team, core := x.core,
    slotIx := x.slotIx, vbase := x.vbase, groupId := x.groupId, teamId := x.teamId, cx := x.cx, cy := x.cy,
    gridpos := x.gridpos, sysMode := x.fn == pfId, trapMode := false,
    v := Vector.replicate 64 (Vector.replicate 32 0), k := startK r.argptr, a := Vector.replicate 16 ⟨0, 0⟩,
    p := (Vector.replicate 8 0).set 0 (BitVec.allOnes 32), j := Vector.replicate 16 0,
    x := Vector.replicate 4 Abacus.zero, q := [], guards := Vector.replicate 16 .unresolved,
    fpstat := Vector.replicate 32 0, seed := Vector.ofFn (fun i => seedOf r.seedbase (lsn i)),
    sptr := Vector.ofFn (fun i => sptrOf r (lsn i)),
    cspill := Vector.ofFn (fun i => r.sptrbase + BitVec.ofNat 64 (lsn i * r.stacksz)),
    regs := ⟨0, 0, 0⟩, firstRegs := none, saved := Vector.replicate 32 ⟨0, .header, .none, false⟩,
    sa := StreamState.start r.codea, sc := StreamState.start r.codec,
    latch := ⟨Vector.replicate 4 false, 0, 0, Vector.replicate 16 (Vector.replicate 32 0)⟩, epi := epiReset,
    cbarPhase := Vector.replicate 8 none, cbarWait := [], mwait := [], status := .running, escalated := none,
    transitWait := false, killed := false, pendingTrap := none, ahead := none, landed := [], since := 0, deadlock := 0, wdog := 0, progress := false }

/-- A team at its start. -/
def Team.start (gang core teamId scratch sbase : Nat) (blocks : List Nat) : Team :=
  { gang := gang, core := core, teamId := teamId, m := Vector.replicate 16 0, late := [], scratchSize := scratch,
    sbase := sbase, scratch := [], scratchPoison := [], tbar := Vector.replicate 8 ⟨0, 0, 0⟩, blocks := blocks }

/-! Free and claimable parts of a core (16 R417, R418, R423). -/

/-- A core by number. -/
def State.core (s : State) (c : Nat) : Core := s.cores.getD c Core.reset

/-- The gang of an owner of rows. -/
def State.ownerGang (s : State) (o : Nat) : Option Gang :=
  match s.groups.find o, s.teams.find o with
  | some g, _ => s.gangs.find g.gang
  | none, some t => s.gangs.find t.gang
  | none, none => none

/-- Every group of a gang is halted or finished. -/
def State.gangQuiet (s : State) (c : Gang) : Bool :=
  c.groups.all (fun k => match s.groups.find k with
    | some g => g.status == .halted || g.status == .finished
    | none => true)

/-- A gang is halted, in place or not. -/
def Gang.isHalted (c : Gang) : Bool :=
  match c.status with
  | .halted _ | .saved _ => true
  | _ => false

/-- When a gang was halted. -/
def Gang.haltTime (c : Gang) : Nat :=
  match c.status with
  | .halted t | .saved t => t
  | _ => 0

/-- The context of a gang. -/
def Gang.context (c : Gang) : Nat := c.part * 65 + c.fn

/-- What an owner holds may be claimed for a context: the time of its halt. -/
def State.claimTime (s : State) (ctx o : Nat) : Option Nat :=
  match s.ownerGang o with
  | some c => if c.context ≠ ctx && c.isHalted && s.gangQuiet c then some c.haltTime else none
  | none => none

/-- Insert by time, then number. -/
def insertTimed (x : Nat × Nat) : List (Nat × Nat) → List (Nat × Nat)
  | [] => [x]
  | y :: r => if x.1 < y.1 ∨ x.1 = y.1 ∧ x.2 < y.2 then x :: y :: r else y :: insertTimed x r

/-- Numbers in the order of their times. -/
def byTime (l : List (Nat × Nat)) : List Nat := (l.foldl (fun r x => insertTimed x r) []).map Prod.snd

/-- The group slots and the blocks that a team gets on a core. -/
structure CorePlan where
  slots : List Nat
  blocks : List Nat
  deriving DecidableEq, Repr

/-- The blocks of a core that may be claimed, the context halted longest ago first. -/
def State.claimableBlocks (s : State) (ctx core : Nat) : List Nat :=
  byTime ((s.core core).blocks.filterMap (fun e =>
    if e.2.all (fun o => (s.claimTime ctx o).isSome) then (e.2.head?.bind (s.claimTime ctx)).map (fun t => (t, e.1)) else none))

/-- The group slots of a core that may be claimed. -/
def State.claimableSlots (s : State) (ctx core : Nat) : List Nat :=
  byTime ((numbered 0 (s.core core).slots).filterMap (fun e => (e.2.bind (s.claimTime ctx)).map (fun t => (t, e.1))))

/-- Scratch rows in use on a core once some blocks are claimed. -/
def State.scratchRows (s : State) (core : Nat) (claimed : List Nat) : Nat :=
  ((s.teams.filter (fun e => e.2.core == core &&
    (s.core core).blocks.any (fun b => b.2.contains e.1 && !claimed.contains b.1))).map (fun e => e.2.scratchSize / 128)).sum

/-- What a team of a launch would take on a core; none when it cannot be placed there. -/
def State.planCore (s : State) (ctx core : Nat) (r : LaunchRec) (northWest : Bool) : Option CorePlan :=
  let c := s.core core
  let freeSlots := (numbered 0 c.slots).filterMap (fun e => if e.2.isNone then some e.1 else none)
  let slots := (freeSlots ++ s.claimableSlots ctx core).take r.groups
  let freeBlocks := (List.range 256).filter (fun b => (c.blocks.find b).isNone)
  let fromFree := freeBlocks.take (Nat.min r.blocks (freeBlocks.length - 16))
  let claimed := (s.claimableBlocks ctx core).take (r.blocks - fromFree.length)
  if c.removed || slots.length < r.groups || fromFree.length + claimed.length < r.blocks ||
      decide (2048 < s.scratchRows core claimed + r.scratch / 128) || (northWest && decide (8 ≤ c.cbarSets)) then none
  else some ⟨slots, fromFree ++ claimed⟩

/-- The core at a position of a rectangle. -/
def rectCore (die row col w i : Nat) : Nat := 96 * die + 12 * (row + i / w) + col + i % w

/-- A rectangle can take a cluster. -/
def State.rectFits (s : State) (p : Part) (ctx : Nat) (r : LaunchRec) (die w h : Nat) (at_ : Nat × Nat) : Bool :=
  s.rectIn p die at_.1 at_.2 w h &&
    (List.range (w * h)).all (fun i => (s.planCore ctx (rectCore die at_.1 at_.2 w i) r (i == 0)).isSome)

/-- The rectangle that a carousel chooses: the lowest row, then the lowest column (14 R376). -/
def State.findRect (s : State) (p : Part) (ctx : Nat) (r : LaunchRec) (die w h : Nat) : Option (Nat × Nat) :=
  (corners w h).find? (s.rectFits p ctx r die w h)

/-! Claims and occupation (16 R418, R423). -/

/-- The gang of an owner has lost something. -/
def State.markSaved (s : State) (o : Nat) : State :=
  match s.groups.find o, s.teams.find o with
  | some g, _ => s.modGang g.gang (fun c => { c with status := .saved c.haltTime })
  | none, some t => s.modGang t.gang (fun c => { c with status := .saved c.haltTime })
  | none, none => s

/-- Claim what a plan takes from halted contexts: what stands in the claimed blocks and slots is written, then they are
given away; none when a pool has no room (16 R423). -/
def State.claimCore (s : State) (core : Nat) (plan : CorePlan) : Option State :=
  let c := s.core core
  let owners := (plan.slots.filterMap (fun i => (c.slots.getD i none)) ++
    plan.blocks.flatMap (fun b => c.blocks.getD b [])).eraseDups
  (s.saveOwners (fun o => plan.slots.any (fun i => c.slots.getD i none == some o))
    (fun o b => plan.blocks.contains b && (c.blocks.getD b []).contains o) owners).map (fun s =>
    (owners.foldl State.markSaved s).modCore core (fun c =>
      { c with slots := (numbered 0 c.slots).map (fun e => if plan.slots.contains e.1 then none else e.2),
               blocks := c.blocks.filter (fun e => !plan.blocks.contains e.1) }))

/-- The lane-store row of a position in a plan's blocks. -/
def CorePlan.row (p : CorePlan) (pos : Nat) : Nat := 32 * p.blocks.getD (pos / 32) 0 + pos % 32

/-- A team's groups and scratch take their slots and rows; `live` are the groups that need theirs. -/
def State.occupy (s : State) (core : Nat) (plan : CorePlan) (r : LaunchRec) (tid : Nat) (gids : List Nat)
    (live : Nat → Bool) (northWest : Bool) : State :=
  let gb := r.groupRows
  let top := r.groups * gb
  let sc := r.scratch / 128
  let ownersOf (k : Nat) : List Nat :=
    (numbered 0 gids).filterMap (fun e =>
      if live e.2 && decide (e.1 * gb < 32 * k + 32) && decide (32 * k < (e.1 + 1) * gb) then some e.2 else none) ++
    (if sc ≠ 0 ∧ top < 32 * k + 32 ∧ 32 * k < top + sc then [tid] else [])
  let seats := (plan.slots.zip gids).filter (fun e => live e.2)
  s.modCore core (fun c =>
    { c with
      slots := (numbered 0 c.slots).map (fun e => match seats.find? (fun x => x.1 == e.1) with
        | some x => some x.2
        | none => e.2)
      blocks := (numbered 0 plan.blocks).foldl (fun m e => if (ownersOf e.1).isEmpty then m else m.set e.2 (ownersOf e.1)) c.blocks
      cbarSets := if northWest then c.cbarSets + 1 else c.cbarSets })

/-- A cluster to place. -/
structure Cluster where
  launch : Nat
  die : Nat
  row : Nat
  col : Nat
  w : Nat
  h : Nat
  fallback : Bool
  gridpos : Nat
  deriving DecidableEq, Repr

/-- Place team `i` of a new cluster. -/
def State.placeTeam (s : State) (l : Launch) (x : Cluster) (gk i : Nat) : Option State :=
  let r := l.cfg
  let core := rectCore x.die x.row x.col x.w i
  match s.planCore (l.part * 65 + l.fn) core r (i == 0) with
  | none => none
  | some plan =>
    let tid := gk + 1 + i * (r.groups + 1)
    let gids := (List.range r.groups).map (fun j => tid + 1 + j)
    (s.claimCore core plan).map (fun s =>
      let s := s.occupy core plan r tid gids (fun _ => true) (i == 0)
      let s := { s with teams := s.teams.set tid (Team.start gk core i r.scratch (plan.row (r.groups * r.groupRows)) plan.blocks) }
      (numbered 0 gids).foldl (fun s e =>
        let seat : Seat :=
          { fn := l.fn, part := l.part, launch := x.launch, gang := gk, team := tid, core := core,
            slotIx := plan.slots.getD e.1 0, vbase := plan.row (e.1 * r.groupRows), groupId := e.1, teamId := i,
            cx := i % x.w, cy := i / x.w, gridpos := x.gridpos }
        { s with groups := s.groups.set e.2 (Group.start r seat) }) s)

/-- Place teams, one after the other. -/
def State.placeTeams (s : State) (l : Launch) (x : Cluster) (gk : Nat) : List Nat → Option State
  | [] => some s
  | i :: is =>
    match s.placeTeam l x gk i with
    | some s => s.placeTeams l x gk is
    | none => none

/-- Place a new cluster; none when a claim has no room in a pool. -/
def State.placeCluster (s : State) (x : Cluster) : Option State :=
  match s.launches.find x.launch with
  | none => none
  | some l =>
    let gk := s.nextId
    let n := x.w * x.h
    let team (i : Nat) : Nat := gk + 1 + i * (l.cfg.groups + 1)
    let gang : Gang :=
      { launch := x.launch, fn := l.fn, part := l.part, die := x.die, row := x.row, col := x.col, w := x.w, h := x.h,
        fallback := x.fallback, gridpos := x.gridpos, teams := (List.range n).map team,
        groups := (List.range n).flatMap (fun i => (List.range l.cfg.groups).map (fun j => team i + 1 + j)),
        cbar := Vector.replicate 8 ⟨0, []⟩, quantumStart := s.reftime, status := .running, pending := false, sets := [], blocks := [] }
    ({ s with nextId := gk + 1 + n * (l.cfg.groups + 1), gangs := s.gangs.set gk gang }.placeTeams l x gk (List.range n)).map
      State.wake

/-! Halts of gangs (16 R422). -/

/-- The quads of a gang's cores. -/
def State.gangQuads (s : State) (c : Gang) : List Nat :=
  (c.groups.filterMap (fun k => (s.groups.find k).map Group.quad)).eraseDups

/-- Halt a gang in place: its groups stop at the ends of their runs and become quiet. -/
def State.haltGang (s : State) (gk : Nat) : State :=
  match s.gangs.find gk with
  | none => s
  | some c =>
    if c.status ≠ .running then s
    else
      let held := (s.gangQuads c).filter (fun q => (s.quad q).sets.contains c.context)
      let s := s.modGang gk (fun c => { c with status := .halted s.units, sets := held })
      c.groups.foldl (fun s k =>
        (s.modGroup k (fun g => if g.status = .running then { g with status := .halting } else g)).afterWork k) s

/-- Groups of a gang that were halted run again; a group that waits for an answer of the host does not. -/
def State.wakeGroups (s : State) (c : Gang) : State :=
  (c.groups.foldl (fun s k => s.modGroup k (fun g =>
    if (g.status = .halted ∨ g.status = .halting) ∧ g.escalated.isNone then { g with status := .running } else g)) s).wake

/-! Resumption (16 R425, R426). -/

/-- Nothing of a halted gang was claimed: neither rows, slots, accumulator blocks nor table sets. -/
def State.intact (s : State) (c : Gang) : Bool :=
  (match c.status with | .halted _ => true | _ => false) && c.sets.all (fun q => (s.quad q).sets.contains c.context) &&
    (s.gangQuads c).all (fun q => (s.quad q).saved.all (fun x => x.context != c.context))

/-- A gang resumes in place. -/
def State.resumeHere (s : State) (gk : Nat) (c : Gang) : State :=
  (s.modGang gk (fun c => { c with status := .running, quantumStart := s.reftime })).wakeGroups c

/-- The quads that a gang alone of its context stands on. -/
def State.ownQuads (s : State) (c : Gang) : List Nat :=
  (s.gangQuads c).filter (fun q => s.gangs.all (fun e =>
    e.2.teams == c.teams || e.2.context != c.context || e.2.status == .finished || e.2.pending || !(s.gangQuads e.2).contains q))

/-- A gang takes along the accumulator blocks of its quads: each is written to its pool, and given up where no other gang
of the context stands; none when the pool has no room (16 R425; log 119). -/
def State.takeBlocks (s : State) (gk : Nat) (c : Gang) : Option State :=
  (s.gangQuads c).foldl (fun (t : Option State) q => t.bind (fun t =>
    let own := (s.ownQuads c).contains q
    let saved := (t.quad q).saved.filter (fun x => x.context == c.context)
    let blocks := ((t.quad q).owners.filter (fun o => o.2 == c.context)).map (fun o => (o.1, (blockRows o.1).map (t.accRow q))) ++
      saved.map (fun x => (x.block, t.savedRows q x))
    let t := if own then saved.foldl (fun t x => t.freeRecord c.fn 5 0 (q * 256 + x.block)) t else t
    (blocks.foldl (fun (u : Option State) b => u.bind (fun u => u.putBlock gk c q b.1 b.2)) (some t)).map (fun t =>
      if own then t.giveUpQuad q c.context else t))) (some s)

/-- A halted gang is written whole to its pool, with the accumulator blocks of its quads, and gives back what it still
holds; none when the pool has no room (16 R425). -/
def State.writeWhole (s : State) (gk : Nat) : Option State :=
  match s.gangs.find gk with
  | none => none
  | some c =>
    if c.pending then some s
    else
      ((s.saveRest c).bind (fun t => t.takeBlocks gk c)).map (fun s =>
        let mine (o : Nat) : Bool := c.groups.contains o || c.teams.contains o
        let s := c.teams.foldl (fun s t =>
          match s.teams.find t with
          | some x => s.modCore x.core (fun k =>
              { k with slots := k.slots.map (fun o => if (o.map mine).getD false then none else o),
                       blocks := (k.blocks.map (fun e => (e.1, e.2.filter (fun o => !mine o)))).filter (fun e => !e.2.isEmpty) })
          | none => s) s
        let s := s.modCore (rectCore c.die c.row c.col c.w 0) (fun k => { k with cbarSets := k.cbarSets - 1 })
        s.modGang gk (fun c => { c with status := .saved c.haltTime, pending := true }))

/-- A group has not finished. -/
def State.groupLives (s : State) (k : Nat) : Bool := ((s.groups.find k).map (fun g => g.status != .finished)).getD false

/-- Move team `i` of a written gang to a core, read back from its records (16 R425; 17 R461). -/
def State.restoreTeam (s : State) (r : LaunchRec) (c : Gang) (core i : Nat) : Option State :=
  match s.planCore c.context core r (i == 0), c.teams[i]? with
  | some plan, some tid =>
    let gids := c.groups.filter (fun k => ((s.groups.find k).map (fun g => g.team == tid)).getD false)
    (s.claimCore core plan).map (fun s =>
      let live : Nat → Bool := s.groupLives
      let s := s.occupy core plan r tid gids live (i == 0)
      let s := (s.rereadTeam tid).modTeam tid (fun t =>
        { t with core := core, sbase := plan.row (r.groups * r.groupRows), blocks := plan.blocks })
      let s := s.noteRan (gids.filterMap (fun k => s.groups.find k))
      (numbered 0 gids).foldl (fun (s : State) (e : Nat × Nat) =>
        let t : State := if live e.2 then s.rereadGroup e.2 else s
        t.modGroup e.2 (fun g =>
          { g with core := core, slotIx := plan.slots.getD e.1 0, vbase := plan.row (e.1 * r.groupRows),
                   since := s.units + 1 })) s)
  | _, _ => none

/-- Move teams, one after the other. -/
def State.restoreTeams (s : State) (r : LaunchRec) (c : Gang) (core : Nat → Nat) : List Nat → Option State
  | [] => some s
  | i :: is =>
    match s.restoreTeam r c (core i) i with
    | some s => s.restoreTeams r c core is
    | none => none

/-- Where a gang's groups would stand on a rectangle: pairs of an old quad and its new one. -/
def State.gangMoves (s : State) (c : Gang) (core : Nat → Nat) : List (Nat × Nat) :=
  ((numbered 0 c.teams).flatMap (fun t => (c.groups.filterMap (fun k => s.groups.find k)).filterMap (fun g =>
    if g.team = t.2 then some (g.quad, { g with core := core t.1 }.quad) else none))).eraseDups

/-- The blocks that a gang takes along and the quads on which it would have them. -/
def State.blockMoves (s : State) (c : Gang) (core : Nat → Nat) : List (GangBlock × Nat) :=
  c.blocks.flatMap (fun b => ((s.gangMoves c core).filter (fun m => m.1 == b.quad)).map (fun m => (b, m.2)))

/-- Another gang of the context stands on a quad. -/
def State.contextStands (s : State) (gk : Nat) (c : Gang) (q : Nat) : Bool :=
  s.gangs.any (fun e => e.1 != gk && e.2.context == c.context && e.2.status != .finished && !e.2.pending && (s.gangQuads e.2).contains q)

/-- On a rectangle the gang would find its own accumulator rows: no block would come to a quad from two, or to one on which
another gang of the context has a block of that number (16 R425; log 119). -/
def State.blocksFit (s : State) (gk : Nat) (c : Gang) (core : Nat → Nat) : Bool :=
  let ms := s.blockMoves c core
  ms.all (fun m =>
    ms.all (fun n => !(n.2 == m.2 && n.1.block == m.1.block && n.1.quad != m.1.quad)) &&
    (m.2 == m.1.quad || !s.contextStands gk c m.2 ||
      !((s.quad m.2).owners.find m.1.block == some c.context || (s.quad m.2).saved.any (fun x => x.context == c.context && x.block == m.1.block))))

/-- A block that a gang has taken along comes to a quad: its rows are there at once where the context owns the block, or
when the block becomes its own; on the old quad, which another gang of the context holds, they stand already. -/
def State.bringBlock (s : State) (gk : Nat) (c : Gang) (m : GangBlock × Nat) : State :=
  let b := m.1.block
  let rows := s.gangRows c.fn m.1
  let held := (s.quad m.2).owners.find b == some c.context
  let kept := (s.quad m.2).saved.any (fun x => x.context == c.context && x.block == b)
  if s.contextStands gk c m.2 && (held || kept) then s
  else if held then (numbered (32 * b) rows).foldl (fun s e => s.setAcc m.2 e.1 e.2) s
  else
    let s := if kept then s.freeRecord c.fn 5 0 (m.2 * 256 + b) else s
    let s := (s.putRecord c.fn 5 0 (m.2 * 256 + b) 1 (blockRecord rows)).getD s
    s.modQuad m.2 (fun y => { y with saved := y.saved.filter (fun z => !(z.context == c.context && z.block == b)) ++ [⟨c.context, b, rows⟩] })

/-- The rectangle of a die on which a written gang can be restored. -/
def State.restoreRect (s : State) (p : Part) (gk : Nat) (c : Gang) (r : LaunchRec) (d : Nat) : Option (Nat × Nat) :=
  (corners c.w c.h).find? (fun at_ => s.rectFits p c.context r d c.w c.h at_ && s.blocksFit gk c (rectCore d at_.1 at_.2 c.w))

/-- Restore a written gang whole on the first rectangle of its partition that can take it. -/
def State.restoreGang (s : State) (gk : Nat) : Option State :=
  match s.gangs.find gk with
  | none => none
  | some c =>
    match s.launches.find c.launch, s.part c.part with
    | some l, some p =>
      p.dies.findSome? (fun d =>
        if !s.clockRuns d then none
        else
          (s.restoreRect p gk c l.cfg d).bind (fun at_ =>
            let core := rectCore d at_.1 at_.2 c.w
            let moves := s.blockMoves c core
            ((s.rereadGang gk).restoreTeams l.cfg c core (List.range (c.w * c.h))).map (fun s =>
              let s := ((moves.foldl (fun s m => s.bringBlock gk c m) s).freeGangRecords c.fn l.lrec.toNat c.gridpos).freeBlocks c
              let s := s.modGang gk (fun c =>
                { c with die := d, row := at_.1, col := at_.2, status := .running, pending := false, blocks := [],
                         quantumStart := s.reftime })
              s.wakeGroups c)))
    | _, _ => none

/-- The tickets of a launch that neither of its shapes can hold any more, even with every core empty, are not placed: its
submission completes with UNPLACEABLE (16 R417, R426; log 127). -/
def State.dropUnfit (s : State) (launch : Nat) : State :=
  match s.launches.find launch with
  | none => s
  | some l =>
    if l.complete || l.ranges.all (fun r => r.front == r.back) ||
        ((s.part l.part).map (fun p => s.couldHold p l.cfg l.cfg.gangpw l.cfg.gangph || s.couldHold p l.cfg l.cfg.fallback.1 l.cfg.fallback.2)).getD false
    then s
    else s.modLaunch launch (fun l => { l with unplaceable := true, ranges := l.ranges.map (fun r => { r with front := r.back }) })

/-- A gang that no rectangle of its partition could hold is given up; its launch ends UNPLACEABLE (16 R426). -/
def State.giveUpGang (s : State) (gk : Nat) : State :=
  match s.gangs.find gk with
  | none => s
  | some c =>
    let s := (s.freeGangRecords c.fn (s.lrecOf c.launch) c.gridpos).freeBlocks c
    let s := s.modLaunch c.launch (fun l => { l with unplaceable := true })
    c.groups.foldl State.finishGroup (s.dropUnfit c.launch)

/-- Some rectangle could hold a gang with every core empty. -/
def State.gangCouldFit (s : State) (c : Gang) : Bool :=
  match s.launches.find c.launch, s.part c.part with
  | some l, some p => s.couldHold p l.cfg c.w c.h
  | _, _ => false

/-- A quiet halted gang goes on: in place, or written whole and restored; when no rectangle is free it stays pending,
and none answers when nothing of this can happen now. -/
def State.resumeGang (s : State) (gk : Nat) : Option State :=
  match s.gangs.find gk with
  | none => none
  | some c =>
    if !c.isHalted || !s.gangQuiet c then none
    else if s.intact c then some (s.resumeHere gk c)
    else
      match s.writeWhole gk with
      | none => none
      | some s' =>
        if !s'.gangCouldFit c then some (s'.giveUpGang gk)
        else
          match s'.restoreGang gk with
          | some t => some t
          | none => if c.pending then none else some s'

end Sys2Proof.Machine
end

