-- ==== Sys2Proof/Machine/Schedule.lean ====
section
/-! DEFINITION. Dispatch queues, the residency gate, the carousels, stride scheduling and the time-allowance scheduler
(14 R376, R377; 16 R416, R420, R421, R426, R427). -/

namespace Sys2Proof.Machine

open Sys2Proof

/-- The puppeteer may place and switch: it is not frozen and performs no command (16 R432; 19 R485). -/
def State.puppeteerFree (s : State) : Bool := !s.frozenPup && s.pf.pcmd.isNone

/-! Dispatch queues and the residency gate (16 R416). -/

/-- The head launch of a dispatch queue: the first with tickets left. -/
def State.dqHead (s : State) (part n : Nat) : Option (Nat × Launch) :=
  match s.part part with
  | none => none
  | some p =>
    (p.dq.getD n []).findSome? (fun id =>
      match s.launches.find id with
      | some l => if l.allPlaced then none else some (id, l)
      | none => none)

/-- How a 64 KiB piece of a region stands: in tier 1, able to move there, or neither. -/
inductive Piece where
  | resident
  | movable (src : Nat)
  | other
  deriving DecidableEq, Repr

/-- The standing of a piece. -/
def State.piece (s : State) (fn va : Nat) : Piece :=
  if !canonicalVa va || !(s.fn fn).root.getLsbD 0 then .other
  else
    match s.walkVa fn (va % 2 ^ 57) with
    | .leaf level e _ =>
      let a := pteFrame e + va % 2 ^ levelShift level
      if pteBit e 9 then .other
      else if s.frameTier a = 1 then .resident
      else if s.frameTier a = 2 ∧ level = 1 then .movable a
      else .other
    | .bad _ => .other

/-- The pieces of a region, ascending. -/
def Region.pieces (r : Region) : List Nat := (List.range r.pages).map (fun i => (r.base + 65536 * i) % 2 ^ 64)

/-- Pieces of a region that lie in tier 1. -/
def State.residentCount (s : State) (fn : Nat) (r : Region) : Nat := r.pieces.countP (fun va => s.piece fn va == .resident)

/-- Pieces of a region that can count. -/
def State.countable (s : State) (fn : Nat) (r : Region) : Nat := r.pieces.countP (fun va => s.piece fn va != .other)

/-- The walks of the residency gate that meet a poisoned entry are signalled (17 R455). -/
def State.noteRegions (s : State) (l : Launch) : State :=
  (l.regions.flatMap Region.pieces).foldl (fun s va => s.noteWalk l.fn va) s

/-- Request the moves up that a region still lacks, in ascending address. -/
def State.requestRegion (s : State) (part fn : Nat) (r : Region) : State :=
  let lack := r.need - s.residentCount fn r
  let up := (r.pieces.filterMap (fun va => match s.piece fn va with | .movable a => some (va, a) | _ => none)).take lack
  up.foldl (fun s x => s.requestMove part fn x.1 x.2 1) s

/-- A launch that can never start: its submission completes at once with a status. -/
def State.dropLaunch (s : State) (id : Nat) (l : Launch) (status : Nat) : State :=
  let s := { s with subs := s.subs.modify l.sub (fun x => { x with status := status, launch := none }) }
  let s := { s.leaveDq id with launches := s.launches.drop id }
  s.releaseContext (l.part * 65 + l.fn)

/-- RESIDENCY_GATE: the head launch of a dispatch queue passes, is refused, or has its moves requested. -/
def execResidencyGate (part dq : Nat) (s : State) : Host.Outcome State Fault Refusal :=
  match s.part part, s.dqHead part dq with
  | some p, some (id, l) =>
    if l.gate || s.frozenPup then .next s
    else if l.regions.any (fun r => decide (s.countable l.fn r < r.need)) ||
        decide (s.frames p 1 < (l.regions.map Region.need).sum) then .next ((s.noteRegions l).dropLaunch id l 3)
    else if l.regions.all (fun r => decide (r.need ≤ s.residentCount l.fn r)) then
      .next (s.modLaunch id (fun l => { l with gate := true }))
    else .next (l.regions.foldl (fun s r => s.requestRegion part l.fn r) s)
  | _, _ => .next s

/-! Taking tickets (14 R375, R376). -/

/-- Tickets left in a range. -/
def TicketRange.left (r : TicketRange) : Nat := r.back - r.front

/-- The range that a thief takes from: the most tickets, then the lowest logical die. -/
def victimRange (rs : List TicketRange) : Option TicketRange :=
  rs.foldl (fun b r =>
    if r.left = 0 then b
    else match b with
      | some x => if x.left < r.left then some r else b
      | none => some r) none

/-- The ticket that a die's carousel takes, and the range it comes from. -/
def Launch.nextTicket (l : Launch) (die : Nat) : Option (Nat × Nat) :=
  match l.ranges.find? (fun r => r.die == die && r.left != 0) with
  | some r => some (r.front, die)
  | none => (victimRange l.ranges).map (fun r => (r.back - 1, r.die))

/-- The ticket leaves its range, from the front for its owner and from the back for a thief. -/
def Launch.take (l : Launch) (die src : Nat) : Launch :=
  { l with ranges := l.ranges.map (fun r =>
      if r.die ≠ src then r
      else if r.die = die then { r with front := r.front + 1 } else { r with back := r.back - 1 }) }

/-- The carousel of a die may place in this cycle: its clock runs and it has not placed in it. -/
def State.mayPlaceIn (s : State) (die : Nat) : Bool := s.clockRuns die && (s.die die).placedIn != s.dieCycle die + 1

/-- The owner of the last ticket could take it in this cycle: a thief lets it go first. -/
def State.ownerFirst (s : State) (p : Part) (l : Launch) (die src : Nat) : Bool :=
  src != die && (l.ranges.any (fun r => r.die == src && r.left == 1)) && s.mayPlaceIn src &&
    (s.findRect p (l.part * 65 + l.fn) l.cfg src l.cfg.gangpw l.cfg.gangph).isSome

/-- Place the next ticket of a launch on a shape of a die; none when it cannot be placed now. -/
def State.placeTicket (s : State) (id die : Nat) (fallback : Bool) : Option State :=
  match s.launches.find id with
  | none => none
  | some l =>
    match s.part l.part, l.nextTicket die with
    | some p, some (t, src) =>
      let shape := if fallback then l.cfg.fallback else (l.cfg.gangpw, l.cfg.gangph)
      if !l.gate || !p.dies.contains die || !s.mayPlaceIn die || s.ownerFirst p l die src then none
      else
        (s.findRect p (l.part * 65 + l.fn) l.cfg die shape.1 shape.2).bind (fun at_ =>
          (s.placeCluster ⟨id, die, at_.1, at_.2, shape.1, shape.2, fallback, t⟩).map (fun s =>
            let s := s.modLaunch id (fun l =>
              let l := l.take die src
              { l with ranges := l.ranges.map (fun r => if r.die = die then { r with count := 0 } else r) })
            s.modDie die (fun d => { d with placedIn := s.dieCycle die + 1 })))
    | _, _ => none

/-! Stride scheduling (16 R420). -/

/-- All slices of a partition lie on one die (16 R399). -/
def Part.oneDie (p : Part) : Bool := decide (p.dies.length ≤ 1)

/-- TICKETS, CAP and WEIGHT of VFSCHED (16 Table 16.3). -/
def Fn.tickets (f : Fn) : Nat := f.sched.toNat / 2 ^ 14 % 2 ^ 10
/-- CAP. -/
def Fn.cap (f : Fn) : Nat := Nat.min 1000 (f.sched.toNat / 2 ^ 32 % 2 ^ 10)
/-- WEIGHT: 0 acts as 1. -/
def Fn.weight (f : Fn) : Nat := Nat.max 1 (f.sched.toNat / 2 ^ 24 % 2 ^ 8)

/-- What a tenant would place. -/
inductive Item where
  | gang (gk : Nat)
  | ticket (launch : Nat)
  deriving DecidableEq, Repr

/-- The gangs of a tenant in a partition that wait to go on. -/
def State.waitingGangs (s : State) (part fn : Nat) : List Nat :=
  Assoc.keys (s.gangs.filter (fun e => e.2.part == part && e.2.fn == fn && e.2.isHalted))

/-- The head launches of a tenant. -/
def State.headsOf (s : State) (part fn : Nat) : List Nat :=
  (List.range 8).filterMap (fun n => (s.dqHead part n).bind (fun e => if e.2.fn = fn then some e.1 else none))

/-- A waiting gang goes on now; none when it can only be written to its pool, or nothing. -/
def State.goOn (s : State) (gk : Nat) : Option State :=
  (s.resumeGang gk).bind (fun t => if ((t.gangs.find gk).map Gang.isHalted).getD true then none else some t)

/-- The state after a tenant places what comes first: a pending gang, then a ticket of a head launch. -/
def State.strideStep (s : State) (part fn die : Nat) : Option (Item × State) :=
  match (s.waitingGangs part fn).findSome? (fun gk => (s.goOn gk).map (fun t => (Item.gang gk, t))) with
  | some x => some x
  | none => (s.headsOf part fn).findSome? (fun id => (s.placeTicket id die false).map (fun t => (Item.ticket id, t)))

/-- The tenant's stride is added to its pass. -/
def State.addStride (s : State) (part fn : Nat) : State :=
  s.modPart part (fun p => { p with passes := p.passes.set fn ((p.passes.getD fn 0 + 2 ^ 20 / (s.fn fn).tickets) % 2 ^ 64) })

/-- The tenants of a one-die partition whose work fits, with what each would place. -/
def State.fitting (s : State) (part : Nat) (p : Part) : List (Nat × Item × State) :=
  (s.submitters part).filterMap (fun fn =>
    if (s.fn fn).tickets = 0 ∨ (s.fn fn).cap = 0 then none
    else (s.strideStep part fn (p.dies.headD 0)).map (fun x => (fn, x)))

/-- A tenant goes before another: a lower pass, then a lower number. -/
def Part.before (p : Part) (a b : Nat) : Bool :=
  decide (p.passes.getD a 0 < p.passes.getD b 0) || (p.passes.getD a 0 == p.passes.getD b 0 && decide (a ≤ b))

/-- The decision of a one-die partition: the tenant with the lowest pass among those whose work fits, the lowest number
first. -/
def State.decision (s : State) (part : Nat) : Option (Item × State) :=
  match s.part part with
  | none => none
  | some p =>
    if !s.puppeteerFree || !p.oneDie then none
    else
      let best := (s.fitting part p).foldl (fun b x =>
        match b with
        | some y => if p.passes.getD x.1 0 < p.passes.getD y.1 0 then some x else b
        | none => some x) (none : Option (Nat × Item × State))
      best.map (fun x => (x.2.1, x.2.2.addStride part x.1))

/-- SCHEDULING_DECISION. -/
def execSchedulingDecision (part : Nat) (s : State) : Host.Outcome State Fault Refusal :=
  match s.decision part with
  | some (_, t) => .next t
  | none => .next s

/-- Another tenant waits for cores: a gated head launch with tickets, a halted gang, or a request that waits for a block
of the context on a quad (10 R264; 16 R420). -/
def State.othersWait (s : State) (c : Gang) : Bool :=
  (s.submitters c.part).any (fun fn =>
    fn != c.fn && (s.fn fn).tickets != 0 && (s.fn fn).cap != 0 &&
      ((s.headsOf c.part fn).any (fun id => ((s.launches.find id).map (fun l => l.gate)).getD false) ||
        !(s.waitingGangs c.part fn).isEmpty)) ||
  s.entries.any (fun e => e.2.blocked && (s.gangQuads c).contains e.2.quad &&
    ((s.groups.find e.2.gid).map (fun g => g.context != c.context)).getD false)

/-- QUANTUM_END: a cluster whose 500 us are over is halted in place when another tenant waits. -/
def execQuantumEnd (gang : Nat) (s : State) : Host.Outcome State Fault Refusal :=
  match s.gangs.find gang with
  | none => .next s
  | some c =>
    if c.status = .running && decide (c.quantumStart + 500000 ≤ s.reftime) && s.puppeteerFree &&
        ((s.part c.part).map Part.oneDie).getD false && s.othersWait c then .next (s.haltGang gang)
    else .next s

/-! Placement in a partition of several dies (16 R421). -/

/-- The tenant that runs may use the cores: no group of another tenant is running or becoming quiet. -/
def State.coresFree (s : State) (part fn : Nat) : Bool :=
  s.gangs.all (fun e => e.2.part != part || e.2.fn == fn || e.2.status == .finished || (e.2.isHalted && s.gangQuiet e.2))

/-- A tenant may place or resume in a partition of several dies. -/
def State.mayRun (s : State) (part fn : Nat) : Bool :=
  match s.part part with
  | some p => !p.oneDie && s.puppeteerFree && p.running == some fn && s.coresFree part fn
  | none => false

/-- The launch heads a dispatch queue. -/
def State.isHead (s : State) (id : Nat) (l : Launch) : Bool := (s.headsOf l.part l.fn).contains id

/-- A pending gang of the tenant goes before its new tickets. -/
def State.gangFirst (s : State) (l : Launch) : Bool := (s.waitingGangs l.part l.fn).any (fun gk => (s.goOn gk).isSome)

/-- CAROUSEL_PLACE: one ticket on a preferred rectangle. In a one-die partition it is what the decision chooses. -/
def execCarouselPlace (launch die : Nat) (s : State) : Host.Outcome State Fault Refusal :=
  match s.launches.find launch with
  | none => .next s
  | some l =>
    if ((s.part l.part).map Part.oneDie).getD false then
      (match s.decision l.part with
       | some (.ticket id, t) => .next (if id = launch then t else s)
       | _ => .next s)
    else if s.mayRun l.part l.fn && s.isHead launch l && !s.gangFirst l then .next ((s.placeTicket launch die false).getD s)
    else .next s

/-- The conditions under which a carousel counts towards its fallback (14 R377). -/
def State.fallbackWaits (s : State) (id die : Nat) : Bool :=
  match s.launches.find id with
  | none => false
  | some l =>
    let ctx := l.part * 65 + l.fn
    match s.part l.part with
    | none => false
    | some p =>
      s.isHead id l && l.gate && p.dies.contains die && (l.nextTicket die).isSome &&
        l.cfg.fallback != (l.cfg.gangpw, l.cfg.gangph) &&
        (s.findRect p ctx l.cfg die l.cfg.gangpw l.cfg.gangph).isNone &&
        (s.findRect p ctx l.cfg die l.cfg.fallback.1 l.cfg.fallback.2).isSome

/-- The tenant of a launch has the turn for a fallback placement in a one-die partition: no tenant whose work fits goes
before it (16 R420). -/
def State.fallbackTurn (s : State) (l : Launch) : Bool :=
  s.puppeteerFree && (s.fn l.fn).tickets != 0 && (s.fn l.fn).cap != 0 &&
    ((s.part l.part).map (fun p => (s.fitting l.part p).all (fun x => p.before l.fn x.1))).getD false

/-- FALLBACK_PLACEMENT: the count has reached 2,048. -/
def execFallbackPlacement (launch die : Nat) (s : State) : Host.Outcome State Fault Refusal :=
  match s.launches.find launch with
  | none => .next s
  | some l =>
    let one := ((s.part l.part).map Part.oneDie).getD false
    let may := if one then s.fallbackTurn l else s.mayRun l.part l.fn
    if may && l.ranges.any (fun r => r.die == die && decide (2048 ≤ r.count)) && s.fallbackWaits launch die &&
        !s.gangFirst l then
      (match s.placeTicket launch die true with
       | some t => .next (if one then t.addStride l.part l.fn else t)
       | none => .next s)
    else .next s

/-- RESUME_IN_PLACE: a quiet halted gang goes on where it stands or is restored elsewhere. -/
def execResumeInPlace (gang : Nat) (s : State) : Host.Outcome State Fault Refusal :=
  match s.gangs.find gang with
  | none => .next s
  | some c =>
    if ((s.part c.part).map Part.oneDie).getD false then
      (match s.decision c.part with
       | some (.gang gk, t) => .next (if gk = gang then t else s)
       | _ => .next s)
    else if s.mayRun c.part c.fn then .next ((s.resumeGang gang).getD s)
    else .next s

/-! The time-allowance scheduler (16 R421, R427). -/

/-- A number kept within 10,000,000 of 0. -/
def clampAllowance (x : Int) : Int := max (-10000000) (min 10000000 x)

/-- The bookkeeping of a tick: allowances, each kept in its range once, after the gain and the deduction (log 63), boosts,
idle ticks and the history of what ran. -/
def Part.account (p : Part) (workers submitters : List Nat) (weight : Nat → Nat) : Part :=
  let w (t : Nat) : Nat := weight t * (if p.boosts.getD t 0 = 0 then 1 else 2)
  let sum := (workers.map w).sum
  { p with
    allowance := workers.foldl (fun m t =>
      let gain : Int := (1000000 * w t / sum : Nat)
      m.set t (clampAllowance (m.getD t 0 + gain - (if p.running = some t then 1000000 else 0)))) p.allowance
    boosts := (p.boosts.map (fun e => (e.1, e.2 - 1))).filter (fun e => e.2 != 0)
    idle := submitters.foldl (fun m t => if workers.contains t then m.drop t else m.set t (m.getD t 0 + 1)) p.idle
    history := (p.running.getD 65 :: p.history).take 1000 }

/-- A tenant may be chosen: it ran in no more of the last 1,000 ticks than its cap allows. -/
def Part.underCap (p : Part) (t cap : Nat) : Bool := cap != 0 && decide (p.history.count t ≤ cap)

/-- The tenant with the largest allowance, the running one first, then the lowest number. -/
def Part.choose (p : Part) (ts : List Nat) : Option Nat :=
  ts.foldl (fun b t =>
    match b with
    | none => some t
    | some u =>
      let x := p.allowance.getD t 0
      let y := p.allowance.getD u 0
      if y < x ∨ (x = y ∧ p.running = some t) then some t else b) none

/-- A tenant switch: the outgoing tenant's groups are halted, the incoming one's granules are relearned and its moves
start (16 R427). -/
def State.switchTenant (s : State) (part : Nat) (new : Option Nat) : State :=
  let old := (s.part part).bind (fun p => p.running)
  let out := Assoc.keys (s.gangs.filter (fun e => e.2.part == part && some e.2.fn != new && e.2.status == .running))
  let s := out.foldl State.haltGang s
  let s := s.modPart part (fun p => { p with running := new })
  match new with
  | some t => (s.relearnTenant t).switchMoves part t old
  | none => s

/-- The choice of a tick: the tenant with the largest allowance of those with work, a switch when it is another. It waits
for a command (16 R432). -/
def State.tickChoice (s : State) (part : Nat) : State :=
  match s.part part with
  | none => s
  | some p =>
    let workers := s.workers part
    if !s.puppeteerFree then s.modPart part (fun p => { p with switchDue := !s.frozenPup })
    else
      let s := s.modPart part (fun p => { p with switchDue := false })
      let next := p.choose (workers.filter (fun t => p.underCap t (s.fn t).cap))
      if workers.isEmpty || next == p.running then s else s.switchTenant part next

/-- TICK: once for each multiple of 1,000,000 ns, in order, in a partition of several dies; or the choice that a command held
back (16 R421, R432). -/
def execTick (part : Nat) (s : State) : Host.Outcome State Fault Refusal :=
  match s.part part with
  | none => .next s
  | some p =>
    if p.oneDie then .next s
    else if p.switchDue && s.puppeteerFree then .next (s.tickChoice part)
    else if s.reftime / 1000000 ≤ p.ticked then .next s
    else
      .next ((s.modPart part (fun p =>
        { p.account (s.workers part) (s.submitters part) (fun t => (s.fn t).weight) with ticked := p.ticked + 1 })).tickChoice part)

end Sys2Proof.Machine
end

