-- ==== Sys2Proof/Machine/Fabric.lean ====
section
/-! DEFINITION. The fabric: ports and routes, the sending of packets, fabric commands, the performance of packets at
their destination, answers, collectives, and link events (20 R491 to R516). -/

namespace Sys2Proof

open Machine

/-! Fields of packets and commands (20 R493, R505). -/

/-- Flits of a packet. -/
def Packet.flits (p : Packet) : Nat := p.ndata + 1

/-- TYPE of a packet (20 Table 20.1). -/
def PacketType.code : PacketType → Nat
  | .put => 0x01
  | .getRequest => 0x02
  | .send => 0x03
  | .atomic => 0x04
  | .reducePut => 0x05
  | .join => 0x06
  | .leave => 0x07
  | .ack => 0x81
  | .nack => 0x82
  | .getData => 0x83
  | .atomicResult => 0x84

/-- The header flit of a packet (20 Table 20.1). -/
def Packet.header (ty : PacketType) (p : Packet) : List Byte :=
  bytesOfNat 1 ty.code ++ bytesOfNat 1 (p.ndata % 32 + (if p.last then 128 else 0)) ++ bytesOfNat 2 p.dnode ++
    bytesOfNat 1 (p.dvf % 64) ++ bytesOfNat 1 (p.svf % 64) ++ bytesOfNat 2 p.snode ++ bytesOfNat 1 (p.sq % 32) ++
    bytesOfNat 1 p.cause ++ bytesOfNat 2 p.domain ++ bytesOfNat 4 p.seq ++ bytesOfNat 8 p.addr ++ bytesOfNat 4 p.len ++
    bytesOfNat 4 p.cmdtag ++ bytesOfNat 8 p.rbar ++ bytesOfNat 24 p.opx

/-- The 64 bytes of flit `i` of a packet: its header, then its data, the tail of the last flit zero (20 R492). -/
def Packet.flit (ty : PacketType) (p : Packet) (i : Nat) : List Byte :=
  if i = 0 then p.header ty
  else
    let d := (p.data.drop (64 * (i - 1))).take 64
    d ++ List.replicate (64 - d.length) 0

/-- An answer to a packet, with the DOMAIN of the function that gives it (20 R493, R508). -/
def Packet.answer (p : Packet) (domain cause : Nat) (data : List Byte) (bad : List Nat) : Packet :=
  { ndata := (data.length + 63) / 64, last := p.last, dnode := p.snode, dvf := p.svf, svf := p.dvf, snode := p.dnode,
    sq := p.sq, cause := cause, domain := domain, seq := p.seq, addr := 0, len := data.length, cmdtag := p.cmdtag,
    rbar := 0, opx := 0, data := data, bad := bad }

/-- COLLID of a packet. -/
def Packet.coll (p : Packet) : Nat := p.opx / 2 ^ 64 % 2 ^ 32

/-- The fields that PUT, GET and REDUCEPUT judge alike. -/
def FabCmd.badLen (x : FabCmd) (top : Nat) : Bool := decide (x.len.toNat < 16) || decide (top < x.len.toNat) || decide (1 < x.cls.toNat)

/-- A length and an RBAR off their multiples of 16. -/
def FabCmd.offLen (x : FabCmd) : Bool := x.len.toNat % 16 != 0 || x.rbar.toNat % 16 != 0

/-- Addresses and length off their multiples of 16, and RBAR. -/
def FabCmd.off16 (x : FabCmd) : Bool := x.offLen || x.laddr.toNat % 16 != 0 || x.raddr.toNat % 16 != 0

/-- The VC on which a request of a class starts (20 Table 20.4). -/
def FabCmd.vc (x : FabCmd) : Nat := 2 * x.cls.toNat

/-- The OPX field of the packets of a command: bytes 0x28 to 0x3F as the command has them. -/
def FabCmd.opxBits (x : FabCmd) : Nat := x.rbar.toNat + 2 ^ 64 * x.opx.toNat + 2 ^ 128 * x.operand.toNat

/-- COLLID and NMEMB of OPX. -/
def FabCmd.coll (x : FabCmd) : Nat := x.opx.toNat % 2 ^ 32

/-- NMEMB. -/
def FabCmd.nmemb (x : FabCmd) : Nat := x.opx.toNat / 2 ^ 32 % 2 ^ 8

/-- The fields that only the packets with a destination name are zero. -/
def FabCmd.noDest (x : FabCmd) : Bool :=
  x.dnode == 0 && x.dvf == 0 && x.cls == 0 && x.len == 0 && x.raddr == 0 && x.rbar == 0 && x.operand == 0

/-! Slots (20 R498). -/

/-- Take the slots of a packet at the far end, shared slots first; VC7 never takes them. -/
def Credits.take (c : Credits) (vc flits : Nat) : Credits :=
  let n := if vc = 7 then 0 else Nat.min c.shared flits
  { shared := c.shared - n, reserved := c.reserved.mapIdx (fun i x => if i = vc then x - (flits - n) else x) }

/-- Slots that come back. -/
def Credits.plus (a b : Credits) : Credits :=
  { shared := a.shared + b.shared, reserved := Vector.zipWith (fun x y => x + y) a.reserved b.reserved }

end Sys2Proof

namespace Sys2Proof.Machine

open Sys2Proof

/-! Ports and routes (20 R494 to R500). -/

/-- A port by number. -/
def State.port (s : State) (n : Nat) : Port := s.fabric.ports.getD n Port.reset

/-- Change the fabric. -/
def State.modFabric (s : State) (f : Fabric → Fabric) : State := { s with fabric := f s.fabric }

/-- Change a port. -/
def State.modPort (s : State) (n : Nat) (f : Port → Port) : State :=
  s.modFabric (fun x => { x with ports := x.ports.set n (f (x.ports.getD n Port.reset)) })

/-- The node number of a partition. -/
def State.pnode (s : State) (part : Nat) : Nat := s.fabric.pnode.getD part 0

/-- The partition that owns a port (20 R496). -/
def State.portOwner (s : State) (n : Nat) : Option Nat :=
  (s.parts.find? (fun e => e.2.fports.testBit n)).map Prod.fst

/-- The route entry of a destination in a partition. -/
def State.route (s : State) (part dnode : Nat) : Word := s.fabric.routes.getD (4096 * part + dnode) 0

/-- A port that a route of a partition may use. -/
def State.portUsable (s : State) (part n : Nat) : Bool :=
  decide (n < 144) && ((s.part part).map (fun p => p.fports.testBit n)).getD false && (s.port n).up

/-- The normal port of a route. -/
def State.routeOut (s : State) (part dnode : Nat) : Option Nat :=
  let e := s.route part dnode
  if fieldNat e 31 18 = 0 && e.getLsbD 16 && s.portUsable part (fieldNat e 7 0) then some (fieldNat e 7 0) else none

/-- The escape port of a route. -/
def State.routeEsc (s : State) (part dnode : Nat) : Option Nat :=
  let e := s.route part dnode
  if fieldNat e 31 18 = 0 && e.getLsbD 17 && s.portUsable part (fieldNat e 15 8) then some (fieldNat e 15 8) else none

/-- The VC on which a packet leaves through a port (20 R499). -/
def Port.vcOut (p : Port) (vc : Nat) : Nat := if p.dateline && (vc == 0 || vc == 2 || vc == 4) then vc + 1 else vc

/-- The port and the VC of a packet's next hop; none when it has no usable route. -/
def State.nextHop (s : State) (part dnode vc : Nat) : Option (Nat × Nat) :=
  if vc = 7 then (s.routeEsc part dnode).map (fun n => (n, 7))
  else
    match s.routeOut part dnode with
    | some n => some (n, (s.port n).vcOut vc)
    | none => (s.routeEsc part dnode).map (fun n => (n, 7))

/-- The fabric cycle: 1.75 GHz (20 R491). -/
def State.fabricCycle (s : State) : Nat := s.units * 7 / (4 * Config.unitsPerNs)

/-- Shared slots of an input: POOLSZ outside 4 to 96 acts as 96 (20 R502). -/
def Port.pool (p : Port) : Nat := if 4 ≤ p.poolsz ∧ p.poolsz ≤ 96 then p.poolsz else 96

/-- Free shared slots of an input in a fabric cycle: a slot is free from the cycle after its flit leaves (20 R498, R502). -/
def Port.sharedFree (p : Port) (now : Nat) : Nat :=
  p.pool - (p.inq.flatMap (fun x => x.slots)).count true - p.left.countP (fun e => e.1 == now && e.2.2)

/-- Free reserved slots of a VC of an input. -/
def Port.reservedFree (p : Port) (now vc : Nat) : Nat :=
  2 - ((p.inq.filter (fun x => x.vc == vc)).flatMap (fun x => x.slots)).count false -
    p.left.countP (fun e => e.1 == now && e.2.1 == vc && !e.2.2)

/-- The FSLOT register. -/
def Port.fslot (p : Port) (now : Nat) : Nat :=
  (List.range 8).foldl (fun n v => n + p.reservedFree now v * 2 ^ (2 * v + 8)) (p.sharedFree now)

/-- The place where a partition injects its packets: it stands beside the ports, and has no slots. -/
def injectPort (part : Nat) : Nat := 144 + part

/-- The partition that the packets of an input belong to (20 R496). -/
def State.inputOwner (s : State) (n : Nat) : Option Nat := if n < 144 then s.portOwner n else some (n - 144)

/-- A packet that is to be sent. -/
def InPacket.injected (vc : Nat) (ty : PacketType) (p : Packet) (now : Nat) : InPacket :=
  ⟨vc, ty, p, now, p.flits, 0, [], none, false, false, none, 0⟩

/-- Send a packet from a partition: to itself, or to where it is injected on a VC. -/
def State.sendPkt (s : State) (part vc : Nat) (ty : PacketType) (p : Packet) : State :=
  if p.dnode = s.pnode part then s.modFabric (fun x => { x with localBox := x.localBox ++ [(part, ty, p)] })
  else s.modPort (injectPort part) (fun x => { x with inq := x.inq ++ [.injected vc ty p s.fabricCycle] })

/-- Send an answer on VC4. -/
def State.reply (s : State) (part : Nat) (ty : PacketType) (p : Packet) : State := s.sendPkt part 4 ty p

/-- The DOMAIN of a function. -/
def State.domain (s : State) (fn : Nat) : Nat := fieldNat (s.fn fn).fabcfg 15 0

/-- A request, by its type. -/
def isRequest : PacketType → Bool
  | .put | .getRequest | .send | .atomic | .reducePut | .join | .leave => true
  | _ => false

/-! Commands at their source (20 R505 to R510). -/

/-- Change a command. -/
def State.modCmd (s : State) (id : Nat) (f : FabPending → FabPending) : State :=
  s.modFabric (fun x => { x with cmds := x.cmds.modify id f })

/-- A command fails with its first cause. -/
def FabPending.failed (f : FabPending) (cause : Nat) : FabPending := { f with cause := if f.cause = 0 then cause else f.cause }

/-- A packet of a command is answered. -/
def State.answered (s : State) (id node vf seq cause : Nat) : State :=
  s.modCmd id (fun f =>
    let f := { f with unanswered := f.unanswered.filter (fun u => !(u.dnode == node && u.dvf == vf && u.seq == seq)) }
    if cause = 0 then f else f.failed cause)

/-- A packet is given up, or has no usable route: a command of this package fails, and for a packet that came from
elsewhere a NACK goes to its SNODE (20 R504); a packet that this package has injected for another gives none (log 135). -/
def State.giveUp (s : State) (part cause : Nat) (injected : Bool) (ty : PacketType) (p : Packet) : State :=
  if p.snode = s.pnode part then
    (match s.fabric.cmds.find p.cmdtag with
     | some f => if isRequest ty && f.part == part && f.fn == p.svf then s.answered p.cmdtag p.dnode p.dvf p.seq cause else s
     | none => s)
  else if injected then s
  else s.reply part .nack (p.answer p.domain cause [] [])

/-- Unanswered packets of a stream. -/
def State.streamOpen (s : State) (q fn dnode dvf : Nat) : Nat :=
  (s.fabric.cmds.map (fun e =>
    if e.2.q = q ∧ e.2.fn = fn then e.2.unanswered.countP (fun u => u.dnode == dnode && u.dvf == dvf) else 0)).sum

/-- A packet of a stream is unanswered. -/
def State.isOpen (s : State) (q fn dnode dvf seq : Nat) : Bool :=
  s.fabric.cmds.any (fun e =>
    e.2.q == q && e.2.fn == fn && e.2.unanswered.any (fun u => u.dnode == dnode && u.dvf == dvf && u.seq == seq))

/-- A stream at its source. -/
def State.txOf (s : State) (q fn dnode dvf : Nat) : TxStream :=
  (s.fabric.tx.find? (fun t => t.q == q && t.fn == fn && t.dnode == dnode && t.dvf == dvf)).getD ⟨q, fn, dnode, dvf, 0, none⟩

/-- The next SEQ of a stream. -/
def State.nextSeq (s : State) (q fn dnode dvf : Nat) : Nat := (s.txOf q fn dnode dvf).seq

/-- The oldest unanswered packet of a stream: of the last 2^32 numbers the first. -/
def State.oldestOpen (s : State) (q fn dnode dvf : Nat) : Option Nat :=
  let next := s.nextSeq q fn dnode dvf
  let age (x : Nat) : Nat := (next + 2 ^ 32 - x) % 2 ^ 32
  let open_ := s.fabric.cmds.flatMap (fun e =>
    if e.2.q = q ∧ e.2.fn = fn then (e.2.unanswered.filter (fun u => u.dnode == dnode && u.dvf == dvf)).map (fun u => u.seq) else [])
  open_.foldl (fun b x => match b with
    | none => some x
    | some y => if age y < age x then some x else some y) none

/-- The next packet of a stream waits: 64 were unanswered, and the oldest of them is still (20 R507). -/
def State.streamHeld (s : State) (q fn dnode dvf : Nat) : Bool :=
  ((s.txOf q fn dnode dvf).hold.map (fun x => s.isOpen q fn dnode dvf x)).getD false

/-- A stream's SEQ advances, and the packets that are unanswered are counted. -/
def State.setSeq (s : State) (q fn dnode dvf seq : Nat) : State :=
  let old := s.txOf q fn dnode dvf
  let hold := if 64 ≤ s.streamOpen q fn dnode dvf then s.oldestOpen q fn dnode dvf else old.hold
  s.modFabric (fun x =>
    { x with tx := x.tx.filter (fun t => !(t.q == q && t.fn == fn && t.dnode == dnode && t.dvf == dvf)) ++
        [⟨q, fn, dnode, dvf, seq, hold⟩] })

/-- SQ of a queue: its number and its die. -/
def sqField (q : Nat) : Nat := q % 32 - 16 + 8 * (q / 32)

/-- What a command puts into one packet. -/
structure Cargo where
  ty : PacketType
  vc : Nat
  dnode : Nat
  dvf : Nat
  off : Nat
  len : Nat
  addr : Nat
  rbar : Nat
  opx : Nat
  data : List Byte
  bad : List Nat
  last : Bool
  deriving DecidableEq, Repr

/-- Send one packet of a command: it is numbered and stands unanswered. -/
def State.emit (s : State) (id : Nat) (f : FabPending) (x : Cargo) : State :=
  let seq := s.nextSeq f.q f.fn x.dnode x.dvf
  let p : Packet :=
    { ndata := (x.data.length + 63) / 64, last := x.last, dnode := x.dnode, dvf := x.dvf, svf := f.fn,
      snode := s.pnode f.part, sq := sqField f.q, cause := 0, domain := s.domain f.fn, seq := seq,
      addr := x.addr, len := x.len, cmdtag := id, rbar := x.rbar, opx := x.opx, data := x.data, bad := x.bad }
  let s := s.modCmd id (fun f =>
    { f with sent := f.sent + 1, unanswered := f.unanswered ++ [⟨x.dnode, x.dvf, seq, x.off, 0⟩] })
  (s.setSeq f.q f.fn x.dnode x.dvf ((seq + 1) % 2 ^ 32)).sendPkt f.part x.vc x.ty p

/-- The pieces of 16 bytes that are poisoned. -/
def badPieces (bad : List Bool) : List Nat :=
  (List.range ((bad.length + 15) / 16)).filter (fun i => ((bad.drop (16 * i)).take 16).any (fun b => b))

/-- A membership of a function includes a lost endpoint (20 R513). -/
def State.lostPeer (s : State) (fn node vf : Nat) : Bool :=
  s.fabric.members.any (fun m => m.fn == fn && m.lost.contains (node, vf))

/-- The last packet of the command at the head of a queue has been sent: the next command may start. -/
def State.sentAll (s : State) (q id : Nat) : State := (s.modCmd id (fun f => { f with total := f.sent })).popCommand q

/-- A command stops sending with a cause. -/
def State.stopSending (s : State) (q id cause : Nat) : State := (s.modCmd id (fun f => f.failed cause)).sentAll q id

/-- The judged fields of a fabric command: BADCMD, MISALIGNED, or the command starts with some packets. -/
structure FabShape where
  kind : PacketType
  count : Nat
  bad : Bool
  misaligned : Bool
  coll : Nat
  total : Nat
  deriving DecidableEq, Repr

/-- The function may issue fabric commands (20 R494, R505). -/
def State.mayFabric (s : State) (fn : Nat) : Bool := fn != pfId && (s.fn fn).fabcfg.getLsbD 16

/-- A command starts: judged, then pending with its packets still to send. -/
def State.startFab (s : State) (q : Nat) (c : QCmd) (p : Progress) (x : FabCmd) (h : FabShape) (dests : List (Nat × Nat))
    (more : State → Nat → State) : CmdOut :=
  judgeFields s h.count x.bar.toNat (h.bad || !s.mayFabric c.fn) h.misaligned
    (let id := s.nextId
     let f : FabPending :=
       { q := q, fn := c.fn, part := s.cmdPart c, launch := c.launch, kind := h.kind, bar := x.bar.toNat, count := h.count,
         laddr := x.laddr.toNat, coll := h.coll, dests := dests, total := h.total, sent := 0, unanswered := [], cause := 0 }
     let s := { s with nextId := id + 1 }.modFabric (fun y => { y with cmds := y.cmds.set id f })
     .more (more (s.setProgress q { p with stage := 1, x := id, pos := 0 }) id))

/-- Send the next packet of a command: `cargo` reads what it carries. -/
def State.pumpFab (s : State) (q : Nat) (c : QCmd) (p : Progress) (dest : Nat × Nat)
    (cargo : State → Nat → List Byte → List Bool → Cargo) (read : Nat → Nat × Nat) : CmdOut :=
  match s.fabric.cmds.find p.x with
  | none => .more (s.popCommand q)
  | some f =>
    if f.total ≤ f.sent then .more (s.sentAll q p.x)
    else if s.lostPeer f.fn dest.1 dest.2 then .more (s.stopSending q p.x 0x0E)
    else if s.streamHeld q f.fn dest.1 dest.2 then .wait s
    else
      let (a, n) := read f.sent
      match s.readBytes q c a n with
      | .wait s => .wait s
      | .fail e => .more ((s.queueSeen q c).stopSending q p.x e)
      | .got bs bad s =>
        let s := s.emit p.x f (cargo s f.sent bs bad)
        .more (if f.sent + 1 = f.total then s.sentAll q p.x else s)

/-- The packets of LEN bytes. -/
def packetsOf (len : Nat) : Nat := (len + 1023) / 1024

/-- The bytes of packet `k`. -/
def packetLen (len k : Nat) : Nat := Nat.min 1024 (len - 1024 * k)

/-- Run a command that carries LEN bytes from LADDR. -/
def State.runData (s : State) (q : Nat) (x : FabCmd) (h : FabShape) (opx : Nat) : State :=
  let dest := (x.dnode.toNat, x.dvf.toNat)
  let len := x.len.toNat
  s.runCommand q (fun s c p =>
    if p.stage = 0 then s.startFab q c p x h [dest] (fun s _ => s)
    else
      s.pumpFab q c p dest (fun _ k bs bad =>
        { ty := h.kind, vc := x.vc, dnode := dest.1, dvf := dest.2, off := 1024 * k, len := packetLen len k,
          addr := if h.kind = .send then 0 else (x.raddr.toNat + 1024 * k) % 2 ^ 64,
          rbar := if k + 1 = h.total then x.rbar.toNat else 0, opx := opx, data := bs, bad := badPieces bad,
          last := k + 1 == h.total })
        (fun k => (x.laddr.toNat + 1024 * k, packetLen len k)))

/-- Run a command that carries no data: `k` packets of requests. -/
def State.runAsk (s : State) (q : Nat) (x : FabCmd) (h : FabShape) (len : Nat → Nat) (opx : Nat) : State :=
  let dest := (x.dnode.toNat, x.dvf.toNat)
  s.runCommand q (fun s c p =>
    if p.stage = 0 then s.startFab q c p x h [dest] (fun s _ => s)
    else
      s.pumpFab q c p dest (fun _ k _ _ =>
        { ty := h.kind, vc := x.vc, dnode := dest.1, dvf := dest.2, off := 1024 * k, len := len k,
          addr := (x.raddr.toNat + 1024 * k) % 2 ^ 64, rbar := 0, opx := opx, data := [], bad := [],
          last := k + 1 == h.total })
        (fun _ => (0, 0)))

/-- PUT. -/
def execPut (q : Nat) (c : FabCmd) (s : State) : Host.Outcome State Fault Refusal :=
  .next (s.runData q c ⟨.put, c.len.toNat, c.badLen (2 ^ 24) || c.opx != 0 || c.operand != 0, c.off16, 0,
    packetsOf c.len.toNat⟩ 0)

/-- GET. -/
def execGet (q : Nat) (c : FabCmd) (s : State) : Host.Outcome State Fault Refusal :=
  .next (s.runAsk q c ⟨.getRequest, c.len.toNat, c.badLen (2 ^ 24) || c.rbar != 0 || c.opx != 0 || c.operand != 0, c.off16, 0,
    packetsOf c.len.toNat⟩ (packetLen c.len.toNat) 0)

/-- SEND. -/
def execSend (q : Nat) (c : FabCmd) (s : State) : Host.Outcome State Fault Refusal :=
  .next (s.runData q c ⟨.send, c.len.toNat, c.badLen 1024 || c.raddr != 0 || c.opx != 0 || c.operand != 0, c.offLen, 0, 1⟩ 0)

/-- Bytes that an ATOMIC acts on. -/
def atomicWidth (opx : Nat) : Nat := if opx.testBit 3 then 8 else 4

/-- ATOMIC: the slot of RBAR holds COMPARE. -/
def execAtomic (q : Nat) (c : FabCmd) (s : State) : Host.Outcome State Fault Refusal :=
  let w := atomicWidth c.opx.toNat
  .next (s.runAsk q c ⟨.atomic, 8, c.len != 0 || decide (32 ≤ c.opx.toNat) || decide (1 < c.cls.toNat),
    c.raddr.toNat % w != 0 || c.laddr.toNat % w != 0, 0, 1⟩ (fun _ => w) c.opxBits)

/-- REDUCEPUT. -/
def execReduceput (q : Nat) (c : FabCmd) (s : State) : Host.Outcome State Fault Refusal :=
  .next (s.runData q c ⟨.reducePut, c.len.toNat,
    c.badLen (2 ^ 24) || !(c.opx == 0 || c.opx == 2 || c.opx == 0xA) || c.operand != 0, c.off16, 0,
    packetsOf c.len.toNat⟩ (2 ^ 64 * c.opx.toNat))

/-! Collectives at their source (20 R512, R513). -/

/-- A function's membership of a collective. -/
def State.membership (s : State) (fn coll : Nat) : Option Membership :=
  s.fabric.members.find? (fun m => m.fn == fn && m.coll == coll)

/-- Change a membership. -/
def State.modMember (s : State) (fn coll : Nat) (f : Membership → Membership) : State :=
  s.modFabric (fun x => { x with members := x.members.map (fun m => if m.fn = fn ∧ m.coll = coll then f m else m) })

/-- A membership ends. -/
def State.dropMember (s : State) (fn coll : Nat) : State :=
  s.modFabric (fun x => { x with members := x.members.filter (fun m => !(m.fn == fn && m.coll == coll)) })

/-- The members that a table lists: NODE and VF. -/
def membersOf (b : List Byte) (n : Nat) : List (Nat × Nat) :=
  (List.range n).map (fun i => (natAt b (4 * i) 4 % 4096, natAt b (4 * i) 4 / 2 ^ 16 % 64))

/-- Send the next packet of a collective's command, one to each destination. -/
def State.pumpColl (s : State) (q : Nat) (p : Progress) : CmdOut :=
  match s.fabric.cmds.find p.x with
  | none => .more (s.popCommand q)
  | some f =>
    match f.dests[f.sent]? with
    | none => .more (s.sentAll q p.x)
    | some d =>
      if f.cause ≠ 0 then .more (s.sentAll q p.x)
      else if s.streamHeld q f.fn d.1 d.2 then .wait s
      else
        let s := s.emit p.x f
          { ty := f.kind, vc := 6, dnode := d.1, dvf := d.2, off := 0, len := 0, addr := 0, rbar := 0,
            opx := 2 ^ 64 * f.coll, data := [], bad := [], last := true }
        .more (if f.sent + 1 = f.dests.length then s.sentAll q p.x else s)

/-- COLLJOIN: stage 0 judges the command and its table, stage 1 sends the JOINs. -/
def execColljoin (q : Nat) (c : FabCmd) (s : State) : Host.Outcome State Fault Refusal :=
  .next (s.runCommand q (fun s k p =>
    if p.stage = 1 then s.pumpColl q p
    else
      let n := c.nmemb
      let fn := k.fn
      let b := c.bar.toNat
      let bad := !c.noDest || decide (2 ^ 40 ≤ c.opx.toNat) || decide (n < 2) || decide (64 < n) || !s.mayFabric fn ||
        (s.membership fn c.coll).isSome
      judgeFields s 1 b bad (c.laddr.toNat % 4 != 0)
        (if 16 ≤ s.fabric.members.countP (fun m => m.fn == fn) then .fail s 0x06 1 b
         else
           match s.readBytes q k c.laddr.toNat (4 * n) with
           | .wait s => .wait s
           | .fail e => .fail s e 1 b
           | .got bs _ s =>
             let ms := membersOf bs n
             let me := (s.pnode (s.cmdPart k), fn)
             if !ms.contains me || !ms.Nodup then .fail s 0x0F 1 b
             else
               let others := ms.filter (fun m => m != me)
               let early := s.fabric.keptJoins.filter (fun j => j.1 == fn && j.2.1 == c.coll && others.contains j.2.2)
               s.startFab q k p c ⟨.join, 1, false, false, c.coll, others.length⟩ others (fun s id =>
                 s.modFabric (fun x =>
                   { x with members := x.members ++ [⟨fn, c.coll, ms, early.map (fun j => j.2.2), false, id, [], []⟩],
                            keptJoins := x.keptJoins.filter (fun j => !early.contains j) })))))

/-- COLLLEAVE: it waits for the earlier commands of its queue, then sends LEAVE to every other member that is not lost. -/
def execCollleave (q : Nat) (c : FabCmd) (s : State) : Host.Outcome State Fault Refusal :=
  .next (s.runCommand q (fun s k p =>
    if p.stage = 1 then s.pumpColl q p
    else
      let fn := k.fn
      let b := c.bar.toNat
      let bad := !c.noDest || c.laddr != 0 || decide (2 ^ 32 ≤ c.opx.toNat) || !s.mayFabric fn
      judgeFields s 1 b bad false
        (if s.fabric.cmds.any (fun e => e.2.q == q) then .wait s
         else match s.membership fn c.coll with
         | none => .fail s 0x0F 1 b
         | some m =>
           if !m.joined then .fail s 0x0F 1 b
           else
             let me := (s.pnode (s.cmdPart k), fn)
             let others := m.members.filter (fun x => x != me && !m.lost.contains x)
             s.startFab q k p c ⟨.leave, 1, false, false, c.coll, others.length⟩ others (fun s _ => s))))

/-- A command has been sent whole and every packet of it answered; a COLLJOIN has heard every other member. -/
def State.fabDone (s : State) (f : FabPending) : Bool :=
  decide (f.total ≤ f.sent) && f.unanswered.isEmpty &&
    (f.kind != .join || f.cause != 0 ||
      ((s.membership f.fn f.coll).map (fun m => f.dests.all (fun d => m.heard.contains d))).getD true)

/-- A command leaves the fabric; a membership begins or ends with it. -/
def State.endFab (s : State) (id : Nat) (f : FabPending) : State :=
  let s := s.modFabric (fun x => { x with cmds := x.cmds.drop id })
  match f.kind with
  | .join => if f.cause = 0 then s.modMember f.fn f.coll (fun m => { m with joined := true }) else s.dropMember f.fn f.coll
  | .leave => s.dropMember f.fn f.coll
  | _ => s

/-- The record of a failed fabric command (20 R510; 17 R442). -/
def State.logFab (s : State) (f : FabPending) (cause : Nat) : State :=
  if cause = 0 then s
  else
    s.postLog f.fn f.part (BitVec.ofNat 32 (Cause.cmdfail.code + 2 ^ 8 * AccessKind.engine.code)) 0
      (bytesOfNat 1 (f.q % 32) ++ bytesOfNat 1 (queueDie f.q) ++ bytesOfNat 1 cause ++ bytesOfNat 5 0 ++ bytesOfNat 8 f.bar)

/-- FABRIC_COMMAND_COMPLETE: the local object is decremented in full; a failed command is logged. -/
def execFabricCommandComplete (cmd : Nat) (s : State) : Host.Outcome State Fault Refusal :=
  match s.fabric.cmds.find cmd with
  | none => .next s
  | some f =>
    if !s.fabDone f then .next s
    else if f.bar = 0 then .next (((s.endFab cmd f).logFab f f.cause).wake)
    else
      match s.translateNow f.fn f.part .both f.bar with
      | .ok key =>
        if s.homeWaits key then .next (s.waitHome (queueDie f.q) key)
        else .next ((((s.endFab cmd f).decrement key f.cause f.count (queueDie f.q)).logFab f f.cause).wake)
      | .fault .transit | .busy => .next s
      | .ats page limit => .next (s.requestAts f.fn page limit .own)
      | .fault e =>
        let s := (s.noteWalk f.fn f.bar).seenFaults f.fn .own
        .next (((s.endFab cmd f).logFab f (if f.cause = 0 then failCode e else f.cause)).wake)
      | .walk _ => .next s

/-! Arrival (20 R494, R508). -/

/-- Two packets belong to one stream, or answer one. -/
def sameStream (a b : Packet) : Bool :=
  a.snode == b.snode && a.svf == b.svf && a.sq == b.sq && a.dnode == b.dnode && a.dvf == b.dvf

/-- A packet that waits in an input buffer. -/
def InPacket.is (x : InPacket) (vc : Nat) (ty : PacketType) (p : Packet) : Bool := x.vc == vc && x.ty == ty && x.pkt == p

/-- The packet at the head of a VC of an input. -/
def Port.head (p : Port) (vc : Nat) : Option InPacket := p.inq.find? (fun y => y.vc == vc)

/-- The packet heads its VC of an input. -/
def Port.heads (p : Port) (x : InPacket) : Bool := p.head x.vc == some x

/-- A packet has come whole to the head of its VC of an input; what VC7 brings to its destination leaves its slots as it comes,
so it waits behind no other. -/
def Port.whole (p : Port) (ty : PacketType) (k : Packet) : Option InPacket :=
  p.inq.find? (fun x =>
    x.ty == ty && x.pkt == k && x.arrived == k.flits && !x.dropped && x.route.isNone && (x.vc == 7 || p.heads x))

/-- A packet leaves an input: its slots are free from the next fabric cycle (20 R498). -/
def Port.release (p : Port) (x : InPacket) (now : Nat) : Port :=
  { p with inq := p.inq.erase x, left := p.left ++ x.slots.map (fun b => (now, x.vc, b)) }

/-- The partition at which a packet is delivered: the owner of the port where it stands whole, or the partition that sent
it to itself, its stream's oldest packet there; none when it is not there or not local. -/
def State.localPart (s : State) (port : Nat) (ty : PacketType) (p : Packet) : Option Nat :=
  if port = 144 then
    (match s.fabric.localBox.find? (fun e => isRequest e.2.1 == isRequest ty && sameStream e.2.2 p) with
     | some e => if e.2 = (ty, p) then some e.1 else none
     | none => none)
  else if ((s.port port).whole ty p).isSome then
    (s.portOwner port).bind (fun o => if s.pnode o = p.dnode then some o else none)
  else none

/-- The packet leaves where it stood. -/
def State.unbox (s : State) (port : Nat) (ty : PacketType) (p : Packet) : State :=
  if port = 144 then s.modFabric (fun x =>
    { x with localBox := match x.localBox.findIdx? (fun e => e.2 == (ty, p)) with
        | some i => x.localBox.eraseIdx i
        | none => x.localBox })
  else s.modPort port (fun x => (((x.whole ty p).map (fun y => x.release y s.fabricCycle)).getD x))

/-- A stream at its destination. -/
def RxStream.isOf (r : RxStream) (p : Packet) : Bool :=
  r.snode == p.snode && r.svf == p.svf && r.sq == p.sq && r.dnode == p.dnode && r.dvf == p.dvf

/-- The stream after a packet: a refused one refuses the rest of its command with its cause (20 R508). -/
def RxStream.after (r : RxStream) (p : Packet) (refused : Option Nat) : RxStream :=
  let same := r.tag == some p.cmdtag
  { r with next := (p.seq + 1) % 2 ^ 32, tag := if p.last then none else some p.cmdtag,
           tally := if p.last then 0 else (if same then r.tally else 0) + p.len,
           refused := if p.last then none else refused.map (fun c => (p.cmdtag, c)),
           moved := 0, got := [], gotBad := [], slot := none }

/-- The stream passes the packets that never will arrive, as refused ones (log 96). -/
def RxStream.passGone (gone : List (Packet × Nat)) : Nat → RxStream → RxStream
  | 0, r => r
  | n + 1, r =>
    match gone.find? (fun g => r.isOf g.1 && g.1.seq == r.next) with
    | some g => (r.after g.1 (some g.2)).passGone gone n
    | none => r

/-- The state of a packet's stream. -/
def State.rxOf (s : State) (p : Packet) : RxStream :=
  ((s.fabric.rx.find? (fun r => r.isOf p)).getD
    ⟨p.snode, p.svf, p.sq, p.dnode, p.dvf, 0, none, 0, none, 0, [], [], none⟩).passGone s.fabric.gone s.fabric.gone.length

/-- A packet is performed in SEQ order (20 R514). -/
def RxStream.inOrder (r : RxStream) (p : Packet) : Bool := p.seq == r.next

/-- The cause with which the command of a packet was refused. -/
def RxStream.refuses (r : RxStream) (p : Packet) : Option Nat :=
  match r.refused with
  | some (tag, c) => if tag = p.cmdtag then some c else none
  | none => none

/-- A number that a stream has passed. -/
def RxStream.passed (r : RxStream) (seq : Nat) : Bool :=
  let d := (r.next + 2 ^ 32 - seq) % 2 ^ 32
  decide (0 < d) && decide (d ≤ 2 ^ 31)

/-- Set a stream's state. -/
def State.setRx (s : State) (r : RxStream) (p : Packet) : State :=
  s.modFabric (fun x => { x with rx := x.rx.filter (fun t => !t.isOf p) ++ [r],
                                 gone := x.gone.filter (fun g => !(r.isOf g.1 && r.passed g.1.seq)) })

/-- A packet of a stream never will arrive. -/
def State.packetGone (s : State) (p : Packet) (cause : Nat) : State :=
  s.modFabric (fun x => { x with gone := x.gone ++ [(p, cause)] })

/-- A stream numbers its packets from 0 again: its queue was given to a partition (20 R507). -/
def State.streamRestarts (s : State) (p : Packet) : State :=
  s.modFabric (fun x => { x with rx := x.rx.filter (fun t => !t.isOf p), gone := x.gone.filter (fun g => !sameStream g.1 p) })

/-- What one step of performing a packet gives: `more` is one access, with what it read, `slot` the one that
takes a slot of a ring, `refuse` a failure, with the address whose translation failed. -/
inductive Deliver where
  | wait (s : State)
  | more (s : State) (got : List Byte) (bad : List Nat)
  | slot (s : State) (tail : Nat)
  | refuse (cause : Nat) (va : Option Nat)
  | done (s : State) (ty : PacketType) (data : List Byte) (bad : List Nat)
  deriving DecidableEq, Repr

/-- The first check of 20 R508. -/
def State.admits (s : State) (part : Nat) (p : Packet) : Bool :=
  (s.fn p.dvf).bound == some part && (s.fn p.dvf).fabcfg.getLsbD 16 && s.domain p.dvf == p.domain

/-- A walk in place for a function that meets a poisoned entry is signalled (17 R455). -/
def State.noteFailed (s : State) (fn : Nat) (va : Option Nat) : State :=
  ((va.map (fun a => s.noteWalk fn (a % 2 ^ 64))).getD s).seenFaults fn .own

/-- Deliver a request: checks, performance, answer. A packet makes one access of at most 16 bytes at a time (13 R323); one
that waits stays where it is. -/
def State.deliver (s : State) (port : Nat) (ty : PacketType) (p : Packet) (perform : State → Nat → RxStream → Deliver) : State :=
  match s.localPart port ty p with
  | none => s
  | some part =>
    let r := s.rxOf p
    if !r.inOrder p then s
    else
      let d : Deliver := match r.refuses p with
        | some c => .refuse c none
        | none => if r.moved == 0 && !s.admits part p then .refuse 0x0C none else perform s part r
      match d with
      | .wait s => s
      | .more s got bad =>
        (s.setRx { r with moved := r.moved + 1, got := r.got ++ got, gotBad := r.gotBad ++ bad } p).wake
      | .slot s tail => (s.setRx { r with moved := 1, slot := some tail } p).wake
      | .refuse c va =>
        ((((s.noteFailed p.dvf va).unbox port ty p).setRx (r.after p (some c)) p).reply part .nack
          (p.answer (s.domain p.dvf) c [] [])).wake
      | .done s a data bad =>
        (((s.unbox port ty p).setRx (r.after p none) p).reply part a (p.answer (s.domain p.dvf) 0 data bad)).wake

/-- Places of a list of addresses of a function. -/
inductive Places where
  | at_ (keys : List Nat)
  | wait (s : State)
  | refuse (cause va : Nat)
  deriving DecidableEq, Repr

/-- Translate addresses in a partition, in order. -/
def State.places (s : State) (fn part : Nat) (need : Need) : List Nat → Places
  | [] => .at_ []
  | a :: as =>
    match s.translateNow fn part need (a % 2 ^ 64) with
    | .ok key =>
      (match s.places fn part need as with
       | .at_ ks => .at_ (key :: ks)
       | x => x)
    | .fault .transit | .busy | .walk _ => .wait s
    | .ats page limit => .wait (s.requestAts fn page limit .own)
    | .fault .permission => .refuse 0x0C a
    | .fault _ => .refuse 0x0B a

/-- The addresses of the accesses of `n` bytes, `w` bytes each. -/
def accessesOf (a n w : Nat) : List Nat := (List.range ((n + w - 1) / w)).map (fun i => a + w * i)

/-- Write piece `i` of data, 16 bytes or what is left, at its place; a poisoned piece as poison. -/
def State.storePiece (s : State) (die : Nat) (bs : List Byte) (bad : List Nat) (i key : Nat) : State :=
  let piece := (bs.drop (16 * i)).take 16
  let s := (s.classify key die none true).writeBytes key piece
  if bad.contains i then s.writePoison key piece.length else s

/-- The next piece of data that a packet stores; none when all are stored. -/
def State.nextPiece (s : State) (from_ : Nat) (die : Nat → Nat) (bs : List Byte) (bad : List Nat) (ks : List Nat) (i : Nat) : Option Deliver :=
  (ks[i]?).map (fun key => if s.homeWaits key then .wait (s.waitHome from_ key) else .more (s.storePiece (die key) bs bad i key) [] [])

/-- The RBAR decrement of a command's last packet (20 R508). -/
def State.rbarKey (s : State) (p : Packet) (part : Nat) : Places :=
  if p.last && p.rbar != 0 then s.places p.dvf part .both [p.rbar] else .at_ []

/-- The decrement, when the packet makes one. -/
def State.rbarMade (s : State) (ks : List Nat) (p : Packet) (r : RxStream) : State :=
  match ks with
  | key :: _ => s.decrement key 0 ((if r.tag = some p.cmdtag then r.tally else 0) + p.len : Nat) (homeDie key)
  | [] => s

/-- The last step of a packet: its decrement, then its ACK. -/
def State.lastAccess (s : State) (from_ : Nat) (ks : List Nat) (p : Packet) (r : RxStream) : Deliver :=
  if ks.any (fun k => s.homeWaits k) then .wait (ks.foldl (fun s k => s.waitHome from_ k) s) else .done (s.rbarMade ks p r) .ack [] []

/-- PUT_DATA. -/
def execPutData (port : Nat) (p : Packet) (s : State) : Host.Outcome State Fault Refusal :=
  .next (s.deliver port .put p (fun s part r =>
    match s.places p.dvf part .write (accessesOf p.addr p.len 16), s.rbarKey p part with
    | .at_ ks, .at_ rb => (s.nextPiece (port / 36) homeDie p.data p.bad ks r.moved).getD (s.lastAccess (port / 36) rb p r)
    | .wait s, _ => .wait s
    | .refuse c a, _ => .refuse c (some a)
    | _, .wait s => .wait s
    | _, .refuse c a => .refuse c (some a)))

/-- GET_REQUEST. -/
def execGetRequest (port : Nat) (p : Packet) (s : State) : Host.Outcome State Fault Refusal :=
  .next (s.deliver port .getRequest p (fun s part r =>
    match s.places p.dvf part .read (accessesOf p.addr p.len 16) with
    | .at_ ks =>
      (match ks[r.moved]? with
       | some key =>
         if s.homeWaits key then .wait (s.waitHome (port / 36) key)
         else .more (s.classify key (homeDie key) none false) (s.bytesAt key 16) (if s.poisonIn key 16 then [r.moved] else [])
       | none => .done s .getData r.got r.gotBad)
    | .wait s => .wait s
    | .refuse c a => .refuse c (some a)))

/-- The ring of a function has no slot to give (20 R511). -/
def ringRefuses (size tail head : Nat) : Bool := !ringEnabled size || decide (size ≤ (tail + 2 ^ 64 - head) % 2 ^ 64)

/-- Another SEND fills a slot of the ring of an endpoint. -/
def State.ringBusy (s : State) (p : Packet) : Bool :=
  s.fabric.rx.any (fun t => t.dnode == p.dnode && t.dvf == p.dvf && t.slot.isSome && !t.isOf p)

/-- The bytes of a slot (20 R511). -/
def slotBytes (p : Packet) : List Byte :=
  bytesOfNat 2 p.snode ++ bytesOfNat 1 p.svf ++ bytesOfNat 1 p.sq ++ bytesOfNat 4 p.len ++ List.replicate 56 0 ++ p.data

/-- SEND_PACKET: the ring's header is read, the slot is filled, then TAIL is stored. -/
def execSendPacket (port : Nat) (p : Packet) (s : State) : Host.Outcome State Fault Refusal :=
  .next (s.deliver port .send p (fun s part r =>
    let f := s.fn p.dvf
    let ring := f.rxbase.toNat / 4096 * 4096
    if !ringEnabled f.rxsize then .refuse 0x0D none
    else
      match s.places p.dvf part .both [ring] with
      | .wait s => .wait s
      | .refuse c a => .refuse c (some a)
      | .at_ hs =>
        let h := hs.headD 0
        if s.homeWaits h then .wait (s.waitHome (port / 36) h)
        else
        match r.slot with
        | none =>
          let tail := natOfBytes (s.bytesAt h 8)
          if ringRefuses f.rxsize tail (natOfBytes (s.bytesAt (h + 8) 8)) then .refuse 0x0D none
          else if s.ringBusy p then .wait s
          else .slot (s.classify h (homeDie h) none false) tail
        | some tail =>
          match s.places p.dvf part .write (accessesOf (ring + 2048 * (1 + tail % f.rxsize)) (64 + p.len) 16), s.rbarKey p part with
          | .at_ ks, .at_ rb =>
            if r.moved = ks.length + 1 then .more ((s.classify h (homeDie h) none true).writeBytes h (bytesOfNat 8 (tail + 1))) [] []
            else (s.nextPiece (port / 36) homeDie (slotBytes p) (p.bad.map (fun i => i + 4)) ks (r.moved - 1)).getD (s.lastAccess (port / 36) rb p r)
          | .wait s, _ => .wait s
          | .refuse c a, _ => .refuse c (some a)
          | _, .wait s => .wait s
          | _, .refuse c a => .refuse c (some a)))

/-- The operation of an ATOMIC packet: the new value from the old one. -/
def atomicNew (opx old : Nat) : Nat :=
  let o := opx / 2 ^ 64 % 2 ^ 64
  let n := 8 * atomicWidth o
  atomNew (BitVec.ofNat 3 (o % 8)) (o.testBit 4) n old (opx / 2 ^ 128 % 2 ^ n) (opx % 2 ^ n)

/-- ATOMIC_PACKET. -/
def execAtomicPacket (port : Nat) (p : Packet) (s : State) : Host.Outcome State Fault Refusal :=
  .next (s.deliver port .atomic p (fun s part _ =>
    match s.places p.dvf part .both [p.addr] with
    | .at_ ks =>
      let key := ks.headD 0
      if s.homeWaits key then .wait (s.waitHome (port / 36) key)
      else
      let w := atomicWidth (p.opx / 2 ^ 64)
      let old := natOfBytes (s.bytesAt key w)
      let bad := if s.poisonIn key w then [0] else []
      let s := (s.classify key (homeDie key) none true).writeBytes key (bytesOfNat w (atomicNew p.opx old))
      .done s .atomicResult (bytesOfNat w old) bad
    | .wait s => .wait s
    | .refuse c a => .refuse c (some a)))

/-- Add element `i` at its place, by one atomic; a poisoned addend poisons. -/
def State.addElement (s : State) (efmt e : Nat) (bs : List Byte) (bad : List Nat) (i key : Nat) : State :=
  let s := (s.classify key (homeDie key) none true).writeBytes key
    (bytesOfNat e (tileSum efmt e (natOfBytes (s.bytesAt key e)) (natAt bs (e * i) e)))
  if bad.contains (e * i / 16) then s.writePoison key e else s

/-- REDUCEPUT_PACKET. -/
def execReduceputPacket (port : Nat) (p : Packet) (s : State) : Host.Outcome State Fault Refusal :=
  .next (s.deliver port .reducePut p (fun s part r =>
    let efmt := p.opx / 2 ^ 64 % 2 ^ 8
    let e := (esizeOf efmt).getD 4
    match s.places p.dvf part .both (accessesOf p.addr p.len e), s.rbarKey p part with
    | .at_ ks, .at_ rb =>
      (match ks[r.moved]? with
       | some key => if s.homeWaits key then .wait (s.waitHome (port / 36) key) else .more (s.addElement efmt e p.data p.bad r.moved key) [] []
       | none => s.lastAccess (port / 36) rb p r)
    | .wait s, _ => .wait s
    | .refuse c a, _ => .refuse c (some a)
    | _, .wait s => .wait s
    | _, .refuse c a => .refuse c (some a)))

/-- JOIN_PACKET: a pending COLLJOIN hears it, else it is kept. -/
def execJoinPacket (port : Nat) (p : Packet) (s : State) : Host.Outcome State Fault Refusal :=
  .next (s.deliver port .join p (fun s _ _ =>
    let from_ := (p.snode, p.svf)
    let hears := match s.membership p.dvf p.coll with
      | some m => !m.joined && m.members.contains from_
      | none => false
    .done (if hears then s.modMember p.dvf p.coll (fun m => { m with heard := m.heard ++ [from_] })
      else s.modFabric (fun x => { x with keptJoins := x.keptJoins ++ [(p.dvf, p.coll, from_)] })) .ack [] []))

/-- Commands of a function to an endpoint fail with MEMBER_LOST, and a COLLJOIN of a collective that includes it
(20 R513). -/
def State.failLost (s : State) (fn coll : Nat) (node : Nat × Nat) : State :=
  s.modFabric (fun x =>
    { x with cmds := x.cmds.map (fun e =>
        let hit := e.2.fn == fn && e.2.kind != .leave &&
          (if e.2.kind = .join then e.2.coll == coll else e.2.dests.contains node)
        let gone := e.2.fn == fn && e.2.dests.contains node
        if hit then (e.1, { e.2.failed 0x0E with unanswered := [] })
        else if gone then (e.1, { e.2 with unanswered := e.2.unanswered.filter (fun u => (u.dnode, u.dvf) != node) })
        else e) })

/-- A member of a function's collective is lost: the function fails what it has to do with it, until it leaves the
collective (20 R513). -/
def State.loseMember (s : State) (fn coll : Nat) (node : Nat × Nat) : State :=
  (s.modMember fn coll (fun m =>
    { m with lost := if m.members.contains node && !m.lost.contains node then m.lost ++ [node] else m.lost })).failLost fn coll node

/-- A JOIN that was kept is forgotten with its sender's membership. -/
def State.forgetJoin (s : State) (fn coll : Nat) (node : Nat × Nat) : State :=
  s.modFabric (fun x => { x with keptJoins := x.keptJoins.filter (fun j => j != (fn, coll, node)) })

/-- LEAVE_PACKET: the member goes; one that is lost fails what is addressed to it. The flag of a lost member travels
in CAUSE, and such a LEAVE, which the device sends on its behalf, is of no stream (log 98). -/
def execLeavePacket (port : Nat) (p : Packet) (lost : Bool) (s : State) : Host.Outcome State Fault Refusal :=
  let from_ := (p.snode, p.svf)
  if lost != (p.cause == 0x0E) then .next s
  else if lost then
    (match s.localPart port .leave p with
     | none => .next s
     | some part =>
       let t := s.unbox port .leave p
       .next (if s.admits part p then
           ((((t.forgetJoin p.dvf p.coll from_).loseMember p.dvf p.coll from_).reply part .ack
             (p.answer (s.domain p.dvf) 0 [] []))).wake
         else (t.reply part .nack (p.answer (s.domain p.dvf) 0x0C [] [])).wake))
  else .next (s.deliver port .leave p (fun s _ _ =>
    .done ((s.modMember p.dvf p.coll (fun m =>
      { m with members := m.members.filter (fun x => x != from_), lost := m.lost.filter (fun x => x != from_) })).forgetJoin
        p.dvf p.coll from_) .ack [] []))

/-! Answers (20 R507, R509). -/

/-- The unanswered packet that an answer is for. -/
def State.openOf (s : State) (part : Nat) (p : Packet) : Option (FabPending × OpenPkt) :=
  (s.fabric.cmds.find p.cmdtag).bind (fun f =>
    if f.part = part ∧ f.fn = p.dvf then
      (f.unanswered.find? (fun u => u.dnode == p.snode && u.dvf == p.svf && u.seq == p.seq)).map (fun u => (f, u))
    else none)

/-- One more access of an answer is made. -/
def State.movedAnswer (s : State) (cmd : Nat) (u : OpenPkt) : State :=
  s.modFabric (fun x => { x with cmds := x.cmds.modify cmd (fun f =>
    { f with unanswered := f.unanswered.map (fun v => if v = u then { v with moved := v.moved + 1 } else v) }) })

/-- Take an answer: `store` puts returned data in place, one access at a time, or waits. -/
def State.takeAnswer (s : State) (port : Nat) (ty : PacketType) (p : Packet)
    (store : State → FabPending → OpenPkt → Deliver) : State :=
  match s.localPart port ty p with
  | none => s
  | some part =>
    match s.openOf part p with
    | none => s.unbox port ty p
    | some (f, u) =>
      match store s f u with
      | .wait s | .slot s _ => s
      | .more s _ _ => (s.movedAnswer p.cmdtag u).wake
      | .refuse c va => (((s.noteFailed f.fn va).unbox port ty p).answered p.cmdtag p.snode p.svf p.seq c).wake
      | .done s _ _ _ => ((s.unbox port ty p).answered p.cmdtag p.snode p.svf p.seq 0).wake

/-- ACK. -/
def execAck (port : Nat) (p : Packet) (s : State) : Host.Outcome State Fault Refusal :=
  .next (s.takeAnswer port .ack p (fun s _ _ => .done s .ack [] []))

/-- NACK. -/
def execNack (port : Nat) (p : Packet) (s : State) : Host.Outcome State Fault Refusal :=
  .next (s.takeAnswer port .nack p (fun _ _ _ => .refuse p.cause none))

/-- Write returned data at LADDR, as the queue's thread; a failed command writes no more. -/
def storeReturned (p : Packet) (w : Nat) (s : State) (f : FabPending) (u : OpenPkt) : Deliver :=
  if f.laddr = 0 && f.kind == .atomic || f.cause != 0 then .done s .ack [] []
  else
    match s.places f.fn f.part .write (accessesOf (f.laddr + u.off) p.data.length w) with
    | .at_ ks => (s.nextPiece (queueDie f.q) (fun _ => queueDie f.q) p.data p.bad ks u.moved).getD (.done s .ack [] [])
    | .wait s => .wait s
    | .refuse c a => .refuse (if c = 0x0C then 4 else 3) (some a)

/-- GET_DATA. -/
def execGetData (port : Nat) (p : Packet) (s : State) : Host.Outcome State Fault Refusal :=
  .next (s.takeAnswer port .getData p (storeReturned p 16))

/-- ATOMIC_RESULT. -/
def execAtomicResult (port : Nat) (p : Packet) (s : State) : Host.Outcome State Fault Refusal :=
  .next (s.takeAnswer port .atomicResult p (storeReturned p 16))

/-! Forwarding (20 R495, R498 to R501). -/

/-- The packets in the inputs of a partition, each with its input. -/
def State.inputs (s : State) (part : Nat) : List (Nat × InPacket) :=
  s.fabric.ports.flatMap (fun e => if s.inputOwner e.1 = some part then e.2.inq.map (fun x => (e.1, x)) else [])

/-- A packet stands at the head of its input VC and has no next hop yet. -/
def State.asks (s : State) (part input : Nat) (x : InPacket) : Bool :=
  (s.port input).heads x && x.route.isNone && !x.dropped && x.pkt.dnode != s.pnode part

/-- The output port and VC that a packet asks for: OUT, or ESC once it must escape (20 R495, R500). -/
def State.wants (s : State) (part : Nat) (x : InPacket) : Option (Nat × Nat) :=
  if x.esc then (s.routeEsc part x.pkt.dnode).map (fun n => (n, 7)) else s.nextHop part x.pkt.dnode x.vc

/-- A packet goes before another at an output: the longest wait, then the lowest port, where injected packets count as
port 144 (20 R501). -/
def goesFirst (a b : Nat × InPacket) : Bool :=
  decide (a.2.since < b.2.since) || (a.2.since == b.2.since && decide (Nat.min a.1 144 ≤ Nat.min b.1 144))

/-- The far end of a port has room for a packet on a VC; VC7 takes it flit by flit (20 R498). -/
def Port.roomFar (p : Port) (vc flits : Nat) : Bool :=
  if vc = 7 then decide (0 < p.far.reserved[7]) else decide (flits ≤ p.far.shared + p.far.reserved.toArray.getD vc 0)

/-- A packet is granted an output VC that no other holds, when it has waited longest of those that ask for it (20 R501). -/
def State.winsOutput (s : State) (part input : Nat) (x : InPacket) (out : Nat × Nat) : Bool :=
  let all := s.inputs part
  all.all (fun e => e.2.route != some out) &&
    (all.filter (fun e => s.asks part e.1 e.2 && s.wants part e.2 == some out)).all (fun e => goesFirst (input, x) e)

/-- Exchange a packet in an input. -/
def Port.setPacket (p : Port) (x y : InPacket) : Port := { p with inq := p.inq.replace x y }

/-- A packet gets its output VC, and its slots at the far end. -/
def State.grant (s : State) (input : Nat) (x : InPacket) (out : Nat × Nat) : State :=
  let far := (s.port out.1).far
  let y := { x with route := some out, refused := none, lent := if out.2 = 7 then 0 else Nat.min far.shared x.pkt.flits }
  (s.modPort out.1 (fun o => if out.2 = 7 then o else { o with far := far.take out.2 x.pkt.flits })).modPort input
    (fun p => p.setPacket x y)

/-- A packet is taken out of an input; what of it is still to come will be dropped. -/
def Port.discard (p : Port) (x : InPacket) (now : Nat) : Port :=
  if x.arrived = x.pkt.flits then p.release x now
  else
    { p.setPacket x { x with dropped := true, route := none, slots := [] } with
      left := p.left ++ x.slots.map (fun b => (now, x.vc, b)) }

/-- FORWARDED_PACKET: the packet that heads an input VC and is not local is granted its next hop when the far end has
room for it and no other goes before it; one with no route is refused. Whether there is room the credits say (20 R498); an event
whose `room` says that there is none grants nothing. -/
def execForwardedPacket (port vc : Nat) (t : PacketType) (p : Packet) (room : Bool) (s : State) : Host.Outcome State Fault Refusal :=
  match s.inputOwner port, (s.port port).head vc with
  | some part, some x =>
    if !x.is vc t p || x.esc || !s.asks part port x then .next s
    else
      (match s.nextHop part p.dnode vc with
       | none => .next ((s.modPort port (fun q => q.discard x s.fabricCycle)).giveUp part 0x09 (decide (144 ≤ port)) t p).wake
       | some out =>
         .next (if room && (s.port out.1).roomFar out.2 p.flits && s.winsOutput part port x out then (s.grant port x out).wake else s))
  | _, _ => .next s

/-- A packet at the head of VC0 to VC5 is refused its next hop for want of room (20 R498, R500). -/
def State.refusedNow (s : State) (part input : Nat) (x : InPacket) : Bool :=
  decide (x.vc ≤ 5) && s.asks part input x &&
    (match s.nextHop part x.pkt.dnode x.vc with
     | some out => out.2 != 7 && !(s.port out.1).roomFar out.2 x.pkt.flits
     | none => false)

/-- ESCAPE: a packet that has been refused for 64 fabric cycles takes VC7 of its ESC port when a slot of VC7 is free there and no
other goes before it (20 R500, R501). -/
def execEscape (port vc : Nat) (s : State) : Host.Outcome State Fault Refusal :=
  match s.inputOwner port, (s.port port).head vc with
  | some part, some x =>
    (match s.routeEsc part x.pkt.dnode with
     | some out =>
       .next (if x.esc && s.asks part port x && (s.port out).roomFar 7 1 && s.winsOutput part port x (out, 7) then
         (s.grant port x (out, 7)).wake else s)
     | none => .next s)
  | _, _ => .next s

/-- What the fabric notes of the time that begins: since which cycle a packet has been refused, and since when no route
reaches a member (20 R500, R513). -/
def State.noteFabric (s : State) : State :=
  s.modFabric (fun f =>
    { f with
      ports := f.ports.map (fun e =>
        match s.inputOwner e.1 with
        | some part =>
          (e.1, { e.2 with inq := e.2.inq.map (fun x =>
            { x with refused := if s.refusedNow part e.1 x then some (x.refused.getD s.fabricCycle) else none }) })
        | none => e)
      members := f.members.map (fun m =>
        let part := ((s.fn m.fn).bound).getD 0
        let out := m.members.filter (fun e => e.1 != s.pnode part && (s.nextHop part e.1 0).isNone)
        { m with away := out.map (fun e => (e, (((m.away.find? (fun a => a.1 == e)).map Prod.snd).getD s.units))) }) })

/-- A packet that was refused for 64 cycles is to escape, when its ESC is valid (20 R500). -/
def State.latchEscapes (s : State) : State :=
  s.modFabric (fun f =>
    { f with ports := f.ports.map (fun e =>
        match s.inputOwner e.1 with
        | some part =>
          (e.1, { e.2 with inq := e.2.inq.map (fun x =>
            { x with esc := x.esc ||
                (((x.refused.map (fun c => decide (c + 64 ≤ s.fabricCycle))).getD false) && (s.routeEsc part x.pkt.dnode).isSome) }) })
        | none => e) })

/-! Links (20 R491, R498, R501 to R504). -/

/-- The CRC of a flit and its sideband. -/
def Flit.check (f : Flit) : Word :=
  Config.linkCrc ((match f.body with
    | some (ty, p, i) => p.flit ty i
    | none => List.replicate 64 0) ++
    bytesOfNat 1 (f.vc + (if f.shared then 8 else 0)) ++ bytesOfNat 8 f.seq ++ bytesOfNat 8 f.credits.shared ++
    f.credits.reserved.toList.flatMap (bytesOfNat 1))

/-- A slot of the kind that a flit takes is free. -/
def Port.slotFree (p : Port) (now : Nat) (f : Flit) : Bool :=
  if f.shared then f.vc != 7 && decide (0 < p.sharedFree now) else decide (f.vc ≤ 7) && decide (0 < p.reservedFree now f.vc)

/-- A flit of a packet enters an input; one of a packet that is given up, or that VC7 brings to its destination (`through`), leaves
its slot as it comes. -/
def Port.accept (p : Port) (f : Flit) (ty : PacketType) (k : Packet) (i : Nat) (local_ : Bool) (now : Nat) : Port :=
  let inq := if i = 0 then p.inq ++ [⟨f.vc, ty, k, now, 0, 0, [], none, false, false, none, 0⟩] else p.inq
  match inq.find? (fun x => x.is f.vc ty k && x.arrived == i) with
  | none => p
  | some x =>
    let through := x.dropped || (f.vc == 7 && local_)
    let y := { x with arrived := i + 1, slots := if through then x.slots else x.slots ++ [f.shared] }
    { p with inq := (inq.replace x y).filter (fun z => !(z.dropped && z.arrived == z.pkt.flits))
             left := if through then p.left ++ [(now, f.vc, f.shared)] else p.left }

/-- A flit comes in on a port. One that fails its CRC is dropped with every later one, and asked for again; the one that is
expected gives its credits and enters its slot (20 R498, R503). -/
def State.flitIn (s : State) (port : Nat) (f : Flit) : State :=
  let x := s.port port
  if 144 ≤ port || !x.up then s
  else if f.crc != f.check then
    s.modPort port (fun x => { x with ask := some x.rxSeq, mismatches := x.mismatches + (if f.seq = x.rxSeq then 1 else 0) })
  else if f.seq ≠ x.rxSeq || (f.body.isSome && !x.slotFree s.fabricCycle f) then s
  else
    let s := s.modPort port (fun x => { x with rxSeq := x.rxSeq + 1, ask := none, mismatches := 0, far := x.far.plus f.credits })
    match f.body with
    | none => s.wake
    | some (ty, p, i) =>
      let local_ := (s.portOwner port).any (fun o => s.pnode o == p.dnode)
      (s.modPort port (fun x => x.accept f ty p i local_ s.fabricCycle)).wake

/-- The credits that a port returns in a cycle: of the slots that flits left in earlier ones. -/
def Port.due (p : Port) (now : Nat) : Credits :=
  let l := p.left.filter (fun e => decide (e.1 < now))
  { shared := l.countP (fun e => e.2.2), reserved := Vector.ofFn (fun i => l.countP (fun e => e.2.1 == i.val && !e.2.2)) }

/-- A port sends a flit: it stands in the retry buffer until the far end has taken it (20 R503). -/
def Port.put (p : Port) (now vc : Nat) (shared : Bool) (body : Option (PacketType × Packet × Nat)) : Port :=
  let f : Flit := ⟨vc, shared, p.txSeq, 0, p.due now, body⟩
  { p with retry := p.retry ++ [{ f with crc := f.check }], txSeq := p.txSeq + 1, lastOut := some now,
           left := p.left.filter (fun e => decide (now ≤ e.1)) }

/-- The packets that have been granted a VC of a port, each with its input. -/
def State.granted (s : State) (port : Nat) : List (Nat × InPacket) :=
  s.fabric.ports.flatMap (fun e => (e.2.inq.filter (fun x => x.route.map Prod.fst == some port)).map (fun x => (e.1, x)))

/-- The packet whose flit a port sends next: VC7 first, then the packet that has begun, then VC6, VC4, VC5 and the rest
(20 R501). -/
def State.sender (s : State) (port : Nat) : Option (Nat × InPacket) :=
  let all := s.granted port
  let ready (v : Nat) (e : Nat × InPacket) : Bool := e.2.route == some (port, v) && decide (e.2.sent < e.2.arrived)
  match if 0 < (s.port port).far.reserved[7] then all.find? (ready 7) else none with
  | some e => some e
  | none =>
    match all.find? (fun e => e.2.route != some (port, 7) && decide (0 < e.2.sent)) with
    | some e => if e.2.sent < e.2.arrived then some e else none
    | none => [6, 4, 5, 0, 1, 2, 3].findSome? (fun v => all.find? (ready v))

/-- One flit of a packet leaves an input. -/
def Port.sendOne (p : Port) (x : InPacket) (now : Nat) : Port :=
  let left := p.left ++ (x.slots.take 1).map (fun b => (now, x.vc, b))
  if x.sent + 1 = x.pkt.flits then { p with inq := p.inq.erase x, left := left }
  else { p.setPacket x { x with sent := x.sent + 1, slots := x.slots.drop 1 } with left := left }

/-- A port sends one flit in a fabric cycle: one that it resends, the next of a packet, or credits alone; while the
retry buffer is full it sends no new one (20 R491, R498, R501, R503). -/
def State.flitOut (s : State) (port : Nat) : State :=
  let x := s.port port
  let now := s.fabricCycle
  if !x.up || x.lastOut == some now then s
  else
    match x.resend with
    | _ :: rest => (s.modPort port (fun x => { x with resend := rest, lastOut := some now })).wake
    | [] =>
      if 256 ≤ x.retry.length then s
      else
        match s.sender port with
        | some (input, y) =>
          let vc := (y.route.map Prod.snd).getD 0
          let s := s.modPort port (fun x => x.put now vc (decide (y.sent < y.lent)) (some (y.ty, y.pkt, y.sent)))
          let s := if vc = 7 then s.modPort port (fun x => { x with far := x.far.take 7 1 }) else s
          (s.modPort input (fun p => p.sendOne y now)).wake
        | none => if x.left.any (fun e => decide (e.1 < now)) then (s.modPort port (fun x => x.put now 0 false none)).wake else s

/-- The far end has taken the oldest flits of a port's retry buffer. -/
def State.flitsTaken (s : State) (port n : Nat) : State :=
  s.modPort port (fun x => { x with retry := x.retry.drop n, resend := x.resend.filter (fun f => (x.retry.drop n).contains f) })

/-- Lane lock is lost, or there again. -/
def State.laneLock (s : State) (port : Nat) (held : Bool) : State :=
  s.modPort port (fun x => { x with unlocked := if held then none else some (x.unlocked.getD s.units) })

/-- LINK_RETRY: the far end asks for a flit again, and it is resent with every later one (20 R503). -/
def execLinkRetry (port seq : Nat) (s : State) : Host.Outcome State Fault Refusal :=
  let x := s.port port
  let again := x.retry.filter (fun f => decide (seq ≤ f.seq))
  .next (if x.up && !again.isEmpty then
    (s.modPort port (fun x =>
      { x with resend := again, retries := x.retries + BitVec.ofNat 32 again.length,
               fails := if x.fails.1 = seq then (seq, x.fails.2 + 1) else (seq, 1) })).wake
    else s)

/-- A link goes down: one flit has failed and then failed 16 retries, or lane lock has been lost for 10 microseconds
(20 R504). -/
def Port.mustFall (p : Port) (units : Nat) : Bool :=
  p.up && (decide (17 ≤ p.fails.2) || decide (17 ≤ p.mismatches) ||
    (p.unlocked.map (fun t => decide (t + 10000 * Config.unitsPerNs ≤ units))).getD false)

/-- A link is down: the packets in its retry buffer and its output queue are given up, and those that it has brought
only in part are dropped (20 R504; log 135). -/
def State.closeLink (s : State) (port : Nat) : State :=
  let x := s.port port
  let queued := s.granted port
  let waiting := queued.map (fun e => (e.2.ty, e.2.pkt, decide (144 ≤ e.1)))
  let sent := (x.retry.filterMap (fun f => f.body.map (fun b => (b.1, b.2.1, false)))).eraseDups
  let held := sent.filter (fun e => !waiting.any (fun w => w.1 == e.1 && w.2.1 == e.2.1)) ++ waiting
  let s := queued.foldl (fun s e => s.modPort e.1 (fun p => p.discard e.2 s.fabricCycle)) s
  let s := s.modPort port (fun y =>
    { Port.reset with en := y.en, dateline := y.dateline, poolsz := y.poolsz, retries := y.retries,
                      inq := y.inq.filter (fun z => z.arrived == z.pkt.flits) })
  match s.portOwner port with
  | some part => held.foldl (fun s e => s.giveUp part 0x0A e.2.2 e.1 e.2.1) s
  | none => s

/-- LINK_DOWN. -/
def execLinkDown (port : Nat) (s : State) : Host.Outcome State Fault Refusal :=
  if !(s.port port).mustFall s.units then .next s
  else
    let t := s.closeLink port
    let detail := bytesOfNat 1 0xFF ++ bytesOfNat 1 (port / 36) ++ bytesOfNat 1 0x0A ++ bytesOfNat 5 0 ++ bytesOfNat 8 port
    let t : State := match s.portOwner port with
      | some part => (t.tenants part).foldl (fun t fn =>
          t.postLog fn part (BitVec.ofNat 32 (Cause.cmdfail.code + 2 ^ 8 * AccessKind.engine.code)) 0 detail) t
      | none => t
    .next ((t.signal pfId 2).wake)

/-- LINK_RETRAIN: EN is written as 1; a link that is down trains (20 R502, R504). -/
def execLinkRetrain (port : Nat) (s : State) : Host.Outcome State Fault Refusal :=
  .next (s.modPort port (fun x => { x with en := true, training := !x.up }))

/-- The far end of a link that trains tells its free slots (20 R498, R502; log 136). -/
def State.farSlots (s : State) (port : Nat) (far : Credits) : State :=
  s.modPort port (fun x => if x.training then { x with far := far } else x)

/-- LINK_TRAINED: a link that trains is up (20 R502). -/
def execLinkTrained (port : Nat) (s : State) : Host.Outcome State Fault Refusal :=
  .next (if (s.port port).en && (s.port port).training then
    (s.modPort port (fun x => { x with up := true, training := false })).wake else s)

/-- MEMBER_LOST: no route has reached a member for 10 microseconds (20 R513). -/
def execMemberLost (node vf : Nat) (s : State) : Host.Outcome State Fault Refusal :=
  let late (m : Membership) : Bool :=
    m.away.any (fun a => a.1 == (node, vf) && decide (a.2 + 10000 * Config.unitsPerNs ≤ s.units)) && !m.lost.contains (node, vf)
  .next ((s.fabric.members.filter late).foldl (fun t m => t.loseMember m.fn m.coll (node, vf)) s).wake

end Sys2Proof.Machine
end

