-- ==== Sys2Proof/Machine/Registers.lean ====
section
/-! DEFINITION. The registers that the host writes, invalidations, and the host's requests and snoops (13 R330; 16 Tables
16.3, 16.6, 16.13; 17 R444, R455; 19 R475, R486, R487; 20 Tables 20.2, 20.3, 20.5a). -/

namespace Sys2Proof.Machine

open Sys2Proof

/-! Invalidations (17 R455). -/

/-- A page-table page range of a function overlaps what an entry maps; a count of 0 covers everything. -/
def TlbEntry.overlaps (t : TlbEntry) (fn first pages : Nat) : Bool :=
  let lo := t.vpn * 2 ^ levelShift t.level / 2 ^ 16
  t.fn == fn && (pages == 0 || (decide (lo < first + pages) && decide (first < lo + 2 ^ (levelShift t.level - 16))))

/-- The same of an entry of a walk cache. -/
def WalkCacheEntry.overlaps (t : WalkCacheEntry) (fn first pages : Nat) : Bool :=
  let lo := t.vpn * 2 ^ levelShift t.level / 2 ^ 16
  t.fn == fn && (pages == 0 || (decide (lo < first + pages) && decide (first < lo + 2 ^ (levelShift t.level - 16))))

/-- A place lies in the page of a cached entry of a die: an access to it used that entry. -/
def TlbEntry.served (t : TlbEntry) (die key : Nat) : Bool :=
  t.die == die &&
    (if pteBit t.leaf 9 then decide (hostBase ≤ key)
     else decide (pteFrame t.leaf ≤ key) && decide (key < pteFrame t.leaf + 2 ^ levelShift t.level))

/-- The memory addresses that an entry of a reservation table has still to access, each with its number. -/
def REntry.left (e : REntry) : List (Nat × Nat) :=
  match e.kind with
  | .pass p => if p.scratchB || e.granted then [] else p.phys.map (fun a => (a, 0))
  | .mldMem false as | .mstMem false as | .table _ _ as => ((List.range as.length).map (fun i => (as.getD i 0, i))).drop e.moved
  | _ => []

/-- The lanes of pending instructions of a function whose accesses used entries that go (17 R455). -/
def State.lanesUsing (s : State) (fn : Nat) (gone : List TlbEntry) : List (Nat × Nat) :=
  s.ops.flatMap (fun e =>
    match s.groups.find e.2.gid with
    | some g => if g.fn = fn then
        (e.2.todo.filter (fun a => a.space == .phys && gone.any (fun t => t.served g.die a.addr))).map (fun a => (e.1, a.lane.val))
      else []
    | none => [])

/-- The entries of reservation tables with an access that used them, each with the last such access. -/
def State.entriesUsing (s : State) (fn : Nat) (gone : List TlbEntry) : List (Nat × Nat) :=
  s.entries.filterMap (fun e =>
    if ((s.groups.find e.2.gid).map (fun g => g.fn == fn)).getD false then
      ((e.2.left.filter (fun a => gone.any (fun t => t.served (e.2.quad / 24) a.1))).getLast?).map (fun a => (e.1, a.2))
    else none)

/-- An invalidation starts: the entries go; INVDONE is 0 until the accesses that used them have been performed
(17 R455; log 126). -/
def State.startInvalidation (s : State) (fn : Nat) : State :=
  let f := s.fn fn
  let first := f.invaddr.toNat % 2 ^ 57 / 2 ^ 16
  let goes (t : TlbEntry) : Bool := t.overlaps fn first f.invcnt.toNat
  if f.invdone then
    { s.modFn fn (fun x => { x with invdone := false, invLanes := s.lanesUsing fn (s.tlb.filter goes),
                                    invEntries := s.entriesUsing fn (s.tlb.filter goes) }) with
      tlb := s.tlb.filter (fun t => !goes t)
      walkCache := s.walkCache.filter (fun t => !t.overlaps fn first f.invcnt.toNat) }
  else s

/-- TLB_INVALIDATE. -/
def execTlbInvalidate (fn : Nat) (s : State) : Host.Outcome State Fault Refusal := .next (s.startInvalidation fn)

/-- An access of a function that used a removed entry is still to be performed. -/
def State.accessesPending (s : State) (fn : Nat) : Bool :=
  (s.fn fn).invLanes.any (fun x => ((s.ops.find x.1).map (fun o => o.todo.any (fun a => a.lane.val == x.2))).getD false) ||
    (s.fn fn).invEntries.any (fun x => ((s.entries.find x.1).map (fun e => decide (e.moved ≤ x.2) && !e.granted)).getD false)

/-- INVALIDATION_DONE. -/
def execInvalidationDone (fn : Nat) (s : State) : Host.Outcome State Fault Refusal :=
  .next (if s.accessesPending fn || (s.fn fn).invdone then s
    else s.modFn fn (fun x => { x with invdone := true }))

/-! Registers of a function (16 Table 16.6; 17 Table 17.4; 19 Table 19.5, R487; 20 Table 20.2). -/

/-- The function has a launch running. -/
def State.launchRuns (s : State) (fn : Nat) : Bool := s.launches.any (fun e => e.2.fn == fn && !e.2.complete)

/-- The state after an event, itself when the event stops. -/
def after (x : Host.Outcome State Fault Refusal) (s : State) : State :=
  match x with
  | .next t => t
  | _ => s

/-- A write to a submission queue's registers. -/
def State.writeSq (s : State) (fn q off v : Nat) : State :=
  let idle := (s.sq fn q).head == (s.sq fn q).tail
  match off with
  | 0x00 => if idle then s.modSq fn q (fun x => { x with base := BitVec.ofNat 64 v }) else s
  | 0x08 => if idle then s.modSq fn q (fun x => { x with size := v % 2 ^ 13 }) else s
  | 0x18 => after (execSqtail fn q v s) s
  | _ => s

/-- A write to the other registers of a function. -/
def State.writeFnReg (s : State) (fn off v : Nat) : State :=
  let d : Dword := BitVec.ofNat 64 v
  let set (f : Fn → Fn) : State := s.modFn fn f
  let setIdle (f : Fn → Fn) : State := if s.launchRuns fn then s else s.modFn fn f
  match off with
  | 0x2000 => setIdle (fun x => { x with root := d &&& 0xFFFFFFFFFFFC0001 })
  | 0x2008 => set (fun x => { x with invaddr := d &&& 0xFFFFFFFFFFFF0000 })
  | 0x2010 => set (fun x => { x with invcnt := d.setWidth 32 })
  | 0x2018 => if v.testBit 0 then s.startInvalidation fn else s
  | 0x2020 => setIdle (fun x => { x with ctxbase := d &&& 0xFFFFFFFFFFFF0000 })
  | 0x2028 => setIdle (fun x => { x with ctxchunks := d.setWidth 32 })
  | 0x2030 => set (fun x => { x with frbase := d &&& 0xFFFFFFFFFFFFF000 })
  | 0x2038 => set (fun x => { x with frsize := v % 2 ^ 13 })
  | 0x2048 => set (fun x => { x with frhead := v % 2 ^ 12 })
  | 0x2050 => if v.testBit 32 then after (execResume fn (v % 2 ^ 32) s) s else after (execKill fn (v % 2 ^ 32) s) s
  | 0x2060 => set (fun x => { x with wdcfg := BitVec.ofNat 32 (v % 2 ^ 16) })
  | 0x2068 => set (fun x => { x with ymode := v })
  | 0x2070 => set (fun x => { x with ybase := d })
  | 0x2078 => set (fun x => { x with ysize := d })
  | 0x2080 => set (fun x => { x with fabcfg := BitVec.ofNat 32 (v % 2 ^ 17) })
  | 0x2088 => set (fun x => { x with rxbase := d &&& 0xFFFFFFFFFFFFF000 })
  | 0x2090 => set (fun x => { x with rxsize := v % 2 ^ 13 })
  | 0x2098 => set (fun x => { x with ystat := x.ystat &&& (3 - v % 4) })
  | _ => s

/-! Registers of the physical function (16 Table 16.13; 19 Table 19.7; 20 R494, R495, R502). -/

/-- VFSCHED: reserved bits read 0; a tenant with work keeps its binding (16 R401); recording that begins sweeps first at the
next multiple (16 R408). -/
def State.writeVfsched (s : State) (vf v : Nat) : State :=
  let d : Dword := BitVec.ofNat 64 v &&& 0x7FFFFFFC03F
  s.modFn vf (fun x =>
    x.setSched (if (x.bound.map (fun p => s.hasWork p vf)).getD false then (d &&& 0x7FFFFFFC000) ||| (x.sched &&& 0x3F) else d)
      (s.reftime / 1000000))

/-- FPCFG: POOLSZ is written only while EN is 0; EN written as 0 closes the link, as 1 trains it (20 R502). -/
def State.writeFpcfg (s : State) (port v : Nat) : State :=
  let s := s.modPort port (fun x => { x with dateline := v.testBit 8, poolsz := if x.en then x.poolsz else v % 2 ^ 8 })
  if v.testBit 9 then after (execLinkRetrain port s) s else (s.closeLink port).modPort port (fun x => { x with en := false, training := false })

/-- The management registers of a die. -/
def State.writeDie (s : State) (die off v : Nat) : State :=
  if 0x100 ≤ off ∧ off < 0x180 then
    let n := (off - 0x100) / 16
    s.modDie die (fun x =>
      if h : n < 8 then
        if off % 16 = 0 then { x with pmcSel := x.pmcSel.set n (BitVec.ofNat 32 v &&& 0x7F00FF) h }
        else if off % 16 = 8 then { x with pmcVal := x.pmcVal.set n (v % 2 ^ 64) h } else x
      else x)
  else if off = 0x200 then
    s.modDie die (fun x =>
      { x with rascnt := BitVec.ofNat 64 (natOfBytes ((numbered 0 (bytesOfNat 8 x.rascnt.toNat)).map (fun e =>
          if v / 256 ^ e.1 % 256 = 0 then e.2 else 0))) })
  else s

/-- A write to the physical function's package and management registers. -/
def State.writePfReg (s : State) (off v : Nat) : State :=
  if 0x4000 ≤ off ∧ off < 0x6000 then s.writeSq pfId (8 * ((off - 0x4000) / 256) + off % 256 / 32) (off % 32) v
  else if 0x10000 ≤ off ∧ off < 0x50000 then s.writeDie (off / 0x10000 - 1) (off % 0x10000) v
  else if 0x50000 ≤ off ∧ off < 0x50200 ∧ off % 8 = 0 then s.writeVfsched ((off - 0x50000) / 8) v
  else if 0x50400 ≤ off ∧ off < 0x50800 ∧ off % 16 = 0 then
    s.modFn ((off - 0x50400) / 16) (fun x => { x with vfcq := BitVec.ofNat 64 v })
  else if 0x50400 ≤ off ∧ off < 0x50800 ∧ off % 16 = 8 then
    s.modFn ((off - 0x50400) / 16) (fun x => { x with vffq := BitVec.ofNat 32 v })
  else if off = 0x50800 then { s with pf := { s.pf with pwrlim := v % 2 ^ 16 } }
  else if 0x50C00 ≤ off ∧ off < 0x50D00 ∧ off % 8 = 0 then
    { s with pf := { s.pf with pcarg := s.pf.pcarg.writeN (off - 0x50C00) (bytesOfNat 8 v) } }
  else if off = 0x50D00 then
    (if s.pf.pcmd.isNone then { s with pf := { s.pf with pcmd := some (v % 2 ^ 32) } } else s)
  else if 0x60000 ≤ off ∧ off < 0x60000 + 0x40 * 144 then
    let port := (off - 0x60000) / 0x40
    (if off % 0x40 = 0 then s.writeFpcfg port v
     else if off % 0x40 = 0x10 then s.modPort port (fun x => { x with retries := BitVec.ofNat 32 v })
     else s)
  else if 0x70000 ≤ off ∧ off < 0x70100 ∧ off % 8 = 0 then
    s.modFabric (fun x => { x with pnode := x.pnode.set ((off - 0x70000) / 8) (v % 2 ^ 12) })
  else if 0x80000 ≤ off ∧ off < 0x80000 + 32 * 0x4000 ∧ off % 4 = 0 then
    s.modFabric (fun x => { x with routes := x.routes.set ((off - 0x80000) / 4) (BitVec.ofNat 32 v) })
  else s

/-- REGISTER_WRITE: a write of the host to any register; one that no table names has no effect. -/
def execRegisterWrite (fn off value : Nat) (s : State) : Host.Outcome State Fault Refusal :=
  let v := value % 2 ^ 64
  .next (if pfId < fn then s
    else if 0x2000 ≤ off ∧ off < 0x3000 then (s.writeFnReg fn off v).wake
    else if fn = pfId then (s.writePfReg off v).wake
    else if 0x1000 ≤ off ∧ off < 0x1100 then s.writeSq fn ((off - 0x1000) / 32) (off % 32) v
    else s)

/-! Requests of the host and snoops (13 R330; 16 R403; 19 R475, R476). -/

/-- The page that holds a place of device memory is in motion. -/
def State.inMotion (s : State) (key : Nat) : Bool :=
  s.fnList.any (fun f => (s.leaves f).any (fun l => pteBit l.word 5 && l.covers key 1))

/-- A request's bytes as places in 16-byte blocks: offset, place and size. -/
def hostPieces (key n : Nat) : List (Nat × Nat × Nat) :=
  (blocksOf key n).map (fun b =>
    let lo := Nat.max key (16 * b)
    (lo - key, lo, Nat.min (key + n) (16 * b + 16) - lo))

/-- The length of a request. -/
def hostLength : HostAccess → Nat
  | .read n => n
  | .write bs => bs.length

/-- The host caches the line that it read. -/
def State.hostCaches (s : State) (key : Nat) : State :=
  { s with lines := s.lines.modify (key / 128) (fun l => { l with host := true }) }

/-- The poison of the 64-byte flit slots of a range: any poisoned 16 bytes poison theirs (19 R479). -/
def State.slotPoison (s : State) (key n : Nat) : List Bool :=
  (List.range ((key % 64 + n + 63) / 64)).map (fun i => s.poisonIn (64 * (key / 64 + i)) 64)

/-- The data of a read goes to the host. -/
def State.answerHost (s : State) (addr : Nat) (access : HostAccess) : State :=
  match access with
  | .read n => { s with toHost := s.toHost ++ [(addr, .data (s.bytesAt addr n) (s.slotPoison addr n))] }
  | .write _ => s

/-- An ordered access to a line is in progress at its home: it has arrived and can be performed, so that it waits for no
relock and for no drain (19 R475; log 125). -/
def State.lineBusy (s : State) (line : Nat) : Bool :=
  s.home.any (fun id => match s.nextOrdered id with
    | some (o, a) => a.space == .phys && a.addr / 128 == line &&
        ((s.groups.find o.gid).map (fun g => s.performable id g.core a)).getD false
    | none => false)

/-- A snoop takes a line's modified data, and its copies when it invalidates (19 R475). -/
def State.snoopLine (s : State) (line : Nat) (invalidate : Bool) : State :=
  if invalidate then { s with lines := s.lines.drop line }
  else { s with lines := s.lines.modify line (fun l => { l with owner := none, dirty := false, l1Dirty := false }) }

/-- The host's own access to host memory, which its snoops make coherent with the device's caches (13 R330; 19 R475). -/
def State.hostOwn (s : State) (access : HostAccess) (p : Nat × Nat × Nat) : State :=
  match access with
  | .read _ => s.snoopLine (p.2.1 / 128) false
  | .write bs =>
    let s := s.snoopLine (p.2.1 / 128) true
    { s with mem := s.mem.writeN p.2.1 ((bs.drop p.1).take p.2.2), lost := s.lost.filter (fun x => x != p.2.1 / 128),
             poison := if p.2.2 = 16 then s.poison.filter (fun b => 16 * b != p.2.1) else s.poison }

/-- A request of the host to device memory, performed at the line's home as an access of no core (13 R330). -/
def State.hostPiece (s : State) (access : HostAccess) (p : Nat × Nat × Nat) : State :=
  match access with
  | .read _ => (s.classify p.2.1 (homeDie p.2.1) none false).hostCaches p.2.1
  | .write bs => (s.classify p.2.1 (homeDie p.2.1) none true).writeBytes p.2.1 ((bs.drop p.1).take p.2.2)

/-- An address is device memory that the host has: memory of a partition (19 R474; log 29). -/
def State.exposed (s : State) (pa : Nat) : Bool := s.hasMemory pa && s.parts.any (fun p => p.2.owns pa)

/-- HOST_REQUEST: the host's access to device memory, or its own to host memory, above `hostBase`. A request waits for a page
in motion, behind the requests that came before it, and for the relock of its home (13 R330, R340; 14 R384; 16 R403). -/
def execHostRequest (addr : Nat) (access : HostAccess) (s : State) : Host.Outcome State Fault Refusal :=
  let ps := hostPieces addr (hostLength access)
  match ps.find? (fun p => decide (p.2.1 < hostBase) && !s.exposed p.2.1) with
  | some p => .fault (.noMemory p.2.1)
  | none =>
    if hostBase ≤ addr then .next (if ps.any (fun p => s.lineBusy (p.2.1 / 128)) then s else (ps.foldl (fun s p => s.hostOwn access p) s).wake)
    else if ps.any (fun p => s.inMotion p.2.1 || s.homeWaits p.2.1) then .next s
    else .next ((ps.foldl (fun s p => s.hostPiece access p) s).answerHost addr access).wake

/-- What a snoop finds: a modified line's data, with poison where a cold reset lost it (19 R475, R476). -/
def State.snoopAnswer (s : State) (line : Nat) : HostAnswer :=
  let l := s.lines.getD line Line.none
  if s.lost.contains line then .data (s.bytesAt (128 * line) 128) [true, true]
  else if l.dirty then .data (s.bytesAt (128 * line) 128) (s.slotPoison (128 * line) 128)
  else if l.sharers.isEmpty then .miss else .clean

/-- SNOOP: the line's data is returned where it is modified, and its copies go when the snoop invalidates. -/
def execSnoop (line : Nat) (invalidate : Bool) (s : State) : Host.Outcome State Fault Refusal :=
  .next (if s.lineBusy line then s
    else
      { s.snoopLine line invalidate with
        toHost := s.toHost ++ [(line, s.snoopAnswer line)], lost := s.lost.filter (fun x => x != line) })

end Sys2Proof.Machine
end

