-- ==== Sys2Proof/Machine/Power.lean ====
section
/-! DEFINITION. Power and clocks, errors that reach beyond a group, power gates and firmware clamps (14 R379 to R384;
19 R476, R479 to R485, R489). -/

namespace Sys2Proof.Machine

open Sys2Proof

/-! Frequency steps (14 R383; 19 R489). -/

/-- A die completes its cycle and its clock stops for 750 ns, to restart at another frequency. -/
def State.stepDie (s : State) (d k : Nat) : State :=
  let stop := (s.die d).since + (s.cyclesSince d + 1) * (s.die d).period
  let now := s.reftime
  s.modDie d (fun x => { x with relock := some (stop + 750 * Config.unitsPerNs, k), lastStep := now + 1 })

/-- A die may step: its clock runs, and it has not stepped within 100 us. -/
def State.mayStep (s : State) (d : Nat) : Bool :=
  s.clockRuns d && (s.die d).relock.isNone && ((s.die d).lastStep == 0 || decide ((s.die d).lastStep - 1 + 100000 ≤ s.reftime))

/-- The first die of a list for which a measure of the frequency is largest. -/
def State.pickDie (s : State) (measure : Nat → Nat) (ds : List Nat) : Option Nat :=
  ds.foldl (fun b d =>
    match b with
    | none => some d
    | some x => if measure (s.die x).k50 < measure (s.die d).k50 then some d else b) none

/-- Step the die at the highest frequency down by 50 MHz. -/
def State.lower (s : State) : State :=
  match s.pickDie (fun k => k) ((List.range 4).filter (fun d => s.mayStep d && decide (16 < (s.die d).k50))) with
  | some d => s.stepDie d ((s.die d).k50 - 1)
  | none => s

/-- Step the die at the lowest frequency up by 50 MHz. -/
def State.raiseClock (s : State) : State :=
  match s.pickDie (fun k => 36 - k) ((List.range 4).filter (fun d => s.mayStep d && decide ((s.die d).k50 < 36))) with
  | some d => s.stepDie d ((s.die d).k50 + 1)
  | none => s

/-- No partition is throttled. -/
def State.unthrottle (s : State) : State := { s with parts := s.parts.map (fun e => (e.1, { e.2 with throttled := false })) }

/-- POWER_SAMPLE: once for each 10 us; requests above 2,400 W act as 2,400 W (19 R484, R489). -/
def execPowerSample (watts : Nat) (s : State) : Host.Outcome State Fault Refusal :=
  let n := s.reftime / 10000
  if s.frozenMgmt || decide (n < s.pf.sampled) then .next s
  else
    let limit := Nat.min s.pf.pwrlim 2400
    let s := { s with pf := { s.pf with sampled := n + 1, above := decide (limit < watts) } }
    .next (if limit < watts then s.lower.wake
      else if watts * 100 < 95 * limit then s.unthrottle.raiseClock.wake else s.unthrottle.wake)

/-- The power manager throttles a partition, or lets it go, while the last sample was above the limit (19 R485, R489). -/
def State.throttle (s : State) (part : Nat) (on : Bool) : State :=
  if s.frozenMgmt then s else (s.modPart part (fun p => { p with throttled := on && s.pf.above })).wake

/-- The power management steps a die to a frequency of its choice; one outside 800 to 1,800 MHz is refused and breaks its
clamp (14 R379; 15 R389; 19 R484, R485; log 117). -/
def State.stepClock (s : State) (d k : Nat) : State :=
  if s.frozenMgmt then s
  else if k < 16 ∨ 36 < k then s.violate true 1 0
  else if k == (s.die d).k50 || !s.clockRuns d || (s.die d).relock.isSome then s
  else s.stepDie d k

/-- RELOCK_END. -/
def execRelockEnd (die : Nat) (s : State) : Host.Outcome State Fault Refusal := .next (s.endRelock die)

/-! Errors (19 R479 to R482). -/

/-- The functions that an error in a partition affects: its tenants, and the physical one when it has launches there. -/
def State.affectedFns (s : State) (part : Nat) : List Nat :=
  s.tenants part ++ (if s.hasWork part pfId then [pfId] else [])

/-- The partition has a frame on an HBM4 channel: it owns the channel, or in shared-channel mode maps a frame there. -/
def State.usesChannel (s : State) (part : Nat) (p : Part) (channel : Nat) : Bool :=
  p.hbmch.testBit channel &&
    (!p.memmode || (s.affectedFns part).any (fun f => (s.leaves f).any (fun l => l.covers (channel * 2 ^ 31) (2 ^ 31))))

/-- Every launch of a partition is killed. -/
def State.killPart (s : State) (part : Nat) : State :=
  let ls := Assoc.keys (s.launches.filter (fun e => e.2.part == part && !e.2.complete))
  let s := ls.foldl State.killLaunch s
  (Assoc.keys (s.groups.filter (fun e => ls.contains e.2.launch))).foldl State.afterWork s

/-- LLC_TAG_ERROR. -/
def execLlcTagError (channel way : Nat) (s : State) : Host.Outcome State Fault Refusal :=
  let hit := (s.parts.filter (fun e => s.usesChannel e.1 e.2 channel)).map Prod.fst
  let s := hit.foldl (fun s part =>
    (s.affectedFns part).foldl (fun s fn => s.postLog fn part (BitVec.ofNat 32 Cause.poison.code) channel []) (s.killPart part)) s
  .next { s with retiredWays := if s.retiredWays.contains (channel, way) then s.retiredWays else s.retiredWays ++ [(channel, way)] }.wake

/-- UNCONTAINED_ERROR. -/
def execUncontainedError (s : State) : Host.Outcome State Fault Refusal := .next ({ s with viral := true }.signal pfId 2)

/-- An entry of a return stack holds an error: entry `e`, oldest first. -/
def LaneCtl.strike (l : LaneCtl) (e : Nat) : LaneCtl :=
  if e < l.rstack.length then { l with rbad := (l.rstack.length - 1 - e) :: l.rbad } else l

/-- A soft error strikes an element of a row of a group's block: a varying register, or half an entry of a return stack
(07 Table 7.6). -/
def State.strikeRow (s : State) (gid row : Nat) (lane : Fin 32) : State :=
  match s.groups.find gid with
  | none => s
  | some g =>
    if row < g.cfg.vregs then { s with bad := s.bad ++ [⟨gid, row, some lane⟩] }
    else
      let e := (row - g.cfg.vregs) / 2
      if e < g.cfg.rsdepth then s.modGroup gid (fun g => g.modLanes .addr (setBit 0 lane true) (fun l => l.strike e))
      else s.modGroup gid (fun g => g.modLanes .comp (setBit 0 lane true) (fun l => l.strike (e - g.cfg.rsdepth)))

/-- A soft error strikes a structure (19 Table 19.4). -/
def State.softError (s : State) (t : SoftTarget) : State :=
  match t with
  | .laneElement gid row lane => s.strikeRow gid row lane
  | .scratch team block => s.modTeam team (fun t => { t with scratchPoison := insertSorted t.scratchPoison block })
  | .queueEntry gid q lane ix =>
    s.modGroup gid (fun g => g.setEntries q lane ((numbered 0 (g.entries q lane)).map (fun e =>
      if e.1 = ix then (match e.2.tag with | .reserved _ => e.2 | _ => { e.2 with tag := .poison }) else e.2)))
  | .groupEntry gid code => { s with bad := s.bad ++ [⟨gid, code, none⟩] }
  | .accRow row =>
    { s with acc := s.acc.set row { s.acc.getD row AccRow.zero with psn := true } }
  | .memory block => { s with poison := insertSorted s.poison block }
  | .corrected die row =>
    s.modDie die (fun x =>
      let n := x.rascnt.toNat / 256 ^ row % 256
      if row < 8 ∧ n < 255 then { x with rascnt := x.rascnt + BitVec.ofNat 64 (256 ^ row) } else x)

/-! Power gates and firmware clamps (19 R476, R484, R485). -/

/-- A gate is requested for a die, a choice of the management firmware (19 R485, R489). -/
def State.requestGate (s : State) (d : Nat) : State := if s.frozenMgmt then s else s.modDie d (fun x => { x with gateReq := true })

/-- A die gives up every line that it holds. -/
def Line.leaveDie (l : Line) (d : Nat) : Line :=
  let mine := l.owner == some d
  { sharers := l.sharers.filter (fun x => x != d), owner := if mine then Option.none else l.owner,
    l1 := l.l1.filter (fun c => c / 96 != d), dirty := l.dirty && !mine, l1Dirty := l.l1Dirty && !mine, host := l.host }

/-- A die gives up all its lines. -/
def State.leaveLines (s : State) (d : Nat) : State := { s with lines := s.lines.map (fun e => (e.1, e.2.leaveDie d)) }

/-- POWER_GATE: the requested gate applies once every dirty line is written back, which viral keeps from tier 3, and every
tier-3 line has gone (19 R476, R482). -/
def execPowerGate (die : Nat) (s : State) : Host.Outcome State Fault Refusal :=
  if (s.die die).gateReq && !(s.die die).gated && (s.die die).relock.isNone && !s.frozenMgmt &&
      !s.lines.any (fun e => e.2.dirty && e.2.owner == some die && s.keepsDirty e.1) then
    .next ((s.leaveLines die).gateClock die)
  else .next s

/-- FIRMWARE_VIOLATION: the master is frozen. -/
def execFirmwareViolation (management : Bool) (clamp addr : Nat) (s : State) : Host.Outcome State Fault Refusal :=
  .next (s.violate management clamp addr)

end Sys2Proof.Machine
end

