-- ==== Sys2Proof/Machine/Reset.lean ====
section
/-! DEFINITION. Cold reset and function-level resets (19 R477, R478, R490). -/

namespace Sys2Proof.Machine

open Sys2Proof

/-- COLD_RESET: bring-up runs. Host memory and what the model itself keeps stay, and the modules that are fitted (00 R2);
host lines that the device held modified are lost, and their data is poison (19 Table 19.2); a retired way stays retired
(19 R481). -/
def execColdReset (s : State) : Host.Outcome State Fault Refusal :=
  let lost := (s.lines.filter (fun e => e.2.dirty && decide (hostBase ≤ 128 * e.1))).map Prod.fst
  .next { State.reset with
    agenda := s.agenda, nextId := s.nextId, bundleSeq := s.bundleSeq, free := s.free, ddr := s.ddr,
    mem := s.mem.filter (fun c => decide (hostBase ≤ c.1)),
    poison := (lost.flatMap (fun n => blocksOf (128 * n) 128)).foldl insertSorted
      (s.poison.filter (fun b => decide (hostBase ≤ 16 * b))),
    retiredWays := s.retiredWays, msix := s.msix, toHost := s.toHost,
    lost := s.lost ++ lost.filter (fun n => !s.lost.contains n) }

/-! The steps of a function-level reset (19 R478). -/

/-- Step 1: the submissions of a function are dropped. -/
def State.dropSubs (s : State) (fn : Nat) : State := { s with subs := s.subs.filter (fun e => e.2.fn != fn) }

/-- Step 2: its groups are gone at once, with their cores' slots, rows and barrier sets. -/
def State.dropGroups (s : State) (fn : Nat) : State :=
  let gone (o : Nat) : Bool := ((s.ownerGang o).map (fun c => c.fn == fn)).getD false
  let mine (gid : Nat) : Bool := ((s.groups.find gid).map (fun g => g.fn == fn)).getD false
  let s := (s.gangs.filter (fun e => e.2.fn == fn && e.2.status != .finished && !e.2.pending)).foldl (fun s e =>
    s.modCore (rectCore e.2.die e.2.row e.2.col e.2.w 0) (fun k => { k with cbarSets := k.cbarSets - 1 })) s
  let ls := Assoc.keys (s.launches.filter (fun e => e.2.fn == fn))
  { s with
    cores := s.cores.map (fun e => (e.1,
      { e.2 with slots := e.2.slots.map (fun o => if (o.map gone).getD false then none else o),
                 blocks := (e.2.blocks.map (fun b => (b.1, b.2.filter (fun o => !gone o)))).filter (fun b => !b.2.isEmpty) }))
    runs := s.runs.filter (fun e => !e.2.members.any (fun m => mine m.1))
    ops := s.ops.filter (fun e => !mine e.2.gid)
    home := s.home.filter (fun k => !((s.ops.find k).map (fun (o : VOp) => mine o.gid)).getD true)
    entries := s.entries.filter (fun e => !mine e.2.gid)
    bad := s.bad.filter (fun b => !mine b.gid)
    teams := s.teams.filter (fun e => !((s.gangs.find e.2.gang).map (fun c => c.fn == fn)).getD false)
    groups := s.groups.filter (fun e => e.2.fn != fn)
    gangs := s.gangs.filter (fun e => e.2.fn != fn)
    launches := s.launches.filter (fun e => e.2.fn != fn)
    parts := s.parts.map (fun e => (e.1,
      { e.2 with dq := e.2.dq.map (fun d => (d.1, d.2.filter (fun x => !ls.contains x))),
                 passes := e.2.passes.drop fn, allowance := e.2.allowance.drop fn, boosts := e.2.boosts.drop fn,
                 idle := e.2.idle.drop fn, running := if e.2.running = some fn then none else e.2.running })) }

/-- Its contexts, tables and save-pool directory are discarded. -/
def State.dropContexts (s : State) (fn : Nat) : State :=
  let s := (s.dirEntries fn).foldl (fun s e =>
    let a := (s.fn fn).pool + 32 * e.index
    { s with mem := s.mem.clear a (a + 32) }) s
  let ctxs := (Assoc.keys s.parts).map (fun p => p * 65 + fn)
  let s := ctxs.foldl State.releaseContext s
  { s with contexts := s.contexts.filter (fun e => e.1 % 65 != fn),
           quads := s.quads.map (fun e => (e.1, { e.2 with sets := e.2.sets.filter (fun c => c % 65 != fn) })) }

/-- Step 4: its commands stop where they stand and are discarded. -/
def State.dropCommands (s : State) (fn : Nat) : State :=
  { s with queues := s.queues.map (fun e =>
      let head := (e.2.cmds.head?.map (fun c => c.fn == fn)).getD false
      let bufs := (e.2.cmds.filter (fun c => c.fn == fn && c.drained)).map (fun c => natAt c.bytes 0x26 1 % 4)
      (e.1, { e.2 with cmds := e.2.cmds.filter (fun c => c.fn != fn), prog := if head then none else e.2.prog,
                       bufs := e.2.bufs.filter (fun b => !bufs.contains b.1) })) }

/-- A LEAVE for a lost member, to every other member of its collectives (20 R513). -/
def State.leaveLost (s : State) (fn part : Nat) : State :=
  let me := (s.pnode part, fn)
  (s.fabric.members.filter (fun m => m.fn == fn)).foldl (fun s m =>
    (m.members.filter (fun x => x != me)).foldl (fun s x =>
      let p : Packet :=
        { ndata := 0, last := true, dnode := x.1, dvf := x.2, svf := fn, snode := me.1, sq := 0, cause := 0x0E,
          domain := s.domain fn, seq := 0, addr := 0, len := 0, cmdtag := 0, rbar := 0,
          opx := 2 ^ 64 * m.coll, data := [], bad := [] }
      s.sendPkt part 6 .leave p) s) s

/-- A packet that waits to be injected is dropped, and gives back what it was granted. -/
def State.dropWaiting (s : State) (input : Nat) (x : InPacket) : State :=
  let s := match x.route with
    | some (out, vc) => if vc = 7 then s else
        s.modPort out (fun p => { p with far := p.far.plus ⟨x.lent, Vector.ofFn (fun i => if i.val = vc then x.pkt.flits - x.lent else 0)⟩ })
    | none => s
  s.modPort input (fun p => p.release x s.fabricCycle)

/-- Step 5: its packets still in egress are dropped (a later packet of a stream within the package passes them: log 96),
and its memberships are revoked. -/
def State.dropFabric (s : State) (fn : Nat) : State :=
  let part := ((s.fn fn).bound).getD 0
  let mine (p : Packet) : Bool := p.svf == fn && p.snode == s.pnode part
  let waiting := (s.port (injectPort part)).inq.filter (fun x => mine x.pkt && x.sent == 0)
  let boxed := s.fabric.localBox.filter (fun e => e.1 == part && mine e.2.2)
  let s := waiting.foldl (fun s x => s.dropWaiting (injectPort part) x) s
  let s := boxed.foldl (fun s e => if isRequest e.2.1 then s.packetGone e.2.2 0x0A else s) s
  let s := s.modFabric (fun x =>
    { x with localBox := x.localBox.filter (fun e => !boxed.contains e), cmds := x.cmds.filter (fun e => e.2.fn != fn) })
  let s := s.leaveLost fn part
  s.modFabric (fun x =>
    { x with members := x.members.filter (fun m => m.fn != fn), keptJoins := x.keptJoins.filter (fun j => j.1 != fn) })

/-- Step 6: modified tier-3 lines are written back. -/
def State.cleanHostLines (s : State) : State :=
  { s with lines := s.lines.map (fun e =>
      (e.1, if hostBase ≤ 128 * e.1 && !s.viral then { e.2 with dirty := false, l1Dirty := false } else e.2)) }

/-- The binding of a function in VFSCHED, the rest at reset (16 Table 16.3). -/
def Fn.boundOnly (f : Fn) : Dword := (Fn.reset.sched &&& 0x7FFFFFFFFC0) ||| (f.sched &&& 0x3F)

/-- Step 7: the registers of a function and its state in the management space take their reset values, and its translations
go; the reset of the physical function keeps bindings (19 Table 19.3). -/
def State.resetRegs (s : State) (fn : Nat) (keepBinding : Bool) : State :=
  let s := s.modFn fn (fun x => { Fn.reset with sched := if keepBinding then x.boundOnly else Fn.reset.sched, sent := x.sent })
  { s with tlb := s.tlb.filter (fun t => t.fn != fn), walkCache := s.walkCache.filter (fun t => t.fn != fn),
           walks := s.walks.filter (fun e => e.2.fn != fn), misses := s.misses.filter (fun m => m.fn != fn),
           ats := s.ats.filter (fun e => e.fn != fn), atsInvals := s.atsInvals.filter (fun e => e.fn != fn) }

/-- The function-level reset of one function. -/
def State.flr (s : State) (fn : Nat) (keepBinding : Bool) : State :=
  (((((((s.dropSubs fn).dropGroups fn).dropContexts fn).dropCommands fn).dropFabric fn).cleanHostLines).resetRegs fn keepBinding).wake

/-- VF_FLR. -/
def execVfFlr (fn : Nat) (s : State) : Host.Outcome State Fault Refusal := .next (if fn < pfId then s.flr fn false else s)

/-- The registers of the physical function's space at reset: bindings stay (19 Table 19.3). -/
def State.resetPfSpace (s : State) : State :=
  { s with
    pf := { State.reset.pf with sampled := s.pf.sampled }
    fns := s.fns.map (fun e => (e.1, { e.2 with sched := e.2.boundOnly, vfcq := 0, vffq := 0 }))
    dies := Vector.ofFn (fun i =>
      { s.dies[i] with pmcSel := Vector.replicate 8 0, pmcVal := Vector.replicate 8 0, rascnt := 0, d2dStall := Vector.replicate 2 0 })
    fabric := { s.fabric with ports := [], routes := [], pnode := [] } }

/-- PF_FLR: every function at once. -/
def execPfFlr (s : State) : Host.Outcome State Fault Refusal :=
  .next (((List.range 65).foldl (fun s fn => s.flr fn true) s).resetPfSpace)

end Sys2Proof.Machine
end

