-- ==== Sys2Proof/Machine/Partition.lean ====
section
/-! DEFINITION. Partition commands (16 R398, R429 to R432). -/

namespace Sys2Proof.Machine

open Sys2Proof

/-- Bits of two masks meet. -/
def masksMeet (a b : Nat) : Bool := a &&& b != 0

/-- A descriptor as PCARG holds it (16 Table 16.14). -/
def Part.ofArg (b : List Byte) : Part :=
  { slices := natAt b 0x04 4, hbmch := natAt b 0x40 64, ddrch := natAt b 0x08 2, fports := natAt b 0x20 18,
    cqmask := natAt b 0x10 8, fqmask := natAt b 0x18 4, yq := (natAt b 1 1).testBit 1, memmode := (natAt b 1 1).testBit 0,
    dieorder := natAt b 2 1, dq := [], passes := [], allowance := [], boosts := [], idle := [], history := [],
    running := none, nextFn := 0, ticked := 0, switchDue := false, throttled := false }

/-- PCARG as bytes. -/
def State.pcarg (s : State) : List Byte := s.pf.pcarg.readN 0 0x82

/-- Two partitions can stand side by side (16 R398). -/
def Part.apart (a b : Part) : Bool :=
  !masksMeet a.slices b.slices && !masksMeet a.fports b.fports && !masksMeet a.cqmask b.cqmask &&
    !masksMeet a.fqmask b.fqmask &&
    ((a.memmode && b.memmode) || (!masksMeet a.hbmch b.hbmch && !masksMeet a.ddrch b.ddrch))

/-- A descriptor keeps 16 R398: it has a slice, DIEORDER names every die with slices, and it meets no other partition. -/
def State.descriptorOk (s : State) (pid : Nat) (p : Part) : Bool :=
  p.slices != 0 && (List.range 4).all (fun d => p.dieSlices d == 0 || p.dies.contains d) &&
    s.parts.all (fun e => e.1 == pid || p.apart e.2)

/-- Fields of PCMD. -/
def cmdCode (c : Nat) : Nat := c % 2 ^ 8
/-- PID. -/
def cmdPid (c : Nat) : Nat := c / 2 ^ 8 % 2 ^ 5
/-- FORCE. -/
def cmdForce (c : Nat) : Bool := c.testBit 13
/-- NONE. -/
def cmdNone (c : Nat) : Bool := c.testBit 14
/-- VF. -/
def cmdVf (c : Nat) : Nat := c / 2 ^ 16 % 2 ^ 6

/-- Results of a command (16 Table 16.13). -/
def resOk : Nat := 0
/-- BUSY. -/
def resBusy : Nat := 1
/-- INVALID. -/
def resInvalid : Nat := 2
/-- UNPLACEABLE. -/
def resUnplaceable : Nat := 3

/-- The command returns: RESULT is written and DONE set. -/
def State.returns (s : State) (r : Nat) : State := { s with pf := { s.pf with pcmd := none, result := r } }.wake

/-- Perform the command in PCMD when its code is one of a list: one at a time, and only by a puppeteer that runs. -/
def State.command (s : State) (codes : Nat → Bool) (go : Nat → State) : State :=
  match s.pf.pcmd with
  | some c => if codes (cmdCode c) && !s.frozenPup then go c else s
  | none => s

/-- The gangs that a command affects: those of a condition that are not finished. -/
def State.affected (s : State) (p : Gang → Bool) : List Nat :=
  Assoc.keys (s.gangs.filter (fun e => p e.2 && e.2.status != .finished))

/-- Gangs written whole, one after the other; none when a pool has no room. -/
def State.writeAll (s : State) : List Nat → Option State
  | [] => some s
  | g :: gs =>
    match s.writeWhole g with
    | some s => s.writeAll gs
    | none => none

/-- The command returns; gangs of a list, and pending ones, that fit nowhere any more bring UNPLACEABLE (16 R426, R431). -/
def State.dropLost (s : State) (gs : List Nat) : State :=
  let lost := (s.affected (fun g => !s.gangCouldFit g)).filter (fun g =>
    gs.contains g || ((s.gangs.find g).map (fun c => c.pending)).getD false)
  ((Assoc.keys s.launches).foldl State.dropUnfit (lost.foldl State.giveUpGang s)).returns (if lost.isEmpty then resOk else resUnplaceable)

/-- With FORCE: affected gangs are halted, and once they are quiet written whole; then the change is made, and gangs that
fit nowhere bring UNPLACEABLE (16 R431). Without FORCE: BUSY. -/
def State.withHalted (s : State) (gs : List Nat) (force : Bool) (change : State → State) : State :=
  if gs.isEmpty then (change s).dropLost gs
  else if !force then s.returns resBusy
  else if gs.all (fun g => ((s.gangs.find g).map (fun c => c.isHalted && s.gangQuiet c)).getD true) then
    match s.writeAll gs with
    | none => s.returns resBusy
    | some s => (change s).dropLost gs
  else gs.foldl State.haltGang s

/-- The fabric queues of a mask start their streams anew, at endpoints of this package too (20 R507). -/
def State.giveFqs (s : State) (mask : Nat) : State :=
  let given (t : TxStream) : Bool := mask.testBit (8 * (t.q / 32) + t.q % 32 - 16)
  let same (node : Nat) (t : TxStream) (svf sq dnode dvf : Nat) : Bool :=
    node == dnode && svf == t.fn && sq == sqField t.q && dnode == t.dnode && dvf == t.dvf
  let own := s.fabric.tx.filter given
  let nodes := s.parts.map (fun e => s.pnode e.1)
  let restarts (snode svf sq dnode dvf : Nat) : Bool := nodes.contains snode && own.any (fun t => same snode t svf sq dnode dvf)
  s.modFabric (fun x =>
    { x with
      tx := x.tx.filter (fun t => !given t)
      rx := x.rx.filter (fun r => !restarts r.snode r.svf r.sq r.dnode r.dvf)
      gone := x.gone.filter (fun g => !restarts g.1.snode g.1.svf g.1.sq g.1.dnode g.1.dvf) })

/-- The write pointers of copy channels given to a partition are 0 (14 R374). -/
def State.giveCqs (s : State) (mask : Nat) : State :=
  { s with queues := s.queues.map (fun e =>
      if e.1 % 32 < 16 ∧ mask.testBit (16 * (e.1 / 32) + e.1 % 32) then (e.1, { e.2 with wp := 0 }) else e) }

/-- PART_CREATE; it also answers a code that Table 16.9 does not list. -/
def execPartCreate (s : State) : Host.Outcome State Fault Refusal :=
  .next (s.command (fun c => c == 1 || c == 0 || decide (6 < c)) (fun c =>
    let p := Part.ofArg s.pcarg
    let pid := cmdPid c
    if cmdCode c ≠ 1 ∨ natAt s.pcarg 0 1 ≠ pid ∨ (s.parts.find pid).isSome then s.returns resInvalid
    else if !s.descriptorOk pid p then s.returns resInvalid
    else
      let p := { p with ticked := s.reftime / 1000000 }
      ((({ s with parts := s.parts.set pid p }).giveFqs p.fqmask).giveCqs p.cqmask).returns resOk))

/-- The memory of a partition is scrubbed: its channels, or in shared-channel mode the frames its functions map. -/
def State.scrub (s : State) (pid : Nat) (p : Part) : State :=
  let ls := if p.memmode then (s.tenants pid).flatMap s.leaves else []
  let hit (a : Nat) : Bool := if p.memmode then ls.any (fun l => l.covers a 1) else p.owns a
  { s with mem := s.mem.filter (fun c => !hit c.1), poison := s.poison.filter (fun b => !hit (16 * b)) }

/-- Launches of a partition that are not placed can never be. -/
def State.dropUnplaced (s : State) (pid : Nat) : State :=
  (s.launches.filter (fun e => e.2.part == pid && !e.2.complete)).foldl (fun s e =>
    (s.modLaunch e.1 (fun l => { l with unplaceable := true, ranges := l.ranges.map (fun r => { r with front := r.back }) }))) s

/-- PART_DESTROY: its members are lost to their collectives, its memory is scrubbed and it is gone, with the contexts of
its tenants (02 R59). -/
def execPartDestroy (s : State) : Host.Outcome State Fault Refusal :=
  .next (s.command (fun c => c == 2) (fun c =>
    let pid := cmdPid c
    match s.parts.find pid with
    | none => s.returns resInvalid
    | some p =>
      s.withHalted (s.affected (fun g => g.part == pid)) (cmdForce c) (fun s =>
        let s := (s.tenants pid).foldl (fun s fn => s.dropFabric fn) s
        let s := ((s.dropUnplaced pid).relearnPart pid).scrub pid p
        { s with parts := s.parts.drop pid, contexts := s.contexts.filter (fun e => e.1 / 65 != pid),
                 quads := s.quads.map (fun e => (e.1, { e.2 with sets := e.2.sets.filter (fun c => c / 65 != pid) })) })))

/-- The new descriptor of a partition: MEMMODE and the schedulers' state stay. -/
def Part.resized (old new : Part) : Part :=
  { old with slices := new.slices, hbmch := new.hbmch, ddrch := new.ddrch, fports := new.fports, cqmask := new.cqmask,
             fqmask := new.fqmask, yq := new.yq, dieorder := new.dieorder }

/-- PART_RESIZE. -/
def execPartResize (s : State) : Host.Outcome State Fault Refusal :=
  .next (s.command (fun c => c == 3) (fun c =>
    let pid := cmdPid c
    match s.parts.find pid with
    | none => s.returns resInvalid
    | some old =>
      let new := old.resized (Part.ofArg s.pcarg)
      if natAt s.pcarg 0 1 ≠ pid ∨ !s.descriptorOk pid new then s.returns resInvalid
      else
        s.withHalted (s.affected (fun g => g.part == pid)) (cmdForce c) (fun s =>
          let moved := old.hbmch != new.hbmch || old.ddrch != new.ddrch
          let s := if moved then s.relearnPart pid else s
          let s := s.modPart pid (fun p =>
            { p.resized new with ticked := if p.oneDie then s.reftime / 1000000 else p.ticked })
          let s := (s.giveFqs (new.fqmask ^^^ (new.fqmask &&& old.fqmask))).giveCqs (new.cqmask ^^^ (new.cqmask &&& old.cqmask))
          if moved then s.relearnPart pid else s)))

/-- PART_MODE. -/
def execPartMode (s : State) : Host.Outcome State Fault Refusal :=
  .next (s.command (fun c => c == 4) (fun c =>
    let pid := cmdPid c
    let mode := (natAt s.pcarg 1 1).testBit 0
    match s.parts.find pid with
    | none => s.returns resInvalid
    | some p =>
      if !s.descriptorOk pid { p with memmode := mode } then s.returns resInvalid
      else
        s.withHalted (s.affected (fun g => g.part == pid)) (cmdForce c) (fun s =>
          ((s.relearnPart pid).modPart pid (fun p => { p with memmode := mode })).relearnPart pid)))

/-- A gang stands on a core. -/
def Gang.standsOn (g : Gang) (core : Nat) : Bool :=
  (List.range (g.w * g.h)).any (fun i => rectCore g.die g.row g.col g.w i == core)

/-- CORE_REMOVE. -/
def execCoreRemove (s : State) : Host.Outcome State Fault Refusal :=
  .next (s.command (fun c => c == 5) (fun c =>
    let core := natAt s.pcarg 0x80 2
    if 384 ≤ core then s.returns resInvalid
    else
      s.withHalted (s.affected (fun g => g.standsOn core && !g.pending)) (cmdForce c) (fun s =>
        s.modCore core (fun k => { k with removed := true }))))

/-- VF_BIND. -/
def execVfBind (s : State) : Host.Outcome State Fault Refusal :=
  .next (s.command (fun c => c == 6) (fun c =>
    let vf := cmdVf c
    let busy := ((s.fn vf).bound.map (fun p => s.hasWork p vf)).getD false
    if !cmdNone c && (s.parts.find (cmdPid c)).isNone then s.returns resInvalid
    else if busy then s.returns resBusy
    else
      (s.modFn vf (fun x =>
        x.setSched ((x.sched &&& 0x7FFFFFFFFC0) ||| (if cmdNone c then 0 else BitVec.ofNat 64 (2 ^ 5 + cmdPid c)))
          (s.reftime / 1000000))).returns resOk))

end Sys2Proof.Machine
end

