-- ==== Sys2Proof/Machine/Dispatch.lean ====
section
/-! DEFINITION. The dispatch: each instruction, command, packet and event to its meaning. -/

namespace Sys2Proof.Machine

open Sys2Proof

def exec (i : Instr) (s : State) : Host.Outcome State Fault Refusal :=
  match i with
  | .add f signed => Sys2Proof.Machine.execAdd f signed s
  | .addIt f m => Sys2Proof.Machine.execAddIt f m s
  | .addImm f => Sys2Proof.Machine.execAddImm f s
  | .sub f signed => Sys2Proof.Machine.execSub f signed s
  | .subIt f m => Sys2Proof.Machine.execSubIt f m s
  | .addc f cin cout => Sys2Proof.Machine.execAddc f cin cout s
  | .subb f cin cout => Sys2Proof.Machine.execSubb f cin cout s
  | .mul f signed => Sys2Proof.Machine.execMul f signed s
  | .mulIt f m => Sys2Proof.Machine.execMulIt f m s
  | .mulhi f signed => Sys2Proof.Machine.execMulhi f signed s
  | .mulhiIt f m => Sys2Proof.Machine.execMulhiIt f m s
  | .mad f c signed sat => Sys2Proof.Machine.execMad f c signed sat s
  | .madw f c signed => Sys2Proof.Machine.execMadw f c signed s
  | .div f signed => Sys2Proof.Machine.execDiv f signed s
  | .divIt f m => Sys2Proof.Machine.execDivIt f m s
  | .rem f signed => Sys2Proof.Machine.execRem f signed s
  | .remIt f m => Sys2Proof.Machine.execRemIt f m s
  | .min f signed => Sys2Proof.Machine.execMin f signed s
  | .minIt f m => Sys2Proof.Machine.execMinIt f m s
  | .max f signed => Sys2Proof.Machine.execMax f signed s
  | .maxIt f m => Sys2Proof.Machine.execMaxIt f m s
  | .abs f => Sys2Proof.Machine.execAbs f s
  | .absIt f m => Sys2Proof.Machine.execAbsIt f m s
  | .and f => Sys2Proof.Machine.execAnd f s
  | .or f => Sys2Proof.Machine.execOr f s
  | .xor f => Sys2Proof.Machine.execXor f s
  | .andn f => Sys2Proof.Machine.execAndn f s
  | .not f => Sys2Proof.Machine.execNot f s
  | .shl f => Sys2Proof.Machine.execShl f s
  | .shr f => Sys2Proof.Machine.execShr f s
  | .sar f => Sys2Proof.Machine.execSar f s
  | .shlImm d a n => Sys2Proof.Machine.execShlImm d a n s
  | .shrImm d a n => Sys2Proof.Machine.execShrImm d a n s
  | .sarImm d a n => Sys2Proof.Machine.execSarImm d a n s
  | .rotImm d a n => Sys2Proof.Machine.execRotImm d a n s
  | .rot f => Sys2Proof.Machine.execRot f s
  | .brev f => Sys2Proof.Machine.execBrev f s
  | .promaImm f => Sys2Proof.Machine.execPromaImm f s
  | .bfe f signed => Sys2Proof.Machine.execBfe f signed s
  | .bfi f c => Sys2Proof.Machine.execBfi f c s
  | .shf f c right => Sys2Proof.Machine.execShf f c right s
  | .popc f => Sys2Proof.Machine.execPopc f s
  | .clz f => Sys2Proof.Machine.execClz f s
  | .ctz f => Sys2Proof.Machine.execCtz f s
  | .proma f => Sys2Proof.Machine.execProma f s
  | .promv f => Sys2Proof.Machine.execPromv f s
  | .lea f h => Sys2Proof.Machine.execLea f h s
  | .leaLx f shift signed => Sys2Proof.Machine.execLeaLx f shift signed s
  | .add64 f => Sys2Proof.Machine.execAdd64 f s
  | .sub64 f => Sys2Proof.Machine.execSub64 f s
  | .shl64 f => Sys2Proof.Machine.execShl64 f s
  | .sad f => Sys2Proof.Machine.execSad f s
  | .dp4a f => Sys2Proof.Machine.execDp4a f s
  | .dp2a f => Sys2Proof.Machine.execDp2a f s
  | .dpxDotForms f op c sa sb sat => Sys2Proof.Machine.execDpxDotForms f op c sa sb sat s
  | .sel f p w64 => Sys2Proof.Machine.execSel f p w64 s
  | .icmp pd a b ra rb cmp width signed bop pcomb => Sys2Proof.Machine.execIcmp pd a b ra rb cmp width signed bop pcomb s
  | .pand pd a b => Sys2Proof.Machine.execPand pd a b s
  | .por pd a b => Sys2Proof.Machine.execPor pd a b s
  | .pxor pd a b => Sys2Proof.Machine.execPxor pd a b s
  | .mov f => Sys2Proof.Machine.execMov f s
  | .movmRead d n => Sys2Proof.Machine.execMovmRead d n s
  | .movmWrite a n ra => Sys2Proof.Machine.execMovmWrite a n ra s
  | .movi d imm => Sys2Proof.Machine.execMovi d imm s
  | .movhi d imm => Sys2Proof.Machine.execMovhi d imm s
  | .demoteFirst f => Sys2Proof.Machine.execDemoteFirst f s
  | .demoteChk f => Sys2Proof.Machine.execDemoteChk f s
  | .demoteaChk f => Sys2Proof.Machine.execDemoteaChk f s
  | .fadd f m => Sys2Proof.Machine.execFadd f m s
  | .faddFmod f m => Sys2Proof.Machine.execFaddFmod f m s
  | .fsub f m => Sys2Proof.Machine.execFsub f m s
  | .fsubFmod f m => Sys2Proof.Machine.execFsubFmod f m s
  | .fmul f m => Sys2Proof.Machine.execFmul f m s
  | .fmulFmod f m => Sys2Proof.Machine.execFmulFmod f m s
  | .ffma f c m => Sys2Proof.Machine.execFfma f c m s
  | .fmac f m => Sys2Proof.Machine.execFmac f m s
  | .fmacFmod f m => Sys2Proof.Machine.execFmacFmod f m s
  | .fmin f nan => Sys2Proof.Machine.execFmin f nan s
  | .fmax f nan => Sys2Proof.Machine.execFmax f nan s
  | .fneg f => Sys2Proof.Machine.execFneg f s
  | .fcmp pd a b ra rb cmp bop pcomb ftz => Sys2Proof.Machine.execFcmp pd a b ra rb cmp bop pcomb ftz s
  | .fclass f => Sys2Proof.Machine.execFclass f s
  | .hadd2 f bf => Sys2Proof.Machine.execHadd2 f bf s
  | .hadd2Hmod f bf m => Sys2Proof.Machine.execHadd2Hmod f bf m s
  | .hmul2 f bf => Sys2Proof.Machine.execHmul2 f bf s
  | .hmul2Hmod f bf m => Sys2Proof.Machine.execHmul2Hmod f bf m s
  | .hfma2 f bf c m => Sys2Proof.Machine.execHfma2 f bf c m s
  | .hmax2 f bf => Sys2Proof.Machine.execHmax2 f bf s
  | .fcvt f m => Sys2Proof.Machine.execFcvt f m s
  | .frnd f m => Sys2Proof.Machine.execFrnd f m s
  | .frndFmod f m => Sys2Proof.Machine.execFrndFmod f m s
  | .fscale f m => Sys2Proof.Machine.execFscale f m s
  | .fscaleFmod f m => Sys2Proof.Machine.execFscaleFmod f m s
  | .fexp2 f m => Sys2Proof.Machine.execFexp2 f m s
  | .flog2 f m => Sys2Proof.Machine.execFlog2 f m s
  | .frcp f m => Sys2Proof.Machine.execFrcp f m s
  | .frsqrt f m => Sys2Proof.Machine.execFrsqrt f m s
  | .fsqrt f m => Sys2Proof.Machine.execFsqrt f m s
  | .fdiv f m => Sys2Proof.Machine.execFdiv f m s
  | .fsin f m => Sys2Proof.Machine.execFsin f m s
  | .fcos f m => Sys2Proof.Machine.execFcos f m s
  | .ftanh f m => Sys2Proof.Machine.execFtanh f m s
  | .pack2 f bf => Sys2Proof.Machine.execPack2 f bf s
  | .pack2Cvx f m => Sys2Proof.Machine.execPack2Cvx f m s
  | .unpack2 f bf => Sys2Proof.Machine.execUnpack2 f bf s
  | .unpack2Cvx f m => Sys2Proof.Machine.execUnpack2Cvx f m s
  | .xclr x => Sys2Proof.Machine.execXclr x s
  | .xmov xd xs => Sys2Proof.Machine.execXmov xd xs s
  | .xadd x a ra bf => Sys2Proof.Machine.execXadd x a ra bf s
  | .xfma x a b ra rb => Sys2Proof.Machine.execXfma x a b ra rb s
  | .xrd d x m => Sys2Proof.Machine.execXrd d x m s
  | .xscan d x b rb m => Sys2Proof.Machine.execXscan d x b rb m s
  | .bra cond off => Sys2Proof.Machine.execBra cond off s
  | .brq neg off => Sys2Proof.Machine.execBrq neg off s
  | .jmp a ra => Sys2Proof.Machine.execJmp a ra s
  | .call cond off => Sys2Proof.Machine.execCall cond off s
  | .callr a ra => Sys2Proof.Machine.execCallr a ra s
  | .ret => Sys2Proof.Machine.execRet s
  | .exit => Sys2Proof.Machine.execExit s
  | .armj d a j => Sys2Proof.Machine.execArmj d a j s
  | .join j => Sys2Proof.Machine.execJoin j s
  | .waitj j => Sys2Proof.Machine.execWaitj j s
  | .yield => Sys2Proof.Machine.execYield s
  | .nop => Sys2Proof.Machine.execNop s
  | .bpt imm => Sys2Proof.Machine.execBpt imm s
  | .ld m off => Sys2Proof.Machine.execLd m off s
  | .ldMx m x => Sys2Proof.Machine.execLdMx m x s
  | .st m off => Sys2Proof.Machine.execSt m off s
  | .stMx m x => Sys2Proof.Machine.execStMx m x s
  | .lds m off => Sys2Proof.Machine.execLds m off s
  | .ldsMx m x => Sys2Proof.Machine.execLdsMx m x s
  | .sts m off => Sys2Proof.Machine.execSts m off s
  | .stsMx m x => Sys2Proof.Machine.execStsMx m x s
  | .ldc m off => Sys2Proof.Machine.execLdc m off s
  | .ldcMx m x => Sys2Proof.Machine.execLdcMx m x s
  | .stc m off => Sys2Proof.Machine.execStc m off s
  | .stcMx m x => Sys2Proof.Machine.execStcMx m x s
  | .atom m off x => Sys2Proof.Machine.execAtom m off x s
  | .fatom m off bf c => Sys2Proof.Machine.execFatom m off bf c s
  | .pref base la tk off => Sys2Proof.Machine.execPref base la tk off s
  | .prefMx base la tk off => Sys2Proof.Machine.execPrefMx base la tk off s
  | .ldwp m off => Sys2Proof.Machine.execLdwp m off s
  | .ldwpMx m off => Sys2Proof.Machine.execLdwpMx m off s
  | .qtok la tk => Sys2Proof.Machine.execQtok la tk s
  | .qpushP d p => Sys2Proof.Machine.execQpushP d p s
  | .qdepth d a => Sys2Proof.Machine.execQdepth d a s
  | .tbar a ra => Sys2Proof.Machine.execTbar a ra s
  | .lgetAbs f => Sys2Proof.Machine.execLgetAbs f s
  | .lgetBelow f => Sys2Proof.Machine.execLgetBelow f s
  | .lgetAbove f => Sys2Proof.Machine.execLgetAbove f s
  | .lgetBfly f => Sys2Proof.Machine.execLgetBfly f s
  | .pollEvery pd p j => Sys2Proof.Machine.execPollEvery pd p j s
  | .pollSome pd p j => Sys2Proof.Machine.execPollSome pd p j s
  | .pollMask d p j => Sys2Proof.Machine.execPollMask d p j s
  | .lead pd j => Sys2Proof.Machine.execLead pd j s
  | .lfold d a j m => Sys2Proof.Machine.execLfold d a j m s
  | .lsame d a j all la tk => Sys2Proof.Machine.execLsame d a j all la tk s
  | .tlp f => Sys2Proof.Machine.execTlp f s
  | .mmaBf16 m => Sys2Proof.Machine.execMmaBf16 m s
  | .mmaF16 m => Sys2Proof.Machine.execMmaF16 m s
  | .mmaE4m3 m => Sys2Proof.Machine.execMmaE4m3 m s
  | .mmaE5m2 m => Sys2Proof.Machine.execMmaE5m2 m s
  | .mmaE2m1 m => Sys2Proof.Machine.execMmaE2m1 m s
  | .mmaVq2 m => Sys2Proof.Machine.execMmaVq2 m s
  | .mmaI8 m => Sys2Proof.Machine.execMmaI8 m s
  | .mld x => Sys2Proof.Machine.execMld x s
  | .mst x => Sys2Proof.Machine.execMst x s
  | .mdrain x => Sys2Proof.Machine.execMdrain x s
  | .cbld x => Sys2Proof.Machine.execCbld x s
  | .actld x => Sys2Proof.Machine.execActld x s
  | .mzero a ra => Sys2Proof.Machine.execMzero a ra s
  | .mwait => Sys2Proof.Machine.execMwait s
  | .mtree a b ra rb => Sys2Proof.Machine.execMtree a b ra rb s
  | .mepi a ra wmask => Sys2Proof.Machine.execMepi a ra wmask s
  | .cbarArrive a ra => Sys2Proof.Machine.execCbarArrive a ra s
  | .cbarWait a ra => Sys2Proof.Machine.execCbarWait a ra s
  | .cbarArriveWait a ra => Sys2Proof.Machine.execCbarArriveWait a ra s
  | .push x => Sys2Proof.Machine.execPush x s
  | .gset g => Sys2Proof.Machine.execGset g s
  | .gclr g => Sys2Proof.Machine.execGclr g s
  | .barinit a b ra rb => Sys2Proof.Machine.execBarinit a b ra rb s
  | .bararr a b ra rb => Sys2Proof.Machine.execBararr a b ra rb s
  | .barwait x => Sys2Proof.Machine.execBarwait x s
  | .trap a ra => Sys2Proof.Machine.execTrap a ra s
  | .cclean a b ra rb => Sys2Proof.Machine.execCclean a b ra rb s
  | .pclass a b ra rb => Sys2Proof.Machine.execPclass a b ra rb s
  | .rtt => Sys2Proof.Machine.execRtt s
  | .halt => Sys2Proof.Machine.execHalt s
  | .sleep a ra => Sys2Proof.Machine.execSleep a ra s
  | .rdsr d n => Sys2Proof.Machine.execRdsr d n s
  | .wrsr a n => Sys2Proof.Machine.execWrsr a n s
  | .arbitration slot => Sys2Proof.Machine.execArbitration slot s
  | .loadComplete op lanes => Sys2Proof.Machine.execLoadComplete op lanes s
  | .queueFill op lanes => Sys2Proof.Machine.execQueueFill op lanes s
  | .storeComplete op => Sys2Proof.Machine.execStoreComplete op s
  | .atomicComplete op lanes => Sys2Proof.Machine.execAtomicComplete op lanes s
  | .qtokProduce op lanes => Sys2Proof.Machine.execQtokProduce op lanes s
  | .returnStackRefill slot => Sys2Proof.Machine.execReturnStackRefill slot s
  | .sfuComplete op lanes => Sys2Proof.Machine.execSfuComplete op lanes s
  | .xrdComplete op lanes => Sys2Proof.Machine.execXrdComplete op lanes s
  | .xscanComplete op lanes => Sys2Proof.Machine.execXscanComplete op lanes s
  | .lfoldComplete op lanes => Sys2Proof.Machine.execLfoldComplete op lanes s
  | .pushComplete op lanes => Sys2Proof.Machine.execPushComplete op lanes s
  | .barwaitPerformed op => Sys2Proof.Machine.execBarwaitPerformed op s
  | .sleepWake gid => Sys2Proof.Machine.execSleepWake gid s
  | .transitResume gid => Sys2Proof.Machine.execTransitResume gid s
  | .queueDeadlock gid => Sys2Proof.Machine.execQueueDeadlock gid s
  | .watchdog gid => Sys2Proof.Machine.execWatchdog gid s
  | .passReady entry => Sys2Proof.Machine.execPassReady entry s
  | .passGrant quad => Sys2Proof.Machine.execPassGrant quad s
  | .passPromotion entry => Sys2Proof.Machine.execPassPromotion entry s
  | .passComplete pass => Sys2Proof.Machine.execPassComplete pass s
  | .mzeroEntry entry => Sys2Proof.Machine.execMzeroEntry entry s
  | .mtreeEntry entry => Sys2Proof.Machine.execMtreeEntry entry s
  | .mldEntry entry => Sys2Proof.Machine.execMldEntry entry s
  | .mstEntry entry => Sys2Proof.Machine.execMstEntry entry s
  | .mdrainEntry entry => Sys2Proof.Machine.execMdrainEntry entry s
  | .tableLoadComplete entry => Sys2Proof.Machine.execTableLoadComplete entry s
  | .blockWaitRelease entry => Sys2Proof.Machine.execBlockWaitRelease entry s
  | .guardConsume q => Sys2Proof.Machine.execGuardConsume q s
  | .copy q bar src dst len => Sys2Proof.Machine.execCopy q bar src dst len s
  | .fill q bar dst len pattern => Sys2Proof.Machine.execFill q bar dst len pattern s
  | .tile q c => Sys2Proof.Machine.execTile q c s
  | .tileadd q c => Sys2Proof.Machine.execTileadd q c s
  | .gather q bar src idx dst pitch count rowbytes => Sys2Proof.Machine.execGather q bar src idx dst pitch count rowbytes s
  | .kvcommit q bar stage cache lenaddr maskaddr entbytes nslots cap => Sys2Proof.Machine.execKvcommit q bar stage cache lenaddr maskaddr entbytes nslots cap s
  | .signal q bar addr value mode decr => Sys2Proof.Machine.execSignal q bar addr value mode decr s
  | .vread q bar shape dst trows tcols vout => Sys2Proof.Machine.execVread q bar shape dst trows tcols vout s
  | .move q bar vaddr vf dtier frame => Sys2Proof.Machine.execMove q bar vaddr vf dtier frame s
  | .wssnap q bar dst len vf => Sys2Proof.Machine.execWssnap q bar dst len vf s
  | .put q c => Sys2Proof.Machine.execPut q c s
  | .get q c => Sys2Proof.Machine.execGet q c s
  | .send q c => Sys2Proof.Machine.execSend q c s
  | .atomic q c => Sys2Proof.Machine.execAtomic q c s
  | .reduceput q c => Sys2Proof.Machine.execReduceput q c s
  | .colljoin q c => Sys2Proof.Machine.execColljoin q c s
  | .collleave q c => Sys2Proof.Machine.execCollleave q c s
  | .putData port p => Sys2Proof.Machine.execPutData port p s
  | .getRequest port p => Sys2Proof.Machine.execGetRequest port p s
  | .sendPacket port p => Sys2Proof.Machine.execSendPacket port p s
  | .atomicPacket port p => Sys2Proof.Machine.execAtomicPacket port p s
  | .reduceputPacket port p => Sys2Proof.Machine.execReduceputPacket port p s
  | .joinPacket port p => Sys2Proof.Machine.execJoinPacket port p s
  | .leavePacket port p lost => Sys2Proof.Machine.execLeavePacket port p lost s
  | .ack port p => Sys2Proof.Machine.execAck port p s
  | .nack port p => Sys2Proof.Machine.execNack port p s
  | .getData port p => Sys2Proof.Machine.execGetData port p s
  | .atomicResult port p => Sys2Proof.Machine.execAtomicResult port p s
  | .fabricCommandComplete cmd => Sys2Proof.Machine.execFabricCommandComplete cmd s
  | .escape port vc => Sys2Proof.Machine.execEscape port vc s
  | .linkRetry port seq => Sys2Proof.Machine.execLinkRetry port seq s
  | .linkDown port => Sys2Proof.Machine.execLinkDown port s
  | .linkRetrain port => Sys2Proof.Machine.execLinkRetrain port s
  | .memberLost node vf => Sys2Proof.Machine.execMemberLost node vf s
  | .orderedAccess op => Sys2Proof.Machine.execOrderedAccess op s
  | .drain granule => Sys2Proof.Machine.execDrain granule s
  | .readonlyInvalidation granule => Sys2Proof.Machine.execReadonlyInvalidation granule s
  | .earlyClean line => Sys2Proof.Machine.execEarlyClean line s
  | .directoryEccError line classifier => Sys2Proof.Machine.execDirectoryEccError line classifier s
  | .walkComplete walk => Sys2Proof.Machine.execWalkComplete walk s
  | .atsCompletion fn page answer => Sys2Proof.Machine.execAtsCompletion fn page answer s
  | .priResponse fn page answer => Sys2Proof.Machine.execPriResponse fn page answer s
  | .atsInvalidate fn page pages => Sys2Proof.Machine.execAtsInvalidate fn page pages s
  | .hostRequest addr access => Sys2Proof.Machine.execHostRequest addr access s
  | .snoop line invalidate => Sys2Proof.Machine.execSnoop line invalidate s
  | .sqtail fn q tail => Sys2Proof.Machine.execSqtail fn q tail s
  | .launch fn q => Sys2Proof.Machine.execLaunch fn q s
  | .signalEntry fn q => Sys2Proof.Machine.execSignalEntry fn q s
  | .residencyGate part dq => Sys2Proof.Machine.execResidencyGate part dq s
  | .carouselPlace launch die => Sys2Proof.Machine.execCarouselPlace launch die s
  | .fallbackPlacement launch die => Sys2Proof.Machine.execFallbackPlacement launch die s
  | .launchComplete launch => Sys2Proof.Machine.execLaunchComplete launch s
  | .submissionComplete sub => Sys2Proof.Machine.execSubmissionComplete sub s
  | .schedulingDecision part => Sys2Proof.Machine.execSchedulingDecision part s
  | .quantumEnd gang => Sys2Proof.Machine.execQuantumEnd gang s
  | .tick part => Sys2Proof.Machine.execTick part s
  | .resumeInPlace gang => Sys2Proof.Machine.execResumeInPlace gang s
  | .wsSweep fn => Sys2Proof.Machine.execWsSweep fn s
  | .powerSample watts => Sys2Proof.Machine.execPowerSample watts s
  | .relockEnd die => Sys2Proof.Machine.execRelockEnd die s
  | .partCreate => Sys2Proof.Machine.execPartCreate s
  | .partDestroy => Sys2Proof.Machine.execPartDestroy s
  | .partResize => Sys2Proof.Machine.execPartResize s
  | .partMode => Sys2Proof.Machine.execPartMode s
  | .coreRemove => Sys2Proof.Machine.execCoreRemove s
  | .vfBind => Sys2Proof.Machine.execVfBind s
  | .tlbInvalidate fn => Sys2Proof.Machine.execTlbInvalidate fn s
  | .invalidationDone fn => Sys2Proof.Machine.execInvalidationDone fn s
  | .resume fn seq => Sys2Proof.Machine.execResume fn seq s
  | .kill fn seq => Sys2Proof.Machine.execKill fn seq s
  | .faultRecordAppend fn => Sys2Proof.Machine.execFaultRecordAppend fn s
  | .registerWrite fn off value => Sys2Proof.Machine.execRegisterWrite fn off value s
  | .llcTagError channel way => Sys2Proof.Machine.execLlcTagError channel way s
  | .uncontainedError => Sys2Proof.Machine.execUncontainedError s
  | .coldReset => Sys2Proof.Machine.execColdReset s
  | .pfFlr => Sys2Proof.Machine.execPfFlr s
  | .vfFlr fn => Sys2Proof.Machine.execVfFlr fn s
  | .powerGate die => Sys2Proof.Machine.execPowerGate die s
  | .firmwareViolation management clamp addr => Sys2Proof.Machine.execFirmwareViolation management clamp addr s
  | .linkTrained port => Sys2Proof.Machine.execLinkTrained port s
  | .forwardedPacket port vc t p room => Sys2Proof.Machine.execForwardedPacket port vc t p room s

end Sys2Proof.Machine
end

