-- ==== Sys2Proof/Machine/Time.lean ====
section
/-! DEFINITION. The passing of time: cycles of the dies, counts of deadlock, watchdog and fallback, event counters, and
what a stopped clock freezes (07 R182, R184; 14 R377, R383, R384; 19 R483). -/

namespace Sys2Proof.Machine

open Sys2Proof

/-- The group waits in a way that the watchdog counts: no cycle of a relock counts (14 R384; 15 R393; 19 R483). -/
def State.watched (s : State) (g : Group) : Bool :=
  let asleep (x : StreamState) : Bool := x.lanes.toList.all (fun l => l.exited || l.park.deadline.isSome)
  let live := !(g.sa.allExited && g.sc.allExited)
  live && !(asleep g.sa && asleep g.sc) && g.status == .running && g.pendingTrap.isNone &&
    ((s.gangs.find g.gang).map (fun c => c.status == .running)).getD false &&
    ((s.part g.part).map (fun p => !p.throttled && (p.oneDie || p.running == some g.fn))).getD false &&
    (List.range 4).all (fun d => !s.relocking d)

/-- The counts of a group over some cycles of its die: what it did since the last was in the first of them. The deadlock
count stands while the group is halted (07 R182). -/
def State.groupCycles (s : State) (gid n : Nat) (g : Group) : Group :=
  if n = 0 then g
  else
    { g with
      deadlock := if g.status ≠ .running then g.deadlock else if s.deadlocked gid g then g.deadlock + n else 0
      wdog := if g.progress then (if s.watched g then n - 1 else 0) else if s.watched g then g.wdog + n else g.wdog
      progress := false }

/-- The carousels' counts over some cycles of each die: one for each launch, so that a placement of another launch leaves
it alone (14 R377; log 132). -/
def State.launchCycles (s : State) (n : Nat → Nat) (id : Nat) (l : Launch) : Launch :=
  { l with ranges := l.ranges.map (fun r =>
      if n r.die = 0 then r else if s.fallbackWaits id r.die then { r with count := r.count + n r.die } else { r with count := 0 }) }

/-- The events that a stalled slot counts in each cycle (07 Table 7.2). -/
def State.stallCodes (s : State) (r : Run) : List Nat :=
  match r.members.findSome? (s.memberWait r) with
  | some .popEmpty =>
    (match r.instr with
     | some (.brq _ _) => [0x02, 0x04]
     | _ => [0x04])
  | some .pushFull => [0x05]
  | some .slip => [0x03]
  | some .lookahead => [0x07]
  | _ => []

/-- The cycles of a slot's collection among the next `n` of its die (07 R184, R199). -/
def State.collecting (s : State) (slot : Nat) (r : Run) (n : Nat) : Nat :=
  match r.ready with
  | some k =>
    let now := s.slotCycle slot
    if now + n ≤ k then 0 else Nat.min (now + n) (k + s.collectCycles slot r) - Nat.max now k
  | none => 0

/-- The counters of slots over some cycles of each die: collection, and what stalls them. -/
def State.stallCycles (s : State) (n : Nat → Nat) : State :=
  s.runs.foldl (fun t e =>
    let k := n (slotCore e.1 / 96)
    if k = 0 then t
    else (s.stallCodes e.2).foldl (fun t c => t.count (slotCore e.1) c k)
      (t.count (slotCore e.1) 0x06 (s.collecting e.1 e.2 k))) s

/-- A flit of a die waits for a die that relocks (14 R384; 15 R390). -/
def State.flitWaits (s : State) (d target : Nat) : Bool := s.relocking target && s.fifo.contains (d, target)

/-- D2DSTALL over some cycles of each die: the flits for the die across leave clockwise (log 101). -/
def State.bridgeCycles (s : State) (n : Nat → Nat) : State :=
  (List.range 4).foldl (fun t d =>
    let port0 := s.flitWaits d ((d + 1) % 4) || s.flitWaits ((d + 3) % 4) ((d + 1) % 4)
    let port1 := s.flitWaits d ((d + 3) % 4)
    t.modDie d (fun x =>
      { x with d2dStall := Vector.ofFn (fun i =>
          if (if i.val = 0 then port0 else port1) then (x.d2dStall[i] + n d) % 2 ^ 64 else x.d2dStall[i]) })) s

/-- Time passes, in which no clock stops or starts. -/
def State.lapse (s : State) (dt : Nat) : State :=
  let later : State := { s with units := s.units + dt }
  let n (d : Nat) : Nat := later.cyclesSince d - s.cyclesSince d
  let t := (s.stallCycles n).bridgeCycles n
  { t with
    units := s.units + dt
    groups := s.groups.map (fun e => (e.1, s.groupCycles e.1 (n e.2.die) e.2))
    launches := s.launches.map (fun e => (e.1, s.launchCycles n e.1 e.2)) }

/-- How long it is until the next clock stops or starts, if that is within `dt`. -/
def State.nextRelock (s : State) (dt : Nat) : Option Nat :=
  let times := s.dies.toList.flatMap (fun d => match d.relock with | some (t, _) => [relockStop t, t] | none => [])
  (times.filter (fun t => decide (s.units < t) && decide (t ≤ s.units + dt))).foldl (fun b t =>
    match b with
    | none => some (t - s.units)
    | some x => some (Nat.min x (t - s.units))) none

/-- Time passes, each clock stopping and starting at its moment: with four dies there are at most eight (14 R383). -/
def State.passClocks : State → Nat → Nat → State
  | s, 0, dt => s.lapse dt
  | s, fuel + 1, dt =>
    match s.nextRelock dt with
    | some t => ((List.range 4).foldl State.endRelock (s.lapse t)).passClocks fuel (dt - t)
    | none => s.lapse dt

/-- What ended runs have left due lands, and writes to team registers of past cycles are seen by all (03 R88; 07 R210). -/
def State.landPast (s : State) : State :=
  let dueIn (g : Group) (x : StreamState) : Bool := x.late.any (fun l => decide (l.due ≤ s.dieCycle g.die))
  let gids := Assoc.keys (s.groups.filter (fun e => dueIn e.2 e.2.sa || dueIn e.2 e.2.sc))
  let s1 := gids.foldl (fun t k =>
    match s.groups.find k with
    | some g => (t.landLate k .addr (s.dieCycle g.die)).landLate k .comp (s.dieCycle g.die)
    | none => t) s
  let s1 := if gids.isEmpty then s1 else s1.wake
  { s1 with teams := s1.teams.map (fun e => (e.1, if e.2.late.isEmpty then e.2 else e.2.settle (s1.dieCycle (e.2.core / 96)))) }

/-- Time passes. -/
def State.pass (s : State) (dt : Nat) : State := if dt = 0 then s else ((s.noteFabric.passClocks 8 dt).latchEscapes).landPast

/-! What a stopped clock freezes (14 R383, R384). -/

/-- The die of a group, if it exists. -/
def State.dieOf (s : State) (gid : Nat) : List Nat := ((s.groups.find gid).map Group.die).toList

/-- The die of a pending operation. -/
def State.opDies (s : State) (op : Nat) : List Nat :=
  match s.ops.find op with
  | some o => s.dieOf o.gid
  | none => []

/-- The die of a reservation-table entry. -/
def State.entryDies (s : State) (e : Nat) : List Nat := ((s.entries.find e).map (fun x => x.quad / 24)).toList

/-- The dies whose clocks an event needs. -/
def State.eventDies (s : State) (e : Instr) : List Nat :=
  match e with
  | .arbitration slot | .returnStackRefill slot => [slot / 6 / 96]
  | .loadComplete op _ | .queueFill op _ | .atomicComplete op _ | .qtokProduce op _ | .sfuComplete op _ | .xrdComplete op _
  | .xscanComplete op _ | .lfoldComplete op _ | .pushComplete op _ => s.opDies op
  | .storeComplete op | .barwaitPerformed op => s.opDies op
  | .passReady x | .passPromotion x | .mzeroEntry x | .mtreeEntry x | .mldEntry x | .mstEntry x | .mdrainEntry x
  | .tableLoadComplete x | .blockWaitRelease x => s.entryDies x
  | .passGrant q => [q / 24]
  | .passComplete p => ((s.passes.find p).map (fun x => x.quad / 24)).toList
  | .guardConsume q => [q / 32]
  | .drain g | .readonlyInvalidation g => [homeDie (4096 * g)]
  | .earlyClean line | .directoryEccError line _ => [homeDie (128 * line)]
  | .walkComplete w => ((s.walks.find w).map (fun x => x.die)).toList
  | .hostRequest a _ => [homeDie a]
  | .carouselPlace _ die | .fallbackPlacement _ die => [die]
  | _ => []

/-- An event waits for a clock. -/
def State.frozenEvent (s : State) (e : Instr) : Bool := (s.eventDies e).any (fun d => !s.clockRuns d)

end Sys2Proof.Machine
end

