-- ==== Sys2Proof/Machine/Run.lean ====
section
/-! DEFINITION. What one move does: a slot fetches, decodes and issues; a queue runs the command at its head; an event
takes place. With no agenda, a scheduler of the model's own chooses the next move (log 2). -/

namespace Sys2Proof.Machine

open Sys2Proof

/-! Slots (03 R72 to R76, R98). -/

/-- RTT outside trap mode and PCLASS outside system mode: ILLEGAL_OPCODE comes before a wrong operand field (03 R99;
17 R447, R451). -/
def modeRefuses (w : Word) (g : Group) : Bool :=
  ((fOp w).toNat == 0x79 && fM w == 0 && !g.trapMode) || ((fOp w).toNat == 0x78 && fM w == 2 && !g.sysMode)

/-- The groups of a run fault at its place, whose word does not decode (03 R85, R98). -/
def State.faultRun (s : State) (r : Run) (w : Word) (e : DecodeError) : State :=
  ((r.members.filterMap (s.ctx r)).foldl (fun s c =>
    s.takeFault r 1 c (.fault (FaultInfo.plain (if e.isOperand && !modeRefuses w c.g then .illegalOperand else .illegalOpcode)))) s).wake

/-- The address stream of a group of the run has arrived in this very cycle at the mask that ARMJ would arm: in such a
cycle ARMJ comes first (07 R203). -/
def State.armjLate (s : State) (r : Run) (i : Instr) : Bool :=
  match i with
  | .armj _ _ j => r.members.any (fun m => ((s.groups.find m.1).map (fun g => g.sa.joins.find j.toNat == some (s.dieCycle g.die + 1))).getD false)
  | _ => false

/-- What issuing gives, `s` being the machine before: in a cycle that freezes the slot nothing of its groups lands (03 R94). -/
def State.thaw (s : State) (slot : Nat) (r : Run) : Host.Outcome State Fault Refusal → Host.Outcome State Fault Refusal
  | .next t =>
    (match (t.runs.find slot).bind (fun x => x.stalled) with
     | some why => .next (({ t with groups := s.groups, teams := s.teams, bad := s.bad, runs := s.runs } : State).stall r why)
     | none => .next t)
  | x => x

/-- A slot in mid-clause issues its next instruction, once its operands are collected (07 R199), what is due having landed. -/
def State.issueNext (s : State) (slot : Nat) (r : Run) : Host.Outcome State Fault Refusal :=
  let t := s.arrive slot r
  match r.code with
  | [] => .next (({ s with cur := slot } : State).closeRun slot)
  | w :: ws =>
    match decodeWords w (ws.headD 0) with
    | .ok i => if t.armjLate r i then .next { t with held := true } else State.thaw s slot r (exec i t)
    | .error e => .next (t.faultRun r w e)

/-- A slot's turn. -/
def State.stepSlot (s : State) (slot : Nat) : Host.Outcome State Fault Refusal :=
  match s.runs.find slot with
  | none => .next s
  | some r =>
    if !s.clockRuns (slotCore slot / 96) || !s.collects slot r then .next s
    else if r.left = 0 then .next (s.nextClause slot)
    else s.issueNext slot r

/-! Queues (14 R353, R365). -/

/-- The kind of a queue's commands. -/
def queueKind (q : Nat) : Nat := if q % 32 < 16 then 0 else if q % 32 < 24 then 1 else 2

/-- The count of a command that does not decode: 0 when its OP is unknown or its count hangs on a shape record. -/
def badCount (kind : Nat) (bs : List Byte) : Int :=
  match kind, natAt bs 0 1 with
  | 0, 0x01 => natAt bs 0x20 8
  | 0, 0x02 => natAt bs 0x18 8
  | 0, 0x05 => (natAt bs 0x30 4 * natAt bs 0x34 4 : Nat)
  | 0, 0x06 => (natAt bs 0x34 1 * natAt bs 0x30 4 : Nat)
  | 0, 0x07 => signedOf 64 (natAt bs 0x28 8)
  | 1, 0x24 => 8
  | 1, 0x26 | 1, 0x27 => 1
  | 1, 0x21 | 1, 0x22 | 1, 0x23 | 1, 0x25 => natAt bs 0x14 4
  | 2, 0x11 => 65536
  | 2, 0x12 => (natAt bs 0x18 4 * 8 : Nat)
  | _, _ => 0

/-- A command that does not decode fails with BADCMD. -/
def State.failBad (s : State) (q : Nat) (bs : List Byte) : State :=
  s.runCommand q (fun s _ _ => .fail s 1 (badCount (queueKind q) bs) (natAt bs 8 8))

/-- A queue's turn. Fabric queues run on the fabric clock. -/
def State.stepQueue (s : State) (q : Nat) : Host.Outcome State Fault Refusal :=
  match s.headCmd q with
  | none => .next s
  | some c =>
    if queueKind q ≠ 1 ∧ !s.clockRuns (q / 32) then .next s
    else if c.guard ≠ 0 ∧ !c.started then exec (.guardConsume q) s
    else
      match decodeCommand q (queueKind q) c.drained c.bytes with
      | .ok i => exec i s
      | .error _ => .next (s.failBad q c.bytes)

/-! Events and the model's own moves. -/

/-- A command of an engine queue. -/
def isCommand : Instr → Bool
  | .copy .. | .fill .. | .tile .. | .tileadd .. | .gather .. | .kvcommit .. | .signal .. | .vread .. | .move .. | .wssnap ..
  | .put .. | .get .. | .send .. | .atomic .. | .reduceput .. | .colljoin .. | .collleave .. => true
  | _ => false

/-- What can take place as an event. -/
def isEvent (e : Instr) : Bool := !e.encoded && !isCommand e

/-- The host configures ATS and PRI of a function; enabling PRI ends a failure (17 R457). -/
def State.configAts (s : State) (fn : Nat) (ats pri : Bool) : State :=
  (s.modFn fn (fun x => { x with atsOn := ats, priOn := pri, priFailed := x.priFailed && !pri })).wake

/-- One move. -/
def State.move (s : State) (m : Move) : Host.Outcome State Fault Refusal :=
  match m with
  | .slot n => s.stepSlot n
  | .queue q => s.stepQueue q
  | .event e => if !isEvent e then .refused .agendaNotEvent else if s.frozenEvent e then .next s else exec e s
  | .soft t => .next (s.softError t)
  | .gateDie d => .next (s.requestGate d)
  | .atsConfig fn ats pri => .next (s.configAts fn ats pri)
  | .flitIn port f => .next (s.flitIn port f)
  | .flitOut port => .next (s.flitOut port)
  | .flitsTaken port n => .next ((s.flitsTaken port n).wake)
  | .laneLock port held => .next (s.laneLock port held)
  | .farSlots port far => .next (s.farSlots port far)
  | .packetGone p cause => .next ((s.packetGone p cause).wake)
  | .streamRestarts p => .next ((s.streamRestarts p).wake)
  | .recorder fn => .next (s.recorderMove fn)
  | .throttle part on => .next (s.throttle part on)
  | .stepClock d k => .next (s.stepClock d k)
  | .answerInvals => .next s.answerInvals

/-- What a move gives: a move that a replay holds, or that another must come before in its cycle, leaves the machine as it
was (07 R203; 19 R488). -/
def State.unlessHeld (s : State) : Host.Outcome State Fault Refusal → Host.Outcome State Fault Refusal
  | .next t => .next (if t.held then s else t)
  | x => x

/-! The scheduler of the model's own: the device's moves, in a fixed order; the host's and the links' come from the agenda
alone. -/

/-- An event that the scheduler may try: the dies whose clocks it needs, and what it does. -/
structure Trial where
  dies : List Nat
  act : State → Host.Outcome State Fault Refusal

/-- The trial of an event of the package, which needs no die's clock. -/
def anyDie (act : State → Host.Outcome State Fault Refusal) : Trial := ⟨[], act⟩

/-- Events of the pending operations. -/
def State.opMoves (s : State) : List Trial :=
  s.ops.flatMap (fun e =>
    let k := e.1
    let all : Word := BitVec.allOnes 32
    let ds := s.opDies k
    let on (act : State → Host.Outcome State Fault Refusal) : Trial := ⟨ds, act⟩
    [on (execOrderedAccess k), on (execLoadComplete k all), on (execQueueFill k all), on (execStoreComplete k),
     on (execAtomicComplete k all), on (execQtokProduce k all), on (execSfuComplete k all), on (execXrdComplete k all),
     on (execXscanComplete k all), on (execLfoldComplete k all), on (execPushComplete k all), on (execBarwaitPerformed k)] ++
    e.2.todo.flatMap (fun a =>
      if a.space = .phys then
        [⟨[homeDie a.addr], execDrain (granuleOf a.addr)⟩, ⟨[homeDie a.addr], execReadonlyInvalidation (granuleOf a.addr)⟩]
      else []))

/-- Events of the quads. -/
def State.quadMoves (s : State) : List Trial :=
  s.entries.flatMap (fun e =>
    ([execBlockWaitRelease e.1, execPassReady e.1, execPassGrant e.2.quad, execMzeroEntry e.1, execMtreeEntry e.1,
      execMldEntry e.1, execMstEntry e.1, execMdrainEntry e.1, execTableLoadComplete e.1]).map (fun f => ⟨[e.2.quad / 24], f⟩)) ++
  s.passes.map (fun e => ⟨[e.2.quad / 24], execPassComplete e.1⟩)

/-- Events of the groups and their slots. -/
def State.groupMoves (s : State) : List Trial :=
  s.groups.flatMap (fun e =>
    if e.2.status = .running then
      (List.range 6).map (fun i => ⟨[e.2.die], execArbitration (6 * e.2.core + i)⟩) ++
        [anyDie (execSleepWake e.1), anyDie (execTransitResume e.1), anyDie (execQueueDeadlock e.1), anyDie (execWatchdog e.1)]
    else []) ++
  s.runs.map (fun e => ⟨[slotCore e.1 / 96], execReturnStackRefill e.1⟩)

/-- A packet at a port, or one that never leaves the package (144), performed. -/
def deliverAt (port : Nat) (ty : PacketType) (p : Packet) (s : State) : Host.Outcome State Fault Refusal :=
  match ty with
  | .put => execPutData port p s
  | .getRequest => execGetRequest port p s
  | .send => execSendPacket port p s
  | .atomic => execAtomicPacket port p s
  | .reducePut => execReduceputPacket port p s
  | .join => execJoinPacket port p s
  | .leave => execLeavePacket port p (p.cause == 0x0E) s
  | .ack => execAck port p s
  | .nack => execNack port p s
  | .getData => execGetData port p s
  | .atomicResult => execAtomicResult port p s

/-- Events of the fabric: packets at the heads of inputs, flits that leave, links that fall, lost members. -/
def State.fabricMoves (s : State) : List Trial :=
  s.fabric.ports.flatMap (fun e =>
    e.2.inq.flatMap (fun x =>
      anyDie (execForwardedPacket e.1 x.vc x.ty x.pkt true) :: anyDie (execEscape e.1 x.vc) ::
        (if e.1 < 144 then [anyDie (deliverAt e.1 x.ty x.pkt)] else [])) ++
    [anyDie (fun t => .next (t.flitOut e.1)), anyDie (execLinkDown e.1)]) ++
  s.fabric.members.flatMap (fun m => m.away.map (fun a => anyDie (execMemberLost a.1.1 a.1.2)))

/-- Events of the memory system, of a function's rings and of the fabric. -/
def State.systemMoves (s : State) : List Trial :=
  s.walks.map (fun e => ⟨[e.2.die], execWalkComplete e.1⟩) ++
  s.fns.flatMap (fun e => [anyDie (execFaultRecordAppend e.1), anyDie (execInvalidationDone e.1), anyDie (execWsSweep e.1),
    anyDie (fun t => .next (t.recorderMove e.1))]) ++
  (List.range 4).flatMap (fun d => [anyDie (execRelockEnd d), anyDie (execPowerGate d)]) ++
  s.fabric.cmds.map (fun e => anyDie (execFabricCommandComplete e.1)) ++
  anyDie (fun t => .next t.answerInvals) :: s.fabric.localBox.map (fun e => anyDie (deliverAt 144 e.2.1 e.2.2)) ++ s.fabricMoves

/-- Events of launches and scheduling. -/
def State.launchMoves (s : State) : List Trial :=
  s.subs.map (fun e => anyDie (execSubmissionComplete e.1)) ++
  s.fns.flatMap (fun e =>
    (Assoc.keys e.2.sqs).flatMap (fun q => [anyDie (execLaunch e.1 q), anyDie (execSignalEntry e.1 q)])) ++
  s.launches.flatMap (fun e =>
    anyDie (execLaunchComplete e.1) ::
      (List.range 4).flatMap (fun d => [⟨[d], execCarouselPlace e.1 d⟩, ⟨[d], execFallbackPlacement e.1 d⟩])) ++
  s.gangs.flatMap (fun e => [anyDie (execResumeInPlace e.1), anyDie (execQuantumEnd e.1)]) ++
  s.parts.flatMap (fun e =>
    (List.range 8).map (fun n => anyDie (execResidencyGate e.1 n)) ++
      [anyDie (execSchedulingDecision e.1), anyDie (execTick e.1)]) ++
  ([execPartCreate, execPartDestroy, execPartResize, execPartMode, execCoreRemove, execVfBind]).map anyDie

/-- What a trial gives, when it changes more of the machine than which slots try again. -/
def Trial.result (t : Trial) (s : State) : Option (Host.Outcome State Fault Refusal) :=
  if t.dies.any (fun d => !s.clockRuns d) then none
  else
    match t.act s with
    | .next x => if x.held || x.wake = s.wake then none else some (.next x)
    | x => some x

/-- A queue's turn, when it changes the machine. -/
def State.queueTrials (s : State) : List Trial := s.queues.map (fun e => anyDie (fun t => t.stepQueue e.1))

/-- The move of the scheduler: a slot whose run may issue in this cycle, an event or a queue that changes something, or a
cycle of die 0 that passes. -/
def State.autoStep (s : State) : Host.Outcome State Fault Refusal :=
  match s.runs.findSome? (fun e =>
      if (e.2.stalled.isNone || e.2.woken) && s.clockRuns (slotCore e.1 / 96) && s.collects e.1 e.2 then
        (match s.stepSlot e.1 with
         | .next t => if t.held then none else some (.next t)
         | x => some x)
      else none) with
  | some x => x
  | none =>
    match (s.opMoves ++ s.quadMoves ++ s.systemMoves ++ s.groupMoves ++ s.launchMoves ++ s.queueTrials).findSome?
        (fun t => t.result s) with
    | some x => x
    | none => .next (s.pass (s.die 0).period)

/-- The next move takes place: the agenda's, or the scheduler's when the agenda is empty. -/
def State.advanceOne (s : State) : Host.Outcome State Fault Refusal :=
  match s.agenda with
  | t :: rest =>
    let s := ({ s with agenda := rest } : State).pass t.dt
    s.unlessHeld (s.move t.move)
  | [] => s.autoStep

/-! The machine about to run an instruction (log 1). -/

/-- The launch record of a group that runs one instruction; the stream that runs it owns every varying register. -/
def probeRec (base aregs : Nat) : LaunchRec :=
  { LaunchRec.of [] with codea := BitVec.ofNat 64 base, codec := BitVec.ofNat 64 base, vregs := 64, aregs := aregs, slip := 16,
                         rsdepth := 4, groups := 1, gangpw := 1, gangph := 1, gridn := 1 }

/-- Words that the address stream alone runs: opcodes of class MEM, PUSH and the barrier instructions. -/
def addrWord (w : Word) : Bool :=
  let op := (fOp w).toNat
  opClass op == some 2 || op == 0x70 || (0x72 ≤ op && op ≤ 0x74) || op == 0x41

/-- `s` with an instruction of `nbits` bits `w` (further bits 0) in memory, in a clause of its own on core 0 of die 0, and a
group of partition 0 and of function 0 whose slot has fetched that clause and stands at the instruction. -/
def State.placeWord (s : State) (nbits w : Nat) : State :=
  let base := 0x10000
  let lo : Word := BitVec.ofNat 32 (w % 2 ^ nbits)
  let st : Stream := if addrWord lo then .addr else .comp
  let slot := if st = .addr then 4 else 0
  let ext : Word := BitVec.ofNat 32 (w % 2 ^ nbits / 2 ^ 32)
  let code := if hasExt lo then [lo, ext] else [lo]
  let hdr := 0xF8000000 + (opClass (fOp lo).toNat).getD 0 * 16 + code.length
  let k := s.nextId
  let r := probeRec base (if st = .addr then 64 else 0)
  let l : Launch := ⟨r, 0, 0, 0, 0, [], [], true, 0, false, false, false⟩
  let gang : Gang := ⟨k, 0, 0, 0, 0, 0, 1, 1, false, 0, [k + 2], [k + 3], Vector.replicate 8 ⟨0, []⟩, 0, .running, false, [], []⟩
  let seat : Seat := ⟨0, 0, k, k + 1, k + 2, 0, 0, 0, 0, 0, 0, 0, 0⟩
  let p : Part := { Part.ofArg [] with slices := 1, hbmch := 1 }
  let run : Run :=
    { stream := st, members := [(k + 3, BitVec.allOnes 32)], pc := BitVec.ofNat 64 (base + 4), hdr := BitVec.ofNat 64 base,
      code := code, words := 0, cprn := 0, cpred := [], fresh := true, adv := 0, pinned := [], ends := false,
      ready := none, stalled := none, woken := true }
  { s with
    nextId := k + 4, cur := slot, agenda := [⟨0, .slot slot⟩], held := false
    mem := s.mem.writeN base (bytesOfNat 4 hdr ++ bytesOfNat 8 (w % 2 ^ nbits))
    poison := s.poison.filter (fun b => b < base / 16 || base / 16 < b)
    launches := s.launches.set k l, gangs := s.gangs.set (k + 1) gang,
    teams := s.teams.set (k + 2) (Team.start (k + 1) 0 0 0 0 []), groups := s.groups.set (k + 3) (Group.start r seat)
    runs := s.runs.set slot run, parts := s.parts.set 0 p
    fns := s.fns.set 0 { s.fn 0 with root := 1 }
    tlb := ⟨0, .last, 0, 1, base / 2 ^ 16, BitVec.ofNat 64 (base + 0x1F)⟩ ::
      s.tlb.filter (fun t => !t.maps 0 0 base) }

end Sys2Proof.Machine
end

