-- ==== Sys2Proof/Machine/Step.lean ====
section
/-! DEFINITION. One step of the machine, and the machine about to run a given instruction. -/

namespace Sys2Proof.Machine

open Sys2Proof

/-- One step: time passes, then one move takes place (log 2). -/
def step (s : State) : Host.Outcome State Fault Refusal := s.advanceOne

/-- `s` with an instruction stored where its next step fetches (log 1). -/
def State.withFetchWord (s : State) (nbits w : Nat) : State := s.placeWord nbits w

end Sys2Proof.Machine
end

