-- ==== Sys2Proof/Safety.lean ====
section
/-! DEFINITION. The terms in which claims about the machine are made: a bundle that issues with nothing in its way, the
state after it has, and the invariants that every step keeps. -/

namespace Sys2Proof.Machine

open Sys2Proof

/-- The current slot carries run `r`, its instruction sees the groups `cs`, and nothing stands in its way: no encoding
fault, no wait, no hazard, no undelivered fault, every queue ready (03 R99; 17 R437), no poison among its operands. -/
structure Going (s : State) (r : Run) (cs : List Ctx) (u : Uses) (lat : Ctx → Option Nat) : Prop where
  run : s.runs.find s.cur = some r
  groups : r.members.filterMap (s.ctx r) = cs
  some : cs ≠ []
  gate : ∀ c ∈ cs, s.gate u (lat c) c = none
  clean : ∀ c ∈ cs, s.poisoned u c = false

/-- What the groups of a bundle do, one after the other, each having issued. -/
def State.effects (s : State) (cs : List Ctx) (eff : Ctx → State → State) : State :=
  cs.foldl (fun s c => eff c ((s.countWindows c.gid c.st).markIssue c.gid c.st)) s

/-- What follows an instruction in its groups: a stream that ran ahead into a fault stops, faults are delivered, groups
halt or finish, waiting slots try again. -/
def State.after (s : State) (cs : List Ctx) : State := (cs.foldl (fun s c => (s.stopAhead c).afterWork c.gid) s).wake

/-- The state after an instruction of `words` words that transfers no control: the effects of its groups, and the slot
past it. -/
def State.afterIssue (s : State) (cs : List Ctx) (words : Nat) (pins : List Nat) (stop : Bool)
    (eff : Ctx → State → State) (post : State → State := fun s => s) : State :=
  ((post (s.effects cs eff)).advance s.cur words pins stop).after cs

/-- The state after a control transfer: `dest` says where each lane of a group goes on, none when it leaves the run. -/
def State.afterTransfer (s : State) (cs : List Ctx) (words : Nat) (pins : List Nat) (stop : Bool)
    (eff : Ctx → State → State) (dest : Ctx → Fin 32 → Option Dword) : State :=
  ((s.effects cs eff).transfer s.cur words pins stop (fun gid L =>
    ((cs.find? (fun c => c.gid == gid)).map (fun c => dest c L)).getD none)).after cs

/-- The state after every group of a bundle has faulted. -/
def State.afterFaults (s : State) (r : Run) (cs : List Ctx) (words : Nat) (v : Ctx → Verdict) : State :=
  (cs.foldl (fun s c => s.takeFault r words c (v c)) s).wake

/-! Fixed-latency instructions that compute a result in each lane. -/

/-- What such an instruction names, its latencies, and the value, predicate and flags of a lane from the values of its
sources and of its predicate sources. `ext` is how a result is extended to the base of an affine destination. -/
structure LaneRule where
  words : Nat
  uses : Uses
  row : LatRow
  pins : List (Operand × Bool) := []
  ext : Nat × Bool := (32, false)
  val : List Nat → List Bool → Nat := fun _ _ => 0
  pred : List Nat → List Bool → Bool := fun _ _ => false
  flags : List Nat → List Bool → Flags := fun _ _ => 0

/-- The uses, a dash of the latency row being an illegal type (05 R115). -/
def LaneRule.full (p : LaneRule) : Uses :=
  { p.uses with badType := p.uses.badType || (p.row.get p.uses.ty).isNone }

/-- The latency of the instruction's type (03 R87). -/
def LaneRule.latency (p : LaneRule) : Nat := (p.row.get p.uses.ty).getD 1

/-- An affine source meets an affine destination: 01 Table 1.6 applies, not the lanes' values. -/
def LaneRule.affine (p : LaneRule) : Bool :=
  match p.uses.dst with
  | some d => d.names != .zero && d.ty == .aff && p.uses.srcs.any (fun o => o.ty == .aff)
  | none => false

/-- The value of a lane. -/
def LaneRule.value (p : LaneRule) (c : Ctx) (L : Fin 32) : Nat := p.val (c.values p.uses L) (c.predValues p.uses L)

/-- The flags that a lane of a mask lands: those of a uniform result are those of the lowest lane (06 R145). -/
def LaneRule.laneFlags (p : LaneRule) (c : Ctx) (m : Word) (L : Fin 32) : Flags :=
  let M := if p.uses.ty = .uni then lowestLane m else L
  p.flags (c.values p.uses M) (c.predValues p.uses M)

/-- What the instruction writes in the lanes of a mask: its destination, its predicate, its flags. -/
def LaneRule.writes (p : LaneRule) (c : Ctx) (m : Word) : List RegWrite :=
  (match p.uses.dst with
   | some d =>
     (match d.names with
      | .a n => if m = 0 then [] else [.aReg n (word64 (readInt p.ext.1 p.ext.2 (p.value c (lowestLane m)))) 0]
      | _ => destWrites d m (p.value c))
   | none => []) ++
  (match p.uses.pdst with
   | n :: _ => predWrites n m (fun L => p.pred (c.values p.uses L) (c.predValues p.uses L))
   | [] => []) ++
  flagWrites c.st m (p.laneFlags c m)

/-- The instruction in one group: with no lane taking part it does nothing (03 R74); otherwise its queue operands are
popped and its writes land when its latency has passed (03 R88). -/
def LaneRule.effect (p : LaneRule) (c : Ctx) (s : State) : State :=
  if c.part p.full = 0 then s else s.issueFixed c p.full p.latency (p.writes c (c.part p.full))

/-- Instruction `i` issues as the rule says. -/
def Computes (i : Instr) (p : LaneRule) : Prop :=
  ∀ (s : State) (r : Run) (cs : List Ctx), Going s r cs p.full (fun _ => some p.latency) → p.affine = false →
    exec i s = .next (s.afterIssue cs p.words (pinRows p.pins) false p.effect)

/-- Instruction `i` with an affine destination and an affine source: base and stride come from those of the sources by
`f` (01 Table 1.6), and a stride out of range is refused by name (01 R37). -/
def ComputesAffine (i : Instr) (p : LaneRule) (f : List (Int × Int) → Int × Int) : Prop :=
  ∀ (s : State) (r : Run) (cs : List Ctx) (n : Nat) (d : Operand),
    Going s r cs p.full (fun _ => some p.latency) → p.affine = true → p.uses.dst = some d → d.names = .a n →
    (∀ c ∈ cs, c.part p.full ≠ 0) → (∀ c ∈ cs, strideOk (f (p.uses.srcs.map (c.affineOf p.ext))).2 = true) →
    exec i s = .next (s.afterIssue cs p.words (pinRows p.pins) false (fun c x =>
      let e := f (p.uses.srcs.map (c.affineOf p.ext))
      x.issueFixed c p.full p.latency [.aReg n (word64 e.1) e.2]))

/-- The rule of an instruction of one source of `n` bits; `closed` says that 01 Table 1.6 lists it, `bad` that its type is
refused. -/
def ruleUn (words : Nat) (d a : Code) (ra : Bool) (n : Nat) (sg : Bool) (row : LatRow) (val : Nat → Nat)
    (closed bad : Bool := false) : LaneRule :=
  { words := words, row := row, ext := (n, sg), pins := [(opInt n a, ra)]
    uses := { srcs := [opInt n a], dst := some (opInt n d), closed := closed, badType := bad }
    val := fun v _ => val (v.getD 0 0) }

/-- The rule of an instruction of two sources of `n` bits. -/
def ruleBin (words : Nat) (f : F3) (n : Nat) (sg : Bool) (row : LatRow) (val : Nat → Nat → Nat)
    (closed bad : Bool := false) : LaneRule :=
  { words := words, row := row, ext := (n, sg), pins := [(opInt n f.a, f.ra), (opInt n f.b, f.rb)]
    uses := { srcs := [opInt n f.a, opInt n f.b], dst := some (opInt n f.d), closed := closed, badType := bad }
    val := fun v _ => val (v.getD 0 0) (v.getD 1 0) }

/-- The rule of an instruction of three sources: A and B of `n` bits, C and D of `w`. -/
def ruleTri (words : Nat) (f : F3) (c : Code) (n w : Nat) (sg : Bool) (row : LatRow) (val : Nat → Nat → Nat → Nat)
    (bad : Bool := false) : LaneRule :=
  { words := words, row := row, ext := (w, sg), pins := [(opInt n f.a, f.ra), (opInt n f.b, f.rb)]
    uses := { srcs := [opInt n f.a, opInt n f.b, opInt w c], dst := some (opInt w f.d), badType := bad }
    val := fun v _ => val (v.getD 0 0) (v.getD 1 0) (v.getD 2 0) }

/-- The latencies of ADD and its row of 03 Table 3.6. -/
def rowAdd : LatRow := ⟨some 2, some 2, some 1⟩
/-- MUL and its row. -/
def rowMul : LatRow := ⟨some 4, some 2, some 1⟩
/-- DIV and REM. -/
def rowDiv : LatRow := ⟨some 8, none, some 8⟩
/-- FADD and its row. -/
def rowFadd : LatRow := ⟨some 4, none, some 1⟩

/-- The rule of a dot product or a sum of differences with addend `c`, which is D itself where `readD` says so (05 R132). -/
def ruleDot (words : Nat) (f : F3) (c : Code) (readD : Bool) (op : DotOp) (sa sb sat : Bool) : LaneRule :=
  { words := words, row := rowMul, ext := (32, sa || sb), pins := [(op32 f.a, f.ra), (op32 f.b, f.rb)]
    uses := { srcs := [op32 f.a, op32 f.b, op32 c], dst := some (op32 f.d),
              badType := sat && affineDst { srcs := [op32 f.a, op32 f.b, op32 c], dst := some (op32 f.d) },
              badOperand := readD && (match codeNames f.d with | .q _ => true | _ => false) }
    val := fun v _ => satInt 32 (sa || sb) sat (readInt 32 (sa || sb) (v.getD 2 0) + dotSum op sa sb (v.getD 0 0) (v.getD 1 0)) }

/-- The rule of PAND, POR and PXOR. -/
def rulePred (pd : BitVec 3) (a b : PredRef) (g : Bool → Bool → Bool) : LaneRule :=
  { words := 1, row := ⟨some 1, some 1, some 1⟩, uses := { preds := [a, b], pdst := [pd.toNat] }
    pred := fun _ p => g (p.getD 0 false) (p.getD 1 false) }

/-! Fixed-latency instructions whose lanes need more than their own operands. -/

/-- What a rule's instruction writes when lane by lane it gives `out`. -/
def LaneRule.writesOf (p : LaneRule) (c : Ctx) (m : Word) (out : Fin 32 → LaneOut) : List RegWrite :=
  (match p.uses.dst with
   | some d =>
     (match d.names with
      | .a n =>
        if m = 0 then [] else [.aReg n (word64 (readInt p.ext.1 p.ext.2 (out (lowestLane m)).val)) (out (lowestLane m)).stride]
      | _ => destWrites d m (fun L => (out L).val))
   | none => []) ++
  (match p.uses.pdst with
   | n :: _ => predWrites n m (fun L => (out L).pred)
   | [] => []) ++
  flagWrites c.st m (fun L => (out (if p.uses.ty = .uni then lowestLane m else L)).flags)

/-- Instruction `i` issues, its groups meeting `ok`, with the results `out` of the lanes that take part. -/
def ComputesWhen (i : Instr) (p : LaneRule) (ok : Ctx → Word → Prop) (out : Ctx → Word → Fin 32 → LaneOut) : Prop :=
  ∀ (s : State) (r : Run) (cs : List Ctx), Going s r cs p.full (fun _ => some p.latency) → p.affine = false →
    (∀ c ∈ cs, c.part p.full ≠ 0 → ok c (c.part p.full)) →
    exec i s = .next (s.afterIssue cs p.words (pinRows p.pins) false (fun c x =>
      if c.part p.full = 0 then x
      else (x.issueFixed c p.full p.latency (p.writesOf c (c.part p.full) (out c (c.part p.full)))).modGroup c.gid
        (fun g => g.step (c.part p.full) (out c (c.part p.full)))))

/-- Instruction `i` raises a fault of a cause in every group of its bundle: none of it happens. -/
def FaultsWhen (i : Instr) (p : LaneRule) (bad : Ctx → Word → Prop) (cause : Cause) : Prop :=
  ∀ (s : State) (r : Run) (cs : List Ctx), Going s r cs p.full (fun _ => some p.latency) → p.affine = false →
    (∀ c ∈ cs, c.part p.full ≠ 0 ∧ bad c (c.part p.full)) →
    exec i s = .next (s.afterFaults r cs p.words (fun _ => .fault (FaultInfo.plain cause)))

/-! Variable-latency instructions (03 R91 to R93). -/

/-- Instruction `i` becomes a pending instruction of its groups, with the results `out`; `also` is what it does at issue. -/
def Starts (i : Instr) (words : Nat) (u : Uses) (pins : List (Operand × Bool)) (kind : OpKind) (la : BitVec 4)
    (tk : BitVec 3) (out : Ctx → Fin 32 → LaneOut) (also : Ctx → State → State := fun _ x => x) : Prop :=
  ∀ (s : State) (r : Run) (cs : List Ctx), Going s r cs u (fun _ => none) →
    (∀ c ∈ cs, s.varWait c (c.part u) tk.toNat = none) →
    exec i s = .next (s.afterIssue cs words (pinRows pins) false (fun c x =>
      if c.part u = 0 then x else also c (x.startCompute c u kind la tk (out c))))

/-- Instruction `i` has effect `eff` in the groups of its bundle, which meet `ok`. -/
def Acts (i : Instr) (words : Nat) (u : Uses) (lat : Option Nat) (pins : List (Operand × Bool)) (stop : Bool)
    (ok : State → Ctx → Prop) (eff : State → Ctx → State → State) (post : State → State := fun s => s) : Prop :=
  ∀ (s : State) (r : Run) (cs : List Ctx), Going s r cs u (fun _ => lat) → (∀ c ∈ cs, ok s c) →
    exec i s = .next (s.afterIssue cs words (pinRows pins) stop (eff s) post)

/-- Instruction `i` transfers control: effect `eff`, and where each lane goes on. -/
def Transfers (i : Instr) (u : Uses) (ok : State → Ctx → Prop)
    (eff : State → Ctx → State → State) (dest : State → Ctx → Fin 32 → Option Dword) (pins : List (Operand × Bool) := []) : Prop :=
  ∀ (s : State) (r : Run) (cs : List Ctx), Going s r cs u (fun _ => none) → (∀ c ∈ cs, ok s c) →
    exec i s = .next (s.afterTransfer cs 1 (pinRows pins) false (eff s) (dest s))

/-- The rule of a floating-point instruction: value and flags of a lane from its sources. -/
def ruleFp (words : Nat) (srcs : List (Code × Bool)) (extra : List Code) (d : Code) (fn : List Nat → Nat × Flags)
    (badOperand : Bool := false) : LaneRule :=
  { words := words, row := rowFadd, pins := srcs.map (fun e => (op32 e.1, e.2))
    uses := { srcs := srcs.map (fun e => op32 e.1) ++ extra.map op32, dst := some (op32 d), badOperand := badOperand }
    val := fun v _ => (fn v).1, flags := fun v _ => (fn v).2 }

/-- The sources of F3 with their reuse bits. -/
def srcs3 (f : F3) : List (Code × Bool) := [(f.a, f.ra), (f.b, f.rb)]

/-- D names a queue. -/
def isQueue (c : Code) : Bool := match codeNames c with | .q _ => true | _ => false

/-- Every target is the header of a clause, as far as it can be read (03 R73). -/
def State.goodTargets (s : State) (c : Ctx) (ts : List Dword) : Prop := ∀ pc ∈ ts, s.checkTarget c.g s.cur pc = .good

/-- As `Acts`, for an instruction whose operands hang on the mode or the latch of the group that issues. -/
def ActsIn (i : Instr) (words : Nat) (u : State → Uses) (lat : State → Option Nat) (pins : List (Operand × Bool))
    (ok : State → Ctx → Prop) (eff : State → Ctx → State → State) : Prop :=
  ∀ (s : State) (r : Run) (cs : List Ctx), Going s r cs (u s) (fun _ => lat s) → (∀ c ∈ cs, ok s c) →
    exec i s = .next (s.afterIssue cs words (pinRows pins) false (eff s))

/-! Return stacks. -/

/-- The lanes of a list whose return stack is full. -/
def Ctx.fullStacks (c : Ctx) (ls : List (Fin 32)) : List (Fin 32) :=
  ls.filter (fun L => decide (c.g.cfg.rsdepth ≤ ((c.g.stream c.st).lanes[L]).rstack.length))

/-- Where the oldest entries of full stacks are spilled, as far as that can be done (07 R206). -/
def State.spills (s : State) (c : Ctx) (ls : List (Fin 32)) : Except Verdict (List (Fin 32 × Nat)) :=
  s.stackAccesses c .write (fun L => overlap (c.g.spillAddr c.st L, 8) (c.g.spillRegion c.st.other L))
    ((c.fullStacks ls).map (fun L => (L, c.g.spillAddr c.st L)))

/-- The place of a lane's spill. -/
def spillOf (x : Except Verdict (List (Fin 32 × Nat))) (L : Fin 32) : Option Nat :=
  match x with
  | .ok ps => (ps.find? (fun p => p.1 == L)).map Prod.snd
  | .error _ => none

/-- Return addresses are pushed in the lanes of a list. -/
def State.pushAll (s : State) (c : Ctx) (ls : List (Fin 32)) (x : State) : State :=
  ls.foldl (fun y L => y.pushReturn c (c.pc + 4) L (spillOf (s.spills c ls) L)) x

/-! Memory instructions. -/

/-- The memory instruction that a form is, with its number of words (08 R223 to R240). -/
def memOf : Instr → Option (Nat × MemInstr)
  | .ld m o => some (1, memShort .global .load m o)
  | .ldMx m x => some (2, memLong .global .load m x)
  | .st m o => some (1, memShort .global .store m o)
  | .stMx m x => some (2, memLong .global .store m x)
  | .lds m o => some (1, memShort (.scratch false) .load m o)
  | .ldsMx m x => some (2, memLong (.scratch x.win) .load m x)
  | .sts m o => some (1, memShort (.scratch false) .store m o)
  | .stsMx m x => some (2, memLong (.scratch x.win) .store m x)
  | .ldc m o => some (1, memShort .remote .load m o)
  | .ldcMx m x => some (2, memLong .remote .load m x)
  | .stc m o => some (1, memShort .remote .store m o)
  | .stcMx m x => some (2, memLong .remote .store m x)
  | .atom m o x => let n := if x.w64 then 8 else 4
    some (2, ⟨.global, .atom x.aop x.signed, m, n, o.toInt * n, ⟨2, false, false, 0⟩, x.c, x.e, 2⟩)
  | .fatom m o bf c => some (2, ⟨.global, .fatom bf, m, 4, o.toInt * 4, ⟨2, false, false, 0⟩, c, 0x78, 2⟩)
  | .pref b la tk o => some (1, ⟨.global, .pref, ⟨0x78, b, la, tk⟩, 128, o.toInt * 128, ⟨0, false, false, 0⟩, 0x78, 0x78, 1⟩)
  | .prefMx b la tk o => some (2, ⟨.global, .pref, ⟨0x78, b, la, tk⟩, 128, o.toInt, ⟨0, false, false, 0⟩, 0x78, 0x78, 2⟩)
  | .ldwp m o => some (1, ⟨.wptr, .load, m, 8, o.toInt * 8, ⟨3, false, false, 0⟩, 0x78, 0x78, 1⟩)
  | .ldwpMx m o => some (2, ⟨.wptr, .load, m, 8, o.toInt, ⟨3, false, false, 0⟩, 0x78, 0x78, 2⟩)
  | _ => none

/-- The address of a lane (08 R225). -/
def MemInstr.laneAddr (i : MemInstr) (c : Ctx) (L : Fin 32) : Nat := i.addr ((c.values i.uses L).getD 0 0)

/-- Where a lane's address leads (08 R225, R234, R235, R239; 17 R437). -/
def MemInstr.lanePlace (i : MemInstr) (s : State) (c : Ctx) (L : Fin 32) : LanePlace := s.place c i (i.laneAddr c L)

/-- The accesses of a group: one for each lane that performs one. -/
def MemInstr.accesses (i : MemInstr) (s : State) (c : Ctx) : List LaneAccess :=
  (i.lanes c.act).filterMap (fun L => match i.lanePlace s c L with
    | .at sp k => some { lane := L, space := sp, addr := k, va := i.laneAddr c L, size := i.size,
                         act := i.actOf (c.values i.uses L) }
    | _ => none)

/-- Nothing stops a memory instruction in a group: every address leads somewhere, no ordered access is outstanding, no
drain point and no full counter is met. -/
structure MemReady (s : State) (i : MemInstr) (c : Ctx) : Prop where
  ordered : s.orderedOutstanding c.gid = false
  placed : ∀ L ∈ i.lanes c.act, ∃ sp k, i.lanePlace s c L = .at sp k
  drained : ∀ a ∈ i.accesses s c, a.space = .phys → s.atDrainPoint c.g.core a.addr = false
  room : s.varWait c c.act i.m.tk.toNat = none

/-! Completions. -/

/-- The value that a list of writes leaves in an element of a varying register, if one of them names it. -/
def lastV (ws : List RegWrite) (n : Nat) (L : Fin 32) : Option Word :=
  ws.reverse.findSome? (fun w => match w with
    | .vElem k M x => if k = n ∧ M = L then some x else none
    | _ => none)

/-- The value that a list of writes leaves in a uniform register, if one of them names it. -/
def lastK (ws : List RegWrite) (n : Nat) : Option Word :=
  ws.reverse.findSome? (fun w => match w with
    | .kReg k x => if k = n then some x else none
    | _ => none)

/-- The value that a list of writes leaves in an affine register, if one of them names it. -/
def lastA (ws : List RegWrite) (n : Nat) : Option Affine :=
  ws.reverse.findSome? (fun w => match w with
    | .aReg k b st => if k = n then some ⟨b, BitVec.ofInt 16 st⟩ else none
    | _ => none)

/-- The value that a list of writes leaves in a predicate in a lane, if one of them names it. -/
def lastP (ws : List RegWrite) (n : Nat) (L : Fin 32) : Option Bool :=
  ws.reverse.findSome? (fun w => match w with
    | .pBit k M b => if k = n ∧ M = L then some b else none
    | _ => none)

/-- The value that a list of writes leaves in a team register, if one of them names it. -/
def lastM (ws : List RegWrite) (n : Nat) : Option Word :=
  ws.reverse.findSome? (fun w => match w with
    | .mReg k x => if k = n then some x else none
    | _ => none)

/-- The flags that a list of writes raises in a lane. -/
def flagsIn (ws : List RegWrite) (L : Fin 32) : Flags :=
  ws.foldl (fun f w => match w with
    | .flags M x => if M = L then f ||| x else f
    | _ => f) 0

/-- Writes have landed in a group's registers: the last write to an element, a register or a predicate holds, what none names
is as before, p0 is true, and raised flags join FPSTAT (01 R22, R29; 03 R88, R89). -/
structure Landed (g h : Group) (ws : List RegWrite) : Prop where
  varying : ∀ (n : Nat) (L : Fin 32), n < 64 → h.vElem n L = (lastV ws n L).getD (g.vElem n L)
  uniform : ∀ n : Fin 32, h.k[n] = (lastK ws n.val).getD g.k[n]
  affine : ∀ n : Fin 16, h.a[n] = (lastA ws n.val).getD g.a[n]
  preds : ∀ (n : Nat) (L : Fin 32), 0 < n → n < 8 → h.pred n L = (lastP ws n L).getD (g.pred n L)
  true_ : ∀ L, h.pred 0 L = true
  fpstat : ∀ L : Fin 32, h.fpstat[L] = g.fpstat[L] ||| (flagsIn ws L).setWidth 32

/-- A write of a result to a group's own registers and predicates, or of its flags. -/
def RegWrite.own : RegWrite → Bool
  | .vElem .. | .kReg .. | .aReg .. | .pBit .. | .flags .. => true
  | _ => false

/-- What the results of a pending instruction write. -/
def VOp.resultWrites (o : VOp) : List RegWrite := o.results.flatMap (fun r => r.writes)

/-- Pending instruction `o` of group `g` has nothing left but to write its results: every access is performed, no poison
was met, and nothing else happens to the group when it is gone. -/
structure OpDone (s : State) (op : Nat) (o : VOp) (g : Group) : Prop where
  found : s.ops.find op = some o
  performed : o.todo = []
  group : s.groups.find o.gid = some g
  running : g.status = .running
  untrapped : g.pendingTrap = none
  live : (g.sa.allExited && g.sc.allExited) = false
  unkilled : ∀ e ∈ s.groups, e.2.killed = false
  clean : o.poisoned = none ∧ ∀ r ∈ o.results, r.poison = none
  own : ∀ w ∈ o.resultWrites ++ o.flags, w.own = true

/-- Instruction `o` of group `g` has completed with writes `ws`: it is pending no more, its counter counts one less (03
R91, R93), each register and predicate holds the last write to it and FPSTAT the flags, each reserved entry of its queue its value in reservation order
(07 R179), and memory is as before. -/
def OpEnds (s : State) (op : Nat) (o : VOp) (g : Group) (ws : List RegWrite) (t : State) : Prop :=
  t.ops.find op = none ∧ t.mem = s.mem ∧ ∃ h, t.groups.find o.gid = some h ∧ h.progress = true ∧
    (h.stream o.stream).count o.tk = (g.stream o.stream).count o.tk - 1 ∧
    Landed g h ws ∧
    (∀ (q : Nat) (L : Fin 32), h.entries q L =
      if o.queue = some q then
        o.results.foldl (fun es r => if r.lane = L then fillEntries op es r.entries else es) (g.entries q L)
      else g.entries q L)

/-! Requests to a quad's reservation table. -/

/-- Instruction `i` makes a request of `n` entries: in groups that meet `ok`, with room in the table and among the pending
instructions, the instruction becomes pending with entries `es`; `pre` and `post` are what else it does. One that is not
`counted` is no variable-latency instruction (03 R91, R92): it does not wait for a place among them. -/
def Requests (i : Instr) (words : Nat) (u : State → Uses) (pins : List (Operand × Bool)) (la : BitVec 4) (tk : BitVec 3)
    (n : Ctx → Nat) (ok : State → Ctx → Prop) (es : State → Ctx → State → List REntry)
    (pre : Ctx → State → State := fun _ x => x) (post : State → Ctx → State → State → State := fun _ _ _ x => x)
    (counted : Bool := true) : Prop :=
  ActsIn i words u (fun _ => none) pins
    (fun s c => c.act ≠ 0 → ok s c ∧ n c ≤ s.tableRoom c.g.quad ∧ (counted = true → s.varWait c c.act tk.toNat = none))
    (fun s c x => if c.act = 0 then x
      else post s c x ((pre c x).submit c { VOp.start x c (u s) .request la tk with counted := counted } (es s c x)))

/-! Commands of queues and packets of the fabric. -/

/-- The command at the head of a queue is `c`, its progress is `p`, and nothing but its own work is left. -/
structure CmdRuns (s : State) (q : Nat) (c : QCmd) (p : Progress) : Prop where
  head : s.headCmd q = some c
  guard : c.guard = 0 ∨ c.started = true
  prog : s.progress q = p
  going : p.ending = none

/-- Memory outside a range of bytes is as before. -/
def sameOutside (a b : Bytes) (key n : Nat) : Prop := ∀ k, k < key ∨ key + n ≤ k → b.read k = a.read k

/-- A request packet `p` that has arrived is performed next: it is here, in order, of a command not refused, and, before
its first access, admitted (20 R494, R507, R508). -/
structure Arrives (s : State) (port : Nat) (ty : PacketType) (p : Packet) (part : Nat) : Prop where
  here : s.localPart port ty p = some part
  ordered : (s.rxOf p).inOrder p = true
  wanted : (s.rxOf p).refuses p = none
  admitted : (s.rxOf p).moved = 0 → s.admits part p = true

/-- An answer `p` that has arrived is for packet `u` of command `f`. -/
structure Answers (s : State) (port : Nat) (ty : PacketType) (p : Packet) (part : Nat) (f : FabPending) (u : OpenPkt) : Prop where
  here : s.localPart port ty p = some part
  open_ : s.openOf part p = some (f, u)

/-! Frames. -/

/-- What is due to land in a group: what its streams have issued, and new writes. -/
def dueWrites (g : Group) (new : List RegWrite) : List RegWrite :=
  (g.sa.landing ++ g.sa.late ++ g.sc.landing ++ g.sc.late).flatMap (fun l => l.writes) ++ new

/-- Instructions that write no memory as they issue: all but the memory instructions and barrier-object instructions,
which perform accesses, calls, which spill, and matrix requests, which may save blocks that they claim. -/
def storesNothing (i : Instr) : Bool :=
  i.encoded && (memOf i).isNone &&
  (match i with
   | .call .. | .callr .. | .barinit .. | .bararr .. | .mld .. | .mst .. | .mdrain .. | .cbld .. | .actld .. | .mzero ..
   | .mtree .. | .mmaBf16 .. | .mmaF16 .. | .mmaE4m3 .. | .mmaE5m2 .. | .mmaE2m1 .. | .mmaVq2 .. | .mmaI8 .. => false
   | _ => true)

/-! What stops a bundle before its instruction's own meaning (03 R94, R99). -/

/-- Every group of a bundle is refused with one fault: the instruction faults in all of them. -/
def RefusedWith (i : Instr) (p : LaneRule) : Prop :=
  ∀ (s : State) (r : Run) (cs : List Ctx) (f : FaultInfo), s.runs.find s.cur = some r → r.members.filterMap (s.ctx r) = cs → cs ≠ [] →
    (∀ c ∈ cs, s.gate p.full (some p.latency) c = some (.fault f)) →
    exec i s = .next (s.afterFaults r cs p.words (fun _ => .fault f))

/-- Some group of a bundle waits and the others could go: the whole bundle waits, and nothing of the instruction
happens. -/
def WaitsTogether (i : Instr) (p : LaneRule) : Prop :=
  ∀ (s : State) (r : Run) (cs : List Ctx) (w : WaitReason), s.runs.find s.cur = some r → r.members.filterMap (s.ctx r) = cs →
    (∀ c ∈ cs, s.gate p.full (some p.latency) c = some (.wait w) ∨
      (s.gate p.full (some p.latency) c = none ∧ s.poisoned p.full c = false)) →
    (∃ c ∈ cs, s.gate p.full (some p.latency) c = some (.wait w)) → p.affine = false → exec i s = .next (s.stall r w)

/-- Every group of a bundle brings in poison: the instruction faults in all of them (07 R192; 19 R479). -/
def PoisonFaults (i : Instr) (p : LaneRule) : Prop :=
  ∀ (s : State) (r : Run) (cs : List Ctx), s.runs.find s.cur = some r → r.members.filterMap (s.ctx r) = cs → cs ≠ [] →
    (∀ c ∈ cs, s.gate p.full (some p.latency) c = none ∧ s.poisoned p.full c = true) → p.affine = false →
    exec i s = .next (s.afterFaults r cs p.words (fun _ => .fault (FaultInfo.plain .poison)))

end Sys2Proof.Machine
end

