-- ==== Sys2Proof/Certificates/Slice0/Obligations.lean ====
section
/-! DEFINITION. The statements for the provers. -/

open Sys2Proof Sys2Proof.Machine

/-! Integer instructions (05 R119 to R132): each issues with its latency and lands in every lane that takes part the value
that the rule gives, written with read_int, write_int and clamp of 05 R113 and 02 R44. -/

/-- ADD, SUB, MUL and MULHI in their short forms, with an IT word and with an immediate, MAD and MADW. ADDC and SUBB:
the sum or difference with the carry modulo 2^32, and the carry or borrow out. -/
def Obligations.IntegerArithmetic : Prop :=
  (
    (∀ f sg, Computes (.add f sg) (ruleBin 1 f 32 sg rowAdd (fun x y => satInt 32 sg false (readInt 32 sg x + readInt 32 sg y)) true)) ∧
    (∀ f m, Computes (.addIt f m) (let n := widthOf m.width
      ruleBin 2 f n m.signed rowAdd (fun x y => satInt n m.signed m.sat (readInt n m.signed x + readInt n m.signed y)) true
        (m.sat && affineDst (ruleBin 2 f n m.signed rowAdd (fun _ _ => 0)).uses))) ∧
    (∀ f, Computes (.addImm f) (ruleUn 1 f.d f.a false 32 true rowAdd (fun x => writeInt 32 true (readInt 32 true x + f.imm.toInt)) true)) ∧
    (∀ f sg, Computes (.sub f sg) (ruleBin 1 f 32 sg rowAdd (fun x y => satInt 32 sg false (readInt 32 sg x - readInt 32 sg y)) true)) ∧
    (∀ f m, Computes (.subIt f m) (let n := widthOf m.width
      ruleBin 2 f n m.signed rowAdd (fun x y => satInt n m.signed m.sat (readInt n m.signed x - readInt n m.signed y)) true
        (m.sat && affineDst (ruleBin 2 f n m.signed rowAdd (fun _ _ => 0)).uses))) ∧
    (∀ f sg, Computes (.mul f sg) (ruleBin 1 f 32 sg rowMul (fun x y => satInt 32 sg false (readInt 32 sg x * readInt 32 sg y))
      (tyOf f.a != .aff || tyOf f.b != .aff))) ∧
    (∀ f m, Computes (.mulIt f m) (let n := widthOf m.width
      ruleBin 2 f n m.signed rowMul (fun x y => satInt n m.signed m.sat (readInt n m.signed x * readInt n m.signed y))
        (tyOf f.a != .aff || tyOf f.b != .aff) (m.sat && affineDst (ruleBin 2 f n m.signed rowMul (fun _ _ => 0)).uses))) ∧
    (∀ f sg, Computes (.mulhi f sg) (ruleBin 1 f 32 sg rowMul (fun x y =>
      writeInt 32 sg (readInt 32 sg x * readInt 32 sg y / (2 ^ 32 : Int))))) ∧
    (∀ f m, Computes (.mulhiIt f m) (let n := widthOf m.width
      ruleBin 2 f n m.signed rowMul (fun x y => writeInt n m.signed (readInt n m.signed x * readInt n m.signed y / (2 ^ n : Int))))) ∧
    (∀ f c sg sat, Computes (.mad f c sg sat) (ruleTri 2 f c 32 32 sg rowMul (fun x y z =>
      satInt 32 sg sat (readInt 32 sg x * readInt 32 sg y + readInt 32 sg z))
        (sat && affineDst (ruleTri 2 f c 32 32 sg rowMul (fun _ _ _ => 0)).uses))) ∧
    (∀ f c sg, Computes (.madw f c sg) (ruleTri 2 f c 32 64 sg rowMul (fun x y z =>
      wrapNat 64 (readInt 32 sg x * readInt 32 sg y + readInt 64 sg z))))) ∧
  (
    (∀ f cin cout, Computes (.addc f cin cout)
      { words := 2, row := rowAdd, pins := [(op32 f.a, f.ra), (op32 f.b, f.rb)]
        uses := { srcs := [op32 f.a, op32 f.b], dst := some (op32 f.d), restricted := [cin], pdst := [cout.toNat] }
        val := fun v p => (v.getD 0 0 % 2 ^ 32 + v.getD 1 0 % 2 ^ 32 + (if p.getD 0 false then 1 else 0)) % 2 ^ 32
        pred := fun v p => decide (2 ^ 32 ≤ v.getD 0 0 % 2 ^ 32 + v.getD 1 0 % 2 ^ 32 + (if p.getD 0 false then 1 else 0)) }) ∧
    (∀ f cin cout, Computes (.subb f cin cout)
      { words := 2, row := rowAdd, pins := [(op32 f.a, f.ra), (op32 f.b, f.rb)]
        uses := { srcs := [op32 f.a, op32 f.b], dst := some (op32 f.d), restricted := [cin], pdst := [cout.toNat] }
        val := fun v p => (2 ^ 33 + v.getD 0 0 % 2 ^ 32 - v.getD 1 0 % 2 ^ 32 - (if p.getD 0 false then 1 else 0)) % 2 ^ 32
        pred := fun v p => decide (v.getD 0 0 % 2 ^ 32 < v.getD 1 0 % 2 ^ 32 + (if p.getD 0 false then 1 else 0)) }))

/-- The instructions that 01 Table 1.6 closes over affine sources: bases and strides by its rows. -/
def Obligations.AffineClosure : Prop :=
  (∀ f sg, ComputesAffine (.add f sg) (ruleBin 1 f 32 sg rowAdd (fun x y => satInt 32 sg false (readInt 32 sg x + readInt 32 sg y)) true)
    (fun v => ((v.getD 0 (0, 0)).1 + (v.getD 1 (0, 0)).1, (v.getD 0 (0, 0)).2 + (v.getD 1 (0, 0)).2))) ∧
  (∀ f, ComputesAffine (.addImm f) (ruleUn 1 f.d f.a false 32 true rowAdd (fun x => writeInt 32 true (readInt 32 true x + f.imm.toInt)) true)
    (fun v => ((v.getD 0 (0, 0)).1 + f.imm.toInt, (v.getD 0 (0, 0)).2))) ∧
  (∀ f sg, ComputesAffine (.sub f sg) (ruleBin 1 f 32 sg rowAdd (fun x y => satInt 32 sg false (readInt 32 sg x - readInt 32 sg y)) true)
    (fun v => ((v.getD 0 (0, 0)).1 - (v.getD 1 (0, 0)).1, (v.getD 0 (0, 0)).2 - (v.getD 1 (0, 0)).2))) ∧
  (∀ f sg, ComputesAffine (.mul f sg) (ruleBin 1 f 32 sg rowMul (fun x y => satInt 32 sg false (readInt 32 sg x * readInt 32 sg y))
      (tyOf f.a != .aff || tyOf f.b != .aff))
    (fun v => ((v.getD 0 (0, 0)).1 * (v.getD 1 (0, 0)).1,
      (v.getD 0 (0, 0)).2 * (v.getD 1 (0, 0)).1 + (v.getD 1 (0, 0)).2 * (v.getD 0 (0, 0)).1))) ∧
  (∀ f, ComputesAffine (.shl f) (ruleBin 1 f 32 false rowAdd (fun x y => (BitVec.ofNat 32 x <<< (y % 64)).toNat)
      (tyOf f.a == .aff && tyOf f.b == .uni))
    (fun v => ((v.getD 0 (0, 0)).1 * 2 ^ ((v.getD 1 (0, 0)).1 % 64).toNat,
      (v.getD 0 (0, 0)).2 * 2 ^ ((v.getD 1 (0, 0)).1 % 64).toNat))) ∧
  (∀ d a n, ComputesAffine (.shlImm d a n) (ruleUn 1 d a false 32 false rowAdd (fun x => (BitVec.ofNat 32 x <<< n.toNat).toNat) true)
    (fun v => ((v.getD 0 (0, 0)).1 * 2 ^ n.toNat, (v.getD 0 (0, 0)).2 * 2 ^ n.toNat))) ∧
  (∀ f, ComputesAffine (.mov f) (ruleUn 1 f.d f.a f.ra 32 false rowAdd (fun x => x % 2 ^ 32) true) (fun v => v.getD 0 (0, 0)))

/-- DIV, REM, MIN, MAX and ABS: truncated division with the corners of 02 Table 2.2, and comparisons of the type.
Quotient and remainder of 02 R45: the remainder has the dividend's sign and is below the divisor, and together they
give the dividend back, outside the corners of 02 Table 2.2; the corners are as the table says. Results of a width wrap and saturate (02 R43, R44): what is read back is the exact result modulo 2^n, or clamped. -/
def Obligations.DivisionAndOrder : Prop :=
  (
    (∀ f sg, Computes (.div f sg) (ruleBin 1 f 32 sg rowDiv (fun x y => writeInt 32 sg (divInt 32 sg (readInt 32 sg x) (readInt 32 sg y)).1))) ∧
    (∀ f m, Computes (.divIt f m) (let n := widthOf m.width
      ruleBin 2 f n m.signed rowDiv (fun x y => writeInt n m.signed (divInt n m.signed (readInt n m.signed x) (readInt n m.signed y)).1))) ∧
    (∀ f sg, Computes (.rem f sg) (ruleBin 1 f 32 sg rowDiv (fun x y => writeInt 32 sg (divInt 32 sg (readInt 32 sg x) (readInt 32 sg y)).2))) ∧
    (∀ f m, Computes (.remIt f m) (let n := widthOf m.width
      ruleBin 2 f n m.signed rowDiv (fun x y => writeInt n m.signed (divInt n m.signed (readInt n m.signed x) (readInt n m.signed y)).2))) ∧
    (∀ f sg, Computes (.min f sg) (ruleBin 1 f 32 sg rowAdd (fun x y => writeInt 32 sg (min (readInt 32 sg x) (readInt 32 sg y))))) ∧
    (∀ f m, Computes (.minIt f m) (let n := widthOf m.width
      ruleBin 2 f n m.signed rowAdd (fun x y => writeInt n m.signed (min (readInt n m.signed x) (readInt n m.signed y))))) ∧
    (∀ f sg, Computes (.max f sg) (ruleBin 1 f 32 sg rowAdd (fun x y => writeInt 32 sg (max (readInt 32 sg x) (readInt 32 sg y))))) ∧
    (∀ f m, Computes (.maxIt f m) (let n := widthOf m.width
      ruleBin 2 f n m.signed rowAdd (fun x y => writeInt n m.signed (max (readInt n m.signed x) (readInt n m.signed y))))) ∧
    (∀ f, Computes (.abs f) (ruleUn 1 f.d f.a f.ra 32 true rowAdd (fun x => satInt 32 true false (max (readInt 32 true x) (-readInt 32 true x))))) ∧
    (∀ f m, Computes (.absIt f m) (let n := widthOf m.width
      ruleUn 2 f.d f.a f.ra n true rowAdd (fun x => satInt n true m.sat (max (readInt n true x) (-readInt n true x))) false
        (m.sat && affineDst (ruleUn 2 f.d f.a f.ra n true rowAdd (fun _ => 0)).uses)))) ∧
  (
    (∀ (n : Nat) (sg : Bool) (x y : Int), y ≠ 0 → ¬(sg = true ∧ x = intMin n sg ∧ y = -1) →
      (divInt n sg x y).1 * y + (divInt n sg x y).2 = x ∧ (divInt n sg x y).2.natAbs < y.natAbs ∧
      0 ≤ (divInt n sg x y).2 * x) ∧
    (∀ (n : Nat) (x : Int), divInt n true x 0 = (if x < 0 then intMin n true else intMax n true, x)) ∧
    (∀ (n : Nat) (x : Int), divInt n false x 0 = (intMax n false, x)) ∧
    (∀ n : Nat, divInt n true (intMin n true) (-1) = (intMin n true, 0))) ∧
  (
    ∀ (n : Nat) (sg : Bool) (e : Int), n = 8 ∨ n = 16 ∨ n = 32 ∨ n = 64 →
      (readInt n sg (satInt n sg false e) - e) % (2 ^ n : Int) = 0 ∧
      intMin n sg ≤ readInt n sg (satInt n sg false e) ∧ readInt n sg (satInt n sg false e) ≤ intMax n sg ∧
      readInt n sg (satInt n sg true e) = max (intMin n sg) (min (intMax n sg) e))

/-- Logic, shifts, rotates, bit reversal, bit fields, funnel shifts and counts (05 R125 to R129). What the bit
operations of 05 R126 to R129 mean bit by bit. -/
def Obligations.BitOperations : Prop :=
  (
    (∀ f, Computes (.and f) (ruleBin 1 f 32 false rowAdd (fun x y => x % 2 ^ 32 &&& y % 2 ^ 32))) ∧
    (∀ f, Computes (.or f) (ruleBin 1 f 32 false rowAdd (fun x y => x % 2 ^ 32 ||| y % 2 ^ 32))) ∧
    (∀ f, Computes (.xor f) (ruleBin 1 f 32 false rowAdd (fun x y => x % 2 ^ 32 ^^^ y % 2 ^ 32))) ∧
    (∀ f, Computes (.andn f) (ruleBin 1 f 32 false rowAdd (fun x y => (BitVec.ofNat 32 x &&& ~~~(BitVec.ofNat 32 y)).toNat))) ∧
    (∀ f, Computes (.not f) (ruleUn 1 f.d f.a f.ra 32 false rowAdd (fun x => 2 ^ 32 - 1 - x % 2 ^ 32))) ∧
    (∀ f, Computes (.shl f) (ruleBin 1 f 32 false rowAdd (fun x y => x % 2 ^ 32 * 2 ^ (y % 64) % 2 ^ 32)
      (tyOf f.a == .aff && tyOf f.b == .uni))) ∧
    (∀ f, Computes (.shr f) (ruleBin 1 f 32 false rowAdd (fun x y => x % 2 ^ 32 / 2 ^ (y % 64)))) ∧
    (∀ f, Computes (.sar f) (ruleBin 1 f 32 false rowAdd (fun x y => wrapNat 32 (signedOf 32 x / 2 ^ (y % 64))))) ∧
    (∀ f, Computes (.rot f) (ruleBin 1 f 32 false rowAdd (fun x y => ((BitVec.ofNat 32 x).rotateLeft (y % 32)).toNat))) ∧
    (∀ d a n, Computes (.shlImm d a n) (ruleUn 1 d a false 32 false rowAdd (fun x => x % 2 ^ 32 * 2 ^ n.toNat % 2 ^ 32) true)) ∧
    (∀ d a n, Computes (.shrImm d a n) (ruleUn 1 d a false 32 false rowAdd (fun x => x % 2 ^ 32 / 2 ^ n.toNat))) ∧
    (∀ d a n, Computes (.sarImm d a n) (ruleUn 1 d a false 32 false rowAdd (fun x => wrapNat 32 (signedOf 32 x / 2 ^ n.toNat)))) ∧
    (∀ d a n, Computes (.rotImm d a n) (ruleUn 1 d a false 32 false rowAdd (fun x => ((BitVec.ofNat 32 x).rotateLeft n.toNat).toNat))) ∧
    (∀ f, Computes (.brev f) (ruleUn 1 f.d f.a f.ra 32 false rowAdd (fun x => (reverse32 (BitVec.ofNat 32 x)).toNat))) ∧
    (∀ f sg, Computes (.bfe f sg) { ruleBin 1 f 32 false rowAdd (fun x y => bfeNat sg (x % 2 ^ 32) (y % 2 ^ 32)) with ext := (32, sg) }) ∧
    (∀ f c, Computes (.bfi f c) (ruleTri 2 f c 32 32 false rowAdd (fun x y z => bfiNat (x % 2 ^ 32) (y % 2 ^ 32) (z % 2 ^ 32)))) ∧
    (∀ f c right, Computes (.shf f c right) (ruleTri 2 f c 32 32 false rowAdd (fun x y z =>
      if right then (z % 2 ^ 32 * 2 ^ 32 + x % 2 ^ 32) / 2 ^ (y % 64) % 2 ^ 32
      else (z % 2 ^ 32 * 2 ^ 32 + x % 2 ^ 32) * 2 ^ (y % 64) % 2 ^ 64 / 2 ^ 32))) ∧
    (∀ f, Computes (.popc f) (ruleUn 1 f.d f.a f.ra 32 false rowAdd (fun x => popcountNat 32 (x % 2 ^ 32)))) ∧
    (∀ f, Computes (.clz f) (ruleUn 1 f.d f.a f.ra 32 false rowAdd (fun x => 32 - bitLength (x % 2 ^ 32)))) ∧
    (∀ f, Computes (.ctz f) (ruleUn 1 f.d f.a f.ra 32 false rowAdd (fun x => trailingZeros 32 (x % 2 ^ 32))))) ∧
  (
    (∀ (x : Word) (i : Nat), i < 32 → (reverse32 x).getLsbD i = x.getLsbD (31 - i)) ∧
    (∀ x : Nat, popcountNat 32 x = (List.range 32).countP (fun i => x.testBit i)) ∧
    (∀ x : Nat, x < 2 ^ 32 → x ≠ 0 → x.testBit (31 - (32 - bitLength x)) = true ∧
      ∀ i, 31 - (32 - bitLength x) < i → x.testBit i = false) ∧ bitLength 0 = 0 ∧
    (∀ x : Nat, x % 2 ^ 32 ≠ 0 → x.testBit (trailingZeros 32 x) = true ∧ ∀ i, i < trailingZeros 32 x → x.testBit i = false) ∧
    trailingZeros 32 0 = 32 ∧
    (∀ a b : Nat, a < 2 ^ 32 → bfeNat false a b < 2 ^ (fieldOf b).2 ∧
      ∀ i, i < (fieldOf b).2 → (bfeNat false a b).testBit i = a.testBit ((fieldOf b).1 + i)) ∧
    (∀ a b c i : Nat, c < 2 ^ 32 → (bfiNat a b c).testBit i =
      if (fieldOf b).1 ≤ i ∧ i < (fieldOf b).1 + (fieldOf b).2 then a.testBit (i - (fieldOf b).1) else c.testBit i))

/-- Address arithmetic and dot products (05 R130 to R132). -/
def Obligations.AddressAndDot : Prop :=
  (∀ f h, Computes (.lea f h)
    { words := 1, row := rowAdd, ext := (64, false), pins := [(op64 f.a, f.ra), (op32 f.b, f.rb)]
      uses := { srcs := [op64 f.a, op32 f.b], dst := some (op64 f.d) }
      val := fun v _ => wrapNat 64 (v.getD 0 0 + signedOf 32 (v.getD 1 0) * 2 ^ (h.toNat + 2)) }) ∧
  (∀ f sh sg, Computes (.leaLx f sh sg)
    { words := 2, row := rowAdd, ext := (64, false), pins := [(op64 f.a, f.ra), (op32 f.b, f.rb)]
      uses := { srcs := [op64 f.a, op32 f.b], dst := some (op64 f.d) }
      val := fun v _ => wrapNat 64 (v.getD 0 0 + readInt 32 sg (v.getD 1 0) * 2 ^ sh.toNat) }) ∧
  (∀ f, Computes (.add64 f) (ruleBin 1 f 64 false rowAdd (fun x y => (x % 2 ^ 64 + y % 2 ^ 64) % 2 ^ 64))) ∧
  (∀ f, Computes (.sub64 f) (ruleBin 1 f 64 false rowAdd (fun x y => (x % 2 ^ 64 + 2 ^ 64 - y % 2 ^ 64) % 2 ^ 64))) ∧
  (∀ f, Computes (.shl64 f)
    { words := 1, row := rowAdd, ext := (64, false), pins := [(op64 f.a, f.ra), (op32 f.b, f.rb)]
      uses := { srcs := [op64 f.a, op32 f.b], dst := some (op64 f.d) }
      val := fun v _ => v.getD 0 0 * 2 ^ (v.getD 1 0 % 64) % 2 ^ 64 }) ∧
  (∀ f, Computes (.sad f) (ruleDot 1 f f.d true .sad false false false)) ∧
  (∀ f, Computes (.dp4a f) (ruleDot 1 f f.d true .dp4a true true false)) ∧
  (∀ f, Computes (.dp2a f) (ruleDot 1 f f.d true .dp2a true true false)) ∧
  (∀ f op c sa sb sat, Computes (.dpxDotForms f op c sa sb sat) (ruleDot 2 f c false op sa sb sat)) ∧
  (∀ a b : Nat, dotSum .sad false false a b = (List.range 4).foldl (fun t i =>
    t + (((a / 256 ^ i % 256 : Nat) : Int) - (b / 256 ^ i % 256 : Nat)).natAbs) 0)

/-- Selection, comparison and predicate logic (05 R133 to R135). Moves, immediates, team registers and promotions (05
R136 to R140). -/
def Obligations.SelectMovePromote : Prop :=
  (
    (∀ f p w64, Computes (.sel f p w64) (let n := if w64 then 64 else 32
      { words := 2, row := rowAdd, ext := (n, false), pins := [(opInt n f.a, f.ra), (opInt n f.b, f.rb)]
        uses := { srcs := [opInt n f.a, opInt n f.b], dst := some (opInt n f.d), restricted := [p] }
        val := fun v q => if q.getD 0 false then v.getD 0 0 else v.getD 1 0 })) ∧
    (∀ pd a b ra rb cmp width sg bop pc, Computes (.icmp pd a b ra rb cmp width sg bop pc) (let n := widthOf width
      { words := 2, row := rowAdd, pins := [(opInt n a, ra), (opInt n b, rb)]
        uses := { srcs := [opInt n a, opInt n b], preds := [pc], pdst := [pd.toNat] }
        pred := fun v p => bopOf bop (cmpHolds cmp (compare (readInt n sg (v.getD 0 0)) (readInt n sg (v.getD 1 0)))) (p.getD 0 false) })) ∧
    (∀ pd a b, Computes (.pand pd a b) (rulePred pd a b (fun x y => x && y))) ∧
    (∀ pd a b, Computes (.por pd a b) (rulePred pd a b (fun x y => x || y))) ∧
    (∀ pd a b, Computes (.pxor pd a b) (rulePred pd a b (fun x y => x != y))) ∧
    (∀ x y : Int, (cmpHolds 0 (compare x y) = true ↔ x = y) ∧ (cmpHolds 1 (compare x y) = true ↔ x ≠ y) ∧
      (cmpHolds 2 (compare x y) = true ↔ x < y) ∧ (cmpHolds 3 (compare x y) = true ↔ x ≤ y) ∧
      (cmpHolds 4 (compare x y) = true ↔ y < x) ∧ (cmpHolds 5 (compare x y) = true ↔ y ≤ x)) ∧
    (∀ c p : Bool, bopOf 0 c p = (c && p) ∧ bopOf 1 c p = (c || p) ∧ bopOf 2 c p = (c != p))) ∧
  (
    (∀ f, Computes (.mov f) (ruleUn 1 f.d f.a f.ra 32 false rowAdd (fun x => x % 2 ^ 32) true)) ∧
    (∀ d n, ComputesWhen (.movmRead d n) { words := 1, row := rowAdd, uses := { dst := some (op32 d), alsoReads := [0x200 + n.toNat] } }
      (fun _ _ => True) (fun c _ _ => { val := (c.m[n.toFin]).toNat })) ∧
    (∀ a n ra, let u : Uses :=
        { srcs := [op32 a], group := true, compOnly := true, alsoWrites := [0x200 + n.toNat], badType := tyOf a != .uni }
      Acts (.movmWrite a n ra) 1 u (some 1) [(op32 a, ra)] false (fun _ _ => True) (fun _ c x =>
        if c.act = 0 then x
        else x.issueFixed c u 1 [.mReg n.toNat (BitVec.ofNat 32 ((c.values u (lowestLane c.act)).getD 0 0))])) ∧
    (∀ d i, Computes (.movi d i)
      { words := 1, row := rowAdd, ext := (32, true), uses := { dst := some (op32 d) }, val := fun _ _ => wrapNat 32 i.toInt }) ∧
    (∀ d i, Computes (.movhi d i)
      { words := 1, row := rowAdd, uses := { srcs := [op32 d], dst := some (op32 d), badType := tyOf d == .aff, badOperand := isQueue d }
        val := fun v _ => i.toNat * 2 ^ 14 + v.getD 0 0 % 2 ^ 14 }) ∧
    (∀ f, let p : LaneRule := { words := 1, row := ⟨none, some 2, none⟩, uses :=
        { srcs := [op32 f.a], dst := some (op32 f.d), badType := tyOf f.d != .aff || [op32 f.a].any (fun o => o.ty != .uni) } }
      ComputesWhen (.promaImm f) p (fun _ _ => strideOk f.imm.toInt = true)
        (fun c m _ => { val := (c.values p.uses (lowestLane m)).getD 0 0, stride := f.imm.toInt })) ∧
    (∀ f, let p : LaneRule := { words := 1, row := ⟨none, some 2, none⟩, pins := [(op32 f.a, f.ra), (op32 f.b, f.rb)], uses :=
        { srcs := [op32 f.a, op32 f.b], dst := some (op32 f.d),
          badType := tyOf f.d != .aff || [op32 f.a, op32 f.b].any (fun o => o.ty != .uni) } }
      ComputesWhen (.proma f) p (fun c m => strideOk (signedOf 32 ((c.values p.uses (lowestLane m)).getD 1 0)) = true)
        (fun c m _ => { val := (c.values p.uses (lowestLane m)).getD 0 0,
                        stride := signedOf 32 ((c.values p.uses (lowestLane m)).getD 1 0) }) ∧
      FaultsWhen (.proma f) p (fun c m => strideOk (signedOf 32 ((c.values p.uses (lowestLane m)).getD 1 0)) = false) .affineRange) ∧
    (∀ f, Computes (.promv f)
      { words := 1, row := ⟨some 2, none, none⟩, pins := [(op64 f.a, f.ra)]
        uses := { srcs := [op64 f.a], dst := some (op64 f.d), badType := tyOf f.a == .vary }, val := fun v _ => v.getD 0 0 }))

/-- Demotion (05 R141; 01 R40, R41): .first takes the lowest active lane's value; .chk takes the common value, and
faults when there is none; DEMOTEA takes base and stride of the lanes' progression, and faults when there is none. The
progression of 01 R41: the base and stride found give every lane its value, and none is found only when no stride in
range gives them all. -/
def Obligations.Demotion : Prop :=
  (
    ∀ f : F2, let u (ty : Ty) : Uses :=
        { srcs := [op32 f.a], dst := some (op32 f.d), anySrc := true, closed := true, badType := tyOf f.d != ty }
      let p (u : Uses) : LaneRule := { words := 1, row := ⟨none, some 2, some 2⟩, pins := [(op32 f.a, f.ra)], uses := u }
      let first := p (u .uni)
      let aff := p { u .aff with closed := false }
      let vals (c : Ctx) (m : Word) : List Nat := (lanesOf m).map (fun L => (c.values (u .uni) L).getD 0 0)
      let pairs (c : Ctx) (m : Word) : List (Nat × Nat) := (lanesOf m).map (fun L => (L.val, (c.values (u .aff) L).getD 0 0))
      Computes (.demoteFirst f) { first with val := fun v _ => v.getD 0 0 } ∧
      ComputesWhen (.demoteChk f) first (fun c m => ∀ x ∈ vals c m, x = (vals c m).headD 0)
        (fun c m _ => { val := (vals c m).headD 0 }) ∧
      FaultsWhen (.demoteChk f) first (fun c m => ∃ x ∈ vals c m, x ≠ (vals c m).headD 0) .nonuniform ∧
      (∀ b st, ComputesWhen (.demoteaChk f) aff (fun c m => progression (pairs c m) = some (b, st))
        (fun _ _ _ => { val := b, stride := st })) ∧
      FaultsWhen (.demoteaChk f) aff (fun c m => progression (pairs c m) = none) .nonaffine) ∧
  (
    (∀ (vs : List (Nat × Nat)) (b : Nat) (st : Int), progression vs = some (b, st) →
      b < 2 ^ 32 ∧ strideOk st = true ∧ ∀ e ∈ vs, wrapNat 32 ((b : Int) + st * e.1) = e.2) ∧
    (∀ (l x : Nat), x < 2 ^ 32 → progression [(l, x)] = some (x, 0)) ∧
    (∀ (vs : List (Nat × Nat)) (b : Nat) (st : Int), vs.Pairwise (fun d e => d.1 < e.1) → 2 ≤ vs.length → (∀ e ∈ vs, e.1 < 32) →
      b < 2 ^ 32 → strideOk st = true → (∀ e ∈ vs, wrapNat 32 ((b : Int) + st * e.1) = e.2) → progression vs = some (b, st)))

/-! Floating point (06 R144 to R165): values and flags by the formats' read, operations and single rounding. -/

/-- FADD, FSUB, FMUL, FMAC and FFMA. FMIN, FMAX, FNEG, FCMP, FCLASS, FRND and FSCALE. -/
def Obligations.FloatingPoint : Prop :=
  (
    let fin (m : FMod) (x : FpVal × Flags) : Nat × Flags := FFmt.f32.finish (.mode m.rnd) m.sat m.ftz x
    let a (m : FMod) (v : List Nat) : FpVal := FFmt.f32.read m.negA m.ftz (v.getD 0 0 % 2 ^ 32)
    let b (m : FMod) (v : List Nat) : FpVal := FFmt.f32.read m.negB m.ftz (v.getD 1 0 % 2 ^ 32)
    let plain (r : RMode) : FMod := ⟨r, false, false, false, false⟩
    let add (w : Nat) (f : F3) (m : FMod) := ruleFp w (srcs3 f) [] f.d (fun v => fin m (fpAdd (.mode m.rnd) (a m v) (b m v)))
    let sub (w : Nat) (f : F3) (m : FMod) := ruleFp w (srcs3 f) [] f.d (fun v => fin m (fpAdd (.mode m.rnd) (a m v) (b m v).negate))
    let mul (w : Nat) (f : F3) (m : FMod) := ruleFp w (srcs3 f) [] f.d (fun v => fin m (fpMul (a m v) (b m v)))
    let mac (w : Nat) (f : F3) (m : FMod) := ruleFp w (srcs3 f) [f.d] f.d (fun v =>
      fin m (fpFma (.mode m.rnd) (a m v) (b m v) (FFmt.f32.read false m.ftz (v.getD 2 0 % 2 ^ 32)))) (isQueue f.d)
    (∀ f r, Computes (.fadd f r) (add 1 f (plain r))) ∧ (∀ f m, Computes (.faddFmod f m) (add 2 f m)) ∧
    (∀ f r, Computes (.fsub f r) (sub 1 f (plain r))) ∧ (∀ f m, Computes (.fsubFmod f m) (sub 2 f m)) ∧
    (∀ f r, Computes (.fmul f r) (mul 1 f (plain r))) ∧ (∀ f m, Computes (.fmulFmod f m) (mul 2 f m)) ∧
    (∀ f r, Computes (.fmac f r) (mac 1 f (plain r))) ∧ (∀ f m, Computes (.fmacFmod f m) (mac 2 f m)) ∧
    (∀ f c (m : FcMod), Computes (.ffma f c m) (ruleFp 2 (srcs3 f) [c] f.d (fun v =>
      FFmt.f32.finish (.mode m.rnd) m.sat m.ftz (fpFma (.mode m.rnd) (FFmt.f32.read m.negA m.ftz (v.getD 0 0 % 2 ^ 32))
        (FFmt.f32.read m.negB m.ftz (v.getD 1 0 % 2 ^ 32)) (FFmt.f32.read m.negC m.ftz (v.getD 2 0 % 2 ^ 32))))))) ∧
  (
    let plain (r : RMode) : FMod := ⟨r, false, false, false, false⟩
    let scale (w : Nat) (f : F3) (m : FMod) := ruleFp w (srcs3 f) [] f.d (fun v =>
      let x := FFmt.f32.read m.negA m.ftz (v.getD 0 0 % 2 ^ 32)
      FFmt.f32.finish (.mode m.rnd) m.sat m.ftz (fscaleVal x (signedOf 32 (v.getD 1 0)), signallingFlag [x]))
    (∀ f nan, Computes (.fmin f nan) (ruleFp 1 (srcs3 f) [] f.d (fun v => fpPick .f32 nan false (v.getD 0 0) (v.getD 1 0)))) ∧
    (∀ f nan, Computes (.fmax f nan) (ruleFp 1 (srcs3 f) [] f.d (fun v => fpPick .f32 nan true (v.getD 0 0) (v.getD 1 0)))) ∧
    (∀ f, Computes (.fneg f) (ruleFp 1 [(f.a, f.ra)] [] f.d (fun v => fnegBits (v.getD 0 0)))) ∧
    (∀ pd a b ra rb cmp bop pc ftz, Computes (.fcmp pd a b ra rb cmp bop pc ftz)
      { words := 2, row := ⟨some 2, none, some 1⟩, pins := [(op32 a, ra), (op32 b, rb)]
        uses := { srcs := [op32 a, op32 b], preds := [pc], pdst := [pd.toNat] }
        pred := fun v p => bopOf bop (fcmpHolds cmp (FFmt.f32.read false ftz (v.getD 0 0 % 2 ^ 32))
          (FFmt.f32.read false ftz (v.getD 1 0 % 2 ^ 32))).1 (p.getD 0 false)
        flags := fun v _ => (fcmpHolds cmp (FFmt.f32.read false ftz (v.getD 0 0 % 2 ^ 32))
          (FFmt.f32.read false ftz (v.getD 1 0 % 2 ^ 32))).2 }) ∧
    (∀ f, Computes (.fclass f) (ruleFp 1 [(f.a, f.ra)] [] f.d (fun v => fclassBits (v.getD 0 0)))) ∧
    (∀ f r, Computes (.frnd f r) (ruleFp 1 [(f.a, f.ra)] [] f.d (fun v => frndBits (plain r) (v.getD 0 0)))) ∧
    (∀ f m, Computes (.frndFmod f m) (ruleFp 2 [(f.a, f.ra)] [] f.d (fun v => frndBits m (v.getD 0 0)))) ∧
    (∀ f r, Computes (.fscale f r) (scale 1 f (plain r))) ∧ (∀ f m, Computes (.fscaleFmod f m) (scale 2 f m)))

/-- Packed halves: HADD2, HMUL2, HFMA2 and HMAX2 act on each half alone and join the flags (06 R156, R157). FCVT,
PACK2 and UNPACK2: one element converted, two packed, two unpacked; .sr draws one LFSR step for each element of a lane
(02 R54, R55; 06 R158 to R162). -/
def Obligations.PackedAndConverted : Prop :=
  (
    let two (g : Nat → Nat × Flags) : Nat × Flags := ((g 0).1 % 2 ^ 16 + 2 ^ 16 * ((g 1).1 % 2 ^ 16), (g 0).2 ||| (g 1).2)
    let el (v : List Nat) (k i : Nat) : Nat := v.getD k 0 / 2 ^ (16 * i) % 2 ^ 16
    let fmt (bf : Bool) : FFmt := if bf then .bf16 else .f16
    let plain : FMod := ⟨.rn, false, false, false, false⟩
    let add (w : Nat) (f : F3) (bf : Bool) (m : FMod) := ruleFp w (srcs3 f) [] f.d (fun v => two (fun i =>
      (fmt bf).finish (.mode m.rnd) m.sat m.ftz (fpAdd (.mode m.rnd) ((fmt bf).read m.negA m.ftz (el v 0 i)) ((fmt bf).read m.negB m.ftz (el v 1 i)))))
    let mul (w : Nat) (f : F3) (bf : Bool) (m : FMod) := ruleFp w (srcs3 f) [] f.d (fun v => two (fun i =>
      (fmt bf).finish (.mode m.rnd) m.sat m.ftz (fpMul ((fmt bf).read m.negA m.ftz (el v 0 i)) ((fmt bf).read m.negB m.ftz (el v 1 i)))))
    (∀ f bf, Computes (.hadd2 f bf) (add 1 f bf plain)) ∧ (∀ f bf m, Computes (.hadd2Hmod f bf m) (add 2 f bf m)) ∧
    (∀ f bf, Computes (.hmul2 f bf) (mul 1 f bf plain)) ∧ (∀ f bf m, Computes (.hmul2Hmod f bf m) (mul 2 f bf m)) ∧
    (∀ f bf c (m : FcMod), Computes (.hfma2 f bf c m) (ruleFp 2 (srcs3 f) [c] f.d (fun v => two (fun i =>
      (fmt bf).finish (.mode m.rnd) m.sat m.ftz (fpFma (.mode m.rnd) ((fmt bf).read m.negA m.ftz (el v 0 i))
        ((fmt bf).read m.negB m.ftz (el v 1 i)) ((fmt bf).read m.negC m.ftz (el v 2 i))))))) ∧
    (∀ f bf, Computes (.hmax2 f bf) (ruleFp 1 (srcs3 f) [] f.d (fun v => two (fun i => fpPick (fmt bf) false true (el v 0 i) (el v 1 i)))))) ∧
  (
    (∀ f (m : CvMod), let merge := isNarrowFloat m.dfmt
      let a : Operand := ⟨f.a, (cvFmt m.sfmt).words, false⟩
      let d : Operand := ⟨f.d, (cvFmt m.dfmt).words, false⟩
      let u : Uses :=
        { srcs := if merge then [a, d] else [a], dst := some d, compOnly := m.rnd == 4, badOperand := merge && isQueue f.d }
      ComputesWhen (.fcvt f m) { words := 2, row := rowFadd, pins := [(a, f.ra)], uses := u } (fun _ _ => True) (fun c _ L =>
        let v := c.values u L
        let st := lfsrStep c.g.seed[L]
        let x := match cvFmt m.sfmt with
          | .float g => v.getD 0 0 / 2 ^ (g.bits * m.selem.toNat) % 2 ^ g.bits
          | .int _ _ => v.getD 0 0
        let r := convert (cvFmt m.sfmt) (cvFmt m.dfmt) m st x
        { val := match cvFmt m.dfmt with
            | .float g => if merge then (setElement g.bits (BitVec.ofNat 32 (v.getD 1 0)) m.delem.toNat r.1).toNat else r.1
            | .int _ _ => r.1
          flags := r.2, seed := if m.rnd = 4 then some st else none })) ∧
    (∀ f bf, Computes (.pack2 f bf) (ruleFp 1 (srcs3 f) [] f.d (fun v =>
      let g : FFmt := if bf then .bf16 else .f16
      let e (i : Nat) : Nat × Flags :=
        g.finish (.mode .rn) false false (FFmt.f32.read false false (v.getD i 0), signallingFlag [FFmt.f32.read false false (v.getD i 0)])
      ((e 0).1 % 2 ^ 16 + 2 ^ 16 * ((e 1).1 % 2 ^ 16), (e 0).2 ||| (e 1).2)))) ∧
    (∀ f (m : CvMod), let u : Uses := { srcs := [op32 f.a, op32 f.b], dst := some (op32 f.d), compOnly := m.rnd == 4 }
      ComputesWhen (.pack2Cvx f m) { words := 2, row := rowFadd, pins := [(op32 f.a, f.ra), (op32 f.b, f.rb)], uses := u }
        (fun _ _ => True) (fun c _ L =>
          let v := c.values u L
          let s1 := lfsrStep c.g.seed[L]
          let e0 := convert (.float .f32) (cvFmt m.dfmt) m s1 (v.getD 0 0)
          let e1 := convert (.float .f32) (cvFmt m.dfmt) m (lfsrStep s1) (v.getD 1 0)
          { val := e0.1 % 2 ^ 16 + 2 ^ 16 * (e1.1 % 2 ^ 16), flags := e0.2 ||| e1.2,
            seed := if m.rnd = 4 then some (lfsrStep s1) else none })) ∧
    (∀ f bf, let g : FFmt := if bf then .bf16 else .f16
      Computes (.unpack2 f bf)
        { words := 1, row := rowFadd, pins := [(op32 f.a, f.ra)], uses := { srcs := [op32 f.a], dst := some (op64 f.d) }
          val := fun v _ => (FFmt.f32.finish (.mode .rn) false false (g.read false false (v.getD 0 0 % 2 ^ 16),
              signallingFlag [g.read false false (v.getD 0 0 % 2 ^ 16)])).1 +
            2 ^ 32 * (FFmt.f32.finish (.mode .rn) false false (g.read false false (v.getD 0 0 / 2 ^ 16 % 2 ^ 16),
              signallingFlag [g.read false false (v.getD 0 0 / 2 ^ 16 % 2 ^ 16)])).1
          flags := fun v _ => (FFmt.f32.finish (.mode .rn) false false (g.read false false (v.getD 0 0 % 2 ^ 16),
              signallingFlag [g.read false false (v.getD 0 0 % 2 ^ 16)])).2 |||
            (FFmt.f32.finish (.mode .rn) false false (g.read false false (v.getD 0 0 / 2 ^ 16 % 2 ^ 16),
              signallingFlag [g.read false false (v.getD 0 0 / 2 ^ 16 % 2 ^ 16)])).2 }) ∧
    (∀ f (m : CvMod) (g : FFmt), cvFmt m.sfmt = .float g →
      let e (v : List Nat) (i : Nat) : Nat × Flags :=
        convert (.float g) (.float .f32) m 0 (v.getD 0 0 / 2 ^ (g.bits * (m.selem.toNat + i)) % 2 ^ g.bits)
      Computes (.unpack2Cvx f m)
        { words := 2, row := rowFadd, pins := [(op32 f.a, f.ra)], uses := { srcs := [op32 f.a], dst := some (op64 f.d) }
          val := fun v _ => (e v 0).1 + 2 ^ 32 * (e v 1).1, flags := fun v _ => (e v 0).2 ||| (e v 1).2 }))

/-! Special functions and the abacus (06 R163 to R173; 02 R63 to R65). -/

/-- The special functions become pending instructions; each lane's result and flags are those of the function at its
operands, and an affine source or destination is an illegal type (06 R143, R163 to R165). The special cases of 06
Table 6.7, in every mode, with and without .ftz: NaN operands, infinities and zeros. -/
def Obligations.SpecialFunctions : Prop :=
  (
    let u (d : Code) (srcs : List Code) : Uses :=
      let v : Uses := { srcs := srcs.map op32, dst := some (op32 d) }
      { v with badType := tyOf d == .aff || v.ty == .aff }
    let out (fn : SpecialFn) (m : SfMod) (v : Uses) (c : Ctx) (L : Fin 32) : LaneOut :=
      let r := specialFn fn m.rnd m.ftz (BitVec.ofNat 32 ((c.values v L).getD 0 0)) (BitVec.ofNat 32 ((c.values v L).getD 1 0))
      { val := r.1.toNat, flags := r.2 }
    let one (i : F2 → SfMod → Instr) (fn : SpecialFn) : Prop :=
      ∀ f m, Starts (i f m) 2 (u f.d [f.a]) [(op32 f.a, f.ra)] .sfu m.la m.tk (out fn m (u f.d [f.a]))
    one .fexp2 .exp2 ∧ one .flog2 .log2 ∧ one .frcp .rcp ∧ one .frsqrt .rsqrt ∧ one .fsqrt .sqrt ∧
    (∀ f m, Starts (.fdiv f m) 2 (u f.d [f.a, f.b]) [(op32 f.a, f.ra), (op32 f.b, f.rb)] .sfu m.la m.tk
      (out .div m (u f.d [f.a, f.b]))) ∧
    one .fsin .sinPi ∧ one .fcos .cosPi ∧ one .ftanh .tanh) ∧
  (
    ∀ (m : RMode) (ftz : Bool),
      (∀ (fn : SpecialFn) (a : Word) (q : Bool), FFmt.f32.decode a.toNat = .nan q →
        specialFn fn m ftz a 0x3F800000 = (0x7FC00000, if q then flagNV else 0)) ∧
      (∀ b, specialFn .exp2 m ftz 0x7F800000 b = (0x7F800000, 0) ∧ specialFn .exp2 m ftz 0xFF800000 b = (0, 0)) ∧
      (∀ b, specialFn .log2 m ftz 0 b = (0xFF800000, flagDZ) ∧ specialFn .log2 m ftz 0x80000000 b = (0xFF800000, flagDZ) ∧
        specialFn .log2 m ftz 0xFF800000 b = (0x7FC00000, flagNV) ∧ specialFn .log2 m ftz 0x7F800000 b = (0x7F800000, 0) ∧
        specialFn .log2 m ftz 0x3F800000 b = (0, 0)) ∧
      (∀ b, specialFn .rcp m ftz 0 b = (0x7F800000, flagDZ) ∧ specialFn .rcp m ftz 0x80000000 b = (0xFF800000, flagDZ) ∧
        specialFn .rcp m ftz 0x7F800000 b = (0, 0) ∧ specialFn .rcp m ftz 0xFF800000 b = (0x80000000, 0)) ∧
      (∀ b, specialFn .rsqrt m ftz 0 b = (0x7F800000, flagDZ) ∧ specialFn .rsqrt m ftz 0x80000000 b = (0xFF800000, flagDZ) ∧
        specialFn .rsqrt m ftz 0x7F800000 b = (0, 0) ∧ specialFn .rsqrt m ftz 0xBF800000 b = (0x7FC00000, flagNV)) ∧
      (∀ b, specialFn .sqrt m ftz 0x80000000 b = (0x80000000, 0) ∧ specialFn .sqrt m ftz 0xBF800000 b = (0x7FC00000, flagNV) ∧
        specialFn .sqrt m ftz 0x7F800000 b = (0x7F800000, 0)) ∧
      (specialFn .div m ftz 0x3F800000 0 = (0x7F800000, flagDZ) ∧ specialFn .div m ftz 0x3F800000 0x80000000 = (0xFF800000, flagDZ) ∧
        specialFn .div m ftz 0 0 = (0x7FC00000, flagNV) ∧ specialFn .div m ftz 0x7F800000 0xFF800000 = (0x7FC00000, flagNV) ∧
        specialFn .div m ftz 0xBF800000 0x7F800000 = (0x80000000, 0)) ∧
      (∀ b, specialFn .sinPi m ftz 0x7F800000 b = (0x7FC00000, flagNV) ∧ specialFn .cosPi m ftz 0xFF800000 b = (0x7FC00000, flagNV) ∧
        specialFn .sinPi m ftz 0x3F800000 b = (0, 0) ∧ specialFn .sinPi m ftz 0xC0000000 b = (0x80000000, 0) ∧
        specialFn .cosPi m ftz 0x3F000000 b = (0, 0) ∧ specialFn .cosPi m ftz 0xBF800000 b = (0xBF800000, 0)) ∧
      (∀ b, specialFn .tanh m ftz 0x7F800000 b = (0x3F800000, 0) ∧ specialFn .tanh m ftz 0xFF800000 b = (0xBF800000, 0) ∧
        specialFn .tanh m ftz 0 b = (0, 0) ∧ specialFn .tanh m ftz 0x80000000 b = (0x80000000, 0)))

/-- XCLR, XMOV, XADD and XFMA replace their accumulator at issue; XRD and XSCAN become pending instructions, XSCAN
having updated its accumulator at issue (06 R168 to R173). -/
def Obligations.AbacusInstructions : Prop :=
  let xu (srcs : List Code) (rd wr : List (BitVec 2)) : Uses :=
    { srcs := srcs.map op32, compOnly := true, alsoReads := rd.map (fun n => 0x400 + n.toNat),
      alsoWrites := wr.map (fun n => 0x400 + n.toNat) }
  let sets (i : Instr) (u : Uses) (pins : List (Operand × Bool)) (n : BitVec 2) (f : Ctx → Abacus) : Prop :=
    Acts i 1 u none pins false (fun _ _ => True) (fun _ c x =>
      if c.act = 0 then x
      else (x.modGroup c.gid (fun g => { g.pop u c.act with x := (g.pop u c.act).x.set n.toNat (f c) n.isLt })).repair c.gid
        (fun b => b.what == 0x400 + n.toNat))
  let bf (v i : Nat) : FpVal := FFmt.bf16.decode (v / 2 ^ (16 * i) % 2 ^ 16)
  let sum (c : Ctx) (n : BitVec 2) (f : Fin 32 → List AbacusInput) : Abacus :=
    ((lanesOf c.act).flatMap f).foldl Abacus.add c.g.x[n.toFin]
  let rd (x : Abacus) (m : AbMod) : LaneOut :=
    let r := x.read (if m.fmt = 0 then .f32 else if m.fmt = 1 then .f16 else .bf16) m.rnd m.sat
    { val := r.1, flags := r.2 }
  (∀ n, sets (.xclr n) (xu [] [] [n]) [] n (fun _ => ⟨0, false, false, false, false⟩)) ∧
  (∀ n k, sets (.xmov n k) (xu [] [k] [n]) [] n (fun c => c.g.x[k.toFin])) ∧
  (∀ n a ra, sets (.xadd n a ra false) (xu [a] [n] [n]) [(op32 a, ra)] n (fun c => sum c n (fun L =>
    [.ofVal (FFmt.f32.decode ((c.values (xu [a] [n] [n]) L).getD 0 0))]))) ∧
  (∀ n a ra, sets (.xadd n a ra true) (xu [a] [n] [n]) [(op32 a, ra)] n (fun c => sum c n (fun L =>
    [.ofVal (bf ((c.values (xu [a] [n] [n]) L).getD 0 0) 0), .ofVal (bf ((c.values (xu [a] [n] [n]) L).getD 0 0) 1)]))) ∧
  (∀ n a b ra rb, sets (.xfma n a b ra rb) (xu [a, b] [n] [n]) [(op32 a, ra), (op32 b, rb)] n (fun c => sum c n (fun L =>
    let v := c.values (xu [a, b] [n] [n]) L
    [.ofProduct (bf (v.getD 0 0) 0) (bf (v.getD 1 0) 0), .ofProduct (bf (v.getD 0 0) 1) (bf (v.getD 1 0) 1)]))) ∧
  (∀ d n m, Starts (.xrd d n m) 2 { xu [] [n] [] with dst := some (op32 d), badType := tyOf d == .aff } [] .xrd m.la m.tk
    (fun c _ => rd c.g.x[n.toFin] m)) ∧
  (∀ d n b rb m, let u : Uses := { xu [b] [n] [n] with dst := some (op32 d), badType := tyOf d != .vary }
    let before (c : Ctx) (L : Fin 32) : Abacus := (((lanesOf c.act).takeWhile (fun M => M != L)).map (fun M =>
      AbacusInput.ofVal (FFmt.f32.decode ((c.values u M).getD 0 0)))).foldl Abacus.add c.g.x[n.toFin]
    let after (c : Ctx) (L : Fin 32) : Abacus := (before c L).add (.ofVal (FFmt.f32.decode ((c.values u L).getD 0 0)))
    Starts (.xscan d n b rb m) 2 u [(op32 b, rb)] .xscan m.la m.tk
      (fun c L => if laneIn c.act L then rd (if m.incl then after c L else before c L) m else {})
      (fun c x => x.modGroup c.gid (fun g => { g with x := g.x.set n.toNat (((lanesOf c.act).map (fun M =>
        AbacusInput.ofVal (FFmt.f32.decode ((c.values u M).getD 0 0)))).foldl Abacus.add c.g.x[n.toFin]) n.isLt })))

/-- What additions leave in an accumulator: the exact sum while nothing overflows or is infinite; NAN and INF by what
was added, in any order; every FP32 value and product of two BF16 values is a multiple of the body's last place (02
R63, R64). A read of an accumulator (02 R65). -/
def Obligations.AbacusSums : Prop :=
  (
    (∀ (x : Abacus) (es : List Exact), x.inf = false → x.ovf = false →
      let y := (es.map AbacusInput.num).foldl Abacus.add x
      y.inf = false ∧ y.nan = x.nan ∧ y.ivd = x.ivd ∧
      (y.ovf = false → y.body.toInt = x.body.toInt + (es.map (fun e => e.scaled (-266))).sum)) ∧
    (∀ (x : Abacus) (is : List AbacusInput), let y := is.foldl Abacus.add x
      y.nan = (x.nan || is.contains .nan) ∧
      y.inf = (x.inf || is.contains (.inf false) || is.contains (.inf true))) ∧
    (∀ (w : Nat) (e : Exact), FFmt.f32.decode w = .num e →
      ∃ k : Nat, e.exp = (k : Int) - 266 ∧ e.scaled (-266) = (if e.neg then -1 else 1) * (e.mant * 2 ^ k : Nat)) ∧
    (∀ (v w : Nat) (e : Exact), AbacusInput.ofProduct (FFmt.bf16.decode v) (FFmt.bf16.decode w) = .num e →
      ∃ k : Nat, e.exp = (k : Int) - 266 ∧ e.scaled (-266) = (if e.neg then -1 else 1) * (e.mant * 2 ^ k : Nat))) ∧
  (
    ∀ (x : Abacus) (f : FFmt) (m : RMode) (sat : Bool),
      ((x.nan || x.ivd) = true → x.read f m sat = (f.canonicalNan, if x.ivd then flagNV else 0)) ∧
      ((x.nan || x.ivd) = false → x.inf = true → f.ieee = true → (x.read f m sat).2 = 0) ∧
      ((x.nan || x.ivd) = false → x.inf = false → x.ovf = true → (x.read f m sat).2 = flagOF ||| flagNX) ∧
      (x.body = 0 → x.nan = false → x.ivd = false → x.inf = false → x.ovf = false → x.read f m sat = (0, 0)))

/-! Cross-lane instructions (08 R245 to R249). -/

/-- Shuffles, votes and the permute compute from the lanes of the participating set; LFOLD and LSAME become pending
instructions. What LFOLD's operations compute from the values of the participating lanes (08 R248): sums modulo 2^32,
extremes, and bitwise folds, whatever the order. -/
def Obligations.CrossLane : Prop :=
  (
    let su (f : FQ) : Uses :=
      { srcs := [op32 f.a, op32 f.b], dst := some (op32 f.d), member := some f.j.toNat, alsoReads := [0x500 + f.j.toNat],
        badType := tyOf f.d != .vary }
    let a (f : FQ) (c : Ctx) (L : Fin 32) : Nat := (c.values (su f) L).getD 0 0
    let b (f : FQ) (c : Ctx) (L : Fin 32) : Nat := (c.values (su f) L).getD 1 0
    let get (i : FQ → Instr) (src : Nat → Nat → Int) : Prop :=
      ∀ f, ComputesWhen (i f) { words := 1, row := ⟨some 4, none, none⟩, uses := su f } (fun _ _ => True) (fun c m L =>
        { val := match (lanesOf m).find? (fun M => (M.val : Int) == src L.val (b f c L)) with
            | some M => a f c M
            | none => a f c L })
    let vu (pd : List Nat) (d : Option Code) (p : List PredRef) (j : BitVec 4) : Uses :=
      { preds := p, pdst := pd, dst := d.map op32, member := some j.toNat, alsoReads := [0x500 + j.toNat] }
    let vote (i : Instr) (u : Uses) (out : Ctx → Word → Fin 32 → LaneOut) : Prop :=
      ComputesWhen i { words := 1, row := ⟨some 2, none, some 1⟩, uses := u } (fun _ _ => True) out
    let fu (d a : Code) (j : BitVec 4) (wide : Bool) : Uses :=
      { srcs := [op32 a], dst := some (op32 d), member := some j.toNat, alsoReads := [0x500 + j.toNat], anySrc := wide,
        badType := if wide then tyOf d == .aff else tyOf d != .vary }
    get .lgetAbs (fun _ x => (x % 32 : Nat)) ∧ get .lgetBelow (fun L x => (L : Int) - x) ∧
    get .lgetAbove (fun L x => (L : Int) + x) ∧ get .lgetBfly (fun L x => ((L ^^^ (x % 32) : Nat) : Int)) ∧
    (∀ pd p j, vote (.pollEvery pd p j) (vu [pd.toNat] none [p] j) (fun c m _ => { pred := (lanesOf m).all (c.g.predRef p) })) ∧
    (∀ pd p j, vote (.pollSome pd p j) (vu [pd.toNat] none [p] j) (fun c m _ => { pred := (lanesOf m).any (c.g.predRef p) })) ∧
    (∀ d p j, vote (.pollMask d p j) (vu [] (some d) [p] j)
      (fun c m _ => { val := (maskOf (fun L => laneIn m L && c.g.predRef p L)).toNat })) ∧
    (∀ pd j, vote (.lead pd j) (vu [pd.toNat] none [] j) (fun _ m L => { pred := L == lowestLane m })) ∧
    (∀ f, ComputesWhen (.tlp f) { words := 1, row := ⟨some 4, none, none⟩, uses := su f } (fun _ _ => True) (fun c m L =>
      let byte (i : Nat) : Nat :=
        let x := b f c L / 256 ^ i % 256
        if x < 128 then
          match (lanesOf m).find? (fun M => M.val == x / 4) with
          | some M => a f c M / 256 ^ (x % 4) % 256
          | none => 0
        else 0
      { val := byte 0 + 256 * byte 1 + 256 ^ 2 * byte 2 + 256 ^ 3 * byte 3 })) ∧
    (∀ d a j m, Starts (.lfold d a j m) 2 (fu d a j true) [] .lfold m.la m.tk (fun c _ =>
      { val := foldValues m.rop m.signed ((lanesOf (c.part (fu d a j true))).map (fun L =>
          (c.values (fu d a j true) L).getD 0 0)) })) ∧
    (∀ d a j all la tk, let u := fu d a j all
      let same (c : Ctx) (L : Fin 32) : Word :=
        maskOf (fun M => laneIn (c.part u) M && (c.values u M).getD 0 0 == (c.values u L).getD 0 0)
      Starts (.lsame d a j all la tk) 2 u [] .lfold la tk (fun c L =>
        { val := (if all then (if same c L = c.part u then same c L else 0) else same c L).toNat }))) ∧
  (
    (∀ sg (vs : List Nat), (∀ v ∈ vs, v < 2 ^ 32) → foldValues 0 sg vs = vs.sum % 2 ^ 32) ∧
    (∀ sg (vs : List Nat), vs ≠ [] → (∀ v ∈ vs, v < 2 ^ 32) →
      (foldValues 1 sg vs ∈ vs ∧ ∀ v ∈ vs, readInt 32 sg (foldValues 1 sg vs) ≤ readInt 32 sg v) ∧
      (foldValues 2 sg vs ∈ vs ∧ ∀ v ∈ vs, readInt 32 sg v ≤ readInt 32 sg (foldValues 2 sg vs))) ∧
    (∀ sg (vs : List Nat) (k : Nat), vs ≠ [] →
      (foldValues 3 sg vs).testBit k = vs.all (fun v => v.testBit k) ∧
      (foldValues 4 sg vs).testBit k = vs.any (fun v => v.testBit k) ∧
      (foldValues 5 sg vs).testBit k = decide (vs.countP (fun v => v.testBit k) % 2 = 1)))

/-- A pending instruction whose accesses are all performed has its results written lane by lane by its completion
event (03 R91; 08 Table 8.4); a window store's wait for those of earlier window stores of its group (01 R19; 08 R229).
What writing results does: with results left the instruction stays pending with just those; with none left it is gone.
When the event names every lane that has a result, the instruction completes: its results land in registers and predicates
(the flag of a PUSH is one), its flags in FPSTAT, its queue entries hold their values, its counter counts one less, and memory is as before; the elements of a window store that an
instruction has written in the same cycle keep what that instruction wrote (01 R19; 03 R91, R93; 07 R179). -/
def Obligations.Completions : Prop :=
  (
    let on (i : Nat → Word → Instr) (kind : OpKind) : Prop :=
      ∀ (s : State) (op : Nat) (lanes : Word) (o : VOp), s.ops.find op = some o → o.kind = kind → o.todo = [] →
        exec (i op lanes) s = .next (s.completeLanes op lanes)
    on .sfuComplete .sfu ∧ on .xrdComplete .xrd ∧ on .xscanComplete .xscan ∧ on .lfoldComplete .lfold ∧
    on .pushComplete .push ∧ on .loadComplete (.load none) ∧ (∀ q, on .queueFill (.load (some q))) ∧
    (∀ q, on .atomicComplete (.atomic q)) ∧
    (∀ (s : State) (op : Nat) (o : VOp), s.ops.find op = some o → o.kind = .store → o.todo = [] →
      exec (.storeComplete op) s = .next (if s.windowStoreWaits op then s else s.completeLanes op (BitVec.allOnes 32))) ∧
    (∀ (s : State) (op : Nat) (lanes : Word) (o : VOp), s.ops.find op = some o → o.kind = .qtok →
      exec (.qtokProduce op lanes) s = .next (s.completeLanes op (maskOf (fun L => laneIn lanes L &&
        !s.ops.any (fun e => decide (e.1 < op) && e.2.gid == o.gid && e.2.todo.any (fun a => a.lane == L))))))) ∧
  (
    ∀ (s : State) (op : Nat) (m : Word) (o : VOp), s.ops.find op = some o → o.todo = [] →
      (o.results.any (fun r => !laneIn m r.lane) = true →
        ∃ p, (s.completeLanes op m).ops.find op = some p ∧ p.results = o.results.filter (fun r => !laneIn m r.lane)) ∧
      (o.results.any (fun r => !laneIn m r.lane) = false → (s.completeLanes op m).ops.find op = none)) ∧
  (
    ∀ (s : State) (op : Nat) (o : VOp) (g : Group), OpDone s op o g →
      let ends (i : Instr) (ws : List RegWrite) : Prop := ∃ t, exec i s = .next t ∧ OpEnds s op o g (ws ++ o.flags) t
      let kept (w : RegWrite) : Bool := match w with
        | .vElem n L _ => !g.landed.any (fun e => decide (s.dieCycle g.die ≤ e.1) && e.2.1 == n && e.2.2 == L)
        | _ => true
      (∀ lanes : Word, (∀ r ∈ o.results, laneIn lanes r.lane = true) →
        (o.kind = .load none → ends (.loadComplete op lanes) o.resultWrites) ∧
        (∀ q, o.kind = .load (some q) → ends (.queueFill op lanes) o.resultWrites) ∧
        (∀ q, o.kind = .atomic q → ends (.atomicComplete op lanes) o.resultWrites) ∧
        (o.kind = .qtok → (∀ e ∈ s.ops, e.1 < op → e.2.gid = o.gid → e.2.todo = []) →
          ends (.qtokProduce op lanes) o.resultWrites) ∧
        (o.kind = .sfu → ends (.sfuComplete op lanes) o.resultWrites) ∧
        (o.kind = .xrd → ends (.xrdComplete op lanes) o.resultWrites) ∧
        (o.kind = .xscan → ends (.xscanComplete op lanes) o.resultWrites) ∧
        (o.kind = .lfold → ends (.lfoldComplete op lanes) o.resultWrites) ∧
        (o.kind = .push → ends (.pushComplete op lanes) o.resultWrites)) ∧
      (o.kind = .store → s.windowStoreWaits op = false → ends (.storeComplete op) (o.resultWrites.filter kept)))

/-- Writes that land: the last write to an element of a varying, uniform or affine register or of a predicate holds, what none
names is as before, p0 stays true, and flags join FPSTAT; a team register holds the last write to it, after the writes that
landed before (03 R88, R89; 01 R22, R23, R29; 07 R210). What is due lands with the cycle in which it is due, and what is not
stays (03 R88). -/
def Obligations.WritesLand : Prop :=
  (∀ (s : State) (cyc gid : Nat) (g : Group) (ws : List RegWrite), s.groups.find gid = some g →
    let t := s.landAllWrites cyc gid ws
    (∃ h, t.groups.find gid = some h ∧ Landed g h ws) ∧ t.mem = s.mem ∧
    (∀ m, s.teams.find g.team = some m → (∀ w ∈ m.late, w.cycle < cyc ∨ (w.cycle = cyc ∧ w.slot ≤ g.sc.slot % 6)) →
      ∃ u, t.teams.find g.team = some u ∧ ∀ n : Fin 16, u.regs[n] = (lastM ws n.val).getD m.regs[n])) ∧
  (∀ (s : State) (gid : Nat) (g : Group) (st : Stream) (adv cyc : Nat), s.groups.find gid = some g →
    let due (l : Landing) : Bool := decide (l.due ≤ adv)
    ∃ h, (s.landDue gid st adv cyc).groups.find gid = some h ∧ (h.stream st).landing = (g.stream st).landing.dropWhile due ∧
      Landed g h (((g.stream st).landing.takeWhile due).flatMap (fun l => l.writes)))

/-! Control flow (08 R214 to R222; 07 R201 to R208). -/

/-- BRA, BRQ and JMP send the lanes that take them to their targets, when those are headers, and every other lane
behind the instruction; BRQ pops q6. EXIT ends its stream in the active lanes; YIELD ends the run behind it; NOP does
nothing; BPT marks the clause (07 R176; 08 R217 to R219). -/
def Obligations.TransfersOfControl : Prop :=
  (
    let off (c : Ctx) (o : BitVec 21) : Dword := c.pc + (o.signExtend 64 <<< 2)
    (∀ p o, Transfers (.bra p o) { preds := [p] }
      (fun s c => (∃ L, laneIn c.act L = true ∧ c.g.predRef p L = true) → s.goodTargets c [off c o])
      (fun _ _ x => x)
      (fun _ c L => some (if laneIn c.act L && c.g.predRef p L then off c o else c.pc + 4))) ∧
    (∀ n o, let u : Uses := { srcs := [op32 0x76] }
      let go (c : Ctx) (L : Fin 32) : Bool := laneIn c.act L && (((c.values u L).getD 0 0 != 0) != n)
      Transfers (.brq n o) u (fun s c => (∃ L, go c L = true) → s.goodTargets c [off c o])
        (fun _ c x => (x.modGroup c.gid (fun g => g.pop u c.act)).count c.g.core 0x01 1)
        (fun _ c L => some (if go c L then off c o else c.pc + 4))) ∧
    (∀ a ra, let u : Uses := { srcs := [op64 a] }
      let dst (c : Ctx) (L : Fin 32) : Dword := BitVec.ofNat 64 ((c.values u L).getD 0 0)
      Transfers (.jmp a ra) u (fun s c => s.goodTargets c ((lanesOf c.act).map (dst c))) (fun _ _ x => x)
        (fun _ c L => some (if laneIn c.act L then dst c L else c.pc + 4)) [(op64 a, ra)])) ∧
  (
    Transfers .exit {} (fun _ _ => True) (fun _ c x => if c.act = 0 then x else x.exitLanes c.gid c.st c.act)
      (fun _ c L => if laneIn c.act L then none else some (c.pc + 4)) ∧
    Acts .yield 1 {} none [] true (fun _ _ => True) (fun _ _ x => x) ∧
    Acts .nop 1 {} none [] false (fun _ _ => True) (fun _ _ x => x) ∧
    (∀ i, Acts (.bpt i) 1 {} none [] false (fun _ _ => True) (fun _ c x =>
      if c.act = 0 then x
      else x.modGroup c.gid (fun g => g.modStream c.st (fun y => y.noteBpt c.hdr i.toNat c.lanes)))) ∧
    (∀ (s : State) (gid : Nat) (st : Stream) (m : Word) (g h : Group) (L : Fin 32), s.groups.find gid = some g →
      (s.exitLanes gid st m).groups.find gid = some h → laneIn m L = true → ((h.stream st).lanes[L]).exited = true))

/-- CALL and CALLR push the address behind them in the lanes they take, a full stack's oldest entry being spilled; RET goes to
the newest entry, and ends its stream in a lane that has none (07 R205 to R207; 08 R217). -/
def Obligations.CallsAndReturns : Prop :=
  let off (c : Ctx) (o : BitVec 21) : Dword := c.pc + (o.signExtend 64 <<< 2)
  (∀ p o, let ls (c : Ctx) : List (Fin 32) := (lanesOf c.act).filter (c.g.predRef p)
    Transfers (.call p o) { preds := [p] }
      (fun s c => (∃ ps, s.spills c (ls c) = .ok ps) ∧ (ls c ≠ [] → s.goodTargets c [off c o]))
      (fun s c x => s.pushAll c (ls c) x)
      (fun _ c L => some (if laneIn c.act L && c.g.predRef p L then off c o else c.pc + 4))) ∧
  (∀ a ra, let u : Uses := { srcs := [op64 a] }
    let dst (c : Ctx) (L : Fin 32) : Dword := BitVec.ofNat 64 ((c.values u L).getD 0 0)
    Transfers (.callr a ra) u
      (fun s c => (∃ ps, s.spills c (lanesOf c.act) = .ok ps) ∧ s.goodTargets c ((lanesOf c.act).map (dst c)))
      (fun s c x => s.pushAll c (lanesOf c.act) x)
      (fun _ c L => some (if laneIn c.act L then dst c L else c.pc + 4)) [(op64 a, ra)]) ∧
  (let stack (c : Ctx) (L : Fin 32) : List Dword := ((c.g.stream c.st).lanes[L]).rstack
   let held (c : Ctx) : List (Fin 32) := (lanesOf c.act).filter (fun L => !(stack c L).isEmpty)
   let ends (c : Ctx) : Word := maskOf (fun L => laneIn c.act L && (stack c L).isEmpty)
   Transfers .ret {}
    (fun s c => (∀ L, laneIn c.act L = true → (stack c L).isEmpty = true → ((c.g.stream c.st).lanes[L]).spilled = 0) ∧
      (∀ L ∈ held c, ((c.g.stream c.st).lanes[L]).rbad.contains 0 = false) ∧ s.goodTargets c ((held c).map (fun L => (stack c L).headD 0)))
    (fun _ c x =>
      let x := x.modGroup c.gid (fun g => (held c).foldl (fun g L => g.popReturn c.st L) g)
      if ends c = 0 then x else x.exitLanes c.gid c.st (ends c))
    (fun _ c L => if laneIn (ends c) L then none
      else some (if laneIn c.act L then (stack c L).headD 0 else c.pc + 4)))

/-- What a push on the return stack does: on a stack with room the address is the newest entry; on a full one the
oldest entry is in memory at its place, and the spill pointer has moved (07 R205, R206). RETURN_STACK_REFILL: the run
waits no longer; a refilled lane holds the address that memory gives, one entry fewer is spilled (07 R207). -/
def Obligations.ReturnStacks : Prop :=
  (
    ∀ (s : State) (c : Ctx) (ret : Dword) (L : Fin 32) (g : Group), s.groups.find c.gid = some g →
      (∃ h, (s.pushReturn c ret L none).groups.find c.gid = some h ∧
        ((h.stream c.st).lanes[L]).rstack = ret :: ((g.stream c.st).lanes[L]).rstack ∧
        (s.pushReturn c ret L none).mem = s.mem) ∧
      (∀ key : Nat, g = c.g → s.viralBlocks key = false → ((g.stream c.st).lanes[L]).rstack ≠ [] → s.mem.wf = true →
        ∃ h, (s.pushReturn c ret L (some key)).groups.find c.gid = some h ∧
          ((h.stream c.st).lanes[L]).rstack = ret :: ((g.stream c.st).lanes[L]).rstack.dropLast ∧
          ((h.stream c.st).lanes[L]).spilled = ((g.stream c.st).lanes[L]).spilled + 1 ∧
          natOfBytes ((s.pushReturn c ret L (some key)).mem.readN key 8) =
            ((((g.stream c.st).lanes[L]).rstack.getLast?).getD 0).toNat ∧
          (match c.st with
           | .addr => h.sptr[L] = g.sptr[L] - 8
           | .comp => h.cspill[L] = g.cspill[L] + 8))) ∧
  (
    (∀ (s : State) (slot : Nat) (r : Run), s.runs.find slot = some r → r.stalled = some .refill →
      ∃ t, exec (.returnStackRefill slot) s = .next t ∧ t.mem = s.mem ∧ ∀ q, t.runs.find slot = some q → q.stalled = none) ∧
    (∀ (s : State) (c : Ctx) (L : Fin 32) (key : Nat) (g : Group), s.groups.find c.gid = some g →
      ∃ h, (s.refill c L key).groups.find c.gid = some h ∧
        ((h.stream c.st).lanes[L]).rstack = [BitVec.ofNat 64 (natOfBytes (s.mem.readN key 8))] ∧
        ((h.stream c.st).lanes[L]).spilled = ((g.stream c.st).lanes[L]).spilled - 1 ∧
        (match c.st with
         | .addr => h.sptr[L] = g.sptr[L] + 8
         | .comp => h.cspill[L] = g.cspill[L] - 8)))

/-- ARMJ, JOIN and WAITJ (07 R201; 08 R220 to R222). The release of a rejoin set: when every lane of the mask has
arrived or exited, no lane of the stream stays parked on it, those that were parked stand on no path in that cycle, and its
arrivals are cleared; otherwise nothing changes (07 R202). -/
def Obligations.RejoinMasks : Prop :=
  (
    (∀ d a j, let u : Uses :=
        { srcs := [op32 a], dst := some (op32 d), compOnly := true, badType := tyOf a != .uni || tyOf d == .aff,
          alsoReads := [0x500 + j.toNat, arrivalRes .addr j.toNat, arrivalRes .comp j.toNat] }
      let lat := if tyOf d = .vary then 2 else 1
      Acts (.armj d a j) 1 u (some lat) [] false (fun _ _ => True) (fun _ c x =>
        if c.act = 0 then x
        else (x.issueFixed c u lat (destWrites (op32 d) c.act (fun _ => (c.g.j[j.toFin]).toNat))).modGroup c.gid (fun g =>
            g.armj j.toFin c.act (BitVec.ofNat 32 ((c.values u (lowestLane c.act)).getD 0 0)) (x.dieCycle g.die)))) ∧
    (∀ j, Acts (.join j) 1 (joinUses j) none [] false (fun _ _ => True) (fun _ c x =>
      x.modGroup c.gid (fun g => (g.arrive c.st j.toFin c.act (x.dieCycle g.die)).release c.st j.toFin (x.dieCycle g.die)))) ∧
    (∀ j, Transfers (.waitj j) (joinUses j) (fun _ _ => True)
      (fun _ c x => x.modGroup c.gid (fun g =>
        ((g.arrive c.st j.toFin c.act (x.dieCycle g.die)).modLanes c.st (c.act &&& c.g.j[j.toFin]) (fun l => { l with park := .join j.toNat })).release
          c.st j.toFin (x.dieCycle g.die)))
      (fun _ c L => if laneIn (c.act &&& c.g.j[j.toFin]) L then none else some (c.pc + 4)))) ∧
  (
    ∀ (g : Group) (st : Stream) (j : Fin 16) (cyc : Nat),
      let ready := ∀ L, laneIn g.j[j] L = true → laneIn (g.stream st).arrivals[j] L = true ∨ ((g.stream st).lanes[L]).exited = true
      let h := g.release st j cyc
      (ready → (∀ L : Fin 32, ((h.stream st).lanes[L]).park ≠ Park.join j.val ∧
          (((g.stream st).lanes[L]).park = Park.join j.val → laneIn ((h.stream st).walkers cyc) L = false)) ∧
        (h.stream st).arrivals[j] = 0) ∧
      (¬ ready → h = g))

/-! Memory (08 R223 to R240; 13 R326). -/

/-- A memory instruction that nothing stops pops its operands and becomes pending with its lanes' accesses, which are performed at
once unless one of them is ordered; PREF does nothing further.
A memory instruction that is no queue load faults, when no lane waits and some lane's address is refused, at the lowest such
lane, with its cause and address (17 R436 to R438); an address that is no multiple of the size is MISALIGNED (08 R225). -/
def Obligations.MemoryInstructions : Prop :=
  (
    ∀ (j : Instr) (w : Nat) (i : MemInstr), memOf j = some (w, i) →
      ∀ (s : State) (r : Run) (cs : List Ctx), Going s r cs i.uses (fun _ => none) →
        (i.act ≠ .pref → (∀ c ∈ cs, c.act ≠ 0 → MemReady s i c) →
          exec j s = .next (s.afterIssue cs w [] false (fun c x =>
            if c.act = 0 then x
            else (x.modGroup c.gid (fun g => g.pop i.uses c.act)).addOp
              (i.start x c (i.accesses s c) [])) State.performBundle)) ∧
        (i.act = .pref → (∀ c ∈ cs, c.act ≠ 0 → s.orderedOutstanding c.gid = false ∧
            ∀ L ∈ i.lanes c.act, ∃ sp k, i.lanePlace s c L = .at sp k) →
          exec j s = .next (s.afterIssue cs w [] false (fun c x =>
            if c.act = 0 then x else x.modGroup c.gid (fun g => g.pop i.uses c.act)) State.performBundle))) ∧
  (
    ∀ (j : Instr) (w : Nat) (i : MemInstr), memOf j = some (w, i) → i.uses.pushes.isSome = false →
      (∀ (s : State) (r : Run) (cs : List Ctx) (bad : Ctx → Fin 32) (why : Ctx → Cause), Going s r cs i.uses (fun _ => none) →
        (∀ c ∈ cs, c.act ≠ 0 ∧ s.orderedOutstanding c.gid = false ∧ bad c ∈ i.lanes c.act ∧
          i.lanePlace s c (bad c) = .fault (why c) ∧
          (∀ L ∈ i.lanes c.act, ∀ x, i.lanePlace s c L ≠ .later x) ∧
          (∀ L ∈ i.lanes c.act, L < bad c → ∃ sp k, i.lanePlace s c L = .at sp k)) →
        exec j s = .next (s.afterFaults r cs w (fun c =>
          .fault ⟨why c, i.kind, i.act != .load && i.act != .pref, i.laneAddr c (bad c)⟩))) ∧
      (∀ s c L, i.act ≠ .pref → i.laneAddr c L % i.size ≠ 0 → i.lanePlace s c L = .fault .misaligned))

/-- A lane's access to memory, performed: a load gives the bytes at its place and leaves memory alone; a store leaves
its value there and every other byte alone; an atomic writes its new value and gives the old (08 R229, R237; 13 R326).
The new values of ATOM's operations (08 R237). -/
def Obligations.AccessesPerformed : Prop :=
  (
    ∀ (s : State) (id core : Nat) (o : VOp) (a : LaneAccess), s.ops.find id = some o → a.space = .phys → s.viral = false →
      s.mem.wf = true → 0 < a.size →
      let t := s.performAccess id core a
      let old := natOfBytes (s.mem.readN a.addr a.size)
      (∀ k, k < a.addr ∨ a.addr + a.size ≤ k → t.mem.read k = s.mem.read k) ∧
      (a.act = .load → t.mem = s.mem) ∧
      (∀ x, a.act = .store x → natOfBytes (t.mem.readN a.addr a.size) = x % 2 ^ (8 * a.size)) ∧
      (∀ op sg v cmp, a.act = .atom op sg v cmp →
        natOfBytes (t.mem.readN a.addr a.size) = atomNew op sg (8 * a.size) old v cmp % 2 ^ (8 * a.size)) ∧
      (∀ bf v, a.act = .fatom bf v → natOfBytes (t.mem.readN a.addr a.size) = fatomNew bf old v.toNat % 2 ^ (8 * a.size)) ∧
      (∃ p, t.ops.find id = some p ∧ p.todo = o.todo.filter (fun b => b.lane != a.lane) ∧
        p.results = o.results ++ (match a.act with
          | .store _ => []
          | _ => if codeNames o.t = .zero then []
                 else [o.receive a.lane a.size old (if s.poisonIn a.addr a.size then some a.va else none)]))) ∧
  (
    ∀ (n old v cmp : Nat), old < 2 ^ n → v < 2 ^ n →
      (∀ sg, atomNew 0 sg n old v cmp = (old + v) % 2 ^ n ∧
        readInt n sg (atomNew 1 sg n old v cmp) = min (readInt n sg old) (readInt n sg v) ∧
        readInt n sg (atomNew 2 sg n old v cmp) = max (readInt n sg old) (readInt n sg v) ∧
        (∀ k, (atomNew 3 sg n old v cmp).testBit k = (old.testBit k && v.testBit k) ∧
          (atomNew 4 sg n old v cmp).testBit k = (old.testBit k || v.testBit k) ∧
          (atomNew 5 sg n old v cmp).testBit k = (old.testBit k != v.testBit k)) ∧
        atomNew 6 sg n old v cmp = v ∧ atomNew 7 sg n old v cmp = (if old = cmp then v else old)))

/-! Queues, barriers and engine instructions (08 R240 to R243; 10 R286; 14 R352 to R361). -/

/-- QTOK, QPUSH.p, QDEPTH and TBAR. A phase of a team barrier completes exactly when every group of the team has
arrived in that stream, has exited there or has finished; its arrivals are then cleared (08 R243). -/
def Obligations.QueuesAndTeamBarriers : Prop :=
  (
    (∀ la tk, let u : Uses := { dst := some (op32 0x77) }
      Acts (.qtok la tk) 1 u none [] false
        (fun s c => c.act ≠ 0 → s.orderedOutstanding c.gid = false ∧ s.varWait c c.act tk.toNat = none)
        (fun _ c x => if c.act = 0 then x else x.addOp { VOp.start x c u .qtok la tk with results := (lanesOf c.act).map (fun L =>
          { lane := L, writes := [], entries := [⟨0, .data⟩], poison := none }) })) ∧
    (∀ d p, Computes (.qpushP d p)
      { words := 1, row := ⟨some 1, some 1, some 1⟩
        uses := { dst := some (op32 d), preds := [p], compOnly := true,
                  badOwner := !(codeNames d == .q 4 || codeNames d == .q 5 || codeNames d == .q 6) }
        val := fun _ q => if q.getD 0 false then 1 else 0 }) ∧
    (∀ d a q, codeNames a = .q q →
      let p : LaneRule := { words := 1, row := ⟨some 2, none, some 1⟩, uses := { dst := some (op32 d) } }
      let depth (c : Ctx) (L : Fin 32) : Nat := (c.g.entries q L).countP QEntry.present
      let val (c : Ctx) (L : Fin 32) : Nat :=
        if tyOf d = .vary then depth c L
        else (lanesOf c.act).foldl (fun x M => Nat.min x (depth c M)) (depth c (lowestLane c.act))
      ∀ (s : State) (r : Run) (cs : List Ctx), Going s r cs p.full (fun _ => some p.latency) → (∀ c ∈ cs, s.yMode c.g = 0) →
        exec (.qdepth d a) s = .next (s.afterIssue cs 1 [] false (fun c x =>
          (if c.part p.full = 0 then x
           else x.issueFixed c p.full p.latency (p.writesOf c (c.part p.full) (fun L => { val := val c L }))).yAfterAll c.g yQdepth
             (val c) (if tyOf d = .vary then lanesOf c.act else (lanesOf c.act).take 1)))) ∧
    (∀ a ra, let u : Uses := { srcs := [op32 a], cover := true, whole := true, badType := tyOf a != .uni }
      Acts (.tbar a ra) 1 u none [(op32 a, ra)] false
        (fun s c => c.act ≠ 0 → c.st = .addr → s.orderedOutstanding c.gid = false) (fun _ c x =>
        if c.act = 0 then x else x.arriveTbar c.gid c.g c.st c.adv ((c.values u (lowestLane c.act)).getD 0 0 % 4)))) ∧
  (
    ∀ (s : State) (tid : Nat) (t : Team) (st : Stream) (n : Nat), s.teams.find tid = some t →
      let b := t.tbar[tbarIx st n]
      let done := ∀ e ∈ s.groups, e.2.team = tid →
        e.2.status = .finished ∨ ((e.2.stream st).allExited = true ∧ (st = .addr → s.orderedOutstanding e.1 = false)) ∨
          b.arrived.getLsbD e.2.groupId = true
      (done → b.arrived ≠ 0 → ∃ u, (s.checkTbar tid st n).teams.find tid = some u ∧ u.tbar[tbarIx st n] = ⟨b.phase + 1, 0, b.visible⟩ ∧
        ∀ m, tbarIx st m ≠ tbarIx st n → u.tbar[tbarIx st m] = t.tbar[tbarIx st m]) ∧
      (¬ done → s.checkTbar tid st n = s))

/-- PUSH of a group that owns the queue: with room the 64 bytes of its registers become the queue's last command and
the flag is false; in a full queue nothing is appended and the flag is true (14 R353). GSET and GCLR resolve a guard;
a guarded command at a queue's head consumes its guard and starts, or is discarded; it waits while a queue of a lower
number has the same guard at its head, while the group is halted and while the guard is unresolved (14 R355 to R357). -/
def Obligations.PushAndGuards : Prop :=
  (
    ∀ (x : PushOp), let u (s : State) : Uses := pushUses x ((s.curCtx.map (fun c => c.g.sysMode)).getD false)
      let q (c : Ctx) : Nat := 32 * c.g.die + x.qid.toNat
      let rank (s : State) (c : Ctx) : Nat := appendRank c.g.core (s.cur % 6 - 4)
      let full (s : State) (c : Ctx) : Bool := decide (64 ≤ (s.queues.getD (q c) EQueue.reset).cmds.length)
      let bytes (s : State) (c : Ctx) : List Byte := (c.values (u s) (lowestLane c.act)).flatMap (fun w => bytesOfNat 4 w)
      ActsIn (.push x) 1 u (fun _ => none) []
        (fun s c => c.act ≠ 0 → s.ownsQueue c.g x.qid.toNat = true ∧ s.orderedOutstanding c.gid = false ∧
          s.varWait c c.act x.tk.toNat = none ∧ s.yMode c.g = 0 ∧ (full s c = false → s.appendWaits (q c) (rank s c) = false))
        (fun s c y =>
          if c.act = 0 then y
          else
            let b := y.yAfter c.g yFlag 0 (if full s c then 1 else 0)
            let z := if full s c then b else (b.appendRecord c.g (q c) (bytes s c)).modQueue (q c) (fun e =>
              { e with cmds := e.cmds ++ [⟨bytes s c, x.guard.toNat, c.gid, c.g.launch, c.g.fn, false, false⟩]
                       appended := some ((b.appendRecord c.g (q c) (bytes s c)).dieCycle (q c / 32), rank s c) })
            z.addOp { VOp.start z c (u s) .push x.la x.tk with results := (lanesOf c.act).map (fun L =>
              { lane := L, writes := [.pBit x.flagp.toNat L (full s c)], entries := [], poison := none }) })) ∧
  (
    let sets (i : BitVec 4 → Instr) (v : Guard) : Prop :=
      ∀ g, Acts (i g) 1 { compOnly := true, badOperand := g == 0 } none [] false (fun _ _ => True) (fun _ c x =>
        if c.act = 0 then x
        else (x.modGroup c.gid (fun y => { y with guards := y.guards.set g.toNat v g.isLt })).repair c.gid
          (fun b => b.what == 0x600 + g.toNat))
    sets .gset .isTrue ∧ sets .gclr .isFalse ∧
    (∀ (s : State) (q : Nat) (c : QCmd) (rest : List QCmd) (g : Group) (h : c.guard < 16),
      (s.queues.getD q EQueue.reset).cmds = c :: rest → c.guard ≠ 0 → c.started = false → s.groups.find c.gid = some g →
      (s.guardTaken q c = true ∨ g.status = .halted → exec (.guardConsume q) s = .next s) ∧
      (s.guardTaken q c = false → g.status ≠ .halted → g.guards[c.guard] ≠ .unresolved → ∃ t, exec (.guardConsume q) s = .next t ∧
        (t.queues.getD q EQueue.reset).cmds = (if g.guards[c.guard] = .isTrue then { c with started := true } :: rest else rest) ∧
        (∃ k, t.groups.find c.gid = some k ∧ k.guards[c.guard] = .unresolved)) ∧
      (g.guards[c.guard] = .unresolved → g.status ≠ .finished → exec (.guardConsume q) s = .next s)))

/-- BARINIT, BARARR and BARWAIT of the lowest active lane, on an aligned object that can be reached (14 R358 to R361).
BARWAIT is performed and completes in one event, the model's choice (log 45), once the object holds: D then has the phase
word of bytes 0x0C to 0x0F. What BARINIT and BARARR leave in an object: the pending count and, on BARINIT, the next phase;
an arrival subtracts its count modulo 2^64 (14 R358, R359). -/
def Obligations.BarrierObjects : Prop :=
  (
    let u (a b : Code) : Uses := { srcs := [op64 a, op32 b], addrStream := true, badType := tyOf a != .uni || tyOf b != .uni }
    let va (v : Uses) (c : Ctx) : Nat := (c.values v (lowestLane c.act)).getD 0 0
    let arg (v : Uses) (c : Ctx) : Nat := (c.values v (lowestLane c.act)).getD 1 0
    let keyOf (s : State) (c : Ctx) (need : Need) (a : Nat) : Nat :=
      match s.translate c.g.die c.g.fn c.g.part (.slot s.cur) need a with | .ok k => k | _ => 0
    let reach (s : State) (c : Ctx) (need : Need) (a : Nat) (tk : Option Nat) : Prop :=
      s.orderedOutstanding c.gid = false ∧ a % 16 = 0 ∧ (∀ t, tk = some t → s.varWait c c.act t = none) ∧
      (∃ k, s.translate c.g.die c.g.fn c.g.part (.slot s.cur) need a = .ok k ∧ s.atDrainPoint c.g.core k = false)
    let one (i : Code → Code → Bool → Bool → Instr) (size : Nat) (act : Nat → Act) : Prop :=
      ∀ a b ra rb, Acts (i a b ra rb) 1 (u a b) none [(op64 a, ra), (op32 b, rb)] false
        (fun s c => c.act ≠ 0 → reach s c .both (va (u a b) c) none)
        (fun s c x =>
          if c.act = 0 then x
          else
            let k := keyOf s c .both (va (u a b) c)
            x.addOp { VOp.start x c (u a b) .store 0 0 with
              counted := false
              todo := [⟨lowestLane c.act, .phys, k, va (u a b) c, size, act (arg (u a b) c)⟩]
              isOrdered := x.needsOrder c.g.core k true })
        State.performBundle
    one .barinit 16 (fun n => .barinit n) ∧
    one .bararr 8 (fun n => .atom 0 false (wrapNat 64 (-(signedOf 32 n))) 0) ∧
    (∀ x : BarwaitOp, let v := barwaitUses x
      Acts (.barwait x) 2 v none [(op64 x.a, x.ra)] false (fun s c => c.act ≠ 0 → reach s c .read (va v c) (some x.tk.toNat))
        (fun _ c y => if c.act = 0 then y else y.addOp (VOp.start y c v
          (.barwait x.d (va v c) (if x.e = 0x78 then none else some (BitVec.ofNat 32 (arg v c)))) x.la x.tk))) ∧
    (∀ (s : State) (op : Nat) (o : VOp) (g : Group) (d : Code) (a k : Nat) (e : Option Word),
      s.ops.find op = some o → o.kind = .barwait d a e → s.groups.find o.gid = some g →
      (g.status = .running ∨ g.status = .halting) → g.trapMode = false → g.transitWait = false → g.pendingTrap = none →
      s.translateNow g.fn g.part .read a = .ok k → s.homeWaits k = false →
      (signedOf 64 (natOfBytes (s.mem.readN k 16)) ≤ 0 → (∀ p, e = some p → natOfBytes (s.mem.readN k 16) / 2 ^ 64 % 2 ^ 32 = p.toNat) →
        ∃ t, exec (.barwaitPerformed op) s = .next t ∧ t.ops.find op = none ∧ t.mem = s.mem ∧
          (s.poisonIn k 16 = false → o.poisoned = none → g.status = .running → (g.sa.allExited && g.sc.allExited) = false →
            (∀ y ∈ s.groups, y.2.killed = false) → ∃ h, t.groups.find o.gid = some h ∧
              Landed g h (destWrites (op32 d) o.mask (fun _ => natOfBytes (s.mem.readN k 16) / 2 ^ 96) ++ o.flags))) ∧
      (0 < signedOf 64 (natOfBytes (s.mem.readN k 16)) → exec (.barwaitPerformed op) s = .next s))) ∧
  (
    (∀ (n old : Nat), (Act.barinit n).newValue 16 old =
      some (wrapNat 64 (signedOf 32 n) + 2 ^ 64 * ((old / 2 ^ 64 + 1) % 2 ^ 32))) ∧
    (∀ (n old : Nat), old < 2 ^ 64 → n < 2 ^ 32 → ∃ v, (Act.atom 0 false (wrapNat 64 (-(signedOf 32 n))) 0).newValue 8 old = some v ∧
      signedOf 64 v = signedOf 64 (wrapNat 64 (signedOf 64 old - signedOf 32 n))))

/-! Matrix and cluster instructions (10 R262 to R270, R286; 11 R288 to R309). -/

/-- MMA in each of its seven formats: one entry for each quarter with an active lane, holding the A rows and scales, the places of
B and the enables; the latch follows REUSEA (10 R266, R270; 11 R292 to R296). -/
def Obligations.MatrixMultiply : Prop :=
  let u (m : MmaOp) (op : Nat) (s : State) : Uses := match s.curCtx with | some c => mmaUses m op c | none => {}
  let v (m : MmaOp) (op : Nat) (s : State) (c : Ctx) : List Nat := c.values (u m op s) (lowestLane c.act)
  let places (m : MmaOp) (op : Nat) (s : State) (c : Ctx) : Except Verdict (List Nat) :=
    s.matrixPlaces c .read m.bsp 16 ((v m op s c).getD 1 0) ((v m op s c).getD 2 0)
      (chunkAddrs ((v m op s c).getD 1 0) ((v m op s c).getD 2 0) (mmaK op) (mmaRowBytes op))
  let mma (i : MmaOp → Instr) (op : Nat) : Prop :=
    ∀ m : MmaOp, Requests (i m) 2 (u m op) [] m.la m.tk (fun c => (quartersOf c.act).length)
      (fun s c => ∃ ps, places m op s c = .ok ps)
      (fun s c x => (quartersOf c.act).map (fun q =>
        REntry.new x c ((v m op s c).getD 0 0) (c.act &&& quarterMask q) (.pass
          { op := op, quarter := q, lanes := c.act &&& quarterMask q, rows := c.aRows m.a, scaled := m.scale,
            rsRow := Vector.ofFn (fun L => c.g.vElem m.rs.toNat L), csRow := Vector.ofFn (fun L => c.g.vElem m.cs.toNat L),
            cs := m.cs.toNat, csel := m.csel.toNat, tsel := m.tsel.toNat, scratchB := m.bsp, base := (v m op s c).getD 1 0,
            pitch := (v m op s c).getD 2 0, phys := (match places m op s c with | .ok ps => ps | .error _ => []),
            enables := m.epi, readyAt := none, promoted := false, waited := 0 })))
      (fun _ x => x)
      (fun _ c x y => { y.modGroup c.gid (fun g => { g with latch := c.newLatch m op x.free }) with free := y.free + 512 })
  mma .mmaBf16 0x64 ∧ mma .mmaF16 0x65 ∧ mma .mmaE4m3 0x66 ∧ mma .mmaE5m2 0x67 ∧ mma .mmaE2m1 0x68 ∧ mma .mmaVq2 0x69 ∧
  mma .mmaI8 0x6A

/-- MLD, MST, MDRAIN, CBLD, ACTLD, MZERO and MTREE enter their requests; MWAIT holds the next clause for them (10 R266 to R268;
11 R297 to R308). -/
def Obligations.MatrixRequests : Prop :=
  let places (s : State) (c : Ctx) (v : List Nat) (need : Need) (sp : XferSpace) (n : Nat) : Except Verdict (List Nat) :=
    s.matrixPlaces c need (spaceIsScratch sp) 16 (v.getD 1 0) (v.getD 2 0) (chunkAddrs (v.getD 1 0) (v.getD 2 0) n 128)
  let got (x : Except Verdict (List Nat)) : List Nat := match x with | .ok ps => ps | .error _ => []
  let inReg (sp : XferSpace) : Bool := match sp with | .reg _ => true | _ => false
  let xu (x : XferOp) (store : Bool) (s : State) : Uses := match s.curCtx with | some c => xferUses x c store | none => {}
  let xv (x : XferOp) (store : Bool) (s : State) (c : Ctx) : List Nat := c.values (xu x store s) (lowestLane c.act)
  let xfer (i : XferOp → Instr) (store : Bool) (need : Need) (reg : Ctx → Code → Nat → EntryKind)
      (mem : Bool → List Nat → EntryKind) : Prop :=
    ∀ x : XferOp, Requests (i x) 2 (xu x store) [] x.la x.tk (fun _ => 1)
      (fun s c => inReg x.space = true ∨ ∃ ps, places s c (xv x store s c) need x.space (x.nrows.toNat + 1) = .ok ps)
      (fun s c y => [REntry.new y c ((xv x store s c).getD 0 0) c.act (match x.space with
        | .reg a => reg c a (x.nrows.toNat + 1)
        | sp => mem (spaceIsScratch sp) (got (places s c (xv x store s c) need sp (x.nrows.toNat + 1))))])
  xfer .mld false .read (fun c a n => .mldReg ((List.range n).map (fun r => Vector.ofFn (fun L => c.g.vElem (a.toNat + r) L)))) .mldMem ∧
  xfer .mst true .write (fun _ a n => .mstReg a.toNat n) .mstMem ∧
  (∀ x : DrainOp, let u (s : State) : Uses :=
      { srcs := [dkOp x.dk, bkOp x.bk], compOnly := true,
        badOperand := (match s.curCtx with | some c => enQuant x.epi && epiQfmt c.g.epi == 3 | none => false) || decide (30 < x.bk.toNat) }
    let v (s : State) (c : Ctx) : List Nat := c.values (u s) (lowestLane c.act)
    Requests (.mdrain x) 2 u [] x.la x.tk (fun _ => 1)
      (fun s c => (v s c).getD 1 0 % 64 = 0 ∧ s.ownsCq c.g.part c.g.fn c.g.die x.ch.toNat = true)
      (fun s c y => [REntry.new y c ((v s c).getD 0 0) c.act
        (.mdrain ((v s c).getD 1 0) x.ch.toNat (x.nrows.toNat + 1) x.tileadd x.int x.epi)])) ∧
  (let table (i : TableOp → Instr) (act : Bool) (bytes : Nat) : Prop :=
    ∀ x : TableOp, let u : Uses := { srcs := [bkOp x.bk], compOnly := true, badOperand := decide (30 < x.bk.toNat) }
      let at_ (s : State) (c : Ctx) : Except Verdict (List Nat) :=
        let b := (c.values u (lowestLane c.act)).getD 0 0
        s.matrixPlaces c .read false 64 b 0 (chunkAddrs b 0 1 bytes)
      Requests (i x) 2 (fun _ => u) [] x.la x.tk (fun _ => 1) (fun s c => ∃ ps, at_ s c = .ok ps)
        (fun s c y => [REntry.new y c 0 c.act (.table act x.tsel.toNat (got (at_ s c)))])
   table .cbld false 4096 ∧ table .actld true 2048) ∧
  (∀ a ra, let u : Uses :=
      { srcs := [op32 a], compOnly := true, badType := match codeNames a with | .k _ => false | _ => true }
    Requests (.mzero a ra) 1 (fun _ => u) [(op32 a, ra)] 0 0 (fun c => (quartersOf c.act).length) (fun _ _ => True)
      (fun _ c y => (quartersOf c.act).map (fun q =>
        REntry.new y c ((c.values u (lowestLane c.act)).getD 0 0) (c.act &&& quarterMask q) .mzero)) (counted := false)) ∧
  (∀ a b ra rb, let u : Uses :=
      { srcs := [op32 a, op32 b], compOnly := true, cover := true, whole := true,
        badType := match codeNames b with | .k _ => false | _ => true }
    Requests (.mtree a b ra rb) 1 (fun _ => u) [(op32 a, ra), (op32 b, rb)] 0 0 (fun _ => 1) (fun _ _ => True)
      (fun _ c y => [REntry.new y c ((c.values u (lowestLane c.act)).getD 1 0) c.act
        (.mtree (Vector.ofFn (fun L =>
          if laneIn c.act L then BitVec.ofNat 32 ((c.values u L).getD 0 0) else BitVec.ofNat 32 L.val)))])
      (fun c x => x.modGroup c.gid (fun g => g.pop u c.act)) (counted := false)) ∧
  Acts .mwait 1 { compOnly := true } none [] false (fun _ _ => True) (fun _ c x =>
    if c.act = 0 then x
    else x.modGroup c.gid (fun g =>
      { g with mwait := (x.ops.filter (fun e => e.2.gid == c.gid && e.2.kind == .request)).map Prod.fst }))

/-- MEPI writes the words of the configuration that its mask names, in order, from consecutive uniform registers; reserved bits
stay 0 (10 Table 10.5; 11 R300). The three forms of CBAR arrive, wait, or both (10 R286). -/
def Obligations.EpilogueAndClusterBarriers : Prop :=
  (∀ a ra (wm : BitVec 5), let ws := (List.range 5).filter (fun w => wm.getLsbD w)
    let u (s : State) : Uses :=
      { srcs := ws.map (fun w => op32 (a + BitVec.ofNat 7 w)), compOnly := true, group := true,
        badOperand := match codeNames a with | .k n => decide (27 < n) | _ => true
        badOwner := !((s.curCtx.map Ctx.handler).getD false) && (match codeNames a with | .k n => decide (n < 16) | _ => false) }
    ActsIn (.mepi a ra wm) 2 u (fun _ => none) [(op32 a, ra)] (fun _ _ => True) (fun s c x =>
      if c.act = 0 then x
      else
        let vs := (c.values (u s) (lowestLane c.act)).map (BitVec.ofNat 32)
        x.modGroup c.gid (fun g => { g with epi := epiWrite g.epi (ws.zip vs) }))) ∧
  (∀ (e : BitVec 160) (ws : List (Nat × Word)) (k : Nat), (epiWrite e ws).getLsbD k =
    (decide (13 ≤ k) && (match ws.reverse.find? (fun w => w.1 == k / 32) with
      | some w => w.2.getLsbD (k % 32)
      | none => e.getLsbD k) && decide (k < 160))) ∧
  (let cb (i : Code → Bool → Instr) (arrive wait : Bool) : Prop :=
    ∀ a ra, let u : Uses := { srcs := [op32 a], compOnly := true, cover := true, whole := true, badType := tyOf a != .uni }
      let n (c : Ctx) : Fin 8 := cbarIx ((c.values u (lowestLane c.act)).getD 0 0)
      Acts (i a ra) 1 u none [(op32 a, ra)] false
        (fun s c => c.act ≠ 0 → arrive = true → s.cbarArrived c.gid c.g (n c) = false)
        (fun _ c x =>
          if c.act = 0 then x
          else
            let y := if arrive then x.arriveCbar c.gid c.g (n c) else x
            if wait then y.waitCbar c.gid (n c) else y)
   cb .cbarArrive true false ∧ cb .cbarWait false true ∧ cb .cbarArriveWait true true)

/-! System instructions and traps (17 R435 to R452). -/

/-- TRAP and HALT end the bundle's runs behind themselves with their causes; RTT in trap mode leaves it, and outside it is an
illegal opcode (17 R446 to R448). -/
def Obligations.TrapHaltReturn : Prop :=
  (∀ a ra, let u : Uses := { srcs := [op32 a], badType := tyOf a != .uni }
    ∀ (s : State) (r : Run) (cs : List Ctx), Going s r cs u (fun _ => none) → (∀ c ∈ cs, c.act ≠ 0) →
      exec (.trap a ra) s = .next (s.afterFaults r cs 1 (fun c =>
        .faultAfter ⟨.trap, .none, false, (c.values u (lowestLane c.act)).getD 0 0⟩))) ∧
  (∀ (s : State) (r : Run) (cs : List Ctx), Going s r cs {} (fun _ => none) → (∀ c ∈ cs, c.act ≠ 0) →
    exec .halt s = .next (s.afterFaults r cs 1 (fun _ => .faultAfter (FaultInfo.plain .halted)))) ∧
  (∀ (s : State) (r : Run) (cs : List Ctx), Going s r cs { cover := true } (fun _ => none) →
    (∀ c ∈ cs, c.g.trapMode = true) →
    exec .rtt s = .next ((s.afterTransfer cs 1 [] false
      (fun c x => if c.act = 0 then x else x.modGroup c.gid (fun g => { g with trapMode := false }))
      (fun c _ => if c.act = 0 then some (c.pc + 4) else none)).returnTraps s)) ∧
  (∀ (s : State) (r : Run) (gid : Nat) (m : Word) (g : Group), s.runs.find s.cur = some r → r.members = [(gid, m)] →
    s.groups.find gid = some g → g.trapMode = false → s.slotOf gid r.stream = some (s.cur, r) → s.slotOf gid r.stream.other = none →
    exec .rtt s = .next (s.afterFaults r (r.members.filterMap (s.ctx r)) 1 (fun _ => .fault (FaultInfo.plain .illegalOpcode))))

/-- SLEEP parks the active lanes until REFTIME has reached their deadline; CCLEAN cleans the lines of its range; PCLASS relearns the
granules of its range in system mode (17 R449 to R451). That CCLEAN and PCLASS have their whole effect at issue is the model's choice
(log 55). -/
def Obligations.SleepCleanRelearn : Prop :=
  (∀ a ra, let u : Uses := { srcs := [op64 a], badType := tyOf a != .uni }
    let d (c : Ctx) : Nat := (c.values u (lowestLane c.act)).getD 0 0
    let m (s : State) (c : Ctx) : Word := if s.reftime < d c then c.act else 0
    Transfers (.sleep a ra) u (fun _ _ => True)
      (fun s c x => x.modGroup c.gid (fun g => g.modLanes c.st (m s c) (fun l => { l with park := .sleep (d c) })))
      (fun s c L => if laneIn (m s c) L then none else some (c.pc + 4))) ∧
  (let u (a b : Code) : Uses := { srcs := [op64 a, op32 b], badType := tyOf a != .uni || tyOf b != .uni }
   let va (v : Uses) (c : Ctx) : Nat := (c.values v (lowestLane c.act)).getD 0 0
   let n (v : Uses) (c : Ctx) (k : Nat) : Nat :=
     if (c.values v (lowestLane c.act)).getD 1 0 % k = 0 then k else (c.values v (lowestLane c.act)).getD 1 0 % k
   let got (x : Except Verdict (List (Nat × Nat))) : List (Nat × Nat) := match x with | .ok ps => ps | .error _ => []
   (∀ a b ra rb, Acts (.cclean a b ra rb) 1 (u a b) none [(op64 a, ra), (op32 b, rb)] false
     (fun s c => c.act ≠ 0 → va (u a b) c % 128 = 0 ∧
       ∃ ps, s.cleanPages c (va (u a b) c) (128 * n (u a b) c 4096) (fun e => e == .transit) = .ok ps)
     (fun s c x => if c.act = 0 then x
       else (got (s.cleanPages c (va (u a b) c) (128 * n (u a b) c 4096) (fun e => e == .transit))).foldl
         (fun y p => y.cleanPiece p.1 p.2) (x.seenFaults c.g.fn (.slot x.cur)))) ∧
   (∀ a b ra rb, Acts (.pclass a b ra rb) 1 (u a b) none [(op64 a, ra), (op32 b, rb)] false
     (fun s c => c.g.sysMode = true ∧ (c.act ≠ 0 → va (u a b) c % 4096 = 0 ∧
       ∃ ps, s.cleanPages c (va (u a b) c) (4096 * n (u a b) c 65536) (fun e => e == .translation) = .ok ps))
     (fun s c x => if c.act = 0 then x
       else (x.seenFaults c.g.fn (.slot x.cur)).relearnWhere (fun gr =>
         (got (s.cleanPages c (va (u a b) c) (4096 * n (u a b) c 65536) (fun e => e == .translation))).any
           (fun p => decide (p.1 ≤ gr * 4096) && decide (gr * 4096 < p.1 + p.2)))))) ∧
  (∀ (s : State) (key k line : Nat), (s.cleanPiece key k).lines.find line = (s.lines.find line).map (fun l =>
    if key ≤ 128 * line ∧ 128 * line < key + k then { l with dirty := false, l1Dirty := false } else l))

/-- RDSR gives a special register's value in each lane, extended to its width; WRSR writes those that can be written; FPSTAT keeps
five bits and SEED is never 0 (01 R28 to R30; 17 R452). -/
def Obligations.SpecialRegisters : Prop :=
  (∀ d (n : BitVec 11), let sys (s : State) : Bool := (s.curCtx.map (fun c => c.g.sysMode)).getD false
    let w := specialWidth n.toNat
    let p (s : State) : LaneRule := { words := 1, row := rowAdd, ext := (w, false), uses :=
      { dst := some (opInt w d), compOnly := n == 9 || n == 11, addrOnly := n == 10, alsoReads := if n = 9 then [0x700] else []
        badOperand := decide (15 < n.toNat) || (n == 15 && !sys s),
        badType := codeNames d != .zero && decide ((tyOf d).rank < (specialTy n.toNat).rank) } }
    let counter := n == 6 || n == 7 || n == 8
    ∀ (s : State) (r : Run) (cs : List Ctx), Going s r cs (p s).full (fun _ => some (p s).latency) → (∀ c ∈ cs, s.yMode c.g = 0) →
      (∀ c ∈ cs, n = 8 → c.st = .addr → c.act ≠ 0 → s.orderedOutstanding c.gid = false) →
      exec (.rdsr d n) s = .next (s.afterIssue cs 1 [] false (fun c x =>
        (if c.part (p s).full = 0 then x
         else x.issueFixed c (p s).full (p s).latency ((p s).writesOf c (c.part (p s).full) (fun L =>
           if n = 0 ∧ tyOf d = .aff then { val := 0, stride := 1 } else { val := s.special c.g n.toNat L }))).yAfterAll c.g yRdsr
             (fun L => s.special c.g n.toNat L) (if counter && c.act != 0 then [0] else [])))) ∧
  (∀ a (n : BitVec 11), let u (s : State) : Uses := wrsrUses a n.toNat ((s.curCtx.map (fun c => c.g.trapMode)).getD false)
    ActsIn (.wrsr a n) 1 u (fun _ => none) [] (fun _ _ => True) (fun s c x =>
      if c.act = 0 then x
      else x.modGroup c.gid (fun g => (g.pop (u s) c.act).writeSpecial n.toNat c.act (fun L => (c.values (u s) L).getD 0 0)))) ∧
  (∀ (s : State) (g : Group) (L : Fin 32), s.special g 0 L = L.val ∧ s.special g 1 L = g.groupId ∧ s.special g 2 L = g.teamId ∧
    s.special g 8 L = s.reftime % 2 ^ 64 ∧ s.special g 9 L = g.fpstat[L].toNat ∧ s.special g 10 L = g.sptr[L].toNat ∧
    s.special g 11 L = g.seed[L].toNat ∧ s.special g 12 L = g.regs.cause.toNat ∧ s.special g 13 L = g.regs.pc.toNat ∧
    s.special g 14 L = g.regs.addr.toNat) ∧
  (∀ (s : State) (g : Group) (m : Word) (v : Fin 32 → Nat) (L : Fin 32),
    (laneIn m L = true → s.special (g.writeSpecial 9 m v) 9 L = v L % 32 ∧ s.special (g.writeSpecial 10 m v) 10 L = v L % 2 ^ 64 ∧
      s.special (g.writeSpecial 11 m v) 11 L = (if v L % 2 ^ 32 = 0 then 1 else v L % 2 ^ 32)) ∧
    (laneIn m L = false → ∀ n, 9 ≤ n → n ≤ 11 → s.special (g.writeSpecial n m v) n L = s.special g n L) ∧
    s.special (g.writeSpecial 12 m v) 12 L = v (lowestLane m) % 2 ^ 19 ∧
    s.special (g.writeSpecial 13 m v) 13 L = v (lowestLane m) % 2 ^ 64 ∧
    s.special (g.writeSpecial 14 m v) 14 L = v (lowestLane m) % 2 ^ 64)

/-- Trap entry: a recorded fault of a quiet group with a handler, not itself in the handler, is delivered: the compute
places are saved, the trap registers are the fault's, the compute stream stands at TRAPVEC in every live lane, and no
other register of the group changes; with no handler, or in the handler, the group halts and a record waits for the ring; TRANSIT
with no handler waits for the page (17 R439, R441; 16 R404). Return from a trap: every compute lane that did not fault stands where it stood at entry, parked or not as it
was; a lane that faulted stands at the word TRAPPC names; the group is out of trap mode (17 R447).
TRAPCAUSE, TRAPPC and TRAPADDR of a fault that an instruction meets, and the place of its lanes (17 R436, Table 17.1). -/
def Obligations.TrapEntryAndReturn : Prop :=
  (
    ∀ (s : State) (gid : Nat) (g : Group) (p : PendingTrap), s.groups.find gid = some g → g.pendingTrap = some p → s.quiet gid = true →
      (g.cfg.trapvec ≠ 0 → g.trapMode = false → p.cause ≠ .watchdog → p.cause ≠ .halted → g.sc.allExited = false →
        ∃ h, (s.settle gid).groups.find gid = some h ∧ h.trapMode = true ∧ h.regs = p.regs ∧ h.pendingTrap = none ∧
          (∀ i : Fin 32, h.saved[i] = ⟨g.sc.lanes[i].pc, g.sc.lanes[i].kind, g.sc.lanes[i].park, g.sc.lanes[i].faulting⟩) ∧
          (∀ i : Fin 32, g.sc.lanes[i].exited = false → h.sc.lanes[i].pc = g.cfg.trapvec ∧ h.sc.lanes[i].park = .none) ∧
          (∀ i : Fin 32, g.sc.lanes[i].exited = true → h.sc.lanes[i] = { g.sc.lanes[i] with faulting := false }) ∧
          h.v = g.v ∧ h.k = g.k ∧ h.a = g.a ∧ h.p = g.p ∧ h.j = g.j ∧ h.x = g.x ∧ h.q = g.q ∧ h.sa = g.sa ∧ h.fpstat = g.fpstat) ∧
      ((g.cfg.trapvec = 0 ∨ g.trapMode = true ∨ p.cause = .watchdog ∨ p.cause = .halted ∨ g.sc.allExited = true) →
        (p.cause ≠ .transit ∨ g.cfg.trapvec ≠ 0 ∨ g.trapMode = true) →
        (∃ h, (s.settle gid).groups.find gid = some h ∧ h.status = .halted ∧ h.regs = p.regs ∧ h.trapMode = g.trapMode ∧
          (∀ i : Fin 32, h.sc.lanes[i] = g.sc.lanes[i])) ∧
        (ringEnabled (s.fn g.fn).frsize = true → ∃ r, ((s.settle gid).fn g.fn).waiting = (s.fn g.fn).waiting ++ [r] ∧
          r.regs = p.regs ∧ r.gid = some gid)) ∧
      (p.cause = .transit → g.cfg.trapvec = 0 → g.trapMode = false →
        ∃ h, (s.settle gid).groups.find gid = some h ∧ h.transitWait = true ∧ h.regs = p.regs ∧ h.status = g.status)) ∧
  (
    ∀ (g : Group) (p : PendingTrap), g.trapMode = false →
      let h := (g.enterTrap p).resume
      h.trapMode = false ∧ h.v = g.v ∧ h.k = g.k ∧ h.a = g.a ∧ h.p = g.p ∧ h.fpstat = g.fpstat ∧
      (∀ i : Fin 32, g.sc.lanes[i].exited = false →
        (g.sc.lanes[i].faulting = false →
          h.sc.lanes[i].pc = g.sc.lanes[i].pc ∧ h.sc.lanes[i].park = g.sc.lanes[i].park ∧ h.sc.lanes[i].exited = false) ∧
        (g.sc.lanes[i].faulting = true → p.regs.pc.extractLsb' 0 32 ≠ 0xFFFFFFFF#32 →
          h.sc.lanes[i].pc = g.cfg.codec + ((p.regs.pc.extractLsb' 0 32).setWidth 64 <<< 2) ∧ h.sc.lanes[i].park = .none)) ∧
      (∀ i : Fin 32, g.sc.lanes[i].exited = true → h.sc.lanes[i] = { g.sc.lanes[i] with faulting := false })) ∧
  (
    ∀ (s : State) (gid : Nat) (g : Group) (st : Stream) (m : Word) (pc : Dword) (k : PcKind) (f : FaultInfo),
      s.groups.find gid = some g → g.pendingTrap = none →
      ∃ h q, (s.raiseAt gid st m pc k f).groups.find gid = some h ∧ h.pendingTrap = some q ∧ q.cause = f.cause ∧
        q.regs.addr = BitVec.ofNat 64 f.addr ∧
        q.regs.cause.toNat = f.cause.code + 2 ^ 8 * f.kind.code + (if st = .addr then 2 ^ 16 else 0) + (if f.write then 2 ^ 18 else 0) ∧
        (st = .comp → q.regs.pc = 0xFFFFFFFF#32 ++ ((pc - g.cfg.codec) >>> 2).setWidth 32) ∧
        (st = .addr → q.regs.pc = ((pc - g.cfg.codea) >>> 2).setWidth 32 ++ 0xFFFFFFFF#32) ∧
        (∀ L, laneIn m L = true → ((h.stream st).lanes[L]).pc = pc ∧ ((h.stream st).lanes[L]).faulting = true))

/-! Events of groups and their slots (03 R72 to R78; 07 R182, R193 to R207; 16 R404; 17 R443, R449; 19 R483). -/

/-- SLEEP_WAKE, TRANSIT_RESUME, QUEUE_DEADLOCK and WATCHDOG under the conditions that bring them (17 R449; 16 R404; 07 R182;
19 R483).
ARBITRATION: a free slot whose clock runs, when no slot of the core and the stream with a lower number has still to choose, begins
a run with the words of the clause of the group it chooses; no group that it could choose stands before that one (07 R194 to
R196). -/
def Obligations.GroupEvents : Prop :=
  (∀ (s : State) (gid : Nat) (g : Group), s.groups.find gid = some g → g.status = .running →
    ∃ t h, exec (.sleepWake gid) s = .next t ∧ t.groups.find gid = some h ∧ ∀ (st : Stream) (L : Fin 32) (d : Nat),
      ((g.stream st).lanes[L]).park = .sleep d →
        ((h.stream st).lanes[L]).park = (if d ≤ s.reftime then .none else .sleep d)) ∧
  (∀ (s : State) (gid : Nat) (g : Group), s.groups.find gid = some g → g.transitWait = true → g.status = .running →
    s.translateNow g.fn g.part .clean g.regs.addr.toNat ≠ .fault .transit →
    ∃ t h, exec (.transitResume gid) s = .next t ∧ t.groups.find gid = some h ∧ h.transitWait = false ∧ h = g.resume) ∧
  (∀ (s : State) (gid : Nat) (g : Group), s.groups.find gid = some g → 4096 ≤ g.deadlock → s.deadlocked gid g = true →
    ∃ t h q, exec (.queueDeadlock gid) s = .next t ∧ t.groups.find gid = some h ∧ h.deadlock = 0 ∧ q.cause = 0x15#32 ∧
      (h.pendingTrap = some ⟨.queueDeadlock, q⟩ ∨ h.regs = q)) ∧
  (∀ (s : State) (gid : Nat) (g : Group), s.groups.find gid = some g → (s.fn g.fn).wdcfg.toNat % 2 ^ 16 ≠ 0 →
    (s.fn g.fn).wdcfg.toNat % 2 ^ 16 * 2 ^ 20 ≤ g.wdog → g.status = .running → g.pendingTrap = none →
    ∃ t h q, exec (.watchdog gid) s = .next t ∧ t.groups.find gid = some h ∧ h.wdog = 0 ∧ q.cause = 0x17#32 ∧
      (h.pendingTrap = some ⟨.watchdog, q⟩ ∨ h.regs = q)) ∧
  (
    (∀ (s : State) (slot : Nat), s.lowerChooses slot = true → exec (.arbitration slot) s = .next s) ∧
    (∀ (s : State) (slot gid : Nat) (g : Group) (pc : Dword) (k : PcKind) (m : Word) (c : Clause), s.runs.find slot = none →
      s.clockRuns (slotCore slot / 96) = true → s.lowerChooses slot = false →
      chooseOffer (slotStream slot) ((s.offers slot).filter (fun o => o.2.2.2.2.2.ready)) = some (gid, g, pc, k, m, .clause c) →
      ∃ t r, exec (.arbitration slot) s = .next t ∧ t.runs.find slot = some r ∧ r.stream = slotStream slot ∧
        r.members.head? = some (gid, m) ∧ r.members.length ≤ 4 ∧ r.pc = c.hdr + BitVec.ofNat 64 (4 * (c.skip + 1)) ∧
        r.code = c.words ∧ t.mem = s.mem) ∧
    (∀ (st : Stream) (os : List (Nat × Group × Dword × PcKind × Word × Pick)) (b : Nat × Group × Dword × PcKind × Word × Pick),
      chooseOffer st os = some b → b ∈ os ∧ ∀ o ∈ os, chosenFirst st o.2.1 b.2.1 = false))

/-- RESUME, KILL and the append of a fault record, which signals vector 0 within the function's limit of messages (17 R441 to
R443; 19 R484; log 121). A group that is resumed goes on at once, or with its gang when that is halted (16 R422). -/
def Obligations.FaultAnswers : Prop :=
  (∀ (s : State) (fn seq gid : Nat) (g : Group), s.awaitingGroup fn seq = some (gid, g) → s.groups.find gid = some g →
    (∃ t h, exec (.resume fn seq) s = .next t ∧ t.groups.find gid = some h ∧ h.escalated = none ∧
      h.status = (if s.gangStands g.gang then .halted else .running)) ∧
    (∃ t, exec (.kill fn seq) s = .next t ∧ ∀ k h, t.groups.find k = some h → h.launch = g.launch → h.killed = true)) ∧
  (∀ (s : State) (fn : Nat) (r : FaultRec) (rest : List FaultRec) (key : Nat), (s.fn fn).waiting = r :: rest →
    ringEnabled (s.fn fn).frsize = true → (s.fn fn).ringFull = false → s.homeWaits key = false → s.viralBlocks key = false → s.mem.wf = true →
    s.translateNow fn r.part .write (((s.fn fn).frbase.toNat / 4096 * 4096 + 64 * ((s.fn fn).frtail % (s.fn fn).frsize)) % 2 ^ 64) =
      .ok key →
    ∃ t, exec (.faultRecordAppend fn) s = .next t ∧
      t.mem.readN key (r.bytes (s.fn fn).seq).length = r.bytes (s.fn fn).seq ∧ (t.fn fn).waiting = rest ∧
      (t.fn fn).seq = (s.fn fn).seq + 1 ∧ (t.fn fn).frtail = ((s.fn fn).frtail + 1) % (s.fn fn).frsize ∧
      (s.sentNow fn < 65536 → t.msix = s.msix ++ [(fn, 0)]))

/-! Events of the quads (10 R264 to R285; 11 R295 to R307). -/

/-- PASS_READY, PASS_PROMOTION and PASS_GRANT: a grant takes up to four entries of one key, no two writing a common
row, all of them eligible, the first of them the first in the order of choice; the pass holds the bytes of B that memory, or
the team's scratch, gives at the entry's places; the engine is busy for two cycles (10 R271 to R276).
PASS_COMPLETE: the oldest pass of its quad writes the rows of each of its entries' lanes as 11 R295 says and is gone.
-/
def Obligations.Passes : Prop :=
  (
    (∀ (s : State) (id : Nat) (e : REntry) (p : PassInfo), s.entries.find id = some e → e.kind = .pass p →
      let now := s.dieCycle (e.quad / 24)
      (4 ≤ s.entries.countP (fun x => s.sameKey e x.2 && !x.2.granted && s.inOrder x.1 x.2) → p.readyAt = none →
        (s.noteEligible e.quad).entries.find id = some { e with kind := .pass { p with readyAt := some (now + 1) } }) ∧
      (e.cycle + 16 ≤ now ∨ (∃ c, p.readyAt = some c ∧ c ≤ now) →
        ∃ t, exec (.passReady id) s = .next t ∧
          t.entries.find id = some { e with kind := .pass { p with readyAt := some (p.readyAt.getD now) } })) ∧
    (∀ (s : State) (id : Nat) (e : REntry) (p : PassInfo), s.entries.find id = some e → e.kind = .pass p →
      ∃ t, exec (.passPromotion id) s = .next t ∧
        t.entries.find id = some { e with kind := .pass (if 256 ≤ p.waited then { p with promoted := true } else p) }) ∧
    (∀ (s : State) (q id : Nat) (e : REntry) (p : PassInfo) (g : Group), let b := s.blockPasses q
      (s.quad q).busyUntil ≤ s.dieCycle (q / 24) →
      b.bestEntry (b.entries.filter (fun x => x.2.quad == q && b.eligiblePass x.1 x.2 && !x.2.blocked && b.passReadyNow x.2)) = some (id, e) →
      e.kind = .pass p → s.groups.find e.gid = some g → (p.scratchB = false → ∀ k ∈ p.phys, b.homeWaits k = false) →
      ∃ (t : State) (n : Nat) (x : Pass) (es : List (Nat × REntry)), exec (.passGrant q) s = .next t ∧ t.passes.find n = some x ∧ x.quad = q ∧ x.entries = es.map Prod.fst ∧
        es.head? = some (id, e) ∧ es.length ≤ 4 ∧
        (∀ y ∈ es, y ∈ b.entries ∧ b.sameKey e y.2 = true ∧ b.eligiblePass y.1 y.2 = true ∧ y.2.blocked = false) ∧
        ((s.quad q).saved = [] → p.scratchB = false → x.b = p.phys.flatMap (fun a => s.mem.readN a 16)) ∧
        (∀ z, p.scratchB = true → s.teams.find g.team = some z → x.b = p.phys.flatMap (fun a => z.scratch.readN a 16)) ∧
        es.Pairwise (fun y z => ∀ r ∈ y.2.dRows, r ∉ z.2.dRows) ∧ (t.quad q).busyUntil = s.dieCycle (q / 24) + 2)) ∧
  (
    ∀ (s : State) (n : Nat) (x : Pass) (es : List (Nat × REntry)), s.passes.find n = some x →
      (∀ y ∈ s.passes, y.2.quad = x.quad → n ≤ y.1) → x.entries = es.map Prod.fst →
      (∀ y ∈ es, s.entries.find y.1 = some y.2 ∧ y.2.quad = x.quad ∧ ∃ p, y.2.kind = .pass p) →
      es.Pairwise (fun y z => ∀ r ∈ y.2.dRows, r ∉ z.2.dRows) →
      ∃ t, exec (.passComplete n) s = .next t ∧ t.passes.find n = none ∧ (∀ y ∈ es, t.entries.find y.1 = none) ∧
        (∀ y ∈ es, ∀ p, y.2.kind = .pass p → ∀ L : Fin 32, laneIn y.2.mask L = true →
          let rows := splitRows (mmaRowBytes p.op) (mmaK p.op) x.b
          let bf := if p.op = 0x6A then [] else rows.map (mmaBRow p.op)
          let bi := if p.op = 0x6A then rows.map (fun b => int8Row 32 (natOfBytes b)) else []
          t.accRow x.quad ((y.2.row + L.val) % 4096) = (s.passRow (s.context (s.entryContext y.2)) y.2 p bf bi x.poisoned L).2) ∧
        (∀ r, r < 4096 → (∀ y ∈ es, r ∉ y.2.dRows) → t.accRow x.quad r = s.accRow x.quad r))

/-- MZERO_ENTRY, MTREE_ENTRY, MLD_ENTRY, MST_ENTRY, MDRAIN_ENTRY, TABLE_LOAD_COMPLETE and BLOCK_WAIT_RELEASE, when R268 allows the
entry and its blocks are its context's (10 R268; 11 R297 to R307). A transfer with memory, and a table load, make one access of 16
bytes at a time, in order; the last ends them (13 R323). CBLD and ACTLD leave the loaded bytes in the table that TSEL names and no
other, unless a byte is poisoned (11 R306, R307). That MST's rows land as its entry is performed (log 39) and that an entry whose
rows need no access is one step (log 85) are the model's choices. -/
def Obligations.RowRequests : Prop :=
  let ready (s : State) (id : Nat) (e : REntry) : Prop :=
    s.entries.find id = some e ∧ e.blocked = false ∧ e.col < 32 ∧ s.inOrder id e = true ∧
    (∀ r ∈ e.rows, (s.quad e.quad).owners.find (r / 32) = some (s.entryContext e))
  let row (e : REntry) (i : Nat) : Nat := (e.row + i) % 4096
  (∀ s id e, ready s id e → e.kind = .mzero → ∃ t, exec (.mzeroEntry id) s = .next t ∧ t.entries.find id = none ∧
    (∀ L : Fin 32, laneIn e.mask L = true →
      t.accRow e.quad (row e L.val) = ⟨Vector.replicate 32 0, (s.accRow e.quad (row e L.val)).side, false⟩)) ∧
  (∀ s id e (ps : Row), ready s id e → e.kind = .mtree ps → ∃ t, exec (.mtreeEntry id) s = .next t ∧ t.entries.find id = none ∧
    (∀ L : Fin 32, (t.accRow e.quad (row e L.val)).side = ((ancestors ps 32).getD L.val 0).rotateLeft e.col ∧
      (t.accRow e.quad (row e L.val)).data = (s.accRow e.quad (row e L.val)).data)) ∧
  (∀ s id e (rs : List Row), ready s id e → e.kind = .mldReg rs → rs.length ≤ 32 →
    ∃ t, exec (.mldEntry id) s = .next t ∧ t.entries.find id = none ∧
      (∀ (i : Nat) (r : Row) (c : Fin 32), rs[i]? = some r → (t.accRow e.quad (row e i)).word e.col c.val =
        (if laneIn e.mask c then r[c] else (s.accRow e.quad (row e i)).word e.col c.val))) ∧
  (∀ s id e v n (g : Group), ready s id e → e.kind = .mstReg v n → s.groups.find e.gid = some g → n ≤ 32 → v + n ≤ 64 →
    (∀ i, i < n → (s.accRow e.quad (row e i)).psn = false) → (∀ o, s.ops.find e.op = some o → o.poisoned = none ∧ o.flags = []) →
    g.status = .running → g.pendingTrap = none → (g.sa.allExited && g.sc.allExited) = false → (∀ y ∈ s.groups, y.2.killed = false) →
    ∃ t, exec (.mstEntry id) s = .next t ∧ t.entries.find id = none ∧ t.mem = s.mem ∧
      (∀ h, t.groups.find e.gid = some h → ∀ i, i < n → ∀ L : Fin 32, laneIn e.mask L = true →
        h.vElem (v + i) L = (s.accRow e.quad (row e i)).word e.col L.val)) ∧
  (∀ s id e as (g : Group) (a : Nat) (more : List Nat), ready s id e → e.kind = .mldMem false as → s.groups.find e.gid = some g →
    as.drop e.moved = a :: more → s.homeWaits a = false →
    ∃ t, exec (.mldEntry id) s = .next t ∧ t.mem = s.mem ∧
      (more ≠ [] → ∃ f, t.entries.find id = some f ∧ f.moved = e.moved + 1 ∧
        f.chunks = e.chunks ++ [(s.mem.readN a 16, s.poisonIn a 16)]) ∧
      (more = [] → t.entries.find id = none ∧ ∀ (i : Nat) (c : Fin 32), i < as.length / 8 → i < 32 →
        (t.accRow e.quad (row e i)).word e.col c.val =
          BitVec.ofNat 32 (natAt ((e.chunks ++ [(s.mem.readN a 16, false)]).flatMap Prod.fst) (128 * i + 4 * c.val) 4))) ∧
  (∀ s id e as (g : Group) (a : Nat) (more : List Nat) (bs : List Byte) (bad : Bool), ready s id e → e.kind = .mstMem false as →
    s.groups.find e.gid = some g → as.drop e.moved = a :: more → s.homeWaits a = false → s.viral = false → s.mem.wf = true →
    (if e.moved = 0 then s.mstChunks e as.length else e.chunks)[e.moved]? = some (bs, bad) → bs.length = 16 →
    ∃ t, exec (.mstEntry id) s = .next t ∧ t.mem.readN a 16 = bs ∧ sameOutside s.mem t.mem a 16 ∧
      (more ≠ [] → ∃ f, t.entries.find id = some f ∧ f.moved = e.moved + 1) ∧ (more = [] → t.entries.find id = none)) ∧
  (∀ s id e sh ch n ta int en (g : Group) (b : Nat), ready s id e → e.kind = .mdrain sh ch n ta int en → s.groups.find e.gid = some g →
    (s.queue (32 * g.die + ch)).freeBuffer = some b → (s.queue (32 * g.die + ch)).cmds.length < 64 →
    s.appendWaits (32 * g.die + ch) (appendRank g.core 2) = false →
    ∃ t, exec (.mdrainEntry id) s = .next t ∧ t.entries.find id = none ∧
      (t.queue (32 * g.die + ch)).cmds = (s.queue (32 * g.die + ch)).cmds ++
        [⟨drainCommand ta sh n b, 0, e.gid, g.launch, g.fn, true, false⟩]) ∧
  (∀ s id e act ts as (g : Group) (a : Nat) (more : List Nat), ready s id e → e.kind = .table act ts as →
    s.groups.find e.gid = some g → as.drop e.moved = a :: more → s.homeWaits a = false →
    let bs := (e.chunks ++ [(s.mem.readN a 16, false)]).flatMap Prod.fst
    let good : Prop := s.poisonIn a 16 = false ∧ ∀ c ∈ e.chunks, c.2 = false
    let loaded (t : State) : Prop := if act then
        (∀ k, k < 256 → (t.context g.context).act ts k = (BitVec.ofNat 32 (natAt bs (8 * k) 4), BitVec.ofNat 32 (natAt bs (8 * k + 4) 4)))
      else ∀ r, r < 512 → (t.context g.context).root ts r = natAt bs (8 * r) 8 % 2 ^ 36
    let rootsKept (t : State) : Prop := ∀ n r, r < 512 → (n = ts → act = true ∨ ¬ good) →
      (t.context g.context).root n r = (s.context g.context).root n r
    let actsKept (t : State) : Prop := ∀ n k, k < 256 → (n = ts → act = false ∨ ¬ good) →
      (t.context g.context).act n k = (s.context g.context).act n k
    ∃ t, exec (.tableLoadComplete id) s = .next t ∧
      (more ≠ [] → t.mem = s.mem ∧ ∃ f, t.entries.find id = some f ∧ f.moved = e.moved + 1 ∧
        f.chunks = e.chunks ++ [(s.mem.readN a 16, s.poisonIn a 16)]) ∧
      (more = [] → t.entries.find id = none ∧ (good → loaded t) ∧ rootsKept t ∧ actsKept t)) ∧
  (∀ s id e, s.entries.find id = some e → e.blocked = true → s.foreignBlocks e.quad (s.entryContext e) e.rows = [] →
    ∃ t, exec (.blockWaitRelease id) s = .next t ∧ t.entries.find id = some { e with blocked := false })

/-! Engine commands (14 R362 to R374; 16 R402 to R409). -/

/-- A command's next access, when its fields are legal and its addresses can be reached: COPY and FILL store 16 bytes and move on;
GATHER reads an index and copies the row it names; WSSNAP stores the next 16 bytes of its list. That a piece of COPY or GATHER is
read and written in one step is the model's choice (log 46). -/
def Obligations.CopyCommands : Prop :=
  ∀ (s : State) (q : Nat) (c : QCmd) (p : Progress) (bar : Dword), CmdRuns s q c p → bar.toNat % 16 = 0 → s.mem.wf = true →
    (∀ (src dst len : Dword) (k1 k2 : Nat), len.toNat % 16 = 0 → src.toNat % 16 = 0 → dst.toNat % 16 = 0 → 16 * p.pos < len.toNat →
      s.reach q c .read (src.toNat + 16 * p.pos) = .at_ k1 → s.reach q c .write (dst.toNat + 16 * p.pos) = .at_ k2 →
      s.viralBlocks k2 = false →
      ∃ t, exec (.copy q bar src dst len) s = .next t ∧ t.mem.readN k2 16 = s.mem.readN k1 16 ∧ sameOutside s.mem t.mem k2 16 ∧
        (t.progress q).pos = p.pos + 1) ∧
    (∀ (dst len : Dword) (pat : BitVec 128) (k : Nat), len.toNat % 16 = 0 → dst.toNat % 16 = 0 → 16 * p.pos < len.toNat →
      s.reach q c .write (dst.toNat + 16 * p.pos) = .at_ k → s.viralBlocks k = false →
      ∃ t, exec (.fill q bar dst len pat) s = .next t ∧ natOfBytes (t.mem.readN k 16) = pat.toNat ∧ sameOutside s.mem t.mem k 16 ∧
        (t.progress q).pos = p.pos + 1) ∧
    (∀ (src idx dst pitch : Dword) (n rb : Word), 0 < n.toNat → n.toNat ≤ 65536 → 16 ≤ rb.toNat → rb.toNat ≤ 65536 →
      rb.toNat % 16 = 0 → idx.toNat % 4 = 0 → src.toNat % 16 = 0 → dst.toNat % 16 = 0 → pitch.toNat % 16 = 0 →
      p.pos < n.toNat * (rb.toNat / 16) →
      (∀ k, p.stage = 0 → s.reach q c .read (idx.toNat + 4 * (p.pos / (rb.toNat / 16))) = .at_ k →
        ∃ t, exec (.gather q bar src idx dst pitch n rb) s = .next t ∧ t.mem = s.mem ∧ (t.progress q).stage = 1 ∧
          (t.progress q).x = natOfBytes (s.mem.readN k 4)) ∧
      (∀ k1 k2, p.stage = 1 →
        s.reach q c .read (src.toNat + p.x * pitch.toNat + 16 * (p.pos % (rb.toNat / 16))) = .at_ k1 →
        s.reach q c .write (dst.toNat + p.pos / (rb.toNat / 16) * rb.toNat + 16 * (p.pos % (rb.toNat / 16))) = .at_ k2 →
        s.viralBlocks k2 = false →
        ∃ t, exec (.gather q bar src idx dst pitch n rb) s = .next t ∧ t.mem.readN k2 16 = s.mem.readN k1 16 ∧
          sameOutside s.mem t.mem k2 16 ∧ (t.progress q).pos = p.pos + 1)) ∧
    (∀ (dst : Dword) (len : Word) (vf : BitVec 6) (k : Nat), 2 ≤ len.toNat → len.toNat ≤ 65536 → len.toNat % 2 = 0 →
      dst.toNat % 16 = 0 → (s.fn vf.toNat).bound = some (s.cmdPart c) → p.stage = 1 → p.pos + 16 ≤ p.buf.length →
      s.reach q c .write (dst.toNat + p.pos) = .at_ k → s.viralBlocks k = false →
      ∃ t, exec (.wssnap q bar dst len vf) s = .next t ∧ t.mem.readN k 16 = (p.buf.drop p.pos).take 16 ∧
        sameOutside s.mem t.mem k 16 ∧ (t.progress q).pos = p.pos + 16)

/-- The end of a command: with BAR 0 it leaves its queue; with an object its REMAIN falls by the command's count, modulo 2^64, and no
other byte changes (14 R364). Shown on COPY and FILL; SIGNAL stores or adds its value; KVCOMMIT ends with the new length. -/
def Obligations.CommandsEnd : Prop :=
  ∀ (s : State) (q : Nat) (c : QCmd) (p : Progress), CmdRuns s q c p → s.mem.wf = true →
    let gone (t : State) : Prop := (t.queue q).cmds = (s.queue q).cmds.tail ∧ (t.queue q).prog = none
    (∀ (bar src dst len : Dword), bar.toNat % 16 = 0 → len.toNat % 16 = 0 → src.toNat % 16 = 0 → dst.toNat % 16 = 0 →
      len.toNat ≤ 16 * p.pos →
      (bar = 0 → ∃ t, exec (.copy q bar src dst len) s = .next t ∧ gone t ∧ t.mem = s.mem) ∧
      (∀ k, bar ≠ 0 → s.reach q c .both bar.toNat = .at_ k → s.viralBlocks k = false →
        ∃ t, exec (.copy q bar src dst len) s = .next t ∧ gone t ∧ sameOutside s.mem t.mem k 8 ∧
          natOfBytes (t.mem.readN k 8) = wrapNat 64 ((natOfBytes (s.mem.readN k 8) : Int) - len.toNat))) ∧
    (∀ (bar dst len : Dword) (pat : BitVec 128), bar = 0 → len.toNat % 16 = 0 → dst.toNat % 16 = 0 → len.toNat ≤ 16 * p.pos →
      ∃ t, exec (.fill q bar dst len pat) s = .next t ∧ gone t ∧ t.mem = s.mem) ∧
    (∀ (addr value : Dword) (mode : BitVec 8) (decr : Dword) (k : Nat), mode.toNat ≤ 1 → addr.toNat % 8 = 0 → addr ≠ 0 →
      s.reach q c (if mode = 0 then .write else .both) addr.toNat = .at_ k → s.viralBlocks k = false →
      ∃ t, exec (.signal q 0 addr value mode decr) s = .next t ∧ gone t ∧ sameOutside s.mem t.mem k 8 ∧
        natOfBytes (t.mem.readN k 8) =
          (if mode = 0 then value.toNat else (natOfBytes (s.mem.readN k 8) + value.toNat) % 2 ^ 64)) ∧
    (∀ (stage cache lenaddr maskaddr : Dword) (eb : Word) (n : BitVec 8) (cap : Word) (k : Nat), 16 ≤ eb.toNat → eb.toNat ≤ 65536 →
      0 < n.toNat → n.toNat ≤ 32 → stage.toNat % 16 = 0 → cache.toNat % 16 = 0 → eb.toNat % 16 = 0 → lenaddr.toNat % 8 = 0 →
      maskaddr.toNat % 4 = 0 → p.stage = 1 → (slotsOf p.y n.toNat).length * (eb.toNat / 16) ≤ p.pos →
      s.reach q c .write lenaddr.toNat = .at_ k → s.viralBlocks k = false →
      ∃ t, exec (.kvcommit q 0 stage cache lenaddr maskaddr eb n cap) s = .next t ∧ gone t ∧ sameOutside s.mem t.mem k 8 ∧
        natOfBytes (t.mem.readN k 8) = (p.x + (slotsOf p.y n.toNat).length) % 2 ^ 64)

/-- TILE and TILEADD, on a legal shape: the shape record is read 16 bytes at a time, each row is read and then stored, or added, one
access at a time, at the element's address, and the command ends with its count; with AON the same writes and the version's increment
are one event, which fails with AONBIG above 512 lines (its decrement shown with BAR 0). VREAD reads its rows, zeros where they are
clipped, between two reads of the version, and delivers them when the versions agree, after four that do not in one event with the
version; then it stores the version at VOUT and ends (14 R364, R369 to R372; 13 R332, R333). -/
def Obligations.TileCommands : Prop :=
  ∀ (s : State) (q : Nat) (c : QCmd) (p : Progress), CmdRuns s q c p → s.mem.wf = true →
    let gone (u : State) : Prop := (u.queue q).cmds = (s.queue q).cmds.tail ∧ (u.queue q).prog = none
    let ends (i : Instr) (bar count : Nat) : Prop :=
      (bar = 0 → ∃ u, exec i s = .next u ∧ gone u ∧ u.mem = s.mem) ∧
      (∀ k, bar ≠ 0 → s.reach q c .both bar = .at_ k → s.viralBlocks k = false →
        ∃ u, exec i s = .next u ∧ gone u ∧ sameOutside s.mem u.mem k 8 ∧
          natOfBytes (u.mem.readN k 8) = wrapNat 64 ((natOfBytes (s.mem.readN k 8) : Int) - count))
    let legal (tr tc : BitVec 16) : Prop := 0 < tr.toNat ∧ tr.toNat ≤ 4096 ∧ 0 < tc.toNat ∧ tc.toNat ≤ 4096
    let zeros (n : Nat) : List Byte := List.replicate n 0
    (∀ (t : TileCmd) (add : Bool) (k : Nat), legal t.trows t.tcols → t.shape.toNat % 64 = 0 → t.bar.toNat % 16 = 0 →
      p.shape.length < 64 → p.shape.length % 16 = 0 → s.reach q c .read (t.shape.toNat + p.shape.length) = .at_ k →
      ∃ u, exec (if add then .tileadd q t else .tile q t) s = .next u ∧ u.mem = s.mem ∧
        (u.progress q).shape = p.shape ++ s.mem.readN k 16) ∧
    (∀ (r : Shape) (e : Nat), 64 ≤ p.shape.length → r = Shape.of p.shape → esizeOf r.efmt = some e → r.bad e = false →
      r.misaligned e = false →
      (∀ (t : TileCmd) (add : Bool), let i : Instr := if add then .tileadd q t else .tile q t
        let lo := (r.run t.tcols.toNat p.pos).1
        let n := (r.run t.tcols.toNat p.pos).2
        let bar := if t.drained then r.baraddr else t.bar.toNat
        let count := t.trows.toNat * t.tcols.toNat * e
        legal t.trows t.tcols → t.shape.toNat % 64 = 0 → t.bar.toNat % 16 = 0 → bar % 16 = 0 → s.badTile q t add r e = false →
        (r.aon = false → p.pos < t.trows.toNat → p.stage = 0 → t.drained = false → p.buf.length < t.tcols.toNat * e →
          ∀ k, let a := t.src.toNat + p.pos * t.tcols.toNat * e + p.buf.length
          let size := accessSize a (t.tcols.toNat * e - p.buf.length)
          s.reach q c .read a = .at_ k →
          ∃ u, exec i s = .next u ∧ u.mem = s.mem ∧ (u.progress q).buf = p.buf ++ s.mem.readN k size ∧ (u.progress q).x = 0 ∧
            (u.progress q).stage = (if t.tcols.toNat * e ≤ p.buf.length + size then 1 else 0)) ∧
        (r.aon = false → p.pos < t.trows.toNat → p.stage = 0 → t.drained = true → ∀ b row, p.buf = [] →
          (s.queue q).bufs.find t.buffer.toNat = some b → b.rows[p.pos]? = some row →
          ∃ u, exec i s = .next u ∧ u.mem = s.mem ∧ (u.progress q).buf = row.flatMap (fun x => bytesOfNat e x)) ∧
        (r.aon = false → p.pos < t.trows.toNat → p.stage = 1 → p.x < n * e → ∀ k,
          let a := (r.addr e p.pos lo + p.x) % 2 ^ 64
          let size := if add then e else accessSize a (n * e - p.x)
          let src := (p.buf.drop (lo * e + p.x)).take size
          src.length = size → s.reach q c (if add then .both else .write) a = .at_ k → s.viralBlocks k = false →
          ∃ u, exec i s = .next u ∧ sameOutside s.mem u.mem k size ∧
            u.mem.readN k size = (if add then bytesOfNat e (tileSum r.efmt e (natOfBytes (s.mem.readN k e)) (natOfBytes src)) else src) ∧
            (u.progress q).x = p.x + size) ∧
        (r.aon = false → p.pos < t.trows.toNat → p.stage = 1 → n * e ≤ p.x →
          ∃ u, exec i s = .next u ∧ u.mem = s.mem ∧ (u.progress q).pos = p.pos + 1 ∧ (u.progress q).stage = 0 ∧ (u.progress q).buf = []) ∧
        (r.aon = false → t.trows.toNat ≤ p.pos → ends i bar count) ∧
        (r.aon = true → bar = 0 → 512 < r.lines e t.trows.toNat t.tcols.toNat →
          ∃ u, exec i s = .next u ∧ gone u ∧ u.mem = s.mem) ∧
        (∀ w, r.aon = true → bar = 0 → r.lines e t.trows.toNat t.tcols.toNat ≤ 512 →
          s.tileAll q c t add ⟨r, e, bar, count⟩ (List.range t.trows.toNat) = .done w →
          (r.ver = false → ∃ u, exec i s = .next u ∧ gone u ∧ u.mem = w.mem) ∧
          (∀ k, r.ver = true → s.reach q c .both r.veraddr = .at_ k → w.viralBlocks k = false →
            ∃ u, exec i s = .next u ∧ gone u ∧ sameOutside w.mem u.mem k 8 ∧
              natOfBytes (u.mem.readN k 8) = (natOfBytes (w.mem.readN k 8) + 1) % 2 ^ 64))) ∧
      (∀ (bar shape dst vout : Dword) (tr tc : BitVec 16), let i : Instr := .vread q bar shape dst tr tc vout
        let lo := (r.run tc.toNat p.pos).1
        let n := (r.run tc.toNat p.pos).2
        let count := tr.toNat * tc.toNat * e
        bar.toNat % 16 = 0 → legal tr tc → shape.toNat % 64 = 0 → dst.toNat % 16 = 0 → vout.toNat % 8 = 0 → r.ver = true →
        (∀ k, s.reach q c .read r.veraddr = .at_ k →
          (p.stage = 0 → p.tries < 4 → ∃ u, exec i s = .next u ∧ u.mem = s.mem ∧ (u.progress q).stage = 1 ∧ (u.progress q).pos = 0 ∧
            (u.progress q).buf = [] ∧ (u.progress q).x = natOfBytes (s.mem.readN k 8)) ∧
          (p.stage = 2 → ∃ u, exec i s = .next u ∧ u.mem = s.mem ∧
            (u.progress q).stage = (if natOfBytes (s.mem.readN k 8) = p.x then 3 else 0) ∧
            (natOfBytes (s.mem.readN k 8) ≠ p.x → (u.progress q).tries = p.tries + 1))) ∧
        (∀ vb vbad s1 bs bad s2, p.stage = 0 → 4 ≤ p.tries → s.readBytes q c r.veraddr 8 = .got vb vbad s1 →
          s1.vreadRows q c ⟨r, e, bar.toNat, count⟩ tc.toNat (List.range tr.toNat) = .got bs bad s2 →
          ∃ u, exec i s = .next u ∧ u.mem = s.mem ∧ (u.progress q).stage = 3 ∧ (u.progress q).pos = 0 ∧ (u.progress q).buf = bs ∧
            (u.progress q).x = natOfBytes vb) ∧
        (p.stage = 1 → p.pos < tr.toNat → p.y < n * e → ∀ k, let a := r.addr e p.pos lo + p.y
          let size := accessSize a (n * e - p.y)
          s.reach q c .read a = .at_ k →
          ∃ u, exec i s = .next u ∧ u.mem = s.mem ∧ (u.progress q).stage = 1 ∧ (u.progress q).y = p.y + size ∧
            (u.progress q).buf = p.buf ++ zeros ((if p.y = 0 then lo else 0) * e) ++ s.mem.readN k size) ∧
        (p.stage = 1 → p.pos < tr.toNat → n * e ≤ p.y →
          ∃ u, exec i s = .next u ∧ u.mem = s.mem ∧ (u.progress q).stage = 1 ∧ (u.progress q).pos = p.pos + 1 ∧ (u.progress q).y = 0 ∧
            (u.progress q).buf = p.buf ++ zeros ((tc.toNat - lo - n) * e)) ∧
        (p.stage = 1 → tr.toNat ≤ p.pos → ∃ u, exec i s = .next u ∧ u.mem = s.mem ∧ (u.progress q).stage = 2) ∧
        (p.stage = 3 → p.pos < p.buf.length → ∀ k, let size := accessSize (dst.toNat + p.pos) (p.buf.length - p.pos)
          s.reach q c .write (dst.toNat + p.pos) = .at_ k → s.viralBlocks k = false →
          ∃ u, exec i s = .next u ∧ u.mem.readN k size = (p.buf.drop p.pos).take size ∧ sameOutside s.mem u.mem k size ∧
            (u.progress q).stage = 3 ∧ (u.progress q).pos = p.pos + size) ∧
        (p.stage = 3 → p.buf.length ≤ p.pos → ∃ u, exec i s = .next u ∧ u.mem = s.mem ∧ (u.progress q).stage = 4) ∧
        (p.stage = 4 → vout = 0 → ends i bar.toNat count) ∧
        (p.stage = 4 → vout ≠ 0 → bar = 0 → ∀ k, s.reach q c .write vout.toNat = .at_ k → s.viralBlocks k = false →
          ∃ u, exec i s = .next u ∧ gone u ∧ sameOutside s.mem u.mem k 8 ∧ natOfBytes (u.mem.readN k 8) = p.x % 2 ^ 64)))

/-- MOVE: a page that may move is marked first, when no other move of its die is in progress (16 R407); when nothing uses it, its bytes stand in the new frame, its entry names that frame
with TRANSIT clear, and no TLB holds it (16 R402 to R405). -/
def Obligations.PageMoves : Prop :=
  ∀ (s : State) (q : Nat) (c : QCmd) (p : Progress) (va fr : Dword) (vf : BitVec 6) (tier : BitVec 2) (e : Dword) (entry : Nat),
    CmdRuns s q c p → s.mem.wf = true → q % 32 = 24 → (tier = 1 ∨ tier = 2) → va.toNat % 65536 = 0 → fr.toNat % 65536 = 0 →
    (s.fn vf.toNat).bound = some (s.cmdPart c) → (s.fn vf.toNat).root.getLsbD 0 = true → canonicalVa va.toNat = true →
    s.walkVa vf.toNat (va.toNat % 2 ^ 57) = .leaf 1 e entry → s.viralBlocks entry = false →
    (p.stage = 0 → pteBit e 5 = false → pteBit e 9 = false → s.frameTier (pteFrame e) ≠ 0 → s.frameTier (pteFrame e) ≠ tier.toNat →
      (∃ x, s.part (s.cmdPart c) = some x ∧ x.owns fr.toNat = true) → tierOf fr.toNat = tier.toNat →
      s.hasMemory fr.toNat = true → s.frameFree fr.toNat = true → s.moveUnderWay (homeDie (pteFrame e)) = false →
      s.clockRuns (homeDie (pteFrame e)) = true →
      ∃ t, exec (.move q 0 va vf tier fr) s = .next t ∧ (BitVec.ofNat 64 (natOfBytes (t.mem.readN entry 8))) = e ||| 0x20#64 ∧
        sameOutside s.mem t.mem entry 8 ∧ (t.progress q).stage = 1) ∧
    (p.stage = 1 → s.entryUses (pteFrame e) = false → s.relocking (homeDie (pteFrame e)) = false → s.relocking (homeDie fr.toNat) = false → (entry + 8 ≤ fr.toNat ∨ fr.toNat + 65536 ≤ entry) →
      fr.toNat < 2 ^ 52 →
      ∃ t, exec (.move q 0 va vf tier fr) s = .next t ∧ (t.queue q).cmds = (s.queue q).cmds.tail ∧
        (∀ i, i < 65536 → (entry + 8 ≤ fr.toNat + i ∨ fr.toNat + i < entry) → t.mem.read (fr.toNat + i) = s.mem.read (pteFrame e + i)) ∧
        pteFrame (BitVec.ofNat 64 (natOfBytes (t.mem.readN entry 8))) = fr.toNat ∧
        pteBit (BitVec.ofNat 64 (natOfBytes (t.mem.readN entry 8))) 5 = false ∧
        (∀ x ∈ t.tlb, x.fn = vf.toNat → x.vpn ≠ va.toNat % 2 ^ 57 / 2 ^ levelShift x.level))

/-! The fabric (20 R491 to R516). -/

/-- A fabric command starts by becoming pending with its packets to send; each further step injects one numbered packet, shown on PUT,
and what is sent whole leaves the queue; COLLJOIN addresses every other member, COLLLEAVE every other member that is not lost, which is
the model's choice (log 75); a command that is answered in full ends, and its object falls by its whole count (20 R505 to R513). -/
def Obligations.FabricCommands : Prop :=
  (∀ (s : State) (q : Nat) (c : QCmd) (p : Progress) (x : FabCmd), CmdRuns s q c p → p.stage = 0 → x.bar.toNat % 16 = 0 →
    s.mayFabric c.fn = true → x.cls.toNat ≤ 1 →
    let starts (i : Instr) (kind : PacketType) (total : Nat) : Prop :=
      ∃ t f, exec i s = .next t ∧ t.fabric.cmds.find s.nextId = some f ∧ f.kind = kind ∧ f.total = total ∧ f.sent = 0 ∧
        f.unanswered = [] ∧ f.cause = 0 ∧ f.fn = c.fn ∧ (t.progress q).stage = 1 ∧ (t.progress q).x = s.nextId ∧ t.mem = s.mem
    let sized : Prop := 16 ≤ x.len.toNat ∧ x.len.toNat % 16 = 0 ∧ x.rbar.toNat % 16 = 0 ∧ x.operand = 0
    let aligned : Prop := sized ∧ x.laddr.toNat % 16 = 0 ∧ x.raddr.toNat % 16 = 0
    (aligned → x.len.toNat ≤ 2 ^ 24 → x.opx = 0 → starts (.put q x) .put ((x.len.toNat + 1023) / 1024)) ∧
    (aligned → x.len.toNat ≤ 2 ^ 24 → x.opx = 0 → x.rbar = 0 → starts (.get q x) .getRequest ((x.len.toNat + 1023) / 1024)) ∧
    (sized → x.len.toNat ≤ 1024 → x.opx = 0 → x.raddr = 0 → starts (.send q x) .send 1) ∧
    (aligned → x.len.toNat ≤ 2 ^ 24 → (x.opx = 0 ∨ x.opx = 2 ∨ x.opx = 0xA) →
      starts (.reduceput q x) .reducePut ((x.len.toNat + 1023) / 1024)) ∧
    (x.len = 0 → x.opx.toNat < 32 → x.raddr.toNat % 8 = 0 → x.laddr.toNat % 8 = 0 → starts (.atomic q x) .atomic 1) ∧
    (∀ m, x.noDest = true → x.laddr = 0 → x.opx.toNat < 2 ^ 32 → s.fabric.cmds.any (fun e => e.2.q == q) = false →
      s.membership c.fn x.coll = some m → m.joined = true →
      starts (.collleave q x) .leave (m.members.filter (fun y => y != (s.pnode (s.cmdPart c), c.fn) && !m.lost.contains y)).length) ∧
    (x.noDest = true → x.laddr = 0 → x.opx.toNat < 2 ^ 32 → s.fabric.cmds.any (fun e => e.2.q == q) = true →
      ∃ t, exec (.collleave q x) s = .next t ∧ t.fabric = s.fabric ∧ t.mem = s.mem ∧ (t.queue q).cmds = (s.queue q).cmds) ∧
    (∀ bs bad s1, x.noDest = true → x.opx.toNat < 2 ^ 40 → 2 ≤ x.nmemb → x.nmemb ≤ 64 → s.membership c.fn x.coll = none →
      x.laddr.toNat % 4 = 0 → s.fabric.members.countP (fun m => m.fn == c.fn) < 16 →
      s.readBytes q c x.laddr.toNat (4 * x.nmemb) = .got bs bad s1 → (membersOf bs x.nmemb).contains (s.pnode (s.cmdPart c), c.fn) = true →
      (membersOf bs x.nmemb).Nodup →
      ∃ t m f, exec (.colljoin q x) s = .next t ∧ t.membership c.fn x.coll = some m ∧ m.members = membersOf bs x.nmemb ∧
        m.joined = false ∧ m.lost = [] ∧ (t.progress q).stage = 1 ∧ t.fabric.cmds.find (t.progress q).x = some f ∧ f.kind = .join ∧
        f.dests = m.members.filter (fun y => y != (s.pnode (s.cmdPart c), c.fn)))) ∧
  (∀ (s : State) (q : Nat) (c : QCmd) (p : Progress) (x : FabCmd) (f : FabPending) (bs : List Byte) (bad : List Bool) (s1 : State),
    CmdRuns s q c p → p.stage = 1 → s.fabric.cmds.find p.x = some f → f.sent < f.total →
    s.lostPeer f.fn x.dnode.toNat x.dvf.toNat = false → s.streamHeld q f.fn x.dnode.toNat x.dvf.toNat = false → f.q = q →
    f.total = packetsOf x.len.toNat → x.dnode.toNat ≠ s.pnode f.part →
    s.readBytes q c (x.laddr.toNat + 1024 * f.sent) (packetLen x.len.toNat f.sent) = .got bs bad s1 →
    ∃ t g k, exec (.put q x) s = .next t ∧ t.fabric.cmds.find p.x = some g ∧ g.sent = f.sent + 1 ∧
      (t.port (injectPort f.part)).inq = (s.port (injectPort f.part)).inq ++ [.injected (2 * x.cls.toNat) .put k s.fabricCycle] ∧
      k.data = bs ∧ k.addr = (x.raddr.toNat + 1024 * f.sent) % 2 ^ 64 ∧
      k.len = packetLen x.len.toNat f.sent ∧ k.cmdtag = p.x ∧ k.last = (f.sent + 1 == f.total) ∧
      k.seq = s.nextSeq q f.fn x.dnode.toNat x.dvf.toNat ∧ k.domain = s.domain f.fn ∧
      t.nextSeq q f.fn x.dnode.toNat x.dvf.toNat = (s.nextSeq q f.fn x.dnode.toNat x.dvf.toNat + 1) % 2 ^ 32 ∧
      (f.sent + 1 = f.total → (t.queue q).cmds = (s.queue q).cmds.tail)) ∧
  (∀ (s : State) (id : Nat) (f : FabPending), s.fabric.cmds.find id = some f → s.fabDone f = true → s.mem.wf = true →
    (f.bar = 0 → ∃ t, exec (.fabricCommandComplete id) s = .next t ∧ t.fabric.cmds.find id = none ∧ t.mem = s.mem) ∧
    (∀ k, f.bar ≠ 0 → f.cause = 0 → s.translateNow f.fn f.part .both f.bar = .ok k → s.homeWaits k = false → s.viralBlocks k = false →
      ∃ t, exec (.fabricCommandComplete id) s = .next t ∧ t.fabric.cmds.find id = none ∧ sameOutside s.mem t.mem k 8 ∧
        natOfBytes (t.mem.readN k 8) = wrapNat 64 ((natOfBytes (s.mem.readN k 8) : Int) - f.count)))

/-- Request packets that arrive in order and are admitted make one access of at most 16 bytes at a time (13 R323): PUT stores its
data piece by piece, GET reads it and leaves memory alone, SEND takes a slot of the ring, fills it and advances TAIL, REDUCEPUT adds
its elements; a last packet with RBAR lowers that object by the command's bytes. ATOMIC writes its new value, JOIN is heard or kept,
LEAVE removes its member. Each is then answered. One that is not admitted, that its command's refusal drops, or that finds no ring or
no page is answered with a NACK of its cause and changes no byte (20 R507 to R513). That the LEAVE of a lost member travels with CAUSE
0x0E and is of no stream is the model's choice (log 98). -/
def Obligations.FabricPackets : Prop :=
  ∀ (s : State) (port : Nat) (p : Packet) (part : Nat), s.mem.wf = true → s.viral = false →
    let r := s.rxOf p
    let goes (i : Instr) (ends : State → Prop) : Prop := ∃ t, exec i s = .next t ∧ ends t
    let stream (t : State) (ok : RxStream → Prop) : Prop := ∃ x, t.fabric.rx.find? (fun y => y.isOf p) = some x ∧ ok x
    let answered (ty : PacketType) (cause : Nat) (data : List Byte) (bad : List Nat) (t : State) : Prop :=
      let k := p.answer (s.domain p.dvf) cause data bad
      if p.snode = s.pnode part then ∃ l, t.fabric.localBox = l ++ [(part, ty, k)]
      else port ≤ 144 → (t.port (injectPort part)).inq = (s.port (injectPort part)).inq ++ [.injected 4 ty k s.fabricCycle]
    let stores (bs : List Byte) (k : Nat) (t : State) : Prop :=
      t.mem.readN k bs.length = bs ∧ sameOutside s.mem t.mem k bs.length ∧ stream t (fun x => x.moved = r.moved + 1)
    let closed (t : State) : Prop := stream t (fun x => x.next = (p.seq + 1) % 2 ^ 32 ∧ x.moved = 0)
    let ended (rb : List Nat) (t : State) : Prop :=
      closed t ∧ answered .ack 0 [] [] t ∧ (rb = [] → t.mem = s.mem) ∧
      ∀ k, rb = [k] → sameOutside s.mem t.mem k 8 ∧ natOfBytes (t.mem.readN k 8) =
        wrapNat 64 ((natOfBytes (s.mem.readN k 8) : Int) - ((if r.tag = some p.cmdtag then r.tally else 0) + p.len : Nat))
    let turnedAway (cause : Nat) (t : State) : Prop := t.mem = s.mem ∧ closed t ∧ answered .nack cause [] [] t
    let piece (i : Nat) : List Byte := (p.data.drop (16 * i)).take 16
    (∀ ks rb, Arrives s port .put p part → s.places p.dvf part .write (accessesOf p.addr p.len 16) = .at_ ks → s.rbarKey p part = .at_ rb →
      (∀ k, ks[r.moved]? = some k → s.homeWaits k = false → goes (.putData port p) (stores (piece r.moved) k)) ∧
      (ks.length ≤ r.moved → (∀ k ∈ rb, s.homeWaits k = false) → goes (.putData port p) (ended rb))) ∧
    (∀ c a, Arrives s port .put p part → s.places p.dvf part .write (accessesOf p.addr p.len 16) = .refuse c a →
      goes (.putData port p) (turnedAway c)) ∧
    (∀ ks, Arrives s port .getRequest p part → s.places p.dvf part .read (accessesOf p.addr p.len 16) = .at_ ks →
      (∀ k, ks[r.moved]? = some k → s.homeWaits k = false → goes (.getRequest port p) (fun t => t.mem = s.mem ∧
        stream t (fun x => x.moved = r.moved + 1 ∧ x.got = r.got ++ s.mem.readN k 16))) ∧
      (ks.length ≤ r.moved → goes (.getRequest port p) (fun t => t.mem = s.mem ∧ closed t ∧ answered .getData 0 r.got r.gotBad t))) ∧
    (∀ h, Arrives s port .send p part → let f := s.fn p.dvf
      let ring := f.rxbase.toNat / 4096 * 4096
      (ringEnabled f.rxsize = false → goes (.sendPacket port p) (turnedAway 0x0D)) ∧
      (ringEnabled f.rxsize = true → s.places p.dvf part .both [ring] = .at_ [h] → s.homeWaits h = false →
        (r.slot = none → ringRefuses f.rxsize (natOfBytes (s.mem.readN h 8)) (natOfBytes (s.mem.readN (h + 8) 8)) = true →
          goes (.sendPacket port p) (turnedAway 0x0D)) ∧
        (r.slot = none → ringRefuses f.rxsize (natOfBytes (s.mem.readN h 8)) (natOfBytes (s.mem.readN (h + 8) 8)) = false →
          s.ringBusy p = false → goes (.sendPacket port p) (fun t => t.mem = s.mem ∧
            stream t (fun x => x.moved = 1 ∧ x.slot = some (natOfBytes (s.mem.readN h 8))))) ∧
        (∀ tail ks rb, r.slot = some tail → s.rbarKey p part = .at_ rb →
          s.places p.dvf part .write (accessesOf (ring + 2048 * (1 + tail % f.rxsize)) (64 + p.len) 16) = .at_ ks → 0 < r.moved →
          (∀ k, ks[r.moved - 1]? = some k → s.homeWaits k = false →
            goes (.sendPacket port p) (stores (((slotBytes p).drop (16 * (r.moved - 1))).take 16) k)) ∧
          (r.moved = ks.length + 1 → goes (.sendPacket port p) (stores (bytesOfNat 8 (tail + 1)) h)) ∧
          (r.moved = ks.length + 2 → (∀ k ∈ rb, s.homeWaits k = false) → goes (.sendPacket port p) (ended rb))))) ∧
    (∀ k, Arrives s port .atomic p part → s.places p.dvf part .both [p.addr] = .at_ [k] → s.homeWaits k = false →
      let w := atomicWidth (p.opx / 2 ^ 64)
      goes (.atomicPacket port p) (fun t => sameOutside s.mem t.mem k w ∧ closed t ∧
        answered .atomicResult 0 (s.mem.readN k w) (if s.poisonIn k w then [0] else []) t ∧
        natOfBytes (t.mem.readN k w) = atomicNew p.opx (natOfBytes (s.mem.readN k w)) % 2 ^ (8 * w))) ∧
    (∀ ks rb e, Arrives s port .reducePut p part → esizeOf (p.opx / 2 ^ 64 % 2 ^ 8) = some e →
      s.places p.dvf part .both (accessesOf p.addr p.len e) = .at_ ks → s.rbarKey p part = .at_ rb →
      (∀ k, ks[r.moved]? = some k → s.homeWaits k = false → goes (.reduceputPacket port p) (stores (bytesOfNat e
        (tileSum (p.opx / 2 ^ 64 % 2 ^ 8) e (natOfBytes (s.mem.readN k e)) (natAt p.data (e * r.moved) e))) k)) ∧
      (ks.length ≤ r.moved → (∀ k ∈ rb, s.homeWaits k = false) → goes (.reduceputPacket port p) (ended rb))) ∧
    (Arrives s port .join p part → goes (.joinPacket port p) (fun t => t.mem = s.mem ∧ closed t ∧ answered .ack 0 [] [] t ∧
      ((∀ m, s.membership p.dvf p.coll = some m → m.joined = true ∨ (p.snode, p.svf) ∉ m.members) →
        (p.dvf, p.coll, (p.snode, p.svf)) ∈ t.fabric.keptJoins) ∧
      (∀ m, s.membership p.dvf p.coll = some m → m.joined = false → (p.snode, p.svf) ∈ m.members →
        ∃ n, t.membership p.dvf p.coll = some n ∧ (p.snode, p.svf) ∈ n.heard))) ∧
    (Arrives s port .leave p part → p.cause ≠ 0x0E → goes (.leavePacket port p false) (fun t => t.mem = s.mem ∧ closed t ∧
      answered .ack 0 [] [] t ∧ ∀ m, t.membership p.dvf p.coll = some m → (p.snode, p.svf) ∉ m.members)) ∧
    (s.localPart port .leave p = some part → p.cause = 0x0E →
      (s.admits part p = true → goes (.leavePacket port p true) (fun t => t.mem = s.mem ∧ answered .ack 0 [] [] t ∧
        ∀ m, t.membership p.dvf p.coll = some m → (p.snode, p.svf) ∈ m.members → (p.snode, p.svf) ∈ m.lost)) ∧
      (s.admits part p = false → goes (.leavePacket port p true) (fun t => t.mem = s.mem ∧ answered .nack 0x0C [] [] t ∧
        t.fabric.members = s.fabric.members))) ∧
    (let away (i : Instr) (ty : PacketType) : Prop := ∀ cause, s.localPart port ty p = some part → r.inOrder p = true →
        (r.refuses p = some cause ∨ (r.refuses p = none ∧ r.moved = 0 ∧ s.admits part p = false ∧ cause = 0x0C)) →
        goes i (turnedAway cause)
     away (.putData port p) .put ∧ away (.getRequest port p) .getRequest ∧ away (.sendPacket port p) .send ∧
      away (.atomicPacket port p) .atomic ∧ away (.reduceputPacket port p) .reducePut ∧ away (.joinPacket port p) .join ∧
      (p.cause ≠ 0x0E → away (.leavePacket port p false) .leave))

/-- Answers: ACK closes its packet, NACK fails its command with its cause, returned data is stored at LADDR, one access
at a time. Transit: a packet at the head of its VC is granted its next hop when the far end has room and no other goes before it, one
with no route is answered with a NACK of cause 0x09, and one that has been refused for 64 cycles takes the escape VC. Links: a flit that
fails its CRC is dropped and asked for again, the expected one enters its slot; a retry resends from the flit asked for and is
counted; a link goes down when 16 retries or its lanes fail, and gives its packets up; a trained one is up; a member
that no route reaches for 10 us is lost (20 R495 to R504, R509, R513). Which packet of equal rank goes first, what a flit's CRC covers
and when a lost link's packets are given up are the model's choices (log 134 to 136). -/
def Obligations.FabricAnswersAndLinks : Prop :=
  (∀ (s : State) (port : Nat) (p : Packet) (part : Nat) (f : FabPending) (u : OpenPkt),
    let closed (g : FabPending) : Prop := ∀ v ∈ g.unanswered, ¬ (v.dnode = p.snode ∧ v.dvf = p.svf ∧ v.seq = p.seq)
    (Answers s port .ack p part f u → ∃ t g, exec (.ack port p) s = .next t ∧ t.fabric.cmds.find p.cmdtag = some g ∧ closed g ∧
      g.cause = f.cause ∧ t.mem = s.mem) ∧
    (Answers s port .nack p part f u → p.cause ≠ 0 → ∃ t g, exec (.nack port p) s = .next t ∧ t.fabric.cmds.find p.cmdtag = some g ∧
      closed g ∧ g.cause = (if f.cause = 0 then p.cause else f.cause) ∧ t.mem = s.mem) ∧
    let piece : List Byte := (p.data.drop (16 * u.moved)).take 16
    let stored (i : Instr) (ks : List Nat) : Prop :=
      (∀ k, ks[u.moved]? = some k → s.homeWaits k = false → s.viralBlocks k = false → s.mem.wf = true →
        ∃ t g, exec i s = .next t ∧ t.mem.readN k piece.length = piece ∧ sameOutside s.mem t.mem k piece.length ∧
          t.fabric.cmds.find p.cmdtag = some g ∧ { u with moved := u.moved + 1 } ∈ g.unanswered) ∧
      (ks.length ≤ u.moved →
        ∃ t g, exec i s = .next t ∧ t.mem = s.mem ∧ t.fabric.cmds.find p.cmdtag = some g ∧ closed g ∧ g.cause = f.cause)
    (∀ ks, Answers s port .getData p part f u → f.kind = .getRequest → f.cause = 0 →
      s.places f.fn f.part .write (accessesOf (f.laddr + u.off) p.data.length 16) = .at_ ks → stored (.getData port p) ks) ∧
    (∀ ks, Answers s port .atomicResult p part f u → f.kind = .atomic → f.cause = 0 → f.laddr ≠ 0 →
      s.places f.fn f.part .write (accessesOf (f.laddr + u.off) p.data.length 16) = .at_ ks → stored (.atomicResult port p) ks)) ∧
  (∀ (s : State) (port part : Nat) (x : InPacket), s.inputOwner port = some part → (s.port port).head x.vc = some x →
    x.route = none → x.dropped = false → x.pkt.dnode ≠ s.pnode part →
    let onItsWay (t : State) (out : Nat × Nat) : Prop := ∃ y ∈ (t.port port).inq, y.pkt = x.pkt ∧ y.vc = x.vc ∧ y.route = some out
    (∀ out, x.esc = false → s.nextHop part x.pkt.dnode x.vc = some out → (s.port out.1).roomFar out.2 x.pkt.flits = true →
      s.winsOutput part port x out = true →
      ∃ t, exec (.forwardedPacket port x.vc x.ty x.pkt true) s = .next t ∧ onItsWay t out ∧
        (out.2 ≠ 7 → (t.port out.1).far = (s.port out.1).far.take out.2 x.pkt.flits)) ∧
    (∀ out room, x.esc = false → s.nextHop part x.pkt.dnode x.vc = some out → (s.port out.1).roomFar out.2 x.pkt.flits = false ∨ room = false →
      exec (.forwardedPacket port x.vc x.ty x.pkt room) s = .next s) ∧
    (∀ room, x.esc = false → s.nextHop part x.pkt.dnode x.vc = none → port < 144 → x.pkt.snode ≠ s.pnode part →
      ∃ t, exec (.forwardedPacket port x.vc x.ty x.pkt room) s = .next t ∧ t.mem = s.mem ∧
        (t.port (injectPort part)).inq = (s.port (injectPort part)).inq ++
          [.injected 4 .nack (x.pkt.answer x.pkt.domain 0x09 [] []) s.fabricCycle]) ∧
    (∀ out, x.esc = true → s.routeEsc part x.pkt.dnode = some out → (s.port out).roomFar 7 1 = true →
      s.winsOutput part port x (out, 7) = true → ∃ t, exec (.escape port x.vc) s = .next t ∧ onItsWay t (out, 7)) ∧
    (x.esc = false → exec (.escape port x.vc) s = .next s)) ∧
  (∀ (s : State) (port part c : Nat) (x : InPacket), s.inputOwner port = some part → x ∈ (s.port port).inq → x.refused = some c →
    c + 64 ≤ s.fabricCycle → (s.routeEsc part x.pkt.dnode).isSome = true → { x with esc := true } ∈ (s.latchEscapes.port port).inq) ∧
  (∀ (s : State) (port : Nat) (f : Flit), port < 144 → (s.port port).up = true → let t := s.flitIn port f
    (f.crc ≠ f.check → (t.port port).inq = (s.port port).inq ∧ (t.port port).ask = some (s.port port).rxSeq ∧
      (t.port port).rxSeq = (s.port port).rxSeq) ∧
    (f.crc = f.check → f.seq ≠ (s.port port).rxSeq → t = s) ∧
    (f.crc = f.check → f.seq = (s.port port).rxSeq → f.body = none → (t.port port).rxSeq = f.seq + 1 ∧ (t.port port).ask = none ∧
      (t.port port).far = (s.port port).far.plus f.credits ∧ (t.port port).inq = (s.port port).inq) ∧
    (∀ ty p, f.crc = f.check → f.seq = (s.port port).rxSeq → f.body = some (ty, p, 0) → f.vc ≤ 6 →
      (s.port port).slotFree s.fabricCycle f = true → (∀ y ∈ (s.port port).inq, y.is f.vc ty p = false) →
      (t.port port).rxSeq = f.seq + 1 ∧ ∃ y ∈ (t.port port).inq, y.is f.vc ty p = true ∧ y.arrived = 1 ∧ y.slots = [f.shared])) ∧
  (∀ (s : State) (port n : Nat),
    (let again := (s.port port).retry.filter (fun f => decide (n ≤ f.seq))
     (s.port port).up = true → again ≠ [] → ∃ t, exec (.linkRetry port n) s = .next t ∧ (t.port port).resend = again ∧
      (t.port port).retries = (s.port port).retries + BitVec.ofNat 32 again.length) ∧
    (∀ part, s.portOwner port = some part → (s.port port).mustFall s.units = true →
      ∃ t, exec (.linkDown port) s = .next t ∧ (t.port port).up = false ∧ (t.port port).retry = [] ∧ t.mem = s.mem ∧
        (s.sentNow pfId < 65536 → (pfId, 2) ∈ t.msix)) ∧
    ((s.port port).mustFall s.units = false → exec (.linkDown port) s = .next s) ∧
    (∃ t, exec (.linkRetrain port) s = .next t ∧ (t.port port).en = true ∧ (t.port port).training = !(s.port port).up) ∧
    ((s.port port).en = true → (s.port port).training = true →
      ∃ t, exec (.linkTrained port) s = .next t ∧ (t.port port).up = true ∧ (t.port port).far = (s.port port).far) ∧
    ((s.port port).en = false ∨ (s.port port).training = false → exec (.linkTrained port) s = .next s)) ∧
  (∀ (s : State) (node vf : Nat), ∃ t, exec (.memberLost node vf) s = .next t ∧
    ∀ m ∈ s.fabric.members, (node, vf) ∈ m.members → (node, vf) ∉ m.lost →
      (∃ u, ((node, vf), u) ∈ m.away ∧ u + 10000 * Config.unitsPerNs ≤ s.units) →
      (∀ w ∈ t.fabric.members, w.fn = m.fn → w.coll = m.coll → (node, vf) ∈ w.members → (node, vf) ∈ w.lost) ∧
      ∀ e ∈ t.fabric.cmds, e.2.fn = m.fn → e.2.kind ≠ .leave → e.2.kind ≠ .join →
        (node, vf) ∈ e.2.dests → e.2.cause ≠ 0 ∧ e.2.unanswered = [])

/-! The memory system, the host and its requests (13 R326 to R349; 17 R453 to R458; 19 R475). -/

/-- ORDERED_ACCESS performs the lowest lane's access once its granule and its home allow it, and else takes its place at the home;
DRAIN makes a PRIVATE granule what the request that is first at its home makes of it, and a written one leaves every L1;
READONLY_INVALIDATION leaves no copy; EARLY_CLEAN only cleans, and under viral leaves a line of host memory dirty;
DIRECTORY_ECC_ERROR recalls a line, or a whole granule, which is SHARED (13 R337 to R349; 19 R482). HOST_REQUEST reads or writes device
memory of a partition within a block; SNOOP takes a line's modified data, and its copies when it invalidates (13 R330, R522; 19 R475).
That a host request to memory of no partition stops (log 29), and the list of directory errors (log 25), are the model's choices. -/
def Obligations.MemorySystemEvents : Prop :=
  (∀ (s : State) (op : Nat) (o : VOp) (a : LaneAccess) (g : Group), s.nextOrdered op = some (o, a) →
    s.groups.find o.gid = some g → s.performable op g.core a = true →
    ∃ t p, exec (.orderedAccess op) s = .next t ∧ t.ops.find op = some p ∧ (∀ b ∈ p.todo, b.lane ≠ a.lane) ∧
      (a.act = .load → t.mem = s.mem) ∧
      (∀ x, a.act = .store x → a.space = .phys → s.viral = false → s.mem.wf = true →
        t.mem.readN a.addr a.size = bytesOfNat a.size x ∧ sameOutside s.mem t.mem a.addr a.size)) ∧
  (∀ (s : State) (op : Nat) (o : VOp) (a : LaneAccess) (g : Group), s.nextOrdered op = some (o, a) →
    s.groups.find o.gid = some g → s.performable op g.core a = false →
    (s.home.contains op = false → s.arrivesHome g.core a = true →
      ∃ t, exec (.orderedAccess op) s = .next t ∧ t.home = s.home ++ [op] ∧ t.mem = s.mem ∧ t.ops = s.ops) ∧
    (s.home.contains op = true ∨ s.arrivesHome g.core a = false → exec (.orderedAccess op) s = .next s)) ∧
  (∀ (s : State) (gr c op core : Nat) (w : Bool) (a : LaneAccess), s.granules.find gr = some (.priv c w) →
    s.nextRequest gr (fun r => r.2.1 != c) = some (op, core, a) →
    ∃ t, exec (.drain gr) s = .next t ∧ op ∉ t.home ∧ (a.act = .load → t.mem = s.mem) ∧
      (∀ p, t.ops.find op = some p → ∀ b ∈ p.todo, b.lane ≠ a.lane) ∧
      t.granules.find gr = some (if w || a.act.writes then .shared else .readonly) ∧
      ((w || a.act.writes) = true → ∀ line l, t.lines.find line = some l → line / 32 = gr → l.l1 = [])) ∧
  (∀ (s : State) (gr op core : Nat) (a : LaneAccess), s.granules.find gr = some .readonly →
    s.nextRequest gr (fun r => r.2.2.act.writes) = some (op, core, a) →
    ∃ t, exec (.readonlyInvalidation gr) s = .next t ∧ op ∉ t.home ∧ t.granules.find gr = some .shared ∧
      (∀ p, t.ops.find op = some p → ∀ b ∈ p.todo, b.lane ≠ a.lane) ∧
      (∀ line l, t.lines.find line = some l → line / 32 = gr → l.l1 = [] ∧
        (if line = a.addr / 128 then l.owner = some (core / 96) ∧ l.sharers = [core / 96] else l.sharers = [] ∧ l.dirty = false)) ∧
      (∀ k c, t.cores.find k = some c → gr ∉ c.perms)) ∧
  (∀ (s : State) (line : Nat),
    (s.keepsDirty line = false → ∃ t, exec (.earlyClean line) s = .next t ∧ t.mem = s.mem ∧
      t.lines.find line = (s.lines.find line).map (fun l => { l with dirty := l.l1Dirty })) ∧
    (s.keepsDirty line = true → exec (.earlyClean line) s = .next s) ∧
    (∃ t, exec (.directoryEccError line false) s = .next t ∧ t.mem = s.mem ∧ t.dirErrors = s.dirErrors ++ [(line, false)] ∧
      (∀ l, t.lines.find line = some l → l.sharers = [] ∧ l.l1 = [] ∧ l.dirty = false) ∧
      ∀ k, k ≠ line → t.lines.find k = s.lines.find k) ∧
    (∃ t, exec (.directoryEccError line true) s = .next t ∧ t.mem = s.mem ∧ t.dirErrors = s.dirErrors ++ [(line, true)] ∧
      t.granules.find (line / 32) = some .shared ∧
      ∀ k l, k / 32 = line / 32 → t.lines.find k = some l → l.sharers = [] ∧ l.l1 = [] ∧ l.dirty = false)) ∧
  (∀ (s : State) (a n : Nat), 0 < n → a % 16 + n ≤ 16 →
    (a < hostBase → s.exposed a = false → exec (.hostRequest a (.read n)) s = .fault (.noMemory a)) ∧
    (hostBase ≤ a → s.lineBusy (a / 128) = false → s.mem.wf = true → ∀ bs, bs.length = n →
      ∃ t, exec (.hostRequest a (.write bs)) s = .next t ∧ t.mem.readN a n = bs ∧ sameOutside s.mem t.mem a n) ∧
    (a < hostBase → s.exposed a = true → s.inMotion a = false → s.homeWaits a = false →
      (∃ t, exec (.hostRequest a (.read n)) s = .next t ∧ t.mem = s.mem ∧
        t.toHost = s.toHost ++ [(a, .data (s.mem.readN a n) (s.slotPoison a n))]) ∧
      (∀ bs, bs.length = n → s.mem.wf = true → ∃ t, exec (.hostRequest a (.write bs)) s = .next t ∧
        t.mem.readN a n = bs ∧ sameOutside s.mem t.mem a n))) ∧
  (∀ (s : State) (line : Nat), s.lineBusy line = false →
    (∃ t, exec (.snoop line true) s = .next t ∧ t.mem = s.mem ∧ t.lines.find line = none ∧
      t.toHost = s.toHost ++ [(line, s.snoopAnswer line)]) ∧
    (∃ t, exec (.snoop line false) s = .next t ∧ t.mem = s.mem ∧ t.toHost = s.toHost ++ [(line, s.snoopAnswer line)] ∧
      t.lines.find line = (s.lines.find line).map (fun l => { l with owner := none, dirty := false, l1Dirty := false })))

/-- WALK_COMPLETE caches the leaf in the last-level TLB and sets A in a 64 KiB leaf, or fails its waiters with TRANSLATION; ATS
completions, of the size that the host returns, and PRI responses say how a piece of host memory stands; an ATS invalidation, one of
at most 32, drops its grants at once; an invalidation drops the entries of its pages from the TLBs and walk caches, and is done when
the accesses that used them are (17 R453 to R458). -/
def Obligations.TranslationEvents : Prop :=
  (∀ (s : State) (k : Nat) (w : Walk), s.walks.find k = some w → k < s.nextId → w.failed = none →
    (s.fn w.fn).root.getLsbD 0 = true →
    (∀ (level : Nat) (e : Dword) (entry : Nat), s.walkCached w.die w.fn (w.page * 2 ^ 16) = .leaf level e entry →
      ∃ t, exec (.walkComplete k) s = .next t ∧ t.walks.find k = none ∧
        ⟨w.die, .last, w.fn, level, w.page * 2 ^ 16 / 2 ^ levelShift level, if level = 1 then e ||| 0x40#64 else e⟩ ∈ t.tlb ∧
        (level ≠ 1 → t.mem = s.mem) ∧
        (level = 1 → pteBit e 6 = false → s.viralBlocks entry = false → s.mem.wf = true →
          natOfBytes (t.mem.readN entry 8) = (e.toNat + 2 ^ 6) % 2 ^ 64 ∧ sameOutside s.mem t.mem entry 8)) ∧
    (∀ poison, s.walkCached w.die w.fn (w.page * 2 ^ 16) = .bad poison →
      ∃ t, exec (.walkComplete k) s = .next t ∧ t.walks.find k = some { w with failed := some .translation } ∧ t.mem = s.mem)) ∧
  (∀ (s : State) (fn page : Nat) (e : AtsEntry), s.atsOf fn page = some e → e.st = .requested →
    (∀ frame size rd wr, let n := max 1 (min size e.limit)
      ∃ t, exec (.atsCompletion fn page (.grant frame size rd wr)) s = .next t ∧
        t.atsOf fn page = some ⟨fn, page / n * n, n, e.limit, .granted (frame / n * n) rd wr, []⟩) ∧
    (∃ t, exec (.atsCompletion fn page .deny) s = .next t ∧
      { e with st := if (s.fn fn).priFailed then .failed .permission
                     else if (s.fn fn).priOn then
                       (if s.ats.countP (fun x => x.fn == fn && x.st == .paging) < 512 then .paging else .toPage)
                     else .failed .translation } ∈ t.ats)) ∧
  (∀ (s : State) (fn page : Nat) (e : AtsEntry), s.atsOf fn page = some e → e.st = .paging →
    (∃ t, exec (.priResponse fn page .success) s = .next t ∧ { e with st := .requested } ∈ t.ats) ∧
    (∃ t, exec (.priResponse fn page .invalidRequest) s = .next t ∧ { e with st := .failed .translation } ∈ t.ats) ∧
    (∃ t, exec (.priResponse fn page .responseFailure) s = .next t ∧ { e with st := .failed .permission } ∈ t.ats ∧
      (t.fn fn).priFailed = true)) ∧
  (∀ (s : State) (fn page pages : Nat), let hit (e : AtsEntry) : Prop := e.fn = fn ∧ e.page < page + pages ∧ page < e.page + e.pages
    (s.atsInvals.length < 32 → ∃ t frames, exec (.atsInvalidate fn page pages) s = .next t ∧
      t.atsInvals = s.atsInvals ++ [⟨fn, frames⟩] ∧ (∀ e ∈ t.ats, hit e → ∀ frame rd wr, e.st ≠ .granted frame rd wr) ∧
      (∀ e ∈ s.ats, hit e → ∀ frame rd wr, e.st = .granted frame rd wr → (frame, e.pages) ∈ frames)) ∧
    (32 ≤ s.atsInvals.length → exec (.atsInvalidate fn page pages) s = .next s)) ∧
  (∀ (s : State) (fn : Nat),
    ((s.fn fn).invdone = true → ∃ t, exec (.tlbInvalidate fn) s = .next t ∧ (t.fn fn).invdone = false ∧
      (∀ x ∈ t.tlb, x.overlaps fn ((s.fn fn).invaddr.toNat % 2 ^ 57 / 2 ^ 16) (s.fn fn).invcnt.toNat = false) ∧
      (∀ x ∈ t.walkCache, x.overlaps fn ((s.fn fn).invaddr.toNat % 2 ^ 57 / 2 ^ 16) (s.fn fn).invcnt.toNat = false) ∧
      (∀ x ∈ s.tlb, x.fn ≠ fn → x ∈ t.tlb)) ∧
    (s.accessesPending fn = false → ∃ t, exec (.invalidationDone fn) s = .next t ∧ (t.fn fn).invdone = true))

/-! Submissions, launches and scheduling (14 R375 to R378; 16 R410 to R427). -/

/-- SQTAIL stores the tail and starts a stopped queue; SIGNAL_ENTRY and LAUNCH take the entry that is served next: a
submission is recorded, and a launch whose record is right joins its dispatch queue with its tickets divided over the dies;
a record that is wrong completes with status 1 and the lowest failing offset (16 R410 to R416; 04 R108, R110). That a launch whose
hints name a page in motion waits (log 60) and that the ranges of tickets are fixed when it is taken (log 66) are the model's
choices. -/
def Obligations.SubmissionsTaken : Prop :=
  (∀ (s : State) (fn q tail : Nat), ∃ t, exec (.sqtail fn q tail) s = .next t ∧
    t.sq fn q = { s.sq fn q with tail := tail % 4096, stopped := false } ∧ t.mem = s.mem) ∧
  (∀ (s s1 : State) (fn q part : Nat) (b : List Byte), s.sqPart fn q = some part → s.served part = some (fn, q) →
    s.queueHead fn part q = .ready b s1 →
    (natAt b 0 1 = 2 → ∃ t x, exec (.signalEntry fn q) s = .next t ∧ t.subs.find s.nextId = some x ∧ x.launch = none ∧
      x.status = 0 ∧ x.doneAddr = natAt b 0x20 8 ∧ x.doneInc = natAt b 0x28 8 ∧ x.stAddr = natAt b 0x30 8 ∧
      (t.sq fn q).head = ((s.sq fn q).head + 1) % (s.sq fn q).size ∧ t.mem = s.mem) ∧
    (∀ (p : Part) (rb : List Byte) (s2 : State), natAt b 0 1 = 1 → s.part part = some p →
      s1.readOwn fn part (natAt b 0x08 8) 256 = .got rb s2 → (LaunchRec.of rb).wsdesc = 0 →
      (∀ o, recordError rb = some o → ∃ t x, exec (.launch fn q) s = .next t ∧ t.subs.find s.nextId = some x ∧
        x.status = 1 ∧ x.offset = o ∧ x.launch = none ∧ (t.sq fn q).head = ((s.sq fn q).head + 1) % (s.sq fn q).size) ∧
      (recordError rb = none → s2.placeable fn p (LaunchRec.of rb) = false →
        ∃ t x, exec (.launch fn q) s = .next t ∧ t.subs.find s.nextId = some x ∧ x.status = 2 ∧ x.launch = none) ∧
      (∀ u, recordError rb = none → s2.placeable fn p (LaunchRec.of rb) = true → s2.hintsWait fn part (LaunchRec.of rb) = some u →
        exec (.launch fn q) s = .next u) ∧
      (recordError rb = none → s2.placeable fn p (LaunchRec.of rb) = true → s2.hintsWait fn part (LaunchRec.of rb) = none →
        ∃ t n l, exec (.launch fn q) s = .next t ∧ t.launches.find n = some l ∧ l.cfg = LaunchRec.of rb ∧ l.fn = fn ∧
          l.part = part ∧ l.lrec = BitVec.ofNat 64 (natAt b 0x08 8) ∧ l.ranges = ticketRanges p.dies (LaunchRec.of rb).gridn ∧
          l.gate = false ∧ l.complete = false ∧
          (t.part part).map (fun p => p.dq.getD (LaunchRec.of rb).qsel []) = some (p.dq.getD (LaunchRec.of rb).qsel [] ++ [n])))) ∧
  (∀ (dies : List Nat) (n : Nat), dies ≠ [] → ((ticketRanges dies n).map (fun r => r.back - r.front)).sum = n)

/-- RESIDENCY_GATE passes a launch whose regions are resident and refuses one that can never be; a cluster is placed on the
rectangle that its carousel chooses, with its ticket's number, preferred or fallback; LAUNCH_COMPLETE and
SUBMISSION_COMPLETE end a launch, and write its status record and its completion flag (14 R376 to R378; 16 R411, R416, R419). That
both are written in one event (log 66), and which pages count as countable and resident (log 65), are the model's choices. -/
def Obligations.LaunchesPlacedAndCompleted : Prop :=
  (∀ (s : State) (part dq id : Nat) (p : Part) (l : Launch), s.part part = some p → s.dqHead part dq = some (id, l) →
    l.gate = false → s.frozenPup = false →
    let can := (∀ r ∈ l.regions, r.need ≤ s.countable l.fn r) ∧ (l.regions.map Region.need).sum ≤ s.frames p 1
    (can → (∀ r ∈ l.regions, r.need ≤ s.residentCount l.fn r) →
      ∃ t, exec (.residencyGate part dq) s = .next t ∧ t.launches.find id = some { l with gate := true }) ∧
    (¬ can → ∃ t, exec (.residencyGate part dq) s = .next t ∧ t.launches.find id = none ∧
      t.subs.find l.sub = (s.subs.find l.sub).map (fun x => { x with status := 3, launch := none }))) ∧
  (∀ (s u : State) (id die ticket src : Nat) (l : Launch) (p : Part) (at_ : Nat × Nat) (fb : Bool), s.launches.find id = some l →
    s.part l.part = some p → p.oneDie = false → s.mayRun l.part l.fn = true → s.gangFirst l = false → s.isHead id l = true →
    (fb = true → s.fallbackWaits id die = true ∧ ∃ r ∈ l.ranges, r.die = die ∧ 2048 ≤ r.count) →
    l.gate = true → p.dies.contains die = true → s.mayPlaceIn die = true → l.nextTicket die = some (ticket, src) →
    s.ownerFirst p l die src = false →
    let shape := if fb then l.cfg.fallback else (l.cfg.gangpw, l.cfg.gangph)
    s.findRect p (l.part * 65 + l.fn) l.cfg die shape.1 shape.2 = some at_ →
    s.placeCluster ⟨id, die, at_.1, at_.2, shape.1, shape.2, fb, ticket⟩ = some u →
    ∃ t c, exec (if fb then .fallbackPlacement id die else .carouselPlace id die) s = .next t ∧
      t.gangs.find s.nextId = some c ∧ c.launch = id ∧ c.fn = l.fn ∧ c.gridpos = ticket ∧ c.die = die ∧
      (c.row, c.col) = at_ ∧ (c.w, c.h) = shape ∧ c.fallback = fb ∧
      (t.launches.find id).map (fun x => x.ranges) =
        some ((l.take die src).ranges.map (fun r => if r.die = die then { r with count := 0 } else r))) ∧
  (∀ (s : State) (id : Nat) (l : Launch), s.launches.find id = some l → l.complete = false → l.allPlaced = true →
    (∀ k c, (k, c) ∈ s.gangs → c.launch = id → c.status = .finished) →
    ∃ t, exec (.launchComplete id) s = .next t ∧ t.launches.find id = some { l with complete := true } ∧
      (∀ p ∈ t.parts, ∀ d ∈ p.2.dq, id ∉ d.2)) ∧
  (∀ (s : State) (id : Nat) (x : Submission) (k1 k2 : Nat), s.subs.find id = some x →
    (∀ l, x.launch = some l → (∀ y, s.launches.find l = some y → y.complete = true) ∧ s.commandsLeft l = false) →
    s.viral = false → s.mem.wf = true → k1 + 16 ≤ k2 ∨ k2 + 8 ≤ k1 →
    s.ownPlace x.fn x.part x.stAddr .write 16 = .at_ k1 → s.ownPlace x.fn x.part x.doneAddr .both 8 = .at_ k2 →
    ∃ t, exec (.submissionComplete id) s = .next t ∧ t.subs.find id = none ∧
      t.mem.readN k1 16 = bytesOfNat 4 (s.finalStatus x) ++ bytesOfNat 4 x.offset ++ bytesOfNat 8 s.reftime ∧
      natOfBytes (t.mem.readN k2 8) = (natOfBytes (s.mem.readN k2 8) + x.doneInc) % 2 ^ 64 ∧
      (∀ a, (a < k1 ∨ k1 + 16 ≤ a) → (a < k2 ∨ k2 + 8 ≤ a) → t.mem.read a = s.mem.read a) ∧
      (∀ l, x.launch = some l → t.launches.find l = none))

/-- SCHEDULING_DECISION chooses the tenant of the lowest pass whose work fits; QUANTUM_END halts a cluster whose 500 us are over
when another tenant waits; RESUME_IN_PLACE resumes a cluster of which nothing was claimed; TICK keeps the allowances and chooses the
tenant with the largest, once no command holds it; WS_SWEEP ages every 64 KiB page of a recorded tenant (16 R408, R420 to R427). One
tick or sweep for each multiple that has passed (log 49), and a gain that is rounded down (log 63), are the model's choices. -/
def Obligations.Scheduling : Prop :=
  (∀ (s : State) (part : Nat) (p : Part), s.part part = some p → s.puppeteerFree = true → p.oneDie = true →
    let fits (fn : Nat) : Option (Item × State) :=
      if (s.fn fn).tickets = 0 ∨ (s.fn fn).cap = 0 then none else s.strideStep part fn (p.dies.headD 0)
    (∀ fn i u, fn ∈ s.submitters part → fits fn = some (i, u) →
      (∀ f ∈ s.submitters part, (fits f).isSome = true → f ≠ fn → p.passes.getD fn 0 < p.passes.getD f 0) →
      exec (.schedulingDecision part) s = .next (u.addStride part fn) ∧
      (∀ id, i = .ticket id → s.launches.find id ≠ none → (∀ l, s.launches.find id = some l → l.part = part) →
        ∀ die, exec (.carouselPlace id die) s = .next (u.addStride part fn)))) ∧
  (∀ (s : State) (k : Nat) (c : Gang) (p : Part), s.gangs.find k = some c → c.status = .running → c.quantumStart + 500000 ≤ s.reftime →
    s.puppeteerFree = true → s.part c.part = some p → p.oneDie = true → s.othersWait c = true →
    ∃ t d, exec (.quantumEnd k) s = .next t ∧ t.gangs.find k = some d ∧ (d.status = .halted s.units ∨ d.status = .finished) ∧
      (∀ i ∈ c.groups, ∀ g, t.groups.find i = some g → g.status ≠ .running) ∧ t.mem = s.mem) ∧
  (∀ (s : State) (k : Nat) (c : Gang) (p : Part), s.gangs.find k = some c → s.part c.part = some p → p.oneDie = false →
    s.mayRun c.part c.fn = true → c.isHalted = true → s.gangQuiet c = true → s.intact c = true →
    ∃ t, exec (.resumeInPlace k) s = .next t ∧ t.gangs.find k = some { c with status := .running, quantumStart := s.reftime } ∧
      t.mem = s.mem ∧ (∀ i ∈ c.groups, ∀ g, s.groups.find i = some g → g.status = .halted → g.escalated = none →
        ∃ h, t.groups.find i = some h ∧ h.status = .running)) ∧
  (∀ (s : State) (part : Nat) (p : Part), s.part part = some p → p.oneDie = false → p.ticked < s.reftime / 1000000 →
    s.puppeteerFree = false → (s.workers part).Nodup →
    let w (f : Nat) : Nat := (s.fn f).weight * (if p.boosts.getD f 0 = 0 then 1 else 2)
    ∃ t r, exec (.tick part) s = .next t ∧ t.part part = some r ∧ r.ticked = p.ticked + 1 ∧ r.running = p.running ∧
      r.switchDue = !s.frozenPup ∧
      r.history = (p.running.getD 65 :: p.history).take 1000 ∧
      (∀ f ∈ s.workers part, r.allowance.getD f 0 = max (-10000000) (min 10000000 (p.allowance.getD f 0 +
        ((1000000 * w f / ((s.workers part).map w).sum : Nat) : Int) - (if p.running = some f then 1000000 else 0))))) ∧
  (∀ (s : State) (part : Nat) (p : Part), s.part part = some p → p.oneDie = false →
    p.switchDue = true ∨ p.ticked < s.reftime / 1000000 → s.puppeteerFree = true → s.workers part ≠ [] →
    let q := if p.switchDue then p else p.account (s.workers part) (s.submitters part) (fun f => (s.fn f).weight)
    ∃ t r, exec (.tick part) s = .next t ∧ t.part part = some r ∧ r.switchDue = false ∧
      r.ticked = (if p.switchDue then p.ticked else p.ticked + 1) ∧
      r.running = q.choose ((s.workers part).filter (fun f => q.underCap f (s.fn f).cap))) ∧
  (∀ (p : Part) (ts : List Nat) (f : Nat), p.choose ts = some f → f ∈ ts ∧ ∀ u ∈ ts, p.allowance.getD u 0 ≤ p.allowance.getD f 0) ∧
  (∀ (s : State) (fn : Nat), (s.fn fn).recorded = true → (s.fn fn).swept < s.reftime / 1000000 → s.viral = false →
    s.mem.wf = true → let ls := (s.leaves fn).filter (fun l => l.level == 1)
    ls.Pairwise (fun a b => a.entry + 8 ≤ b.entry ∨ b.entry + 8 ≤ a.entry) →
    ∃ t, exec (.wsSweep fn) s = .next t ∧ (t.fn fn).swept = (s.fn fn).swept + 1 ∧ (∀ l ∈ ls, ∀ x ∈ t.tlb, x.fn = fn → x.vpn ≠ l.va % 2 ^ 57 / 2 ^ levelShift x.level) ∧
      (∀ l ∈ ls, let e := BitVec.ofNat 64 (natOfBytes (t.mem.readN l.entry 8))
        e.toNat / 2 ^ 7 % 4 = (if pteBit l.word 6 then 3 else l.word.toNat / 2 ^ 7 % 4 - 1) ∧ pteBit e 6 = false ∧
        (∀ k, k < 64 → k ≠ 6 → k ≠ 7 → k ≠ 8 → e.getLsbD k = l.word.getLsbD k)) ∧
      (∀ a, (∀ l ∈ ls, a < l.entry ∨ l.entry + 8 ≤ a) → t.mem.read a = s.mem.read a))

/-! Power, partitions, resets and registers (14 R383, R384; 16 R398, R429 to R432; 19 R476 to R490). -/

/-- POWER_SAMPLE: above the limit the fastest die that may step goes down by 50 MHz, below 95 % of it the slowest goes up; the
step takes effect at RELOCK_END, 750 ns after the end of the cycle in progress; POWER_GATE takes a die's lines away and stops it, once
viral keeps none of them (14 R383; 19 R476, R482, R489). That it is the slowest die that goes up is the model's choice (log 79). -/
def Obligations.PowerEvents : Prop :=
  (∀ (s : State) (watts : Nat), s.frozenMgmt = false → s.pf.sampled ≤ s.reftime / 10000 →
    let limit := Nat.min s.pf.pwrlim 2400
    let due (d : Nat) : Nat := (s.die d).since + (s.cyclesSince d + 1) * (s.die d).period + 750 * Config.unitsPerNs
    ∃ t, exec (.powerSample watts) s = .next t ∧ t.pf.sampled = s.reftime / 10000 + 1 ∧ t.pf.above = decide (limit < watts) ∧
      t.mem = s.mem ∧
      (watts ≤ limit → ∀ e ∈ t.parts, e.2.throttled = false) ∧
      (limit < watts → ∀ d, d < 4 → s.mayStep d = true → 16 < (s.die d).k50 →
        (∀ e, e < 4 → s.mayStep e = true → (s.die e).k50 ≤ (s.die d).k50 ∧ (e < d → (s.die e).k50 < (s.die d).k50)) →
        (t.die d).relock = some (due d, (s.die d).k50 - 1) ∧ ∀ e, e < 4 → e ≠ d → t.die e = s.die e) ∧
      (watts * 100 < 95 * limit → ∀ d, d < 4 → s.mayStep d = true → (s.die d).k50 < 36 →
        (∀ e, e < 4 → s.mayStep e = true → (s.die d).k50 ≤ (s.die e).k50 ∧ (e < d → (s.die d).k50 < (s.die e).k50)) →
        (t.die d).relock = some (due d, (s.die d).k50 + 1) ∧ ∀ e, e < 4 → e ≠ d → t.die e = s.die e) ∧
      (95 * limit ≤ watts * 100 → watts ≤ limit → t.dies = s.dies)) ∧
  (∀ (s : State) (d u k : Nat), d < 4 → (s.die d).relock = some (u, k) → u ≤ s.units →
    ∃ t, exec (.relockEnd d) s = .next t ∧ t.die d = { s.die d with
      k50 := k, relocks := ((s.die d).relocks + 1) % 2 ^ 16, relock := none, since := u, cycleBase := s.dieCycle d, ncycleAcc := s.ncycleAcc d }) ∧
  (∀ (s : State) (d : Nat), d < 4 → (s.die d).gateReq = true → (s.die d).gated = false → (s.die d).relock = none →
    s.frozenMgmt = false → (∀ e ∈ s.lines, e.2.dirty = true → e.2.owner = some d → s.keepsDirty e.1 = false) →
    ∃ t, exec (.powerGate d) s = .next t ∧ (t.die d).gated = true ∧ t.mem = s.mem ∧
      (∀ line l, t.lines.find line = some l → d ∉ l.sharers ∧ l.owner ≠ some d))

/-- The puppeteer's commands, on legal arguments and with nothing running that they affect: PART_CREATE, PART_DESTROY (which
scrubs), PART_RESIZE, PART_MODE, CORE_REMOVE and VF_BIND; illegal arguments return INVALID, and a change of what runs without
FORCE returns BUSY; each clears PCMD (16 R398, R401, R429 to R432). That PART_CREATE of a partition that exists is INVALID, and
what counts as affected, are the model's choices (log 84). -/
def Obligations.PartitionCommands : Prop :=
  ∀ (s : State) (c : Nat), s.pf.pcmd = some c → s.frozenPup = false → s.affected (fun g => g.pending) = [] →
    let pid := cmdPid c
    let returns (t : State) (r : Nat) : Prop := t.pf.pcmd = none ∧ t.pf.result = r
    (cmdCode c = 1 → let p := Part.ofArg s.pcarg
      (natAt s.pcarg 0 1 = pid → s.parts.find pid = none → s.descriptorOk pid p = true →
        ∃ t, exec .partCreate s = .next t ∧ t.parts.find pid = some { p with ticked := s.reftime / 1000000 } ∧ returns t 0 ∧ t.mem = s.mem ∧
          ∀ k e, t.queues.find k = some e → k % 32 < 16 → p.cqmask.testBit (16 * (k / 32) + k % 32) = true → e.wp = 0) ∧
      (natAt s.pcarg 0 1 ≠ pid ∨ s.parts.find pid ≠ none ∨ s.descriptorOk pid p = false →
        ∃ t, exec .partCreate s = .next t ∧ t.parts = s.parts ∧ returns t 2)) ∧
    (cmdCode c = 2 → ∀ p, s.parts.find pid = some p →
      (s.affected (fun g => g.part == pid) = [] → p.memmode = false →
        ∃ t, exec .partDestroy s = .next t ∧ t.parts.find pid = none ∧ returns t 0 ∧
          (∀ a, t.mem.read a = if p.owns a then 0 else s.mem.read a)) ∧
      (s.affected (fun g => g.part == pid) = [] → p.memmode = true →
        ∃ t, exec .partDestroy s = .next t ∧ t.parts.find pid = none ∧ returns t 0 ∧
          (∀ a, t.mem.read a = if ((s.tenants pid).flatMap s.leaves).any (fun l => l.covers a 1) then 0 else s.mem.read a)) ∧
      (s.affected (fun g => g.part == pid) ≠ [] → cmdForce c = false →
        ∃ t, exec .partDestroy s = .next t ∧ t.parts = s.parts ∧ returns t 1)) ∧
    (cmdCode c = 3 → ∀ p, s.parts.find pid = some p → natAt s.pcarg 0 1 = pid →
      s.descriptorOk pid (p.resized (Part.ofArg s.pcarg)) = true → s.affected (fun g => g.part == pid) = [] →
      let new := p.resized (Part.ofArg s.pcarg)
      ∃ t, exec .partResize s = .next t ∧ returns t 0 ∧ t.mem = s.mem ∧
        t.parts.find pid = some { new with ticked := if p.oneDie then s.reftime / 1000000 else p.ticked } ∧
        ∀ k e, t.queues.find k = some e → k % 32 < 16 → new.cqmask.testBit (16 * (k / 32) + k % 32) = true →
          p.cqmask.testBit (16 * (k / 32) + k % 32) = false → e.wp = 0) ∧
    (cmdCode c = 4 → ∀ p, s.parts.find pid = some p → let mode := (natAt s.pcarg 1 1).testBit 0
      s.descriptorOk pid { p with memmode := mode } = true → s.affected (fun g => g.part == pid) = [] →
      ∃ t, exec .partMode s = .next t ∧ t.parts.find pid = some { p with memmode := mode } ∧ returns t 0 ∧ t.mem = s.mem) ∧
    (cmdCode c = 5 → let core := natAt s.pcarg 0x80 2
      core < 384 → s.affected (fun g => g.standsOn core && !g.pending) = [] →
      ∃ t, exec .coreRemove s = .next t ∧ (t.core core).removed = true ∧ returns t 0 ∧ ∀ k, k ≠ core → t.core k = s.core k) ∧
    (cmdCode c = 6 → (∀ p, (s.fn (cmdVf c)).bound = some p → s.hasWork p (cmdVf c) = false) →
      (cmdNone c = true → ∃ t, exec .vfBind s = .next t ∧ (t.fn (cmdVf c)).bound = none ∧ returns t 0) ∧
      (cmdNone c = false → s.parts.find pid ≠ none →
        ∃ t, exec .vfBind s = .next t ∧ (t.fn (cmdVf c)).bound = some pid ∧ returns t 0))

/-- COLD_RESET leaves a package as bring-up does; a function-level reset leaves nothing of its function and its registers at
their reset values, and touches no group of another; errors and violations do what 19 R480 to R485 say (19 R477 to R490). That FWVIOL
stands in die 0 (log 80), what a cold reset keeps (log 81) and which registers a function-level reset clears (log 83) are the model's
choices. -/
def Obligations.ResetsAndErrors : Prop :=
  (∀ (s : State), ∃ t, exec .coldReset s = .next t ∧ t.groups = [] ∧ t.runs = [] ∧ t.launches = [] ∧ t.parts = [] ∧ t.fns = [] ∧
    t.queues = [] ∧ t.tlb = [] ∧ t.granules = [] ∧ t.acc = [] ∧ t.fabric = State.reset.fabric ∧ t.viral = false ∧ t.dies = State.reset.dies ∧ t.ddr = s.ddr ∧
    (∀ a, t.mem.read a = if a < hostBase then 0 else s.mem.read a)) ∧
  (∀ (s : State) (fn : Nat), fn < 64 → ∃ t, exec (.vfFlr fn) s = .next t ∧
    (∀ k g, t.groups.find k = some g → g.fn ≠ fn) ∧ (∀ k l, t.launches.find k = some l → l.fn ≠ fn) ∧
    (∀ k x, t.subs.find k = some x → x.fn ≠ fn) ∧ (∀ x ∈ t.tlb, x.fn ≠ fn) ∧
    t.fn fn = { Fn.reset with sent := (t.fn fn).sent } ∧
    (∀ k g, s.groups.find k = some g → g.fn ≠ fn → t.groups.find k = some g)) ∧
  (∀ (s : State), ∃ t, exec .pfFlr s = .next t ∧ (∀ k g, t.groups.find k = some g → 64 < g.fn) ∧ t.fabric.ports = [] ∧
    t.fabric.routes = [] ∧ t.pf.pcmd = none ∧ ∀ fn, fn < 64 → (t.fn fn).bound = (s.fn fn).bound ∧ (t.fn fn).vfcq = 0) ∧
  (∀ (s : State) (m : Bool) (clamp addr : Nat), ∃ t, exec (.firmwareViolation m clamp addr) s = .next t ∧
    t.frozenMgmt = (s.frozenMgmt || m) ∧ t.frozenPup = (s.frozenPup || !m) ∧ (s.sentNow 64 < 65536 → t.msix = s.msix ++ [(64, 1)]) ∧
    (t.die 0).fwviol.toNat = addr / 2 ^ 12 % 2 ^ 52 * 2 ^ 12 + clamp % 16 * 2 ^ 8 + (if m then 2 else 1)) ∧
  (∀ (s : State), ∃ t, exec .uncontainedError s = .next t ∧ t.viral = true ∧ (s.sentNow 64 < 65536 → t.msix = s.msix ++ [(64, 2)]) ∧ t.mem = s.mem ∧
    t.groups = s.groups) ∧
  (∀ (s : State) (channel way : Nat), ∃ t, exec (.llcTagError channel way) s = .next t ∧ (channel, way) ∈ t.retiredWays ∧
    t.mem = s.mem ∧ (∀ e ∈ s.parts, s.usesChannel e.1 e.2 channel = true → ∀ k l, s.launches.find k = some l → l.part = e.1 →
      l.complete = false → ∃ m, t.launches.find k = some m ∧ m.killed = true))

/-- REGISTER_WRITE: the registers of a function keep the bits that their tables name; ROOT, CTXBASE and CTXCHUNKS are written only
while no launch runs; the physical function's VFSCHED, PWRLIM, PNODE, routes and PCMD (16 Tables 16.3, 16.6, 16.13; 17 Table 17.4,
R444; 20 Table 20.2). That VFSCHED keeps the binding of a tenant with work is the model's choice (log 78). -/
def Obligations.RegisterWrites : Prop :=
  (∀ (s : State) (fn v : Nat), fn ≤ 64 →
    let d : Dword := BitVec.ofNat 64 v
    let low (n : Nat) (x : Dword) : Dword := x >>> n <<< n
    let sets (off : Nat) (f : Fn → Fn) : Prop :=
      ∃ t, exec (.registerWrite fn off v) s = .next t ∧ t.fn fn = f (s.fn fn) ∧ t.mem = s.mem ∧ ∀ k, k ≠ fn → t.fn k = s.fn k
    (s.launchRuns fn = false → sets 0x2000 (fun x => { x with root := low 18 d ||| (d &&& 1#64) }) ∧
      sets 0x2020 (fun x => { x with ctxbase := low 16 d }) ∧ sets 0x2028 (fun x => { x with ctxchunks := d.setWidth 32 })) ∧
    (s.launchRuns fn = true → sets 0x2000 (fun x => x) ∧ sets 0x2020 (fun x => x) ∧ sets 0x2028 (fun x => x)) ∧
    sets 0x2008 (fun x => { x with invaddr := low 16 d }) ∧ sets 0x2010 (fun x => { x with invcnt := d.setWidth 32 }) ∧
    sets 0x2030 (fun x => { x with frbase := low 12 d }) ∧ sets 0x2038 (fun x => { x with frsize := v % 2 ^ 13 }) ∧
    sets 0x2048 (fun x => { x with frhead := v % 2 ^ 12 }) ∧ sets 0x2060 (fun x => { x with wdcfg := (d &&& 0xFFFF#64).setWidth 32 }) ∧
    sets 0x2080 (fun x => { x with fabcfg := (d &&& 0x1FFFF#64).setWidth 32 }) ∧ sets 0x2088 (fun x => { x with rxbase := low 12 d })) ∧
  (∀ (s : State) (vf v : Nat), vf < 64 → let d : Dword := BitVec.ofNat 64 v
    let keep : Bool := ((s.fn vf).bound.map (fun p => s.hasWork p vf)).getD false
    ∃ t, exec (.registerWrite 64 (0x50000 + 8 * vf) v) s = .next t ∧ ∀ k, k < 64 → (t.fn vf).sched.getLsbD k =
      (if k < 6 then (if keep then (s.fn vf).sched.getLsbD k else d.getLsbD k)
       else (decide (14 ≤ k) && decide (k ≤ 42) && d.getLsbD k))) ∧
  (∀ (s : State) (v : Nat),
    (∃ t, exec (.registerWrite 64 0x50800 v) s = .next t ∧ t.pf = { s.pf with pwrlim := v % 2 ^ 16 }) ∧
    (∃ t, exec (.registerWrite 64 0x50D00 v) s = .next t ∧
      t.pf.pcmd = (match s.pf.pcmd with | some c => some c | none => some (v % 2 ^ 32))) ∧
    (∀ part, part < 32 → ∃ t, exec (.registerWrite 64 (0x70000 + 8 * part) v) s = .next t ∧ t.pnode part = v % 2 ^ 12) ∧
    (∀ part node, part < 32 → node < 4096 → ∃ t, exec (.registerWrite 64 (0x80000 + 0x4000 * part + 4 * node) v) s = .next t ∧
      t.route part node = BitVec.ofNat 32 v))

/-! Encodings and the step (03 R79 to R98). -/

/-- Every instruction that has an encoding decodes from its own words to itself, with every operand at every value that the
encoding admits; it has a second word exactly when its first says so (03 R79 to R85, R96). -/
def Obligations.EncodingRoundTrip : Prop :=
  ∀ i : Instr, i.encoded = true → i.wf = true →
    decodeWords ((encode i).headD 0) ((encode i).getD 1 0) = .ok i ∧
    (encode i).length = (if hasExt ((encode i).headD 0) then 2 else 1)

/-- What decodes is well formed: reserved values, reserved bits and unaccepted extension words decode to nothing (03 R82, R83,
R98). -/
def Obligations.DecodingWellFormed : Prop := ∀ (w x : Word) (i : Instr), decodeWords w x = .ok i → i.wf = true ∧ i.encoded = true

/-- A few words written out from the encodings of 03 Tables 3.2, 3.3 and 3.9, and words that are no instruction. The 64 bytes of every
engine command, its fields at every value, decode to that command; a command with a reserved byte that is not zero is none (14
Tables 14.2 and 14.4, R373; 16 Table 16.4; 20 Table 20.5). -/
def Obligations.DecodedWords : Prop :=
  decodeWords 0x000C0820 0 = .ok (.add ⟨3, 1, 2, false, false⟩ true) ∧
  decodeWords 0x000C0823 0x03000000 = .ok (.addIt ⟨3, 1, 2, false, false⟩ ⟨1, true, false⟩) ∧
  decodeWords 0x3A152345 0 = .ok (.movi 5 0x12345) ∧
  decodeWords 0x400C0822 0 = .ok (.fadd ⟨3, 1, 2, false, false⟩ .ru) ∧
  decodeWords 0x80200004 0 = .ok (.bra 1 4) ∧
  decodeWords 0xA01F1191 0 = .ok (.ld ⟨7, 0x62, 3, 1⟩ 1) ∧
  decodeWords 0x8DE3C780 0 = .ok .exit ∧
  decodeWords 0xE3E01F80 0 = .ok (.gset 3) ∧
  decodeWords 0xF3E3C781 0 = .ok .halt ∧
  decodeWords 0xF403C005 0 = .ok (.rdsr 0 5) ∧
  decodeWords 0xF8000011 0 = .error .unassigned ∧
  decodeWords 0x000C0823 0x03000001 = .error .reservedBits ∧
  decodeWords 0x8DE3C781 0 = .error .reservedForm ∧
  (∀ (q : Nat) (bar : Dword),
    let z (n : Nat) : List Byte := List.replicate n 0
    let b (x : Nat) : List Byte := bytesOfNat 1 x
    let h (x : BitVec 16) : List Byte := bytesOfNat 2 x.toNat
    let w (x : Word) : List Byte := bytesOfNat 4 x.toNat
    let d (x : Dword) : List Byte := bytesOfNat 8 x.toNat
    let is (kind op : Nat) (fields : List Byte) (i : Instr) : Prop :=
      decodeCommand q kind false (bytesOfNat 8 op ++ d bar ++ fields) = .ok i
    (∀ src dst len, is 0 0x01 (d src ++ d dst ++ d len ++ z 24) (.copy q bar src dst len)) ∧
    (∀ dst len (pat : BitVec 128), is 0 0x02 (d dst ++ d len ++ bytesOfNat 16 pat.toNat ++ z 16) (.fill q bar dst len pat)) ∧
    (∀ src shape tr tc, is 0 0x03 (d src ++ d shape ++ h tr ++ h tc ++ z 28) (.tile q ⟨bar, src, shape, tr, tc, false, 0⟩) ∧
      is 0 0x04 (d src ++ d shape ++ h tr ++ h tc ++ z 28) (.tileadd q ⟨bar, src, shape, tr, tc, false, 0⟩)) ∧
    (∀ (add : Bool) (shape : Dword) (n buf : Nat), n ≤ 32 → buf < 4 →
      decodeCommand q 0 true (drainCommand add shape.toNat n buf) =
        .ok ((if add then Instr.tileadd q else .tile q) ⟨0, 0, shape, BitVec.ofNat 16 n, 32, true, BitVec.ofNat 2 buf⟩)) ∧
    (∀ src idx dst pitch n rb, is 0 0x05 (d src ++ d idx ++ d dst ++ d pitch ++ w n ++ w rb ++ z 8)
      (.gather q bar src idx dst pitch n rb)) ∧
    (∀ stage cache len mask eb (ns : BitVec 8) cap, is 0 0x06 (d stage ++ d cache ++ d len ++ d mask ++ w eb ++ b ns.toNat ++ z 3 ++
      w cap ++ z 4) (.kvcommit q bar stage cache len mask eb ns cap)) ∧
    (∀ addr value (mode : BitVec 8) decr, is 0 0x07 (d addr ++ d value ++ b mode.toNat ++ z 7 ++ d decr ++ z 16)
      (.signal q bar addr value mode decr)) ∧
    (∀ shape dst tr tc vout, is 0 0x08 (d shape ++ d dst ++ h tr ++ h tc ++ z 4 ++ d vout ++ z 16)
      (.vread q bar shape dst tr tc vout)) ∧
    (∀ (dnode : BitVec 12) (dvf : BitVec 6) (cls : BitVec 2) len laddr raddr rbar opx operand,
      ∀ x ∈ [(0x21, Instr.put), (0x22, .get), (0x23, .send), (0x24, .atomic), (0x25, .reduceput), (0x26, .colljoin), (0x27, .collleave)],
        is 1 x.1 (bytesOfNat 4 (dnode.toNat + 2 ^ 16 * dvf.toNat + 2 ^ 22 * cls.toNat) ++ w len ++ d laddr ++ d raddr ++ d rbar ++
          d opx ++ d operand) (x.2 q ⟨bar, dnode, dvf, cls, len, laddr, raddr, rbar, opx, operand⟩)) ∧
    (∀ va (vf : BitVec 6) (tier : BitVec 2) frame, is 2 0x11 (d va ++ b vf.toNat ++ z 3 ++ b tier.toNat ++ z 3 ++ d frame ++ z 24)
      (.move q bar va vf tier frame)) ∧
    (∀ dst len (vf : BitVec 6), is 2 0x12 (d dst ++ w len ++ z 4 ++ b vf.toNat ++ z 31) (.wssnap q bar dst len vf)) ∧
    (∀ kind drained bs, natAt bs 1 7 ≠ 0 → decodeCommand q kind drained bs = .error .badCommand))

/-- A step runs the decoded instruction: a slot's turn, once its operands are collected, is exec of the instruction that the words
at its place in its clause decode to, in the state in which that slot is the current one and what is due has landed, or the next clause
where the clause is at its end; a cycle that freezes the slot lands nothing of its groups (03 R94); the words of a clause are those that memory holds behind its header; a queue's turn is exec of the command at its head, or of
the consumption of its guard; an event's turn is exec of the event; a word that does not decode traps (03 R73, R96; 07 R199; 14 R353;
17 R437). A move that a replay holds, or that waits for another of its cycle, leaves the machine as it was; every other one counts (07
R203; 19 R488). The agenda that names the moves (log 2), what a replay holds (log 8) and the refusal of an agenda that names no event
(log 91) are the model's choices. -/
def Obligations.StepRunsDecoded : Prop :=
  (∀ (s : State) (d : Nat) (m : Move) (rest : List Timed), s.agenda = ⟨d, m⟩ :: rest →
    let x := ({ s with agenda := rest } : State).pass d
    (∀ n r, m = .slot n → x.runs.find n = some r → x.clockRuns (slotCore n / 96) = true → x.collects n r = true →
      let y := x.arrive n r
      (r.code = [] → step s = x.unlessHeld (.next (x.nextClause n))) ∧
      ∀ w ws, r.code = w :: ws →
        (∀ i, decodeWords w (ws.headD 0) = .ok i → y.armjLate r i = false → step s = x.unlessHeld (x.thaw n r (exec i y))) ∧
        (∀ e, decodeWords w (ws.headD 0) = .error e → step s = x.unlessHeld (.next (y.faultRun r w e)))) ∧
    (∀ q c, m = .queue q → x.headCmd q = some c → queueKind q = 1 ∨ x.clockRuns (q / 32) = true →
      (c.guard ≠ 0 ∧ c.started = false → step s = x.unlessHeld (exec (.guardConsume q) x)) ∧
      (¬ (c.guard ≠ 0 ∧ c.started = false) → ∀ i, decodeCommand q (queueKind q) c.drained c.bytes = .ok i →
        step s = x.unlessHeld (exec i x))) ∧
    (∀ e, m = .event e → (isEvent e = true → x.frozenEvent e = false → step s = x.unlessHeld (exec e x)) ∧
      (isEvent e = false → step s = .refused .agendaNotEvent))) ∧
  (∀ (s : State) (g : Group) (st : Stream) (slot : Nat) (c d : Clause), s.clauseWords g st slot c = .clause d →
    d.hdr = c.hdr ∧ d.head = c.head ∧ d.words.length = hdrCount c.head - c.skip ∧
    ∀ i w, d.words[i]? = some w → ∃ key, s.codeAt g slot ((c.hdr.toNat + 4 + 4 * (c.skip + i)) % 2 ^ 64) = .ok key ∧
      s.poisonIn key 4 = false ∧ w = BitVec.ofNat 32 (natOfBytes (s.mem.readN key 4))) ∧
  (∀ (s : State) (o : Host.Outcome State Fault Refusal), (∀ t, o = .next t → t.held = false) → s.unlessHeld o = o) ∧
  (∀ s t : State, t.held = true → s.unlessHeld (.next t) = .next s) ∧
  (∀ (s t : State) (n : Nat) (r : Run),
    (∀ q, t.runs.find n = some q → q.stalled = none) → s.thaw n r (.next t) = .next t) ∧
  (∀ (s t : State) (n : Nat) (r q : Run) (w : WaitReason), t.runs.find n = some q → q.stalled = some w → ∃ u, s.thaw n r (.next t) = .next u ∧
    u.teams = s.teams ∧ u.mem = t.mem ∧ ∀ k g, s.groups.find k = some g → ∃ h, u.groups.find k = some h ∧
      h.v = g.v ∧ h.k = g.k ∧ h.a = g.a ∧ h.p = g.p ∧ h.q = g.q ∧ h.fpstat = g.fpstat ∧ (h.stream r.stream).landing = (g.stream r.stream).landing)

/-- What stops a bundle before its instruction's meaning: a fault of the encoding, a hazard or poison faults in every group, a
wait holds the whole bundle and changes nothing of the instruction. Shown on ADD, MUL, AND and MOV (03 R94, R99; 07 R192; 17
R438). The order of the encoding faults (01 R42). -/
def Obligations.BundlesStopTogether : Prop :=
  (let all (i : Instr) (p : LaneRule) : Prop := RefusedWith i p ∧ WaitsTogether i p ∧ PoisonFaults i p
   (∀ f sg, all (.add f sg) (ruleBin 1 f 32 sg rowAdd (fun x y => satInt 32 sg false (readInt 32 sg x + readInt 32 sg y)) true)) ∧
   (∀ f sg, all (.mul f sg) (ruleBin 1 f 32 sg rowMul (fun x y => satInt 32 sg false (readInt 32 sg x * readInt 32 sg y))
      (tyOf f.a != .aff || tyOf f.b != .aff))) ∧
   (∀ f, all (.and f) (ruleBin 1 f 32 false rowAdd (fun x y => x % 2 ^ 32 &&& y % 2 ^ 32))) ∧
   (∀ f, all (.mov f) (ruleUn 1 f.d f.a f.ra 32 false rowAdd (fun x => x % 2 ^ 32) true))) ∧
  (∀ (s : State) (u : Uses) (lat : Option Nat) (c : Ctx), let stops (e : Cause) := s.gate u lat c = some (.fault (FaultInfo.plain e))
    (u.illegalOperand c = true → stops .illegalOperand) ∧
    (u.illegalOperand c = false → u.foreign c = true → stops .streamOwner) ∧
    (u.illegalOperand c = false → u.foreign c = false → u.illegalType = true → stops .illegalType) ∧
    (u.illegalOperand c = false → u.foreign c = false → u.illegalType = false → u.divergent c = true → stops .uniformDivergent) ∧
    (u.encodingFault c = none → s.lookaheadWait u c = false → s.hazard u c lat = true → stops .hazard))

/-! Frames. -/

/-- What a fixed-latency instruction leaves unchanged: memory, accumulator rows and requests altogether; in every group, each
register element that no landing result names, its J masks, its abacuses, SEED, SPTR and the epilogue configuration; the team
registers, when no landing result names one. -/
def Obligations.RegisterFrame : Prop :=
  ∀ (i : Instr) (p : LaneRule), Computes i p → ∀ (s : State) (r : Run) (cs : List Ctx) (t : State),
    Going s r cs p.full (fun _ => some p.latency) → p.affine = false → exec i s = .next t →
    let due (k : Nat) (g : Group) : List RegWrite := dueWrites g ((cs.filter (fun c => c.gid == k)).flatMap (fun c => p.writes c (c.part p.full)))
    t.mem = s.mem ∧ t.acc = s.acc ∧ t.entries = s.entries ∧
    (∀ k g h, s.groups.find k = some g → t.groups.find k = some h →
      h.cfg = g.cfg ∧ h.j = g.j ∧ h.x = g.x ∧ h.seed = g.seed ∧ h.sptr = g.sptr ∧ h.epi = g.epi ∧
      (∀ n L, n < 64 → (∀ x, RegWrite.vElem n L x ∉ due k g) → h.vElem n L = g.vElem n L) ∧
      (∀ n : Fin 32, (∀ x, RegWrite.kReg n x ∉ due k g) → h.k[n] = g.k[n]) ∧
      (∀ n : Fin 16, (∀ b st, RegWrite.aReg n b st ∉ due k g) → h.a[n] = g.a[n]) ∧
      (∀ n L, n < 8 → (∀ b, RegWrite.pBit n L b ∉ due k g) → h.pred n L = g.pred n L) ∧
      (∀ L : Fin 32, (∀ f, RegWrite.flags L f ∉ due k g) → h.fpstat[L] = g.fpstat[L])) ∧
    ((∀ k g, s.groups.find k = some g → ∀ n x, RegWrite.mReg n x ∉ due k g) →
      ∀ k z, t.teams.find k = some z → ∃ y, s.teams.find k = some y ∧ z.m = y.m ∧ z.late = y.late)

/-- An instruction that stores nothing as it issues leaves every byte as it was; a memory instruction that nothing stops leaves every
byte outside its bundle's accesses as it was. CALL and CALLR, which spill, BARINIT and BARARR, and the matrix requests, which may save
blocks, are not of these: their own statements give the state after them whole. -/
def Obligations.MemoryFrame : Prop :=
  (∀ (i : Instr) (s t : State), storesNothing i = true → exec i s = .next t → t.mem = s.mem) ∧
  (∀ (j : Instr) (w : Nat) (i : MemInstr) (s t : State) (r : Run) (cs : List Ctx), memOf j = some (w, i) →
    Going s r cs i.uses (fun _ => none) → (∀ c ∈ cs, c.act ≠ 0 → MemReady s i c) → exec j s = .next t →
    ∀ a, (∀ c ∈ cs, ∀ x ∈ i.accesses s c, x.space = .phys → a < x.addr ∨ x.addr + x.size ≤ a) →
      (∀ e ∈ s.ops, (∃ d ∈ s.ops, d.1 = e.1 ∧ d.2.bundle = s.bundleSeq) → ∀ x ∈ e.2.todo, x.space = .phys →
        a < x.addr ∨ x.addr + x.size ≤ a) →
      t.mem.read a = s.mem.read a)

/-! Reset and invariants (19 R490). -/

/-- The package after bring-up: memory all zeros and in its canonical form, no partition, no group and no command, every granule
UNTOUCHED, every function's registers and every die, port and quad at the values of 16 Tables 16.3, 16.6 and 16.13, 17 Table
17.4, 14 Table 14.7 and 20 Table 20.5a. The reset values that the manual does not give are the model's choice (log 3). -/
def Obligations.ResetState : Prop :=
  let s := State.reset
  s.mem.wf = true ∧ (∀ a, s.mem.read a = 0) ∧ s.parts = [] ∧ s.groups = [] ∧ s.runs = [] ∧ s.queues = [] ∧ s.launches = [] ∧
  (∀ g, s.granules.find g = none) ∧ (∀ q r, s.accRow q r = AccRow.zero) ∧ (∀ fn, s.fn fn = Fn.reset) ∧
  (∀ fn, (s.fn fn).bound = none ∧ (s.fn fn).tickets = 100 ∧ (s.fn fn).cap = 1000 ∧ (s.fn fn).root = 0 ∧
    (s.fn fn).wdcfg = 0x0800 ∧ (s.fn fn).invdone = true) ∧
  (∀ d, d < 4 → (s.die d).freq = 1600 ∧ s.dieCycle d = 0 ∧ s.ncycleAcc d = 0) ∧
  (∀ n, s.port n = Port.reset ∧ (s.port n).fslot = 0xAAAA60) ∧ s.pf.pwrlim = 0x0960 ∧ s.pf.pcmd = none ∧
  s.viral = false ∧ s.frozenPup = false ∧ s.reftime = 0

/-- Every step keeps the canonical form of memory: addresses rising, no byte listed that an unlisted address reads as. -/
def Obligations.StepKeepsMemory : Prop := ∀ s t : State, s.mem.wf = true → step s = .next t → t.mem.wf = true
end

