-- ==== Sys2Proof/Laws/Issue.lean ====
section
/-! SUPPORT. What issuing does, once for all instructions: a bundle in whose way nothing stands goes, transfers, waits or
faults as its meaning says. -/

namespace Sys2Proof.Machine

open Sys2Proof

theorem Going.judge {s : State} {r : Run} {cs : List Ctx} {u : Uses} {lat : Ctx → Option Nat} (h : Going s r cs u lat)
    {sem : State → Ctx → Verdict} {c : Ctx} (hc : c ∈ cs) : s.judge u lat sem c = sem s c := by
  unfold State.judge
  rw [h.gate c hc]
  have hp := h.clean c hc
  cases sem s c <;> simp [hp]

theorem Going.map_judge {s : State} {r : Run} {cs : List Ctx} {u : Uses} {lat : Ctx → Option Nat}
    (h : Going s r cs u lat) (sem : State → Ctx → Verdict) :
    cs.map (fun c => (c, s.judge u lat sem c)) = cs.map (fun c => (c, sem s c)) :=
  List.map_congr_left (fun c hc => by rw [h.judge hc])

/-- A bundle whose groups all go, none transferring control. -/
theorem issue_go {s : State} {r : Run} {cs : List Ctx} {u : Uses} {lat : Ctx → Option Nat} (h : Going s r cs u lat)
    {words : Nat} {pins : List Nat} {stop : Bool} {sem : State → Ctx → Verdict} {post : State → State}
    {eff : Ctx → State → State} (hs : ∀ c ∈ cs, sem s c = .go (eff c) none) :
    s.issue words u lat pins stop sem post = s.afterIssue cs words pins stop eff post := by
  have hmap : cs.map (fun c => (c, sem s c)) = cs.map (fun c => (c, Verdict.go (eff c) none)) :=
    List.map_congr_left (fun c hc => by rw [hs c hc])
  have hne : cs ≠ [] := h.some
  unfold State.issue State.afterIssue
  simp only [h.run, h.groups, h.map_judge, hmap]
  have hbad : (cs.map (fun c => (c, Verdict.go (eff c) none))).filter (fun e => e.2.isFault) = [] := by
    simp [List.filter_eq_nil_iff, Verdict.isFault]
  have hgood : (cs.map (fun c => (c, Verdict.go (eff c) none))).filter (fun e => !e.2.isFault)
      = cs.map (fun c => (c, Verdict.go (eff c) none)) := by
    simp [List.filter_eq_self, Verdict.isFault]
  have hwait : firstWait (cs.map (fun c => (c, Verdict.go (eff c) none))) = none := by
    simp [firstWait, List.findSome?_map]
  have hjump : anyJump (cs.map (fun c => (c, Verdict.go (eff c) none))) = false := by
    simp [anyJump]
  simp only [hbad, hgood, hwait, hjump, List.foldl_nil, List.isEmpty_map, List.foldl_map]
  cases cs with
  | nil => exact absurd rfl hne
  | cons c cs => simp [State.effects, State.after]

theorem jumpOf_map (cs : List Ctx) (eff : Ctx → State → State) (dest : Ctx → Fin 32 → Option Dword) (gid : Nat)
    (L : Fin 32) :
    (jumpOf (cs.map (fun c => (c, Verdict.go (eff c) (some (dest c))))) gid L).getD none
      = ((cs.find? (fun c => c.gid == gid)).map (fun c => dest c L)).getD none := by
  unfold jumpOf
  rw [List.find?_map]
  simp only [Function.comp_def]
  cases cs.find? (fun c => c.gid == gid) <;> rfl

/-- A bundle whose groups all transfer control. -/
theorem issue_jump {s : State} {r : Run} {cs : List Ctx} {u : Uses} {lat : Ctx → Option Nat} (h : Going s r cs u lat)
    {words : Nat} {pins : List Nat} {stop : Bool} {sem : State → Ctx → Verdict}
    {eff : Ctx → State → State} {dest : Ctx → Fin 32 → Option Dword}
    (hs : ∀ c ∈ cs, sem s c = .go (eff c) (some (dest c))) :
    s.issue words u lat pins stop sem = s.afterTransfer cs words pins stop eff dest := by
  have hmap : cs.map (fun c => (c, sem s c)) = cs.map (fun c => (c, Verdict.go (eff c) (some (dest c)))) :=
    List.map_congr_left (fun c hc => by rw [hs c hc])
  have hne : cs ≠ [] := h.some
  unfold State.issue State.afterTransfer
  simp only [h.run, h.groups, h.map_judge, hmap]
  have hbad : (cs.map (fun c => (c, Verdict.go (eff c) (some (dest c))))).filter (fun e => e.2.isFault) = [] := by
    simp [List.filter_eq_nil_iff, Verdict.isFault]
  have hgood : (cs.map (fun c => (c, Verdict.go (eff c) (some (dest c))))).filter (fun e => !e.2.isFault)
      = cs.map (fun c => (c, Verdict.go (eff c) (some (dest c)))) := by
    simp [List.filter_eq_self, Verdict.isFault]
  have hwait : firstWait (cs.map (fun c => (c, Verdict.go (eff c) (some (dest c))))) = none := by
    simp [firstWait, List.findSome?_map]
  have hjump : anyJump (cs.map (fun c => (c, Verdict.go (eff c) (some (dest c))))) = true := by
    cases cs with
    | nil => exact absurd rfl hne
    | cons c cs => simp [anyJump]
  simp only [hbad, hgood, hwait, hjump, List.foldl_nil, List.isEmpty_map, List.foldl_map, jumpOf_map]
  cases cs with
  | nil => exact absurd rfl hne
  | cons c cs => simp [State.effects, State.after]

/-- A bundle whose groups all fault: none issues. -/
theorem issue_fault {s : State} {r : Run} {cs : List Ctx} {words : Nat} {u : Uses} {lat : Ctx → Option Nat}
    {pins : List Nat} {stop : Bool} {sem : State → Ctx → Verdict} {post : State → State} {v : Ctx → Verdict}
    (hr : s.runs.find s.cur = some r) (hg : r.members.filterMap (s.ctx r) = cs)
    (hv : ∀ c ∈ cs, s.judge u lat sem c = v c) (hf : ∀ c ∈ cs, (v c).isFault = true) :
    s.issue words u lat pins stop sem post = s.afterFaults r cs words v := by
  have hmap : cs.map (fun c => (c, s.judge u lat sem c)) = cs.map (fun c => (c, v c)) :=
    List.map_congr_left (fun c hc => by rw [hv c hc])
  have hbad : (cs.map (fun c => (c, v c))).filter (fun e => e.2.isFault) = cs.map (fun c => (c, v c)) := by
    simpa [List.filter_eq_self] using hf
  have hgood : (cs.map (fun c => (c, v c))).filter (fun e => !e.2.isFault) = [] := by
    simpa [List.filter_eq_nil_iff] using hf
  unfold State.issue State.afterFaults
  simp only [hr, hg, hmap, hbad, hgood, List.foldl_map]
  simp [firstWait]

/-- A bundle in which some group waits and none faults: none issues, the slot is frozen (03 R94). -/
theorem issue_wait {s : State} {r : Run} {cs : List Ctx} {words : Nat} {u : Uses} {lat : Ctx → Option Nat}
    {pins : List Nat} {stop : Bool} {sem : State → Ctx → Verdict} {post : State → State} {w : WaitReason}
    (hr : s.runs.find s.cur = some r) (hg : r.members.filterMap (s.ctx r) = cs)
    (hf : ∀ c ∈ cs, (s.judge u lat sem c).isFault = false)
    (hw : firstWait (cs.map (fun c => (c, s.judge u lat sem c))) = some w) :
    s.issue words u lat pins stop sem post
      = (waitEffects (cs.map (fun c => (c, s.judge u lat sem c))) s).stall r w := by
  have hbad : (cs.map (fun c => (c, s.judge u lat sem c))).filter (fun e => e.2.isFault) = [] := by
    simpa [List.filter_eq_nil_iff] using hf
  have hgood : (cs.map (fun c => (c, s.judge u lat sem c))).filter (fun e => !e.2.isFault)
      = cs.map (fun c => (c, s.judge u lat sem c)) := by
    simpa [List.filter_eq_self] using hf
  unfold State.issue
  simp only [hr, hg, hbad, hgood, hw, List.foldl_nil, List.isEmpty_nil, if_true]

/-- A fixed-latency instruction that is not closed over affine sources. -/
theorem issueAlu_go {s : State} {r : Run} {cs : List Ctx} {words : Nat} {a : Alu} {out : Ctx → Fin 32 → LaneOut}
    (h : Going s r cs a.allUses (fun _ => some a.latency)) (hc : a.isClosed = false)
    (ho : ∀ c ∈ cs, a.fn c (c.part a.allUses) = .ok (out c)) :
    s.issueAlu words a = s.afterIssue cs words (pinRows a.pins) false (fun c x =>
      if c.part a.allUses = 0 then x
      else (x.issueFixed c a.allUses a.latency (a.writes c (c.part a.allUses) (out c))).modGroup c.gid
        (fun g => g.step (c.part a.allUses) (out c))) := by
  unfold State.issueAlu
  apply issue_go h
  intro c hm
  unfold Alu.sem
  by_cases h0 : c.part a.allUses = 0
  · simp only [h0, if_true]
  · simp only [if_neg h0, hc, ho c hm, Bool.false_eq_true, if_false]

theorem step_id (g : Group) (m : Word) (out : Fin 32 → LaneOut) (h : ∀ L, (out L).seed = none) : g.step m out = g := by
  unfold Group.step
  generalize lanesOf m = l
  induction l with
  | nil => rfl
  | cons L l ih => simp [h L, ih]

theorem assoc_modify_id {α : Type} (m : Assoc α) (k : Nat) : m.modify k (fun x => x) = m := by
  unfold Assoc.modify
  simp

theorem modGroup_id (s : State) (k : Nat) (f : Group → Group) (h : ∀ g, f g = g) : s.modGroup k f = s := by
  have : f = fun g => g := funext h
  unfold State.modGroup
  rw [this, assoc_modify_id]

/-- An instruction whose meaning is a lane-by-lane computation issues as its rule says. -/
theorem computes_of_alu {i : Instr} {p : LaneRule} (a : Alu) (he : ∀ s, exec i s = runAlu p.words a s)
    (hu : a.uses = p.uses) (hl : a.lat = p.row) (hp : a.pins = p.pins) (hx : a.ext = p.ext)
    (hf : ∀ c m, a.fn c m = .ok (fun L =>
      { val := p.val (c.values p.uses L) (c.predValues p.uses L), pred := p.pred (c.values p.uses L) (c.predValues p.uses L),
        flags := p.flags (c.values p.uses L) (c.predValues p.uses L) })) :
    Computes i p := by
  intro s r cs h haff
  have hfull : a.allUses = p.full := by unfold Alu.allUses LaneRule.full; rw [hu, hl]
  have hlat : a.latency = p.latency := by unfold Alu.latency LaneRule.latency; rw [hu, hl]
  have hcl : a.isClosed = false := by
    have : a.isClosed = p.affine := by unfold Alu.isClosed LaneRule.affine; rw [hu]; try (cases p.uses.dst <;> rfl)
    rw [this, haff]
  rw [he]
  unfold runAlu
  rw [issueAlu_go (out := fun c L =>
      { val := p.val (c.values p.uses L) (c.predValues p.uses L), pred := p.pred (c.values p.uses L) (c.predValues p.uses L),
        flags := p.flags (c.values p.uses L) (c.predValues p.uses L) }) (hfull ▸ hlat ▸ h) hcl (fun c _ => hf c _)]
  rw [hfull, hlat, hp]
  congr 2
  funext c x
  unfold LaneRule.effect
  split
  · rfl
  · rw [modGroup_id _ _ _ (fun g => step_id g _ _ (fun _ => rfl))]
    congr 1
    unfold Alu.writes LaneRule.writes
    rw [hu, hx]
    rfl

/-- The same for a meaning written lane by lane: what a lane computes is what the rule says. -/
theorem computes_of_lanewise {i : Instr} {p : LaneRule} (a : Alu) {u : Uses} {f : List Nat → List Bool → LaneOut}
    (he : ∀ s, exec i s = runAlu p.words a s) (hu : a.uses = p.uses) (hl : a.lat = p.row) (hp : a.pins = p.pins)
    (hx : a.ext = p.ext) (hn : a.fn = lanewise u f) (hs : u.srcs = p.uses.srcs) (hr : u.restricted = p.uses.restricted)
    (hq : u.preds = p.uses.preds)
    (hf : ∀ v q, f v q = { val := p.val v q, pred := p.pred v q, flags := p.flags v q }) : Computes i p := by
  refine computes_of_alu a he hu hl hp hx (fun c m => ?_)
  rw [hn]
  unfold lanewise Ctx.values Ctx.predValues
  simp only [hf, hs, hr, hq]

/-- An instruction closed over affine sources. -/
theorem computesAffine_of_alu {i : Instr} {p : LaneRule} {f : List (Int × Int) → Int × Int} (a : Alu)
    (he : ∀ s, exec i s = runAlu p.words a s) (hu : a.uses = p.uses) (hl : a.lat = p.row) (hp : a.pins = p.pins)
    (hx : a.ext = p.ext) (hc : a.closed = some f) : ComputesAffine i p f := by
  intro s r cs n d h haff hd hn hpart hst
  have hfull : a.allUses = p.full := by unfold Alu.allUses LaneRule.full; rw [hu, hl]
  have hlat : a.latency = p.latency := by unfold Alu.latency LaneRule.latency; rw [hu, hl]
  have hcl : a.isClosed = true := by
    have : a.isClosed = p.affine := by unfold Alu.isClosed LaneRule.affine; rw [hu]; try (cases p.uses.dst <;> rfl)
    rw [this, haff]
  rw [he]
  unfold runAlu State.issueAlu
  rw [hfull, hlat, hp]
  congr 1
  apply issue_go h
  intro c hm
  unfold Alu.sem
  rw [hfull, hlat, hx]
  have hsrc : p.full.srcs = p.uses.srcs := rfl
  simp only [if_neg (hpart c hm), hcl, hc, hu, hd, hn, hsrc, hst c hm, if_true]

/-- An instruction whose lanes need more than their own operands. -/
theorem computesWhen_of_alu {i : Instr} {p : LaneRule} {ok : Ctx → Word → Prop} {out : Ctx → Word → Fin 32 → LaneOut}
    (a : Alu) (he : ∀ s, exec i s = runAlu p.words a s) (hu : a.uses = p.uses) (hl : a.lat = p.row) (hp : a.pins = p.pins)
    (hx : a.ext = p.ext) (hf : ∀ c m, ok c m → a.fn c m = .ok (out c m)) : ComputesWhen i p ok out := by
  intro s r cs h haff hok
  have hfull : a.allUses = p.full := by unfold Alu.allUses LaneRule.full; rw [hu, hl]
  have hlat : a.latency = p.latency := by unfold Alu.latency LaneRule.latency; rw [hu, hl]
  have hcl : a.isClosed = false := by
    have : a.isClosed = p.affine := by unfold Alu.isClosed LaneRule.affine; rw [hu]; try (cases p.uses.dst <;> rfl)
    rw [this, haff]
  rw [he]
  unfold runAlu State.issueAlu
  rw [hfull, hlat, hp]
  congr 1
  apply issue_go h
  intro c hm
  unfold Alu.sem
  rw [hfull, hlat]
  by_cases h0 : c.part p.full = 0
  · simp only [h0, if_true]
  · simp only [if_neg h0, hcl, hf c _ (hok c hm h0), Bool.false_eq_true, if_false]
    unfold Alu.writes LaneRule.writesOf
    rw [hu, hx]
    try (cases p.uses.dst <;> rfl)

/-- An instruction whose own meaning is a fault. -/
theorem faultsWhen_of_alu {i : Instr} {p : LaneRule} {bad : Ctx → Word → Prop} {cause : Cause}
    (a : Alu) (he : ∀ s, exec i s = runAlu p.words a s) (hu : a.uses = p.uses) (hl : a.lat = p.row)
    (hf : ∀ c m, bad c m → a.fn c m = .error cause) : FaultsWhen i p bad cause := by
  intro s r cs h haff hbad
  have hfull : a.allUses = p.full := by unfold Alu.allUses LaneRule.full; rw [hu, hl]
  have hlat : a.latency = p.latency := by unfold Alu.latency LaneRule.latency; rw [hu, hl]
  have hcl : a.isClosed = false := by
    have : a.isClosed = p.affine := by unfold Alu.isClosed LaneRule.affine; rw [hu]; try (cases p.uses.dst <;> rfl)
    rw [this, haff]
  rw [he]
  unfold runAlu State.issueAlu
  rw [hfull, hlat]
  congr 1
  refine issue_fault h.run h.groups (fun c hm => ?_) (fun c _ => rfl)
  rw [h.judge hm]
  unfold Alu.sem
  rw [hfull]
  simp only [if_neg (hbad c hm).1, hcl, hf c _ (hbad c hm).2, Bool.false_eq_true, if_false]

/-- A variable-latency instruction that computes from its operands. -/
theorem issue_starts {s : State} {r : Run} {cs : List Ctx} {u : Uses} (h : Going s r cs u (fun _ => none)) {words : Nat}
    {pins : List Nat} {kind : OpKind} {la : BitVec 4} {tk : BitVec 3} {out : Ctx → Fin 32 → LaneOut}
    {also : Ctx → State → State} (hw : ∀ c ∈ cs, s.varWait c (c.part u) tk.toNat = none)
    {sem : State → Ctx → Verdict}
    (hs : ∀ c ∈ cs, sem s c = computeVerdict s c u kind la tk (out c) (also c)) :
    s.issue words u (fun _ => none) pins false sem = s.afterIssue cs words pins false (fun c x =>
      if c.part u = 0 then x else also c (x.startCompute c u kind la tk (out c))) := by
  apply issue_go h
  intro c hm
  rw [hs c hm]
  unfold computeVerdict
  by_cases h0 : c.part u = 0
  · simp only [h0, if_true]
  · simp only [if_neg h0, hw c hm]

/-- A group with no active lane goes with no effect. -/
theorem go_unless (P : Prop) [Decidable P] (e : State → State) :
    (if P then Verdict.go (fun s => s) none else Verdict.go e none) = Verdict.go (fun x => if P then x else e x) none := by
  split <;> rfl

/-- An instruction that is a variable-latency computation. -/
theorem starts_of {i : Instr} {words : Nat} {u : Uses} {pins : List (Operand × Bool)} {kind : OpKind} {la : BitVec 4}
    {tk : BitVec 3} {out : Ctx → Fin 32 → LaneOut} {also : Ctx → State → State}
    (he : ∀ s, exec i s = .next (s.issue words u (fun _ => none) (pinRows pins) false
      (fun s c => computeVerdict s c u kind la tk (out c) (also c)))) : Starts i words u pins kind la tk out also := by
  intro s r cs h hw
  rw [he, issue_starts h hw (fun c _ => rfl)]

/-- An instruction whose groups, where they meet `ok`, go with an effect. -/
theorem acts_of {i : Instr} {words : Nat} {u : Uses} {lat : Option Nat} {pins : List (Operand × Bool)} {stop : Bool}
    {ok : State → Ctx → Prop} {eff : State → Ctx → State → State} {post : State → State} {sem : State → Ctx → Verdict}
    (he : ∀ s, exec i s = .next (s.issue words u (fun _ => lat) (pinRows pins) stop sem post))
    (hs : ∀ s c, ok s c → sem s c = .go (eff s c) none) : Acts i words u lat pins stop ok eff post := by
  intro s r cs h hok
  rw [he, issue_go h (fun c hc => hs s c (hok c hc))]

/-- An instruction whose groups, where they meet `ok`, transfer control. -/
theorem transfers_of {i : Instr} {u : Uses} {pins : List (Operand × Bool)}
    {ok : State → Ctx → Prop} {eff : State → Ctx → State → State} {dest : State → Ctx → Fin 32 → Option Dword}
    {sem : State → Ctx → Verdict} (he : ∀ s, exec i s = .next (s.issueControl u pins sem))
    (hs : ∀ s c, ok s c → sem s c = .go (eff s c) (some (dest s c))) : Transfers i u ok eff dest pins := by
  intro s r cs h hok
  rw [he]
  unfold State.issueControl
  rw [issue_jump h (fun c hc => hs s c (hok c hc))]

/-- A transfer whose targets are all headers. -/
theorem transferVerdict_good {s : State} {c : Ctx} {ts : List (Fin 32 × Dword)} {eff : State → State} {leave : Word}
    (h : s.goodTargets c (ts.map Prod.snd)) :
    s.transferVerdict c ts eff leave = .go eff (some (fun L =>
      if laneIn leave L then none else some (((ts.find? (fun e => e.1 == L)).map Prod.snd).getD (c.pc + 4)))) := by
  have hg : ∀ pc ∈ (ts.map Prod.snd).eraseDups, s.checkTarget c.g s.cur pc = .good :=
    fun pc hm => h pc (List.mem_eraseDups.mp hm)
  unfold State.transferVerdict
  have h2 : (ts.map Prod.snd).eraseDups.any (fun pc => s.checkTarget c.g s.cur pc == .bad) = false := by
    rw [List.any_eq_false]
    intro pc hm
    rw [hg pc hm]
    decide
  dsimp only
  split
  · next x hx =>
    obtain ⟨pc, hm, he⟩ := List.exists_of_findSome?_eq_some hx
    rw [hg pc hm] at he
    exact absurd he (by simp)
  · simp only [h2, Bool.false_eq_true, if_false]

/-- Looking a lane up in a list of lanes with their targets. -/
theorem find_target {ls : List (Fin 32)} {f : Fin 32 → Dword} {L : Fin 32} :
    ((ls.map (fun L => (L, f L))).find? (fun e => e.1 == L)).map Prod.snd = if L ∈ ls then some (f L) else none := by
  induction ls with
  | nil => rfl
  | cons a l ih =>
    simp only [List.map_cons, List.find?_cons]
    by_cases h : a = L
    · subst h; simp
    · have : (a == L) = false := by simpa using h
      simp only [this, ih]
      simp [List.mem_cons, Ne.symm h]

/-- A transfer of the lanes of a list, each to its target. -/
theorem transferVerdict_map {s : State} {c : Ctx} {ls : List (Fin 32)} {f : Fin 32 → Dword} {eff : State → State}
    {leave : Word} (h : s.goodTargets c (ls.map f)) :
    s.transferVerdict c (ls.map (fun L => (L, f L))) eff leave = .go eff (some (fun L =>
      if laneIn leave L then none else some (if L ∈ ls then f L else c.pc + 4))) := by
  rw [transferVerdict_good (by simpa [List.map_map, Function.comp_def] using h)]
  congr 2
  funext L
  split
  · rfl
  · rw [find_target]
    split <;> rfl

end Sys2Proof.Machine
end

