-- ==== Sys2Proof/Laws/Maps.lean ====
section
/-! SUPPORT. Laws of finite maps and of byte memories: reading what was written, leaving the rest alone, and keeping the
canonical form. -/

namespace Sys2Proof.Machine

open Sys2Proof

/-! Finite maps. -/

theorem Assoc.find_set {α : Type} (m : Assoc α) (k : Nat) (x : α) : (m.set k x).find k = some x := by
  induction m with
  | nil => simp [Assoc.set, Assoc.find]
  | cons e r ih =>
    obtain ⟨i, y⟩ := e
    simp only [Assoc.set]
    split
    · next h => simp only [Assoc.find, if_neg (Nat.ne_of_lt h), ih]
    · split <;> simp [Assoc.find]

theorem Assoc.find_set_ne {α : Type} (m : Assoc α) {k i : Nat} (x : α) (h : i ≠ k) : (m.set k x).find i = m.find i := by
  induction m with
  | nil => simp [Assoc.set, Assoc.find, Ne.symm h]
  | cons e r ih =>
    obtain ⟨j, y⟩ := e
    simp only [Assoc.set]
    split
    · simp only [Assoc.find, ih]
    · split
      · next hj => subst hj; simp [Assoc.find, Ne.symm h]
      · simp [Assoc.find, Ne.symm h]

theorem Assoc.find_drop {α : Type} (m : Assoc α) (k : Nat) : (m.drop k).find k = none := by
  induction m with
  | nil => rfl
  | cons e r ih =>
    obtain ⟨i, y⟩ := e
    by_cases h : i = k
    · simpa [Assoc.drop, h] using ih
    · simpa [Assoc.drop, h, Assoc.find] using ih

theorem Assoc.find_drop_ne {α : Type} (m : Assoc α) {k i : Nat} (h : i ≠ k) : (m.drop k).find i = m.find i := by
  induction m with
  | nil => rfl
  | cons e r ih =>
    obtain ⟨j, y⟩ := e
    by_cases hj : j = k
    · subst hj; simpa [Assoc.drop, Assoc.find, Ne.symm h] using ih
    · have hr : Assoc.find (r.filter (fun e => e.1 != k)) i = Assoc.find r i := ih
      simp [Assoc.drop, hj, Assoc.find, hr]

theorem Assoc.find_modify {α : Type} (m : Assoc α) (k : Nat) (f : α → α) : (m.modify k f).find k = (m.find k).map f := by
  induction m with
  | nil => rfl
  | cons e r ih =>
    obtain ⟨i, y⟩ := e
    by_cases h : i = k
    · simp [Assoc.modify, Assoc.find, h]
    · simpa [Assoc.modify, Assoc.find, h] using ih

theorem Assoc.find_modify_ne {α : Type} (m : Assoc α) {k i : Nat} (f : α → α) (h : i ≠ k) :
    (m.modify k f).find i = m.find i := by
  induction m with
  | nil => rfl
  | cons e r ih =>
    obtain ⟨j, y⟩ := e
    by_cases hj : j = k
    · subst hj
      have hr : Assoc.find (r.map (fun e => if e.1 = j then (e.1, f e.2) else e)) i = Assoc.find r i := ih
      simp [Assoc.modify, Assoc.find, Ne.symm h, hr]
    · have hr : Assoc.find (r.map (fun e => if e.1 = k then (e.1, f e.2) else e)) i = Assoc.find r i := ih
      simp [Assoc.modify, Assoc.find, hj, hr]

/-- A map over the values. -/
theorem Assoc.find_map {α : Type} (m : Assoc α) (k : Nat) (f : Nat → α → α) :
    Assoc.find (m.map (fun e => (e.1, f e.1 e.2))) k = (m.find k).map (f k) := by
  induction m with
  | nil => rfl
  | cons e r ih =>
    obtain ⟨i, y⟩ := e
    by_cases h : i = k
    · simp [Assoc.find, h]
    · simpa [Assoc.find, h] using ih

/-- What is found is listed. -/
theorem Assoc.mem_of_find {α : Type} {m : Assoc α} {k : Nat} {x : α} (h : m.find k = some x) : (k, x) ∈ m := by
  induction m with
  | nil => simp [Assoc.find] at h
  | cons e r ih =>
    obtain ⟨i, y⟩ := e
    by_cases hi : i = k
    · simp [Assoc.find, hi] at h; simp [hi, h]
    · simp [Assoc.find, hi] at h; exact List.mem_cons_of_mem _ (ih h)

/-! Byte memories: the canonical form. -/

/-- Every listed address of a canonical memory that begins with an entry lies at that entry or behind it. -/
def Bytes.above (m : Bytes) (a : Nat) : Prop := ∀ e ∈ m, a < e.1

theorem Bytes.wf_cons {i : Nat} {b : Byte} {r : Bytes} : Bytes.wf ((i, b) :: r) = true ↔ b ≠ 0 ∧ r.above i ∧ r.wf = true := by
  induction r generalizing i b with
  | nil => simp [Bytes.wf, Bytes.above]
  | cons e r ih =>
    obtain ⟨j, c⟩ := e
    simp only [Bytes.wf, Bool.and_eq_true, bne_iff_ne, ne_eq, decide_eq_true_eq]
    constructor
    · rintro ⟨⟨hb, hij⟩, hr⟩
      refine ⟨hb, ?_, hr⟩
      intro e he
      rcases List.mem_cons.1 he with rfl | he
      · exact hij
      · exact Nat.lt_trans hij ((ih.1 hr).2.1 e he)
    · rintro ⟨hb, ha, hr⟩
      exact ⟨⟨hb, ha (j, c) (by simp)⟩, hr⟩

theorem Bytes.wf_nil : Bytes.wf [] = true := rfl

theorem Bytes.read_above {m : Bytes} {a : Nat} (h : m.above a) : m.read a = 0 := by
  induction m with
  | nil => rfl
  | cons e r ih =>
    obtain ⟨i, b⟩ := e
    have hi : a < i := h (i, b) (by simp)
    simp only [Bytes.read, if_neg (Nat.ne_of_gt hi)]
    exact ih (fun e he => h e (List.mem_cons_of_mem _ he))

theorem Bytes.above_write {m : Bytes} {a k : Nat} {x : Byte} (h : m.above k) (hk : k < a) : (m.write a x).above k := by
  induction m with
  | nil =>
    simp only [Bytes.write]
    split
    · exact h
    · intro e he; simp at he; subst he; exact hk
  | cons e r ih =>
    obtain ⟨i, b⟩ := e
    have hr : Bytes.above r k := fun e he => h e (List.mem_cons_of_mem _ he)
    have hi : k < i := h (i, b) (by simp)
    simp only [Bytes.write]
    split
    · intro e he
      rcases List.mem_cons.1 he with rfl | he
      · exact hi
      · exact ih hr e he
    · split
      · split
        · exact hr
        · intro e he
          rcases List.mem_cons.1 he with rfl | he
          · exact hk
          · exact hr e he
      · split
        · exact h
        · intro e he
          rcases List.mem_cons.1 he with rfl | he
          · exact hk
          · exact h e he

/-- Writing a byte keeps the canonical form. -/
theorem Bytes.wf_write {m : Bytes} (h : m.wf = true) (a : Nat) (x : Byte) : (m.write a x).wf = true := by
  induction m with
  | nil =>
    simp only [Bytes.write]
    split
    · rfl
    · next hx => simpa [Bytes.wf] using hx
  | cons e r ih =>
    obtain ⟨i, b⟩ := e
    obtain ⟨hb, ha, hr⟩ := Bytes.wf_cons.1 h
    simp only [Bytes.write]
    split
    · next hi => exact Bytes.wf_cons.2 ⟨hb, Bytes.above_write ha hi, ih hr⟩
    · next hi =>
      split
      · next he =>
        subst he
        split
        · exact hr
        · next hx => exact Bytes.wf_cons.2 ⟨hx, ha, hr⟩
      · next he =>
        have hlt : a < i := by omega
        split
        · exact h
        · next hx =>
          refine Bytes.wf_cons.2 ⟨hx, ?_, h⟩
          intro e h'
          rcases List.mem_cons.1 h' with rfl | h'
          · exact hlt
          · exact Nat.lt_trans hlt (ha e h')

/-- Writing bytes keeps the canonical form. -/
theorem Bytes.wf_writeN {m : Bytes} (h : m.wf = true) (a : Nat) (bs : List Byte) : (m.writeN a bs).wf = true := by
  induction bs generalizing m a with
  | nil => exact h
  | cons b bs ih => exact ih (Bytes.wf_write h a b) (a + 1)

/-- Keeping some of the entries keeps the canonical form. -/
theorem Bytes.wf_filter {m : Bytes} (h : m.wf = true) (p : Nat × Byte → Bool) : Bytes.wf (m.filter p) = true := by
  induction m with
  | nil => rfl
  | cons e r ih =>
    obtain ⟨i, b⟩ := e
    obtain ⟨hb, ha, hr⟩ := Bytes.wf_cons.1 h
    by_cases hp : p (i, b) = true
    · rw [List.filter_cons_of_pos hp]
      exact Bytes.wf_cons.2 ⟨hb, fun e he => ha e (List.mem_filter.1 he).1, ih hr⟩
    · rw [List.filter_cons_of_neg hp]
      exact ih hr

/-- Clearing a range keeps the canonical form. -/
theorem Bytes.wf_clear {m : Bytes} (h : m.wf = true) (lo hi : Nat) : (m.clear lo hi).wf = true := Bytes.wf_filter h _

/-! Byte memories: reads after writes. -/

theorem Bytes.read_write {m : Bytes} (h : m.wf = true) (a : Nat) (x : Byte) : (m.write a x).read a = x := by
  induction m with
  | nil =>
    simp only [Bytes.write]
    split
    · next hx => simp [Bytes.read, hx]
    · simp [Bytes.read]
  | cons e r ih =>
    obtain ⟨i, b⟩ := e
    obtain ⟨hb, ha, hr⟩ := Bytes.wf_cons.1 h
    simp only [Bytes.write]
    split
    · next hi => simp only [Bytes.read, if_neg (Nat.ne_of_lt hi)]; exact ih hr
    · next hi =>
      split
      · next he =>
        subst he
        split
        · next hx => rw [hx]; exact Bytes.read_above ha
        · simp [Bytes.read]
      · next he =>
        have hlt : a < i := by omega
        split
        · next hx =>
          simp only [Bytes.read, if_neg (Nat.ne_of_gt hlt), hx]
          exact Bytes.read_above (fun e he => Nat.lt_trans hlt (ha e he))
        · simp [Bytes.read]

theorem Bytes.read_write_ne (m : Bytes) {a k : Nat} (x : Byte) (h : k ≠ a) : (m.write a x).read k = m.read k := by
  induction m with
  | nil =>
    simp only [Bytes.write]
    split
    · rfl
    · simp [Bytes.read, Ne.symm h]
  | cons e r ih =>
    obtain ⟨i, b⟩ := e
    simp only [Bytes.write]
    split
    · simp only [Bytes.read, ih]
    · split
      · next he =>
        subst he
        split <;> simp [Bytes.read, Ne.symm h]
      · split <;> simp [Bytes.read, Ne.symm h]

theorem Bytes.read_writeN_out (m : Bytes) (a : Nat) (bs : List Byte) {k : Nat} (h : k < a ∨ a + bs.length ≤ k) :
    (m.writeN a bs).read k = m.read k := by
  induction bs generalizing m a with
  | nil => rfl
  | cons b bs ih =>
    simp only [Bytes.writeN]
    rw [ih _ _ (by simp at h; omega), Bytes.read_write_ne _ _ (by simp at h; omega)]

theorem Bytes.readN_length (m : Bytes) (a n : Nat) : (m.readN a n).length = n := by
  induction n generalizing a with
  | zero => rfl
  | succ n ih => simp [Bytes.readN, ih]

/-- Bytes written are read back. -/
theorem Bytes.readN_writeN {m : Bytes} (h : m.wf = true) (a : Nat) (bs : List Byte) : (m.writeN a bs).readN a bs.length = bs := by
  induction bs generalizing m a with
  | nil => rfl
  | cons b bs ih =>
    simp only [Bytes.writeN, List.length_cons, Bytes.readN]
    rw [ih (Bytes.wf_write h a b), Bytes.read_writeN_out _ _ _ (by omega), Bytes.read_write h]

/-- Reads that a write does not touch. -/
theorem Bytes.readN_congr {m1 m2 : Bytes} (a n : Nat) (h : ∀ k, a ≤ k → k < a + n → m1.read k = m2.read k) :
    m1.readN a n = m2.readN a n := by
  induction n generalizing a with
  | zero => rfl
  | succ n ih =>
    simp only [Bytes.readN]
    rw [h a (Nat.le_refl _) (by omega), ih (a + 1) (fun k h1 h2 => h k (by omega) (by omega))]

theorem Bytes.readN_writeN_out (m : Bytes) (a : Nat) (bs : List Byte) {k n : Nat} (h : k + n ≤ a ∨ a + bs.length ≤ k) :
    (m.writeN a bs).readN k n = m.readN k n :=
  Bytes.readN_congr k n (fun i h1 h2 => Bytes.read_writeN_out m a bs (by omega))

theorem Bytes.read_filter (m : Bytes) (p : Nat → Bool) (a : Nat) :
    Bytes.read (m.filter (fun e => p e.1)) a = if p a then m.read a else 0 := by
  induction m with
  | nil => simp [Bytes.read]
  | cons e r ih =>
    obtain ⟨i, b⟩ := e
    by_cases hi : i = a
    · subst hi
      by_cases hp : p i = true
      · simp [hp, Bytes.read]
      · simp [hp, ih]
    · by_cases hp : p i = true
      · simp [hp, Bytes.read, hi, ih]
      · simp [hp, Bytes.read, hi, ih]

theorem Bytes.read_clear (m : Bytes) (lo hi a : Nat) :
    (m.clear lo hi).read a = if a < lo ∨ hi ≤ a then m.read a else 0 := by
  have := Bytes.read_filter m (fun i => decide (i < lo) || decide (hi ≤ i)) a
  simp only [Bytes.clear, this, Bool.or_eq_true, decide_eq_true_eq]

/-- The memory of the package after bring-up is canonical. -/
theorem reset_memWf : State.reset.memWf := rfl

end Sys2Proof.Machine
end

