-- ==== Sys2Proof/Laws/State.lean ====
section
/-! SUPPORT. What each update of the state leaves alone, one lemma for each field, and what it makes of its own field. -/

namespace Sys2Proof.Machine

open Sys2Proof

/-! `modGroup`. -/

@[simp] theorem modGroup_units (s : State) (k : Nat) (f : Group → Group) : (s.modGroup k f).units = s.units := rfl
@[simp] theorem modGroup_agenda (s : State) (k : Nat) (f : Group → Group) : (s.modGroup k f).agenda = s.agenda := rfl
@[simp] theorem modGroup_cur (s : State) (k : Nat) (f : Group → Group) : (s.modGroup k f).cur = s.cur := rfl
@[simp] theorem modGroup_nextId (s : State) (k : Nat) (f : Group → Group) : (s.modGroup k f).nextId = s.nextId := rfl
@[simp] theorem modGroup_bundleSeq (s : State) (k : Nat) (f : Group → Group) : (s.modGroup k f).bundleSeq = s.bundleSeq := rfl
@[simp] theorem modGroup_free (s : State) (k : Nat) (f : Group → Group) : (s.modGroup k f).free = s.free := rfl
@[simp] theorem modGroup_mem (s : State) (k : Nat) (f : Group → Group) : (s.modGroup k f).mem = s.mem := rfl
@[simp] theorem modGroup_poison (s : State) (k : Nat) (f : Group → Group) : (s.modGroup k f).poison = s.poison := rfl
@[simp] theorem modGroup_ddr (s : State) (k : Nat) (f : Group → Group) : (s.modGroup k f).ddr = s.ddr := rfl
@[simp] theorem modGroup_teams (s : State) (k : Nat) (f : Group → Group) : (s.modGroup k f).teams = s.teams := rfl
@[simp] theorem modGroup_gangs (s : State) (k : Nat) (f : Group → Group) : (s.modGroup k f).gangs = s.gangs := rfl
@[simp] theorem modGroup_launches (s : State) (k : Nat) (f : Group → Group) : (s.modGroup k f).launches = s.launches := rfl
@[simp] theorem modGroup_subs (s : State) (k : Nat) (f : Group → Group) : (s.modGroup k f).subs = s.subs := rfl
@[simp] theorem modGroup_contexts (s : State) (k : Nat) (f : Group → Group) : (s.modGroup k f).contexts = s.contexts := rfl
@[simp] theorem modGroup_runs (s : State) (k : Nat) (f : Group → Group) : (s.modGroup k f).runs = s.runs := rfl
@[simp] theorem modGroup_ops (s : State) (k : Nat) (f : Group → Group) : (s.modGroup k f).ops = s.ops := rfl
@[simp] theorem modGroup_entries (s : State) (k : Nat) (f : Group → Group) : (s.modGroup k f).entries = s.entries := rfl
@[simp] theorem modGroup_passes (s : State) (k : Nat) (f : Group → Group) : (s.modGroup k f).passes = s.passes := rfl
@[simp] theorem modGroup_acc (s : State) (k : Nat) (f : Group → Group) : (s.modGroup k f).acc = s.acc := rfl
@[simp] theorem modGroup_quads (s : State) (k : Nat) (f : Group → Group) : (s.modGroup k f).quads = s.quads := rfl
@[simp] theorem modGroup_cores (s : State) (k : Nat) (f : Group → Group) : (s.modGroup k f).cores = s.cores := rfl
@[simp] theorem modGroup_dies (s : State) (k : Nat) (f : Group → Group) : (s.modGroup k f).dies = s.dies := rfl
@[simp] theorem modGroup_queues (s : State) (k : Nat) (f : Group → Group) : (s.modGroup k f).queues = s.queues := rfl
@[simp] theorem modGroup_tlb (s : State) (k : Nat) (f : Group → Group) : (s.modGroup k f).tlb = s.tlb := rfl
@[simp] theorem modGroup_walkCache (s : State) (k : Nat) (f : Group → Group) : (s.modGroup k f).walkCache = s.walkCache := rfl
@[simp] theorem modGroup_walks (s : State) (k : Nat) (f : Group → Group) : (s.modGroup k f).walks = s.walks := rfl
@[simp] theorem modGroup_misses (s : State) (k : Nat) (f : Group → Group) : (s.modGroup k f).misses = s.misses := rfl
@[simp] theorem modGroup_ats (s : State) (k : Nat) (f : Group → Group) : (s.modGroup k f).ats = s.ats := rfl
@[simp] theorem modGroup_atsInvals (s : State) (k : Nat) (f : Group → Group) : (s.modGroup k f).atsInvals = s.atsInvals := rfl
@[simp] theorem modGroup_atsDone (s : State) (k : Nat) (f : Group → Group) : (s.modGroup k f).atsDone = s.atsDone := rfl
@[simp] theorem modGroup_granules (s : State) (k : Nat) (f : Group → Group) : (s.modGroup k f).granules = s.granules := rfl
@[simp] theorem modGroup_lines (s : State) (k : Nat) (f : Group → Group) : (s.modGroup k f).lines = s.lines := rfl
@[simp] theorem modGroup_home (s : State) (k : Nat) (f : Group → Group) : (s.modGroup k f).home = s.home := rfl
@[simp] theorem modGroup_fifo (s : State) (k : Nat) (f : Group → Group) : (s.modGroup k f).fifo = s.fifo := rfl
@[simp] theorem modGroup_dirErrors (s : State) (k : Nat) (f : Group → Group) : (s.modGroup k f).dirErrors = s.dirErrors := rfl
@[simp] theorem modGroup_toHost (s : State) (k : Nat) (f : Group → Group) : (s.modGroup k f).toHost = s.toHost := rfl
@[simp] theorem modGroup_lost (s : State) (k : Nat) (f : Group → Group) : (s.modGroup k f).lost = s.lost := rfl
@[simp] theorem modGroup_fns (s : State) (k : Nat) (f : Group → Group) : (s.modGroup k f).fns = s.fns := rfl
@[simp] theorem modGroup_parts (s : State) (k : Nat) (f : Group → Group) : (s.modGroup k f).parts = s.parts := rfl
@[simp] theorem modGroup_pf (s : State) (k : Nat) (f : Group → Group) : (s.modGroup k f).pf = s.pf := rfl
@[simp] theorem modGroup_fabric (s : State) (k : Nat) (f : Group → Group) : (s.modGroup k f).fabric = s.fabric := rfl
@[simp] theorem modGroup_bad (s : State) (k : Nat) (f : Group → Group) : (s.modGroup k f).bad = s.bad := rfl
@[simp] theorem modGroup_frozenPup (s : State) (k : Nat) (f : Group → Group) : (s.modGroup k f).frozenPup = s.frozenPup := rfl
@[simp] theorem modGroup_frozenMgmt (s : State) (k : Nat) (f : Group → Group) : (s.modGroup k f).frozenMgmt = s.frozenMgmt := rfl
@[simp] theorem modGroup_viral (s : State) (k : Nat) (f : Group → Group) : (s.modGroup k f).viral = s.viral := rfl
@[simp] theorem modGroup_retiredWays (s : State) (k : Nat) (f : Group → Group) : (s.modGroup k f).retiredWays = s.retiredWays := rfl
@[simp] theorem modGroup_msix (s : State) (k : Nat) (f : Group → Group) : (s.modGroup k f).msix = s.msix := rfl
@[simp] theorem modGroup_held (s : State) (k : Nat) (f : Group → Group) : (s.modGroup k f).held = s.held := rfl

/-! `modTeam`. -/

@[simp] theorem modTeam_units (s : State) (k : Nat) (f : Team → Team) : (s.modTeam k f).units = s.units := rfl
@[simp] theorem modTeam_agenda (s : State) (k : Nat) (f : Team → Team) : (s.modTeam k f).agenda = s.agenda := rfl
@[simp] theorem modTeam_cur (s : State) (k : Nat) (f : Team → Team) : (s.modTeam k f).cur = s.cur := rfl
@[simp] theorem modTeam_nextId (s : State) (k : Nat) (f : Team → Team) : (s.modTeam k f).nextId = s.nextId := rfl
@[simp] theorem modTeam_bundleSeq (s : State) (k : Nat) (f : Team → Team) : (s.modTeam k f).bundleSeq = s.bundleSeq := rfl
@[simp] theorem modTeam_free (s : State) (k : Nat) (f : Team → Team) : (s.modTeam k f).free = s.free := rfl
@[simp] theorem modTeam_mem (s : State) (k : Nat) (f : Team → Team) : (s.modTeam k f).mem = s.mem := rfl
@[simp] theorem modTeam_poison (s : State) (k : Nat) (f : Team → Team) : (s.modTeam k f).poison = s.poison := rfl
@[simp] theorem modTeam_ddr (s : State) (k : Nat) (f : Team → Team) : (s.modTeam k f).ddr = s.ddr := rfl
@[simp] theorem modTeam_groups (s : State) (k : Nat) (f : Team → Team) : (s.modTeam k f).groups = s.groups := rfl
@[simp] theorem modTeam_gangs (s : State) (k : Nat) (f : Team → Team) : (s.modTeam k f).gangs = s.gangs := rfl
@[simp] theorem modTeam_launches (s : State) (k : Nat) (f : Team → Team) : (s.modTeam k f).launches = s.launches := rfl
@[simp] theorem modTeam_subs (s : State) (k : Nat) (f : Team → Team) : (s.modTeam k f).subs = s.subs := rfl
@[simp] theorem modTeam_contexts (s : State) (k : Nat) (f : Team → Team) : (s.modTeam k f).contexts = s.contexts := rfl
@[simp] theorem modTeam_runs (s : State) (k : Nat) (f : Team → Team) : (s.modTeam k f).runs = s.runs := rfl
@[simp] theorem modTeam_ops (s : State) (k : Nat) (f : Team → Team) : (s.modTeam k f).ops = s.ops := rfl
@[simp] theorem modTeam_entries (s : State) (k : Nat) (f : Team → Team) : (s.modTeam k f).entries = s.entries := rfl
@[simp] theorem modTeam_passes (s : State) (k : Nat) (f : Team → Team) : (s.modTeam k f).passes = s.passes := rfl
@[simp] theorem modTeam_acc (s : State) (k : Nat) (f : Team → Team) : (s.modTeam k f).acc = s.acc := rfl
@[simp] theorem modTeam_quads (s : State) (k : Nat) (f : Team → Team) : (s.modTeam k f).quads = s.quads := rfl
@[simp] theorem modTeam_cores (s : State) (k : Nat) (f : Team → Team) : (s.modTeam k f).cores = s.cores := rfl
@[simp] theorem modTeam_dies (s : State) (k : Nat) (f : Team → Team) : (s.modTeam k f).dies = s.dies := rfl
@[simp] theorem modTeam_queues (s : State) (k : Nat) (f : Team → Team) : (s.modTeam k f).queues = s.queues := rfl
@[simp] theorem modTeam_tlb (s : State) (k : Nat) (f : Team → Team) : (s.modTeam k f).tlb = s.tlb := rfl
@[simp] theorem modTeam_walkCache (s : State) (k : Nat) (f : Team → Team) : (s.modTeam k f).walkCache = s.walkCache := rfl
@[simp] theorem modTeam_walks (s : State) (k : Nat) (f : Team → Team) : (s.modTeam k f).walks = s.walks := rfl
@[simp] theorem modTeam_misses (s : State) (k : Nat) (f : Team → Team) : (s.modTeam k f).misses = s.misses := rfl
@[simp] theorem modTeam_ats (s : State) (k : Nat) (f : Team → Team) : (s.modTeam k f).ats = s.ats := rfl
@[simp] theorem modTeam_atsInvals (s : State) (k : Nat) (f : Team → Team) : (s.modTeam k f).atsInvals = s.atsInvals := rfl
@[simp] theorem modTeam_atsDone (s : State) (k : Nat) (f : Team → Team) : (s.modTeam k f).atsDone = s.atsDone := rfl
@[simp] theorem modTeam_granules (s : State) (k : Nat) (f : Team → Team) : (s.modTeam k f).granules = s.granules := rfl
@[simp] theorem modTeam_lines (s : State) (k : Nat) (f : Team → Team) : (s.modTeam k f).lines = s.lines := rfl
@[simp] theorem modTeam_home (s : State) (k : Nat) (f : Team → Team) : (s.modTeam k f).home = s.home := rfl
@[simp] theorem modTeam_fifo (s : State) (k : Nat) (f : Team → Team) : (s.modTeam k f).fifo = s.fifo := rfl
@[simp] theorem modTeam_dirErrors (s : State) (k : Nat) (f : Team → Team) : (s.modTeam k f).dirErrors = s.dirErrors := rfl
@[simp] theorem modTeam_toHost (s : State) (k : Nat) (f : Team → Team) : (s.modTeam k f).toHost = s.toHost := rfl
@[simp] theorem modTeam_lost (s : State) (k : Nat) (f : Team → Team) : (s.modTeam k f).lost = s.lost := rfl
@[simp] theorem modTeam_fns (s : State) (k : Nat) (f : Team → Team) : (s.modTeam k f).fns = s.fns := rfl
@[simp] theorem modTeam_parts (s : State) (k : Nat) (f : Team → Team) : (s.modTeam k f).parts = s.parts := rfl
@[simp] theorem modTeam_pf (s : State) (k : Nat) (f : Team → Team) : (s.modTeam k f).pf = s.pf := rfl
@[simp] theorem modTeam_fabric (s : State) (k : Nat) (f : Team → Team) : (s.modTeam k f).fabric = s.fabric := rfl
@[simp] theorem modTeam_bad (s : State) (k : Nat) (f : Team → Team) : (s.modTeam k f).bad = s.bad := rfl
@[simp] theorem modTeam_frozenPup (s : State) (k : Nat) (f : Team → Team) : (s.modTeam k f).frozenPup = s.frozenPup := rfl
@[simp] theorem modTeam_frozenMgmt (s : State) (k : Nat) (f : Team → Team) : (s.modTeam k f).frozenMgmt = s.frozenMgmt := rfl
@[simp] theorem modTeam_viral (s : State) (k : Nat) (f : Team → Team) : (s.modTeam k f).viral = s.viral := rfl
@[simp] theorem modTeam_retiredWays (s : State) (k : Nat) (f : Team → Team) : (s.modTeam k f).retiredWays = s.retiredWays := rfl
@[simp] theorem modTeam_msix (s : State) (k : Nat) (f : Team → Team) : (s.modTeam k f).msix = s.msix := rfl
@[simp] theorem modTeam_held (s : State) (k : Nat) (f : Team → Team) : (s.modTeam k f).held = s.held := rfl

/-! `modGang`. -/

@[simp] theorem modGang_units (s : State) (k : Nat) (f : Gang → Gang) : (s.modGang k f).units = s.units := rfl
@[simp] theorem modGang_agenda (s : State) (k : Nat) (f : Gang → Gang) : (s.modGang k f).agenda = s.agenda := rfl
@[simp] theorem modGang_cur (s : State) (k : Nat) (f : Gang → Gang) : (s.modGang k f).cur = s.cur := rfl
@[simp] theorem modGang_nextId (s : State) (k : Nat) (f : Gang → Gang) : (s.modGang k f).nextId = s.nextId := rfl
@[simp] theorem modGang_bundleSeq (s : State) (k : Nat) (f : Gang → Gang) : (s.modGang k f).bundleSeq = s.bundleSeq := rfl
@[simp] theorem modGang_free (s : State) (k : Nat) (f : Gang → Gang) : (s.modGang k f).free = s.free := rfl
@[simp] theorem modGang_mem (s : State) (k : Nat) (f : Gang → Gang) : (s.modGang k f).mem = s.mem := rfl
@[simp] theorem modGang_poison (s : State) (k : Nat) (f : Gang → Gang) : (s.modGang k f).poison = s.poison := rfl
@[simp] theorem modGang_ddr (s : State) (k : Nat) (f : Gang → Gang) : (s.modGang k f).ddr = s.ddr := rfl
@[simp] theorem modGang_groups (s : State) (k : Nat) (f : Gang → Gang) : (s.modGang k f).groups = s.groups := rfl
@[simp] theorem modGang_teams (s : State) (k : Nat) (f : Gang → Gang) : (s.modGang k f).teams = s.teams := rfl
@[simp] theorem modGang_launches (s : State) (k : Nat) (f : Gang → Gang) : (s.modGang k f).launches = s.launches := rfl
@[simp] theorem modGang_subs (s : State) (k : Nat) (f : Gang → Gang) : (s.modGang k f).subs = s.subs := rfl
@[simp] theorem modGang_contexts (s : State) (k : Nat) (f : Gang → Gang) : (s.modGang k f).contexts = s.contexts := rfl
@[simp] theorem modGang_runs (s : State) (k : Nat) (f : Gang → Gang) : (s.modGang k f).runs = s.runs := rfl
@[simp] theorem modGang_ops (s : State) (k : Nat) (f : Gang → Gang) : (s.modGang k f).ops = s.ops := rfl
@[simp] theorem modGang_entries (s : State) (k : Nat) (f : Gang → Gang) : (s.modGang k f).entries = s.entries := rfl
@[simp] theorem modGang_passes (s : State) (k : Nat) (f : Gang → Gang) : (s.modGang k f).passes = s.passes := rfl
@[simp] theorem modGang_acc (s : State) (k : Nat) (f : Gang → Gang) : (s.modGang k f).acc = s.acc := rfl
@[simp] theorem modGang_quads (s : State) (k : Nat) (f : Gang → Gang) : (s.modGang k f).quads = s.quads := rfl
@[simp] theorem modGang_cores (s : State) (k : Nat) (f : Gang → Gang) : (s.modGang k f).cores = s.cores := rfl
@[simp] theorem modGang_dies (s : State) (k : Nat) (f : Gang → Gang) : (s.modGang k f).dies = s.dies := rfl
@[simp] theorem modGang_queues (s : State) (k : Nat) (f : Gang → Gang) : (s.modGang k f).queues = s.queues := rfl
@[simp] theorem modGang_tlb (s : State) (k : Nat) (f : Gang → Gang) : (s.modGang k f).tlb = s.tlb := rfl
@[simp] theorem modGang_walkCache (s : State) (k : Nat) (f : Gang → Gang) : (s.modGang k f).walkCache = s.walkCache := rfl
@[simp] theorem modGang_walks (s : State) (k : Nat) (f : Gang → Gang) : (s.modGang k f).walks = s.walks := rfl
@[simp] theorem modGang_misses (s : State) (k : Nat) (f : Gang → Gang) : (s.modGang k f).misses = s.misses := rfl
@[simp] theorem modGang_ats (s : State) (k : Nat) (f : Gang → Gang) : (s.modGang k f).ats = s.ats := rfl
@[simp] theorem modGang_atsInvals (s : State) (k : Nat) (f : Gang → Gang) : (s.modGang k f).atsInvals = s.atsInvals := rfl
@[simp] theorem modGang_atsDone (s : State) (k : Nat) (f : Gang → Gang) : (s.modGang k f).atsDone = s.atsDone := rfl
@[simp] theorem modGang_granules (s : State) (k : Nat) (f : Gang → Gang) : (s.modGang k f).granules = s.granules := rfl
@[simp] theorem modGang_lines (s : State) (k : Nat) (f : Gang → Gang) : (s.modGang k f).lines = s.lines := rfl
@[simp] theorem modGang_home (s : State) (k : Nat) (f : Gang → Gang) : (s.modGang k f).home = s.home := rfl
@[simp] theorem modGang_fifo (s : State) (k : Nat) (f : Gang → Gang) : (s.modGang k f).fifo = s.fifo := rfl
@[simp] theorem modGang_dirErrors (s : State) (k : Nat) (f : Gang → Gang) : (s.modGang k f).dirErrors = s.dirErrors := rfl
@[simp] theorem modGang_toHost (s : State) (k : Nat) (f : Gang → Gang) : (s.modGang k f).toHost = s.toHost := rfl
@[simp] theorem modGang_lost (s : State) (k : Nat) (f : Gang → Gang) : (s.modGang k f).lost = s.lost := rfl
@[simp] theorem modGang_fns (s : State) (k : Nat) (f : Gang → Gang) : (s.modGang k f).fns = s.fns := rfl
@[simp] theorem modGang_parts (s : State) (k : Nat) (f : Gang → Gang) : (s.modGang k f).parts = s.parts := rfl
@[simp] theorem modGang_pf (s : State) (k : Nat) (f : Gang → Gang) : (s.modGang k f).pf = s.pf := rfl
@[simp] theorem modGang_fabric (s : State) (k : Nat) (f : Gang → Gang) : (s.modGang k f).fabric = s.fabric := rfl
@[simp] theorem modGang_bad (s : State) (k : Nat) (f : Gang → Gang) : (s.modGang k f).bad = s.bad := rfl
@[simp] theorem modGang_frozenPup (s : State) (k : Nat) (f : Gang → Gang) : (s.modGang k f).frozenPup = s.frozenPup := rfl
@[simp] theorem modGang_frozenMgmt (s : State) (k : Nat) (f : Gang → Gang) : (s.modGang k f).frozenMgmt = s.frozenMgmt := rfl
@[simp] theorem modGang_viral (s : State) (k : Nat) (f : Gang → Gang) : (s.modGang k f).viral = s.viral := rfl
@[simp] theorem modGang_retiredWays (s : State) (k : Nat) (f : Gang → Gang) : (s.modGang k f).retiredWays = s.retiredWays := rfl
@[simp] theorem modGang_msix (s : State) (k : Nat) (f : Gang → Gang) : (s.modGang k f).msix = s.msix := rfl
@[simp] theorem modGang_held (s : State) (k : Nat) (f : Gang → Gang) : (s.modGang k f).held = s.held := rfl

/-! `modLaunch`. -/

@[simp] theorem modLaunch_units (s : State) (k : Nat) (f : Launch → Launch) : (s.modLaunch k f).units = s.units := rfl
@[simp] theorem modLaunch_agenda (s : State) (k : Nat) (f : Launch → Launch) : (s.modLaunch k f).agenda = s.agenda := rfl
@[simp] theorem modLaunch_cur (s : State) (k : Nat) (f : Launch → Launch) : (s.modLaunch k f).cur = s.cur := rfl
@[simp] theorem modLaunch_nextId (s : State) (k : Nat) (f : Launch → Launch) : (s.modLaunch k f).nextId = s.nextId := rfl
@[simp] theorem modLaunch_bundleSeq (s : State) (k : Nat) (f : Launch → Launch) : (s.modLaunch k f).bundleSeq = s.bundleSeq := rfl
@[simp] theorem modLaunch_free (s : State) (k : Nat) (f : Launch → Launch) : (s.modLaunch k f).free = s.free := rfl
@[simp] theorem modLaunch_mem (s : State) (k : Nat) (f : Launch → Launch) : (s.modLaunch k f).mem = s.mem := rfl
@[simp] theorem modLaunch_poison (s : State) (k : Nat) (f : Launch → Launch) : (s.modLaunch k f).poison = s.poison := rfl
@[simp] theorem modLaunch_ddr (s : State) (k : Nat) (f : Launch → Launch) : (s.modLaunch k f).ddr = s.ddr := rfl
@[simp] theorem modLaunch_groups (s : State) (k : Nat) (f : Launch → Launch) : (s.modLaunch k f).groups = s.groups := rfl
@[simp] theorem modLaunch_teams (s : State) (k : Nat) (f : Launch → Launch) : (s.modLaunch k f).teams = s.teams := rfl
@[simp] theorem modLaunch_gangs (s : State) (k : Nat) (f : Launch → Launch) : (s.modLaunch k f).gangs = s.gangs := rfl
@[simp] theorem modLaunch_subs (s : State) (k : Nat) (f : Launch → Launch) : (s.modLaunch k f).subs = s.subs := rfl
@[simp] theorem modLaunch_contexts (s : State) (k : Nat) (f : Launch → Launch) : (s.modLaunch k f).contexts = s.contexts := rfl
@[simp] theorem modLaunch_runs (s : State) (k : Nat) (f : Launch → Launch) : (s.modLaunch k f).runs = s.runs := rfl
@[simp] theorem modLaunch_ops (s : State) (k : Nat) (f : Launch → Launch) : (s.modLaunch k f).ops = s.ops := rfl
@[simp] theorem modLaunch_entries (s : State) (k : Nat) (f : Launch → Launch) : (s.modLaunch k f).entries = s.entries := rfl
@[simp] theorem modLaunch_passes (s : State) (k : Nat) (f : Launch → Launch) : (s.modLaunch k f).passes = s.passes := rfl
@[simp] theorem modLaunch_acc (s : State) (k : Nat) (f : Launch → Launch) : (s.modLaunch k f).acc = s.acc := rfl
@[simp] theorem modLaunch_quads (s : State) (k : Nat) (f : Launch → Launch) : (s.modLaunch k f).quads = s.quads := rfl
@[simp] theorem modLaunch_cores (s : State) (k : Nat) (f : Launch → Launch) : (s.modLaunch k f).cores = s.cores := rfl
@[simp] theorem modLaunch_dies (s : State) (k : Nat) (f : Launch → Launch) : (s.modLaunch k f).dies = s.dies := rfl
@[simp] theorem modLaunch_queues (s : State) (k : Nat) (f : Launch → Launch) : (s.modLaunch k f).queues = s.queues := rfl
@[simp] theorem modLaunch_tlb (s : State) (k : Nat) (f : Launch → Launch) : (s.modLaunch k f).tlb = s.tlb := rfl
@[simp] theorem modLaunch_walkCache (s : State) (k : Nat) (f : Launch → Launch) : (s.modLaunch k f).walkCache = s.walkCache := rfl
@[simp] theorem modLaunch_walks (s : State) (k : Nat) (f : Launch → Launch) : (s.modLaunch k f).walks = s.walks := rfl
@[simp] theorem modLaunch_misses (s : State) (k : Nat) (f : Launch → Launch) : (s.modLaunch k f).misses = s.misses := rfl
@[simp] theorem modLaunch_ats (s : State) (k : Nat) (f : Launch → Launch) : (s.modLaunch k f).ats = s.ats := rfl
@[simp] theorem modLaunch_atsInvals (s : State) (k : Nat) (f : Launch → Launch) : (s.modLaunch k f).atsInvals = s.atsInvals := rfl
@[simp] theorem modLaunch_atsDone (s : State) (k : Nat) (f : Launch → Launch) : (s.modLaunch k f).atsDone = s.atsDone := rfl
@[simp] theorem modLaunch_granules (s : State) (k : Nat) (f : Launch → Launch) : (s.modLaunch k f).granules = s.granules := rfl
@[simp] theorem modLaunch_lines (s : State) (k : Nat) (f : Launch → Launch) : (s.modLaunch k f).lines = s.lines := rfl
@[simp] theorem modLaunch_home (s : State) (k : Nat) (f : Launch → Launch) : (s.modLaunch k f).home = s.home := rfl
@[simp] theorem modLaunch_fifo (s : State) (k : Nat) (f : Launch → Launch) : (s.modLaunch k f).fifo = s.fifo := rfl
@[simp] theorem modLaunch_dirErrors (s : State) (k : Nat) (f : Launch → Launch) : (s.modLaunch k f).dirErrors = s.dirErrors := rfl
@[simp] theorem modLaunch_toHost (s : State) (k : Nat) (f : Launch → Launch) : (s.modLaunch k f).toHost = s.toHost := rfl
@[simp] theorem modLaunch_lost (s : State) (k : Nat) (f : Launch → Launch) : (s.modLaunch k f).lost = s.lost := rfl
@[simp] theorem modLaunch_fns (s : State) (k : Nat) (f : Launch → Launch) : (s.modLaunch k f).fns = s.fns := rfl
@[simp] theorem modLaunch_parts (s : State) (k : Nat) (f : Launch → Launch) : (s.modLaunch k f).parts = s.parts := rfl
@[simp] theorem modLaunch_pf (s : State) (k : Nat) (f : Launch → Launch) : (s.modLaunch k f).pf = s.pf := rfl
@[simp] theorem modLaunch_fabric (s : State) (k : Nat) (f : Launch → Launch) : (s.modLaunch k f).fabric = s.fabric := rfl
@[simp] theorem modLaunch_bad (s : State) (k : Nat) (f : Launch → Launch) : (s.modLaunch k f).bad = s.bad := rfl
@[simp] theorem modLaunch_frozenPup (s : State) (k : Nat) (f : Launch → Launch) : (s.modLaunch k f).frozenPup = s.frozenPup := rfl
@[simp] theorem modLaunch_frozenMgmt (s : State) (k : Nat) (f : Launch → Launch) : (s.modLaunch k f).frozenMgmt = s.frozenMgmt := rfl
@[simp] theorem modLaunch_viral (s : State) (k : Nat) (f : Launch → Launch) : (s.modLaunch k f).viral = s.viral := rfl
@[simp] theorem modLaunch_retiredWays (s : State) (k : Nat) (f : Launch → Launch) : (s.modLaunch k f).retiredWays = s.retiredWays := rfl
@[simp] theorem modLaunch_msix (s : State) (k : Nat) (f : Launch → Launch) : (s.modLaunch k f).msix = s.msix := rfl
@[simp] theorem modLaunch_held (s : State) (k : Nat) (f : Launch → Launch) : (s.modLaunch k f).held = s.held := rfl

/-! `modOp`. -/

@[simp] theorem modOp_units (s : State) (k : Nat) (f : VOp → VOp) : (s.modOp k f).units = s.units := rfl
@[simp] theorem modOp_agenda (s : State) (k : Nat) (f : VOp → VOp) : (s.modOp k f).agenda = s.agenda := rfl
@[simp] theorem modOp_cur (s : State) (k : Nat) (f : VOp → VOp) : (s.modOp k f).cur = s.cur := rfl
@[simp] theorem modOp_nextId (s : State) (k : Nat) (f : VOp → VOp) : (s.modOp k f).nextId = s.nextId := rfl
@[simp] theorem modOp_bundleSeq (s : State) (k : Nat) (f : VOp → VOp) : (s.modOp k f).bundleSeq = s.bundleSeq := rfl
@[simp] theorem modOp_free (s : State) (k : Nat) (f : VOp → VOp) : (s.modOp k f).free = s.free := rfl
@[simp] theorem modOp_mem (s : State) (k : Nat) (f : VOp → VOp) : (s.modOp k f).mem = s.mem := rfl
@[simp] theorem modOp_poison (s : State) (k : Nat) (f : VOp → VOp) : (s.modOp k f).poison = s.poison := rfl
@[simp] theorem modOp_ddr (s : State) (k : Nat) (f : VOp → VOp) : (s.modOp k f).ddr = s.ddr := rfl
@[simp] theorem modOp_groups (s : State) (k : Nat) (f : VOp → VOp) : (s.modOp k f).groups = s.groups := rfl
@[simp] theorem modOp_teams (s : State) (k : Nat) (f : VOp → VOp) : (s.modOp k f).teams = s.teams := rfl
@[simp] theorem modOp_gangs (s : State) (k : Nat) (f : VOp → VOp) : (s.modOp k f).gangs = s.gangs := rfl
@[simp] theorem modOp_launches (s : State) (k : Nat) (f : VOp → VOp) : (s.modOp k f).launches = s.launches := rfl
@[simp] theorem modOp_subs (s : State) (k : Nat) (f : VOp → VOp) : (s.modOp k f).subs = s.subs := rfl
@[simp] theorem modOp_contexts (s : State) (k : Nat) (f : VOp → VOp) : (s.modOp k f).contexts = s.contexts := rfl
@[simp] theorem modOp_runs (s : State) (k : Nat) (f : VOp → VOp) : (s.modOp k f).runs = s.runs := rfl
@[simp] theorem modOp_entries (s : State) (k : Nat) (f : VOp → VOp) : (s.modOp k f).entries = s.entries := rfl
@[simp] theorem modOp_passes (s : State) (k : Nat) (f : VOp → VOp) : (s.modOp k f).passes = s.passes := rfl
@[simp] theorem modOp_acc (s : State) (k : Nat) (f : VOp → VOp) : (s.modOp k f).acc = s.acc := rfl
@[simp] theorem modOp_quads (s : State) (k : Nat) (f : VOp → VOp) : (s.modOp k f).quads = s.quads := rfl
@[simp] theorem modOp_cores (s : State) (k : Nat) (f : VOp → VOp) : (s.modOp k f).cores = s.cores := rfl
@[simp] theorem modOp_dies (s : State) (k : Nat) (f : VOp → VOp) : (s.modOp k f).dies = s.dies := rfl
@[simp] theorem modOp_queues (s : State) (k : Nat) (f : VOp → VOp) : (s.modOp k f).queues = s.queues := rfl
@[simp] theorem modOp_tlb (s : State) (k : Nat) (f : VOp → VOp) : (s.modOp k f).tlb = s.tlb := rfl
@[simp] theorem modOp_walkCache (s : State) (k : Nat) (f : VOp → VOp) : (s.modOp k f).walkCache = s.walkCache := rfl
@[simp] theorem modOp_walks (s : State) (k : Nat) (f : VOp → VOp) : (s.modOp k f).walks = s.walks := rfl
@[simp] theorem modOp_misses (s : State) (k : Nat) (f : VOp → VOp) : (s.modOp k f).misses = s.misses := rfl
@[simp] theorem modOp_ats (s : State) (k : Nat) (f : VOp → VOp) : (s.modOp k f).ats = s.ats := rfl
@[simp] theorem modOp_atsInvals (s : State) (k : Nat) (f : VOp → VOp) : (s.modOp k f).atsInvals = s.atsInvals := rfl
@[simp] theorem modOp_atsDone (s : State) (k : Nat) (f : VOp → VOp) : (s.modOp k f).atsDone = s.atsDone := rfl
@[simp] theorem modOp_granules (s : State) (k : Nat) (f : VOp → VOp) : (s.modOp k f).granules = s.granules := rfl
@[simp] theorem modOp_lines (s : State) (k : Nat) (f : VOp → VOp) : (s.modOp k f).lines = s.lines := rfl
@[simp] theorem modOp_home (s : State) (k : Nat) (f : VOp → VOp) : (s.modOp k f).home = s.home := rfl
@[simp] theorem modOp_fifo (s : State) (k : Nat) (f : VOp → VOp) : (s.modOp k f).fifo = s.fifo := rfl
@[simp] theorem modOp_dirErrors (s : State) (k : Nat) (f : VOp → VOp) : (s.modOp k f).dirErrors = s.dirErrors := rfl
@[simp] theorem modOp_toHost (s : State) (k : Nat) (f : VOp → VOp) : (s.modOp k f).toHost = s.toHost := rfl
@[simp] theorem modOp_lost (s : State) (k : Nat) (f : VOp → VOp) : (s.modOp k f).lost = s.lost := rfl
@[simp] theorem modOp_fns (s : State) (k : Nat) (f : VOp → VOp) : (s.modOp k f).fns = s.fns := rfl
@[simp] theorem modOp_parts (s : State) (k : Nat) (f : VOp → VOp) : (s.modOp k f).parts = s.parts := rfl
@[simp] theorem modOp_pf (s : State) (k : Nat) (f : VOp → VOp) : (s.modOp k f).pf = s.pf := rfl
@[simp] theorem modOp_fabric (s : State) (k : Nat) (f : VOp → VOp) : (s.modOp k f).fabric = s.fabric := rfl
@[simp] theorem modOp_bad (s : State) (k : Nat) (f : VOp → VOp) : (s.modOp k f).bad = s.bad := rfl
@[simp] theorem modOp_frozenPup (s : State) (k : Nat) (f : VOp → VOp) : (s.modOp k f).frozenPup = s.frozenPup := rfl
@[simp] theorem modOp_frozenMgmt (s : State) (k : Nat) (f : VOp → VOp) : (s.modOp k f).frozenMgmt = s.frozenMgmt := rfl
@[simp] theorem modOp_viral (s : State) (k : Nat) (f : VOp → VOp) : (s.modOp k f).viral = s.viral := rfl
@[simp] theorem modOp_retiredWays (s : State) (k : Nat) (f : VOp → VOp) : (s.modOp k f).retiredWays = s.retiredWays := rfl
@[simp] theorem modOp_msix (s : State) (k : Nat) (f : VOp → VOp) : (s.modOp k f).msix = s.msix := rfl
@[simp] theorem modOp_held (s : State) (k : Nat) (f : VOp → VOp) : (s.modOp k f).held = s.held := rfl

/-! `modRun`. -/

@[simp] theorem modRun_units (s : State) (k : Nat) (f : Run → Run) : (s.modRun k f).units = s.units := rfl
@[simp] theorem modRun_agenda (s : State) (k : Nat) (f : Run → Run) : (s.modRun k f).agenda = s.agenda := rfl
@[simp] theorem modRun_cur (s : State) (k : Nat) (f : Run → Run) : (s.modRun k f).cur = s.cur := rfl
@[simp] theorem modRun_nextId (s : State) (k : Nat) (f : Run → Run) : (s.modRun k f).nextId = s.nextId := rfl
@[simp] theorem modRun_bundleSeq (s : State) (k : Nat) (f : Run → Run) : (s.modRun k f).bundleSeq = s.bundleSeq := rfl
@[simp] theorem modRun_free (s : State) (k : Nat) (f : Run → Run) : (s.modRun k f).free = s.free := rfl
@[simp] theorem modRun_mem (s : State) (k : Nat) (f : Run → Run) : (s.modRun k f).mem = s.mem := rfl
@[simp] theorem modRun_poison (s : State) (k : Nat) (f : Run → Run) : (s.modRun k f).poison = s.poison := rfl
@[simp] theorem modRun_ddr (s : State) (k : Nat) (f : Run → Run) : (s.modRun k f).ddr = s.ddr := rfl
@[simp] theorem modRun_groups (s : State) (k : Nat) (f : Run → Run) : (s.modRun k f).groups = s.groups := rfl
@[simp] theorem modRun_teams (s : State) (k : Nat) (f : Run → Run) : (s.modRun k f).teams = s.teams := rfl
@[simp] theorem modRun_gangs (s : State) (k : Nat) (f : Run → Run) : (s.modRun k f).gangs = s.gangs := rfl
@[simp] theorem modRun_launches (s : State) (k : Nat) (f : Run → Run) : (s.modRun k f).launches = s.launches := rfl
@[simp] theorem modRun_subs (s : State) (k : Nat) (f : Run → Run) : (s.modRun k f).subs = s.subs := rfl
@[simp] theorem modRun_contexts (s : State) (k : Nat) (f : Run → Run) : (s.modRun k f).contexts = s.contexts := rfl
@[simp] theorem modRun_ops (s : State) (k : Nat) (f : Run → Run) : (s.modRun k f).ops = s.ops := rfl
@[simp] theorem modRun_entries (s : State) (k : Nat) (f : Run → Run) : (s.modRun k f).entries = s.entries := rfl
@[simp] theorem modRun_passes (s : State) (k : Nat) (f : Run → Run) : (s.modRun k f).passes = s.passes := rfl
@[simp] theorem modRun_acc (s : State) (k : Nat) (f : Run → Run) : (s.modRun k f).acc = s.acc := rfl
@[simp] theorem modRun_quads (s : State) (k : Nat) (f : Run → Run) : (s.modRun k f).quads = s.quads := rfl
@[simp] theorem modRun_cores (s : State) (k : Nat) (f : Run → Run) : (s.modRun k f).cores = s.cores := rfl
@[simp] theorem modRun_dies (s : State) (k : Nat) (f : Run → Run) : (s.modRun k f).dies = s.dies := rfl
@[simp] theorem modRun_queues (s : State) (k : Nat) (f : Run → Run) : (s.modRun k f).queues = s.queues := rfl
@[simp] theorem modRun_tlb (s : State) (k : Nat) (f : Run → Run) : (s.modRun k f).tlb = s.tlb := rfl
@[simp] theorem modRun_walkCache (s : State) (k : Nat) (f : Run → Run) : (s.modRun k f).walkCache = s.walkCache := rfl
@[simp] theorem modRun_walks (s : State) (k : Nat) (f : Run → Run) : (s.modRun k f).walks = s.walks := rfl
@[simp] theorem modRun_misses (s : State) (k : Nat) (f : Run → Run) : (s.modRun k f).misses = s.misses := rfl
@[simp] theorem modRun_ats (s : State) (k : Nat) (f : Run → Run) : (s.modRun k f).ats = s.ats := rfl
@[simp] theorem modRun_atsInvals (s : State) (k : Nat) (f : Run → Run) : (s.modRun k f).atsInvals = s.atsInvals := rfl
@[simp] theorem modRun_atsDone (s : State) (k : Nat) (f : Run → Run) : (s.modRun k f).atsDone = s.atsDone := rfl
@[simp] theorem modRun_granules (s : State) (k : Nat) (f : Run → Run) : (s.modRun k f).granules = s.granules := rfl
@[simp] theorem modRun_lines (s : State) (k : Nat) (f : Run → Run) : (s.modRun k f).lines = s.lines := rfl
@[simp] theorem modRun_home (s : State) (k : Nat) (f : Run → Run) : (s.modRun k f).home = s.home := rfl
@[simp] theorem modRun_fifo (s : State) (k : Nat) (f : Run → Run) : (s.modRun k f).fifo = s.fifo := rfl
@[simp] theorem modRun_dirErrors (s : State) (k : Nat) (f : Run → Run) : (s.modRun k f).dirErrors = s.dirErrors := rfl
@[simp] theorem modRun_toHost (s : State) (k : Nat) (f : Run → Run) : (s.modRun k f).toHost = s.toHost := rfl
@[simp] theorem modRun_lost (s : State) (k : Nat) (f : Run → Run) : (s.modRun k f).lost = s.lost := rfl
@[simp] theorem modRun_fns (s : State) (k : Nat) (f : Run → Run) : (s.modRun k f).fns = s.fns := rfl
@[simp] theorem modRun_parts (s : State) (k : Nat) (f : Run → Run) : (s.modRun k f).parts = s.parts := rfl
@[simp] theorem modRun_pf (s : State) (k : Nat) (f : Run → Run) : (s.modRun k f).pf = s.pf := rfl
@[simp] theorem modRun_fabric (s : State) (k : Nat) (f : Run → Run) : (s.modRun k f).fabric = s.fabric := rfl
@[simp] theorem modRun_bad (s : State) (k : Nat) (f : Run → Run) : (s.modRun k f).bad = s.bad := rfl
@[simp] theorem modRun_frozenPup (s : State) (k : Nat) (f : Run → Run) : (s.modRun k f).frozenPup = s.frozenPup := rfl
@[simp] theorem modRun_frozenMgmt (s : State) (k : Nat) (f : Run → Run) : (s.modRun k f).frozenMgmt = s.frozenMgmt := rfl
@[simp] theorem modRun_viral (s : State) (k : Nat) (f : Run → Run) : (s.modRun k f).viral = s.viral := rfl
@[simp] theorem modRun_retiredWays (s : State) (k : Nat) (f : Run → Run) : (s.modRun k f).retiredWays = s.retiredWays := rfl
@[simp] theorem modRun_msix (s : State) (k : Nat) (f : Run → Run) : (s.modRun k f).msix = s.msix := rfl
@[simp] theorem modRun_held (s : State) (k : Nat) (f : Run → Run) : (s.modRun k f).held = s.held := rfl

/-! `modEntry`. -/

@[simp] theorem modEntry_units (s : State) (k : Nat) (f : REntry → REntry) : (s.modEntry k f).units = s.units := rfl
@[simp] theorem modEntry_agenda (s : State) (k : Nat) (f : REntry → REntry) : (s.modEntry k f).agenda = s.agenda := rfl
@[simp] theorem modEntry_cur (s : State) (k : Nat) (f : REntry → REntry) : (s.modEntry k f).cur = s.cur := rfl
@[simp] theorem modEntry_nextId (s : State) (k : Nat) (f : REntry → REntry) : (s.modEntry k f).nextId = s.nextId := rfl
@[simp] theorem modEntry_bundleSeq (s : State) (k : Nat) (f : REntry → REntry) : (s.modEntry k f).bundleSeq = s.bundleSeq := rfl
@[simp] theorem modEntry_free (s : State) (k : Nat) (f : REntry → REntry) : (s.modEntry k f).free = s.free := rfl
@[simp] theorem modEntry_mem (s : State) (k : Nat) (f : REntry → REntry) : (s.modEntry k f).mem = s.mem := rfl
@[simp] theorem modEntry_poison (s : State) (k : Nat) (f : REntry → REntry) : (s.modEntry k f).poison = s.poison := rfl
@[simp] theorem modEntry_ddr (s : State) (k : Nat) (f : REntry → REntry) : (s.modEntry k f).ddr = s.ddr := rfl
@[simp] theorem modEntry_groups (s : State) (k : Nat) (f : REntry → REntry) : (s.modEntry k f).groups = s.groups := rfl
@[simp] theorem modEntry_teams (s : State) (k : Nat) (f : REntry → REntry) : (s.modEntry k f).teams = s.teams := rfl
@[simp] theorem modEntry_gangs (s : State) (k : Nat) (f : REntry → REntry) : (s.modEntry k f).gangs = s.gangs := rfl
@[simp] theorem modEntry_launches (s : State) (k : Nat) (f : REntry → REntry) : (s.modEntry k f).launches = s.launches := rfl
@[simp] theorem modEntry_subs (s : State) (k : Nat) (f : REntry → REntry) : (s.modEntry k f).subs = s.subs := rfl
@[simp] theorem modEntry_contexts (s : State) (k : Nat) (f : REntry → REntry) : (s.modEntry k f).contexts = s.contexts := rfl
@[simp] theorem modEntry_runs (s : State) (k : Nat) (f : REntry → REntry) : (s.modEntry k f).runs = s.runs := rfl
@[simp] theorem modEntry_ops (s : State) (k : Nat) (f : REntry → REntry) : (s.modEntry k f).ops = s.ops := rfl
@[simp] theorem modEntry_passes (s : State) (k : Nat) (f : REntry → REntry) : (s.modEntry k f).passes = s.passes := rfl
@[simp] theorem modEntry_acc (s : State) (k : Nat) (f : REntry → REntry) : (s.modEntry k f).acc = s.acc := rfl
@[simp] theorem modEntry_quads (s : State) (k : Nat) (f : REntry → REntry) : (s.modEntry k f).quads = s.quads := rfl
@[simp] theorem modEntry_cores (s : State) (k : Nat) (f : REntry → REntry) : (s.modEntry k f).cores = s.cores := rfl
@[simp] theorem modEntry_dies (s : State) (k : Nat) (f : REntry → REntry) : (s.modEntry k f).dies = s.dies := rfl
@[simp] theorem modEntry_queues (s : State) (k : Nat) (f : REntry → REntry) : (s.modEntry k f).queues = s.queues := rfl
@[simp] theorem modEntry_tlb (s : State) (k : Nat) (f : REntry → REntry) : (s.modEntry k f).tlb = s.tlb := rfl
@[simp] theorem modEntry_walkCache (s : State) (k : Nat) (f : REntry → REntry) : (s.modEntry k f).walkCache = s.walkCache := rfl
@[simp] theorem modEntry_walks (s : State) (k : Nat) (f : REntry → REntry) : (s.modEntry k f).walks = s.walks := rfl
@[simp] theorem modEntry_misses (s : State) (k : Nat) (f : REntry → REntry) : (s.modEntry k f).misses = s.misses := rfl
@[simp] theorem modEntry_ats (s : State) (k : Nat) (f : REntry → REntry) : (s.modEntry k f).ats = s.ats := rfl
@[simp] theorem modEntry_atsInvals (s : State) (k : Nat) (f : REntry → REntry) : (s.modEntry k f).atsInvals = s.atsInvals := rfl
@[simp] theorem modEntry_atsDone (s : State) (k : Nat) (f : REntry → REntry) : (s.modEntry k f).atsDone = s.atsDone := rfl
@[simp] theorem modEntry_granules (s : State) (k : Nat) (f : REntry → REntry) : (s.modEntry k f).granules = s.granules := rfl
@[simp] theorem modEntry_lines (s : State) (k : Nat) (f : REntry → REntry) : (s.modEntry k f).lines = s.lines := rfl
@[simp] theorem modEntry_home (s : State) (k : Nat) (f : REntry → REntry) : (s.modEntry k f).home = s.home := rfl
@[simp] theorem modEntry_fifo (s : State) (k : Nat) (f : REntry → REntry) : (s.modEntry k f).fifo = s.fifo := rfl
@[simp] theorem modEntry_dirErrors (s : State) (k : Nat) (f : REntry → REntry) : (s.modEntry k f).dirErrors = s.dirErrors := rfl
@[simp] theorem modEntry_toHost (s : State) (k : Nat) (f : REntry → REntry) : (s.modEntry k f).toHost = s.toHost := rfl
@[simp] theorem modEntry_lost (s : State) (k : Nat) (f : REntry → REntry) : (s.modEntry k f).lost = s.lost := rfl
@[simp] theorem modEntry_fns (s : State) (k : Nat) (f : REntry → REntry) : (s.modEntry k f).fns = s.fns := rfl
@[simp] theorem modEntry_parts (s : State) (k : Nat) (f : REntry → REntry) : (s.modEntry k f).parts = s.parts := rfl
@[simp] theorem modEntry_pf (s : State) (k : Nat) (f : REntry → REntry) : (s.modEntry k f).pf = s.pf := rfl
@[simp] theorem modEntry_fabric (s : State) (k : Nat) (f : REntry → REntry) : (s.modEntry k f).fabric = s.fabric := rfl
@[simp] theorem modEntry_bad (s : State) (k : Nat) (f : REntry → REntry) : (s.modEntry k f).bad = s.bad := rfl
@[simp] theorem modEntry_frozenPup (s : State) (k : Nat) (f : REntry → REntry) : (s.modEntry k f).frozenPup = s.frozenPup := rfl
@[simp] theorem modEntry_frozenMgmt (s : State) (k : Nat) (f : REntry → REntry) : (s.modEntry k f).frozenMgmt = s.frozenMgmt := rfl
@[simp] theorem modEntry_viral (s : State) (k : Nat) (f : REntry → REntry) : (s.modEntry k f).viral = s.viral := rfl
@[simp] theorem modEntry_retiredWays (s : State) (k : Nat) (f : REntry → REntry) : (s.modEntry k f).retiredWays = s.retiredWays := rfl
@[simp] theorem modEntry_msix (s : State) (k : Nat) (f : REntry → REntry) : (s.modEntry k f).msix = s.msix := rfl
@[simp] theorem modEntry_held (s : State) (k : Nat) (f : REntry → REntry) : (s.modEntry k f).held = s.held := rfl

/-! `modCore`. -/

@[simp] theorem modCore_units (s : State) (k : Nat) (f : Core → Core) : (s.modCore k f).units = s.units := rfl
@[simp] theorem modCore_agenda (s : State) (k : Nat) (f : Core → Core) : (s.modCore k f).agenda = s.agenda := rfl
@[simp] theorem modCore_cur (s : State) (k : Nat) (f : Core → Core) : (s.modCore k f).cur = s.cur := rfl
@[simp] theorem modCore_nextId (s : State) (k : Nat) (f : Core → Core) : (s.modCore k f).nextId = s.nextId := rfl
@[simp] theorem modCore_bundleSeq (s : State) (k : Nat) (f : Core → Core) : (s.modCore k f).bundleSeq = s.bundleSeq := rfl
@[simp] theorem modCore_free (s : State) (k : Nat) (f : Core → Core) : (s.modCore k f).free = s.free := rfl
@[simp] theorem modCore_mem (s : State) (k : Nat) (f : Core → Core) : (s.modCore k f).mem = s.mem := rfl
@[simp] theorem modCore_poison (s : State) (k : Nat) (f : Core → Core) : (s.modCore k f).poison = s.poison := rfl
@[simp] theorem modCore_ddr (s : State) (k : Nat) (f : Core → Core) : (s.modCore k f).ddr = s.ddr := rfl
@[simp] theorem modCore_groups (s : State) (k : Nat) (f : Core → Core) : (s.modCore k f).groups = s.groups := rfl
@[simp] theorem modCore_teams (s : State) (k : Nat) (f : Core → Core) : (s.modCore k f).teams = s.teams := rfl
@[simp] theorem modCore_gangs (s : State) (k : Nat) (f : Core → Core) : (s.modCore k f).gangs = s.gangs := rfl
@[simp] theorem modCore_launches (s : State) (k : Nat) (f : Core → Core) : (s.modCore k f).launches = s.launches := rfl
@[simp] theorem modCore_subs (s : State) (k : Nat) (f : Core → Core) : (s.modCore k f).subs = s.subs := rfl
@[simp] theorem modCore_contexts (s : State) (k : Nat) (f : Core → Core) : (s.modCore k f).contexts = s.contexts := rfl
@[simp] theorem modCore_runs (s : State) (k : Nat) (f : Core → Core) : (s.modCore k f).runs = s.runs := rfl
@[simp] theorem modCore_ops (s : State) (k : Nat) (f : Core → Core) : (s.modCore k f).ops = s.ops := rfl
@[simp] theorem modCore_entries (s : State) (k : Nat) (f : Core → Core) : (s.modCore k f).entries = s.entries := rfl
@[simp] theorem modCore_passes (s : State) (k : Nat) (f : Core → Core) : (s.modCore k f).passes = s.passes := rfl
@[simp] theorem modCore_acc (s : State) (k : Nat) (f : Core → Core) : (s.modCore k f).acc = s.acc := rfl
@[simp] theorem modCore_quads (s : State) (k : Nat) (f : Core → Core) : (s.modCore k f).quads = s.quads := rfl
@[simp] theorem modCore_dies (s : State) (k : Nat) (f : Core → Core) : (s.modCore k f).dies = s.dies := rfl
@[simp] theorem modCore_queues (s : State) (k : Nat) (f : Core → Core) : (s.modCore k f).queues = s.queues := rfl
@[simp] theorem modCore_tlb (s : State) (k : Nat) (f : Core → Core) : (s.modCore k f).tlb = s.tlb := rfl
@[simp] theorem modCore_walkCache (s : State) (k : Nat) (f : Core → Core) : (s.modCore k f).walkCache = s.walkCache := rfl
@[simp] theorem modCore_walks (s : State) (k : Nat) (f : Core → Core) : (s.modCore k f).walks = s.walks := rfl
@[simp] theorem modCore_misses (s : State) (k : Nat) (f : Core → Core) : (s.modCore k f).misses = s.misses := rfl
@[simp] theorem modCore_ats (s : State) (k : Nat) (f : Core → Core) : (s.modCore k f).ats = s.ats := rfl
@[simp] theorem modCore_atsInvals (s : State) (k : Nat) (f : Core → Core) : (s.modCore k f).atsInvals = s.atsInvals := rfl
@[simp] theorem modCore_atsDone (s : State) (k : Nat) (f : Core → Core) : (s.modCore k f).atsDone = s.atsDone := rfl
@[simp] theorem modCore_granules (s : State) (k : Nat) (f : Core → Core) : (s.modCore k f).granules = s.granules := rfl
@[simp] theorem modCore_lines (s : State) (k : Nat) (f : Core → Core) : (s.modCore k f).lines = s.lines := rfl
@[simp] theorem modCore_home (s : State) (k : Nat) (f : Core → Core) : (s.modCore k f).home = s.home := rfl
@[simp] theorem modCore_fifo (s : State) (k : Nat) (f : Core → Core) : (s.modCore k f).fifo = s.fifo := rfl
@[simp] theorem modCore_dirErrors (s : State) (k : Nat) (f : Core → Core) : (s.modCore k f).dirErrors = s.dirErrors := rfl
@[simp] theorem modCore_toHost (s : State) (k : Nat) (f : Core → Core) : (s.modCore k f).toHost = s.toHost := rfl
@[simp] theorem modCore_lost (s : State) (k : Nat) (f : Core → Core) : (s.modCore k f).lost = s.lost := rfl
@[simp] theorem modCore_fns (s : State) (k : Nat) (f : Core → Core) : (s.modCore k f).fns = s.fns := rfl
@[simp] theorem modCore_parts (s : State) (k : Nat) (f : Core → Core) : (s.modCore k f).parts = s.parts := rfl
@[simp] theorem modCore_pf (s : State) (k : Nat) (f : Core → Core) : (s.modCore k f).pf = s.pf := rfl
@[simp] theorem modCore_fabric (s : State) (k : Nat) (f : Core → Core) : (s.modCore k f).fabric = s.fabric := rfl
@[simp] theorem modCore_bad (s : State) (k : Nat) (f : Core → Core) : (s.modCore k f).bad = s.bad := rfl
@[simp] theorem modCore_frozenPup (s : State) (k : Nat) (f : Core → Core) : (s.modCore k f).frozenPup = s.frozenPup := rfl
@[simp] theorem modCore_frozenMgmt (s : State) (k : Nat) (f : Core → Core) : (s.modCore k f).frozenMgmt = s.frozenMgmt := rfl
@[simp] theorem modCore_viral (s : State) (k : Nat) (f : Core → Core) : (s.modCore k f).viral = s.viral := rfl
@[simp] theorem modCore_retiredWays (s : State) (k : Nat) (f : Core → Core) : (s.modCore k f).retiredWays = s.retiredWays := rfl
@[simp] theorem modCore_msix (s : State) (k : Nat) (f : Core → Core) : (s.modCore k f).msix = s.msix := rfl
@[simp] theorem modCore_held (s : State) (k : Nat) (f : Core → Core) : (s.modCore k f).held = s.held := rfl

/-! `modQuad`. -/

@[simp] theorem modQuad_units (s : State) (k : Nat) (f : Quad → Quad) : (s.modQuad k f).units = s.units := rfl
@[simp] theorem modQuad_agenda (s : State) (k : Nat) (f : Quad → Quad) : (s.modQuad k f).agenda = s.agenda := rfl
@[simp] theorem modQuad_cur (s : State) (k : Nat) (f : Quad → Quad) : (s.modQuad k f).cur = s.cur := rfl
@[simp] theorem modQuad_nextId (s : State) (k : Nat) (f : Quad → Quad) : (s.modQuad k f).nextId = s.nextId := rfl
@[simp] theorem modQuad_bundleSeq (s : State) (k : Nat) (f : Quad → Quad) : (s.modQuad k f).bundleSeq = s.bundleSeq := rfl
@[simp] theorem modQuad_free (s : State) (k : Nat) (f : Quad → Quad) : (s.modQuad k f).free = s.free := rfl
@[simp] theorem modQuad_mem (s : State) (k : Nat) (f : Quad → Quad) : (s.modQuad k f).mem = s.mem := rfl
@[simp] theorem modQuad_poison (s : State) (k : Nat) (f : Quad → Quad) : (s.modQuad k f).poison = s.poison := rfl
@[simp] theorem modQuad_ddr (s : State) (k : Nat) (f : Quad → Quad) : (s.modQuad k f).ddr = s.ddr := rfl
@[simp] theorem modQuad_groups (s : State) (k : Nat) (f : Quad → Quad) : (s.modQuad k f).groups = s.groups := rfl
@[simp] theorem modQuad_teams (s : State) (k : Nat) (f : Quad → Quad) : (s.modQuad k f).teams = s.teams := rfl
@[simp] theorem modQuad_gangs (s : State) (k : Nat) (f : Quad → Quad) : (s.modQuad k f).gangs = s.gangs := rfl
@[simp] theorem modQuad_launches (s : State) (k : Nat) (f : Quad → Quad) : (s.modQuad k f).launches = s.launches := rfl
@[simp] theorem modQuad_subs (s : State) (k : Nat) (f : Quad → Quad) : (s.modQuad k f).subs = s.subs := rfl
@[simp] theorem modQuad_contexts (s : State) (k : Nat) (f : Quad → Quad) : (s.modQuad k f).contexts = s.contexts := rfl
@[simp] theorem modQuad_runs (s : State) (k : Nat) (f : Quad → Quad) : (s.modQuad k f).runs = s.runs := rfl
@[simp] theorem modQuad_ops (s : State) (k : Nat) (f : Quad → Quad) : (s.modQuad k f).ops = s.ops := rfl
@[simp] theorem modQuad_entries (s : State) (k : Nat) (f : Quad → Quad) : (s.modQuad k f).entries = s.entries := rfl
@[simp] theorem modQuad_passes (s : State) (k : Nat) (f : Quad → Quad) : (s.modQuad k f).passes = s.passes := rfl
@[simp] theorem modQuad_acc (s : State) (k : Nat) (f : Quad → Quad) : (s.modQuad k f).acc = s.acc := rfl
@[simp] theorem modQuad_cores (s : State) (k : Nat) (f : Quad → Quad) : (s.modQuad k f).cores = s.cores := rfl
@[simp] theorem modQuad_dies (s : State) (k : Nat) (f : Quad → Quad) : (s.modQuad k f).dies = s.dies := rfl
@[simp] theorem modQuad_queues (s : State) (k : Nat) (f : Quad → Quad) : (s.modQuad k f).queues = s.queues := rfl
@[simp] theorem modQuad_tlb (s : State) (k : Nat) (f : Quad → Quad) : (s.modQuad k f).tlb = s.tlb := rfl
@[simp] theorem modQuad_walkCache (s : State) (k : Nat) (f : Quad → Quad) : (s.modQuad k f).walkCache = s.walkCache := rfl
@[simp] theorem modQuad_walks (s : State) (k : Nat) (f : Quad → Quad) : (s.modQuad k f).walks = s.walks := rfl
@[simp] theorem modQuad_misses (s : State) (k : Nat) (f : Quad → Quad) : (s.modQuad k f).misses = s.misses := rfl
@[simp] theorem modQuad_ats (s : State) (k : Nat) (f : Quad → Quad) : (s.modQuad k f).ats = s.ats := rfl
@[simp] theorem modQuad_atsInvals (s : State) (k : Nat) (f : Quad → Quad) : (s.modQuad k f).atsInvals = s.atsInvals := rfl
@[simp] theorem modQuad_atsDone (s : State) (k : Nat) (f : Quad → Quad) : (s.modQuad k f).atsDone = s.atsDone := rfl
@[simp] theorem modQuad_granules (s : State) (k : Nat) (f : Quad → Quad) : (s.modQuad k f).granules = s.granules := rfl
@[simp] theorem modQuad_lines (s : State) (k : Nat) (f : Quad → Quad) : (s.modQuad k f).lines = s.lines := rfl
@[simp] theorem modQuad_home (s : State) (k : Nat) (f : Quad → Quad) : (s.modQuad k f).home = s.home := rfl
@[simp] theorem modQuad_fifo (s : State) (k : Nat) (f : Quad → Quad) : (s.modQuad k f).fifo = s.fifo := rfl
@[simp] theorem modQuad_dirErrors (s : State) (k : Nat) (f : Quad → Quad) : (s.modQuad k f).dirErrors = s.dirErrors := rfl
@[simp] theorem modQuad_toHost (s : State) (k : Nat) (f : Quad → Quad) : (s.modQuad k f).toHost = s.toHost := rfl
@[simp] theorem modQuad_lost (s : State) (k : Nat) (f : Quad → Quad) : (s.modQuad k f).lost = s.lost := rfl
@[simp] theorem modQuad_fns (s : State) (k : Nat) (f : Quad → Quad) : (s.modQuad k f).fns = s.fns := rfl
@[simp] theorem modQuad_parts (s : State) (k : Nat) (f : Quad → Quad) : (s.modQuad k f).parts = s.parts := rfl
@[simp] theorem modQuad_pf (s : State) (k : Nat) (f : Quad → Quad) : (s.modQuad k f).pf = s.pf := rfl
@[simp] theorem modQuad_fabric (s : State) (k : Nat) (f : Quad → Quad) : (s.modQuad k f).fabric = s.fabric := rfl
@[simp] theorem modQuad_bad (s : State) (k : Nat) (f : Quad → Quad) : (s.modQuad k f).bad = s.bad := rfl
@[simp] theorem modQuad_frozenPup (s : State) (k : Nat) (f : Quad → Quad) : (s.modQuad k f).frozenPup = s.frozenPup := rfl
@[simp] theorem modQuad_frozenMgmt (s : State) (k : Nat) (f : Quad → Quad) : (s.modQuad k f).frozenMgmt = s.frozenMgmt := rfl
@[simp] theorem modQuad_viral (s : State) (k : Nat) (f : Quad → Quad) : (s.modQuad k f).viral = s.viral := rfl
@[simp] theorem modQuad_retiredWays (s : State) (k : Nat) (f : Quad → Quad) : (s.modQuad k f).retiredWays = s.retiredWays := rfl
@[simp] theorem modQuad_msix (s : State) (k : Nat) (f : Quad → Quad) : (s.modQuad k f).msix = s.msix := rfl
@[simp] theorem modQuad_held (s : State) (k : Nat) (f : Quad → Quad) : (s.modQuad k f).held = s.held := rfl

/-! `modQueue`. -/

@[simp] theorem modQueue_units (s : State) (k : Nat) (f : EQueue → EQueue) : (s.modQueue k f).units = s.units := rfl
@[simp] theorem modQueue_agenda (s : State) (k : Nat) (f : EQueue → EQueue) : (s.modQueue k f).agenda = s.agenda := rfl
@[simp] theorem modQueue_cur (s : State) (k : Nat) (f : EQueue → EQueue) : (s.modQueue k f).cur = s.cur := rfl
@[simp] theorem modQueue_nextId (s : State) (k : Nat) (f : EQueue → EQueue) : (s.modQueue k f).nextId = s.nextId := rfl
@[simp] theorem modQueue_bundleSeq (s : State) (k : Nat) (f : EQueue → EQueue) : (s.modQueue k f).bundleSeq = s.bundleSeq := rfl
@[simp] theorem modQueue_free (s : State) (k : Nat) (f : EQueue → EQueue) : (s.modQueue k f).free = s.free := rfl
@[simp] theorem modQueue_mem (s : State) (k : Nat) (f : EQueue → EQueue) : (s.modQueue k f).mem = s.mem := rfl
@[simp] theorem modQueue_poison (s : State) (k : Nat) (f : EQueue → EQueue) : (s.modQueue k f).poison = s.poison := rfl
@[simp] theorem modQueue_ddr (s : State) (k : Nat) (f : EQueue → EQueue) : (s.modQueue k f).ddr = s.ddr := rfl
@[simp] theorem modQueue_groups (s : State) (k : Nat) (f : EQueue → EQueue) : (s.modQueue k f).groups = s.groups := rfl
@[simp] theorem modQueue_teams (s : State) (k : Nat) (f : EQueue → EQueue) : (s.modQueue k f).teams = s.teams := rfl
@[simp] theorem modQueue_gangs (s : State) (k : Nat) (f : EQueue → EQueue) : (s.modQueue k f).gangs = s.gangs := rfl
@[simp] theorem modQueue_launches (s : State) (k : Nat) (f : EQueue → EQueue) : (s.modQueue k f).launches = s.launches := rfl
@[simp] theorem modQueue_subs (s : State) (k : Nat) (f : EQueue → EQueue) : (s.modQueue k f).subs = s.subs := rfl
@[simp] theorem modQueue_contexts (s : State) (k : Nat) (f : EQueue → EQueue) : (s.modQueue k f).contexts = s.contexts := rfl
@[simp] theorem modQueue_runs (s : State) (k : Nat) (f : EQueue → EQueue) : (s.modQueue k f).runs = s.runs := rfl
@[simp] theorem modQueue_ops (s : State) (k : Nat) (f : EQueue → EQueue) : (s.modQueue k f).ops = s.ops := rfl
@[simp] theorem modQueue_entries (s : State) (k : Nat) (f : EQueue → EQueue) : (s.modQueue k f).entries = s.entries := rfl
@[simp] theorem modQueue_passes (s : State) (k : Nat) (f : EQueue → EQueue) : (s.modQueue k f).passes = s.passes := rfl
@[simp] theorem modQueue_acc (s : State) (k : Nat) (f : EQueue → EQueue) : (s.modQueue k f).acc = s.acc := rfl
@[simp] theorem modQueue_quads (s : State) (k : Nat) (f : EQueue → EQueue) : (s.modQueue k f).quads = s.quads := rfl
@[simp] theorem modQueue_cores (s : State) (k : Nat) (f : EQueue → EQueue) : (s.modQueue k f).cores = s.cores := rfl
@[simp] theorem modQueue_dies (s : State) (k : Nat) (f : EQueue → EQueue) : (s.modQueue k f).dies = s.dies := rfl
@[simp] theorem modQueue_tlb (s : State) (k : Nat) (f : EQueue → EQueue) : (s.modQueue k f).tlb = s.tlb := rfl
@[simp] theorem modQueue_walkCache (s : State) (k : Nat) (f : EQueue → EQueue) : (s.modQueue k f).walkCache = s.walkCache := rfl
@[simp] theorem modQueue_walks (s : State) (k : Nat) (f : EQueue → EQueue) : (s.modQueue k f).walks = s.walks := rfl
@[simp] theorem modQueue_misses (s : State) (k : Nat) (f : EQueue → EQueue) : (s.modQueue k f).misses = s.misses := rfl
@[simp] theorem modQueue_ats (s : State) (k : Nat) (f : EQueue → EQueue) : (s.modQueue k f).ats = s.ats := rfl
@[simp] theorem modQueue_atsInvals (s : State) (k : Nat) (f : EQueue → EQueue) : (s.modQueue k f).atsInvals = s.atsInvals := rfl
@[simp] theorem modQueue_atsDone (s : State) (k : Nat) (f : EQueue → EQueue) : (s.modQueue k f).atsDone = s.atsDone := rfl
@[simp] theorem modQueue_granules (s : State) (k : Nat) (f : EQueue → EQueue) : (s.modQueue k f).granules = s.granules := rfl
@[simp] theorem modQueue_lines (s : State) (k : Nat) (f : EQueue → EQueue) : (s.modQueue k f).lines = s.lines := rfl
@[simp] theorem modQueue_home (s : State) (k : Nat) (f : EQueue → EQueue) : (s.modQueue k f).home = s.home := rfl
@[simp] theorem modQueue_fifo (s : State) (k : Nat) (f : EQueue → EQueue) : (s.modQueue k f).fifo = s.fifo := rfl
@[simp] theorem modQueue_dirErrors (s : State) (k : Nat) (f : EQueue → EQueue) : (s.modQueue k f).dirErrors = s.dirErrors := rfl
@[simp] theorem modQueue_toHost (s : State) (k : Nat) (f : EQueue → EQueue) : (s.modQueue k f).toHost = s.toHost := rfl
@[simp] theorem modQueue_lost (s : State) (k : Nat) (f : EQueue → EQueue) : (s.modQueue k f).lost = s.lost := rfl
@[simp] theorem modQueue_fns (s : State) (k : Nat) (f : EQueue → EQueue) : (s.modQueue k f).fns = s.fns := rfl
@[simp] theorem modQueue_parts (s : State) (k : Nat) (f : EQueue → EQueue) : (s.modQueue k f).parts = s.parts := rfl
@[simp] theorem modQueue_pf (s : State) (k : Nat) (f : EQueue → EQueue) : (s.modQueue k f).pf = s.pf := rfl
@[simp] theorem modQueue_fabric (s : State) (k : Nat) (f : EQueue → EQueue) : (s.modQueue k f).fabric = s.fabric := rfl
@[simp] theorem modQueue_bad (s : State) (k : Nat) (f : EQueue → EQueue) : (s.modQueue k f).bad = s.bad := rfl
@[simp] theorem modQueue_frozenPup (s : State) (k : Nat) (f : EQueue → EQueue) : (s.modQueue k f).frozenPup = s.frozenPup := rfl
@[simp] theorem modQueue_frozenMgmt (s : State) (k : Nat) (f : EQueue → EQueue) : (s.modQueue k f).frozenMgmt = s.frozenMgmt := rfl
@[simp] theorem modQueue_viral (s : State) (k : Nat) (f : EQueue → EQueue) : (s.modQueue k f).viral = s.viral := rfl
@[simp] theorem modQueue_retiredWays (s : State) (k : Nat) (f : EQueue → EQueue) : (s.modQueue k f).retiredWays = s.retiredWays := rfl
@[simp] theorem modQueue_msix (s : State) (k : Nat) (f : EQueue → EQueue) : (s.modQueue k f).msix = s.msix := rfl
@[simp] theorem modQueue_held (s : State) (k : Nat) (f : EQueue → EQueue) : (s.modQueue k f).held = s.held := rfl

/-! `modDie`. -/

@[simp] theorem modDie_units (s : State) (k : Nat) (f : Die → Die) : (s.modDie k f).units = s.units := rfl
@[simp] theorem modDie_agenda (s : State) (k : Nat) (f : Die → Die) : (s.modDie k f).agenda = s.agenda := rfl
@[simp] theorem modDie_cur (s : State) (k : Nat) (f : Die → Die) : (s.modDie k f).cur = s.cur := rfl
@[simp] theorem modDie_nextId (s : State) (k : Nat) (f : Die → Die) : (s.modDie k f).nextId = s.nextId := rfl
@[simp] theorem modDie_bundleSeq (s : State) (k : Nat) (f : Die → Die) : (s.modDie k f).bundleSeq = s.bundleSeq := rfl
@[simp] theorem modDie_free (s : State) (k : Nat) (f : Die → Die) : (s.modDie k f).free = s.free := rfl
@[simp] theorem modDie_mem (s : State) (k : Nat) (f : Die → Die) : (s.modDie k f).mem = s.mem := rfl
@[simp] theorem modDie_poison (s : State) (k : Nat) (f : Die → Die) : (s.modDie k f).poison = s.poison := rfl
@[simp] theorem modDie_ddr (s : State) (k : Nat) (f : Die → Die) : (s.modDie k f).ddr = s.ddr := rfl
@[simp] theorem modDie_groups (s : State) (k : Nat) (f : Die → Die) : (s.modDie k f).groups = s.groups := rfl
@[simp] theorem modDie_teams (s : State) (k : Nat) (f : Die → Die) : (s.modDie k f).teams = s.teams := rfl
@[simp] theorem modDie_gangs (s : State) (k : Nat) (f : Die → Die) : (s.modDie k f).gangs = s.gangs := rfl
@[simp] theorem modDie_launches (s : State) (k : Nat) (f : Die → Die) : (s.modDie k f).launches = s.launches := rfl
@[simp] theorem modDie_subs (s : State) (k : Nat) (f : Die → Die) : (s.modDie k f).subs = s.subs := rfl
@[simp] theorem modDie_contexts (s : State) (k : Nat) (f : Die → Die) : (s.modDie k f).contexts = s.contexts := rfl
@[simp] theorem modDie_runs (s : State) (k : Nat) (f : Die → Die) : (s.modDie k f).runs = s.runs := rfl
@[simp] theorem modDie_ops (s : State) (k : Nat) (f : Die → Die) : (s.modDie k f).ops = s.ops := rfl
@[simp] theorem modDie_entries (s : State) (k : Nat) (f : Die → Die) : (s.modDie k f).entries = s.entries := rfl
@[simp] theorem modDie_passes (s : State) (k : Nat) (f : Die → Die) : (s.modDie k f).passes = s.passes := rfl
@[simp] theorem modDie_acc (s : State) (k : Nat) (f : Die → Die) : (s.modDie k f).acc = s.acc := rfl
@[simp] theorem modDie_quads (s : State) (k : Nat) (f : Die → Die) : (s.modDie k f).quads = s.quads := rfl
@[simp] theorem modDie_cores (s : State) (k : Nat) (f : Die → Die) : (s.modDie k f).cores = s.cores := rfl
@[simp] theorem modDie_queues (s : State) (k : Nat) (f : Die → Die) : (s.modDie k f).queues = s.queues := rfl
@[simp] theorem modDie_tlb (s : State) (k : Nat) (f : Die → Die) : (s.modDie k f).tlb = s.tlb := rfl
@[simp] theorem modDie_walkCache (s : State) (k : Nat) (f : Die → Die) : (s.modDie k f).walkCache = s.walkCache := rfl
@[simp] theorem modDie_walks (s : State) (k : Nat) (f : Die → Die) : (s.modDie k f).walks = s.walks := rfl
@[simp] theorem modDie_misses (s : State) (k : Nat) (f : Die → Die) : (s.modDie k f).misses = s.misses := rfl
@[simp] theorem modDie_ats (s : State) (k : Nat) (f : Die → Die) : (s.modDie k f).ats = s.ats := rfl
@[simp] theorem modDie_atsInvals (s : State) (k : Nat) (f : Die → Die) : (s.modDie k f).atsInvals = s.atsInvals := rfl
@[simp] theorem modDie_atsDone (s : State) (k : Nat) (f : Die → Die) : (s.modDie k f).atsDone = s.atsDone := rfl
@[simp] theorem modDie_granules (s : State) (k : Nat) (f : Die → Die) : (s.modDie k f).granules = s.granules := rfl
@[simp] theorem modDie_lines (s : State) (k : Nat) (f : Die → Die) : (s.modDie k f).lines = s.lines := rfl
@[simp] theorem modDie_home (s : State) (k : Nat) (f : Die → Die) : (s.modDie k f).home = s.home := rfl
@[simp] theorem modDie_fifo (s : State) (k : Nat) (f : Die → Die) : (s.modDie k f).fifo = s.fifo := rfl
@[simp] theorem modDie_dirErrors (s : State) (k : Nat) (f : Die → Die) : (s.modDie k f).dirErrors = s.dirErrors := rfl
@[simp] theorem modDie_toHost (s : State) (k : Nat) (f : Die → Die) : (s.modDie k f).toHost = s.toHost := rfl
@[simp] theorem modDie_lost (s : State) (k : Nat) (f : Die → Die) : (s.modDie k f).lost = s.lost := rfl
@[simp] theorem modDie_fns (s : State) (k : Nat) (f : Die → Die) : (s.modDie k f).fns = s.fns := rfl
@[simp] theorem modDie_parts (s : State) (k : Nat) (f : Die → Die) : (s.modDie k f).parts = s.parts := rfl
@[simp] theorem modDie_pf (s : State) (k : Nat) (f : Die → Die) : (s.modDie k f).pf = s.pf := rfl
@[simp] theorem modDie_fabric (s : State) (k : Nat) (f : Die → Die) : (s.modDie k f).fabric = s.fabric := rfl
@[simp] theorem modDie_bad (s : State) (k : Nat) (f : Die → Die) : (s.modDie k f).bad = s.bad := rfl
@[simp] theorem modDie_frozenPup (s : State) (k : Nat) (f : Die → Die) : (s.modDie k f).frozenPup = s.frozenPup := rfl
@[simp] theorem modDie_frozenMgmt (s : State) (k : Nat) (f : Die → Die) : (s.modDie k f).frozenMgmt = s.frozenMgmt := rfl
@[simp] theorem modDie_viral (s : State) (k : Nat) (f : Die → Die) : (s.modDie k f).viral = s.viral := rfl
@[simp] theorem modDie_retiredWays (s : State) (k : Nat) (f : Die → Die) : (s.modDie k f).retiredWays = s.retiredWays := rfl
@[simp] theorem modDie_msix (s : State) (k : Nat) (f : Die → Die) : (s.modDie k f).msix = s.msix := rfl
@[simp] theorem modDie_held (s : State) (k : Nat) (f : Die → Die) : (s.modDie k f).held = s.held := rfl

/-! `modFn`. -/

@[simp] theorem modFn_units (s : State) (k : Nat) (f : Fn → Fn) : (s.modFn k f).units = s.units := rfl
@[simp] theorem modFn_agenda (s : State) (k : Nat) (f : Fn → Fn) : (s.modFn k f).agenda = s.agenda := rfl
@[simp] theorem modFn_cur (s : State) (k : Nat) (f : Fn → Fn) : (s.modFn k f).cur = s.cur := rfl
@[simp] theorem modFn_nextId (s : State) (k : Nat) (f : Fn → Fn) : (s.modFn k f).nextId = s.nextId := rfl
@[simp] theorem modFn_bundleSeq (s : State) (k : Nat) (f : Fn → Fn) : (s.modFn k f).bundleSeq = s.bundleSeq := rfl
@[simp] theorem modFn_free (s : State) (k : Nat) (f : Fn → Fn) : (s.modFn k f).free = s.free := rfl
@[simp] theorem modFn_mem (s : State) (k : Nat) (f : Fn → Fn) : (s.modFn k f).mem = s.mem := rfl
@[simp] theorem modFn_poison (s : State) (k : Nat) (f : Fn → Fn) : (s.modFn k f).poison = s.poison := rfl
@[simp] theorem modFn_ddr (s : State) (k : Nat) (f : Fn → Fn) : (s.modFn k f).ddr = s.ddr := rfl
@[simp] theorem modFn_groups (s : State) (k : Nat) (f : Fn → Fn) : (s.modFn k f).groups = s.groups := rfl
@[simp] theorem modFn_teams (s : State) (k : Nat) (f : Fn → Fn) : (s.modFn k f).teams = s.teams := rfl
@[simp] theorem modFn_gangs (s : State) (k : Nat) (f : Fn → Fn) : (s.modFn k f).gangs = s.gangs := rfl
@[simp] theorem modFn_launches (s : State) (k : Nat) (f : Fn → Fn) : (s.modFn k f).launches = s.launches := rfl
@[simp] theorem modFn_subs (s : State) (k : Nat) (f : Fn → Fn) : (s.modFn k f).subs = s.subs := rfl
@[simp] theorem modFn_contexts (s : State) (k : Nat) (f : Fn → Fn) : (s.modFn k f).contexts = s.contexts := rfl
@[simp] theorem modFn_runs (s : State) (k : Nat) (f : Fn → Fn) : (s.modFn k f).runs = s.runs := rfl
@[simp] theorem modFn_ops (s : State) (k : Nat) (f : Fn → Fn) : (s.modFn k f).ops = s.ops := rfl
@[simp] theorem modFn_entries (s : State) (k : Nat) (f : Fn → Fn) : (s.modFn k f).entries = s.entries := rfl
@[simp] theorem modFn_passes (s : State) (k : Nat) (f : Fn → Fn) : (s.modFn k f).passes = s.passes := rfl
@[simp] theorem modFn_acc (s : State) (k : Nat) (f : Fn → Fn) : (s.modFn k f).acc = s.acc := rfl
@[simp] theorem modFn_quads (s : State) (k : Nat) (f : Fn → Fn) : (s.modFn k f).quads = s.quads := rfl
@[simp] theorem modFn_cores (s : State) (k : Nat) (f : Fn → Fn) : (s.modFn k f).cores = s.cores := rfl
@[simp] theorem modFn_dies (s : State) (k : Nat) (f : Fn → Fn) : (s.modFn k f).dies = s.dies := rfl
@[simp] theorem modFn_queues (s : State) (k : Nat) (f : Fn → Fn) : (s.modFn k f).queues = s.queues := rfl
@[simp] theorem modFn_tlb (s : State) (k : Nat) (f : Fn → Fn) : (s.modFn k f).tlb = s.tlb := rfl
@[simp] theorem modFn_walkCache (s : State) (k : Nat) (f : Fn → Fn) : (s.modFn k f).walkCache = s.walkCache := rfl
@[simp] theorem modFn_walks (s : State) (k : Nat) (f : Fn → Fn) : (s.modFn k f).walks = s.walks := rfl
@[simp] theorem modFn_misses (s : State) (k : Nat) (f : Fn → Fn) : (s.modFn k f).misses = s.misses := rfl
@[simp] theorem modFn_ats (s : State) (k : Nat) (f : Fn → Fn) : (s.modFn k f).ats = s.ats := rfl
@[simp] theorem modFn_atsInvals (s : State) (k : Nat) (f : Fn → Fn) : (s.modFn k f).atsInvals = s.atsInvals := rfl
@[simp] theorem modFn_atsDone (s : State) (k : Nat) (f : Fn → Fn) : (s.modFn k f).atsDone = s.atsDone := rfl
@[simp] theorem modFn_granules (s : State) (k : Nat) (f : Fn → Fn) : (s.modFn k f).granules = s.granules := rfl
@[simp] theorem modFn_lines (s : State) (k : Nat) (f : Fn → Fn) : (s.modFn k f).lines = s.lines := rfl
@[simp] theorem modFn_home (s : State) (k : Nat) (f : Fn → Fn) : (s.modFn k f).home = s.home := rfl
@[simp] theorem modFn_fifo (s : State) (k : Nat) (f : Fn → Fn) : (s.modFn k f).fifo = s.fifo := rfl
@[simp] theorem modFn_dirErrors (s : State) (k : Nat) (f : Fn → Fn) : (s.modFn k f).dirErrors = s.dirErrors := rfl
@[simp] theorem modFn_toHost (s : State) (k : Nat) (f : Fn → Fn) : (s.modFn k f).toHost = s.toHost := rfl
@[simp] theorem modFn_lost (s : State) (k : Nat) (f : Fn → Fn) : (s.modFn k f).lost = s.lost := rfl
@[simp] theorem modFn_parts (s : State) (k : Nat) (f : Fn → Fn) : (s.modFn k f).parts = s.parts := rfl
@[simp] theorem modFn_pf (s : State) (k : Nat) (f : Fn → Fn) : (s.modFn k f).pf = s.pf := rfl
@[simp] theorem modFn_fabric (s : State) (k : Nat) (f : Fn → Fn) : (s.modFn k f).fabric = s.fabric := rfl
@[simp] theorem modFn_bad (s : State) (k : Nat) (f : Fn → Fn) : (s.modFn k f).bad = s.bad := rfl
@[simp] theorem modFn_frozenPup (s : State) (k : Nat) (f : Fn → Fn) : (s.modFn k f).frozenPup = s.frozenPup := rfl
@[simp] theorem modFn_frozenMgmt (s : State) (k : Nat) (f : Fn → Fn) : (s.modFn k f).frozenMgmt = s.frozenMgmt := rfl
@[simp] theorem modFn_viral (s : State) (k : Nat) (f : Fn → Fn) : (s.modFn k f).viral = s.viral := rfl
@[simp] theorem modFn_retiredWays (s : State) (k : Nat) (f : Fn → Fn) : (s.modFn k f).retiredWays = s.retiredWays := rfl
@[simp] theorem modFn_msix (s : State) (k : Nat) (f : Fn → Fn) : (s.modFn k f).msix = s.msix := rfl
@[simp] theorem modFn_held (s : State) (k : Nat) (f : Fn → Fn) : (s.modFn k f).held = s.held := rfl

/-! `modPart`. -/

@[simp] theorem modPart_units (s : State) (k : Nat) (f : Part → Part) : (s.modPart k f).units = s.units := rfl
@[simp] theorem modPart_agenda (s : State) (k : Nat) (f : Part → Part) : (s.modPart k f).agenda = s.agenda := rfl
@[simp] theorem modPart_cur (s : State) (k : Nat) (f : Part → Part) : (s.modPart k f).cur = s.cur := rfl
@[simp] theorem modPart_nextId (s : State) (k : Nat) (f : Part → Part) : (s.modPart k f).nextId = s.nextId := rfl
@[simp] theorem modPart_bundleSeq (s : State) (k : Nat) (f : Part → Part) : (s.modPart k f).bundleSeq = s.bundleSeq := rfl
@[simp] theorem modPart_free (s : State) (k : Nat) (f : Part → Part) : (s.modPart k f).free = s.free := rfl
@[simp] theorem modPart_mem (s : State) (k : Nat) (f : Part → Part) : (s.modPart k f).mem = s.mem := rfl
@[simp] theorem modPart_poison (s : State) (k : Nat) (f : Part → Part) : (s.modPart k f).poison = s.poison := rfl
@[simp] theorem modPart_ddr (s : State) (k : Nat) (f : Part → Part) : (s.modPart k f).ddr = s.ddr := rfl
@[simp] theorem modPart_groups (s : State) (k : Nat) (f : Part → Part) : (s.modPart k f).groups = s.groups := rfl
@[simp] theorem modPart_teams (s : State) (k : Nat) (f : Part → Part) : (s.modPart k f).teams = s.teams := rfl
@[simp] theorem modPart_gangs (s : State) (k : Nat) (f : Part → Part) : (s.modPart k f).gangs = s.gangs := rfl
@[simp] theorem modPart_launches (s : State) (k : Nat) (f : Part → Part) : (s.modPart k f).launches = s.launches := rfl
@[simp] theorem modPart_subs (s : State) (k : Nat) (f : Part → Part) : (s.modPart k f).subs = s.subs := rfl
@[simp] theorem modPart_contexts (s : State) (k : Nat) (f : Part → Part) : (s.modPart k f).contexts = s.contexts := rfl
@[simp] theorem modPart_runs (s : State) (k : Nat) (f : Part → Part) : (s.modPart k f).runs = s.runs := rfl
@[simp] theorem modPart_ops (s : State) (k : Nat) (f : Part → Part) : (s.modPart k f).ops = s.ops := rfl
@[simp] theorem modPart_entries (s : State) (k : Nat) (f : Part → Part) : (s.modPart k f).entries = s.entries := rfl
@[simp] theorem modPart_passes (s : State) (k : Nat) (f : Part → Part) : (s.modPart k f).passes = s.passes := rfl
@[simp] theorem modPart_acc (s : State) (k : Nat) (f : Part → Part) : (s.modPart k f).acc = s.acc := rfl
@[simp] theorem modPart_quads (s : State) (k : Nat) (f : Part → Part) : (s.modPart k f).quads = s.quads := rfl
@[simp] theorem modPart_cores (s : State) (k : Nat) (f : Part → Part) : (s.modPart k f).cores = s.cores := rfl
@[simp] theorem modPart_dies (s : State) (k : Nat) (f : Part → Part) : (s.modPart k f).dies = s.dies := rfl
@[simp] theorem modPart_queues (s : State) (k : Nat) (f : Part → Part) : (s.modPart k f).queues = s.queues := rfl
@[simp] theorem modPart_tlb (s : State) (k : Nat) (f : Part → Part) : (s.modPart k f).tlb = s.tlb := rfl
@[simp] theorem modPart_walkCache (s : State) (k : Nat) (f : Part → Part) : (s.modPart k f).walkCache = s.walkCache := rfl
@[simp] theorem modPart_walks (s : State) (k : Nat) (f : Part → Part) : (s.modPart k f).walks = s.walks := rfl
@[simp] theorem modPart_misses (s : State) (k : Nat) (f : Part → Part) : (s.modPart k f).misses = s.misses := rfl
@[simp] theorem modPart_ats (s : State) (k : Nat) (f : Part → Part) : (s.modPart k f).ats = s.ats := rfl
@[simp] theorem modPart_atsInvals (s : State) (k : Nat) (f : Part → Part) : (s.modPart k f).atsInvals = s.atsInvals := rfl
@[simp] theorem modPart_atsDone (s : State) (k : Nat) (f : Part → Part) : (s.modPart k f).atsDone = s.atsDone := rfl
@[simp] theorem modPart_granules (s : State) (k : Nat) (f : Part → Part) : (s.modPart k f).granules = s.granules := rfl
@[simp] theorem modPart_lines (s : State) (k : Nat) (f : Part → Part) : (s.modPart k f).lines = s.lines := rfl
@[simp] theorem modPart_home (s : State) (k : Nat) (f : Part → Part) : (s.modPart k f).home = s.home := rfl
@[simp] theorem modPart_fifo (s : State) (k : Nat) (f : Part → Part) : (s.modPart k f).fifo = s.fifo := rfl
@[simp] theorem modPart_dirErrors (s : State) (k : Nat) (f : Part → Part) : (s.modPart k f).dirErrors = s.dirErrors := rfl
@[simp] theorem modPart_toHost (s : State) (k : Nat) (f : Part → Part) : (s.modPart k f).toHost = s.toHost := rfl
@[simp] theorem modPart_lost (s : State) (k : Nat) (f : Part → Part) : (s.modPart k f).lost = s.lost := rfl
@[simp] theorem modPart_fns (s : State) (k : Nat) (f : Part → Part) : (s.modPart k f).fns = s.fns := rfl
@[simp] theorem modPart_pf (s : State) (k : Nat) (f : Part → Part) : (s.modPart k f).pf = s.pf := rfl
@[simp] theorem modPart_fabric (s : State) (k : Nat) (f : Part → Part) : (s.modPart k f).fabric = s.fabric := rfl
@[simp] theorem modPart_bad (s : State) (k : Nat) (f : Part → Part) : (s.modPart k f).bad = s.bad := rfl
@[simp] theorem modPart_frozenPup (s : State) (k : Nat) (f : Part → Part) : (s.modPart k f).frozenPup = s.frozenPup := rfl
@[simp] theorem modPart_frozenMgmt (s : State) (k : Nat) (f : Part → Part) : (s.modPart k f).frozenMgmt = s.frozenMgmt := rfl
@[simp] theorem modPart_viral (s : State) (k : Nat) (f : Part → Part) : (s.modPart k f).viral = s.viral := rfl
@[simp] theorem modPart_retiredWays (s : State) (k : Nat) (f : Part → Part) : (s.modPart k f).retiredWays = s.retiredWays := rfl
@[simp] theorem modPart_msix (s : State) (k : Nat) (f : Part → Part) : (s.modPart k f).msix = s.msix := rfl
@[simp] theorem modPart_held (s : State) (k : Nat) (f : Part → Part) : (s.modPart k f).held = s.held := rfl

/-! `modFabric`. -/

@[simp] theorem modFabric_units (s : State) (f : Fabric → Fabric) : (s.modFabric f).units = s.units := rfl
@[simp] theorem modFabric_agenda (s : State) (f : Fabric → Fabric) : (s.modFabric f).agenda = s.agenda := rfl
@[simp] theorem modFabric_cur (s : State) (f : Fabric → Fabric) : (s.modFabric f).cur = s.cur := rfl
@[simp] theorem modFabric_nextId (s : State) (f : Fabric → Fabric) : (s.modFabric f).nextId = s.nextId := rfl
@[simp] theorem modFabric_bundleSeq (s : State) (f : Fabric → Fabric) : (s.modFabric f).bundleSeq = s.bundleSeq := rfl
@[simp] theorem modFabric_free (s : State) (f : Fabric → Fabric) : (s.modFabric f).free = s.free := rfl
@[simp] theorem modFabric_mem (s : State) (f : Fabric → Fabric) : (s.modFabric f).mem = s.mem := rfl
@[simp] theorem modFabric_poison (s : State) (f : Fabric → Fabric) : (s.modFabric f).poison = s.poison := rfl
@[simp] theorem modFabric_ddr (s : State) (f : Fabric → Fabric) : (s.modFabric f).ddr = s.ddr := rfl
@[simp] theorem modFabric_groups (s : State) (f : Fabric → Fabric) : (s.modFabric f).groups = s.groups := rfl
@[simp] theorem modFabric_teams (s : State) (f : Fabric → Fabric) : (s.modFabric f).teams = s.teams := rfl
@[simp] theorem modFabric_gangs (s : State) (f : Fabric → Fabric) : (s.modFabric f).gangs = s.gangs := rfl
@[simp] theorem modFabric_launches (s : State) (f : Fabric → Fabric) : (s.modFabric f).launches = s.launches := rfl
@[simp] theorem modFabric_subs (s : State) (f : Fabric → Fabric) : (s.modFabric f).subs = s.subs := rfl
@[simp] theorem modFabric_contexts (s : State) (f : Fabric → Fabric) : (s.modFabric f).contexts = s.contexts := rfl
@[simp] theorem modFabric_runs (s : State) (f : Fabric → Fabric) : (s.modFabric f).runs = s.runs := rfl
@[simp] theorem modFabric_ops (s : State) (f : Fabric → Fabric) : (s.modFabric f).ops = s.ops := rfl
@[simp] theorem modFabric_entries (s : State) (f : Fabric → Fabric) : (s.modFabric f).entries = s.entries := rfl
@[simp] theorem modFabric_passes (s : State) (f : Fabric → Fabric) : (s.modFabric f).passes = s.passes := rfl
@[simp] theorem modFabric_acc (s : State) (f : Fabric → Fabric) : (s.modFabric f).acc = s.acc := rfl
@[simp] theorem modFabric_quads (s : State) (f : Fabric → Fabric) : (s.modFabric f).quads = s.quads := rfl
@[simp] theorem modFabric_cores (s : State) (f : Fabric → Fabric) : (s.modFabric f).cores = s.cores := rfl
@[simp] theorem modFabric_dies (s : State) (f : Fabric → Fabric) : (s.modFabric f).dies = s.dies := rfl
@[simp] theorem modFabric_queues (s : State) (f : Fabric → Fabric) : (s.modFabric f).queues = s.queues := rfl
@[simp] theorem modFabric_tlb (s : State) (f : Fabric → Fabric) : (s.modFabric f).tlb = s.tlb := rfl
@[simp] theorem modFabric_walkCache (s : State) (f : Fabric → Fabric) : (s.modFabric f).walkCache = s.walkCache := rfl
@[simp] theorem modFabric_walks (s : State) (f : Fabric → Fabric) : (s.modFabric f).walks = s.walks := rfl
@[simp] theorem modFabric_misses (s : State) (f : Fabric → Fabric) : (s.modFabric f).misses = s.misses := rfl
@[simp] theorem modFabric_ats (s : State) (f : Fabric → Fabric) : (s.modFabric f).ats = s.ats := rfl
@[simp] theorem modFabric_atsInvals (s : State) (f : Fabric → Fabric) : (s.modFabric f).atsInvals = s.atsInvals := rfl
@[simp] theorem modFabric_atsDone (s : State) (f : Fabric → Fabric) : (s.modFabric f).atsDone = s.atsDone := rfl
@[simp] theorem modFabric_granules (s : State) (f : Fabric → Fabric) : (s.modFabric f).granules = s.granules := rfl
@[simp] theorem modFabric_lines (s : State) (f : Fabric → Fabric) : (s.modFabric f).lines = s.lines := rfl
@[simp] theorem modFabric_home (s : State) (f : Fabric → Fabric) : (s.modFabric f).home = s.home := rfl
@[simp] theorem modFabric_fifo (s : State) (f : Fabric → Fabric) : (s.modFabric f).fifo = s.fifo := rfl
@[simp] theorem modFabric_dirErrors (s : State) (f : Fabric → Fabric) : (s.modFabric f).dirErrors = s.dirErrors := rfl
@[simp] theorem modFabric_toHost (s : State) (f : Fabric → Fabric) : (s.modFabric f).toHost = s.toHost := rfl
@[simp] theorem modFabric_lost (s : State) (f : Fabric → Fabric) : (s.modFabric f).lost = s.lost := rfl
@[simp] theorem modFabric_fns (s : State) (f : Fabric → Fabric) : (s.modFabric f).fns = s.fns := rfl
@[simp] theorem modFabric_parts (s : State) (f : Fabric → Fabric) : (s.modFabric f).parts = s.parts := rfl
@[simp] theorem modFabric_pf (s : State) (f : Fabric → Fabric) : (s.modFabric f).pf = s.pf := rfl
@[simp] theorem modFabric_bad (s : State) (f : Fabric → Fabric) : (s.modFabric f).bad = s.bad := rfl
@[simp] theorem modFabric_frozenPup (s : State) (f : Fabric → Fabric) : (s.modFabric f).frozenPup = s.frozenPup := rfl
@[simp] theorem modFabric_frozenMgmt (s : State) (f : Fabric → Fabric) : (s.modFabric f).frozenMgmt = s.frozenMgmt := rfl
@[simp] theorem modFabric_viral (s : State) (f : Fabric → Fabric) : (s.modFabric f).viral = s.viral := rfl
@[simp] theorem modFabric_retiredWays (s : State) (f : Fabric → Fabric) : (s.modFabric f).retiredWays = s.retiredWays := rfl
@[simp] theorem modFabric_msix (s : State) (f : Fabric → Fabric) : (s.modFabric f).msix = s.msix := rfl
@[simp] theorem modFabric_held (s : State) (f : Fabric → Fabric) : (s.modFabric f).held = s.held := rfl

/-! `wake`. -/

@[simp] theorem wake_units (s : State) : (s.wake).units = s.units := rfl
@[simp] theorem wake_agenda (s : State) : (s.wake).agenda = s.agenda := rfl
@[simp] theorem wake_cur (s : State) : (s.wake).cur = s.cur := rfl
@[simp] theorem wake_nextId (s : State) : (s.wake).nextId = s.nextId := rfl
@[simp] theorem wake_bundleSeq (s : State) : (s.wake).bundleSeq = s.bundleSeq := rfl
@[simp] theorem wake_free (s : State) : (s.wake).free = s.free := rfl
@[simp] theorem wake_mem (s : State) : (s.wake).mem = s.mem := rfl
@[simp] theorem wake_poison (s : State) : (s.wake).poison = s.poison := rfl
@[simp] theorem wake_ddr (s : State) : (s.wake).ddr = s.ddr := rfl
@[simp] theorem wake_groups (s : State) : (s.wake).groups = s.groups := rfl
@[simp] theorem wake_teams (s : State) : (s.wake).teams = s.teams := rfl
@[simp] theorem wake_gangs (s : State) : (s.wake).gangs = s.gangs := rfl
@[simp] theorem wake_launches (s : State) : (s.wake).launches = s.launches := rfl
@[simp] theorem wake_subs (s : State) : (s.wake).subs = s.subs := rfl
@[simp] theorem wake_contexts (s : State) : (s.wake).contexts = s.contexts := rfl
@[simp] theorem wake_ops (s : State) : (s.wake).ops = s.ops := rfl
@[simp] theorem wake_entries (s : State) : (s.wake).entries = s.entries := rfl
@[simp] theorem wake_passes (s : State) : (s.wake).passes = s.passes := rfl
@[simp] theorem wake_acc (s : State) : (s.wake).acc = s.acc := rfl
@[simp] theorem wake_quads (s : State) : (s.wake).quads = s.quads := rfl
@[simp] theorem wake_cores (s : State) : (s.wake).cores = s.cores := rfl
@[simp] theorem wake_dies (s : State) : (s.wake).dies = s.dies := rfl
@[simp] theorem wake_queues (s : State) : (s.wake).queues = s.queues := rfl
@[simp] theorem wake_tlb (s : State) : (s.wake).tlb = s.tlb := rfl
@[simp] theorem wake_walkCache (s : State) : (s.wake).walkCache = s.walkCache := rfl
@[simp] theorem wake_walks (s : State) : (s.wake).walks = s.walks := rfl
@[simp] theorem wake_misses (s : State) : (s.wake).misses = s.misses := rfl
@[simp] theorem wake_ats (s : State) : (s.wake).ats = s.ats := rfl
@[simp] theorem wake_atsInvals (s : State) : (s.wake).atsInvals = s.atsInvals := rfl
@[simp] theorem wake_atsDone (s : State) : (s.wake).atsDone = s.atsDone := rfl
@[simp] theorem wake_granules (s : State) : (s.wake).granules = s.granules := rfl
@[simp] theorem wake_lines (s : State) : (s.wake).lines = s.lines := rfl
@[simp] theorem wake_home (s : State) : (s.wake).home = s.home := rfl
@[simp] theorem wake_fifo (s : State) : (s.wake).fifo = s.fifo := rfl
@[simp] theorem wake_dirErrors (s : State) : (s.wake).dirErrors = s.dirErrors := rfl
@[simp] theorem wake_toHost (s : State) : (s.wake).toHost = s.toHost := rfl
@[simp] theorem wake_lost (s : State) : (s.wake).lost = s.lost := rfl
@[simp] theorem wake_fns (s : State) : (s.wake).fns = s.fns := rfl
@[simp] theorem wake_parts (s : State) : (s.wake).parts = s.parts := rfl
@[simp] theorem wake_pf (s : State) : (s.wake).pf = s.pf := rfl
@[simp] theorem wake_fabric (s : State) : (s.wake).fabric = s.fabric := rfl
@[simp] theorem wake_bad (s : State) : (s.wake).bad = s.bad := rfl
@[simp] theorem wake_frozenPup (s : State) : (s.wake).frozenPup = s.frozenPup := rfl
@[simp] theorem wake_frozenMgmt (s : State) : (s.wake).frozenMgmt = s.frozenMgmt := rfl
@[simp] theorem wake_viral (s : State) : (s.wake).viral = s.viral := rfl
@[simp] theorem wake_retiredWays (s : State) : (s.wake).retiredWays = s.retiredWays := rfl
@[simp] theorem wake_msix (s : State) : (s.wake).msix = s.msix := rfl
@[simp] theorem wake_held (s : State) : (s.wake).held = s.held := rfl

/-! `setGranule`. -/

@[simp] theorem setGranule_units (s : State) (k : Nat) (x : GState) : (s.setGranule k x).units = s.units := rfl
@[simp] theorem setGranule_agenda (s : State) (k : Nat) (x : GState) : (s.setGranule k x).agenda = s.agenda := rfl
@[simp] theorem setGranule_cur (s : State) (k : Nat) (x : GState) : (s.setGranule k x).cur = s.cur := rfl
@[simp] theorem setGranule_nextId (s : State) (k : Nat) (x : GState) : (s.setGranule k x).nextId = s.nextId := rfl
@[simp] theorem setGranule_bundleSeq (s : State) (k : Nat) (x : GState) : (s.setGranule k x).bundleSeq = s.bundleSeq := rfl
@[simp] theorem setGranule_free (s : State) (k : Nat) (x : GState) : (s.setGranule k x).free = s.free := rfl
@[simp] theorem setGranule_mem (s : State) (k : Nat) (x : GState) : (s.setGranule k x).mem = s.mem := rfl
@[simp] theorem setGranule_poison (s : State) (k : Nat) (x : GState) : (s.setGranule k x).poison = s.poison := rfl
@[simp] theorem setGranule_ddr (s : State) (k : Nat) (x : GState) : (s.setGranule k x).ddr = s.ddr := rfl
@[simp] theorem setGranule_groups (s : State) (k : Nat) (x : GState) : (s.setGranule k x).groups = s.groups := rfl
@[simp] theorem setGranule_teams (s : State) (k : Nat) (x : GState) : (s.setGranule k x).teams = s.teams := rfl
@[simp] theorem setGranule_gangs (s : State) (k : Nat) (x : GState) : (s.setGranule k x).gangs = s.gangs := rfl
@[simp] theorem setGranule_launches (s : State) (k : Nat) (x : GState) : (s.setGranule k x).launches = s.launches := rfl
@[simp] theorem setGranule_subs (s : State) (k : Nat) (x : GState) : (s.setGranule k x).subs = s.subs := rfl
@[simp] theorem setGranule_contexts (s : State) (k : Nat) (x : GState) : (s.setGranule k x).contexts = s.contexts := rfl
@[simp] theorem setGranule_runs (s : State) (k : Nat) (x : GState) : (s.setGranule k x).runs = s.runs := rfl
@[simp] theorem setGranule_ops (s : State) (k : Nat) (x : GState) : (s.setGranule k x).ops = s.ops := rfl
@[simp] theorem setGranule_entries (s : State) (k : Nat) (x : GState) : (s.setGranule k x).entries = s.entries := rfl
@[simp] theorem setGranule_passes (s : State) (k : Nat) (x : GState) : (s.setGranule k x).passes = s.passes := rfl
@[simp] theorem setGranule_acc (s : State) (k : Nat) (x : GState) : (s.setGranule k x).acc = s.acc := rfl
@[simp] theorem setGranule_quads (s : State) (k : Nat) (x : GState) : (s.setGranule k x).quads = s.quads := rfl
@[simp] theorem setGranule_cores (s : State) (k : Nat) (x : GState) : (s.setGranule k x).cores = s.cores := rfl
@[simp] theorem setGranule_dies (s : State) (k : Nat) (x : GState) : (s.setGranule k x).dies = s.dies := rfl
@[simp] theorem setGranule_queues (s : State) (k : Nat) (x : GState) : (s.setGranule k x).queues = s.queues := rfl
@[simp] theorem setGranule_tlb (s : State) (k : Nat) (x : GState) : (s.setGranule k x).tlb = s.tlb := rfl
@[simp] theorem setGranule_walkCache (s : State) (k : Nat) (x : GState) : (s.setGranule k x).walkCache = s.walkCache := rfl
@[simp] theorem setGranule_walks (s : State) (k : Nat) (x : GState) : (s.setGranule k x).walks = s.walks := rfl
@[simp] theorem setGranule_misses (s : State) (k : Nat) (x : GState) : (s.setGranule k x).misses = s.misses := rfl
@[simp] theorem setGranule_ats (s : State) (k : Nat) (x : GState) : (s.setGranule k x).ats = s.ats := rfl
@[simp] theorem setGranule_atsInvals (s : State) (k : Nat) (x : GState) : (s.setGranule k x).atsInvals = s.atsInvals := rfl
@[simp] theorem setGranule_atsDone (s : State) (k : Nat) (x : GState) : (s.setGranule k x).atsDone = s.atsDone := rfl
@[simp] theorem setGranule_lines (s : State) (k : Nat) (x : GState) : (s.setGranule k x).lines = s.lines := rfl
@[simp] theorem setGranule_home (s : State) (k : Nat) (x : GState) : (s.setGranule k x).home = s.home := rfl
@[simp] theorem setGranule_fifo (s : State) (k : Nat) (x : GState) : (s.setGranule k x).fifo = s.fifo := rfl
@[simp] theorem setGranule_dirErrors (s : State) (k : Nat) (x : GState) : (s.setGranule k x).dirErrors = s.dirErrors := rfl
@[simp] theorem setGranule_toHost (s : State) (k : Nat) (x : GState) : (s.setGranule k x).toHost = s.toHost := rfl
@[simp] theorem setGranule_lost (s : State) (k : Nat) (x : GState) : (s.setGranule k x).lost = s.lost := rfl
@[simp] theorem setGranule_fns (s : State) (k : Nat) (x : GState) : (s.setGranule k x).fns = s.fns := rfl
@[simp] theorem setGranule_parts (s : State) (k : Nat) (x : GState) : (s.setGranule k x).parts = s.parts := rfl
@[simp] theorem setGranule_pf (s : State) (k : Nat) (x : GState) : (s.setGranule k x).pf = s.pf := rfl
@[simp] theorem setGranule_fabric (s : State) (k : Nat) (x : GState) : (s.setGranule k x).fabric = s.fabric := rfl
@[simp] theorem setGranule_bad (s : State) (k : Nat) (x : GState) : (s.setGranule k x).bad = s.bad := rfl
@[simp] theorem setGranule_frozenPup (s : State) (k : Nat) (x : GState) : (s.setGranule k x).frozenPup = s.frozenPup := rfl
@[simp] theorem setGranule_frozenMgmt (s : State) (k : Nat) (x : GState) : (s.setGranule k x).frozenMgmt = s.frozenMgmt := rfl
@[simp] theorem setGranule_viral (s : State) (k : Nat) (x : GState) : (s.setGranule k x).viral = s.viral := rfl
@[simp] theorem setGranule_retiredWays (s : State) (k : Nat) (x : GState) : (s.setGranule k x).retiredWays = s.retiredWays := rfl
@[simp] theorem setGranule_msix (s : State) (k : Nat) (x : GState) : (s.setGranule k x).msix = s.msix := rfl
@[simp] theorem setGranule_held (s : State) (k : Nat) (x : GState) : (s.setGranule k x).held = s.held := rfl

/-! `signal`. -/

@[simp] theorem signal_units (s : State) (k v : Nat) : (s.signal k v).units = s.units := by
  unfold State.signal State.violate; dsimp only; repeat' split
  all_goals rfl
@[simp] theorem signal_agenda (s : State) (k v : Nat) : (s.signal k v).agenda = s.agenda := by
  unfold State.signal State.violate; dsimp only; repeat' split
  all_goals rfl
@[simp] theorem signal_cur (s : State) (k v : Nat) : (s.signal k v).cur = s.cur := by
  unfold State.signal State.violate; dsimp only; repeat' split
  all_goals rfl
@[simp] theorem signal_nextId (s : State) (k v : Nat) : (s.signal k v).nextId = s.nextId := by
  unfold State.signal State.violate; dsimp only; repeat' split
  all_goals rfl
@[simp] theorem signal_bundleSeq (s : State) (k v : Nat) : (s.signal k v).bundleSeq = s.bundleSeq := by
  unfold State.signal State.violate; dsimp only; repeat' split
  all_goals rfl
@[simp] theorem signal_free (s : State) (k v : Nat) : (s.signal k v).free = s.free := by
  unfold State.signal State.violate; dsimp only; repeat' split
  all_goals rfl
@[simp] theorem signal_mem (s : State) (k v : Nat) : (s.signal k v).mem = s.mem := by
  unfold State.signal State.violate; dsimp only; repeat' split
  all_goals rfl
@[simp] theorem signal_poison (s : State) (k v : Nat) : (s.signal k v).poison = s.poison := by
  unfold State.signal State.violate; dsimp only; repeat' split
  all_goals rfl
@[simp] theorem signal_ddr (s : State) (k v : Nat) : (s.signal k v).ddr = s.ddr := by
  unfold State.signal State.violate; dsimp only; repeat' split
  all_goals rfl
@[simp] theorem signal_groups (s : State) (k v : Nat) : (s.signal k v).groups = s.groups := by
  unfold State.signal State.violate; dsimp only; repeat' split
  all_goals rfl
@[simp] theorem signal_teams (s : State) (k v : Nat) : (s.signal k v).teams = s.teams := by
  unfold State.signal State.violate; dsimp only; repeat' split
  all_goals rfl
@[simp] theorem signal_gangs (s : State) (k v : Nat) : (s.signal k v).gangs = s.gangs := by
  unfold State.signal State.violate; dsimp only; repeat' split
  all_goals rfl
@[simp] theorem signal_launches (s : State) (k v : Nat) : (s.signal k v).launches = s.launches := by
  unfold State.signal State.violate; dsimp only; repeat' split
  all_goals rfl
@[simp] theorem signal_subs (s : State) (k v : Nat) : (s.signal k v).subs = s.subs := by
  unfold State.signal State.violate; dsimp only; repeat' split
  all_goals rfl
@[simp] theorem signal_contexts (s : State) (k v : Nat) : (s.signal k v).contexts = s.contexts := by
  unfold State.signal State.violate; dsimp only; repeat' split
  all_goals rfl
@[simp] theorem signal_runs (s : State) (k v : Nat) : (s.signal k v).runs = s.runs := by
  unfold State.signal State.violate; dsimp only; repeat' split
  all_goals rfl
@[simp] theorem signal_ops (s : State) (k v : Nat) : (s.signal k v).ops = s.ops := by
  unfold State.signal State.violate; dsimp only; repeat' split
  all_goals rfl
@[simp] theorem signal_entries (s : State) (k v : Nat) : (s.signal k v).entries = s.entries := by
  unfold State.signal State.violate; dsimp only; repeat' split
  all_goals rfl
@[simp] theorem signal_passes (s : State) (k v : Nat) : (s.signal k v).passes = s.passes := by
  unfold State.signal State.violate; dsimp only; repeat' split
  all_goals rfl
@[simp] theorem signal_acc (s : State) (k v : Nat) : (s.signal k v).acc = s.acc := by
  unfold State.signal State.violate; dsimp only; repeat' split
  all_goals rfl
@[simp] theorem signal_quads (s : State) (k v : Nat) : (s.signal k v).quads = s.quads := by
  unfold State.signal State.violate; dsimp only; repeat' split
  all_goals rfl
@[simp] theorem signal_cores (s : State) (k v : Nat) : (s.signal k v).cores = s.cores := by
  unfold State.signal State.violate; dsimp only; repeat' split
  all_goals rfl
@[simp] theorem signal_queues (s : State) (k v : Nat) : (s.signal k v).queues = s.queues := by
  unfold State.signal State.violate; dsimp only; repeat' split
  all_goals rfl
@[simp] theorem signal_tlb (s : State) (k v : Nat) : (s.signal k v).tlb = s.tlb := by
  unfold State.signal State.violate; dsimp only; repeat' split
  all_goals rfl
@[simp] theorem signal_walkCache (s : State) (k v : Nat) : (s.signal k v).walkCache = s.walkCache := by
  unfold State.signal State.violate; dsimp only; repeat' split
  all_goals rfl
@[simp] theorem signal_walks (s : State) (k v : Nat) : (s.signal k v).walks = s.walks := by
  unfold State.signal State.violate; dsimp only; repeat' split
  all_goals rfl
@[simp] theorem signal_misses (s : State) (k v : Nat) : (s.signal k v).misses = s.misses := by
  unfold State.signal State.violate; dsimp only; repeat' split
  all_goals rfl
@[simp] theorem signal_ats (s : State) (k v : Nat) : (s.signal k v).ats = s.ats := by
  unfold State.signal State.violate; dsimp only; repeat' split
  all_goals rfl
@[simp] theorem signal_atsInvals (s : State) (k v : Nat) : (s.signal k v).atsInvals = s.atsInvals := by
  unfold State.signal State.violate; dsimp only; repeat' split
  all_goals rfl
@[simp] theorem signal_atsDone (s : State) (k v : Nat) : (s.signal k v).atsDone = s.atsDone := by
  unfold State.signal State.violate; dsimp only; repeat' split
  all_goals rfl
@[simp] theorem signal_granules (s : State) (k v : Nat) : (s.signal k v).granules = s.granules := by
  unfold State.signal State.violate; dsimp only; repeat' split
  all_goals rfl
@[simp] theorem signal_lines (s : State) (k v : Nat) : (s.signal k v).lines = s.lines := by
  unfold State.signal State.violate; dsimp only; repeat' split
  all_goals rfl
@[simp] theorem signal_home (s : State) (k v : Nat) : (s.signal k v).home = s.home := by
  unfold State.signal State.violate; dsimp only; repeat' split
  all_goals rfl
@[simp] theorem signal_fifo (s : State) (k v : Nat) : (s.signal k v).fifo = s.fifo := by
  unfold State.signal State.violate; dsimp only; repeat' split
  all_goals rfl
@[simp] theorem signal_dirErrors (s : State) (k v : Nat) : (s.signal k v).dirErrors = s.dirErrors := by
  unfold State.signal State.violate; dsimp only; repeat' split
  all_goals rfl
@[simp] theorem signal_toHost (s : State) (k v : Nat) : (s.signal k v).toHost = s.toHost := by
  unfold State.signal State.violate; dsimp only; repeat' split
  all_goals rfl
@[simp] theorem signal_lost (s : State) (k v : Nat) : (s.signal k v).lost = s.lost := by
  unfold State.signal State.violate; dsimp only; repeat' split
  all_goals rfl
@[simp] theorem signal_parts (s : State) (k v : Nat) : (s.signal k v).parts = s.parts := by
  unfold State.signal State.violate; dsimp only; repeat' split
  all_goals rfl
@[simp] theorem signal_pf (s : State) (k v : Nat) : (s.signal k v).pf = s.pf := by
  unfold State.signal State.violate; dsimp only; repeat' split
  all_goals rfl
@[simp] theorem signal_fabric (s : State) (k v : Nat) : (s.signal k v).fabric = s.fabric := by
  unfold State.signal State.violate; dsimp only; repeat' split
  all_goals rfl
@[simp] theorem signal_bad (s : State) (k v : Nat) : (s.signal k v).bad = s.bad := by
  unfold State.signal State.violate; dsimp only; repeat' split
  all_goals rfl
@[simp] theorem signal_viral (s : State) (k v : Nat) : (s.signal k v).viral = s.viral := by
  unfold State.signal State.violate; dsimp only; repeat' split
  all_goals rfl
@[simp] theorem signal_retiredWays (s : State) (k v : Nat) : (s.signal k v).retiredWays = s.retiredWays := by
  unfold State.signal State.violate; dsimp only; repeat' split
  all_goals rfl
@[simp] theorem signal_held (s : State) (k v : Nat) : (s.signal k v).held = s.held := by
  unfold State.signal State.violate; dsimp only; repeat' split
  all_goals rfl

/-! What an update makes of its own field. -/

theorem modGroup_find (s : State) (k : Nat) (f : Group → Group) : (s.modGroup k f).groups.find k = (s.groups.find k).map f :=
  Assoc.find_modify _ _ _
theorem modGroup_find_ne (s : State) {k i : Nat} (f : Group → Group) (h : i ≠ k) :
    (s.modGroup k f).groups.find i = s.groups.find i := Assoc.find_modify_ne _ _ h
theorem modTeam_find (s : State) (k : Nat) (f : Team → Team) : (s.modTeam k f).teams.find k = (s.teams.find k).map f :=
  Assoc.find_modify _ _ _
theorem modTeam_find_ne (s : State) {k i : Nat} (f : Team → Team) (h : i ≠ k) :
    (s.modTeam k f).teams.find i = s.teams.find i := Assoc.find_modify_ne _ _ h
theorem modGang_find (s : State) (k : Nat) (f : Gang → Gang) : (s.modGang k f).gangs.find k = (s.gangs.find k).map f :=
  Assoc.find_modify _ _ _
theorem modGang_find_ne (s : State) {k i : Nat} (f : Gang → Gang) (h : i ≠ k) :
    (s.modGang k f).gangs.find i = s.gangs.find i := Assoc.find_modify_ne _ _ h
theorem modLaunch_find (s : State) (k : Nat) (f : Launch → Launch) :
    (s.modLaunch k f).launches.find k = (s.launches.find k).map f := Assoc.find_modify _ _ _
theorem modLaunch_find_ne (s : State) {k i : Nat} (f : Launch → Launch) (h : i ≠ k) :
    (s.modLaunch k f).launches.find i = s.launches.find i := Assoc.find_modify_ne _ _ h
theorem modOp_find (s : State) (k : Nat) (f : VOp → VOp) : (s.modOp k f).ops.find k = (s.ops.find k).map f :=
  Assoc.find_modify _ _ _
theorem modOp_find_ne (s : State) {k i : Nat} (f : VOp → VOp) (h : i ≠ k) :
    (s.modOp k f).ops.find i = s.ops.find i := Assoc.find_modify_ne _ _ h
theorem modRun_find (s : State) (k : Nat) (f : Run → Run) : (s.modRun k f).runs.find k = (s.runs.find k).map f :=
  Assoc.find_modify _ _ _
theorem modRun_find_ne (s : State) {k i : Nat} (f : Run → Run) (h : i ≠ k) :
    (s.modRun k f).runs.find i = s.runs.find i := Assoc.find_modify_ne _ _ h
theorem modEntry_find (s : State) (k : Nat) (f : REntry → REntry) :
    (s.modEntry k f).entries.find k = (s.entries.find k).map f := Assoc.find_modify _ _ _
theorem modEntry_find_ne (s : State) {k i : Nat} (f : REntry → REntry) (h : i ≠ k) :
    (s.modEntry k f).entries.find i = s.entries.find i := Assoc.find_modify_ne _ _ h
theorem modPart_part (s : State) (k : Nat) (f : Part → Part) : (s.modPart k f).part k = (s.part k).map f :=
  Assoc.find_modify _ _ _
theorem modPart_part_ne (s : State) {k i : Nat} (f : Part → Part) (h : i ≠ k) : (s.modPart k f).part i = s.part i :=
  Assoc.find_modify_ne _ _ h
theorem modQuad_quad (s : State) (k : Nat) (f : Quad → Quad) : (s.modQuad k f).quad k = f (s.quad k) := by
  simp [State.quad, State.modQuad, Assoc.getD, Assoc.find_set]
theorem modQuad_quad_ne (s : State) {k i : Nat} (f : Quad → Quad) (h : i ≠ k) : (s.modQuad k f).quad i = s.quad i := by
  simp [State.quad, State.modQuad, Assoc.getD, Assoc.find_set_ne _ _ h]
theorem modQueue_queue (s : State) (k : Nat) (f : EQueue → EQueue) : (s.modQueue k f).queue k = f (s.queue k) := by
  simp [State.queue, State.modQueue, Assoc.getD, Assoc.find_set]
theorem modQueue_queue_ne (s : State) {k i : Nat} (f : EQueue → EQueue) (h : i ≠ k) : (s.modQueue k f).queue i = s.queue i := by
  simp [State.queue, State.modQueue, Assoc.getD, Assoc.find_set_ne _ _ h]
theorem modFn_fn (s : State) (k : Nat) (f : Fn → Fn) : (s.modFn k f).fn k = f (s.fn k) := by
  simp [State.fn, State.modFn, Assoc.getD, Assoc.find_set]
theorem modFn_fn_ne (s : State) {k i : Nat} (f : Fn → Fn) (h : i ≠ k) : (s.modFn k f).fn i = s.fn i := by
  simp [State.fn, State.modFn, Assoc.getD, Assoc.find_set_ne _ _ h]
theorem modCore_core (s : State) (k : Nat) (f : Core → Core) : (s.modCore k f).core k = f (s.core k) := by
  simp [State.core, State.modCore, Assoc.getD, Assoc.find_set]
theorem modCore_core_ne (s : State) {k i : Nat} (f : Core → Core) (h : i ≠ k) : (s.modCore k f).core i = s.core i := by
  simp [State.core, State.modCore, Assoc.getD, Assoc.find_set_ne _ _ h]
theorem modPort_port (s : State) (k : Nat) (f : Port → Port) : (s.modPort k f).port k = f (s.port k) := by
  simp [State.port, State.modPort, State.modFabric, Assoc.getD, Assoc.find_set]
theorem modPort_port_ne (s : State) {k i : Nat} (f : Port → Port) (h : i ≠ k) : (s.modPort k f).port i = s.port i := by
  simp [State.port, State.modPort, State.modFabric, Assoc.getD, Assoc.find_set_ne _ _ h]
theorem setGranule_find (s : State) (k : Nat) (x : GState) : (s.setGranule k x).granules.find k = some x := Assoc.find_set _ _ _
theorem setGranule_find_ne (s : State) {k i : Nat} (x : GState) (h : i ≠ k) :
    (s.setGranule k x).granules.find i = s.granules.find i := Assoc.find_set_ne _ _ h
theorem modFabric_fabric (s : State) (f : Fabric → Fabric) : (s.modFabric f).fabric = f s.fabric := rfl

end Sys2Proof.Machine
end

