-- ==== Sys2Proof/Laws/Memory.lean ====
section
/-! SUPPORT. What the operations of the memory system do: bytes of numbers, the recorder, the classification of an access,
writes, and the performance of lane accesses; all of them keep the canonical form of memory. -/

namespace Sys2Proof.Machine

open Sys2Proof

/-! Bytes of a number (00 R6). -/

@[simp] theorem bytesOfNat_length (n x : Nat) : (bytesOfNat n x).length = n := by
  induction n generalizing x with
  | zero => rfl
  | succ n ih => simp [bytesOfNat, ih]

theorem natOfBytes_bytesOfNat (n x : Nat) : natOfBytes (bytesOfNat n x) = x % 2 ^ (8 * n) := by
  induction n generalizing x with
  | zero => simp [bytesOfNat, natOfBytes, Nat.mod_one]
  | succ n ih =>
    have h : 2 ^ (8 * (n + 1)) = 256 * 2 ^ (8 * n) := by rw [Nat.mul_succ, Nat.pow_add]; omega
    simp only [bytesOfNat, natOfBytes, ih, BitVec.toNat_ofNat, h]
    rw [Nat.mod_mul]

theorem natOfBytes_lt (bs : List Byte) : natOfBytes bs < 2 ^ (8 * bs.length) := by
  induction bs with
  | nil => simp [natOfBytes]
  | cons b bs ih =>
    have h : 2 ^ (8 * (bs.length + 1)) = 256 * 2 ^ (8 * bs.length) := by rw [Nat.mul_succ, Nat.pow_add]; omega
    have hb := b.isLt
    simp only [natOfBytes, List.length_cons, h]
    omega

theorem bytesOfNat_natOfBytes (bs : List Byte) : bytesOfNat bs.length (natOfBytes bs) = bs := by
  induction bs with
  | nil => rfl
  | cons b bs ih =>
    have hb := b.isLt
    have h : (b.toNat + 256 * natOfBytes bs) / 256 = natOfBytes bs := by omega
    simp only [natOfBytes, List.length_cons, bytesOfNat, h, ih, List.cons.injEq, and_true]
    apply BitVec.eq_of_toNat_eq
    simp only [BitVec.toNat_ofNat]
    omega

/-! The recorder (19 R487, R488): it changes its own registers and the free count, may hold the move, and may kill the
launch. -/

/-- Some groups may have been killed; nothing else of them has changed. -/
def SameGroups (a b : Assoc Group) : Prop :=
  ∃ p : Group → Bool, b = a.map (fun e => (e.1, if p e.2 then { e.2 with killed := true } else e.2))

theorem SameGroups.refl (a : Assoc Group) : SameGroups a a := ⟨fun _ => false, by simp⟩

theorem SameGroups.find {a b : Assoc Group} (h : SameGroups a b) (k : Nat) :
    ∃ p : Group → Bool, b.find k = (a.find k).map (fun g => if p g then { g with killed := true } else g) := by
  obtain ⟨p, rfl⟩ := h
  exact ⟨p, Assoc.find_map a k (fun _ g => if p g then { g with killed := true } else g)⟩

/-- The registers of a function, but for those of the recorder, are the same. -/
def SameFn (a b : Fn) : Prop := ∃ u y l, b = { a with yout := u, ystat := y, ylog := l }

theorem SameFn.refl (a : Fn) : SameFn a a := ⟨a.yout, a.ystat, a.ylog, rfl⟩

theorem SameFn.trans {a b c : Fn} (h : SameFn a b) (k : SameFn b c) : SameFn a c := by
  obtain ⟨_, _, _, rfl⟩ := h
  obtain ⟨u, y, l, rfl⟩ := k
  exact ⟨u, y, l, rfl⟩

theorem SameFn.modFn (s : State) (f : Nat) {u : Fn → Fn} (h : ∀ x, SameFn x (u x)) (k : Nat) :
    SameFn (s.fn k) ((s.modFn f u).fn k) := by
  by_cases hk : k = f
  · subst hk; rw [modFn_fn]; exact h _
  · rw [modFn_fn_ne _ _ hk]; exact .refl _

/-- A launch that is killed: its tickets are dropped (17 R443). -/
def Launch.stopped (l : Launch) : Launch := { l with killed := true, ranges := l.ranges.map (fun r => { r with front := r.back }) }

/-- Some launches may have been killed; nothing else of them has changed. -/
def SameLaunches (a b : Assoc Launch) : Prop := ∀ k, b.find k = a.find k ∨ b.find k = (a.find k).map Launch.stopped

theorem SameLaunches.refl (a : Assoc Launch) : SameLaunches a a := fun _ => .inl rfl

theorem SameLaunches.part {a b : Assoc Launch} (h : SameLaunches a b) (k : Nat) :
    (b.find k).map (fun l => l.part) = (a.find k).map (fun l => l.part) := by
  rcases h k with e | e
  · rw [e]
  · rw [e]; cases a.find k <;> rfl

theorem killLaunch_frame (s : State) (l : Nat) :
    ∃ ls gs, s.killLaunch l = { s with launches := ls, groups := gs } ∧ SameLaunches s.launches ls ∧ SameGroups s.groups gs := by
  refine ⟨_, _, rfl, fun k => ?_, fun g => decide (g.launch = l), by simp [State.modLaunch]⟩
  by_cases h : k = l
  · subst h; exact .inr (Assoc.find_modify s.launches k Launch.stopped)
  · exact .inl (Assoc.find_modify_ne s.launches Launch.stopped h)

/-- What the recorder can do to a request. -/
def Recorded (s t : State) : Prop :=
  ∃ n f ls gs h, t = { s with free := n, fns := f, launches := ls, groups := gs, held := h } ∧
    (∀ k, SameFn (s.fn k) (f.getD k Fn.reset)) ∧ SameLaunches s.launches ls ∧ SameGroups s.groups gs

theorem Recorded.refl (s : State) : Recorded s s :=
  ⟨s.free, s.fns, s.launches, s.groups, s.held, rfl, fun _ => .refl _, .refl _, .refl _⟩

/-- The recorder changes a function's registers, and nothing else. -/
theorem Recorded.ofFn (s : State) (f n : Nat) (h : Bool) {u : Fn → Fn} (hu : ∀ x, SameFn x (u x)) :
    Recorded s ({ s with free := n, held := h }.modFn f u) :=
  ⟨n, _, s.launches, s.groups, h, rfl, SameFn.modFn s f hu, .refl _, .refl _⟩

theorem record_frame (s : State) (fn : Nat) (i : YItem) : Recorded s (s.record fn i) := by
  unfold State.record
  split
  · exact .refl s
  · refine Recorded.ofFn s fn s.free s.held (u := fun x =>
      if x.ysize.toNat < x.yused + x.yout.length + (Config.recordBytes i.fields).length then { x with ystat := x.ystat + 1 }
      else { x with yout := x.yout ++ Config.recordBytes i.fields }) (fun x => ?_)
    split
    · exact ⟨x.yout, _, x.ylog, rfl⟩
    · exact ⟨_, x.ystat, x.ylog, rfl⟩

theorem diverge_frame (s : State) (g : Group) : Recorded s (s.diverge g) := by
  have hu : ∀ x : Fn, SameFn x { x with ystat := if x.ystat / 2 % 2 = 1 then x.ystat else x.ystat + 2 } :=
    fun x => ⟨x.yout, _, x.ylog, rfl⟩
  obtain ⟨ls, gs, h, hl, hg⟩ := killLaunch_frame
    (s.modFn g.fn (fun x => { x with ystat := if x.ystat / 2 % 2 = 1 then x.ystat else x.ystat + 2 })) g.launch
  exact ⟨s.free, _, ls, gs, s.held, h, SameFn.modFn s g.fn hu, hl, hg⟩

theorem dropLog_frame (s : State) (fn : Nat) (p : YItem → Bool) :
    Recorded s (s.modFn fn (fun x => { x with ylog := dropFirst p x.ylog })) :=
  Recorded.ofFn s fn s.free s.held (fun x => ⟨x.yout, x.ystat, _, rfl⟩)

theorem order_frame (s : State) (g : Group) (kind place who : Nat) (payload : List Byte) :
    Recorded s (s.order g kind place who payload) := by
  unfold State.order
  split
  · exact record_frame ..
  · split
    · dsimp only
      split
      · exact ⟨s.free, s.fns, s.launches, s.groups, true, rfl, fun _ => .refl _, .refl _, .refl _⟩
      · split
        · exact dropLog_frame ..
        · exact diverge_frame s g
    · exact .refl s

theorem yAfter_frame (s : State) (g : Group) (what L live : Nat) : Recorded s (s.yAfter g what L live) := by
  unfold State.yAfter
  split
  · exact record_frame ..
  · split
    · split
      · exact dropLog_frame ..
      · exact diverge_frame s g
    · exact .refl s

theorem recordAccess_frame (s : State) (id : Nat) (a : LaneAccess) : Recorded s (s.recordAccess id a) := by
  unfold State.recordAccess
  split
  · exact .refl s
  · split
    · exact yAfter_frame ..
    · exact order_frame ..
    · exact order_frame ..
    · exact order_frame ..

theorem orderEntry_frame (s : State) (kind : Nat) (e : REntry) : Recorded s (s.orderEntry kind e) := by
  unfold State.orderEntry
  split
  · exact order_frame ..
  · exact .refl s

theorem orderCmd_frame (s : State) (q : Nat) (c : QCmd) (key : Nat) : Recorded s (s.orderCmd q c key) := by
  unfold State.orderCmd
  split
  · exact order_frame ..
  · exact .refl s

theorem orderTeam_frame (s : State) (g : Group) (ws : List RegWrite) : Recorded s (s.orderTeam g ws) := by
  unfold State.orderTeam
  split
  · exact order_frame ..
  · exact .refl s

/-- A group that does not replay and does not record is not seen. -/
theorem order_off {s : State} {g : Group} (h : s.yMode g = 0) (kind place who : Nat) (payload : List Byte) :
    s.order g kind place who payload = s := by
  simp [State.order, h]

@[simp] theorem order_mem (s : State) (g : Group) (kind place who : Nat) (payload : List Byte) :
    (s.order g kind place who payload).mem = s.mem := by
  obtain ⟨_, _, _, _, _, h, -, -, -⟩ := order_frame s g kind place who payload; rw [h]

theorem orderChange_frame (t s : State) (g : Group) (gr who : Nat) : Recorded t (t.orderChange s g gr who) := by
  unfold State.orderChange
  split
  · exact .refl t
  · exact order_frame ..

theorem orderCmdChange_frame (t s : State) (q : Nat) (c : QCmd) (key : Nat) : Recorded t (t.orderCmdChange s q c key) := by
  unfold State.orderCmdChange
  split
  · exact orderChange_frame ..
  · exact .refl t

theorem opChange_frame (t s : State) (id : Nat) (a : LaneAccess) : Recorded t (t.opChange s id a) := by
  unfold State.opChange
  split
  · exact orderChange_frame ..
  · exact .refl t

@[simp] theorem opChange_mem (t s : State) (id : Nat) (a : LaneAccess) : (t.opChange s id a).mem = t.mem := by
  obtain ⟨_, _, _, _, _, h, -, -, -⟩ := opChange_frame t s id a; rw [h]
@[simp] theorem opChange_ops (t s : State) (id : Nat) (a : LaneAccess) : (t.opChange s id a).ops = t.ops := by
  obtain ⟨_, _, _, _, _, h, -, -, -⟩ := opChange_frame t s id a; rw [h]
@[simp] theorem opChange_viral (t s : State) (id : Nat) (a : LaneAccess) : (t.opChange s id a).viral = t.viral := by
  obtain ⟨_, _, _, _, _, h, -, -, -⟩ := opChange_frame t s id a; rw [h]
@[simp] theorem opChange_poison (t s : State) (id : Nat) (a : LaneAccess) : (t.opChange s id a).poison = t.poison := by
  obtain ⟨_, _, _, _, _, h, -, -, -⟩ := opChange_frame t s id a; rw [h]
@[simp] theorem orderChange_mem (t s : State) (g : Group) (gr who : Nat) : (t.orderChange s g gr who).mem = t.mem := by
  obtain ⟨_, _, _, _, _, h, -, -, -⟩ := orderChange_frame t s g gr who; rw [h]
@[simp] theorem orderCmdChange_mem (t s : State) (q : Nat) (c : QCmd) (key : Nat) : (t.orderCmdChange s q c key).mem = t.mem := by
  obtain ⟨_, _, _, _, _, h, -, -, -⟩ := orderCmdChange_frame t s q c key; rw [h]
@[simp] theorem recordAccess_mem (s : State) (id : Nat) (a : LaneAccess) : (s.recordAccess id a).mem = s.mem := by
  obtain ⟨_, _, _, _, _, h, -, -, -⟩ := recordAccess_frame s id a; rw [h]
@[simp] theorem recordAccess_ops (s : State) (id : Nat) (a : LaneAccess) : (s.recordAccess id a).ops = s.ops := by
  obtain ⟨_, _, _, _, _, h, -, -, -⟩ := recordAccess_frame s id a; rw [h]
@[simp] theorem recordAccess_poison (s : State) (id : Nat) (a : LaneAccess) : (s.recordAccess id a).poison = s.poison := by
  obtain ⟨_, _, _, _, _, h, -, -, -⟩ := recordAccess_frame s id a; rw [h]
@[simp] theorem recordAccess_viral (s : State) (id : Nat) (a : LaneAccess) : (s.recordAccess id a).viral = s.viral := by
  obtain ⟨_, _, _, _, _, h, -, -, -⟩ := recordAccess_frame s id a; rw [h]
@[simp] theorem orderCmd_mem (s : State) (q : Nat) (c : QCmd) (key : Nat) : (s.orderCmd q c key).mem = s.mem := by
  obtain ⟨_, _, _, _, _, h, -, -, -⟩ := orderCmd_frame s q c key; rw [h]
@[simp] theorem orderEntry_mem (s : State) (kind : Nat) (e : REntry) : (s.orderEntry kind e).mem = s.mem := by
  obtain ⟨_, _, _, _, _, h, -, -, -⟩ := orderEntry_frame s kind e; rw [h]

/-! Translation does not see the recorder. -/

theorem Recorded.fn {s t : State} (h : Recorded s t) (k : Nat) : SameFn (s.fn k) (t.fn k) := by
  obtain ⟨_, _, _, _, _, rfl, hf, -, -⟩ := h
  exact hf k

theorem Recorded.walkFrom {s t : State} (h : Recorded s t) (va : Nat) (ls : List Nat) (base : Nat) :
    t.walkFrom va ls base = s.walkFrom va ls base := by
  obtain ⟨_, _, _, _, _, rfl, -, -, -⟩ := h
  induction ls generalizing base with
  | nil => rfl
  | cons l ls ih => simp only [State.walkFrom, ih]; rfl

theorem Recorded.judgeLeaf {s t : State} (h : Recorded s t) (fn part : Nat) (w : Waiter) (need : Need) (level : Nat) (e : Dword) (va : Nat) :
    t.judgeLeaf fn part w need level e va = s.judgeLeaf fn part w need level e va := by
  obtain ⟨_, _, _, hf⟩ := h.fn fn
  obtain ⟨_, _, _, _, _, rfl, -, -, -⟩ := h
  simp only [State.judgeLeaf, State.translateHost, hf]
  rfl

theorem Recorded.translateNow {s t : State} (h : Recorded s t) (fn part : Nat) (need : Need) (va : Nat) :
    t.translateNow fn part need va = s.translateNow fn part need va := by
  obtain ⟨_, _, _, hf⟩ := h.fn fn
  simp only [State.translateNow, State.walkVa, h.walkFrom, h.judgeLeaf, hf]

theorem Recorded.readAgain {s t : State} (h : Recorded s t) (fn va : Nat) (e : TlbEntry) :
    t.readAgain fn va e = s.readAgain fn va e := by
  obtain ⟨_, _, _, hf⟩ := h.fn fn
  simp only [State.readAgain, State.walkVa, h.walkFrom, hf]

/-- An address is translated alike before and after the recorder has seen a request (19 R487). -/
theorem Recorded.translate {s t : State} (h : Recorded s t) (die fn part : Nat) (w : Waiter) (need : Need) (va : Nat) :
    t.translate die fn part w need va = s.translate die fn part w need va := by
  obtain ⟨_, _, _, hf⟩ := h.fn fn
  have hj := h.judgeLeaf fn part w need
  have hr := h.readAgain fn va
  obtain ⟨_, _, _, _, _, rfl, -, -, -⟩ := h
  simp only [State.translate, hj, hr, hf]

theorem Recorded.group {s t : State} (h : Recorded s t) (k : Nat) :
    ∃ p : Group → Bool, t.groups.find k = (s.groups.find k).map (fun g => if p g then { g with killed := true } else g) := by
  obtain ⟨_, _, _, _, _, rfl, -, -, hg⟩ := h
  exact hg.find k

theorem Recorded.replays {s t : State} (h : Recorded s t) (gid : Nat) : t.replays gid = s.replays gid := by
  obtain ⟨p, hp⟩ := h.group gid
  unfold State.replays State.yMode
  rw [hp]
  cases s.groups.find gid with
  | none => rfl
  | some g =>
    obtain ⟨_, _, _, hf⟩ := h.fn g.fn
    cases hk : p g <;> simp [hk, hf]

theorem Recorded.ops {s t : State} (h : Recorded s t) : t.ops = s.ops := by
  obtain ⟨_, _, _, _, _, rfl, -, -, -⟩ := h; rfl

theorem Recorded.home {s t : State} (h : Recorded s t) : t.home = s.home := by
  obtain ⟨_, _, _, _, _, rfl, -, -, -⟩ := h; rfl

/-- The requests at a home are the same. -/
theorem Recorded.homeHeld {s t : State} (h : Recorded s t) (key : Nat) : t.homeHeld key = s.homeHeld key := by
  have hn : ∀ id, t.nextOrdered id = s.nextOrdered id := by
    intro id; simp only [State.nextOrdered, h.ops, h.replays]
  have hr : t.requestsFor (granuleOf key) t.home = s.requestsFor (granuleOf key) s.home := by
    unfold State.requestsFor
    rw [h.home]
    congr 1
    funext id
    rw [hn]
    cases s.nextOrdered id with
    | none => rfl
    | some x =>
      obtain ⟨p, hp⟩ := h.group x.1.gid
      simp only [Option.bind_some, hp]
      split
      · cases s.groups.find x.1.gid with
        | none => rfl
        | some g => cases hk : p g <;> simp [hk]
      · rfl
  unfold State.homeHeld
  rw [hr]

/-- A command reaches the same place before and after the recorder has seen a request. -/
theorem Recorded.reach {s t : State} (h : Recorded s t) (q : Nat) (c : QCmd) (need : Need) (va : Nat) {key : Nat}
    (hr : s.reach q c need va = .at_ key) : t.reach q c need va = .at_ key := by
  have hp : t.cmdPart c = s.cmdPart c := by
    obtain ⟨_, _, _, hf⟩ := h.fn c.fn
    obtain ⟨_, _, _, _, _, rfl, -, hl, -⟩ := h
    simp only [State.cmdPart, hf, hl.part]
  have hx : t.cmdXlat q c need va = s.cmdXlat q c need va := by
    simp only [State.cmdXlat, hp, h.translate]
  have hw : ∀ k, t.homeWaits k = s.homeWaits k := by
    intro k
    have hl : t.relocking (homeDie k) = s.relocking (homeDie k) := by
      obtain ⟨_, _, _, _, _, rfl, -, -, -⟩ := h
      rfl
    simp only [State.homeWaits, h.homeHeld, hl]
  unfold State.reach at hr ⊢
  rw [hx]
  cases he : s.cmdXlat q c need va with
  | ok k =>
    rw [he] at hr
    dsimp only at hr ⊢
    rw [hw]
    split at hr
    · cases hr
    · next hn => rw [if_neg hn]; exact hr
  | fault e => rw [he] at hr; cases e <;> simp at hr
  | walk p => rw [he] at hr; simp at hr
  | ats p => rw [he] at hr; simp at hr
  | busy => rw [he] at hr; simp at hr

/-! Classification (13 R336 to R347): granules, lines and permissions change, nothing else. -/

theorem drainFor_frame (s : State) (gr : Nat) (core : Option Nat) (w : Bool) :
    ∃ gs ls cs, s.drainFor gr core w = { s with granules := gs, lines := ls, cores := cs } := by
  unfold State.drainFor
  split
  · split
    · exact ⟨s.granules, s.lines, s.cores, rfl⟩
    · dsimp only
      split
      · exact ⟨_, _, _, rfl⟩
      · exact ⟨_, s.lines, s.cores, rfl⟩
  · exact ⟨s.granules, s.lines, s.cores, rfl⟩

theorem invalidateReadonly_frame (s : State) (gr : Nat) :
    ∃ gs ls cs, s.invalidateReadonly gr = { s with granules := gs, lines := ls, cores := cs } := by
  unfold State.invalidateReadonly
  split
  · exact ⟨_, _, _, rfl⟩
  · exact ⟨s.granules, s.lines, s.cores, rfl⟩

theorem usePerm_frame (s : State) (core gr : Nat) :
    ∃ ls cs, s.usePerm core gr = { s with lines := ls, cores := cs } := by
  unfold State.usePerm
  dsimp only
  generalize (s.cores.getD core Core.reset).dropped gr = out
  have h0 : ∃ ls cs, s.modCore core (fun x => x.usePerm gr) = { s with lines := ls, cores := cs } :=
    ⟨s.lines, _, rfl⟩
  generalize s.modCore core (fun x => x.usePerm gr) = t at h0 ⊢
  induction out generalizing t with
  | nil => exact h0
  | cons a out ih =>
    obtain ⟨ls, cs, rfl⟩ := h0
    exact ih _ ⟨_, _, rfl⟩

theorem classify_frame (s : State) (key die : Nat) (core : Option Nat) (w : Bool) :
    ∃ gs ls cs lo, s.classify key die core w = { s with granules := gs, lines := ls, cores := cs, lost := lo } := by
  unfold State.classify
  obtain ⟨g1, l1, c1, h1⟩ := drainFor_frame s (granuleOf key) core w
  dsimp only
  rw [h1]
  have h2 : ∃ gs ls cs, (if w = true then ({ s with granules := g1, lines := l1, cores := c1 } : State).invalidateReadonly
      (granuleOf key) else { s with granules := g1, lines := l1, cores := c1 }) =
      { s with granules := gs, lines := ls, cores := cs } := by
    split
    · obtain ⟨g2, l2, c2, h2⟩ := invalidateReadonly_frame { s with granules := g1, lines := l1, cores := c1 } (granuleOf key)
      exact ⟨g2, l2, c2, h2⟩
    · exact ⟨g1, l1, c1, rfl⟩
  obtain ⟨g2, l2, c2, h2⟩ := h2
  rw [h2]
  generalize granuleNext _ core w = st
  have h3 : ∀ x : State, (∃ gs ls cs, x = { s with granules := gs, lines := ls, cores := cs }) → ∀ (c : Nat),
      ∃ gs ls cs, x.usePerm c (granuleOf key) = { s with granules := gs, lines := ls, cores := cs } := by
    rintro x ⟨_, _, _, rfl⟩ c
    obtain ⟨_, _, h⟩ := usePerm_frame _ c (granuleOf key)
    exact ⟨_, _, _, h⟩
  have h4 : ∀ (x : State), (∃ gs ls cs, x = { s with granules := gs, lines := ls, cores := cs }) →
      ∀ (f : State → Assoc Line) (l : State → List Nat), ∃ gs ls cs lo, { x with lines := f x, lost := l x } =
        { s with granules := gs, lines := ls, cores := cs, lost := lo } := by
    rintro x ⟨_, _, _, rfl⟩ f l
    exact ⟨_, _, _, _, rfl⟩
  refine h4 _ ?_ (fun x => x.lines.set (key / 128) _) (fun x => x.lost.filter (fun y => y != key / 128))
  split
  · exact h3 _ ⟨_, _, _, rfl⟩ _
  · exact h3 _ ⟨_, _, _, rfl⟩ _
  · exact ⟨_, _, _, rfl⟩

@[simp] theorem classify_mem (s : State) (key die : Nat) (core : Option Nat) (w : Bool) :
    (s.classify key die core w).mem = s.mem := by
  obtain ⟨_, _, _, _, h⟩ := classify_frame s key die core w; rw [h]
@[simp] theorem classify_ops (s : State) (key die : Nat) (core : Option Nat) (w : Bool) :
    (s.classify key die core w).ops = s.ops := by
  obtain ⟨_, _, _, _, h⟩ := classify_frame s key die core w; rw [h]
@[simp] theorem classify_groups (s : State) (key die : Nat) (core : Option Nat) (w : Bool) :
    (s.classify key die core w).groups = s.groups := by
  obtain ⟨_, _, _, _, h⟩ := classify_frame s key die core w; rw [h]
@[simp] theorem classify_queues (s : State) (key die : Nat) (core : Option Nat) (w : Bool) :
    (s.classify key die core w).queues = s.queues := by
  obtain ⟨_, _, _, _, h⟩ := classify_frame s key die core w; rw [h]
@[simp] theorem classify_viral (s : State) (key die : Nat) (core : Option Nat) (w : Bool) :
    (s.classify key die core w).viral = s.viral := by
  obtain ⟨_, _, _, _, h⟩ := classify_frame s key die core w; rw [h]
@[simp] theorem classify_poison (s : State) (key die : Nat) (core : Option Nat) (w : Bool) :
    (s.classify key die core w).poison = s.poison := by
  obtain ⟨_, _, _, _, h⟩ := classify_frame s key die core w; rw [h]

@[simp] theorem accessLine_mem (s : State) (g : Group) (key who die : Nat) (core : Option Nat) (w : Bool) :
    (s.accessLine g key who die core w).mem = s.mem := by
  unfold State.accessLine State.orderLine; simp
@[simp] theorem cmdAccess_mem (s : State) (q : Nat) (c : QCmd) (key : Nat) (w : Bool) : (s.cmdAccess q c key w).mem = s.mem := by
  unfold State.cmdAccess; simp

/-! Writes. -/

theorem writeBytes_frame (s : State) (key : Nat) (bs : List Byte) :
    ∃ p, s.writeBytes key bs = { s with mem := if s.viralBlocks key then s.mem else s.mem.writeN key bs, poison := p } := by
  unfold State.writeBytes
  split
  · exact ⟨s.poison, rfl⟩
  · exact ⟨_, rfl⟩

/-- Without viral containment the bytes are written (19 R482). -/
theorem writeBytes_mem {s : State} (h : s.viral = false) (key : Nat) (bs : List Byte) :
    (s.writeBytes key bs).mem = s.mem.writeN key bs := by
  simp [State.writeBytes, State.viralBlocks, h]

theorem writeBytes_wf {s : State} (h : s.mem.wf = true) (key : Nat) (bs : List Byte) : (s.writeBytes key bs).mem.wf = true := by
  obtain ⟨p, hp⟩ := writeBytes_frame s key bs
  rw [hp]
  dsimp only
  split
  · exact h
  · exact Bytes.wf_writeN h _ _

theorem writeBytes_read_out (s : State) (key : Nat) (bs : List Byte) {a : Nat} (h : a < key ∨ key + bs.length ≤ a) :
    (s.writeBytes key bs).mem.read a = s.mem.read a := by
  obtain ⟨p, hp⟩ := writeBytes_frame s key bs
  rw [hp]
  dsimp only
  split
  · rfl
  · exact Bytes.read_writeN_out _ _ _ h

@[simp] theorem writePoison_mem (s : State) (key n : Nat) : (s.writePoison key n).mem = s.mem := by
  unfold State.writePoison; split <;> rfl

theorem writeAccess_mem (s : State) (a : LaneAccess) (x : Nat) :
    (s.writeAccess a x).mem = if a.space = .phys then (s.writeBytes a.addr (bytesOfNat a.size x)).mem else s.mem := by
  unfold State.writeAccess
  split
  · next h => rw [if_pos h]
  · next h => rw [if_neg (by simp [h])]; rfl
  · next h _ => rw [if_neg h]

theorem writeAccess_wf {s : State} (h : s.mem.wf = true) (a : LaneAccess) (x : Nat) : (s.writeAccess a x).mem.wf = true := by
  rw [writeAccess_mem]
  split
  · exact writeBytes_wf h _ _
  · exact h

/-! The performance of accesses (13 R326). -/

/-- What memory holds after a lane's access. -/
theorem performAccess_mem (s : State) (id core : Nat) (a : LaneAccess) :
    (s.performAccess id core a).mem =
      match a.act.newValue a.size (s.readPerformed id a).1 with
      | some x => if a.space = .phys then (if s.viralBlocks a.addr then s.mem else s.mem.writeN a.addr (bytesOfNat a.size x)) else s.mem
      | none => s.mem := by
  have hr : (s.recordAccess id a).mem = s.mem := recordAccess_mem s id a
  have hv : (s.recordAccess id a).viral = s.viral := recordAccess_viral s id a
  have key : ∀ t : State, t.mem = s.mem → t.viral = s.viral → ∀ x,
      (t.writeAccess a x).mem =
        if a.space = .phys then (if s.viralBlocks a.addr then s.mem else s.mem.writeN a.addr (bytesOfNat a.size x)) else s.mem := by
    intro t hm hv x
    rw [writeAccess_mem]
    split
    · obtain ⟨p, hp⟩ := writeBytes_frame t a.addr (bytesOfNat a.size x)
      rw [hp]
      simp [State.viralBlocks, hm, hv]
    · exact hm
  unfold State.performAccess
  simp only [modOp_mem]
  cases a.act.newValue a.size (s.readPerformed id a).1 with
  | none =>
    dsimp only
    split
    · simp
    · exact hr
  | some x =>
    dsimp only
    split
    · exact key _ (by simp) (by simp) x
    · exact key _ hr hv x

theorem performAccess_wf {s : State} (h : s.mem.wf = true) (id core : Nat) (a : LaneAccess) :
    (s.performAccess id core a).mem.wf = true := by
  rw [performAccess_mem]
  split
  · split
    · split
      · exact h
      · exact Bytes.wf_writeN h _ _
    · exact h
  · exact h

/-- An access leaves every byte outside its place alone. -/
theorem performAccess_read_out (s : State) (id core : Nat) (a : LaneAccess) {k : Nat}
    (h : a.space = .phys → k < a.addr ∨ a.addr + a.size ≤ k) : (s.performAccess id core a).mem.read k = s.mem.read k := by
  rw [performAccess_mem]
  split
  · split
    · next hp =>
      split
      · rfl
      · exact Bytes.read_writeN_out _ _ _ (by simpa using h hp)
    · rfl
  · rfl

theorem performLanes_wf {s : State} (h : s.mem.wf = true) (ids : List Nat) (ls : List (Fin 32)) :
    (s.performLanes ids ls).mem.wf = true := by
  induction ls generalizing s with
  | nil => exact h
  | cons L ls ih =>
    simp only [State.performLanes]
    apply ih
    clear ih
    generalize hd : ids = ds
    clear hd
    induction ds generalizing s with
    | nil => exact h
    | cons id ds ihs =>
      simp only [List.foldl_cons]
      apply ihs
      split
      · split
        · exact performAccess_wf h ..
        · exact h
      · exact h

theorem performBundle_wf {s : State} (h : s.mem.wf = true) : s.performBundle.mem.wf = true := by
  unfold State.performBundle
  dsimp only
  split
  · have : ∀ (ids : List Nat) (x : State), x.mem = s.mem →
        (ids.foldl (fun s id => s.modOp id (fun o => { o with isOrdered := true })) x).mem = s.mem := by
      intro ids
      induction ids with
      | nil => intro x hx; exact hx
      | cons id ids ih => intro x hx; exact ih _ (by simpa using hx)
    rw [this _ _ rfl]
    exact h
  · exact performLanes_wf h _ _

/-! Engine threads and commands (11 R304; 14 R363). -/

theorem engineWrite_wf {s : State} (h : s.mem.wf = true) (g : Group) (scratch : Bool) (a : Nat) (bs : List Byte) (p : Bool) :
    (s.engineWrite g scratch a bs p).mem.wf = true := by
  unfold State.engineWrite
  split
  · exact h
  · dsimp only
    split
    · rw [writePoison_mem]; exact writeBytes_wf (by simpa using h) _ _
    · exact writeBytes_wf (by simpa using h) _ _

theorem cmdWrite_wf {s t : State} (h : s.mem.wf = true) {q : Nat} {c : QCmd} {va : Nat} {bs : List Byte} {bad data : Bool}
    (hd : s.cmdWrite q c va bs bad data = .done t) : t.mem.wf = true := by
  unfold State.cmdWrite at hd
  split at hd
  · cases hd
  · cases hd
  · next key _ =>
    have hw : ((s.cmdAccess q c key true).writeBytes key bs).mem.wf = true :=
      writeBytes_wf (by simpa using h) _ _
    cases hd
    cases bad <;> cases data <;> simpa using hw

theorem decrement_wf {s : State} (h : s.mem.wf = true) (key cause : Nat) (count : Int) (die : Nat) :
    (s.decrement key cause count die).mem.wf = true := by
  unfold State.decrement
  dsimp only
  split
  · exact writeBytes_wf (by simpa using h) _ _
  · split
    · rw [writePoison_mem]; exact writeBytes_wf (by simpa using h) _ _
    · exact writeBytes_wf (by simpa using h) _ _

end Sys2Proof.Machine
end

