-- ==== Sys2Proof/Machine/Readout.lean ====
section
/-! DEFINITION. What the host reads from the registers (14 Table 14.7; 16 Tables 16.3, 16.6, 16.13; 17 Table 17.4; 19
Tables 19.5, 19.7, R487; 20 Tables 20.2, 20.3, 20.5a). A read changes nothing. -/

namespace Sys2Proof.Machine

open Sys2Proof

/-- DCLKSTAT (14 Table 14.7). -/
def Die.clkStat (d : Die) : Nat := d.freq + 2 ^ 16 * (d.relocks % 2 ^ 16) + 2 ^ 32 * d.inc

/-- A register of a submission queue; SQTAIL is written only, and reads 0. -/
def SubQueue.readReg (q : SubQueue) (off : Nat) : Nat :=
  match off with
  | 0x00 => q.base.toNat
  | 0x08 => q.size
  | 0x10 => q.head
  | _ => 0

/-- A register of a function beside its submission queues. -/
def Fn.readReg (f : Fn) (off : Nat) : Nat :=
  match off with
  | 0x2000 => f.root.toNat
  | 0x2008 => f.invaddr.toNat
  | 0x2010 => f.invcnt.toNat
  | 0x2018 => if f.invdone then 2 else 0
  | 0x2020 => f.ctxbase.toNat
  | 0x2028 => f.ctxchunks.toNat
  | 0x2030 => f.frbase.toNat
  | 0x2038 => f.frsize
  | 0x2040 => f.frtail
  | 0x2048 => f.frhead
  | 0x2058 => f.frdrop.toNat
  | 0x2060 => f.wdcfg.toNat
  | 0x2068 => f.ymode
  | 0x2070 => f.ybase.toNat
  | 0x2078 => f.ysize.toNat
  | 0x2080 => f.fabcfg.toNat
  | 0x2088 => f.rxbase.toNat
  | 0x2090 => f.rxsize
  | 0x2098 => f.ystat + 2 ^ 32 * (f.yused % 2 ^ 32)
  | _ => 0

/-- The management registers of a die. -/
def Die.readReg (d : Die) (off : Nat) : Nat :=
  match off with
  | 0x000 => d.clkStat
  | 0x010 => d.d2dStall[0]
  | 0x018 => d.d2dStall[1]
  | 0x200 => d.rascnt.toNat
  | 0x300 => d.fwviol.toNat
  | _ =>
    if 0x100 ≤ off ∧ off < 0x180 then
      let n := (off - 0x100) / 16
      if h : n < 8 then (if off % 16 = 0 then d.pmcSel[n].toNat else if off % 16 = 8 then d.pmcVal[n] else 0) else 0
    else 0

/-- The registers of a port. -/
def Port.readReg (p : Port) (now off : Nat) : Nat :=
  match off with
  | 0x00 => p.poolsz + (if p.dateline then 2 ^ 8 else 0) + (if p.en then 2 ^ 9 else 0) + (if p.up then 2 ^ 10 else 0)
  | 0x08 => p.fslot now
  | 0x10 => p.retries.toNat
  | _ => 0

/-- The package and management registers of the physical function. -/
def State.readPfReg (s : State) (off : Nat) : Nat :=
  if 0x4000 ≤ off ∧ off < 0x6000 then
    ((s.fn pfId).sqs.getD (8 * ((off - 0x4000) / 256) + off % 256 / 32) SubQueue.reset).readReg (off % 32)
  else if 0x10000 ≤ off ∧ off < 0x50000 then (s.die (off / 0x10000 - 1)).readReg (off % 0x10000)
  else if 0x50000 ≤ off ∧ off < 0x50200 ∧ off % 8 = 0 then (s.fn ((off - 0x50000) / 8)).sched.toNat
  else if 0x50400 ≤ off ∧ off < 0x50800 ∧ off % 16 = 0 then (s.fn ((off - 0x50400) / 16)).vfcq.toNat
  else if 0x50400 ≤ off ∧ off < 0x50800 ∧ off % 16 = 8 then (s.fn ((off - 0x50400) / 16)).vffq.toNat
  else if off = 0x50800 then s.pf.pwrlim
  else if 0x50C00 ≤ off ∧ off < 0x50D00 ∧ off % 8 = 0 then natOfBytes (s.pf.pcarg.readN (off - 0x50C00) 8)
  else if off = 0x50D08 then 2 * s.pf.result + (if s.pf.pcmd.isNone then 1 else 0)
  else if 0x60000 ≤ off ∧ off < 0x60000 + 0x40 * 144 then
    (s.fabric.ports.getD ((off - 0x60000) / 0x40) Port.reset).readReg s.fabricCycle (off % 0x40)
  else if 0x70000 ≤ off ∧ off < 0x70100 ∧ off % 8 = 0 then s.fabric.pnode.getD ((off - 0x70000) / 8) 0
  else if 0x80000 ≤ off ∧ off < 0x80000 + 32 * 0x4000 ∧ off % 4 = 0 then
    (s.fabric.routes.getD ((off - 0x80000) / 4) 0).toNat
  else 0

/-- What a read of a register gives; a place that no table names reads 0 (00, reserved fields). -/
def State.readReg (s : State) (fn off : Nat) : Nat :=
  if 0x2000 ≤ off ∧ off < 0x3000 then (s.fn fn).readReg off
  else if fn = pfId then s.readPfReg off
  else if 0x1000 ≤ off ∧ off < 0x1100 then
    ((s.fn fn).sqs.getD ((off - 0x1000) / 32) SubQueue.reset).readReg (off % 32)
  else 0

end Sys2Proof.Machine
end

