-- ==== Sys2Proof/Tests/Slice0.lean ====
section
/-! SUPPORT. The model's own tests: words written out from the encodings of the manual, a step of every instruction,
terms that well-formedness refuses, and for every statement with hypotheses a state that meets them. -/

open Sys2Proof Sys2Proof.Machine

namespace Sys2Proof.Tests

set_option Elab.async false

/-! Words (03 Tables 3.2, 3.3, 3.9), packed by hand from the manual's formats. -/

/-- Words of integer instructions (05 R119 to R124). -/
theorem test_words_integer :
    ([(0x000E0E29, 0x00000000, .add ⟨3, 0x41, 0x62, true, false⟩ false),
      (0x000E0E2B, 0x05800000, .addIt ⟨3, 0x41, 0x62, true, false⟩ ⟨2, true, true⟩),
      (0x020E0E29, 0x00000000, .sub ⟨3, 0x41, 0x62, true, false⟩ false),
      (0x020E0E2B, 0x05800000, .subIt ⟨3, 0x41, 0x62, true, false⟩ ⟨2, true, true⟩),
      (0x080E0E29, 0x00000000, .mul ⟨3, 0x41, 0x62, true, false⟩ false),
      (0x080E0E2B, 0x05800000, .mulIt ⟨3, 0x41, 0x62, true, false⟩ ⟨2, true, true⟩),
      (0x0A0E0E29, 0x00000000, .mulhi ⟨3, 0x41, 0x62, true, false⟩ false),
      (0x0A0E0E2B, 0x05000000, .mulhiIt ⟨3, 0x41, 0x62, true, false⟩ ⟨2, true, false⟩),
      (0x100E0E29, 0x00000000, .div ⟨3, 0x41, 0x62, true, false⟩ false),
      (0x100E0E2B, 0x05000000, .divIt ⟨3, 0x41, 0x62, true, false⟩ ⟨2, true, false⟩),
      (0x120E0E29, 0x00000000, .rem ⟨3, 0x41, 0x62, true, false⟩ false),
      (0x120E0E2B, 0x05000000, .remIt ⟨3, 0x41, 0x62, true, false⟩ ⟨2, true, false⟩),
      (0x140E0E29, 0x00000000, .min ⟨3, 0x41, 0x62, true, false⟩ false),
      (0x140E0E2B, 0x05000000, .minIt ⟨3, 0x41, 0x62, true, false⟩ ⟨2, true, false⟩),
      (0x160E0E29, 0x00000000, .max ⟨3, 0x41, 0x62, true, false⟩ false),
      (0x160E0E2B, 0x05000000, .maxIt ⟨3, 0x41, 0x62, true, false⟩ ⟨2, true, false⟩),
      (0x040E0FFB, 0x00000000, .addImm ⟨3, 0x41, -5⟩),
      (0x060E0E2B, 0x1A680000, .addc ⟨3, 0x41, 0x62, true, false⟩ 9 5),
      (0x060E0E2B, 0x1CB00000, .subb ⟨3, 0x41, 0x62, true, false⟩ 2 6),
      (0x0C0E0E2B, 0x245C0000, .mad ⟨3, 0x41, 0x62, true, false⟩ 0x45 true true),
      (0x0E0E0E2B, 0x24680000, .madw ⟨3, 0x41, 0x62, true, false⟩ 0x46 true),
      (0x18144F88, 0x00000000, .abs ⟨5, 9, true⟩),
      (0x18144F8B, 0x03800000, .absIt ⟨5, 9, true⟩ ⟨1, true, true⟩)] : List (Word × Word × Instr)).all
      (fun e => decide (decodeWords e.1 e.2.1 = .ok e.2.2)) = true := by decide

/-- Words of bit, address and move instructions (05 R125 to R139). -/
theorem test_words_bits :
    ([(0x1A0E0E28, 0x00000000, .and ⟨3, 0x41, 0x62, true, false⟩),
      (0x1A0E0E29, 0x00000000, .or ⟨3, 0x41, 0x62, true, false⟩),
      (0x1A0E0E2A, 0x00000000, .xor ⟨3, 0x41, 0x62, true, false⟩),
      (0x1C0E0E28, 0x00000000, .andn ⟨3, 0x41, 0x62, true, false⟩),
      (0x1E0E0E28, 0x00000000, .shl ⟨3, 0x41, 0x62, true, false⟩),
      (0x1E0E0E29, 0x00000000, .shr ⟨3, 0x41, 0x62, true, false⟩),
      (0x1E0E0E2A, 0x00000000, .sar ⟨3, 0x41, 0x62, true, false⟩),
      (0x220E0E28, 0x00000000, .rot ⟨3, 0x41, 0x62, true, false⟩),
      (0x2A0E0E28, 0x00000000, .proma ⟨3, 0x41, 0x62, true, false⟩),
      (0x2E0E0E28, 0x00000000, .add64 ⟨3, 0x41, 0x62, true, false⟩),
      (0x2E0E0E29, 0x00000000, .sub64 ⟨3, 0x41, 0x62, true, false⟩),
      (0x2E0E0E2A, 0x00000000, .shl64 ⟨3, 0x41, 0x62, true, false⟩),
      (0x300E0E28, 0x00000000, .sad ⟨3, 0x41, 0x62, true, false⟩),
      (0x300E0E29, 0x00000000, .dp4a ⟨3, 0x41, 0x62, true, false⟩),
      (0x300E0E2A, 0x00000000, .dp2a ⟨3, 0x41, 0x62, true, false⟩),
      (0x1C144F89, 0x00000000, .not ⟨5, 9, true⟩),
      (0x22144F89, 0x00000000, .brev ⟨5, 9, true⟩),
      (0x28144F88, 0x00000000, .popc ⟨5, 9, true⟩),
      (0x28144F89, 0x00000000, .clz ⟨5, 9, true⟩),
      (0x28144F8A, 0x00000000, .ctz ⟨5, 9, true⟩),
      (0x2A144F89, 0x00000000, .promv ⟨5, 9, true⟩),
      (0x38144F88, 0x00000000, .mov ⟨5, 9, true⟩),
      (0x3E144F88, 0x00000000, .demoteFirst ⟨5, 9, true⟩),
      (0x3E144F89, 0x00000000, .demoteChk ⟨5, 9, true⟩),
      (0x3E144F8A, 0x00000000, .demoteaChk ⟨5, 9, true⟩)] : List (Word × Word × Instr)).all
      (fun e => decide (decodeWords e.1 e.2.1 = .ok e.2.2)) = true := by decide

/-- Words of those with immediates, extension words and predicates (05 R125 to R139). -/
theorem test_words_bits2 :
    ([(0x200E0811, 0x00000000, .shlImm 3 0x41 17),
      (0x200E0A11, 0x00000000, .shrImm 3 0x41 17),
      (0x200E0C11, 0x00000000, .sarImm 3 0x41 17),
      (0x200E0E11, 0x00000000, .rotImm 3 0x41 17),
      (0x25860804, 0x00000000, .promaImm ⟨0x61, 0x41, 4⟩),
      (0x260E0E29, 0x00000000, .bfe ⟨3, 0x41, 0x62, true, false⟩ true),
      (0x260E0E2B, 0x2A380000, .bfi ⟨3, 0x41, 0x62, true, false⟩ 0x47),
      (0x260E0E2B, 0x2E440000, .shf ⟨3, 0x41, 0x62, true, false⟩ 0x48 true),
      (0x2C0E0E2A, 0x00000000, .lea ⟨3, 0x41, 0x62, true, false⟩ 2),
      (0x2C0E0E2B, 0x35800000, .leaLx ⟨3, 0x41, 0x62, true, false⟩ 5 true),
      (0x300E0E2B, 0x3B268000, .dpxDotForms ⟨3, 0x41, 0x62, true, false⟩ .dp4a 0x49 true false true),
      (0x320E0E2B, 0x46C00000, .sel ⟨3, 0x41, 0x62, true, false⟩ 0xD true),
      (0x34100D47, 0x4A770000, .icmp 4 1 0x54 false true 2 1 true 2 0xE),
      (0x361818C0, 0x00000000, .pand 6 3 0xC),
      (0x361818C1, 0x00000000, .por 6 3 0xC),
      (0x361818C2, 0x00000000, .pxor 6 3 0xC),
      (0x3817C0B1, 0x00000000, .movmRead 5 0xB),
      (0x39E208FA, 0x00000000, .movmWrite 0x41 0xF true),
      (0x3A17FFFE, 0x00000000, .movi 5 (-2)),
      (0x3C16ABCD, 0x00000000, .movhi 5 0x2ABCD)] : List (Word × Word × Instr)).all
      (fun e => decide (decodeWords e.1 e.2.1 = .ok e.2.2)) = true := by decide

/-- Words of floating-point instructions (06 R146 to R157). -/
theorem test_words_float :
    ([(0x400E0E29, 0x00000000, .fadd ⟨3, 0x41, 0x62, true, false⟩ .rz),
      (0x400E0E2B, 0x0F400000, .faddFmod ⟨3, 0x41, 0x62, true, false⟩ ⟨.rd, true, false, true, false⟩),
      (0x420E0E29, 0x00000000, .fsub ⟨3, 0x41, 0x62, true, false⟩ .rz),
      (0x420E0E2B, 0x0F400000, .fsubFmod ⟨3, 0x41, 0x62, true, false⟩ ⟨.rd, true, false, true, false⟩),
      (0x440E0E29, 0x00000000, .fmul ⟨3, 0x41, 0x62, true, false⟩ .rz),
      (0x440E0E2B, 0x0F400000, .fmulFmod ⟨3, 0x41, 0x62, true, false⟩ ⟨.rd, true, false, true, false⟩),
      (0x480E0E29, 0x00000000, .fmac ⟨3, 0x41, 0x62, true, false⟩ .rz),
      (0x480E0E2B, 0x0F400000, .fmacFmod ⟨3, 0x41, 0x62, true, false⟩ ⟨.rd, true, false, true, false⟩),
      (0x600E0E29, 0x00000000, .fscale ⟨3, 0x41, 0x62, true, false⟩ .rz),
      (0x600E0E2B, 0x0F400000, .fscaleFmod ⟨3, 0x41, 0x62, true, false⟩ ⟨.rd, true, false, true, false⟩),
      (0x5E144F8A, 0x00000000, .frnd ⟨5, 9, true⟩ .ru),
      (0x5E144F8B, 0x0F400000, .frndFmod ⟨5, 9, true⟩ ⟨.rd, true, false, true, false⟩),
      (0x4630205B, 0x50640000, .ffma ⟨12, 4, 5, true, false⟩ 6 ⟨.rz, false, false, false, false, false⟩),
      (0x4A0E0E29, 0x00000000, .fmin ⟨3, 0x41, 0x62, true, false⟩ true),
      (0x4C0E0E28, 0x00000000, .fmax ⟨3, 0x41, 0x62, true, false⟩ false),
      (0x4E144F88, 0x00000000, .fneg ⟨5, 9, true⟩),
      (0x50140D4B, 0x5B7A0000, .fcmp 5 1 0x54 true false 3 1 0xE true),
      (0x52144F88, 0x00000000, .fclass ⟨5, 9, true⟩),
      (0x540E0E29, 0x00000000, .hadd2 ⟨3, 0x41, 0x62, true, false⟩ true),
      (0x540E0E2B, 0x16500000, .hadd2Hmod ⟨3, 0x41, 0x62, true, false⟩ true ⟨.ru, false, true, false, true⟩),
      (0x560E0E28, 0x00000000, .hmul2 ⟨3, 0x41, 0x62, true, false⟩ false),
      (0x560E0E2B, 0x11A00000, .hmul2Hmod ⟨3, 0x41, 0x62, true, false⟩ false ⟨.rz, true, false, true, false⟩),
      (0x580E0E2B, 0x66535000, .hfma2 ⟨3, 0x41, 0x62, true, false⟩ true 0x4A ⟨.rz, true, false, true, false, true⟩),
      (0x5A0E0E29, 0x00000000, .hmax2 ⟨3, 0x41, 0x62, true, false⟩ true)] : List (Word × Word × Instr)).all
      (fun e => decide (decodeWords e.1 e.2.1 = .ok e.2.2)) = true := by decide

/-- Words of conversions and special functions (06 R158 to R163). -/
theorem test_words_float2 :
    ([(0x5C144F8B, 0x698CCA00, .fcvt ⟨5, 9, true⟩ ⟨3, 1, 4, true, true, 1, 2⟩),
      (0x62144F8B, 0x71980000, .fexp2 ⟨5, 9, true⟩ ⟨.rn, true, 9, 4⟩),
      (0x64144F8B, 0x71980000, .flog2 ⟨5, 9, true⟩ ⟨.rn, true, 9, 4⟩),
      (0x66144F8B, 0x73980000, .frcp ⟨5, 9, true⟩ ⟨.rz, true, 9, 4⟩),
      (0x68144F8B, 0x73980000, .frsqrt ⟨5, 9, true⟩ ⟨.rz, true, 9, 4⟩),
      (0x6A144F8B, 0x73980000, .fsqrt ⟨5, 9, true⟩ ⟨.rz, true, 9, 4⟩),
      (0x6C0E0E2B, 0x73980000, .fdiv ⟨3, 0x41, 0x62, true, false⟩ ⟨.rz, true, 9, 4⟩),
      (0x6E144F8B, 0x71980000, .fsin ⟨5, 9, true⟩ ⟨.rn, true, 9, 4⟩),
      (0x70144F8B, 0x71980000, .fcos ⟨5, 9, true⟩ ⟨.rn, true, 9, 4⟩),
      (0x72144F8B, 0x71980000, .ftanh ⟨5, 9, true⟩ ⟨.rn, true, 9, 4⟩),
      (0x740E0E29, 0x00000000, .pack2 ⟨3, 0x41, 0x62, true, false⟩ true),
      (0x740E0E2B, 0x69048000, .pack2Cvx ⟨3, 0x41, 0x62, true, false⟩ ⟨2, 0, 4, true, false, 0, 0⟩),
      (0x76144F89, 0x00000000, .unpack2 ⟨5, 9, true⟩ true),
      (0x76144F8B, 0x68283000, .unpack2Cvx ⟨5, 9, true⟩ ⟨0, 5, 0, false, false, 6, 0⟩)] : List (Word × Word × Instr)).all
      (fun e => decide (decodeWords e.1 e.2.1 = .ok e.2.2)) = true := by decide

/-- Words of the abacus (06 R167 to R172). -/
theorem test_words_abacus :
    ([(0x780BC780, 0x00000000, .xclr 2),
      (0x780C0F81, 0x00000000, .xmov 3 1),
      (0x7A043F89, 0x00000000, .xadd 1 7 true true),
      (0x7C083884, 0x00000000, .xfma 2 7 8 false true),
      (0x7E141F83, 0x7AA6A000, .xrd 5 3 ⟨2, .ru, true, false, 6, 5⟩),
      (0x7E141877, 0x7DD6A000, .xscan 5 3 7 true ⟨1, .rd, false, true, 6, 5⟩)] : List (Word × Word × Instr)).all
      (fun e => decide (decodeWords e.1 e.2.1 = .ok e.2.2)) = true := by decide

/-- Words of control transfers (08 R204 to R222; 03 R96). -/
theorem test_words_control :
    ([(0x813FFFFD, 0x00000000, .bra 9 (-3)),
      (0x8300000C, 0x00000000, .brq true 12),
      (0x85E22788, 0x00000000, .jmp 0x44 true),
      (0x86600064, 0x00000000, .call 3 100),
      (0x89E22780, 0x00000000, .callr 0x44 false),
      (0x8BE3C780, 0x00000000, .ret),
      (0x8DE3C780, 0x00000000, .exit),
      (0x8E120F87, 0x00000000, .armj 4 0x41 7),
      (0x91E3C786, 0x00000000, .join 6),
      (0x93E3C785, 0x00000000, .waitj 5),
      (0x95E3C780, 0x00000000, .yield),
      (0x97E3C780, 0x00000000, .nop),
      (0x99E3C155, 0x00000000, .bpt 0x155)] : List (Word × Word × Instr)).all
      (fun e => decide (decodeWords e.1 e.2.1 = .ok e.2.2)) = true := by decide

/-- Words of memory instructions (08 R223 to R240). -/
theorem test_words_memory :
    ([(0xA01F1199, 0x00000000, .ld ⟨7, 0x62, 3, 1⟩ (-7)),
      (0xA01F1198, 0x81BFFFEC, .ldMx ⟨7, 0x62, 3, 1⟩ ⟨1, true, false, -20⟩),
      (0xA21F1199, 0x00000000, .st ⟨7, 0x62, 3, 1⟩ (-7)),
      (0xA21F1198, 0x843FFFEC, .stMx ⟨7, 0x62, 3, 1⟩ ⟨4, false, false, -20⟩),
      (0xA41F1199, 0x00000000, .lds ⟨7, 0x62, 3, 1⟩ (-7)),
      (0xA41F1198, 0x837FFFEC, .ldsMx ⟨7, 0x62, 3, 1⟩ ⟨3, false, true, -20⟩),
      (0xA61F1199, 0x00000000, .sts ⟨7, 0x62, 3, 1⟩ (-7)),
      (0xA61F1198, 0x837FFFEC, .stsMx ⟨7, 0x62, 3, 1⟩ ⟨3, false, true, -20⟩),
      (0xA81F1199, 0x00000000, .ldc ⟨7, 0x62, 3, 1⟩ (-7)),
      (0xA81F1198, 0x81BFFFEC, .ldcMx ⟨7, 0x62, 3, 1⟩ ⟨1, true, false, -20⟩),
      (0xAA1F1199, 0x00000000, .stc ⟨7, 0x62, 3, 1⟩ (-7)),
      (0xAA1F1198, 0x843FFFEC, .stcMx ⟨7, 0x62, 3, 1⟩ ⟨4, false, false, -20⟩),
      (0xAC1F1198, 0x89E67800, .atom ⟨7, 0x62, 3, 1⟩ 8 ⟨1, true, true, 0x4C, 0x78⟩),
      (0xAE1F1192, 0x8926F800, .fatom ⟨7, 0x62, 3, 1⟩ 2 true 0x4D),
      (0xB1E31195, 0x00000000, .pref 0x62 3 1 5),
      (0xB1E31198, 0x80001000, .prefMx 0x62 3 1 4096),
      (0xB21F1193, 0x00000000, .ldwp ⟨7, 0x62, 3, 1⟩ 3),
      (0xB21F1198, 0x833FFFF8, .ldwpMx ⟨7, 0x62, 3, 1⟩ (-8)),
      (0xB5DFC190, 0x00000000, .qtok 3 1)] : List (Word × Word × Instr)).all
      (fun e => decide (decodeWords e.1 e.2.1 = .ok e.2.2)) = true := by decide

/-- Words of queues, team barriers and cross-lane instructions (08 R241 to R249). -/
theorem test_words_cross :
    ([(0xB9D05F80, 0x00000000, .qpushP 0x74 0xB),
      (0xB8178F81, 0x00000000, .qdepth 5 0x71),
      (0xB9E22F8A, 0x00000000, .tbar 0x45 true),
      (0xC03047B0, 0x00000000, .lgetBfly ⟨12, 8, 0x7B, 0⟩),
      (0xBA304419, 0x00000000, .lgetAbs ⟨12, 8, 0x41, 9⟩),
      (0xBC304419, 0x00000000, .lgetBelow ⟨12, 8, 0x41, 9⟩),
      (0xBE304419, 0x00000000, .lgetAbove ⟨12, 8, 0x41, 9⟩),
      (0xC217C0E3, 0x00000000, .pollEvery 5 0xE 3),
      (0xC217C2E3, 0x00000000, .pollSome 5 0xE 3),
      (0xC35BC4D0, 0x00000000, .pollMask 0x56 0xD 0),
      (0xC21BC602, 0x00000000, .lead 6 2),
      (0xC55C4F84, 0x915D0000, .lfold 0x57 9 4 ⟨2, true, 7, 2⟩),
      (0xC4381F80, 0x949A8000, .lsame 14 3 0 true 6 5),
      (0xC6304091, 0x00000000, .tlp ⟨12, 8, 9, 1⟩)] : List (Word × Word × Instr)).all
      (fun e => decide (decodeWords e.1 e.2.1 = .ok e.2.2)) = true := by decide

/-- Words of matrix instructions (11). -/
theorem test_words_matrix :
    ([(0xC840E9BB, 0x9D000020, .mmaBf16 ⟨16, 7, 9, true, 3, 11, 0xA, false, 0, 0, 0, 0, true⟩),
      (0xCA40E9BB, 0x9D000020, .mmaF16 ⟨16, 7, 9, true, 3, 11, 0xA, false, 0, 0, 0, 0, true⟩),
      (0xCC40E9BB, 0x9870C500, .mmaE4m3 ⟨16, 7, 9, true, 3, 11, 0, true, 48, 49, 1, 0, false⟩),
      (0xCE40E9BB, 0x9D614A20, .mmaE5m2 ⟨16, 7, 9, true, 3, 11, 0xA, true, 33, 18, 2, 0, true⟩),
      (0xD040E9BB, 0x9D614A20, .mmaE2m1 ⟨16, 7, 9, true, 3, 11, 0xA, true, 33, 18, 2, 0, true⟩),
      (0xD240E9BB, 0x9D614AA0, .mmaVq2 ⟨16, 7, 9, true, 3, 11, 0xA, true, 33, 18, 2, 2, true⟩),
      (0xD440E9BB, 0x9D000020, .mmaI8 ⟨16, 7, 9, true, 3, 11, 0xA, false, 0, 0, 0, 0, true⟩),
      (0xD650093B, 0xA0700000, .mld ⟨.reg 20, 9, 3, 11, 7⟩),
      (0xD7E0C93B, 0xADF00000, .mst ⟨.scratch 6, 9, 3, 11, 31⟩),
      (0xD7E0C93B, 0xA3F00000, .mld ⟨.global 6, 9, 3, 11, 31⟩),
      (0xD9E0C93B, 0xB6D73000, .mdrain ⟨6, 9, 3, 11, 13, true, 5, true, 19⟩),
      (0xDBE0C03B, 0xBC000000, .cbld ⟨6, 3, 11, 2⟩),
      (0xDBE0C03B, 0xC2000000, .actld ⟨6, 3, 11, 1⟩),
      (0xDDE23788, 0x00000000, .mzero 0x46 true),
      (0xDDE3C781, 0x00000000, .mwait),
      (0xDDE23076, 0x00000000, .mtree 0x46 7 false true),
      (0xDDE2C783, 0xCC000000, .mepi 0x58 false 0x10),
      (0xDFE23F88, 0x00000000, .cbarArrive 0x47 true),
      (0xDFE23F89, 0x00000000, .cbarWait 0x47 true),
      (0xDFE23F8A, 0x00000000, .cbarArriveWait 0x47 true)] : List (Word × Word × Instr)).all
      (fun e => decide (decodeWords e.1 e.2.1 = .ok e.2.2)) = true := by decide

/-- Words of engine instructions (14 R352, R356, R360, R361). -/
theorem test_words_engine :
    ([(0xE09E505C, 0x00000000, .push ⟨0x13, true, 9, 2, 5, 12⟩),
      (0xE3E06780, 0x00000000, .gset 0xC),
      (0xE3E06F81, 0x00000000, .gclr 0xD),
      (0xE5E22460, 0x00000000, .barinit 0x44 0x46 false false),
      (0xE7E22460, 0x00000000, .bararr 0x44 0x46 false false),
      (0xE9222783, 0xD7806000, .barwait ⟨0x48, 0x44, false, 0x78, 0, 3⟩)] : List (Word × Word × Instr)).all
      (fun e => decide (decodeWords e.1 e.2.1 = .ok e.2.2)) = true := by decide

/-- Words of system instructions (17). -/
theorem test_words_system :
    ([(0xF1E02F88, 0x00000000, .trap 5 true),
      (0xF1E02869, 0x00000000, .cclean 5 6 true false),
      (0xF1E02866, 0x00000000, .pclass 5 6 false true),
      (0xF3E3C780, 0x00000000, .rtt),
      (0xF3E3C781, 0x00000000, .halt),
      (0xF3E20F8A, 0x00000000, .sleep 0x41 true),
      (0xF417C7FE, 0x00000000, .rdsr 5 0x7FE),
      (0xF7E02901, 0x00000000, .wrsr 5 0x101)] : List (Word × Word × Instr)).all
      (fun e => decide (decodeWords e.1 e.2.1 = .ok e.2.2)) = true := by decide

/-! A small machine: one group on core 0 about to issue one instruction, its address space one page of 64 KiB at 0x10000,
with the tables that map it. -/

/-- The registers of the group: k4 and k5, and k20 and k21, an address in the page, k6, k22
and k24 small numbers, k18 and k19 the clause's header (which is on every compute return stack), a9 with the largest stride,
a word in q6 in lanes 0 and 31, which are the only
lanes that have not exited, and make up j0 and j15. -/
def prep (sys trap : Bool) (g : Group) : Group :=
  { g with
    k := Vector.ofFn (fun i => if i.val = 4 ∨ i.val = 20 then 0x18000 else if i.val = 6 ∨ i.val = 22 ∨ i.val = 24 then 16
      else if i.val = 18 then 0x10000 else if i.val = 26 then 1 else 0)
    j := Vector.ofFn (fun i => if i.val = 0 ∨ i.val = 15 then 0x80000001 else 0)
    sa := { g.sa with lanes := Vector.ofFn (fun L => { g.sa.lanes[L] with exited := !laneIn 0x80000001 L }) }
    sc := { g.sc with lanes := Vector.ofFn (fun L => { g.sc.lanes[L] with exited := !laneIn 0x80000001 L, rstack := [0x10000] }) }
    q := [(192, [⟨1, .data⟩]), (223, [⟨1, .data⟩])]
    a := (g.a.set 9 ⟨5, 32767⟩).set 10 ⟨7, 0⟩
    sysMode := sys, trapMode := trap }

/-- Tables at 0, 0x40000 and 0x50000: page 0x10000 is readable, writable and executable at frame 0x10000. -/
def tables : Bytes :=
  ((Bytes.writeN [] 0 (bytesOfNat 8 0x40001)).writeN 0x40000 (bytesOfNat 8 0x50001)).writeN 0x50008 (bytesOfNat 8 0x1001F)

/-- The machine about to run instruction `i` in lanes 0 and 31. -/
def bench (i : Instr) (sys trap : Bool := false) : State :=
  let s := State.withFetchWord { State.reset with mem := tables } 64 ((((encode i).headD 0).toNat) + ((encode i).getD 1 0).toNat * 2 ^ 32)
  { s with
    groups := s.groups.modify 4 (prep sys trap)
    runs := s.runs.map (fun e => (e.1, { e.2 with members := [(4, 0x80000001)] }))
    teams := s.teams.modify 3 (fun t => { t with scratchSize := 4096 })
    parts := s.parts.modify 0 (fun p => { p with cqmask := 0xFFFF, fqmask := 0xFF })
    fns := s.fns.modify 0 (fun f => { f with vfcq := 0xFFFF }) }

/-- A step runs the instruction in the group, and raises no fault. -/
def runs (i : Instr) (sys trap : Bool := false) : Bool :=
  match step (bench i sys trap) with
  | .next t => (match t.groups.find 4 with
    | some g => g.pendingTrap.isNone && g.trapMode == false && g.progress && g.status != .halted
    | none => false)
  | _ => false

/-- A step runs the instruction, whose effect is a fault of this cause. -/
def raises (i : Instr) (e : Cause) (sys trap : Bool := false) : Bool :=
  match step (bench i sys trap) with
  | .next t => (match t.groups.find 4 with
    | some g => decide (g.regs.cause.toNat % 256 = e.code ∨ g.pendingTrap.map PendingTrap.cause = some e)
    | none => false)
  | _ => false

/-- Each of these, one instruction in four of its family, runs from its words in memory. -/
theorem test_runs_integer : ([.add ⟨8, 2, 4, false, false⟩ true, .mul ⟨8, 2, 4, false, false⟩ true, .div ⟨8, 2, 4, false, false⟩ true,
  .min ⟨8, 2, 4, false, false⟩ true, .addImm ⟨8, 2, 5⟩, .madw ⟨8, 2, 4, false, false⟩ 6 true] : List Instr).all (fun i => runs i) = true :=
    by decide +kernel

/-- Each of these, one instruction in four of its family, runs from its words in memory. -/
theorem test_runs_bits : ([.and ⟨8, 2, 4, false, false⟩, .shl ⟨8, 2, 4, false, false⟩, .add64 ⟨8, 2, 4, false, false⟩,
  .dp4a ⟨8, 2, 4, false, false⟩, .popc ⟨8, 2, false⟩, .shlImm 8 2 31] : List Instr).all (fun i => runs i) = true := by decide +kernel

/-- Each of these, one instruction in four of its family, runs from its words in memory. -/
theorem test_runs_moves : ([.promaImm ⟨0x68, 0x54, 4⟩, .bfi ⟨8, 2, 4, false, false⟩ 6,
  .dpxDotForms ⟨8, 2, 4, false, false⟩ .dp2a 6 true false true, .por 5 8 4, .movi 8 (-1),
    .demoteaChk ⟨0x68, 2, false⟩] : List Instr).all (fun i => runs i) = true := by decide +kernel

/-- Each of these, one instruction in four of its family, runs from its words in memory. -/
theorem test_runs_float : ([.fadd ⟨8, 2, 4, false, false⟩ .rz, .fmul ⟨8, 2, 4, false, false⟩ .rz, .fscale ⟨8, 2, 4, false, false⟩ .rz,
  .ffma ⟨8, 2, 4, false, false⟩ 6 ⟨.rn, false, false, false, false, false⟩, .fcmp 4 2 4 false false 5 1 8 true,
    .hmul2 ⟨8, 2, 4, false, false⟩ false] : List Instr).all (fun i => runs i) = true := by decide +kernel

/-- Each of these, one instruction in four of its family, runs from its words in memory. -/
theorem test_runs_float2 : ([.fcvt ⟨8, 2, false⟩ ⟨3, 1, 4, true, true, 1, 2⟩, .frsqrt ⟨8, 2, false⟩ ⟨.rn, false, 0, 1⟩,
  .ftanh ⟨8, 2, false⟩ ⟨.rn, false, 0, 1⟩, .unpack2 ⟨8, 2, false⟩ true, .xadd 1 2 false true] : List Instr).all (fun i => runs i) = true :=
    by decide +kernel

/-- Each of these, one instruction in four of its family, runs from its words in memory. -/
theorem test_runs_control : ([.bra 0 (-1), .callr 0x52 false, .join 15] : List Instr).all (fun i => runs i) = true := by decide +kernel

/-- Each of these, one instruction in four of its family, runs from its words in memory. -/
theorem test_runs_memory : ([.ld ⟨8, 0x44, 0, 1⟩ 1, .lds ⟨8, 0x40, 0, 1⟩ 1, .ldc ⟨8, 0x40, 0, 1⟩ 1,
  .atom ⟨8, 0x44, 0, 1⟩ 8 ⟨7, false, false, 10, 12⟩, .ldwp ⟨8, 0x40, 0, 1⟩ 0] : List Instr).all (fun i => runs i) = true := by decide +kernel

/-- Each of these, one instruction in four of its family, runs from its words in memory. -/
theorem test_runs_cross : ([.qpushP 0x74 8, .lgetBelow ⟨8, 2, 4, 15⟩, .pollEvery 4 0 15,
  .lfold 8 2 0 ⟨5, false, 0, 1⟩] : List Instr).all (fun i => runs i) = true := by decide +kernel

/-- Each of these, one instruction in four of its family, runs from its words in memory. -/
theorem test_runs_matrix : ([.mmaBf16 ⟨0x10, 20, 16, false, 1, 0, 0, false, 0, 0, 0, 0, false⟩,
  .mmaE2m1 ⟨0x10, 20, 16, false, 1, 0, 0, false, 0, 0, 0, 0, false⟩, .mst ⟨.reg 8, 16, 1, 0, 3⟩, .cbld ⟨20, 1, 0, 3⟩,
    .mtree 2 0x50 false false, .cbarArriveWait 0x50 false] : List Instr).all (fun i => runs i) = true := by decide +kernel

/-- Each of these, one instruction in four of its family, runs from its words in memory. -/
theorem test_runs_engine : ([.push ⟨0, false, 1, 1, 1, 0⟩, .bararr 0x44 0x46 false false] : List Instr).all (fun i => runs i) = true :=
  by decide +kernel

/-- Each of these, one instruction in four of its family, runs from its words in memory. -/
theorem test_runs_system : ([.cclean 0x54 0x56 false false] : List Instr).all (fun i => runs i) = true := by decide +kernel

/-- PCLASS in system mode and RTT in trap mode. -/
theorem test_runs_modes : (runs (.pclass 0x54 0x5A false false) true && runs (.rtt) false true) = true := by decide +kernel

/-- Instructions whose effect is a trap. -/
theorem test_runs_traps : (raises (.trap 0x54 false) .trap && raises (.halt) .halted && raises (.bpt 5) .breakpoint) = true := by decide +kernel

/-! Witnesses: for each statement with hypotheses, a state and operands that meet them. -/

/-- The machine as the instruction sees it, in the compute stream and in the address stream. -/
def seen (i : Instr) (sys trap : Bool := false) : State :=
  let s := bench i sys trap
  ({ s with agenda := [] } : State).readCpred s.cur

/-- Nothing stands in the way of an instruction of these uses, and every group meets `ok`. -/
def goes (s : State) (u : Uses) (lat : Option Nat) (ok : Ctx → Bool := fun _ => true) : Bool :=
  match s.runs.find s.cur with
  | some r =>
    let cs := r.members.filterMap (s.ctx r)
    !cs.isEmpty && cs.all (fun c => (s.gate u lat c).isNone && !s.poisoned u c && ok c)
  | none => false

theorem going_of_goes {s : State} {u : Uses} {lat : Option Nat} {ok : Ctx → Bool} (h : goes s u lat ok = true) :
    ∃ r cs, Going s r cs u (fun _ => lat) ∧ ∀ c ∈ cs, ok c = true := by
  unfold goes at h
  split at h
  · next r hr =>
    simp only [Bool.and_eq_true, List.all_eq_true, Option.isNone_iff_eq_none, Bool.not_eq_true'] at h
    refine ⟨r, _, ⟨hr, rfl, ?_, fun c hc => (h.2 c hc).1.1, fun c hc => (h.2 c hc).1.2⟩, fun c hc => (h.2 c hc).2⟩
    intro h0
    rw [h0] at h
    exact absurd h.1 (by decide)
  · cases h

/-- Each rule of a list meets the hypotheses of Computes, ComputesWhen and FaultsWhen, where groups meet `ok`. -/
theorem rules_go {s : State} {ps : List LaneRule} {ok : LaneRule → Ctx → Bool}
    (h : ps.all (fun p => goes s p.full (some p.latency) (ok p) && !p.affine) = true) :
    ∀ p ∈ ps, p.affine = false ∧ ∃ r cs, Going s r cs p.full (fun _ => some p.latency) ∧ ∀ c ∈ cs, ok p c = true := by
  intro p hp
  have := List.all_eq_true.1 h p hp
  simp only [Bool.and_eq_true, Bool.not_eq_true'] at this
  exact ⟨this.2, going_of_goes this.1⟩

/-- Each set of uses of a list meets the hypotheses of Starts, Acts and Transfers, where groups meet `ok`. -/
theorem uses_go {s : State} {us : List (Uses × Option Nat)} {ok : Uses → Ctx → Bool}
    (h : us.all (fun e => goes s e.1 e.2 (ok e.1)) = true) :
    ∀ e ∈ us, ∃ r cs, Going s r cs e.1 (fun _ => e.2) ∧ ∀ c ∈ cs, ok e.1 c = true :=
  fun e he => going_of_goes (List.all_eq_true.1 h e he)

/-- What an option holds. -/
theorem holds_some {α : Type} {x : Option α} {p : α → Bool} (h : (x.map p).getD false = true) : ∃ a, x = some a ∧ p a = true := by
  cases x with
  | none => cases h
  | some a => exact ⟨a, rfl, h⟩

/-- Some lane takes part. -/
def takesPart (p : LaneRule) (c : Ctx) : Bool := c.part p.full != 0

/-- The compute stream's machine. -/
abbrev comp : State := seen .nop
/-- The address stream's machine. -/
abbrev addr : State := seen (.ld ⟨8, 0x44, 0, 1⟩ 1)

/-- Three varying registers; three affine ones, the first source with stride 32767. -/
abbrev fv : F3 := ⟨8, 2, 4, false, false⟩
abbrev fa : F3 := ⟨0x68, 0x69, 0x6A, false, false⟩
/-- Two varying registers. -/
abbrev gv : F2 := ⟨8, 2, false⟩

theorem witness_IntegerArithmetic : ∀ p ∈
    [ruleBin 1 fv 32 true rowAdd (fun _ _ => 0) true, ruleBin 2 fv 64 true rowAdd (fun _ _ => 0) true (true && affineDst {}),
      ruleUn 1 8 2 false 32 true rowAdd id true, ruleBin 1 fv 32 false rowMul (fun _ _ => 0) true,
      ruleBin 2 fv 8 true rowMul (fun _ _ => 0), ruleTri 2 fv 6 32 32 true rowMul (fun _ _ _ => 0),
      ruleTri 2 fv 6 32 64 true rowMul (fun _ _ _ => 0),
      { words := 2, row := rowAdd, uses := { srcs := [op32 2, op32 4], dst := some (op32 8), restricted := [0], pdst := [5] } }],
    p.affine = false ∧ ∃ r cs, Going comp r cs p.full (fun _ => some p.latency) ∧ ∀ c ∈ cs, takesPart p c = true :=
  rules_go (by decide +kernel)

theorem witness_AffineClosure : ∀ p ∈
    [ruleBin 1 fa 32 true rowAdd (fun _ _ => 0) true, ruleUn 1 0x68 0x69 false 32 true rowAdd id true,
      ruleBin 1 ⟨0x68, 0x6A, 0x58, false, false⟩ 32 true rowMul (fun _ _ => 0) true,
      ruleUn 1 0x68 0x6A false 32 false rowAdd id true],
    (∃ r cs, Going comp r cs p.full (fun _ => some p.latency) ∧ ∀ c ∈ cs,
      (takesPart p c && strideOk ((p.uses.srcs.map (c.affineOf p.ext)).foldl (fun (t : Int) e => t + e.2) 0)) = true) ∧
    p.affine = true ∧ p.uses.dst = some (op32 0x68) ∧ (op32 0x68).names = .a 8 := by
  have h : ([ruleBin 1 fa 32 true rowAdd (fun _ _ => 0) true, ruleUn 1 0x68 0x69 false 32 true rowAdd id true,
      ruleBin 1 ⟨0x68, 0x6A, 0x58, false, false⟩ 32 true rowMul (fun _ _ => 0) true,
      ruleUn 1 0x68 0x6A false 32 false rowAdd id true] : List LaneRule).all (fun p =>
        goes comp p.full (some p.latency) (fun c => takesPart p c &&
          strideOk ((p.uses.srcs.map (c.affineOf p.ext)).foldl (fun (t : Int) e => t + e.2) 0)) &&
        p.affine && decide (p.uses.dst = some (op32 0x68))) = true := by decide +kernel
  intro p hp
  have := List.all_eq_true.1 h p hp
  simp only [Bool.and_eq_true, decide_eq_true_eq] at this
  exact ⟨going_of_goes this.1.1, this.1.2, this.2, by decide⟩

/-- Strides at both ends of their range, and beyond them (01 R37). -/
theorem witness_AffineClosure_bounds :
    strideOk 32767 = true ∧ strideOk (-32768) = true ∧ strideOk 32768 = false ∧ strideOk (-32769) = false := by decide

theorem witness_DivisionAndOrder : (∀ p ∈
    [ruleBin 1 fv 32 true rowDiv (fun _ _ => 0), ruleBin 2 fv 64 false rowDiv (fun _ _ => 0),
      ruleBin 1 fv 32 true rowAdd (fun _ _ => 0), ruleUn 1 8 2 false 32 true rowAdd id, ruleUn 2 8 2 false 64 true rowAdd id],
    p.affine = false ∧ ∃ r cs, Going comp r cs p.full (fun _ => some p.latency) ∧ ∀ c ∈ cs, takesPart p c = true) ∧
    ((1 : Int) ≠ 0 ∧ ¬(true = true ∧ intMin 32 true = intMin 32 true ∧ (1 : Int) = -1)) ∧
    ((-1 : Int) ≠ 0 ∧ ¬(true = true ∧ intMax 32 true = intMin 32 true ∧ (-1 : Int) = -1)) :=
  ⟨rules_go (by decide +kernel), by decide, by decide⟩

theorem witness_BitOperations : (∀ p ∈
    [ruleBin 1 fv 32 false rowAdd (fun _ _ => 0), ruleUn 1 8 2 false 32 false rowAdd id, ruleTri 2 fv 6 32 32 false rowAdd (fun _ _ _ => 0)],
    p.affine = false ∧ ∃ r cs, Going comp r cs p.full (fun _ => some p.latency) ∧ ∀ c ∈ cs, takesPart p c = true) ∧
    (0xFFFFFFFF < 2 ^ 32 ∧ 0xFFFFFFFF ≠ 0 ∧ 0xFFFFFFFF % 2 ^ 32 ≠ 0) ∧ (1 < 2 ^ 32 ∧ 1 ≠ 0 ∧ 1 % 2 ^ 32 ≠ 0) :=
  ⟨rules_go (by decide +kernel), by decide, by decide⟩

theorem witness_AddressAndDot : ∀ p ∈
    [{ words := 1, row := rowAdd, ext := (64, false), uses := { srcs := [op64 2, op32 4], dst := some (op64 8) } },
      ruleBin 1 fv 64 false rowAdd (fun _ _ => 0), ruleDot 1 fv 8 true .sad false false false, ruleDot 2 fv 6 false .dp2a true false true],
    p.affine = false ∧ ∃ r cs, Going comp r cs p.full (fun _ => some p.latency) ∧ ∀ c ∈ cs, takesPart p c = true :=
  rules_go (by decide +kernel)

theorem witness_SelectMovePromote : (∀ p ∈
    [{ words := 2, row := rowAdd, ext := (64, false), uses := { srcs := [op64 2, op64 4], dst := some (op64 8), restricted := [0] } },
      { words := 2, row := rowAdd, uses := { srcs := [op32 2, op32 4], preds := [0], pdst := [4] } }, rulePred 4 0 8 (fun x y => x && y),
      ruleUn 1 8 2 false 32 false rowAdd id true,
      { words := 1, row := rowAdd, uses := { dst := some (op32 8), alsoReads := [0x20F] } },
      { words := 1, row := rowAdd, ext := (32, true), uses := { dst := some (op32 8) } },
      { words := 1, row := rowAdd, uses := { srcs := [op32 8], dst := some (op32 8), badType := tyOf 8 == .aff, badOperand := isQueue 8 } },
      { words := 1, row := ⟨some 2, none, none⟩, uses := { srcs := [op64 0x54], dst := some (op64 8), badType := tyOf 0x54 == .vary } }],
    p.affine = false ∧ ∃ r cs, Going comp r cs p.full (fun _ => some p.latency) ∧ ∀ c ∈ cs, takesPart p c = true) ∧
    (∃ r cs, Going comp r cs { srcs := [op32 0x58], group := true, compOnly := true, alsoWrites := [0x20F], badType := tyOf 0x58 != .uni }
      (fun _ => some 1) ∧ ∀ c ∈ cs, (c.act != 0) = true) :=
  ⟨rules_go (by decide +kernel), going_of_goes (ok := fun c => c.act != 0) (by decide +kernel)⟩

/-- PROMA with a stride that is in range, and with one (0x18000) that is not. -/
theorem witness_SelectMovePromote_proma :
    (let p (b : Code) : LaneRule := { words := 1, row := ⟨none, some 2, none⟩, uses :=
        { srcs := [op32 0x58, op32 b], dst := some (op32 0x68),
          badType := tyOf 0x68 != .aff || [op32 0x58, op32 b].any (fun o => o.ty != .uni) } }
     let st (b : Code) (c : Ctx) : Int := signedOf 32 ((c.values (p b).uses (lowestLane (c.part (p b).full))).getD 1 0)
     (∃ r cs, Going comp r cs (p 0x58).full (fun _ => some (p 0x58).latency) ∧ ∀ c ∈ cs, strideOk (st 0x58 c) = true) ∧
     (∃ r cs, Going comp r cs (p 0x54).full (fun _ => some (p 0x54).latency) ∧ ∀ c ∈ cs,
       (takesPart (p 0x54) c && !strideOk (st 0x54 c)) = true) ∧ (p 0x58).affine = false ∧ (p 0x54).affine = false) := by
  refine ⟨going_of_goes (ok := fun c => strideOk _) (by decide +kernel), going_of_goes (ok := fun c => takesPart _ c && !strideOk _)
    (by decide +kernel), by decide, by decide⟩

/-- Demotion: equal values (all 0), and the values of LANEID, which differ, make a progression, and in XOR with themselves
shifted make none. -/
theorem witness_Demotion :
    (let d (ty : Ty) : Code := if ty = .uni then 0x54 else 0x68
     let u (a : Code) (ty : Ty) : Uses :=
       { srcs := [op32 a], dst := some (op32 (d ty)), anySrc := true, closed := true, badType := tyOf (d ty) != ty }
     let p (u : Uses) : LaneRule := { words := 1, row := ⟨none, some 2, some 2⟩, uses := u }
     let vals (a : Code) (c : Ctx) : List Nat := (lanesOf (c.part (p (u a .uni)).full)).map (fun L => (c.values (u a .uni) L).getD 0 0)
     (∃ r cs, Going comp r cs (p (u 2 .uni)).full (fun _ => some (p (u 2 .uni)).latency) ∧
       ∀ c ∈ cs, ((vals 2 c).all (fun x => x == (vals 2 c).headD 0)) = true) ∧
     (∃ r cs, Going comp r cs (p (u 0x79 .uni)).full (fun _ => some (p (u 0x79 .uni)).latency) ∧
       ∀ c ∈ cs, (takesPart (p (u 0x79 .uni)) c && (vals 0x79 c).any (fun x => x != (vals 0x79 c).headD 0)) = true) ∧
     (∃ r cs, Going comp r cs (p { u 2 .aff with closed := false }).full (fun _ => some (p { u 2 .aff with closed := false }).latency) ∧
       ∀ c ∈ cs, takesPart (p { u 2 .aff with closed := false }) c = true)) ∧
    progression [(0, 7), (31, 7 + 31 * 32767)] = some (7, 32767) ∧ progression [(0, 7), (31, 7 + 31 * 32768)] = none ∧
    progression [(0, 7), (31, 8)] = none ∧ progression [(31, 0xFFFFFFFF)] = some (0xFFFFFFFF, 0) := by
  refine ⟨⟨going_of_goes (ok := fun c => List.all _ _) (by decide +kernel),
    going_of_goes (ok := fun c => takesPart _ c && List.any _ _) (by decide +kernel),
    going_of_goes (ok := fun c => takesPart _ c) (by decide +kernel)⟩, by decide, by decide, by decide, by decide⟩

theorem witness_FloatingPoint : ∀ p ∈
    [ruleFp 1 (srcs3 fv) [] 8 (fun _ => (0, 0)), ruleFp 2 (srcs3 fv) [8] 8 (fun _ => (0, 0)) (isQueue 8),
      ruleFp 2 (srcs3 fv) [6] 8 (fun _ => (0, 0)), ruleFp 1 [(2, false)] [] 8 (fun _ => (0, 0)),
      { words := 2, row := ⟨some 2, none, some 1⟩, uses := { srcs := [op32 2, op32 4], preds := [0], pdst := [4] } }],
    p.affine = false ∧ ∃ r cs, Going comp r cs p.full (fun _ => some p.latency) ∧ ∀ c ∈ cs, takesPart p c = true :=
  rules_go (by decide +kernel)

theorem witness_PackedAndConverted : (∀ p ∈
    [ruleFp 1 (srcs3 fv) [] 8 (fun _ => (0, 0)), ruleFp 2 (srcs3 fv) [6] 8 (fun _ => (0, 0)),
      { words := 2, row := rowFadd, uses := { srcs := [⟨2, 1, false⟩, ⟨8, 1, false⟩], dst := some ⟨8, 1, false⟩, compOnly := true } },
      { words := 2, row := rowFadd, uses := { srcs := [op32 2, op32 4], dst := some (op32 8), compOnly := true } },
      { words := 1, row := rowFadd, uses := { srcs := [op32 2], dst := some (op64 8) } }],
    p.affine = false ∧ ∃ r cs, Going comp r cs p.full (fun _ => some p.latency) ∧ ∀ c ∈ cs, takesPart p c = true) ∧
    cvFmt 5 = .float .e2m1 :=
  ⟨rules_go (by decide +kernel), by decide⟩

/-- Uses of the special functions and of the abacus, with room for one more pending instruction. -/
theorem witness_SpecialFunctions :
    ∃ r cs, Going comp r cs { srcs := [op32 2], dst := some (op32 8) } (fun _ => none) ∧ ∀ c ∈ cs,
      ((comp.varWait c (c.part { srcs := [op32 2], dst := some (op32 8) }) 6).isNone) = true :=
  going_of_goes (ok := fun c => (comp.varWait c (c.part { srcs := [op32 2], dst := some (op32 8) }) 6).isNone) (by decide +kernel)

theorem witness_AbacusInstructions : ∀ e ∈
    [(({ srcs := [op32 2], compOnly := true, alsoReads := [0x403], alsoWrites := [0x403] } : Uses), (none : Option Nat)),
      ({ compOnly := true, alsoReads := [0x403], dst := some (op32 8) }, none),
      ({ srcs := [op32 2], compOnly := true, alsoReads := [0x403], alsoWrites := [0x403], dst := some (op32 8) }, none)],
    ∃ r cs, Going comp r cs e.1 (fun _ => e.2) ∧ ∀ c ∈ cs, (c.act != 0 && (comp.varWait c (c.part e.1) 1).isNone) = true :=
  uses_go (ok := fun u c => c.act != 0 && (comp.varWait c (c.part u) 1).isNone) (by decide +kernel)

/-- Accumulators: a zero one, one that has overflowed, one that holds an infinity, one that holds a NaN. -/
theorem witness_AbacusSums :
    (let z : Abacus := ⟨0, false, false, false, false⟩
     z.inf = false ∧ z.ovf = false ∧ z.body = 0 ∧ (z.nan || z.ivd) = false) ∧
    (let y := [AbacusInput.ofVal (FFmt.f32.decode 0x3F800000)].foldl Abacus.add ⟨0, false, false, false, false⟩
     y.ovf = false ∧ y.inf = false) ∧
    (let y := [AbacusInput.ofVal (FFmt.f32.decode 0x7F800000)].foldl Abacus.add ⟨0, false, false, false, false⟩
     y.inf = true ∧ (y.nan || y.ivd) = false ∧ FFmt.bf16.ieee = true) ∧
    (let y := [AbacusInput.ofVal (FFmt.f32.decode 0x7FC00000)].foldl Abacus.add ⟨0, false, false, false, false⟩
     (y.nan || y.ivd) = true) ∧
    (∃ e, FFmt.f32.decode 0x7F7FFFFF = .num e) ∧ (∃ e, FFmt.f32.decode 1 = .num e) ∧
    (∃ e, AbacusInput.ofProduct (FFmt.bf16.decode 1) (FFmt.bf16.decode 1) = .num e) := by
  refine ⟨by decide +kernel, by decide +kernel, by decide +kernel, by decide +kernel, ⟨_, rfl⟩, ⟨_, rfl⟩, ⟨_, rfl⟩⟩

theorem witness_CrossLane : (∀ p ∈
    [{ words := 1, row := ⟨some 4, none, none⟩, uses :=
        { srcs := [op32 2, op32 4], dst := some (op32 8), member := some 15, alsoReads := [0x50F], badType := tyOf 8 != .vary } },
      { words := 1, row := ⟨some 2, none, some 1⟩, uses := { preds := [0], pdst := [4], member := some 15, alsoReads := [0x50F] } },
      { words := 1, row := ⟨some 2, none, some 1⟩, uses := { preds := [0], dst := some (op32 8), member := some 0, alsoReads := [0x500] } }],
    p.affine = false ∧ ∃ r cs, Going comp r cs p.full (fun _ => some p.latency) ∧ ∀ c ∈ cs, takesPart p c = true) ∧
    (∀ e ∈ [(({ srcs := [op32 2], dst := some (op32 8), member := some 0, alsoReads := [0x500], anySrc := true } : Uses), (none : Option Nat))],
      ∃ r cs, Going comp r cs e.1 (fun _ => e.2) ∧ ∀ c ∈ cs, ((comp.varWait c (c.part e.1) 6).isNone) = true) ∧
    ([0, 0xFFFFFFFF] ≠ ([] : List Nat) ∧ ∀ v ∈ [0, 0xFFFFFFFF], v < 2 ^ 32) :=
  ⟨rules_go (by decide +kernel), uses_go (ok := fun u c => (comp.varWait c (c.part u) 6).isNone) (by decide +kernel), by decide⟩

/-- The machine with its group changed. -/
def withGroup (f : Group → Group) (s : State := comp) : State := { s with groups := s.groups.modify 4 f }

/-- A pending instruction of the group: its kind, its accesses and its results. -/
def pending (k : OpKind) (todo : List LaneAccess) (rs : List LaneResult) : VOp :=
  ⟨0, 4, .addr, k, true, .load, 0x80000001, 1, some 3, [], todo, false, rs, 0, [], none, ⟨2, false, false, 0⟩, 8, 0⟩

/-- The machine with one pending instruction, number 9. -/
def withOp (o : VOp) : State := { addr with ops := [(9, o)] }

/-- A result of lane `L`. -/
def resultOf (L : Fin 32) : LaneResult := ⟨L, [.vElem 8 L 7], [], none⟩

/-- Four bytes at 0x18000, in lane 31. -/
def wordAt (a : Act) : LaneAccess := ⟨31, .phys, 0x18000, 0x18000, 4, a⟩

theorem witness_Completions :
    (∀ k ∈ [OpKind.sfu, .xrd, .xscan, .lfold, .push, .load none, .load (some 3), .atomic none, .store],
      (withOp (pending k [] [resultOf 0, resultOf 31])).ops.find 9 = some (pending k [] [resultOf 0, resultOf 31]) ∧
      (pending k [] [resultOf 0, resultOf 31]).kind = k ∧ (pending k [] [resultOf 0, resultOf 31]).todo = []) ∧
    (pending .qtok [wordAt .load] []).kind = .qtok ∧
    (pending .sfu [] [resultOf 0, resultOf 31]).results.any (fun r => !laneIn 1 r.lane) = true ∧
    (pending .sfu [] [resultOf 0, resultOf 31]).results.any (fun r => !laneIn 0x80000001 r.lane) = false := by
  refine ⟨?_, rfl, by decide, by decide⟩
  intro k _
  exact ⟨rfl, rfl, rfl⟩

/-- The premises of OpDone. -/
def isDone (s : State) (op : Nat) (o : VOp) : Bool :=
  s.ops.find op == some o && o.todo.isEmpty && o.poisoned.isNone && o.results.all (fun r => r.poison.isNone) &&
  (o.resultWrites ++ o.flags).all RegWrite.own && s.groups.all (fun e => !e.2.killed) &&
  (match s.groups.find o.gid with
   | some g => decide (g.status = .running) && g.pendingTrap.isNone && !(g.sa.allExited && g.sc.allExited)
   | none => false)

theorem done_of {s : State} {op : Nat} {o : VOp} (h : isDone s op o = true) : ∃ g, OpDone s op o g := by
  unfold isDone at h
  split at h
  · next g hg =>
    simp only [Bool.and_eq_true, beq_iff_eq, List.isEmpty_iff, Option.isNone_iff_eq_none, List.all_eq_true, decide_eq_true_eq,
      Bool.not_eq_true'] at h
    obtain ⟨⟨⟨⟨⟨⟨h1, h2⟩, h3⟩, h4⟩, h5⟩, h6⟩, ⟨h7, h8⟩, h9⟩ := h
    exact ⟨g, h1, h2, hg, h7, h8, h9, h6, ⟨h3, h4⟩, h5⟩
  · simp at h

/-- A pending instruction of each kind that has nothing left but to write its results, in lanes 0 and 31, with flags; the store
waits for no other. -/
theorem witness_Completions_end : (∀ k ∈ [OpKind.load none, .load (some 3), .atomic none, .qtok, .sfu, .xrd, .xscan, .lfold, .push, .store],
      let o := { pending k [] [resultOf 0, resultOf 31] with flags := [.flags 31 1] }
      (∃ g, OpDone (withOp o) 9 o g) ∧ o.kind = k ∧ (∀ r ∈ o.results, laneIn 0x80000001 r.lane = true) ∧
        (withOp o).windowStoreWaits 9 = false ∧ (∀ e ∈ (withOp o).ops, e.1 < 9 → e.2.gid = o.gid → e.2.todo = [])) := by
  intro k hk
  simp only [List.mem_cons, List.not_mem_nil, or_false] at hk
  rcases hk with rfl | rfl | rfl | rfl | rfl | rfl | rfl | rfl | rfl | rfl <;> exact ⟨done_of (by decide +kernel), rfl, by decide +kernel⟩

/-- A group, its team with nothing landed late and with a write of an earlier cycle; results due and not due. -/
theorem witness_WritesLand :
    (comp.groups.find 4).any (fun g => (comp.teams.find g.team).any (fun m => m.late.isEmpty)) = true ∧
    (withGroup (fun g => g.modStream .comp (fun x => { x with landing := [⟨1, [.pBit 3 31 true, .aReg 15 7 (-1), .mReg 15 9]⟩, ⟨2, []⟩] }))).groups.find 4
      ≠ none := by decide +kernel

/-- A branch to the header of the clause; the queue of BRQ; a return stack with an entry, and one without. -/
theorem witness_TransfersOfControl :
    (∃ r cs, Going comp r cs { preds := [0] } (fun _ => none) ∧ ∀ c ∈ cs,
      (c.act != 0 && (comp.checkTarget c.g comp.cur (c.pc + ((-1 : BitVec 21).signExtend 64 <<< 2)) == .good)) = true) ∧
    (let s := seen (.brq false (-1))
     ∃ r cs, Going s r cs { srcs := [op32 0x76] } (fun _ => none) ∧ ∀ c ∈ cs,
      (c.act != 0 && (s.checkTarget c.g s.cur (c.pc + ((-1 : BitVec 21).signExtend 64 <<< 2)) == .good)) = true) ∧
    (∃ r cs, Going comp r cs { srcs := [op64 0x52] } (fun _ => none) ∧ ∀ c ∈ cs,
      ((lanesOf c.act).all (fun L => comp.checkTarget c.g comp.cur (BitVec.ofNat 64 ((c.values { srcs := [op64 0x52] } L).getD 0 0)) == .good)) = true) ∧
    (∃ r cs, Going comp r cs {} (fun _ => none) ∧ ∀ c ∈ cs, (c.act != 0) = true) :=
  ⟨going_of_goes (ok := fun c => c.act != 0 && _) (by decide +kernel), going_of_goes (ok := fun c => c.act != 0 && _) (by decide +kernel),
    going_of_goes (ok := fun c => List.all _ _) (by decide +kernel), going_of_goes (ok := fun c => c.act != 0) (by decide +kernel)⟩

theorem witness_CallsAndReturns :
    (∃ r cs, Going comp r cs { preds := [0] } (fun _ => none) ∧ ∀ c ∈ cs, (c.act != 0 && c.fullStacks (lanesOf c.act) == [] &&
      (match comp.spills c (lanesOf c.act) with | .ok _ => true | .error _ => false) &&
      (comp.checkTarget c.g comp.cur (c.pc + ((-1 : BitVec 21).signExtend 64 <<< 2)) == .good)) = true) ∧
    (∃ r cs, Going comp r cs {} (fun _ => none) ∧ ∀ c ∈ cs, ((lanesOf c.act).all (fun L =>
      !((c.g.stream c.st).lanes[L]).rstack.isEmpty &&
        (comp.checkTarget c.g comp.cur (((c.g.stream c.st).lanes[L]).rstack.headD 0) == .good))) = true) ∧
    (∃ r cs, Going addr r cs {} (fun _ => none) ∧ ∀ c ∈ cs, ((lanesOf c.act).all (fun L =>
      ((c.g.stream c.st).lanes[L]).rstack.isEmpty && ((c.g.stream c.st).lanes[L]).spilled == 0)) = true) :=
  ⟨going_of_goes (ok := fun c => c.act != 0 && _ && _ && _) (by decide +kernel), going_of_goes (ok := fun c => List.all _ _) (by decide +kernel),
    going_of_goes (ok := fun c => List.all _ _) (by decide +kernel)⟩

/-- A stack that is not empty, whose oldest entry can be spilled; a run that waits for a refill. -/
theorem witness_ReturnStacks :
    (∃ g, comp.groups.find 4 = some g ∧ (!(g.stream .comp).lanes[(31 : Fin 32)].rstack.isEmpty) = true) ∧
    comp.viralBlocks 0x18000 = false ∧ comp.mem.wf = true ∧
    (let s : State := { comp with runs := comp.runs.map (fun e => (e.1, { e.2 with stalled := some .refill })) }
     ∃ r, s.runs.find 0 = some r ∧ decide (r.stalled = some .refill) = true) :=
  ⟨holds_some (by decide +kernel), by decide +kernel, by decide +kernel, holds_some (by decide +kernel)⟩

theorem witness_RejoinMasks :
    (∀ e ∈ ([({ srcs := [op32 0x54], dst := some (op32 8), compOnly := true, badType := tyOf 0x54 != .uni || tyOf 8 == .aff, alsoReads := [0x501, arrivalRes .addr 1, arrivalRes .comp 1] }, some 2),
        (joinUses 15, none)] : List (Uses × Option Nat)),
      ∃ r cs, Going comp r cs e.1 (fun _ => e.2) ∧ ∀ c ∈ cs, (c.act != 0) = true) ∧
    (∃ g, comp.groups.find 4 = some g ∧ ((List.finRange 32).all (fun L => !laneIn g.j[(1 : Fin 16)] L)) = true) ∧
    (∃ g, comp.groups.find 4 = some g ∧ (laneIn g.j[(15 : Fin 16)] 31 && !laneIn (g.stream .comp).arrivals[(15 : Fin 16)] 31 &&
      !((g.stream .comp).lanes[(31 : Fin 32)]).exited) = true) :=
  ⟨uses_go (ok := fun _ c => c.act != 0) (by decide +kernel), holds_some (by decide +kernel), holds_some (by decide +kernel)⟩

/-- A group that meets the conditions of a memory instruction: the addresses lead somewhere, nothing ordered is outstanding, no
drain point is met, there is room. -/
def memReady (s : State) (i : MemInstr) (c : Ctx) : Bool :=
  !s.orderedOutstanding c.gid && (i.lanes c.act).all (fun L => match i.lanePlace s c L with | .at _ _ => true | _ => false) &&
  (i.accesses s c).all (fun a => a.space != .phys || !s.atDrainPoint c.g.core a.addr) && (s.varWait c c.act i.m.tk.toNat).isNone

theorem memReady_of {s : State} {i : MemInstr} {c : Ctx} (h : memReady s i c = true) : MemReady s i c := by
  unfold memReady at h
  simp only [Bool.and_eq_true, List.all_eq_true, Bool.not_eq_true', Option.isNone_iff_eq_none] at h
  refine ⟨h.1.1.1, fun L hL => ?_, fun a ha hp => ?_, h.2⟩
  · have := h.1.1.2 L hL
    split at this
    · next sp k hk => exact ⟨sp, k, hk⟩
    · cases this
  · have := h.1.2 a ha
    simpa [hp] using this

/-- Memory instructions of every space: at 0x18000 in the page, at the ends of scratch and of the window, in the cluster, a write
pointer. -/
def memForms : List Instr :=
  [.ld ⟨8, 0x44, 0, 1⟩ 1, .stMx ⟨8, 0x44, 0, 1⟩ ⟨4, false, false, 0x7FE0⟩, .lds ⟨8, 0x40, 0, 1⟩ 0, .ldsMx ⟨8, 0x40, 0, 1⟩ ⟨2, false, true, 8188⟩,
    .stsMx ⟨8, 0x40, 0, 1⟩ ⟨3, false, false, 4088⟩, .ldc ⟨8, 0x40, 0, 1⟩ 0, .stc ⟨8, 0x40, 0, 6⟩ 7,
    .atom ⟨8, 0x44, 0, 1⟩ 8 ⟨7, false, false, 10, 12⟩, .fatom ⟨8, 0x44, 0, 1⟩ 2 true 10, .ldwp ⟨8, 0x40, 0, 1⟩ 0,
    .ldwpMx ⟨8, 0x40, 0, 1⟩ 120, .pref 0x44 0 1 1]

theorem witness_MemoryInstructions : ∀ j ∈ memForms, ∃ w i, memOf j = some (w, i) ∧
    ∃ r cs, Going addr r cs i.uses (fun _ => none) ∧ ∀ c ∈ cs, c.act ≠ 0 ∧ MemReady addr i c := by
  have h : memForms.all (fun j => match memOf j with
      | some e => goes addr e.2.uses none (fun c => c.act != 0 && memReady addr e.2 c)
      | none => false) = true := by decide +kernel
  intro j hj
  have hg := List.all_eq_true.1 h j hj
  split at hg
  · next e he =>
    obtain ⟨r, cs, hgo, hok⟩ := going_of_goes hg
    refine ⟨e.1, e.2, he, r, cs, hgo, fun c hc => ?_⟩
    have := hok c hc
    simp only [Bool.and_eq_true, bne_iff_ne, ne_eq] at this
    exact ⟨this.1, memReady_of this.2⟩
  · cases hg

/-- Addresses that are refused: the word behind scratch, another cluster's scratch, an unmapped write pointer, an odd address, all
met in lane 0, the lowest. -/
theorem witness_MemoryInstructions_faults : ∀ e ∈
    ([(.ldsMx ⟨8, 0x40, 0, 1⟩ ⟨2, false, false, 4096⟩, .permission), (.ldcMx ⟨8, 0x40, 0, 1⟩ ⟨2, false, false, 0x40000⟩, .permission),
      (.ldwpMx ⟨8, 0x40, 0, 1⟩ 128, .permission), (.ldMx ⟨8, 0x44, 0, 1⟩ ⟨2, false, false, 1⟩, .misaligned)] : List (Instr × Cause)),
    ∃ w i, memOf e.1 = some (w, i) ∧ i.uses.pushes.isSome = false ∧ ∃ r cs, Going addr r cs i.uses (fun _ => none) ∧ ∀ c ∈ cs,
      (c.act != 0 && !addr.orderedOutstanding c.gid && (i.lanes c.act).head? == some 0 && i.lanePlace addr c 0 == .fault e.2 &&
        (i.lanes c.act).all (fun L => match i.lanePlace addr c L with | .later _ => false | _ => true)) = true := by
  intro e he
  have h : ([(.ldsMx ⟨8, 0x40, 0, 1⟩ ⟨2, false, false, 4096⟩, .permission), (.ldcMx ⟨8, 0x40, 0, 1⟩ ⟨2, false, false, 0x40000⟩, .permission),
      (.ldwpMx ⟨8, 0x40, 0, 1⟩ 128, .permission), (.ldMx ⟨8, 0x44, 0, 1⟩ ⟨2, false, false, 1⟩, .misaligned)] : List (Instr × Cause)).all
      (fun e => match memOf e.1 with
        | some x => !x.2.uses.pushes.isSome && goes addr x.2.uses none (fun c =>
            c.act != 0 && !addr.orderedOutstanding c.gid && (x.2.lanes c.act).head? == some 0 && x.2.lanePlace addr c 0 == .fault e.2 &&
            (x.2.lanes c.act).all (fun L => match x.2.lanePlace addr c L with | .later _ => false | _ => true))
        | none => false) = true := by decide +kernel
  have hg := List.all_eq_true.1 h e he
  split at hg
  · next x hx =>
    simp only [Bool.and_eq_true, Bool.not_eq_true'] at hg
    exact ⟨x.1, x.2, hx, hg.1, going_of_goes hg.2⟩
  · cases hg

/-- Accesses of every kind; an old and an operand value at the ends of their range. -/
theorem witness_AccessesPerformed :
    (∀ a ∈ [Act.load, .store 0xFFFFFFFF, .atom 7 false 5 0, .fatom true 0x3F80], ∃ o, (withOp (pending .store [wordAt a] [])).ops.find 9 = some o ∧
      o.todo = [wordAt a] ∧ (wordAt a).space = .phys ∧ 0 < (wordAt a).size ∧ (withOp (pending .store [wordAt a] [])).viral = false) ∧
    addr.mem.wf = true ∧ (0xFFFFFFFF < 2 ^ 32 ∧ 0 < 2 ^ 32) :=
  ⟨fun _ _ => ⟨_, rfl, rfl, rfl, Nat.zero_lt_succ _, rfl⟩, by decide +kernel, by decide⟩

/-- A token; a queue that is read; a barrier at which the only group has arrived, and one at which it has not. -/
theorem witness_QueuesAndTeamBarriers :
    (∃ r cs, Going addr r cs { dst := some (op32 0x77) } (fun _ => none) ∧ ∀ c ∈ cs,
      (c.act != 0 && !addr.orderedOutstanding c.gid && (addr.varWait c c.act 6).isNone) = true) ∧
    (∀ p ∈ ([{ words := 1, row := ⟨some 1, some 1, some 1⟩, uses := { dst := some (op32 0x74), preds := [0], compOnly := true } }] : List LaneRule),
      p.affine = false ∧ ∃ r cs, Going comp r cs p.full (fun _ => some p.latency) ∧ ∀ c ∈ cs, takesPart p c = true) ∧
    (∀ p ∈ ([{ words := 1, row := ⟨some 2, none, some 1⟩, uses := { dst := some (op32 8) } }] : List LaneRule),
      p.affine = false ∧ ∃ r cs, Going comp r cs p.full (fun _ => some p.latency) ∧ ∀ c ∈ cs, (comp.yMode c.g == 0) = true) ∧
    codeNames 0x70 = .q 0 ∧ codeNames 0x77 = .q 7 ∧
    (∃ r cs, Going comp r cs { srcs := [op32 0x50], cover := true, whole := true, badType := tyOf 0x50 != .uni } (fun _ => none) ∧
      ∀ c ∈ cs, (c.act != 0) = true) ∧
    (∃ t, comp.teams.find 3 = some t ∧ (t.tbar[tbarIx .comp 0].arrived == 0) = true) ∧
    (let s : State := { comp with teams := comp.teams.modify 3 (fun t => { t with tbar := t.tbar.set (tbarIx .comp 3) ⟨0, 1, 0⟩ }) }
     ∃ t, s.teams.find 3 = some t ∧ (t.tbar[tbarIx .comp 3].arrived == 1 && s.groups.all (fun e =>
       e.2.team == 3 && t.tbar[tbarIx .comp 3].arrived.getLsbD e.2.groupId)) = true) :=
  ⟨going_of_goes (ok := fun c => c.act != 0 && _ && _) (by decide +kernel), rules_go (by decide +kernel),
    rules_go (ok := fun _ c => comp.yMode c.g == 0) (by decide +kernel), by decide, by decide,
    going_of_goes (ok := fun c => c.act != 0) (by decide +kernel), holds_some (by decide +kernel), holds_some (by decide +kernel)⟩

/-- PUSH into a queue of the function's, with room in it and none; guards; a guarded command whose guard is set, clear and
unresolved. -/
theorem witness_PushAndGuards :
    (∀ full ∈ [false, true],
      let s : State := if full then { addr with queues := [(0, { EQueue.reset with cmds := List.replicate 64 ⟨[], 0, 4, 1, 0, false, true⟩ })] } else addr
      ∃ r cs, Going s r cs (pushUses ⟨0, false, 15, 3, 1, 0⟩ false) (fun _ => none) ∧ ∀ c ∈ cs,
        (c.act != 0 && s.ownsQueue c.g 0 && !s.orderedOutstanding c.gid && (s.varWait c c.act 1).isNone && s.yMode c.g == 0 &&
          !s.appendWaits (32 * c.g.die) (appendRank c.g.core (s.cur % 6 - 4)) &&
          decide (64 ≤ (s.queues.getD (32 * c.g.die) EQueue.reset).cmds.length) == full) = true) ∧
    (∃ r cs, Going comp r cs { compOnly := true, badOperand := (15 : BitVec 4) == 0 } (fun _ => none) ∧ ∀ c ∈ cs, (c.act != 0) = true) ∧
    (∀ v ∈ [Guard.isTrue, .isFalse, .unresolved],
      let q : QCmd := ⟨[], 15, 4, 1, 0, false, false⟩
      let h := comp.groups.modify 4 (fun g => { g with guards := g.guards.set 15 v })
      let s : State := { comp with queues := [(3, { EQueue.reset with cmds := [q] })], groups := h }
      (s.queues.getD 3 EQueue.reset).cmds = [q] ∧ q.guard ≠ 0 ∧ q.started = false ∧
      s.guardTaken 3 q = false ∧ ∃ g, s.groups.find 4 = some g ∧ (g.guards[15] == v && g.status == .running) = true) := by
  refine ⟨?_, going_of_goes (ok := fun c => c.act != 0) (by decide +kernel), ?_⟩
  · intro full hf
    rcases List.mem_pair.1 hf with rfl | rfl <;>
      exact going_of_goes (ok := fun c => c.act != 0 && _ && _ && _ && _ && _ && _) (by decide +kernel)
  · intro v hv
    simp only [List.mem_cons, List.not_mem_nil, or_false] at hv
    rcases hv with rfl | rfl | rfl <;> exact ⟨rfl, by decide, rfl, by decide +kernel, holds_some (by decide +kernel)⟩

/-- The barrier object at 0x18000, within reach; BARWAIT of a group that runs, with nothing and with something expected. -/
theorem witness_BarrierObjects :
    (∃ r cs, Going addr r cs { srcs := [op64 0x44, op32 0x46], addrStream := true, badType := tyOf 0x44 != .uni || tyOf 0x46 != .uni } (fun _ => none) ∧
      ∀ c ∈ cs, (c.act != 0 && !addr.orderedOutstanding c.gid && (addr.varWait c c.act 0).isNone &&
        (match addr.translate c.g.die c.g.fn c.g.part (.slot addr.cur) .both 0x18000 with
         | .ok k => decide (k = 0x18000) && !addr.atDrainPoint c.g.core k | _ => false)) = true) ∧
    (∃ r cs, Going addr r cs (barwaitUses ⟨8, 0x44, false, 0x78, 0, 1⟩) (fun _ => none) ∧ ∀ c ∈ cs, (c.act != 0) = true) ∧
    (∀ n ∈ [0, 1], let s : State := { withOp (pending (.barwait 8 0x18000 (some 0)) [] []) with mem := tables.writeN 0x18000 (bytesOfNat 8 n) }
      (s.ops.find 9).map VOp.kind = some (.barwait 8 0x18000 (some 0)) ∧ (s.groups.find 4).map Group.status = some .running ∧
      (s.groups.find 4).all (fun g => !g.trapMode && !g.transitWait && g.pendingTrap.isNone) = true ∧ s.homeWaits 0x18000 = false ∧
      s.translateNow 0 0 .read 0x18000 = .ok 0x18000 ∧ signedOf 64 (natOfBytes (s.mem.readN 0x18000 16)) = n ∧
      natOfBytes (s.mem.readN 0x18000 16) / 2 ^ 64 % 2 ^ 32 = 0 ∧ s.poisonIn 0x18000 16 = false ∧
      (s.ops.find 9).all (fun o => o.poisoned.isNone) = true ∧
      (s.groups.find 4).all (fun g => !(g.sa.allExited && g.sc.allExited)) = true ∧ s.groups.all (fun e => !e.2.killed) = true) ∧
        (2 ^ 64 - 1 < 2 ^ 64 ∧ 2 ^ 32 - 1 < 2 ^ 32) := by
  refine ⟨going_of_goes (ok := fun c => c.act != 0 && _ && _ && _) (by decide +kernel), going_of_goes (ok := fun c => c.act != 0)
    (by decide +kernel), ?_, by decide⟩
  intro n hn
  rcases List.mem_pair.1 hn with rfl | rfl <;> decide +kernel

/-- MMA with B at 0x18000 and with B in team scratch. -/
theorem witness_MatrixMultiply : ∀ m ∈
    ([⟨16, 20, 16, false, 1, 0, 0, false, 0, 0, 0, 0, false⟩, ⟨16, 20, 16, true, 6, 15, 15, true, 48, 49, 3, 0, false⟩,
      ⟨16, 28, 16, false, 0, 0, 0, false, 0, 0, 0, 3, true⟩] : List MmaOp),
    let u := match comp.curCtx with | some c => mmaUses m 0x68 c | none => {}
    ∃ r cs, Going comp r cs u (fun _ => none) ∧ ∀ c ∈ cs, (c.act != 0 &&
      decide ((quartersOf c.act).length ≤ comp.tableRoom c.g.quad) && (comp.varWait c c.act m.tk.toNat).isNone &&
      (let v := c.values u (lowestLane c.act)
       match comp.matrixPlaces c .read m.bsp 16 (v.getD 1 0) (v.getD 2 0) (chunkAddrs (v.getD 1 0) (v.getD 2 0) (mmaK 0x68) (mmaRowBytes 0x68)) with
       | .ok _ => true | .error _ => false)) = true := by
  intro m hm
  simp only [List.mem_cons, List.not_mem_nil, or_false] at hm
  rcases hm with rfl | rfl | rfl <;> exact going_of_goes (ok := fun c => c.act != 0 && _ && _ && _) (by decide +kernel)

/-- Requests of every kind, with their places within reach. -/
theorem witness_MatrixRequests :
    (∀ e ∈ ([(.mld ⟨.reg 8, 16, 1, 0, 31⟩, false), (.mst ⟨.reg 8, 16, 1, 0, 31⟩, true), (.mld ⟨.global 20, 16, 1, 0, 3⟩, false),
        (.mst ⟨.global 20, 16, 1, 0, 3⟩, true)] : List (Instr × Bool)),
      let x : XferOp := match e.1 with | .mld x | .mst x => x | _ => ⟨.reg 0, 0, 0, 0, 0⟩
      let u := match comp.curCtx with | some c => xferUses x c e.2 | none => {}
      ∃ r cs, Going comp r cs u (fun _ => none) ∧ ∀ c ∈ cs, (c.act != 0 && decide (1 ≤ comp.tableRoom c.g.quad) &&
        (comp.varWait c c.act 1).isNone && (let v := c.values u (lowestLane c.act)
          match x.space, comp.matrixPlaces c (if e.2 then .write else .read) false 16 (v.getD 1 0) (v.getD 2 0)
              (chunkAddrs (v.getD 1 0) (v.getD 2 0) 4 128) with
          | .reg _, _ => true | _, .ok _ => true | _, _ => false)) = true) ∧
    (∃ r cs, Going comp r cs { srcs := [dkOp 16, bkOp 20], compOnly := true } (fun _ => none) ∧ ∀ c ∈ cs, (c.act != 0 &&
      (c.values { srcs := [dkOp 16, bkOp 20] } (lowestLane c.act)).getD 1 0 % 64 == 0 && comp.ownsCq c.g.part c.g.fn c.g.die 15 &&
      enQuant 0xF && decide (epiQfmt c.g.epi ≠ 3)) = true) ∧
    (∃ r cs, Going comp r cs { srcs := [bkOp 20], compOnly := true, badOperand := decide (30 < (20 : BitVec 5).toNat) } (fun _ => none) ∧
      ∀ c ∈ cs, (c.act != 0 && (match comp.matrixPlaces c .read false 64 0x18000 0 (chunkAddrs 0x18000 0 1 4096) with | .ok _ => true | _ => false)) = true) ∧
    (∀ e ∈ ([({ srcs := [op32 0x50], compOnly := true }, none),
        ({ srcs := [op32 2, op32 0x50], compOnly := true, cover := true, whole := true }, none),
          ({ compOnly := true }, none)] : List (Uses × Option Nat)),
      ∃ r cs, Going comp r cs e.1 (fun _ => e.2) ∧ ∀ c ∈ cs, (c.act != 0 &&
        decide ((quartersOf c.act).length ≤ comp.tableRoom c.g.quad)) = true) := by
  refine ⟨?_, going_of_goes (ok := fun c => c.act != 0 && _ && _ && _ && _) (by decide +kernel),
    going_of_goes (ok := fun c => c.act != 0 && _) (by decide +kernel), uses_go (ok := fun _ c => c.act != 0 &&
      decide ((quartersOf c.act).length ≤ comp.tableRoom c.g.quad)) (by decide +kernel)⟩
  intro e he
  simp only [List.mem_cons, List.not_mem_nil, or_false] at he
  rcases he with rfl | rfl | rfl | rfl <;> exact going_of_goes (ok := fun c => c.act != 0 && _ && _ && _) (by decide +kernel)

/-- MEPI from k24 and from k27, the last register that it may start at with a mask of one word; CBAR where the group has not arrived. -/
theorem witness_EpilogueAndClusterBarriers :
    (∀ e ∈ ([({ srcs := [0, 1, 2, 3, 4].map (fun w => op32 (0x58 + BitVec.ofNat 7 w)), compOnly := true, group := true }, none),
        ({ srcs := [op32 (0x5B + BitVec.ofNat 7 4)], compOnly := true, group := true, badOperand := decide (27 < 27) }, none)] : List (Uses × Option Nat)),
      ∃ r cs, Going comp r cs e.1 (fun _ => e.2) ∧ ∀ c ∈ cs, (c.act != 0) = true) ∧
    (∃ r cs, Going comp r cs { srcs := [op32 0x50], compOnly := true, cover := true, whole := true, badType := tyOf 0x50 != .uni } (fun _ => none) ∧
      ∀ c ∈ cs, (c.act != 0 && !comp.cbarArrived c.gid c.g (cbarIx ((c.values { srcs := [op32 0x50] } (lowestLane c.act)).getD 0 0))) = true) :=
  ⟨uses_go (ok := fun _ c => c.act != 0) (by decide +kernel), going_of_goes (ok := fun c => c.act != 0 && _) (by decide +kernel)⟩

/-- TRAP and HALT; RTT in trap mode and outside it. -/
theorem witness_TrapHaltReturn :
    (∃ r cs, Going comp r cs { srcs := [op32 0x54], badType := tyOf 0x54 != .uni } (fun _ => none) ∧ ∀ c ∈ cs, (c.act != 0) = true) ∧
    (∃ r cs, Going comp r cs {} (fun _ => none) ∧ ∀ c ∈ cs, (c.act != 0) = true) ∧
    (∃ r cs, Going (seen .nop false true) r cs { cover := true } (fun _ => none) ∧ ∀ c ∈ cs, (c.act != 0 && c.g.trapMode) = true) ∧
    (∃ r, comp.runs.find comp.cur = some r ∧ (decide (r.members = [(4, 0x80000001)]) && comp.slotOf 4 r.stream == some (comp.cur, r) &&
      comp.slotOf 4 r.stream.other == none && (match comp.groups.find 4 with | some g => !g.trapMode | none => false)) = true) :=
  ⟨going_of_goes (ok := fun c => c.act != 0) (by decide +kernel), going_of_goes (ok := fun c => c.act != 0) (by decide +kernel),
    going_of_goes (ok := fun c => c.act != 0 && c.g.trapMode) (by decide +kernel), holds_some (by decide +kernel)⟩

/-- SLEEP with a deadline that has come and one that has not; CCLEAN of one line; PCLASS of one granule in system mode. -/
theorem witness_SleepCleanRelearn :
    (∃ r cs, Going comp r cs { srcs := [op64 0x50], badType := tyOf 0x50 != .uni } (fun _ => none) ∧ ∀ c ∈ cs,
      (c.act != 0 && decide ((c.values { srcs := [op64 0x50] } (lowestLane c.act)).getD 0 0 ≤ comp.reftime)) = true) ∧
    (∃ r cs, Going comp r cs { srcs := [op64 0x54], badType := tyOf 0x54 != .uni } (fun _ => none) ∧ ∀ c ∈ cs,
      (c.act != 0 && decide (comp.reftime < (c.values { srcs := [op64 0x54] } (lowestLane c.act)).getD 0 0)) = true) ∧
    (∃ r cs, Going comp r cs { srcs := [op64 0x54, op32 0x5A], badType := tyOf 0x54 != .uni || tyOf 0x5A != .uni } (fun _ => none) ∧ ∀ c ∈ cs,
      (c.act != 0 && (match comp.cleanPages c 0x18000 128 (fun e => e == .transit) with | .ok _ => true | .error _ => false)) = true) ∧
    (let s := seen .nop true
     ∃ r cs, Going s r cs { srcs := [op64 0x54, op32 0x5A], badType := tyOf 0x54 != .uni || tyOf 0x5A != .uni } (fun _ => none) ∧ ∀ c ∈ cs,
      (c.act != 0 && c.g.sysMode && (match s.cleanPages c 0x18000 4096 (fun e => e == .translation) with | .ok _ => true | .error _ => false)) = true) :=
  ⟨going_of_goes (ok := fun c => c.act != 0 && _) (by decide +kernel), going_of_goes (ok := fun c => c.act != 0 && _) (by decide +kernel),
    going_of_goes (ok := fun c => c.act != 0 && _) (by decide +kernel), going_of_goes (ok := fun c => c.act != 0 && _ && _) (by decide +kernel)⟩

/-- RDSR of a varying register and of a counter; WRSR of FPSTAT, and of TRAPPC in trap mode. -/
theorem witness_SpecialRegisters :
    (∀ p ∈ ([{ words := 1, row := rowAdd, ext := (32, false), uses := { dst := some (opInt 32 8) } },
        { words := 1, row := rowAdd, ext := (64, false), uses := { dst := some (opInt 64 8) } }] : List LaneRule),
      p.affine = false ∧ ∃ r cs, Going comp r cs p.full (fun _ => some p.latency) ∧ ∀ c ∈ cs, (takesPart p c && comp.yMode c.g == 0) = true) ∧
    (∃ r cs, Going comp r cs (wrsrUses 8 9 false) (fun _ => none) ∧ ∀ c ∈ cs, (c.act != 0) = true) ∧
    (∃ r cs, Going (seen .nop false true) r cs (wrsrUses 0x54 13 true) (fun _ => none) ∧ ∀ c ∈ cs, (c.act != 0) = true) ∧
    addr.orderedOutstanding 4 = false ∧ (laneIn 0x80000001 31 = true ∧ laneIn 0x80000001 30 = false ∧ 9 ≤ 9 ∧ 11 ≤ 11) :=
  ⟨rules_go (ok := fun p c => takesPart p c && comp.yMode c.g == 0) (by decide +kernel), going_of_goes (ok :=
    fun c => c.act != 0) (by decide +kernel),
    going_of_goes (ok := fun c => c.act != 0) (by decide +kernel), by decide +kernel, by decide⟩

/-! Witnesses of statements about events: the hypotheses hold of a concrete state. -/

/-- A trap's registers. -/
def regs0 : TrapRegs := ⟨0x12, 0xFFFFFFFF00000000, 0⟩

/-- A delivered fault with a handler; one whose cause or mode leaves the handler out; a first fault of a stream; a group outside trap
mode whose lane 31 faulted in the compute stream. -/
theorem witness_TrapEntryAndReturn :
    (let s := withGroup (fun g => { g with pendingTrap := some ⟨.breakpoint, regs0⟩, cfg := { g.cfg with trapvec := 0x10000 } })
     ∃ g, s.groups.find 4 = some g ∧ (g.pendingTrap == some ⟨.breakpoint, regs0⟩ && s.quiet 4 && g.cfg.trapvec != 0 && !g.trapMode &&
       !g.sc.allExited) = true) ∧
    (∀ e ∈ [(Cause.watchdog, false), (.halted, false), (.transit, true), (.breakpoint, true), (.breakpoint, false), (.transit, false)],
      let s := (withGroup (fun g => { g with pendingTrap := some ⟨e.1, regs0⟩, trapMode := e.2 })).modFn 0 (fun x => { x with frsize := 16 })
      ringEnabled (s.fn 0).frsize = true ∧ ∃ g, s.groups.find 4 = some g ∧ (g.pendingTrap == some ⟨e.1, regs0⟩ && s.quiet 4 &&
        g.trapMode == e.2 && g.cfg.trapvec == 0 && g.fn == 0) = true) ∧
    (∃ g, comp.groups.find 4 = some g ∧ (g.pendingTrap.isNone && !g.trapMode && !g.sc.lanes[(31 : Fin 32)].exited &&
      g.sc.lanes[(30 : Fin 32)].exited) = true) ∧
    (let s := withGroup (fun g => { g with sc := { g.sc with lanes := g.sc.lanes.set 31 { g.sc.lanes[(31 : Fin 32)] with faulting := true } } })
     ∃ g, s.groups.find 4 = some g ∧ (!g.trapMode && g.sc.lanes[(31 : Fin 32)].faulting && !g.sc.lanes[(0 : Fin 32)].faulting) = true) ∧
    regs0.pc.extractLsb' 0 32 ≠ 0xFFFFFFFF#32 := by
  refine ⟨holds_some (by decide +kernel), ?_, holds_some (by decide +kernel), holds_some (by decide +kernel), by decide⟩
  intro e he
  simp only [List.mem_cons, List.not_mem_nil, or_false] at he
  rcases he with rfl | rfl | rfl | rfl | rfl | rfl <;> exact ⟨by decide +kernel, holds_some (by decide +kernel)⟩

/-- The machine whose group has both streams wait at a queue. -/
def stuckQueues : State :=
  let x : State := withGroup (fun g => { g with deadlock := 4096 })
  let r (st : Stream) (i : Instr) : Run :=
    ⟨st, [(4, 0x80000001)], 0x10004, 0x10000, encode i, 0, 0, [(4, 0x80000001)], false, 0, [], false, none, some .popEmpty, false⟩
  { x with runs := [(0, r .comp (.mov ⟨8, 0x70, false⟩)), (4, r .addr (.mov ⟨0x50, 0x74, false⟩))] }

/-- A sleeping lane whose deadline has come and one whose deadline has not; a group whose page has stopped moving; both streams of a
group waiting at queues; a group whose watchdog has counted enough; an empty slot of whose two groups one stands before the other. -/
theorem witness_GroupEvents :
    (∀ d ∈ [0, 1], let s := withGroup (fun g => { g with sc := { g.sc with lanes := g.sc.lanes.set 0 { g.sc.lanes[(0 : Fin 32)] with park := .sleep d } } })
      ∃ g, s.groups.find 4 = some g ∧ (g.status == .running && (g.stream .comp).lanes[(0 : Fin 32)].park == .sleep d) = true) ∧
    (let s := withGroup (fun g => { g with transitWait := true, regs := { g.regs with addr := 0x10000 } })
     ∃ g, s.groups.find 4 = some g ∧ (g.transitWait && g.status == .running &&
       s.translateNow g.fn g.part .clean g.regs.addr.toNat != .fault .transit) = true) ∧
    (∃ g, stuckQueues.groups.find 4 = some g ∧ (decide (4096 ≤ g.deadlock) && stuckQueues.deadlocked 4 g) = true) ∧
    (let s := withGroup (fun g => { g with wdog := 0x800 * 2 ^ 20 })
     ∃ g, s.groups.find 4 = some g ∧ (decide ((s.fn g.fn).wdcfg.toNat % 2 ^ 16 ≠ 0 ∧ (s.fn g.fn).wdcfg.toNat % 2 ^ 16 * 2 ^ 20 ≤ g.wdog) &&
       g.status == .running && g.pendingTrap.isNone) = true) ∧
    (let s : State := { comp with runs := [] }
     s.runs.find 0 = none ∧ s.clockRuns (slotCore 0 / 96) = true ∧ s.lowerChooses 0 = false ∧ s.lowerChooses 1 = true ∧
       ∃ o, chooseOffer (slotStream 0) ((s.offers 0).filter (fun o => o.2.2.2.2.2.ready)) = some o ∧
         (o.1 == 4 && (match o.2.2.2.2.2 with | .clause _ => true | _ => false)) = true) := by
  refine ⟨?_, holds_some (by decide +kernel), holds_some (by decide +kernel), holds_some (by decide +kernel), rfl, by decide +kernel, by decide +kernel, by decide +kernel,
    holds_some (by decide +kernel)⟩
  intro d hd
  rcases List.mem_pair.1 hd with rfl | rfl <;> exact holds_some (by decide +kernel)

/-- A record that waits for a ring of 16 at 0x18000; a group of function 0 whose fault 5 awaits its answer. -/
theorem witness_FaultAnswers :
    (let s := withGroup (fun g => { g with escalated := some 5, status := .halted })
     ∃ e, s.awaitingGroup 0 5 = some e ∧ (e.1 == 4 && (s.groups.find 4) == some e.2) = true) ∧
    (let r : FaultRec := ⟨regs0, 0, 0, 0, 0, [], some 4, 0⟩
     let s : State := { comp with fns := comp.fns.modify 0 (fun f => { f with frbase := 0x18000, frsize := 16, frtail := 14, waiting := [r, r] }) }
     s.sentNow 0 < 65536 ∧ (s.fn 0).waiting = r :: [r] ∧ ringEnabled (s.fn 0).frsize = true ∧ (s.fn 0).ringFull = false ∧
       s.homeWaits 0x18380 = false ∧ s.viralBlocks 0x18380 = false ∧ s.mem.wf = true ∧
     s.translateNow 0 r.part .write (((s.fn 0).frbase.toNat / 4096 * 4096 + 64 * ((s.fn 0).frtail % (s.fn 0).frsize)) % 2 ^ 64) = .ok 0x18380) := by
  refine ⟨holds_some (by decide +kernel), ?_⟩
  decide +kernel

/-- An entry of the table of quad 0, of the group's instruction 9, over rows 0 on, for lane 0. -/
def entry (k : EntryKind) : REntry := ⟨0, 4, 9, 0, 0, 0, 0, 1, 0, k, false, false, [], 0⟩

/-- A pass of the BF16 form over quarter 0. -/
def pass0 : PassInfo :=
  ⟨0x68, 0, 1, Vector.replicate 16 (Vector.replicate 32 0), false, Vector.replicate 32 0, Vector.replicate 32 0, 0, 0, 0, false, 0x18000, 64,
    List.range 64 |>.map (fun i => 0x18000 + 16 * i), 0, none, false, 256⟩

/-- The machine with entries in its quad, whose blocks 0 and 127 are the context's, a while after reset. -/
def withEntries (es : List REntry) : State :=
  { comp with units := 1000 * Config.unitsPerNs, entries := es.zipIdx.map (fun e => (20 + e.2, e.1)), quads := [(0, { Quad.reset with owners := [(0, 0), (127, 0)] })] }

/-- Four entries of one key that stand eligible; an entry that 16 cycles make ready, and one that was ready before; passes that the engine
grants, with B in memory and in scratch; and one that is granted. -/
theorem witness_Passes :
    (let s := withEntries (entry (.pass pass0) :: [2 ^ 9, 2 ^ 17, 2 ^ 25].map (fun m => { entry (.pass pass0) with mask := m }))
     s.entries.find 20 = some (entry (.pass pass0)) ∧ pass0.readyAt = none ∧
       4 ≤ s.entries.countP (fun x => s.sameKey (entry (.pass pass0)) x.2 && !x.2.granted && s.inOrder x.1 x.2)) ∧
    ((entry (.pass pass0)).cycle + 16 ≤ (withEntries []).dieCycle 0 ∧
      (let p := { pass0 with readyAt := some 7 }
       ∃ c, p.readyAt = some c ∧ c ≤ (withEntries [{ entry (.pass p) with cycle := 1600 }]).dieCycle 0)) ∧
    (∀ sc ∈ [false, true], let p := { pass0 with scratchB := sc }
     let s := withEntries [entry (.pass p)]
     (s.quad 0).busyUntil ≤ s.dieCycle 0 ∧ (s.groups.find 4).any (fun g => (s.teams.find g.team).isSome) = true ∧ (s.quad 0).saved = [] ∧
     (s.blockPasses 0).bestEntry ((s.blockPasses 0).entries.filter (fun x => x.2.quad == 0 && (s.blockPasses 0).eligiblePass x.1 x.2 &&
       !x.2.blocked &&
       (s.blockPasses 0).passReadyNow x.2)) = some (20, entry (.pass p)) ∧ ∀ k ∈ p.phys, (s.blockPasses 0).homeWaits k = false) ∧
    (let y : REntry := { entry (.pass pass0) with granted := true }
     let z : REntry := { y with mask := 0xFF00, row := 4090 }
     let s : State := { withEntries [y, z] with passes := [(30, ⟨0, [20, 21], List.replicate 1024 0, false⟩)] }
     s.passes.find 30 = some ⟨0, [(20, y), (21, z)].map Prod.fst, List.replicate 1024 0, false⟩ ∧
       (∀ y ∈ s.passes, y.2.quad = 0 → 30 ≤ y.1) ∧
       (∀ u ∈ [(20, y), (21, z)], s.entries.find u.1 = some u.2 ∧ u.2.quad = 0 ∧ u.2.kind = .pass pass0) ∧
       [(20, y), (21, z)].Pairwise (fun y z => ∀ r ∈ y.2.dRows, r ∉ z.2.dRows)) := by
  refine ⟨by decide +kernel, ⟨by decide +kernel, 7, rfl, by decide +kernel⟩, ?_, by decide +kernel⟩
  intro sc hs
  rcases List.mem_pair.1 hs with rfl | rfl <;> decide +kernel

/-- The premises that requests share. -/
def isReady (s : State) (id : Nat) (e : REntry) : Bool :=
  decide (s.entries.find id = some e) && !e.blocked && decide (e.col < 32) && s.inOrder id e &&
  e.rows.all (fun r => (s.quad e.quad).owners.find (r / 32) == some (s.entryContext e))

/-- A request of each kind that has its turn, the tile requests also from the last column; a blocked one whose rows are free again. -/
theorem witness_RowRequests :
    (∀ k ∈ [EntryKind.mzero, .mtree (Vector.replicate 32 0), .mldReg [Vector.replicate 32 0, Vector.replicate 32 0], .mstReg 8 4,
        .mdrain 0x18000 15 4 true false 0, .table true 0 [0x18000]],
      isReady (withEntries [entry k]) 20 (entry k) = true ∧
        isReady (withEntries [{ entry k with col := 31, row := 4080 }]) 20 { entry k with col := 31, row := 4080 } = true) ∧
    (let s := withEntries [entry (.mstReg 8 4)]
     (s.groups.find 4).any (fun g => g.status == .running && g.pendingTrap.isNone && !(g.sa.allExited && g.sc.allExited)) = true ∧
       s.groups.all (fun e => !e.2.killed) = true ∧ (∀ i, i < 4 → (s.accRow 0 ((0 + i) % 4096)).psn = false) ∧ s.ops.find 9 = none ∧
       (s.queue (32 * 0 + 15)).freeBuffer = some 0 ∧ (s.queue (32 * 0 + 15)).cmds.length < 64 ∧
         s.appendWaits (32 * 0 + 15) (appendRank 0 2) = false) ∧
    (∀ m ∈ [0, 7], ∀ k ∈ [EntryKind.mldMem false, .mstMem false, .table false 0], let as := (List.range 8).map (fun i => 0x18000 + 16 * i)
     let e := { entry (k as) with moved := m, chunks := List.replicate 8 (List.replicate 16 1, false) }
     let s := withEntries [e]
     isReady s 20 e = true ∧ (as.drop e.moved).head? = some (0x18000 + 16 * m) ∧ s.homeWaits (0x18000 + 16 * m) = false ∧ s.viral = false ∧
       s.poisonIn (0x18000 + 16 * m) 16 = false ∧ ({ s with poison := [0x1800 + m] } : State).poisonIn (0x18000 + 16 * m) 16 = true ∧
       (∀ c ∈ e.chunks, c.2 = false) ∧
       s.mem.wf = true ∧ (((if e.moved = 0 then s.mstChunks e as.length else e.chunks)[e.moved]?).map (fun x => x.1.length)) = some 16) ∧
    (let e := { entry .mzero with blocked := true }
     let s := withEntries [e]
     s.entries.find 20 = some e ∧ e.blocked = true ∧ s.foreignBlocks 0 (s.entryContext e) e.rows = []) := by
  refine ⟨?_, by decide +kernel, ?_, by decide +kernel⟩
  · intro k hk
    simp only [List.mem_cons, List.not_mem_nil, or_false] at hk
    rcases hk with rfl | rfl | rfl | rfl | rfl | rfl <;> decide +kernel
  · intro m hm k hk
    simp only [List.mem_cons, List.not_mem_nil, or_false] at hk
    rcases List.mem_pair.1 hm with rfl | rfl <;> rcases hk with rfl | rfl | rfl <;> decide +kernel

/-- The command at the head of the first copy channel, and its progress. -/
def cmd0 : QCmd := ⟨[], 0, 4, 1, 0, false, true⟩
def withCmd (p : Progress) (q : Nat := 0) (s : State := comp) : State :=
  { s with queues := [(q, { EQueue.reset with cmds := [cmd0], prog := some p })] }
def at_ (stage pos : Nat) (x : Nat := 0) : Progress := { Progress.start with stage := stage, pos := pos, x := x }

/-- A command of the small machine runs. -/
theorem runs_cmd (p : Progress) (h : p.ending = none) : CmdRuns (withCmd p) 0 cmd0 p := ⟨rfl, .inl rfl, rfl, h⟩

/-- A command of the first chunk and of the last one of a range of 64 bytes; the two stages of GATHER; WSSNAP. -/
theorem witness_CopyCommands :
    (∀ pos ∈ [0, 3], let s := withCmd (at_ 0 pos)
      CmdRuns s 0 cmd0 (at_ 0 pos) ∧ s.mem.wf = true ∧ 16 * pos < (64 : Dword).toNat ∧
        s.reach 0 cmd0 .read (0x18000 + 16 * pos) = .at_ (0x18000 + 16 * pos) ∧
        s.reach 0 cmd0 .write (0x18100 + 16 * pos) = .at_ (0x18100 + 16 * pos) ∧ s.viralBlocks (0x18100 + 16 * pos) = false) ∧
    (let s := withCmd (at_ 0 1)
     CmdRuns s 0 cmd0 (at_ 0 1) ∧ 1 < (65536 : Word).toNat * ((16 : Word).toNat / 16) ∧ s.reach 0 cmd0 .read (0x18000 + 4 * 1) = .at_ 0x18004) ∧
    (let s := withCmd (at_ 1 1 2)
     CmdRuns s 0 cmd0 (at_ 1 1 2) ∧ s.reach 0 cmd0 .read (0x18000 + 2 * 0x100 + 16 * 0) = .at_ 0x18200 ∧
       s.reach 0 cmd0 .write (0x18800 + 1 / 1 * 16 + 16 * 0) = .at_ 0x18810 ∧ s.viralBlocks 0x18810 = false) ∧
    (let p := { at_ 1 0 with buf := List.replicate 16 1 }
     let f : Fn := { Fn.reset with sched := Fn.reset.sched ||| 0x20#64 }
     let s : State := withCmd p 0 { comp with fns := comp.fns.set 1 f }
     CmdRuns s 0 cmd0 p ∧ (s.fn 1).bound = some (s.cmdPart cmd0) ∧ s.reach 0 cmd0 .write (0x18000 + 0) = .at_ 0x18000 ∧
       p.pos + 16 ≤ p.buf.length) := by
  refine ⟨?_, ⟨runs_cmd _ rfl, by decide, by decide +kernel⟩, ⟨runs_cmd _ rfl, by decide +kernel⟩, ⟨⟨rfl, .inl rfl, rfl, rfl⟩, by decide +kernel⟩⟩
  intro pos hp
  rcases List.mem_pair.1 hp with rfl | rfl <;> exact ⟨runs_cmd _ rfl, by decide +kernel⟩

/-- A copy that has moved all its bytes, of none and of 64; its object; a signal; a commit with all its entries stored. -/
theorem witness_CommandsEnd :
    (∀ n ∈ [0, 4], let s := withCmd (at_ 0 n)
      CmdRuns s 0 cmd0 (at_ 0 n) ∧ s.mem.wf = true ∧ (BitVec.ofNat 64 (16 * n)).toNat ≤ 16 * n ∧ s.reach 0 cmd0 .both 0x18000 = .at_ 0x18000 ∧
        s.reach 0 cmd0 .write 0x18008 = .at_ 0x18008 ∧ s.viralBlocks 0x18000 = false ∧ s.viralBlocks 0x18008 = false) ∧
    (let p := { at_ 1 4 with y := 0x80000001 }
     CmdRuns (withCmd p) 0 cmd0 p ∧ (slotsOf p.y (32 : BitVec 8).toNat).length * ((32 : Word).toNat / 16) ≤ p.pos) := by
  refine ⟨?_, runs_cmd _ rfl, by decide⟩
  intro n hn
  rcases List.mem_pair.1 hn with rfl | rfl <;> exact ⟨runs_cmd _ rfl, by decide +kernel⟩

/-- A shape of `w` by 64 elements of format `f` at 0x18000, its version at 0x1CF00, with flags. -/
def shape0 (f : Nat) (flags : Nat := 0) (w : Nat := 64) : List Byte :=
  bytesOfNat 8 0x18000 ++ bytesOfNat 8 (4 * w) ++ bytesOfNat 8 (256 * w) ++ bytesOfNat 8 0x1CF00 ++ bytesOfNat 8 0 ++ bytesOfNat 4 w ++ bytesOfNat 4 64 ++
    bytesOfNat 4 1 ++ bytesOfNat 4 0 ++ bytesOfNat 4 0 ++ bytesOfNat 2 0 ++ bytesOfNat 1 f ++ bytesOfNat 1 flags

/-- A tile of 2 by 16. -/
def tile0 (drained : Bool := false) (trows : BitVec 16 := 2) (tcols : BitVec 16 := 16) : TileCmd := ⟨0, 0x18000, 0x18000, trows, tcols, drained, 0⟩

/-- Writes of the second row of TILE and TILEADD, each size of element; the reads of the shape and of a row, its end and the command's, with
and without an object; a drained row; AON tiles of 10 lines, with and without a version, and of 640. -/
theorem witness_TileCommands :
    (∀ e ∈ [(0, 4, false), (0xA, 4, true), (2, 2, true), (3, 1, false), (6, 1, false)],
      let p := { at_ 1 1 4 with shape := shape0 e.1, buf := List.replicate 64 1 }
      let s := withCmd p
      let r := Shape.of p.shape
      let size := if e.2.2 then e.2.1 else accessSize (0x18100 + 4) (16 * e.2.1 - 4)
      CmdRuns s 0 cmd0 p ∧ s.mem.wf = true ∧ 64 ≤ p.shape.length ∧ esizeOf r.efmt = some e.2.1 ∧ r.bad e.2.1 = false ∧ r.misaligned e.2.1 = false ∧
        s.badTile 0 tile0 e.2.2 r e.2.1 = false ∧ r.run 16 1 = (0, 16) ∧ p.x < 16 * e.2.1 ∧ r.aon = false ∧
        ((p.buf.drop (0 * e.2.1 + p.x)).take size).length = size ∧
        s.reach 0 cmd0 (if e.2.2 then .both else .write) ((r.addr e.2.1 1 0 + 4) % 2 ^ 64) = .at_ (0x18104)) ∧
    (let s := withCmd { at_ 0 0 with shape := (shape0 0).take 48 }
     ((shape0 0).take 48).length = 48 ∧ s.reach 0 cmd0 .read (0x18000 + 48) = .at_ 0x18030) ∧
    (let p := { at_ 0 1 with shape := shape0 0, buf := List.replicate 48 1 }
     let s := withCmd p
     p.buf.length < 16 * 4 ∧ s.reach 0 cmd0 .read (0x18000 + 1 * 16 * 4 + 48) = .at_ 0x18070 ∧ s.reach 0 cmd0 .both 0x18000 = .at_ 0x18000 ∧
       s.viralBlocks 0x18000 = false) ∧
    (let b : DrainBuf := ⟨[[1], [2, 3]], 4, 0, [false, false]⟩
     let s : State := { withCmd { at_ 0 1 with shape := shape0 0 } with
       queues := [(0, { EQueue.reset with cmds := [cmd0], prog := some { at_ 0 1 with shape := shape0 0 }, bufs := [(0, b)] })] }
     (s.queue 0).bufs.find 0 = some b ∧ b.rows[1]? = some [2, 3] ∧ s.badTile 0 (tile0 true) false (Shape.of (shape0 0)) 4 = false ∧
       (Shape.of (shape0 0)).baraddr % 16 = 0) ∧
    (∀ ver ∈ [false, true], let p := { at_ 0 0 with shape := shape0 0 (if ver then 3 else 1) }
     let s := withCmd p
     let r := Shape.of p.shape
     r.aon = true ∧ r.ver = ver ∧ r.bad 4 = false ∧ r.misaligned 4 = false ∧ s.badTile 0 tile0 false r 4 = false ∧ r.lines 4 2 16 ≤ 512 ∧
       s.reach 0 cmd0 .both r.veraddr = .at_ 0x1CF00 ∧
       (match s.tileAll 0 cmd0 tile0 false ⟨r, 4, 0, (2 * 16 * 4 : Nat)⟩ (List.range 2) with
        | .done w => !w.viralBlocks 0x1CF00 | _ => false) = true) ∧
    (let r := Shape.of (shape0 0 1 4096)
     r.aon = true ∧ r.bad 4 = false ∧ r.misaligned 4 = false ∧ 512 < r.lines 4 5 4096) := by
  refine ⟨?_, by decide +kernel, by decide +kernel, by decide +kernel, ?_, by decide +kernel⟩
  · intro e he
    simp only [List.mem_cons, List.not_mem_nil, or_false] at he
    rcases he with rfl | rfl | rfl | rfl | rfl <;> exact ⟨runs_cmd _ rfl, by decide +kernel⟩
  · intro ver hv
    rcases List.mem_pair.1 hv with rfl | rfl <;> decide +kernel

/-- VREAD reads its version twice, and a row of it; at its fourth try it reads all in one event; it stores what it read and the version. -/
theorem witness_TileCommands_vread :
    (∀ st ∈ [0, 2], let p := { at_ st 0 with shape := shape0 0 2, tries := 3 }
      let s := withCmd p
      let r := Shape.of p.shape
      CmdRuns s 0 cmd0 p ∧ esizeOf r.efmt = some 4 ∧ r.bad 4 = false ∧ r.misaligned 4 = false ∧ r.ver = true ∧
        s.reach 0 cmd0 .read r.veraddr = .at_ 0x1CF00) ∧
    (let p := { at_ 0 0 with shape := shape0 0 2, tries := 4 }
     let s := withCmd p
     (match s.readBytes 0 cmd0 (Shape.of p.shape).veraddr 8 with
      | .got _ _ s1 => (match s1.vreadRows 0 cmd0 ⟨Shape.of p.shape, 4, 0, (2 * 16 * 4 : Nat)⟩ 16 (List.range 2) with
        | .got bs _ _ => bs.length == 128 | _ => false)
      | _ => false) = true) ∧
    (let p := { at_ 1 1 with shape := shape0 0 2, y := 48 }
     let s := withCmd p
     p.y < ((Shape.of p.shape).run 16 1).2 * 4 ∧ s.reach 0 cmd0 .read ((Shape.of p.shape).addr 4 1 0 + 48) = .at_ 0x18130) ∧
    (let p := { at_ 3 112 with shape := shape0 0 2, buf := List.replicate 128 0 }
     let s := withCmd p
     p.pos < p.buf.length ∧ s.reach 0 cmd0 .write (0x18000 + 112) = .at_ 0x18070 ∧ s.viralBlocks 0x18070 = false ∧
       s.reach 0 cmd0 .write 0x18008 = .at_ 0x18008) := by
  refine ⟨?_, by decide +kernel, by decide +kernel, by decide +kernel⟩
  intro st hs
  rcases List.mem_pair.1 hs with rfl | rfl <;> exact ⟨runs_cmd _ rfl, by decide +kernel⟩

/-- The puppeteer's queue is about to move page 0x10000 to tier 2; it has marked the page. -/
theorem witness_PageMoves :
    (let f : Fn := { (comp.fn 0) with sched := Fn.reset.sched ||| 0x20#64 }
     let s := withCmd (at_ 0 0) 24 { comp with fns := comp.fns.set 0 f, parts := comp.parts.modify 0 (fun p => { p with ddrch := 1 }) }
     let e : Dword := 0x1001F
     CmdRuns s 24 cmd0 (at_ 0 0) ∧ s.mem.wf = true ∧ (s.fn 0).bound = some (s.cmdPart cmd0) ∧ (s.fn 0).root.getLsbD 0 = true ∧
       canonicalVa 0x10000 = true ∧
       s.walkVa 0 0x10000 = .leaf 1 e 0x50008 ∧ s.viralBlocks 0x50008 = false ∧ pteBit e 5 = false ∧ pteBit e 9 = false ∧
         s.frameTier (pteFrame e) = 1 ∧
       tierOf (2 ^ 40) = 2 ∧ s.hasMemory (2 ^ 40) = true ∧ s.moveUnderWay (homeDie (pteFrame e)) = false ∧ s.clockRuns (homeDie (pteFrame e)) = true ∧
       s.frameFree (2 ^ 40) = true ∧ ((s.part (s.cmdPart cmd0)).map (fun x => x.owns (2 ^ 40))) = some true) ∧
    (let f : Fn := { (comp.fn 0) with sched := Fn.reset.sched ||| 0x20#64 }
     let s := withCmd (at_ 1 0) 24 { comp with fns := comp.fns.set 0 f, mem := tables.writeN 0x50008 (bytesOfNat 8 0x1003F) }
     CmdRuns s 24 cmd0 (at_ 1 0) ∧ s.mem.wf = true ∧ s.walkVa 0 0x10000 = .leaf 1 0x1003F 0x50008 ∧ s.entryUses (pteFrame 0x1003F) = false ∧
       s.relocking (homeDie (pteFrame 0x1003F)) = false ∧ s.relocking (homeDie (2 ^ 40)) = false ∧
       (0x50008 + 8 ≤ 2 ^ 40 ∨ 2 ^ 40 + 65536 ≤ 0x50008) ∧ 2 ^ 40 < 2 ^ 52) := by
  refine ⟨⟨⟨rfl, .inl rfl, rfl, rfl⟩, by decide +kernel⟩, ⟨⟨rfl, .inl rfl, rfl, rfl⟩, by decide +kernel⟩⟩

/-- The machine on a fabric: partition 0 is node 7, its port 0 leads to node 9, its port 1 is the escape port; function 0 may use the
fabric, and holds a membership with node 9 of collective 2. -/
def net (f : Fabric → Fabric := fun x => x) : State :=
  let up : Port := { Port.reset with en := true, up := true, far := ⟨96, Vector.replicate 8 2⟩ }
  let m : Membership := ⟨0, 2, [(7, 0), (9, 3)], [], true, 40, [], []⟩
  let x : Fabric := { State.reset.fabric with ports := [(0, up), (1, up)], routes := [(9, 0x30100)], pnode := [(0, 7)], members := [m] }
  { comp with fabric := f x, parts := comp.parts.modify 0 (fun p => { p with fports := 3 }), fns := comp.fns.modify 0 (fun g => { g with
    fabcfg := 0x10000, sched := Fn.reset.sched ||| 0x20#64, rxbase := 0x18000, rxsize := 16 }) }

/-- A packet to function 0 of node 7 from function 3 of node 9. -/
def pkt : Packet := ⟨1, false, 7, 0, 3, 9, 0, 0, 0, 0, 0x18000, 64, 40, 0, 0, List.replicate 64 1, []⟩

/-- A packet that stands whole in an input. -/
def whole (ty : PacketType) (p : Packet) (vc : Nat := 0) : InPacket :=
  ⟨vc, ty, p, 0, p.flits, 0, List.replicate p.flits true, none, false, false, none, 0⟩

/-- Packets that stand in port 0 of a machine. -/
def holding (xs : List InPacket) (s : State := net) : State := s.modPort 0 (fun y => { y with inq := xs })

/-- The stream of the packet after `moved` accesses. -/
def stream (moved : Nat := 0) (slot : Option Nat := none) (refused : Option (Nat × Nat) := none) (next : Nat := 0) : RxStream :=
  ⟨9, 3, 0, 7, 0, next, none, 0, refused, moved, [], [], slot⟩

/-- A packet that has arrived at port 0, its stream so far. -/
def arrival (ty : PacketType) (p : Packet) (r : RxStream := stream) : State := holding [whole ty p] (net (fun x => { x with rx := [r] }))

/-- A packet is performed next. -/
def isArrival (s : State) (ty : PacketType) (p : Packet) : Bool :=
  s.localPart 0 ty p == some 0 && (s.rxOf p).inOrder p && (s.rxOf p).refuses p == none && ((s.rxOf p).moved != 0 || s.admits 0 p)

theorem arrives_of {s : State} {ty : PacketType} {p : Packet} (h : isArrival s ty p = true) : Arrives s 0 ty p 0 := by
  simp only [isArrival, Bool.and_eq_true, Bool.or_eq_true, beq_iff_eq, bne_iff_ne] at h
  exact ⟨h.1.1.1, h.1.1.2, h.1.2, fun m => h.2.resolve_left (fun n => n m)⟩

/-- A command to node 9 of `n` bytes at 0x18000. -/
def fab (n : Word) : FabCmd := ⟨0, 9, 3, 0, n, 0x18000, 0x40000, 0, 0, 0⟩

/-- A pending command of 2,000 bytes, one packet of which is sent and unanswered. -/
def sending (k : PacketType) : FabPending := ⟨16, 0, 0, 1, k, 0, 2000, 0x18000, 2, [(9, 3)], 2, 1, [⟨9, 3, 0, 0, 0⟩], 0⟩

/-- A command that starts, for each type, and one that waits for the queue's; a second packet; commands that are answered in full, with
and without an object. -/
theorem witness_FabricCommands :
    (let s := withCmd (at_ 0 0) 16 net
     CmdRuns s 16 cmd0 (at_ 0 0) ∧ s.mayFabric cmd0.fn = true ∧ (fab 0x1000000).len.toNat ≤ 2 ^ 24 ∧ (fab 16).len.toNat % 16 = 0 ∧
       s.fabric.cmds.any (fun e => e.2.q == 16) = false ∧ (∃ m, s.membership 0 2 = some m ∧ m.joined = true)) ∧
    (let s := withCmd (at_ 0 0) 16 (net (fun x => { x with cmds := [(40, sending .join)] }))
     CmdRuns s 16 cmd0 (at_ 0 0) ∧ s.mayFabric cmd0.fn = true ∧ s.fabric.cmds.any (fun e => e.2.q == 16) = true) ∧
    (let s := withCmd (at_ 0 0) 16 (net (fun x => { x with members := [] }))
     let t : State := { s with mem := (tables.writeN 0x18000 (bytesOfNat 4 7)).writeN 0x18004 (bytesOfNat 4 0x30009) }
     CmdRuns t 16 cmd0 (at_ 0 0) ∧ t.mayFabric cmd0.fn = true ∧ t.membership 0 5 = none ∧ (match t.readBytes 16 cmd0 0x18000 8 with
       | .got bs _ _ => (membersOf bs 2).contains (t.pnode (t.cmdPart cmd0), 0) && decide (membersOf bs 2).Nodup | _ => false) = true) ∧
    (let s := withCmd (at_ 1 0 40) 16 (net (fun x => { x with cmds := [(40, sending .put)] }))
     CmdRuns s 16 cmd0 (at_ 1 0 40) ∧ s.fabric.cmds.find 40 = some (sending .put) ∧ (sending .put).total = packetsOf (2000 : Word).toNat ∧
       s.lostPeer 0 9 3 = false ∧ s.streamHeld 16 0 9 3 = false ∧ 9 ≠ s.pnode 0 ∧
       (match s.readBytes 16 cmd0 (0x18000 + 1024 * 1) (packetLen 2000 1) with | .got _ _ _ => true | _ => false) = true) ∧
    (∀ bar ∈ [0, 0x18000], let f := { sending .put with sent := 2, unanswered := [], bar := bar }
      let s := net (fun x => { x with cmds := [(40, f)] })
      s.fabric.cmds.find 40 = some f ∧ s.fabDone f = true ∧ s.mem.wf = true ∧ f.cause = 0 ∧ s.translateNow 0 0 .both 0x18000 = .ok 0x18000 ∧
        s.homeWaits 0x18000 = false ∧ s.viralBlocks 0x18000 = false) := by
  refine ⟨⟨⟨rfl, .inl rfl, rfl, rfl⟩, by decide +kernel, by decide, by decide, by decide +kernel, _, rfl, by decide +kernel⟩,
    ⟨⟨rfl, .inl rfl, rfl, rfl⟩, by decide +kernel⟩, ⟨⟨rfl, .inl rfl, rfl, rfl⟩, by decide +kernel⟩,
    ⟨⟨rfl, .inl rfl, rfl, rfl⟩, by decide +kernel⟩, ?_⟩
  intro bar hb
  rcases List.mem_pair.1 hb with rfl | rfl <;> decide +kernel

/-- A PUT that moves its first piece, one that has moved all four and decrements an object, and one that finds no page. -/
theorem witness_FabricPackets_put :
    (∀ m ∈ [0, 4], let p := { pkt with last := true, rbar := 0x18010 }
      let s := arrival .put p (stream m)
      Arrives s 0 .put p 0 ∧ s.mem.wf = true ∧ s.viral = false ∧
        s.places 0 0 .write (accessesOf 0x18000 64 16) = .at_ [0x18000, 0x18010, 0x18020, 0x18030] ∧
        s.rbarKey p 0 = .at_ [0x18010] ∧ s.homeWaits 0x18000 = false ∧ s.homeWaits 0x18010 = false) ∧
    (let p := { pkt with addr := 0x200000 }
     Arrives (arrival .put p) 0 .put p 0 ∧
       (match (arrival .put p).places 0 0 .write (accessesOf 0x200000 64 16) with | .refuse _ _ => true | _ => false) = true) := by
  refine ⟨?_, arrives_of (by decide +kernel), by decide +kernel⟩
  intro m hm
  rcases List.mem_pair.1 hm with rfl | rfl <;> exact ⟨arrives_of (by decide +kernel), by decide +kernel⟩

/-- A GET request, a REDUCEPUT and an ATOMIC, each at its first and after its last access. -/
theorem witness_FabricPackets_access :
    (∀ m ∈ [0, 4], Arrives (arrival .getRequest pkt (stream m)) 0 .getRequest pkt 0) ∧
    (∀ m ∈ [0, 16], Arrives (arrival .reducePut pkt (stream m)) 0 .reducePut pkt 0) ∧
    Arrives (arrival .atomic pkt) 0 .atomic pkt 0 ∧ esizeOf (pkt.opx / 2 ^ 64 % 2 ^ 8) = some 4 ∧
    (arrival .getRequest pkt).places 0 0 .read (accessesOf 0x18000 64 16) = .at_ [0x18000, 0x18010, 0x18020, 0x18030] ∧
    (match (arrival .reducePut pkt).places 0 0 .both (accessesOf 0x18000 64 4) with
      | .at_ ks => ks == (List.range 16).map (fun i => 0x18000 + 4 * i) | _ => false) = true ∧
    (arrival .atomic pkt).places 0 0 .both [0x18000] = .at_ [0x18000] ∧ (arrival .atomic pkt).homeWaits 0x18000 = false := by
  refine ⟨?_, ?_, arrives_of (by decide +kernel), by decide +kernel⟩ <;> intro m hm <;>
    rcases List.mem_pair.1 hm with rfl | rfl <;> exact arrives_of (by decide +kernel)

/-- A SEND that finds no ring, a full ring, and takes a slot; then its first piece, its TAIL and its end. -/
theorem witness_FabricPackets_send :
    (∀ e ∈ [(0, 0, 0), (16, 16, 0), (16, 0, 0)], let s0 := arrival .send pkt
      let s : State := { s0 with mem := s0.mem.writeN 0x18000 (bytesOfNat 8 e.2.1), fns := s0.fns.modify 0 (fun f => { f with rxsize := e.1 }) }
      Arrives s 0 .send pkt 0 ∧ ringEnabled (s.fn 0).rxsize = decide (e.1 = 16) ∧ s.places 0 0 .both [0x18000] = .at_ [0x18000] ∧
        s.homeWaits 0x18000 = false ∧ (s.rxOf pkt).slot = none ∧ s.ringBusy pkt = false ∧
        (e.1 = 16 → ringRefuses (s.fn 0).rxsize (natOfBytes (s.mem.readN 0x18000 8)) (natOfBytes (s.mem.readN 0x18008 8)) = decide (e.2.1 = 16))) ∧
    (∀ m ∈ [1, 9, 10], let s := arrival .send pkt (stream m (some 0))
      Arrives s 0 .send pkt 0 ∧ (s.rxOf pkt).slot = some 0 ∧ s.rbarKey pkt 0 = .at_ [] ∧
        (match s.places 0 0 .write (accessesOf (0x18000 + 2048 * (1 + 0)) (64 + 64) 16) with
          | .at_ ks => ks == (List.range 8).map (fun i => 0x18800 + 16 * i) | _ => false) = true) := by
  constructor
  · intro e he
    simp only [List.mem_cons, List.not_mem_nil, or_false] at he
    rcases he with rfl | rfl | rfl <;> exact ⟨arrives_of (by decide +kernel), by decide +kernel⟩
  · intro m hm
    simp only [List.mem_cons, List.not_mem_nil, or_false] at hm
    rcases hm with rfl | rfl | rfl <;> exact ⟨arrives_of (by decide +kernel), by decide +kernel⟩

/-- JOIN with no membership and with one that a command joins; LEAVE, and LEAVE of a lost member, admitted and not. -/
theorem witness_FabricPackets_members :
    Arrives (arrival .join pkt) 0 .join pkt 0 ∧ (arrival .join pkt).membership 0 pkt.coll = none ∧
    (let p := { pkt with opx := 2 * 2 ^ 64 }
     let m : Membership := ⟨0, 2, [(7, 0), (9, 3)], [], false, 40, [], []⟩
     let s := (arrival .join p).modFabric (fun x => { x with members := [m] })
     Arrives s 0 .join p 0 ∧ s.membership 0 p.coll = some m ∧ m.joined = false ∧ (p.snode, p.svf) ∈ m.members) ∧
    (Arrives (arrival .leave pkt) 0 .leave pkt 0 ∧ pkt.cause ≠ 0x0E) ∧
    (∀ d ∈ [0, 1], let p := { pkt with cause := 0x0E, domain := d }
      (arrival .leave p).localPart 0 .leave p = some 0 ∧ (arrival .leave p).admits 0 p = decide (d = 0)) := by
  refine ⟨arrives_of (by decide +kernel), by decide +kernel, ⟨arrives_of (by decide +kernel), by decide +kernel⟩,
    ⟨arrives_of (by decide +kernel), by decide⟩, ?_⟩
  intro d hd
  rcases List.mem_pair.1 hd with rfl | rfl <;> decide +kernel

/-- A packet of each type, the first of its stream and one after 2^31 others, that is not admitted, and whose command is refused. -/
theorem witness_FabricPackets_away :
    ∀ ty ∈ [PacketType.put, .getRequest, .send, .atomic, .reducePut, .join, .leave], ∀ seq ∈ [0, 2 ^ 31],
      (let p := { pkt with seq := seq, domain := 1 }
       let s := arrival ty p (stream 0 none none seq)
       s.localPart 0 ty p = some 0 ∧ (s.rxOf p).inOrder p = true ∧ (s.rxOf p).refuses p = none ∧ (s.rxOf p).moved = 0 ∧ s.admits 0 p = false) ∧
      (let p := { pkt with seq := seq }
       let s := arrival ty p (stream 0 none (some (40, 0x0B)) seq)
       s.localPart 0 ty p = some 0 ∧ (s.rxOf p).inOrder p = true ∧ (s.rxOf p).refuses p = some 0x0B) := by
  intro ty ht seq hs
  simp only [List.mem_cons, List.not_mem_nil, or_false] at ht
  rcases List.mem_pair.1 hs with rfl | rfl <;> rcases ht with rfl | rfl | rfl | rfl | rfl | rfl | rfl <;> decide +kernel

/-- An answer of each type for an open packet; returned data at its first and after its last access. -/
theorem witness_FabricAnswersAndLinks_answers :
    ∀ e ∈ [(PacketType.ack, PacketType.put, 0, 0, 0), (.nack, .put, 0x0B, 0, 0), (.getData, .getRequest, 0, 16, 0), (.getData, .getRequest, 0, 16, 1),
        (.atomicResult, .atomic, 0, 8, 0), (.atomicResult, .atomic, 0, 8, 1)],
      let f := { sending e.2.1 with unanswered := [⟨9, 3, 0, 0, e.2.2.2.2⟩] }
      let p := { pkt with cause := e.2.2.1, data := List.replicate e.2.2.2.1 1 }
      let s := holding [whole e.1 p 4] (net (fun x => { x with cmds := [(40, f)] }))
      Answers s 0 e.1 p 0 f ⟨9, 3, 0, 0, e.2.2.2.2⟩ ∧ f.cause = 0 ∧ f.laddr ≠ 0 ∧ s.mem.wf = true ∧ s.viralBlocks 0x18000 = false ∧
        s.homeWaits 0x18000 = false ∧ s.places 0 0 .write (accessesOf (f.laddr + 0) p.data.length 16) = .at_ (accessesOf 0x18000 p.data.length 16) := by
  intro e he
  simp only [List.mem_cons, List.not_mem_nil, or_false] at he
  rcases he with rfl | rfl | rfl | rfl | rfl | rfl <;> exact ⟨⟨by decide +kernel, by decide +kernel⟩, by decide +kernel⟩

/-- A packet in transit whose next hop has room, has none, and that has no route; one that must escape; one that was refused for 64 cycles. -/
theorem witness_FabricAnswersAndLinks_transit :
    (∀ n ∈ [96, 0], let x := whole .put { pkt with dnode := 9, snode := 8 }
      let s := holding [x] (net.modPort 0 (fun p => { p with far := ⟨n, Vector.replicate 8 0⟩ }))
      s.inputOwner 0 = some 0 ∧ (s.port 0).head x.vc = some x ∧ x.route = none ∧ x.pkt.dnode ≠ s.pnode 0 ∧
        s.nextHop 0 9 x.vc = some (0, 0) ∧ (s.port 0).roomFar 0 x.pkt.flits = decide (n = 96) ∧ s.winsOutput 0 0 x (0, 0) = true) ∧
    (let x := whole .put { pkt with dnode := 8, snode := 8 }
     (holding [x]).inputOwner 0 = some 0 ∧ ((holding [x]).port 0).head x.vc = some x ∧ (holding [x]).nextHop 0 x.pkt.dnode x.vc = none ∧
       x.pkt.snode ≠ (holding [x]).pnode 0) ∧
    (let x := { whole .put { pkt with dnode := 9, snode := 8 } 5 with esc := true }
     ((holding [x]).port 0).head x.vc = some x ∧ (holding [x]).routeEsc 0 x.pkt.dnode = some 1 ∧ ((holding [x]).port 1).roomFar 7 1 = true ∧
       (holding [x]).winsOutput 0 0 x (1, 7) = true) ∧
    (let x := { whole .put { pkt with dnode := 9, snode := 8 } with refused := some 1 }
     let s : State := { holding [x] with units := 1000 * Config.unitsPerNs }
     s.inputOwner 0 = some 0 ∧ x ∈ (s.port 0).inq ∧ x.refused = some 1 ∧ 1 + 64 ≤ s.fabricCycle ∧ (s.routeEsc 0 x.pkt.dnode).isSome = true) := by
  refine ⟨?_, by decide +kernel, by decide +kernel, by decide +kernel⟩
  intro n hn
  rcases List.mem_pair.1 hn with rfl | rfl <;> decide +kernel

/-- The flit that port 0 expects next, with and without a packet's header. -/
def flit (body : Option (PacketType × Packet × Nat)) (seq : Nat := 0) : Flit := ⟨0, true, seq, 0, ⟨0, Vector.replicate 8 0⟩, body⟩

/-- Flits whose CRC is right, of the number that the port expects or another, and wrong; links that must fall, are trained and are not; a
buffer to resend; a member that no route reaches. -/
theorem witness_FabricAnswersAndLinks_links :
    (net.port 0).up = true ∧ (net.port 0).rxSeq = 0 ∧
    (∀ body ∈ [none, some (PacketType.put, pkt, 0)], ∀ seq ∈ [0, 1], let f := flit body seq
      ({ f with crc := f.check }).crc = ({ f with crc := f.check }).check ∧
        ({ f with crc := f.check + 1 }).crc ≠ ({ f with crc := f.check + 1 }).check ∧
        (net.port 0).slotFree net.fabricCycle f = true ∧ f.vc ≤ 6 ∧ (net.port 0).inq = []) ∧
    (let p : Port := { net.port 0 with retry := [flit none], training := true }
     p.up = true ∧ p.retry.filter (fun f => decide (0 ≤ f.seq)) ≠ [] ∧ p.en = true ∧ p.training = true) ∧
    (net.portOwner 0 = some 0 ∧ net.sentNow pfId < 65536 ∧ (net.port 0).mustFall net.units = false ∧
      ({ net.port 0 with fails := (0, 17) } : Port).mustFall 0 = true ∧ ({ net.port 0 with mismatches := 17 } : Port).mustFall 0 = true ∧
      ({ net.port 0 with unlocked := some 0 } : Port).mustFall (10000 * Config.unitsPerNs) = true) ∧
    (let m : Membership := ⟨0, 2, [(7, 0), (9, 3)], [], true, 40, [], [((9, 3), 0)]⟩
     let s : State := { net (fun x => { x with members := [m], cmds := [(40, sending .put)] }) with units := 10000 * Config.unitsPerNs }
     m ∈ s.fabric.members ∧ (9, 3) ∈ m.members ∧ (9, 3) ∉ m.lost ∧ (∃ u, ((9, 3), u) ∈ m.away ∧ u + 10000 * Config.unitsPerNs ≤ s.units)) := by
  refine ⟨by decide +kernel, by decide +kernel, ?_, by decide +kernel, by decide +kernel, List.mem_singleton.2 rfl, by decide, by decide, 0, by decide, by decide +kernel⟩
  intro body hb seq hs
  refine ⟨rfl, ?_, ?_⟩
  · show (flit body seq).check + 1 ≠ (flit body seq).check
    intro h
    generalize (flit body seq).check = c at h
    bv_omega
  · rcases List.mem_pair.1 hb with rfl | rfl <;> rcases List.mem_pair.1 hs with rfl | rfl <;> decide +kernel

/-- An ordered access to a granule of its own core; one that another core's granule makes wait, on its way to the home and there; a write that
waits for a read-only granule; host requests; a line that nothing uses; a dirty line of host memory under viral. -/
theorem witness_MemorySystemEvents :
    (∀ act ∈ [Act.load, .store 7], let a : LaneAccess := ⟨31, .phys, 0x18000, 0x18000, 4, act⟩
      let o : VOp := ⟨0, 4, .addr, .store, true, .store, 0x80000000, 1, none, [], [a], true, [], 0, [], none, ⟨2, false, false, 0⟩, 8, 0⟩
      let s (g : GState) (home : List Nat := []) : State := { addr with ops := [(9, o)], granules := [(granuleOf 0x18000, g)], home := home }
      let own : GState := .priv 0 true
      let other : GState := .priv 5 false
      (s own).nextOrdered 9 = some (o, a) ∧ ((s own).groups.find 4).map Group.core = some 0 ∧ (s own).performable 9 0 a = true ∧
        (s other).performable 9 0 a = false ∧ (s other).arrivesHome 0 a = true ∧ (s other).home.contains 9 = false ∧
        (s other [9]).performable 9 0 a = false ∧ (s other [9]).home.contains 9 = true ∧ (s own).viral = false ∧
        (s own).mem.wf = true ∧ (s other [9]).granules.find (granuleOf 0x18000) = some other ∧
        (s other [9]).nextRequest (granuleOf 0x18000) (fun r => r.2.1 != 5) = some (9, 0, a) ∧
        (act.writes = true → (s .readonly [9]).nextRequest (granuleOf 0x18000) (fun r => r.2.2.act.writes) = some (9, 0, a))) ∧
    (0x18008 % 16 + 8 ≤ 16 ∧ comp.exposed 0x18008 = true ∧ comp.inMotion 0x18008 = false ∧ comp.homeWaits 0x18008 = false ∧
      comp.exposed (2 ^ 51) = false ∧ (2 ^ 51 < hostBase ∧ hostBase ≤ hostBase + 8) ∧ comp.lineBusy (hostBase / 128) = false ∧
        comp.lineBusy 768 = false) ∧
    comp.keepsDirty (hostBase / 128) = false ∧ ({ comp with viral := true } : State).keepsDirty (hostBase / 128) = true := by
  refine ⟨?_, by decide +kernel⟩
  intro act ha
  rcases List.mem_pair.1 ha with rfl | rfl <;> decide +kernel

/-- A walk that finds its leaf, one of a large page, and one that finds nothing; host pages in every state; functions with nothing under way. -/
theorem witness_TranslationEvents :
    (∀ root ∈ [(1 : Dword), 0x40001], let w : Walk := ⟨0, 0, 1, [], none⟩
      let s : State := { comp with walks := [(4, w)], fns := comp.fns.modify 0 (fun f => { f with root := root }) }
      s.walks.find 4 = some w ∧ 4 < s.nextId ∧ (s.fn 0).root.getLsbD 0 = true ∧ s.mem.wf = true ∧
        s.walkCached 0 0 (1 * 2 ^ 16) = (if root = 1 then .leaf 1 0x1001F 0x50008 else .bad false)) ∧
    (let s : State := { comp with walks := [(5, ⟨0, 0, 1, [], none⟩)], mem := tables.writeN 0x40000 (bytesOfNat 8 0x20000013) }
     s.walkCached 0 0 (1 * 2 ^ 16) = .leaf 2 0x20000013 0x40000) ∧
    pteBit 0x1001F 6 = false ∧ comp.viralBlocks 0x50008 = false ∧
    (let s : State := { comp with ats := [⟨0, 1, 1, 16, .requested, []⟩, ⟨0, 2, 1, 16, .paging, []⟩] }
     s.atsOf 0 1 = some ⟨0, 1, 1, 16, .requested, []⟩ ∧ s.atsOf 0 2 = some ⟨0, 2, 1, 16, .paging, []⟩) ∧
    comp.atsInvals.length < 32 ∧ (comp.fn 0).invdone = true ∧ comp.accessesPending 0 = false := by
  refine ⟨?_, by decide +kernel, by decide, by decide +kernel, by decide +kernel, by decide +kernel, by decide +kernel, by decide +kernel⟩
  intro root hr
  rcases List.mem_pair.1 hr with rfl | rfl <;> decide +kernel

/-- A launch record: one group in a cluster of one core, a grid of `n`. -/
def recordOf (n : Nat) : List Byte :=
  bytesOfNat 8 0x4C520100 ++ bytesOfNat 56 0 ++ bytesOfNat 4 0x02010002 ++ bytesOfNat 4 1 ++ bytesOfNat 4 0x11 ++ bytesOfNat 4 0 ++ bytesOfNat 4 n ++ bytesOfNat 172 0

/-- The machine with one entry of a type in submission queue 0 of function 0, and a record of a grid of `n` at 0x19000. -/
def submits (type n chunks : Nat) : State :=
  { comp with
    mem := (((tables.writeN 0x18000 (bytesOfNat 8 type)).writeN 0x18008 (bytesOfNat 4 0x19000)).writeN 0x19000 ((recordOf n).take 4)).writeN 0x19040 (((recordOf n).drop 64).take 20)
    fns := comp.fns.modify 0 (fun f => { f with sched := Fn.reset.sched ||| 0x20#64, sqs := [(0, ⟨0x18000, 16, 0, 1, false, none⟩)], ctxchunks := BitVec.ofNat 32 chunks }) }

/-- A SIGNAL entry; a LAUNCH whose record is right, wrong, and right but not placeable. -/
theorem witness_SubmissionsTaken :
    (∀ e ∈ [(2, 1, 16, none, true), (1, 1, 16, none, true), (1, 0, 16, some 0x50, true), (1, 1, 1, none, false)],
      let s := submits e.1 e.2.1 e.2.2.1
      s.sqPart 0 0 = some 0 ∧ s.served 0 = some (0, 0) ∧ (s.part 0).isSome = true ∧ (LaunchRec.of (recordOf e.2.1)).wsdesc = 0 ∧
        recordError (recordOf e.2.1) = e.2.2.2.1 ∧
        (match s.queueHead 0 0 0 with
         | .ready b s1 => natAt b 0 1 == e.1 && (e.1 == 2 || match s1.readOwn 0 0 (natAt b 8 8) 256 with
            | .got rb s2 => rb == recordOf e.2.1 &&
              (s2.part 0).any (fun p => s2.placeable 0 p (LaunchRec.of (recordOf e.2.1)) == e.2.2.2.2) &&
                (s2.hintsWait 0 0 (LaunchRec.of (recordOf e.2.1))).isNone | _ => false)
         | _ => false) = true) ∧
    ([0, 2] : List Nat) ≠ [] := by
  refine ⟨?_, by decide⟩
  intro e he
  simp only [List.mem_cons, List.not_mem_nil, or_false] at he
  rcases he with rfl | rfl | rfl | rfl <;> decide +kernel

/-- The machine with a partition on two dies, and launch 50 at the head of a dispatch queue: tickets left, its shapes and its fallback count. -/
def queued (gate : Bool) (rs : List Region) (pw fw count : Nat) (two : Bool := true) : State :=
  let l : Launch := ⟨{ LaunchRec.of (recordOf 4) with gangpw := pw, gangfw := fw, gangfh := fw }, 0, 0, 0, 51, [⟨0, 0, 2, count⟩,
    ⟨1, 2, 4, 0⟩], rs, gate, 0, false, false, false⟩
  { comp with
    launches := comp.launches.set 50 l, subs := [(51, ⟨0, 0, 0, 0x18100, 1, 0x18000, 0, 0, some 50⟩)]
    fns := comp.fns.modify 0 (fun f => { f with ctxchunks := 16, sched := Fn.reset.sched ||| 0x20#64 })
    parts := comp.parts.modify 0 (fun p => { p with slices := if two then 0x101 else 1, dieorder := 4, running := some 0, dq := [(0, [50])] }) }

/-- A gate that passes and one that cannot; a preferred and a fallback placement; the end of a launch and of a submission. -/
theorem witness_LaunchesPlacedAndCompleted :
    (∀ rs ∈ [[], [⟨0x10000, 1, 1⟩], [⟨0x10000, 2, 2⟩]], let s := queued false rs 1 0 0
      ∃ e, s.dqHead 0 0 = some e ∧ (e.1 == 50 && !e.2.gate && !s.frozenPup && (s.part 0).any (fun p =>
        decide ((e.2.regions.map Region.need).sum ≤ s.frames p 1)) &&
        (decide (rs = [⟨0x10000, 2, 2⟩]) != e.2.regions.all (fun r => decide (r.need ≤ s.countable 0 r) &&
          decide (r.need ≤ s.residentCount 0 r)))) = true) ∧
    (∀ fb ∈ [false, true], let s := queued true [] (if fb then 7 else 1) (if fb then 1 else 0) 2048
      ∃ l, s.launches.find 50 = some l ∧ (s.mayRun 0 0 && !s.gangFirst l && s.isHead 50 l && l.gate && s.mayPlaceIn 0 &&
        (!fb || s.fallbackWaits 50 0) &&
        l.nextTicket 0 == some (0, 0) && (s.part 0).any (fun p => !p.oneDie && p.dies.contains 0 && !s.ownerFirst p l 0 0 &&
          (let shape := if fb then l.cfg.fallback else (l.cfg.gangpw, l.cfg.gangph)
           (s.findRect p 0 l.cfg 0 shape.1 shape.2).any (fun a => (s.placeCluster ⟨50, 0, a.1, a.2, shape.1, shape.2, fb, 0⟩).isSome)))) = true) ∧
    (let s : State := { queued true [] 1 0 0 with launches := (queued true [] 1 0 0).launches.modify 50 (fun l => { l with ranges := [] }) }
     ∃ l, s.launches.find 50 = some l ∧ (!l.complete && l.allPlaced && s.gangs.all (fun e => e.2.launch != 50)) = true) ∧
    (let s : State := { queued true [] 1 0 0 with launches := (queued true [] 1 0 0).launches.modify 50 (fun l => { l with complete := true }) }
     ∃ x, s.subs.find 51 = some x ∧ (x.launch == some 50 && !s.commandsLeft 50 && !s.viral && s.mem.wf &&
      s.ownPlace x.fn x.part x.stAddr .write 16 == .at_ 0x18000 && s.ownPlace x.fn x.part x.doneAddr .both 8 == .at_ 0x18100) = true) := by
  refine ⟨?_, ?_, holds_some (by decide +kernel), holds_some (by decide +kernel)⟩
  · intro rs hr
    simp only [List.mem_cons, List.not_mem_nil, or_false] at hr
    rcases hr with rfl | rfl | rfl <;> exact holds_some (by decide +kernel)
  · intro fb hf
    rcases List.mem_pair.1 hf with rfl | rfl <;> exact holds_some (by decide +kernel)

/-- A decision on one die; a cluster whose quantum is over while another waits; a halted one that nothing was taken of; ticks; a sweep. -/
theorem witness_Scheduling :
    (let s := queued true [] 1 0 0 false
     (s.part 0).any Part.oneDie = true ∧ s.puppeteerFree = true ∧ 0 ∈ s.submitters 0 ∧ (s.strideStep 0 0 0).isSome = true ∧
       (s.fn 0).tickets ≠ 0 ∧ (s.fn 0).cap ≠ 0 ∧ ∀ f ∈ s.submitters 0, f ≠ 0 → (s.strideStep 0 f 0).isSome = false) ∧
    (let x := queued true [] 1 0 0 false
     let s : State := { x with units := 600000 * Config.unitsPerNs, gangs := x.gangs.modify 2 (fun c => { c with fn := 5 }) }
     ∃ c, s.gangs.find 2 = some c ∧ (c.status == .running && decide (c.quantumStart + 500000 ≤ s.reftime) && s.puppeteerFree &&
       (s.part c.part).any Part.oneDie && s.othersWait c) = true) ∧
    (let x := queued true [] 1 0 0
     let s : State := { x with runs := [], gangs := x.gangs.modify 2 (fun c => { c with status := .halted 0 }), groups := x.groups.modify 4 (fun g => { g with status := .halted }) }
     ∃ c, s.gangs.find 2 = some c ∧ (s.mayRun c.part c.fn && c.isHalted && s.gangQuiet c && s.intact c) = true) ∧
    (∀ pc ∈ [none, some 1], let x := queued true [] 1 0 0
      let s : State := { x with units := 1000000 * Config.unitsPerNs, pf := { x.pf with pcmd := pc } }
      s.puppeteerFree = pc.isNone ∧ s.workers 0 = [0] ∧ s.reftime / 1000000 = 1 ∧ (s.part 0).any (fun p => p.ticked == 0 && !p.switchDue &&
        !p.oneDie) = true) ∧
    (let s : State := { comp with units := 1000000 * Config.unitsPerNs, fns := comp.fns.modify 0 (fun f => { f with sched := 2 ^ 42 + 0x20 }) }
     (s.fn 0).recorded = true ∧ (s.fn 0).swept < s.reftime / 1000000 ∧ s.viral = false ∧ s.mem.wf = true ∧
       (s.leaves 0).map (fun l => l.entry) = [0x50008]) := by
  refine ⟨by decide +kernel, holds_some (by decide +kernel), holds_some (by decide +kernel), ?_, by decide +kernel⟩
  intro pc hp
  rcases List.mem_pair.1 hp with rfl | rfl <;> decide +kernel

/-- Samples may be taken and dies may step; a relock that is due; a die that is asked to gate. -/
theorem witness_PowerEvents :
    (comp.frozenMgmt = false ∧ comp.pf.sampled ≤ comp.reftime / 10000 ∧
      (let s : State := { comp with units := 10000000 * Config.unitsPerNs }
       s.mayStep 0 = true ∧ 16 < (s.die 0).k50 ∧ (s.die 0).k50 < 36 ∧ ∀ e, e < 4 → (s.die e).k50 = (s.die 0).k50)) ∧
    (let s := comp.modDie 3 (fun d => { d with relock := some (0, 31) })
     (s.die 3).relock = some (0, 31) ∧ 0 ≤ s.units) ∧
    (let s := comp.modDie 3 (fun d => { d with gateReq := true })
     let s : State := { s with lines := [(768, ⟨[3], some 3, [], true, false, false⟩)] }
     (s.die 3).gateReq = true ∧ (s.die 3).gated = false ∧ (s.die 3).relock = none ∧ s.frozenMgmt = false ∧
       ∀ e ∈ s.lines, e.2.dirty = true ∧ e.2.owner = some 3 ∧ s.keepsDirty e.1 = false) := by
  decide +kernel

/-- A command for partition 1 with an argument, nothing running in it. -/
def commanded (c : Nat) (arg : List (Nat × List Byte)) : State :=
  { comp with pf := { comp.pf with pcmd := some c, pcarg := arg.foldl (fun m e => m.writeN e.1 e.2) [] }, parts := comp.parts.set 2 { Part.ofArg [] with slices := 4, dieorder := 0xE4 } }

/-- Each command on legal arguments, and illegal ones; a change of what runs. -/
theorem witness_PartitionCommands :
    (let s := commanded 0x101 [(0, [1]), (2, [0xE4]), (4, [2])]
     natAt s.pcarg 0 1 = 1 ∧ s.parts.find 1 = none ∧ s.descriptorOk 1 (Part.ofArg s.pcarg) = true ∧ s.frozenPup = false ∧
       s.affected (fun g => g.pending) = []) ∧
    (let s := commanded 0x101 [(0, [1]), (2, [0xE4]), (4, [1])]
     s.descriptorOk 1 (Part.ofArg s.pcarg) = false) ∧
    (let s := commanded 0x202 []
     s.affected (fun g => g.part == 2) = [] ∧ (s.parts.find 2).map (fun p => p.memmode) = some false ∧ cmdPid 0x202 = 2) ∧
    (let s : State := { commanded 0x202 [] with parts := comp.parts.set 2 { Part.ofArg [] with slices := 4, dieorder := 0xE4, memmode := true } }
     s.affected (fun g => g.part == 2) = [] ∧ (s.parts.find 2).map (fun p => p.memmode) = some true) ∧
    (let s := commanded 2 []
     s.affected (fun g => g.part == 0) ≠ [] ∧ cmdForce 2 = false ∧ (s.parts.find 0).isSome = true) ∧
    (let s := commanded 0x203 [(0, [2]), (2, [0xE4]), (4, [8])]
     natAt s.pcarg 0 1 = 2 ∧ ∃ p, s.parts.find 2 = some p ∧ s.descriptorOk 2 (p.resized (Part.ofArg s.pcarg)) = true) ∧
    (let s := commanded 0x204 [(1, [1])]
     ∃ p, s.parts.find 2 = some p ∧ s.descriptorOk 2 { p with memmode := true } = true) ∧
    (let s := commanded 5 [(0x80, [0x7F, 1])]
     natAt s.pcarg 0x80 2 = 383 ∧ s.affected (fun g => g.standsOn 383 && !g.pending) = []) ∧
    (∀ c ∈ [0x3F0206, 0x3F4206], let s := commanded c []
      (s.fn (cmdVf c)).bound = none ∧ cmdVf c = 63 ∧ cmdNone c = decide (c = 0x3F4206) ∧ cmdPid c = 2) := by
  refine ⟨by decide +kernel, by decide +kernel, by decide +kernel, by decide +kernel, by decide +kernel,
    ⟨by decide +kernel, _, rfl, by decide +kernel⟩, ⟨_, rfl, by decide +kernel⟩,
    by decide +kernel, ?_⟩
  intro c hc
  rcases List.mem_pair.1 hc with rfl | rfl <;> decide +kernel

/-- A function with groups of its own and of another; a launch in a partition that uses a channel. -/
theorem witness_ResetsAndErrors :
    (comp.groups.find 4).map Group.fn = some 0 ∧ (0 < 64 ∧ 63 < 64) ∧ (∃ e ∈ comp.parts, comp.usesChannel e.1 e.2 0 = true) ∧
      (comp.launches.find 1).map Launch.complete = some false := by
  decide +kernel

/-- Registers are written while a launch runs and while none does; the last of each numbered register. -/
theorem witness_RegisterWrites :
    comp.launchRuns 0 = true ∧ comp.launchRuns 63 = false ∧ 64 ≤ 64 ∧ (63 < 64 ∧ 31 < 32 ∧ 4095 < 4096) ∧
      (let s : State := { comp with fns := comp.fns.modify 0 (fun f => { f with sched := 0x20 }) }
       ((s.fn 0).bound.map (fun p => s.hasWork p 0)) = some true) := by
  decide +kernel

/-! Well-formedness, command decoding, and the witnesses of the statements about encodings, steps and frames. -/

/-- Each check of well-formedness refuses a term, and the decoder refuses the words that stand for it (03 R80 to R83, R98). -/
theorem test_ill_formed_arithmetic : ([.mulhiIt fv ⟨2, true, true⟩, .divIt fv ⟨2, true, true⟩, .remIt fv ⟨2, true, true⟩,
  .minIt fv ⟨2, true, true⟩, .maxIt fv ⟨2, true, true⟩,
    .absIt gv ⟨2, false, false⟩, .lea fv 3, .dpxDotForms fv .sad 8 true false false, .icmp 1 2 4 false false 6 2 true 0 0,
      .icmp 1 2 4 false false 0 2 true 3 0,
    .fcmp 1 2 4 false false 0 3 0 false, .fadd fv .rd, .fsub fv .rd, .fmul fv .rd, .fmac fv .rd, .frnd gv .rd, .fscale fv .rd,
      .frndFmod gv ⟨.rn, false, true, false, false⟩,
    .frndFmod gv ⟨.rn, false, false, false, true⟩, .fscaleFmod fv ⟨.rn, false, false, false, true⟩] : List Instr).all (fun i =>
      !i.wf && (match decodeWords ((encode i).headD 0) ((encode i).getD 1 0) with | .ok j => j != i | .error _ => true)) = true := by decide +kernel

theorem test_ill_formed_conversions : ([.fcvt gv ⟨1, 1, 0, false, false, 0, 0⟩, .fcvt gv ⟨14, 0, 0, false, false, 0, 0⟩,
  .fcvt gv ⟨0, 14, 0, false, false, 0, 0⟩,
    .fcvt gv ⟨0, 1, 0, false, false, 2, 0⟩, .fcvt gv ⟨1, 0, 0, false, false, 0, 2⟩, .fcvt gv ⟨1, 0, 5, false, false, 0, 0⟩,
      .fcvt gv ⟨0, 6, 4, false, false, 0, 0⟩,
    .fcvt gv ⟨3, 4, 0, true, false, 0, 0⟩, .pack2Cvx fv ⟨3, 0, 0, false, false, 0, 0⟩, .unpack2Cvx gv ⟨0, 3, 0, false, false, 1, 0⟩,
      .fexp2 gv ⟨.rz, false, 0, 1⟩, .flog2 gv ⟨.rn, false, 0, 7⟩,
    .frcp gv ⟨.rn, false, 0, 7⟩, .fdiv fv ⟨.rn, false, 0, 7⟩, .fsqrt gv ⟨.rn, false, 0, 7⟩, .xrd 8 0 ⟨3, .rn, false, false, 0, 1⟩,
      .xrd 8 0 ⟨0, .rn, false, true, 0, 1⟩,
    .xscan 8 0 2 false ⟨3, .rn, false, false, 0, 1⟩, .xscan 8 0 2 false ⟨0, .rn, false, false, 0, 7⟩, .bra 8 4, .call 8 4] : List Instr).all (fun i =>
      !i.wf && (match decodeWords ((encode i).headD 0) ((encode i).getD 1 0) with | .ok j => j != i | .error _ => true)) = true := by decide +kernel

theorem test_ill_formed_memory : ([.ld ⟨8, 0x44, 0, 7⟩ 1, .st ⟨8, 0x44, 0, 1⟩ 8, .lds ⟨8, 0x44, 0, 7⟩ 1, .ldc ⟨8, 0x44, 0, 1⟩ 8,
  .ldMx ⟨8, 0x44, 0, 1⟩ ⟨5, false, false, 0⟩,
    .ldMx ⟨8, 0x44, 0, 1⟩ ⟨2, true, false, 0⟩, .ldMx ⟨8, 0x44, 0, 1⟩ ⟨2, false, true, 0⟩, .ldsMx ⟨8, 0x44, 0, 1⟩ ⟨1, false, true, 0⟩,
      .stMx ⟨8, 0x44, 0, 1⟩ ⟨1, true, false, 0⟩,
    .stsMx ⟨8, 0x44, 0, 1⟩ ⟨4, false, true, 0⟩, .ldwp ⟨8, 0x44, 0, 1⟩ 8, .ldwpMx ⟨8, 0x44, 0, 7⟩ 0,
      .atom ⟨8, 0x44, 0, 1⟩ 1 ⟨0, false, true, 2, 4⟩, .atom ⟨8, 0x44, 0, 7⟩ 1 ⟨0, false, false, 2, 4⟩,
    .fatom ⟨8, 0x44, 0, 7⟩ 1 false 2, .pref 0x44 0 1 8, .prefMx 0x44 0 7 0, .qtok 0 7, .lfold 8 2 1 ⟨6, false, 0, 1⟩,
      .lfold 8 2 1 ⟨0, true, 0, 1⟩, .lsame 8 2 1 false 0 7] : List Instr).all (fun i =>
      !i.wf && (match decodeWords ((encode i).headD 0) ((encode i).getD 1 0) with | .ok j => j != i | .error _ => true)) = true := by decide +kernel

theorem test_ill_formed_engines : ([.mmaBf16 ⟨16, 20, 16, false, 1, 0, 0, true, 1, 1, 0, 0, false⟩,
  .mmaE4m3 ⟨16, 20, 16, false, 1, 0, 0, false, 1, 0, 0, 0, false⟩,
    .mmaE5m2 ⟨16, 20, 16, false, 1, 0, 0, false, 0, 0, 0, 1, false⟩, .mmaI8 ⟨16, 20, 16, false, 7, 0, 0, false, 0, 0, 0, 0, false⟩,
      .mld ⟨.reg 8, 16, 7, 0, 3⟩, .mst ⟨.reg 8, 16, 7, 0, 3⟩,
    .mdrain ⟨20, 16, 7, 0, 0, false, 0, false, 3⟩, .cbld ⟨20, 7, 0, 0⟩, .actld ⟨20, 7, 0, 0⟩, .mepi 0x58 false 0,
      .push ⟨0, false, 0, 0, 7, 0⟩, .barwait ⟨8, 0x44, false, 0x78, 0, 7⟩] : List Instr).all (fun i =>
      !i.wf && (match decodeWords ((encode i).headD 0) ((encode i).getD 1 0) with | .ok j => j != i | .error _ => true)) = true := by decide +kernel

/-- Fields of a fabric command laid out as 20 R505 has them. -/
def fabBytes (op : Nat) : List Byte :=
  bytesOfNat 8 op ++ bytesOfNat 8 0x10 ++ bytesOfNat 2 (9 + 2 ^ 12 * 0) ++ bytesOfNat 1 3 ++ bytesOfNat 1 0 ++ bytesOfNat 4 64 ++ bytesOfNat 8 0x18000 ++ bytesOfNat 8 0x40000 ++
    bytesOfNat 8 0 ++ bytesOfNat 8 0 ++ bytesOfNat 8 0

/-- Commands written out as 14 Table 14.4 has them, and one with a reserved byte set. -/
theorem test_commands :
    decodeCommand 0 0 false (bytesOfNat 8 1 ++ bytesOfNat 8 0x10 ++ bytesOfNat 8 0x20 ++ bytesOfNat 8 0x30 ++ bytesOfNat 8 64 ++ bytesOfNat 24 0) = .ok (.copy 0 0x10 0x20 0x30 64) ∧
    decodeCommand 0 0 false (bytesOfNat 8 2 ++ bytesOfNat 8 0x10 ++ bytesOfNat 8 0x20 ++ bytesOfNat 8 64 ++ bytesOfNat 16 5 ++ bytesOfNat 16 0) = .ok (.fill 0 0x10 0x20 64 5) ∧
    decodeCommand 0 0 false (bytesOfNat 8 7 ++ bytesOfNat 8 0x10 ++ bytesOfNat 8 0x20 ++ bytesOfNat 8 9 ++ bytesOfNat 1 1 ++ bytesOfNat 7 0 ++ bytesOfNat 8 3 ++ bytesOfNat 16 0) = .ok (.signal 0 0x10 0x20 9 1 3) ∧
    decodeCommand 0 0 false (bytesOfNat 8 1 ++ bytesOfNat 32 0 ++ bytesOfNat 23 0 ++ bytesOfNat 1 1) = .error .badCommand ∧
    decodeCommand 0 0 false (bytesOfNat 64 0x21) = .error .badCommand ∧ decodeCommand 16 1 false (bytesOfNat 64 1) = .error .badCommand :=
      by decide +kernel

/-- Instructions that have an encoding and are well formed. -/
theorem witness_EncodingRoundTrip : ([.addIt fv ⟨3, true, true⟩, .icmp 7 2 4 true true 5 3 true 2 15,
  .fcvt gv ⟨5, 0, 4, true, true, 0, 7⟩, .xscan 8 3 2 true ⟨2, .rd, true, true, 15, 6⟩, .bra 15 (-1048576),
    .ldsMx ⟨8, 0x44, 15, 6⟩ ⟨3, false, true, 2097151⟩, .atom ⟨8, 0x44, 0, 0⟩ 7 ⟨7, true, false, 127, 127⟩,
      .mmaVq2 ⟨127, 31, 31, true, 6, 15, 15, true, 63, 63, 3, 3, true⟩, .lfold 8 2 15 ⟨5, false, 15, 6⟩,
    .push ⟨63, true, 15, 7, 6, 15⟩, .mepi 127 true 31, .rdsr 8 2047] : List Instr).all (fun i => i.encoded && i.wf) = true := by decide +kernel

/-- A command with a byte of its second word set beside the opcode. -/
theorem witness_DecodedWords : natAt (bytesOfNat 64 0x101) 1 7 ≠ 0 ∧ (32 ≤ 32 ∧ 3 < 4) := by decide +kernel

theorem witness_DecodingWellFormed : decodeWords 0x000C0820 0 = .ok (.add ⟨3, 1, 2, false, false⟩ true) := by decide +kernel

/-- A slot's turn at ADD and at a word that does not decode; a queue's turn with a guard and with a command; an event; an instruction that is none. -/
theorem witness_StepRunsDecoded :
    (let x := (bench (.add fv true)).pass 0
     (bench (.add fv true)).agenda = [⟨0, .slot 0⟩] ∧ ∃ r, x.runs.find 0 = some r ∧ (x.clockRuns 0 && x.collects 0 r &&
       !(x.arrive 0 r).armjLate r (.add fv true) &&
      (match r.code with | w :: ws => decide (decodeWords w (ws.headD 0) = .ok (.add fv true)) | _ => false)) = true) ∧
    (let x : State := (bench (.add fv true)).pass 0
     let y : State := { x with runs := x.runs.map (fun e => (e.1, { e.2 with code := [] })) }
     ∃ r, y.runs.find 0 = some r ∧ (y.clockRuns 0 && y.collects 0 r && r.code.isEmpty) = true) ∧
    (let y : State := State.withFetchWord { State.reset with mem := tables } 32 0xF8000011
     let x := y.pass 0
     ∃ r, x.runs.find 0 = some r ∧ (x.clockRuns 0 && x.collects 0 r &&
      (match r.code with | w :: ws => decide (decodeWords w (ws.headD 0) = .error .unassigned) | _ => false)) = true) ∧
    (∀ g ∈ [0, 3], let c : QCmd := { cmd0 with bytes := bytesOfNat 64 1, guard := g, started := false }
      let s : State := { comp with queues := [(0, { EQueue.reset with cmds := [c] })], agenda := [⟨0, .queue 0⟩] }
      (s.pass 0).headCmd 0 = some c ∧ (s.pass 0).clockRuns (0 / 32) = true ∧ decodeCommand 0 (queueKind 0) false c.bytes = .ok (.copy 0 0 0 0 0)) ∧
    (isEvent (.sleepWake 4) = true ∧ (comp.pass 0).frozenEvent (.sleepWake 4) = false ∧ isEvent .nop = false) ∧
    (∃ g, addr.groups.find 4 = some g ∧ (match addr.clauseWords g .addr 4 ⟨0x10000, 0xF8000021, 0, [], none⟩ with
      | .clause d => d.words.length == 1 && d.words == encode (.ld ⟨8, 0x44, 0, 1⟩ 1) | _ => false) = true) ∧
    ({ comp with held := true } : State).held = true ∧ (∀ w ∈ [none, some WaitReason.ordered],
      ∃ q, ({ comp with runs := comp.runs.map (fun e => (e.1, { e.2 with stalled := w })) } : State).runs.find 0 = some q ∧
        (q.stalled == w) = true) := by
  refine ⟨⟨by decide +kernel, holds_some (by decide +kernel)⟩, holds_some (by decide +kernel), holds_some (by decide +kernel), ?_, by decide +kernel,
    holds_some (by decide +kernel), rfl, ?_⟩
  rotate_left
  · intro w hw
    rcases List.mem_pair.1 hw with rfl | rfl <;> exact holds_some (by decide +kernel)
  intro g hg
  rcases List.mem_pair.1 hg with rfl | rfl <;> decide +kernel

/-- Every group of the bundle of `s` meets `ok`. -/
def members (s : State) (ok : Ctx → Bool) : Bool :=
  match s.runs.find s.cur with
  | some r => let cs := r.members.filterMap (s.ctx r); !cs.isEmpty && cs.all ok
  | none => false

/-- ADD into a constant, from an empty queue, from a bad entry; each encoding fault with those before it absent. -/
theorem witness_BundlesStopTogether :
    (let p (f : F3) : LaneRule := ruleBin 1 f 32 true rowAdd (fun _ _ => 0) true
     let gate (s : State) (f : F3) (c : Ctx) := s.gate (p f).full (some (p f).latency) c
     let bad : State := { comp with bad := [⟨4, 2, some 0⟩] }
     members comp (fun c => match gate comp { fv with d := 0x79 } c with | some (.fault f) => f == FaultInfo.plain .illegalOperand | _ => false) = true ∧
     members comp (fun c => match gate comp { fv with a := 0x70 } c with | some (.wait _) => true | _ => false) = true ∧
     members bad (fun c => (gate bad fv c).isNone && bad.poisoned (p fv).full c) = true ∧
     members comp (fun c => (p { fv with d := 0x79 }).full.illegalOperand c && !(p { fv with a := 0x44 }).full.illegalOperand c &&
       (p { fv with a := 0x44 }).full.foreign c &&
       !(p { fv with d := 0x50 }).full.illegalOperand c && !(p { fv with d := 0x50 }).full.foreign c &&
         (p { fv with d := 0x50 }).full.illegalType) = true ∧
     (let s := withGroup (fun g => { g with cfg := { g.cfg with checked := true }, sc := { g.sc with landing := [⟨5, [.vElem 2 0 1, .vElem 2 31 1]⟩] } })
      members s (fun c => ((p fv).full.encodingFault c).isNone && !s.lookaheadWait (p fv).full c && s.hazard (p fv).full c (some 2))) = true) := by
  decide +kernel

/-- AND as a rule. -/
def andRule : LaneRule :=
  let a := aluBits fv (fun a b => a &&& b)
  { words := 1, row := a.lat, ext := a.ext, pins := a.pins, uses := a.uses, val := fun v _ => (word32 (readInt 32 false (v.getD 0 0)) &&& word32 (readInt 32 false (v.getD 1 0))).toNat }

theorem and_computes : Computes (.and fv) andRule :=
  computes_of_alu (aluBits fv (fun a b => a &&& b)) (fun _ => rfl) rfl rfl rfl rfl (fun _ _ => rfl)

theorem witness_RegisterFrame : ∃ p r cs t, Computes (.and fv) p ∧ Going comp r cs p.full (fun _ => some p.latency) ∧ p.affine = false ∧
  exec (.and fv) comp = .next t := by
  obtain ⟨r, cs, h, -⟩ := going_of_goes (ok := fun _ => true) (s := comp) (u := andRule.full) (lat := some andRule.latency) (by decide +kernel)
  exact ⟨_, r, cs, _, and_computes, h, by decide, and_computes comp r cs h (by decide)⟩

/-- An instruction that stores nothing runs; a store meets the premises of the second clause (witness_MemoryInstructions), and its byte at 0x17FFF is outside. -/
theorem witness_MemoryFrame : storesNothing (.and fv) = true ∧ (∃ t, exec (.and fv) comp = .next t) ∧
  memOf (.stMx ⟨8, 0x44, 0, 1⟩ ⟨4, false, false, 0x7FE0⟩) ≠ none ∧
    .stMx ⟨8, 0x44, 0, 1⟩ ⟨4, false, false, 0x7FE0⟩ ∈ memForms := by
  obtain ⟨p, r, cs, t, -, -, -, h⟩ := witness_RegisterFrame
  exact ⟨by decide, ⟨t, h⟩, by decide, by decide⟩

theorem witness_StepKeepsMemory : State.reset.mem.wf = true ∧ comp.mem.wf = true ∧
  (match step (bench (.st ⟨8, 0x44, 0, 1⟩ 1)) with | .next t => t.mem.wf | _ => false) = true := by
  decide +kernel

end Sys2Proof.Tests
end

/-! Closure over affine sources (01 R38, Table 1.6). -/

namespace Sys2Proof.Machine

open Sys2Proof

/-- Settles O2: each instruction runs an Alu whose operation on bases and strides is the row of 01 Table 1.6. -/
theorem affineClosure : Obligations.AffineClosure := by
  unfold Obligations.AffineClosure
  refine ⟨fun f sg => ?add, fun f => ?addImm, fun f sg => ?sub, fun f sg => ?mul, fun f => ?shl, fun d a n => ?shlImm, fun f => ?mov⟩
  case add => exact computesAffine_of_alu (aluAdd f 32 sg false) (fun _ => rfl) rfl rfl rfl rfl rfl
  case addImm => exact computesAffine_of_alu (aluAddImm f) (fun _ => rfl) rfl rfl rfl rfl rfl
  case sub => exact computesAffine_of_alu (aluSub f 32 sg false) (fun _ => rfl) rfl rfl rfl rfl rfl
  case mul => exact computesAffine_of_alu (aluMul f 32 sg false) (fun _ => rfl) rfl rfl rfl rfl rfl
  case shl => exact computesAffine_of_alu (aluShl f) (fun _ => rfl) rfl rfl rfl rfl rfl
  case shlImm =>
    exact computesAffine_of_alu ((aluShiftImm d a (fun x => shl32 x n.toNat)).withClosed true
      (fun x _ => (x.1 * 2 ^ n.toNat, x.2 * 2 ^ n.toNat))) (fun _ => rfl) rfl rfl rfl rfl rfl
  case mov =>
    exact computesAffine_of_alu ((aluBits1 f (fun a => a)).withClosed true (fun a _ => a)) (fun _ => rfl) rfl rfl rfl rfl rfl

/-! Demotion (05 R141; 01 R40, R41). -/

/-- A signed word is read back from its residue (00 R10). -/
theorem signedOf_wrapNat {x : Int} (hlo : -2 ^ 31 ≤ x) (hhi : x < 2 ^ 31) : signedOf 32 (wrapNat 32 x) = x := by
  unfold signedOf wrapNat
  norm_num at *
  split <;> omega

theorem wrapNat_lt (x : Int) : wrapNat 32 x < 2 ^ 32 := by
  unfold wrapNat
  omega

/-- Residues are what matters of the operands of a difference. -/
theorem wrapNat_sub_wrapNat (x y : Int) : wrapNat 32 ((wrapNat 32 x : Int) - wrapNat 32 y) = wrapNat 32 (x - y) := by
  unfold wrapNat
  omega

/-- The stride that the two lowest lanes of a list give, 0 for a single lane (01 R41). -/
def strideFrom (l x : Nat) : List (Nat × Nat) → Option Int
  | [] => some 0
  | (m, y) :: _ =>
    if signedOf 32 (wrapNat 32 ((y : Int) - x)) % ((m : Int) - l) = 0 then
      some (signedOf 32 (wrapNat 32 ((y : Int) - x)) / ((m : Int) - l))
    else none

/-- Base `b` and stride `st` give every lane of a list its value. -/
def laneProgression (b : Nat) (st : Int) (vs : List (Nat × Nat)) : Prop := ∀ e ∈ vs, wrapNat 32 ((b : Int) + st * e.1) = e.2

/-- A progression is the stride of the two lowest lanes and the base it leaves, where they are in range and give every
lane its value (01 R41). -/
theorem progression_cons {l x : Nat} {rest : List (Nat × Nat)} {b : Nat} {st : Int} :
    progression ((l, x) :: rest) = some (b, st) ↔ strideFrom l x rest = some st ∧ b = wrapNat 32 ((x : Int) - st * l) ∧
      strideOk st = true ∧ laneProgression b st ((l, x) :: rest) := by
  have hs : progression ((l, x) :: rest) = (strideFrom l x rest).bind (fun s =>
      if strideOk s && ((l, x) :: rest).all (fun e => wrapNat 32 ((wrapNat 32 ((x : Int) - s * l) : Int) + s * e.1) == e.2)
      then some (wrapNat 32 ((x : Int) - s * l), s) else none) := by
    unfold progression strideFrom
    cases rest with
    | nil => rfl
    | cons e rest =>
      obtain ⟨m, y⟩ := e
      dsimp only
      split <;> next h => rw [h]; rfl
  rw [hs, Option.bind_eq_some_iff]
  constructor
  · rintro ⟨s, hst, h⟩
    rw [Option.ite_none_right_eq_some, Bool.and_eq_true, List.all_eq_true, Option.some.injEq, Prod.mk.injEq] at h
    obtain ⟨⟨hok, hall⟩, hb, rfl⟩ := h
    subst hb
    exact ⟨hst, rfl, hok, fun e he => by simpa using hall e he⟩
  · rintro ⟨hst, rfl, hok, hall⟩
    refine ⟨st, hst, ?_⟩
    rw [if_pos]
    rw [Bool.and_eq_true, List.all_eq_true]
    exact ⟨hok, fun e he => by simpa using hall e he⟩

/-- The progression found is one (01 R41). -/
theorem progression_sound {vs : List (Nat × Nat)} {b : Nat} {st : Int} (h : progression vs = some (b, st)) :
    b < 2 ^ 32 ∧ strideOk st = true ∧ laneProgression b st vs := by
  cases vs with
  | nil => cases h
  | cons e rest =>
    obtain ⟨-, hb, hok, hall⟩ := progression_cons.1 h
    exact ⟨hb ▸ wrapNat_lt _, hok, hall⟩

/-- A single lane has stride 0. -/
theorem progression_single {l x : Nat} (hx : x < 2 ^ 32) : progression [(l, x)] = some (x, 0) := by
  have hw : wrapNat 32 (x : Int) = x := by unfold wrapNat; omega
  refine progression_cons.2 ⟨rfl, by simp [hw], by decide, fun e he => ?_⟩
  rw [List.mem_singleton] at he
  subst he
  simpa using hw

/-- The two lowest lanes of a progression give its stride: it is in range, so the difference does not wrap. -/
theorem strideFrom_of_laneProgression {b l m x y : Nat} {rest : List (Nat × Nat)} {st : Int} (hok : strideOk st = true) (hlt : l < m) (hm : m < 32)
    (hx : wrapNat 32 ((b : Int) + st * l) = x) (hy : wrapNat 32 ((b : Int) + st * m) = y) :
    strideFrom l x ((m, y) :: rest) = some st := by
  simp only [strideOk, Bool.and_eq_true, decide_eq_true_eq] at hok
  obtain ⟨hlo, hhi⟩ := hok
  have hk : (0 : Int) < (m : Int) - l := by omega
  have hd : ((b : Int) + st * m) - (b + st * l) = st * ((m : Int) - l) := by ring
  have hsub : signedOf 32 (wrapNat 32 ((y : Int) - x)) = st * ((m : Int) - l) := by
    rw [← hx, ← hy, wrapNat_sub_wrapNat, hd]
    refine signedOf_wrapNat ?_ ?_ <;> nlinarith
  simp only [strideFrom]
  rw [hsub, if_pos (Int.mul_emod_left _ _), Int.mul_ediv_cancel _ hk.ne']

/-- Lanes that stand in a progression of two lanes or more have it found (01 R41). -/
theorem progression_complete {vs : List (Nat × Nat)} {b : Nat} {st : Int} (hord : vs.Pairwise (fun d e => d.1 < e.1))
    (hlen : 2 ≤ vs.length) (hlane : ∀ e ∈ vs, e.1 < 32) (hb : b < 2 ^ 32) (hok : strideOk st = true) (hall : laneProgression b st vs) :
    progression vs = some (b, st) := by
  match vs, hlen with
  | (l, x) :: (m, y) :: rest, _ =>
    have hlm : l < m := List.rel_of_pairwise_cons hord List.mem_cons_self
    have hx : wrapNat 32 ((b : Int) + st * l) = x := hall (l, x) List.mem_cons_self
    have hy : wrapNat 32 ((b : Int) + st * m) = y := hall (m, y) (by simp)
    refine progression_cons.2 ⟨strideFrom_of_laneProgression hok hlm (hlane (m, y) (by simp)) hx hy, ?_, hok, hall⟩
    rw [← hx]
    unfold wrapNat
    omega

/-- The values of the lanes that DEMOTE.chk compares, ascending. -/
def chkValues (f : F2) (c : Ctx) (m : Word) : List Nat := (lanesOf m).map (fun L => (c.values (demoteUses f .uni) L).getD 0 0)

theorem aluDemoteChk_fn (f : F2) (c : Ctx) (m : Word) : (aluDemoteChk f).fn c m =
    if (chkValues f c m).all (fun x => x == (chkValues f c m).headD 0) = true then .ok (fun _ => { val := (chkValues f c m).headD 0 })
    else .error .nonuniform := by
  have hv : (demoteValues (demoteUses f .uni) c m).map Prod.snd = chkValues f c m := by
    simp only [demoteValues, chkValues, List.map_map, Function.comp_def]
  simp only [aluDemoteChk, hv]

/-- DEMOTE.chk of lanes with a common value. -/
theorem aluDemoteChk_common {f : F2} {c : Ctx} {m : Word} (h : ∀ x ∈ chkValues f c m, x = (chkValues f c m).headD 0) :
    (aluDemoteChk f).fn c m = .ok (fun _ => { val := (chkValues f c m).headD 0 }) := by
  rw [aluDemoteChk_fn, if_pos (by simpa only [List.all_eq_true, beq_iff_eq] using h)]

/-- DEMOTE.chk of lanes without one. -/
theorem aluDemoteChk_differing {f : F2} {c : Ctx} {m : Word} (h : ∃ x ∈ chkValues f c m, x ≠ (chkValues f c m).headD 0) :
    (aluDemoteChk f).fn c m = .error .nonuniform := by
  obtain ⟨x, hx, hne⟩ := h
  rw [aluDemoteChk_fn, if_neg]
  rw [List.all_eq_true]
  exact fun hall => hne (beq_iff_eq.1 (hall x hx))

/-- DEMOTEA.chk where the lanes stand in a progression. -/
theorem aluDemoteaChk_some {f : F2} {c : Ctx} {m : Word} {b : Nat} {st : Int}
    (h : progression (demoteValues (demoteUses f .aff) c m) = some (b, st)) :
    (aluDemoteaChk f).fn c m = .ok (fun _ => { val := b, stride := st }) := by
  have h' : progression (demoteValues (aluDemoteaChk f).uses c m) = some (b, st) := h
  simp only [aluDemoteaChk] at h' ⊢
  rw [h']

/-- DEMOTEA.chk where they do not. -/
theorem aluDemoteaChk_none {f : F2} {c : Ctx} {m : Word} (h : progression (demoteValues (demoteUses f .aff) c m) = none) :
    (aluDemoteaChk f).fn c m = .error .nonaffine := by
  have h' : progression (demoteValues (aluDemoteaChk f).uses c m) = none := h
  simp only [aluDemoteaChk] at h' ⊢
  rw [h']

/-- Settles O7: the demotions' results and faults are those of their lanes' values, and a progression is found exactly
when the lanes stand in one. -/
theorem demotion : Obligations.Demotion := by
  unfold Obligations.Demotion
  refine ⟨fun f => ⟨?first, ?chk, ?chkFaults, fun b st => ?affine, ?affineFaults⟩, fun vs b st h => progression_sound h, fun l x => progression_single,
    fun vs b st => progression_complete⟩
  case first =>
    exact computes_of_lanewise (aluDemoteFirst f) (fun _ => rfl) rfl rfl rfl rfl rfl rfl rfl rfl (fun _ _ => rfl)
  case chk => exact computesWhen_of_alu (aluDemoteChk f) (fun _ => rfl) rfl rfl rfl rfl (fun c m h => aluDemoteChk_common h)
  case chkFaults => exact faultsWhen_of_alu (aluDemoteChk f) (fun _ => rfl) rfl rfl (fun c m h => aluDemoteChk_differing h)
  case affine => exact computesWhen_of_alu (aluDemoteaChk f) (fun _ => rfl) rfl rfl rfl rfl (fun c m h => aluDemoteaChk_some h)
  case affineFaults => exact faultsWhen_of_alu (aluDemoteaChk f) (fun _ => rfl) rfl rfl (fun c m h => aluDemoteaChk_none h)

end Sys2Proof.Machine

/-! What stops a bundle before its instruction's meaning (01 R42; 03 R94, R99; 07 R192; 17 R438). -/

namespace Sys2Proof.Machine

open Sys2Proof

/-! The gate: the first thing that stops a group stops it. -/

theorem gate_of_encodingFault {s : State} {u : Uses} {lat : Option Nat} {c : Ctx} {e : Cause} (h : u.encodingFault c = some e) :
    s.gate u lat c = some (.fault (FaultInfo.plain e)) := by
  simp only [State.gate, h]

theorem gate_of_hazard {s : State} {u : Uses} {lat : Option Nat} {c : Ctx} (he : u.encodingFault c = none)
    (hw : s.lookaheadWait u c = false) (hh : s.hazard u c lat = true) :
    s.gate u lat c = some (.fault (FaultInfo.plain .hazard)) := by
  simp only [State.gate, he, hw, hh, Bool.false_eq_true, if_false, if_true]

/-- The encoding faults in the order of 01 R42, then the hazard of 03 R90. -/
theorem gate_order (s : State) (u : Uses) (lat : Option Nat) (c : Ctx) :
    let stops (e : Cause) := s.gate u lat c = some (.fault (FaultInfo.plain e))
    (u.illegalOperand c = true → stops .illegalOperand) ∧
    (u.illegalOperand c = false → u.foreign c = true → stops .streamOwner) ∧
    (u.illegalOperand c = false → u.foreign c = false → u.illegalType = true → stops .illegalType) ∧
    (u.illegalOperand c = false → u.foreign c = false → u.illegalType = false → u.divergent c = true → stops .uniformDivergent) ∧
    (u.encodingFault c = none → s.lookaheadWait u c = false → s.hazard u c lat = true → stops .hazard) := by
  refine ⟨fun h1 => gate_of_encodingFault ?_, fun h1 h2 => gate_of_encodingFault ?_, fun h1 h2 h3 => gate_of_encodingFault ?_,
    fun h1 h2 h3 h4 => gate_of_encodingFault ?_, gate_of_hazard⟩
  all_goals simp [Uses.encodingFault, *]

/-! The verdict on a group, from its gate, the instruction's meaning and poison. -/

theorem judge_of_gate {s : State} {u : Uses} {lat : Ctx → Option Nat} {sem : State → Ctx → Verdict} {c : Ctx} {v : Verdict}
    (h : s.gate u (lat c) c = some v) : s.judge u lat sem c = v := by
  simp only [State.judge, h]

theorem judge_of_clean {s : State} {u : Uses} {lat : Ctx → Option Nat} {sem : State → Ctx → Verdict} {c : Ctx}
    {e : State → State} {j : Option (Fin 32 → Option Dword)} (hg : s.gate u (lat c) c = none) (hs : sem s c = .go e j)
    (hp : s.poisoned u c = false) : s.judge u lat sem c = .go e j := by
  simp only [State.judge, hg, hs, hp, Bool.false_eq_true, if_false]

theorem judge_of_poisoned {s : State} {u : Uses} {lat : Ctx → Option Nat} {sem : State → Ctx → Verdict} {c : Ctx}
    {e : State → State} {j : Option (Fin 32 → Option Dword)} (hg : s.gate u (lat c) c = none) (hs : sem s c = .go e j)
    (hp : s.poisoned u c = true) : s.judge u lat sem c = .fault (FaultInfo.plain .poison) := by
  simp only [State.judge, hg, hs, hp, if_true]

/-! Waits among verdicts. -/

/-- A verdict is to wait for one reason, or to go on past the instruction. -/
def Verdict.waitsOrGoes (w : WaitReason) (v : Verdict) : Prop := v = .wait w ∨ ∃ e, v = .go e none

theorem Verdict.waitsOrGoes.not_fault {w : WaitReason} {v : Verdict} (h : v.waitsOrGoes w) : v.isFault = false := by
  rcases h with rfl | ⟨e, rfl⟩ <;> rfl

theorem firstWait_of_waitsOrGoes {w : WaitReason} {vs : List (Ctx × Verdict)} (h : ∀ e ∈ vs, e.2.waitsOrGoes w)
    (hw : ∃ e ∈ vs, e.2 = .wait w) : firstWait vs = some w := by
  unfold firstWait
  induction vs with
  | nil => simp at hw
  | cons d vs ih =>
    rw [List.findSome?_cons]
    rcases h d List.mem_cons_self with hd | ⟨e, hd⟩
    · rw [hd]
    · rw [hd]
      refine ih (fun e he => h e (List.mem_cons_of_mem _ he)) ?_
      obtain ⟨x, hx, hxw⟩ := hw
      rcases List.mem_cons.1 hx with rfl | hx
      · rw [hd] at hxw; cases hxw
      · exact ⟨x, hx, hxw⟩

theorem waitEffects_of_waitsOrGoes {w : WaitReason} {vs : List (Ctx × Verdict)} (h : ∀ e ∈ vs, e.2.waitsOrGoes w) (s : State) :
    waitEffects vs s = s := by
  unfold waitEffects
  induction vs with
  | nil => rfl
  | cons d vs ih =>
    rw [List.foldl_cons]
    rcases h d List.mem_cons_self with hd | ⟨e, hd⟩ <;>
      (rw [hd]; exact ih (fun e he => h e (List.mem_cons_of_mem _ he)))

/-! Instructions that compute lane by lane. -/

/-- Instruction `i` runs `a`, whose uses and latencies are the rule's and whose lanes always have a result. -/
structure RunsAlu (i : Instr) (p : LaneRule) (a : Alu) : Prop where
  exec_eq : ∀ s, exec i s = runAlu p.words a s
  uses : a.uses = p.uses
  lat : a.lat = p.row
  total : ∀ c m, ∃ out, a.fn c m = .ok out

section
variable {i : Instr} {p : LaneRule} {a : Alu}

theorem RunsAlu.allUses (h : RunsAlu i p a) : a.allUses = p.full := by
  unfold Alu.allUses LaneRule.full
  rw [h.uses, h.lat]

theorem RunsAlu.latency (h : RunsAlu i p a) : a.latency = p.latency := by
  unfold Alu.latency LaneRule.latency
  rw [h.uses, h.lat]

theorem RunsAlu.isClosed (h : RunsAlu i p a) : a.isClosed = p.affine := by
  have hu : ∀ u, a.uses = u → a.isClosed = LaneRule.affine { p with uses := u } := by
    rintro _ rfl
    rfl
  exact hu _ h.uses

theorem RunsAlu.exec_issue (h : RunsAlu i p a) (s : State) :
    exec i s = .next (s.issue p.words p.full (fun _ => some p.latency) (pinRows a.pins) false a.sem) := by
  rw [h.exec_eq, runAlu, State.issueAlu, h.allUses, h.latency]

/-- The instruction's own meaning never stops a group. -/
theorem RunsAlu.sem_go (h : RunsAlu i p a) (haff : p.affine = false) (s : State) (c : Ctx) : ∃ e, a.sem s c = .go e none := by
  obtain ⟨out, hout⟩ := h.total c (c.part a.allUses)
  unfold Alu.sem
  dsimp only
  split
  · exact ⟨_, rfl⟩
  · rw [h.isClosed, haff, hout]
    exact ⟨_, rfl⟩

theorem RunsAlu.refusedWith (h : RunsAlu i p a) : RefusedWith i p := by
  intro s r cs f hr hg _ hf
  rw [h.exec_issue, issue_fault hr hg (fun c hc => judge_of_gate (lat := fun _ => some p.latency) (hf c hc)) (fun _ _ => rfl)]

theorem RunsAlu.waitsTogether (h : RunsAlu i p a) : WaitsTogether i p := by
  intro s r cs w hr hg hall hsome haff
  have hv : ∀ c ∈ cs, (s.judge p.full (fun _ => some p.latency) a.sem c).waitsOrGoes w := by
    intro c hc
    rcases hall c hc with hw | ⟨hn, hp⟩
    · exact .inl (judge_of_gate (lat := fun _ => some p.latency) hw)
    · obtain ⟨e, he⟩ := h.sem_go haff s c
      exact .inr ⟨e, judge_of_clean (lat := fun _ => some p.latency) hn he hp⟩
  have hvs : ∀ e ∈ cs.map (fun c => (c, s.judge p.full (fun _ => some p.latency) a.sem c)), e.2.waitsOrGoes w :=
    List.forall_mem_map.2 hv
  obtain ⟨c, hc, hw⟩ := hsome
  have hfirst := firstWait_of_waitsOrGoes hvs ⟨_, List.mem_map_of_mem hc, judge_of_gate (lat := fun _ => some p.latency) hw⟩
  rw [h.exec_issue, issue_wait hr hg (fun c hc => (hv c hc).not_fault) hfirst, waitEffects_of_waitsOrGoes hvs]

theorem RunsAlu.poisonFaults (h : RunsAlu i p a) : PoisonFaults i p := by
  intro s r cs hr hg _ hall haff
  have hv : ∀ c ∈ cs, s.judge p.full (fun _ => some p.latency) a.sem c = .fault (FaultInfo.plain .poison) := by
    intro c hc
    obtain ⟨hn, hp⟩ := hall c hc
    obtain ⟨e, he⟩ := h.sem_go haff s c
    exact judge_of_poisoned (lat := fun _ => some p.latency) hn he hp
  rw [h.exec_issue, issue_fault hr hg hv (fun _ _ => rfl)]

theorem RunsAlu.stopTogether (h : RunsAlu i p a) : RefusedWith i p ∧ WaitsTogether i p ∧ PoisonFaults i p :=
  ⟨h.refusedWith, h.waitsTogether, h.poisonFaults⟩

end

/-- Settles O56: a verdict that stops a group is reached before the Alu's own meaning, which never stops one. -/
theorem bundlesStopTogether : Obligations.BundlesStopTogether := by
  unfold Obligations.BundlesStopTogether
  refine ⟨⟨fun f sg => ?add, fun f sg => ?mul, fun f => ?and, fun f => ?mov⟩, gate_order⟩
  case add => exact RunsAlu.stopTogether (a := aluAdd f 32 sg false) ⟨fun _ => rfl, rfl, rfl, fun _ _ => ⟨_, rfl⟩⟩
  case mul => exact RunsAlu.stopTogether (a := aluMul f 32 sg false) ⟨fun _ => rfl, rfl, rfl, fun _ _ => ⟨_, rfl⟩⟩
  case and => exact RunsAlu.stopTogether (a := aluBits f (fun a b => a &&& b)) ⟨fun _ => rfl, rfl, rfl, fun _ _ => ⟨_, rfl⟩⟩
  case mov =>
    exact RunsAlu.stopTogether (a := (aluBits1 f (fun a => a)).withClosed true (fun a _ => a)) ⟨fun _ => rfl, rfl, rfl, fun _ _ => ⟨_, rfl⟩⟩

end Sys2Proof.Machine

/-! Special registers (01 R28 to R30; 17 R452). -/

namespace Sys2Proof.Machine

open Sys2Proof

/-! RDSR. -/

/-- What RDSR of register `n` into D names, in system mode or not (01 Table 1.3). -/
def rdsrRule (d : Code) (n : BitVec 11) (sys : Bool) : LaneRule :=
  { words := 1, row := rowAdd, ext := (specialWidth n.toNat, false), uses :=
    { dst := some (opInt (specialWidth n.toNat) d), compOnly := n == 9 || n == 11, addrOnly := n == 10,
      alsoReads := if n = 9 then [0x700] else []
      badOperand := decide (15 < n.toNat) || (n == 15 && !sys),
      badType := codeNames d != .zero && decide ((tyOf d).rank < (specialTy n.toNat).rank) } }

/-- The lane results of RDSR: LANEID into an affine register is base 0 and stride 1. -/
def rdsrOut (s : State) (d : Code) (n : BitVec 11) (c : Ctx) (L : Fin 32) : LaneOut :=
  if n = 0 ∧ tyOf d = .aff then { val := 0, stride := 1 } else { val := s.special c.g n.toNat L }

theorem specialIndex_eq_iff (n : BitVec 11) {k : Nat} (hk : k < 2 ^ 11) : n = BitVec.ofNat 11 k ↔ n.toNat = k := by
  rw [← BitVec.toNat_inj, BitVec.toNat_ofNat, Nat.mod_eq_of_lt hk]

theorem specialIndex_beq (n : BitVec 11) {k : Nat} (hk : k < 2 ^ 11) : (n.toNat == k) = (n == BitVec.ofNat 11 k) := by
  rw [Bool.eq_iff_iff, beq_iff_eq, beq_iff_eq, specialIndex_eq_iff n hk]

theorem aluRdsr_uses (s : State) (d : Code) (n : BitVec 11) (sys : Bool) :
    (aluRdsr s d n.toNat sys).uses = (rdsrRule d n sys).uses := by
  have h9 : (if n.toNat = 9 then [0x700] else []) = if n = 9 then [0x700] else [] := by
    rw [if_congr (specialIndex_eq_iff n (k := 9) (by decide)).symm rfl rfl]
    rfl
  simp only [aluRdsr, rdsrRule, specialIndex_beq n (k := 9) (by decide), specialIndex_beq n (k := 10) (by decide),
    specialIndex_beq n (k := 11) (by decide), specialIndex_beq n (k := 15) (by decide), h9]
  rfl

theorem aluRdsr_allUses (s : State) (d : Code) (n : BitVec 11) (sys : Bool) :
    (aluRdsr s d n.toNat sys).allUses = (rdsrRule d n sys).full := by
  unfold Alu.allUses LaneRule.full
  rw [aluRdsr_uses]
  rfl

theorem aluRdsr_latency (s : State) (d : Code) (n : BitVec 11) (sys : Bool) :
    (aluRdsr s d n.toNat sys).latency = (rdsrRule d n sys).latency := by
  unfold Alu.latency LaneRule.latency
  rw [aluRdsr_uses]
  rfl

/-- RDSR has no affine source, so 01 Table 1.6 does not apply. -/
theorem aluRdsr_isClosed (s : State) (d : Code) (n : BitVec 11) (sys : Bool) : (aluRdsr s d n.toNat sys).isClosed = false := by
  simp [Alu.isClosed, aluRdsr]

/-- Outside a replay the counters are read as they are (19 R487). -/
theorem aluRdsr_fn {s : State} {d : Code} {n : BitVec 11} {sys : Bool} {c : Ctx} {m : Word} (h : s.yMode c.g = 0) :
    (aluRdsr s d n.toNat sys).fn c m = .ok (rdsrOut s d n c) := by
  have hv : ∀ what L live, s.yValue c.g what L live = live := fun _ _ _ => by simp [State.yValue, h]
  have h0 : n.toNat = 0 ↔ n = 0 := (specialIndex_eq_iff n (k := 0) (by decide)).symm
  simp only [aluRdsr, hv, ite_self, h0]
  rfl

theorem aluRdsr_writes (s : State) (d : Code) (n : BitVec 11) (sys : Bool) (c : Ctx) (m : Word) (out : Fin 32 → LaneOut) :
    (aluRdsr s d n.toNat sys).writes c m out = (rdsrRule d n sys).writesOf c m out := by
  have hw : ∀ u, (aluRdsr s d n.toNat sys).uses = u →
      (aluRdsr s d n.toNat sys).writes c m out = LaneRule.writesOf { rdsrRule d n sys with uses := u } c m out := by
    rintro _ rfl
    rfl
  exact hw _ (aluRdsr_uses s d n sys)

/-- RDSR in a group: what it reads lands later in the lanes that take part. -/
theorem aluRdsr_sem {s : State} {d : Code} {n : BitVec 11} {sys : Bool} {c : Ctx} (hy : s.yMode c.g = 0) :
    (aluRdsr s d n.toNat sys).sem s c = .go (fun x =>
      if c.part (rdsrRule d n sys).full = 0 then x
      else x.issueFixed c (rdsrRule d n sys).full (rdsrRule d n sys).latency
        ((rdsrRule d n sys).writesOf c (c.part (rdsrRule d n sys).full) (rdsrOut s d n c))) none := by
  have hseed : ∀ L, (rdsrOut s d n c L).seed = none := by
    intro L
    unfold rdsrOut
    split <;> rfl
  simp only [Alu.sem, aluRdsr_isClosed, aluRdsr_fn hy, aluRdsr_allUses, aluRdsr_latency, aluRdsr_writes, Bool.false_eq_true, if_false,
    modGroup_id _ _ _ (fun g => step_id g _ _ hseed)]
  exact go_unless _ _

/-- The counters of 19 R487, by their numbers. -/
theorem isCounter_toNat (n : BitVec 11) : isCounter n.toNat = (n == 6 || n == 7 || n == 8) := by
  simp only [isCounter, specialIndex_beq n (k := 6) (by decide), specialIndex_beq n (k := 7) (by decide),
    specialIndex_beq n (k := 8) (by decide)]
  rfl

/-- RDSR of a bundle outside a replay. -/
theorem rdsr_issues {d : Code} {n : BitVec 11} {s : State} {r : Run} {cs : List Ctx} {p : LaneRule}
    (hp : p = rdsrRule d n ((s.curCtx.map (fun c => c.g.sysMode)).getD false)) (h : Going s r cs p.full (fun _ => some p.latency))
    (hy : ∀ c ∈ cs, s.yMode c.g = 0)
    (ho : ∀ c ∈ cs, n = 8 → c.st = .addr → c.act ≠ 0 → s.orderedOutstanding c.gid = false) :
    exec (.rdsr d n) s = .next (s.afterIssue cs 1 [] false (fun c x =>
      (if c.part p.full = 0 then x
       else x.issueFixed c p.full p.latency (p.writesOf c (c.part p.full) (rdsrOut s d n c))).yAfterAll c.g yRdsr
         (fun L => s.special c.g n.toNat L) (if (n == 6 || n == 7 || n == 8) && c.act != 0 then [0] else []))) := by
  subst hp
  show execRdsr d n s = _
  unfold execRdsr
  dsimp only
  rw [aluRdsr_allUses, aluRdsr_latency]
  congr 1
  refine issue_go h (fun c hc => ?_)
  have hready : ¬(n.toNat = 8 ∧ c.st = .addr ∧ c.act ≠ 0 ∧ s.orderedOutstanding c.gid = true) := by
    rintro ⟨h8, hst, hact, hout⟩
    rw [ho c hc ((specialIndex_eq_iff n (k := 8) (by decide)).2 h8) hst hact] at hout
    cases hout
  rw [if_neg hready, aluRdsr_sem (hy c hc), isCounter_toNat]
  rfl

/-! WRSR. -/

/-- WRSR takes effect at issue in the active lanes. -/
theorem wrsr_issues (a : Code) (n : BitVec 11) :
    ActsIn (.wrsr a n) 1 (fun s => wrsrUses a n.toNat ((s.curCtx.map (fun c => c.g.trapMode)).getD false)) (fun _ => none) []
      (fun _ _ => True) (fun s c x =>
        let u := wrsrUses a n.toNat ((s.curCtx.map (fun c => c.g.trapMode)).getD false)
        if c.act = 0 then x
        else x.modGroup c.gid (fun g => (g.pop u c.act).writeSpecial n.toNat c.act (fun L => (c.values u L).getD 0 0))) := by
  intro s r cs h _
  show execWrsr a n s = _
  unfold execWrsr
  dsimp only
  congr 1
  exact issue_go h (fun c _ => go_unless _ _)

/-! What the special registers hold. -/

section
variable (s : State) (g : Group) (m : Word) (v : Fin 32 → Nat) (L : Fin 32)

theorem special_writeSpecial_fpstat : s.special (g.writeSpecial 9 m v) 9 L = if laneIn m L then v L % 32 else s.special g 9 L := by
  simp only [State.special, Group.writeSpecial, Fin.getElem_fin, Vector.getElem_ofFn, Fin.eta]
  split
  · rw [BitVec.toNat_ofNat]; omega
  · rfl

theorem special_writeSpecial_sptr : s.special (g.writeSpecial 10 m v) 10 L = if laneIn m L then v L % 2 ^ 64 else s.special g 10 L := by
  simp only [State.special, Group.writeSpecial, Fin.getElem_fin, Vector.getElem_ofFn, Fin.eta]
  split
  · rw [BitVec.toNat_ofNat]
  · rfl

/-- SEED never becomes 0 (02 R53). -/
theorem special_writeSpecial_seed : s.special (g.writeSpecial 11 m v) 11 L =
    if laneIn m L then (if v L % 2 ^ 32 = 0 then 1 else v L % 2 ^ 32) else s.special g 11 L := by
  have h0 : BitVec.ofNat 32 (v L) = 0 ↔ v L % 2 ^ 32 = 0 := by rw [← BitVec.toNat_inj, BitVec.toNat_ofNat]; rfl
  simp only [State.special, Group.writeSpecial, Fin.getElem_fin, Vector.getElem_ofFn, Fin.eta, h0]
  split
  · split
    · rfl
    · rw [BitVec.toNat_ofNat]
  · rfl

theorem special_writeSpecial_trapcause : s.special (g.writeSpecial 12 m v) 12 L = v (lowestLane m) % 2 ^ 19 := by
  simp only [State.special, Group.writeSpecial, BitVec.toNat_ofNat]
  omega

/-- WRSR reaches the lanes of its mask alone. -/
theorem special_writeSpecial_out (h : laneIn m L = false) {n : Nat} (hlo : 9 ≤ n) (hhi : n ≤ 11) :
    s.special (g.writeSpecial n m v) n L = s.special g n L := by
  obtain rfl | rfl | rfl : n = 9 ∨ n = 10 ∨ n = 11 := by omega
  · simp only [special_writeSpecial_fpstat, h, Bool.false_eq_true, if_false]
  · simp only [special_writeSpecial_sptr, h, Bool.false_eq_true, if_false]
  · simp only [special_writeSpecial_seed, h, Bool.false_eq_true, if_false]

end

/-- Settles O30: RDSR runs an Alu that gives the special register's value, WRSR takes effect at issue, and each register
is read back as its width and its reserved bits allow. -/
theorem specialRegisters : Obligations.SpecialRegisters := by
  unfold Obligations.SpecialRegisters
  refine ⟨fun d n s r cs h hy ho => rdsr_issues rfl h hy ho, fun a n => wrsr_issues a n,
    fun s g L => ⟨rfl, rfl, rfl, rfl, rfl, rfl, rfl, rfl, rfl, rfl⟩, fun s g m v L => ⟨fun h => ⟨?fpstat, ?sptr, ?seed⟩,
      fun h n => special_writeSpecial_out s g m v L h, special_writeSpecial_trapcause s g m v L, ?pc, ?addr⟩⟩
  case fpstat => rw [special_writeSpecial_fpstat, if_pos h]
  case sptr => rw [special_writeSpecial_sptr, if_pos h]
  case seed => rw [special_writeSpecial_seed, if_pos h]
  case pc => exact BitVec.toNat_ofNat ..
  case addr => exact BitVec.toNat_ofNat ..

end Sys2Proof.Machine

/-! Writes that land (01 R22, R23, R29; 03 R88, R89; 07 R210). -/

namespace Sys2Proof.Machine

open Sys2Proof

/-! Reading a register after a write to one of its kind. -/

theorem laneIn_setBit (m : Word) (L M : Fin 32) (b : Bool) : laneIn (setBit m L b) M = if L = M then b else laneIn m M := by
  have hbit : (1#32 <<< L.val).getLsbD M.val = decide (L = M) := by
    rw [BitVec.getLsbD_shiftLeft, BitVec.getLsbD_one, Bool.eq_iff_iff]
    simp only [Bool.and_eq_true, Bool.not_eq_true', decide_eq_true_eq, decide_eq_false_iff_not, Fin.ext_iff]
    omega
  have hM : M.val < 32 := M.isLt
  unfold laneIn setBit
  cases b
  · rw [if_neg (by decide), BitVec.getLsbD_and, BitVec.getLsbD_not, hbit]
    by_cases h : L = M <;> simp [h, hM]
  · rw [if_pos rfl, BitVec.getLsbD_or, hbit]
    by_cases h : L = M <;> simp [h]

theorem vElem_of_lt (g : Group) {n : Nat} (h : n < 64) (L : Fin 32) : g.vElem n L = (g.v[n])[L] := dif_pos h

theorem setV_vElem (g : Group) (n : Nat) (L : Fin 32) (x : Word) {k : Nat} (hk : k < 64) (M : Fin 32) :
    (g.setV n L x).vElem k M = if n = k ∧ L = M then x else g.vElem k M := by
  unfold Group.setV
  split
  · rw [vElem_of_lt _ hk, vElem_of_lt _ hk]
    simp only [Vector.getElem_set, setLane]
    by_cases hn : n = k
    · subst hn
      simp [Vector.getElem_set, Fin.ext_iff]
    · simp [hn]
  · rw [if_neg (by omega)]

theorem setK_k (g : Group) (n : Nat) (x : Word) (k : Fin 32) : (g.setK n x).k[k] = if n = k.val then x else g.k[k] := by
  unfold Group.setK
  split
  · simp [Vector.getElem_set]
  · rw [if_neg (by omega)]

theorem setA_a (g : Group) (n : Nat) (x : Affine) (k : Fin 16) : (g.setA n x).a[k] = if n = k.val then x else g.a[k] := by
  unfold Group.setA
  split
  · simp [Vector.getElem_set]
  · rw [if_neg (by omega)]

theorem pred_of_lt (g : Group) {n : Nat} (h0 : 0 < n) (h : n < 8) (L : Fin 32) : g.pred n L = laneIn (g.p[n]) L := by
  rw [Group.pred, if_neg h0.ne', dif_pos h]

theorem setP_pred (g : Group) (n : Nat) (L : Fin 32) (b : Bool) {k : Nat} (h0 : 0 < k) (hk : k < 8) (M : Fin 32) :
    (g.setP n L b).pred k M = if n = k ∧ L = M then b else g.pred k M := by
  unfold Group.setP
  split
  · rw [pred_of_lt _ h0 hk, pred_of_lt _ h0 hk]
    simp only [Vector.getElem_set]
    by_cases hn : n = k
    · subst hn
      simp [laneIn_setBit]
    · simp [hn]
  · rw [if_neg (by omega)]

theorem orFlags_fpstat (g : Group) (L : Fin 32) (f : Flags) (M : Fin 32) :
    (g.orFlags L f).fpstat[M] = if L = M then g.fpstat[M] ||| f.setWidth 32 else g.fpstat[M] := by
  unfold Group.orFlags setLane
  by_cases h : L = M
  · subst h; simp
  · simp [h, Fin.val_inj]

theorem setM_m (t : Team) (n : Nat) (x : Word) (k : Fin 16) : (t.setM n x).m[k] = if n = k.val then x else t.m[k] := by
  unfold Team.setM
  split
  · simp [Vector.getElem_set]
  · rw [if_neg (by omega)]

/-! What a write makes of a group. -/

/-- The group after a write has landed; a write to a team register leaves it as it was. -/
def RegWrite.onGroup (w : RegWrite) (g : Group) : Group :=
  match w with
  | .vElem n L x => g.setV n L x
  | .kReg n x => g.setK n x
  | .aReg n b st => g.setA n ⟨b, BitVec.ofInt 16 st⟩
  | .mReg _ _ => g
  | .pBit n L b => g.setP n L b
  | .qPush n L x => g.enqueue n L [⟨x, .data⟩]
  | .flags L f => g.orFlags L f

/-- The group after writes have landed in order. -/
def Group.landList (g : Group) (ws : List RegWrite) : Group := ws.foldl (fun h w => w.onGroup h) g

/-! What each write leaves alone. -/

section
variable (g : Group)

theorem setV_frame (n : Nat) (L : Fin 32) (x : Word) : ∃ v, g.setV n L x = { g with v := v } := by
  unfold Group.setV
  split <;> exact ⟨_, rfl⟩

theorem setK_frame (n : Nat) (x : Word) : ∃ k, g.setK n x = { g with k := k } := by
  unfold Group.setK
  split <;> exact ⟨_, rfl⟩

theorem setA_frame (n : Nat) (x : Affine) : ∃ a, g.setA n x = { g with a := a } := by
  unfold Group.setA
  split <;> exact ⟨_, rfl⟩

theorem setP_frame (n : Nat) (L : Fin 32) (b : Bool) : ∃ p, g.setP n L b = { g with p := p } := by
  unfold Group.setP
  split <;> exact ⟨_, rfl⟩

theorem enqueue_frame (q : Nat) (L : Fin 32) (es : List QEntry) : ∃ q', g.enqueue q L es = { g with q := q' } := by
  unfold Group.enqueue
  split <;> exact ⟨_, rfl⟩

/-- A write changes registers, predicates, queues and FPSTAT, and nothing else of its group. -/
theorem onGroup_frame (w : RegWrite) :
    ∃ v k a p q f, w.onGroup g = { g with v := v, k := k, a := a, p := p, q := q, fpstat := f } := by
  cases w with
  | vElem n L x => obtain ⟨_, h⟩ := setV_frame g n L x; exact ⟨_, _, _, _, _, _, h⟩
  | kReg n x => obtain ⟨_, h⟩ := setK_frame g n x; exact ⟨_, _, _, _, _, _, h⟩
  | aReg n b st => obtain ⟨_, h⟩ := setA_frame g n ⟨b, BitVec.ofInt 16 st⟩; exact ⟨_, _, _, _, _, _, h⟩
  | mReg n x => exact ⟨_, _, _, _, _, _, rfl⟩
  | pBit n L b => obtain ⟨_, h⟩ := setP_frame g n L b; exact ⟨_, _, _, _, _, _, h⟩
  | qPush n L x => obtain ⟨_, h⟩ := enqueue_frame g n L [⟨x, .data⟩]; exact ⟨_, _, _, _, _, _, h⟩
  | flags L f => exact ⟨_, _, _, _, _, _, rfl⟩

@[simp] theorem onGroup_team (w : RegWrite) : (w.onGroup g).team = g.team := by
  obtain ⟨_, _, _, _, _, _, h⟩ := onGroup_frame g w
  rw [h]

@[simp] theorem onGroup_stream (w : RegWrite) (st : Stream) : (w.onGroup g).stream st = g.stream st := by
  obtain ⟨_, _, _, _, _, _, h⟩ := onGroup_frame g w
  rw [h]
  cases st <;> rfl

@[simp] theorem landList_stream (ws : List RegWrite) (st : Stream) : (g.landList ws).stream st = g.stream st := by
  unfold Group.landList
  induction ws generalizing g with
  | nil => rfl
  | cons w ws ih => rw [List.foldl_cons, ih, onGroup_stream]

end

/-! The last write counts. -/

/-- The last of a list counts, then the first. -/
theorem findSome_reverse_cons {α β : Type} (f : α → Option β) (w : α) (ws : List α) (x : β) :
    ((w :: ws).reverse.findSome? f).getD x = (ws.reverse.findSome? f).getD (([w].reverse.findSome? f).getD x) := by
  rw [List.reverse_cons, List.findSome?_append]
  cases ws.reverse.findSome? f <;> rfl

/-- The flags of a list of writes are those of the first joined with those of the rest. -/
theorem flagsIn_cons (w : RegWrite) (ws : List RegWrite) (L : Fin 32) : flagsIn (w :: ws) L = flagsIn [w] L ||| flagsIn ws L := by
  have hstart : flagsIn [w] L = flagsIn [w] L ||| 0 := (BitVec.or_zero ..).symm
  show ws.foldl _ (flagsIn [w] L) = _
  conv_lhs => rw [hstart]
  refine List.foldl_hom (fun f => flagsIn [w] L ||| f) (fun f u => ?_)
  cases u with
  | flags M x =>
    dsimp only
    split
    · rw [BitVec.or_assoc]
    · rfl
  | _ => rfl

/-- The registers of a group in which no write has landed. -/
theorem Landed.nil (g : Group) : Landed g g [] where
  varying _ _ _ := rfl
  uniform _ := rfl
  affine _ := rfl
  preds _ _ _ _ := rfl
  true_ _ := rfl
  fpstat L := by simp [flagsIn]

/-- A write before other writes. -/
theorem Landed.cons {g h k : Group} {w : RegWrite} {ws : List RegWrite} (hw : Landed g h [w]) (hs : Landed h k ws) :
    Landed g k (w :: ws) where
  varying n L hn := by rw [hs.varying n L hn, hw.varying n L hn]; exact (findSome_reverse_cons ..).symm
  uniform n := by rw [hs.uniform n, hw.uniform n]; exact (findSome_reverse_cons ..).symm
  affine n := by rw [hs.affine n, hw.affine n]; exact (findSome_reverse_cons ..).symm
  preds n L h0 hn := by rw [hs.preds n L h0 hn, hw.preds n L h0 hn]; exact (findSome_reverse_cons ..).symm
  true_ := hs.true_
  fpstat L := by rw [hs.fpstat L, hw.fpstat L, flagsIn_cons w ws, BitVec.setWidth_or, BitVec.or_assoc]

/-! What one write leaves of a place. -/

theorem lastV_single (n k : Nat) (L M : Fin 32) (x y : Word) :
    (lastV [.vElem n L x] k M).getD y = if n = k ∧ L = M then x else y := by
  simp only [lastV, List.reverse_singleton, List.findSome?_singleton]
  split <;> rfl

theorem lastK_single (n k : Nat) (x y : Word) : (lastK [.kReg n x] k).getD y = if n = k then x else y := by
  simp only [lastK, List.reverse_singleton, List.findSome?_singleton]
  split <;> rfl

theorem lastA_single (n k : Nat) (b : Dword) (st : Int) (y : Affine) :
    (lastA [.aReg n b st] k).getD y = if n = k then ⟨b, BitVec.ofInt 16 st⟩ else y := by
  simp only [lastA, List.reverse_singleton, List.findSome?_singleton]
  split <;> rfl

theorem lastP_single (n k : Nat) (L M : Fin 32) (b y : Bool) :
    (lastP [.pBit n L b] k M).getD y = if n = k ∧ L = M then b else y := by
  simp only [lastP, List.reverse_singleton, List.findSome?_singleton]
  split <;> rfl

theorem lastM_single (n k : Nat) (x y : Word) : (lastM [.mReg n x] k).getD y = if n = k then x else y := by
  simp only [lastM, List.reverse_singleton, List.findSome?_singleton]
  split <;> rfl

theorem or_flagsIn_single (L M : Fin 32) (f : Flags) (y : Word) :
    y ||| (flagsIn [.flags L f] M).setWidth 32 = if L = M then y ||| f.setWidth 32 else y := by
  simp only [flagsIn, List.foldl_cons, List.foldl_nil]
  split <;> simp

/-- One write leaves its value in the place it names, and nothing else of a group's registers changes. -/
theorem landed_onGroup (g : Group) (w : RegWrite) : Landed g (w.onGroup g) [w] := by
  have hf (f : Word) : f = f ||| (0 : Flags).setWidth 32 := (BitVec.or_zero ..).symm
  cases w with
  | vElem n L x =>
    have hv {k : Nat} (hk : k < 64) (M : Fin 32) := (setV_vElem g n L x hk M).trans (lastV_single ..).symm
    obtain ⟨_, h⟩ := setV_frame g n L x
    show Landed g (g.setV n L x) _
    rw [h] at hv ⊢
    exact ⟨fun _ M hk => hv hk M, fun _ => rfl, fun _ => rfl, fun _ _ _ _ => rfl, fun _ => rfl, fun _ => hf _⟩
  | kReg n x =>
    have hk (k : Fin 32) := (setK_k g n x k).trans (lastK_single ..).symm
    obtain ⟨_, h⟩ := setK_frame g n x
    show Landed g (g.setK n x) _
    rw [h] at hk ⊢
    exact ⟨fun _ _ _ => rfl, hk, fun _ => rfl, fun _ _ _ _ => rfl, fun _ => rfl, fun _ => hf _⟩
  | aReg n b st =>
    have ha (k : Fin 16) := (setA_a g n ⟨b, BitVec.ofInt 16 st⟩ k).trans (lastA_single ..).symm
    obtain ⟨_, h⟩ := setA_frame g n ⟨b, BitVec.ofInt 16 st⟩
    show Landed g (g.setA n ⟨b, BitVec.ofInt 16 st⟩) _
    rw [h] at ha ⊢
    exact ⟨fun _ _ _ => rfl, fun _ => rfl, ha, fun _ _ _ _ => rfl, fun _ => rfl, fun _ => hf _⟩
  | mReg n x => exact ⟨fun _ _ _ => rfl, fun _ => rfl, fun _ => rfl, fun _ _ _ _ => rfl, fun _ => rfl, fun _ => hf _⟩
  | pBit n L b =>
    have hp {k : Nat} (h0 : 0 < k) (hk : k < 8) (M : Fin 32) := (setP_pred g n L b h0 hk M).trans (lastP_single ..).symm
    obtain ⟨_, h⟩ := setP_frame g n L b
    show Landed g (g.setP n L b) _
    rw [h] at hp ⊢
    exact ⟨fun _ _ _ => rfl, fun _ => rfl, fun _ => rfl, fun _ M h0 hk => hp h0 hk M, fun _ => rfl, fun _ => hf _⟩
  | qPush n L x =>
    obtain ⟨_, h⟩ := enqueue_frame g n L [⟨x, .data⟩]
    show Landed g (g.enqueue n L [⟨x, .data⟩]) _
    rw [h]
    exact ⟨fun _ _ _ => rfl, fun _ => rfl, fun _ => rfl, fun _ _ _ _ => rfl, fun _ => rfl, fun _ => hf _⟩
  | flags L f =>
    exact ⟨fun _ _ _ => rfl, fun _ => rfl, fun _ => rfl, fun _ _ _ _ => rfl, fun _ => rfl,
      fun M => (orFlags_fpstat g L f M).trans (or_flagsIn_single ..).symm⟩

/-- Writes that land in order: the last one to a place counts. -/
theorem landed_landList (g : Group) (ws : List RegWrite) : Landed g (g.landList ws) ws := by
  unfold Group.landList
  induction ws generalizing g with
  | nil => exact .nil g
  | cons w ws ih => exact (landed_onGroup g w).cons (ih (w.onGroup g))

/-! Writes that land in the state. -/

section
variable (s : State) (cyc gid : Nat)

theorem unpin_frame (ws : List RegWrite) : ∃ rs, s.unpin gid ws = { s with runs := rs } := by
  unfold State.unpin
  split <;> exact ⟨_, rfl⟩

theorem land_mem (w : RegWrite) : (s.land cyc gid w).mem = s.mem := by
  cases w with
  | mReg n x => simp only [State.land]; split <;> rfl
  | _ => rfl

theorem land_group (w : RegWrite) : (s.land cyc gid w).groups.find gid = (s.groups.find gid).map w.onGroup := by
  cases w with
  | mReg n x =>
    have hid : (s.land cyc gid (.mReg n x)).groups = s.groups := by
      simp only [State.land]
      split <;> rfl
    rw [hid]
    exact (Option.map_id' ..).symm
  | _ => exact modGroup_find ..

/-- A write to a team register goes among those that not every group sees yet. -/
theorem land_mReg {g : Group} (hg : s.groups.find gid = some g) (n : Nat) (x : Word) :
    (s.land cyc gid (.mReg n x)).teams.find g.team =
      (s.teams.find g.team).map (fun t => { t with late := insertTeamWrite ⟨cyc, g.sc.slot % 6, gid, n, x⟩ t.late }) := by
  have hg' : (s.repair gid (RegWrite.mReg n x).repairs).groups.find gid = some g := hg
  simp only [State.land, hg']
  exact modTeam_find ..

/-- The other writes leave the teams alone. -/
theorem land_teams {w : RegWrite} (hw : ∀ n x, w ≠ .mReg n x) : (s.land cyc gid w).teams = s.teams := by
  cases w with
  | mReg n x => exact absurd rfl (hw n x)
  | _ => rfl

end

/-! Team registers (01 R23; 07 R210). -/

/-- A write goes behind those that land no later. -/
theorem insertTeamWrite_last {w : TeamWrite} {l : List TeamWrite}
    (h : ∀ v ∈ l, v.cycle < w.cycle ∨ (v.cycle = w.cycle ∧ v.slot ≤ w.slot)) : insertTeamWrite w l = l ++ [w] := by
  induction l with
  | nil => rfl
  | cons v l ih =>
    have hv := h v List.mem_cons_self
    rw [insertTeamWrite, if_neg (by omega), ih (fun u hu => h u (List.mem_cons_of_mem _ hu))]
    rfl

theorem setM_late (t : Team) (l : List TeamWrite) (n : Nat) (x : Word) :
    ({ t with late := l } : Team).setM n x = { t.setM n x with late := l } := by
  unfold Team.setM
  split <;> rfl

/-- What writes make of the registers does not hang on those still to come. -/
theorem apply_late (t : Team) (l ws : List TeamWrite) : ({ t with late := l } : Team).apply ws = { t.apply ws with late := l } := by
  unfold Team.apply
  induction ws generalizing t with
  | nil => rfl
  | cons w ws ih => rw [List.foldl_cons, List.foldl_cons, setM_late, ih]

/-- A write behind all others is the one that holds. -/
theorem regs_append (t : Team) (w : TeamWrite) (n : Fin 16) :
    ({ t with late := t.late ++ [w] } : Team).regs[n] = if w.n = n.val then w.x else t.regs[n] := by
  have h : ({ t with late := t.late ++ [w] } : Team).regs = ((t.apply t.late).setM w.n w.x).m := by
    unfold Team.regs
    rw [apply_late]
    simp only [Team.apply, List.foldl_append, List.foldl_cons, List.foldl_nil]
  rw [h]
  exact setM_m ..

/-- Every write still to come of a team lands before those of a slot in a cycle, or is one of them. -/
def Team.before (t : Team) (cyc slot : Nat) : Prop := ∀ w ∈ t.late, w.cycle < cyc ∨ (w.cycle = cyc ∧ w.slot ≤ slot)

/-- One write to a team register, landing after those before it. -/
theorem land_team {s : State} {cyc gid : Nat} {g : Group} {t : Team} (hg : s.groups.find gid = some g)
    (ht : s.teams.find g.team = some t) (hb : t.before cyc (g.sc.slot % 6)) (w : RegWrite) :
    ∃ u, (s.land cyc gid w).teams.find g.team = some u ∧ u.before cyc (g.sc.slot % 6) ∧
      ∀ n : Fin 16, u.regs[n] = (lastM [w] n.val).getD t.regs[n] := by
  cases w with
  | mReg n x =>
    refine ⟨{ t with late := t.late ++ [⟨cyc, g.sc.slot % 6, gid, n, x⟩] }, ?_, ?_, fun k => ?_⟩
    · rw [land_mReg s cyc gid hg, ht, Option.map_some, insertTeamWrite_last (w := ⟨cyc, g.sc.slot % 6, gid, n, x⟩) hb]
    · intro v hv
      rcases List.mem_append.1 hv with hv | hv
      · exact hb v hv
      · rw [List.mem_singleton.1 hv]
        exact .inr ⟨rfl, Nat.le_refl _⟩
    · rw [regs_append, lastM_single]
  | _ => exact ⟨t, by rw [land_teams s cyc gid (by simp), ht], hb, fun _ => rfl⟩

/-! Writes in order. -/

theorem landWrites_mem (s : State) (cyc gid : Nat) (ws : List RegWrite) : (s.landWrites cyc gid ws).mem = s.mem := by
  obtain ⟨rs, h⟩ := unpin_frame s gid ws
  rw [State.landWrites, h]
  suffices hm : ∀ x : State, (ws.foldl (fun s w => s.land cyc gid w) x).mem = x.mem from hm _
  clear h
  induction ws with
  | nil => exact fun _ => rfl
  | cons w ws ih => exact fun x => (ih _).trans (land_mem x cyc gid w)

theorem landWrites_group {s : State} {gid : Nat} {g : Group} (hg : s.groups.find gid = some g) (cyc : Nat) (ws : List RegWrite) :
    (s.landWrites cyc gid ws).groups.find gid = some (g.landList ws) := by
  obtain ⟨rs, h⟩ := unpin_frame s gid ws
  rw [State.landWrites, h]
  suffices hm : ∀ (x : State) (g : Group), x.groups.find gid = some g →
      (ws.foldl (fun s w => s.land cyc gid w) x).groups.find gid = some (g.landList ws) from hm _ g hg
  clear h
  induction ws with
  | nil => exact fun _ _ hx => hx
  | cons w ws ih => exact fun x g hx => ih _ _ (by rw [land_group, hx, Option.map_some])

theorem landWrites_team {s : State} {cyc gid : Nat} {g : Group} {t : Team} (hg : s.groups.find gid = some g)
    (ht : s.teams.find g.team = some t) (hb : t.before cyc (g.sc.slot % 6)) (ws : List RegWrite) :
    ∃ u, (s.landWrites cyc gid ws).teams.find g.team = some u ∧ ∀ n : Fin 16, u.regs[n] = (lastM ws n.val).getD t.regs[n] := by
  obtain ⟨rs, h⟩ := unpin_frame s gid ws
  rw [State.landWrites, h]
  suffices hm : ∀ (x : State) (g : Group) (t : Team), x.groups.find gid = some g → x.teams.find g.team = some t →
      t.before cyc (g.sc.slot % 6) → ∃ u, (ws.foldl (fun s w => s.land cyc gid w) x).teams.find g.team = some u ∧
        ∀ n : Fin 16, u.regs[n] = (lastM ws n.val).getD t.regs[n] from hm _ g t hg ht hb
  clear h
  induction ws with
  | nil => exact fun _ _ t _ ht _ => ⟨t, ht, fun _ => rfl⟩
  | cons w ws ih =>
    intro x g t hg ht hb
    obtain ⟨t', ht', hb', hw⟩ := land_team hg ht hb w
    have hsc : (w.onGroup g).sc = g.sc := onGroup_stream g w .comp
    obtain ⟨u, hu, hs⟩ := ih (x.land cyc gid w) (w.onGroup g) t' (by rw [land_group, hg, Option.map_some])
      (by rwa [onGroup_team]) (by rwa [hsc])
    refine ⟨u, by rwa [onGroup_team] at hu, fun n => ?_⟩
    rw [hs n, hw n]
    exact (findSome_reverse_cons ..).symm

/-- Noting which elements landed changes no register. -/
theorem noteLanded_frame (g : Group) (cyc : Nat) (ws : List RegWrite) : ∃ l, g.noteLanded cyc ws = { g with landed := l } := by
  unfold Group.noteLanded
  split <;> exact ⟨_, rfl⟩

theorem noteLanded_stream (g : Group) (cyc : Nat) (ws : List RegWrite) (st : Stream) : (g.noteLanded cyc ws).stream st = g.stream st := by
  obtain ⟨_, h⟩ := noteLanded_frame g cyc ws
  rw [h]
  cases st <;> rfl

theorem Landed.noteLanded {g h : Group} {ws : List RegWrite} (hl : Landed g h ws) (cyc : Nat) (us : List RegWrite) :
    Landed g (h.noteLanded cyc us) ws := by
  obtain ⟨_, hn⟩ := noteLanded_frame h cyc us
  obtain ⟨hv, hk, ha, hp, ht, hf⟩ := hl
  rw [hn]
  exact ⟨hv, hk, ha, hp, ht, hf⟩

/-- What landing writes makes of a group: the streams stay as they are. -/
theorem landAllWrites_group {s : State} {gid : Nat} {g : Group} (hg : s.groups.find gid = some g) (cyc : Nat) (ws : List RegWrite) :
    ∃ h, (s.landAllWrites cyc gid ws).groups.find gid = some h ∧ Landed g h ws ∧ ∀ st, h.stream st = g.stream st := by
  refine ⟨(g.landList ws).noteLanded cyc ws, ?_, (landed_landList g ws).noteLanded cyc ws, fun st => ?_⟩
  · rw [State.landAllWrites, modGroup_find, landWrites_group hg, Option.map_some]
  · rw [noteLanded_stream, landList_stream]

/-- The registers that landing finds are the same however far the stream's landings have come. -/
theorem Landed.of_modStream {g h : Group} {st : Stream} {f : StreamState → StreamState} {ws : List RegWrite}
    (hl : Landed (g.modStream st f) h ws) : Landed g h ws := by
  obtain ⟨hv, hk, ha, hp, ht, hf⟩ := hl
  cases st <;> exact ⟨hv, hk, ha, hp, ht, hf⟩

theorem drop_length_takeWhile {α : Type} (p : α → Bool) (l : List α) : l.drop (l.takeWhile p).length = l.dropWhile p :=
  calc l.drop (l.takeWhile p).length
    _ = (l.takeWhile p ++ l.dropWhile p).drop (l.takeWhile p).length := by rw [List.takeWhile_append_dropWhile]
    _ = l.dropWhile p := List.drop_left

/-- What is due lands, and what is not stays. -/
theorem landDue_group {s : State} {gid : Nat} {g : Group} (hg : s.groups.find gid = some g) (st : Stream) (adv cyc : Nat) :
    ∃ h, (s.landDue gid st adv cyc).groups.find gid = some h ∧
      (h.stream st).landing = (g.stream st).landing.dropWhile (fun l => decide (l.due ≤ adv)) ∧
      Landed g h (((g.stream st).landing.takeWhile (fun l => decide (l.due ≤ adv))).flatMap (fun l => l.writes)) := by
  simp only [State.landDue, hg]
  obtain ⟨h, hh, hl, hst⟩ := landAllWrites_group ((modGroup_find s gid _).trans (congrArg _ hg)) cyc
    (((g.stream st).landing.takeWhile (fun l => decide (l.due ≤ adv))).flatMap (fun l => l.writes))
  refine ⟨h, hh, ?_, hl.of_modStream⟩
  rw [hst st, ← drop_length_takeWhile]
  cases st <;> rfl

/-- Settles O15, by induction over the writes: each leaves its value in the place it names, so the last one counts. -/
theorem writesLand : Obligations.WritesLand := by
  unfold Obligations.WritesLand
  refine ⟨fun s cyc gid g ws hg => ⟨?group, landWrites_mem s cyc gid ws, fun t ht hb => landWrites_team hg ht hb ws⟩,
    fun s gid g st adv cyc hg => landDue_group hg st adv cyc⟩
  obtain ⟨h, hh, hl, -⟩ := landAllWrites_group hg cyc ws
  exact ⟨h, hh, hl⟩

end Sys2Proof.Machine

/-! Integer arithmetic (05 R119 to R122). -/

namespace Sys2Proof.Machine

open Sys2Proof

/-! The Alu of a rule. -/

/-- What a rule says of a lane. -/
def LaneRule.out (p : LaneRule) (c : Ctx) (L : Fin 32) : LaneOut :=
  { val := p.val (c.values p.uses L) (c.predValues p.uses L), pred := p.pred (c.values p.uses L) (c.predValues p.uses L),
    flags := p.flags (c.values p.uses L) (c.predValues p.uses L) }

/-- The Alu that computes by a rule, with its operation on affine sources. -/
def LaneRule.alu (p : LaneRule) (closed : Option (List (Int × Int) → Int × Int)) : Alu :=
  { uses := p.uses, lat := p.row, ext := p.ext, fn := fun c _ => .ok (p.out c), closed := closed, pins := p.pins }

/-- An instruction that runs the Alu of its rule computes by the rule. -/
theorem computes_of_ruleAlu {i : Instr} {p : LaneRule} {closed : Option (List (Int × Int) → Int × Int)}
    (he : ∀ s, exec i s = runAlu p.words (p.alu closed) s) : Computes i p :=
  computes_of_alu (p.alu closed) he rfl rfl rfl rfl (fun _ _ => rfl)

/-! The carry (05 R120). -/

/-- A sum of naturals modulo 2^32, and its carry out: it is never negative. -/
theorem wrapNat_sum_and_carry (a b c : Nat) :
    wrapNat 32 ((a : Int) + b + c) = (a + b + c) % 2 ^ 32 ∧
    (decide ((a : Int) + b + c < 0) || decide ((2 : Int) ^ 32 ≤ a + b + c)) = decide (2 ^ 32 ≤ a + b + c) := by
  refine ⟨by unfold wrapNat; omega, ?_⟩
  rw [← Bool.decide_or, decide_eq_decide]
  omega

/-- A difference of naturals of 32 bits modulo 2^32, and its borrow out: it never reaches 2^32. -/
theorem wrapNat_difference_and_borrow {a b c : Nat} (ha : a < 2 ^ 32) (hb : b < 2 ^ 32) (hc : c ≤ 1) :
    wrapNat 32 ((a : Int) - b - c) = (2 ^ 33 + a - b - c) % 2 ^ 32 ∧
    (decide ((a : Int) - b - c < 0) || decide ((2 : Int) ^ 32 ≤ a - b - c)) = decide (a < b + c) := by
  refine ⟨by unfold wrapNat; omega, ?_⟩
  rw [← Bool.decide_or, decide_eq_decide]
  omega

/-- What ADDC or SUBB gives in a lane with sources `x` and `y` and carry in `b`, `g` being its exact result (05 R120). -/
def aluCarryOut (g : Int → Int → Int → Int) (x y : Nat) (b : Bool) : LaneOut :=
  let e := g (readInt 32 false x) (readInt 32 false y) (if b then 1 else 0)
  { val := wrapNat 32 e, pred := decide (e < 0) || decide (2 ^ 32 ≤ e) }

/-- The rule of ADDC and SUBB: from A, B and the carry in, the result and the carry out (05 R120). -/
def ruleCarry (f : F3) (cin : PredRef) (cout : BitVec 3) (val : Nat → Nat → Nat → Nat) (carry : Nat → Nat → Nat → Bool) :
    LaneRule :=
  { words := 2, row := rowAdd, pins := [(op32 f.a, f.ra), (op32 f.b, f.rb)]
    uses := { srcs := [op32 f.a, op32 f.b], dst := some (op32 f.d), restricted := [cin], pdst := [cout.toNat] }
    val := fun v p => val (v.getD 0 0 % 2 ^ 32) (v.getD 1 0 % 2 ^ 32) (if p.getD 0 false then 1 else 0)
    pred := fun v p => carry (v.getD 0 0 % 2 ^ 32) (v.getD 1 0 % 2 ^ 32) (if p.getD 0 false then 1 else 0) }

/-- An instruction with a carry computes by its rule when that is right for 32-bit operands. -/
theorem computes_aluCarry {i : Instr} {f : F3} {cin : PredRef} {cout : BitVec 3} {g : Int → Int → Int → Int}
    {val : Nat → Nat → Nat → Nat} {carry : Nat → Nat → Nat → Bool}
    (he : ∀ s, exec i s = runAlu 2 (aluCarry f cin cout g) s)
    (hv : ∀ a b c : Nat, a < 2 ^ 32 → b < 2 ^ 32 → c ≤ 1 → wrapNat 32 (g a b c) = val a b c ∧
      (decide (g a b c < 0) || decide (2 ^ 32 ≤ g a b c)) = carry a b c) :
    Computes i (ruleCarry f cin cout val carry) := by
  have hlane : ∀ (x y : Nat) (b : Bool), aluCarryOut g x y b =
      { val := val (x % 2 ^ 32) (y % 2 ^ 32) (if b then 1 else 0), pred := carry (x % 2 ^ 32) (y % 2 ^ 32) (if b then 1 else 0) } := by
    intro x y b
    obtain ⟨hval, hcarry⟩ := hv (x % 2 ^ 32) (y % 2 ^ 32) (if b then 1 else 0) (Nat.mod_lt x (by decide))
      (Nat.mod_lt y (by decide)) (by split <;> decide)
    cases b <;> exact congrArg₂ (fun v p => ({ val := v, pred := p } : LaneOut)) hval hcarry
  exact computes_of_alu (aluCarry f cin cout g) he rfl rfl rfl rfl (fun _ _ => congrArg Except.ok (funext fun _ => hlane _ _ _))

/-- Settles O1: each instruction runs the Alu of its rule, and the exact sum or difference with the carry is within one
carry or borrow of 32 bits. -/
theorem integerArithmetic : Obligations.IntegerArithmetic := by
  unfold Obligations.IntegerArithmetic
  refine ⟨⟨fun f sg => ?add, fun f m => ?addIt, fun f => ?addImm, fun f sg => ?sub, fun f m => ?subIt, fun f sg => ?mul,
    fun f m => ?mulIt, fun f sg => ?mulhi, fun f m => ?mulhiIt, fun f c sg sat => ?mad, fun f c sg => ?madw⟩,
    fun f cin cout => ?addc, fun f cin cout => ?subb⟩
  case add | addIt | addImm | sub | subIt | mul | mulIt => exact computes_of_ruleAlu (fun _ => rfl)
  case mulhi | mulhiIt | mad | madw => exact computes_of_ruleAlu (fun _ => rfl)
  case addc =>
    exact computes_aluCarry (val := fun a b c => (a + b + c) % 2 ^ 32) (carry := fun a b c => decide (2 ^ 32 ≤ a + b + c))
      (fun _ => rfl) (fun a b c _ _ _ => wrapNat_sum_and_carry a b c)
  case subb =>
    exact computes_aluCarry (val := fun a b c => (2 ^ 33 + a - b - c) % 2 ^ 32) (carry := fun a b c => decide (a < b + c))
      (fun _ => rfl) (fun _ _ _ ha hb hc => wrapNat_difference_and_borrow ha hb hc)

end Sys2Proof.Machine

/-! Division, order and results of a width (02 R43 to R45; 05 R123, R124). -/

namespace Sys2Proof.Machine

open Sys2Proof

/-! Quotient and remainder (02 R45, Table 2.2). -/

/-- Outside the corners the quotient truncates toward zero. -/
theorem divInt_of_ne {n : Nat} {sg : Bool} {x y : Int} (hy : y ≠ 0) (hc : ¬(sg = true ∧ x = intMin n sg ∧ y = -1)) :
    divInt n sg x y = (x.tdiv y, x.tmod y) := by
  rw [divInt, if_neg hy, if_neg hc]

/-- The remainder has the dividend's sign. -/
theorem tmod_mul_self_nonneg (x y : Int) : 0 ≤ x.tmod y * x := by
  rcases le_total 0 x with hx | hx
  · exact mul_nonneg (Int.tmod_nonneg y hx) hx
  · have hneg : x.tmod y ≤ 0 := by
      have := Int.tmod_nonneg (a := -x) y (by omega)
      rw [Int.neg_tmod] at this
      omega
    exact mul_nonneg_of_nonpos_of_nonpos hneg hx

theorem divInt_spec {n : Nat} {sg : Bool} {x y : Int} (hy : y ≠ 0) (hc : ¬(sg = true ∧ x = intMin n sg ∧ y = -1)) :
    (divInt n sg x y).1 * y + (divInt n sg x y).2 = x ∧ (divInt n sg x y).2.natAbs < y.natAbs ∧
      0 ≤ (divInt n sg x y).2 * x := by
  rw [divInt_of_ne hy hc]
  refine ⟨Int.tdiv_mul_add_tmod x y, ?_, tmod_mul_self_nonneg x y⟩
  rw [Int.natAbs_tmod]
  exact Nat.mod_lt _ (Int.natAbs_pos.2 hy)

theorem divInt_intMin_neg_one (n : Nat) : divInt n true (intMin n true) (-1) = (intMin n true, 0) := by
  rw [divInt, if_neg (by decide), if_pos ⟨rfl, rfl, rfl⟩]

/-! Results of a width (02 R43, R44). -/

theorem wrapNat_cast (n : Nat) (e : Int) : (wrapNat n e : Int) = e % (2 ^ n : Int) :=
  Int.toNat_of_nonneg (Int.emod_nonneg e (by positivity))

/-- The value read is that of the bits modulo 2^n. -/
theorem dvd_readInt_sub (n : Nat) (sg : Bool) (x : Nat) : (2 ^ n : Int) ∣ readInt n sg x - x := by
  have hx : (2 ^ n : Int) ∣ ((x % 2 ^ n : Nat) : Int) - x := by
    push_cast
    exact Int.dvd_emod_sub_self
  cases sg with
  | false => exact hx
  | true =>
    simp only [readInt, signedOf, if_true]
    split
    · exact hx
    · rw [sub_right_comm]
      exact dvd_sub_self_right.2 hx

theorem readInt_congr {n a b : Nat} (sg : Bool) (h : a % 2 ^ n = b % 2 ^ n) : readInt n sg a = readInt n sg b := by
  simp only [readInt, signedOf, h]

/-- The upper bits that a narrow result fills are not read back. -/
theorem readInt_fillInt (n : Nat) (sg : Bool) (x : Nat) : readInt n sg (fillInt n sg x) = readInt n sg x := by
  apply readInt_congr
  unfold fillInt
  split
  · next h =>
    obtain ⟨hn, rfl⟩ := h
    have hs : signedOf n x % (2 ^ n : Int) = x % (2 ^ n : Int) :=
      (Int.modEq_iff_dvd.2 (dvd_readInt_sub n true x)).symm
    zify
    rw [wrapNat_cast, Int.emod_emod_of_dvd _ (pow_dvd_pow 2 hn.le), hs]
  · exact Nat.mod_mod _ _

/-- What is read lies in the type's range (02 Table 2.1). -/
theorem readInt_mem_range {n : Nat} (hn : 0 < n) (sg : Bool) (x : Nat) : intMin n sg ≤ readInt n sg x ∧ readInt n sg x ≤ intMax n sg := by
  obtain ⟨h, hh⟩ : ∃ h : Nat, 2 ^ (n - 1) = h := ⟨_, rfl⟩
  have hn2 : 2 ^ n = 2 * h := by rw [← hh, ← pow_succ', Nat.sub_add_cancel hn]
  have hh' : (2 : Int) ^ (n - 1) = h := by exact_mod_cast hh
  have hn2' : (2 : Int) ^ n = 2 * h := by exact_mod_cast hn2
  have hlt : x % (2 * h) < 2 * h := Nat.mod_lt x (hn2 ▸ by positivity)
  unfold intMin intMax readInt signedOf
  rw [hh', hn2, hn2']
  generalize x % (2 * h) = y at hlt ⊢
  cases sg with
  | false =>
    show (0 : Int) ≤ y ∧ (y : Int) ≤ 2 * h - 1
    omega
  | true =>
    simp only [if_true]
    split <;> omega

/-- An integer of the type's range is the only one of its residue there. -/
theorem eq_of_mem_range {n : Nat} (hn : 0 < n) {sg : Bool} {a b : Int} (ha : intMin n sg ≤ a ∧ a ≤ intMax n sg)
    (hb : intMin n sg ≤ b ∧ b ≤ intMax n sg) (h : (2 ^ n : Int) ∣ a - b) : a = b := by
  have h2 : (2 : Int) ^ n = 2 * 2 ^ (n - 1) := by rw [← pow_succ', Nat.sub_add_cancel hn]
  have hspan : intMax n sg - intMin n sg < 2 ^ n := by
    cases sg <;> simp only [intMin, intMax, if_true, Bool.false_eq_true, if_false] <;> omega
  exact sub_eq_zero.1 (Int.eq_zero_of_abs_lt_dvd h (abs_lt.2 (by omega)))

theorem intMin_le_intMax (n : Nat) (sg : Bool) : intMin n sg ≤ intMax n sg := by
  have hn : (0 : Int) < 2 ^ n := by positivity
  have hh : (0 : Int) < 2 ^ (n - 1) := by positivity
  cases sg <;> simp only [intMin, intMax, if_true, Bool.false_eq_true, if_false] <;> omega

theorem clampInt_mem_range (n : Nat) (sg : Bool) (e : Int) : intMin n sg ≤ clampInt n sg e ∧ clampInt n sg e ≤ intMax n sg :=
  ⟨le_max_left _ _, max_le (intMin_le_intMax n sg) (min_le_left _ _)⟩

/-- A result is read back modulo 2^n (02 R43). -/
theorem dvd_readInt_writeInt_sub (n : Nat) (sg : Bool) (e : Int) : (2 ^ n : Int) ∣ readInt n sg (writeInt n sg e) - e := by
  rw [writeInt, readInt_fillInt, ← sub_add_sub_cancel _ (wrapNat n e : Int) e]
  refine dvd_add (dvd_readInt_sub n sg _) ?_
  rw [wrapNat_cast]
  exact Int.dvd_emod_sub_self

/-- A result in range is read back (02 R43). -/
theorem readInt_writeInt {n : Nat} (hn : 0 < n) {sg : Bool} {e : Int} (he : intMin n sg ≤ e ∧ e ≤ intMax n sg) :
    readInt n sg (writeInt n sg e) = e :=
  eq_of_mem_range hn (readInt_mem_range hn sg _) he (dvd_readInt_writeInt_sub n sg e)

/-! Order (05 R124). -/

theorem aluMin_eq (f : F3) (n : Nat) (sg : Bool) : aluMin f n sg = alu3 f latAlu n sg (fun x y => writeInt n sg (min x y)) := by
  have h : ∀ x y : Int, (if y < x then y else x) = min x y := fun x y => (min_def_lt y x).symm.trans (min_comm y x)
  simp only [aluMin, h]

theorem aluMax_eq (f : F3) (n : Nat) (sg : Bool) : aluMax f n sg = alu3 f latAlu n sg (fun x y => writeInt n sg (max x y)) := by
  simp only [aluMax, max_def_lt]

theorem aluAbs_eq (f : F2) (n : Nat) (sat : Bool) :
    aluAbs f n sat = (alu2 f latAlu n true (fun x => satInt n true sat (max x (-x)))).noAffine sat := by
  have h : ∀ x : Int, (x.natAbs : Int) = max x (-x) := Int.natCast_natAbs
  simp only [aluAbs, h]

/-- Settles O3: each instruction runs the Alu of its rule; outside the corners the quotient is `Int.tdiv`, and a result in
range is the only integer of its residue there. -/
theorem divisionAndOrder : Obligations.DivisionAndOrder := by
  unfold Obligations.DivisionAndOrder
  refine ⟨⟨fun f sg => ?div, fun f m => ?divIt, fun f sg => ?rem, fun f m => ?remIt, fun f sg => ?min, fun f m => ?minIt,
    fun f sg => ?max, fun f m => ?maxIt, fun f => ?abs, fun f m => ?absIt⟩,
    ⟨fun n sg x y => divInt_spec, fun n x => rfl, fun n x => rfl, divInt_intMin_neg_one⟩, fun n sg e hn => ?width⟩
  case div | divIt | rem | remIt => exact computes_of_ruleAlu (fun _ => rfl)
  case min => exact computes_of_ruleAlu (fun s => congrArg (runAlu 1 · s) (aluMin_eq f 32 sg))
  case minIt => exact computes_of_ruleAlu (fun s => congrArg (runAlu 2 · s) (aluMin_eq f (widthOf m.width) m.signed))
  case max => exact computes_of_ruleAlu (fun s => congrArg (runAlu 1 · s) (aluMax_eq f 32 sg))
  case maxIt => exact computes_of_ruleAlu (fun s => congrArg (runAlu 2 · s) (aluMax_eq f (widthOf m.width) m.signed))
  case abs => exact computes_of_ruleAlu (fun s => congrArg (runAlu 1 · s) (aluAbs_eq f 32 false))
  case absIt => exact computes_of_ruleAlu (fun s => congrArg (runAlu 2 · s) (aluAbs_eq f (widthOf m.width) m.sat))
  case width =>
    have hn0 : 0 < n := by omega
    obtain ⟨hlo, hhi⟩ := readInt_mem_range hn0 sg (satInt n sg false e)
    exact ⟨Int.emod_eq_zero_of_dvd (dvd_readInt_writeInt_sub n sg e), hlo, hhi, readInt_writeInt hn0 (clampInt_mem_range n sg e)⟩

end Sys2Proof.Machine

/-! Floating point (06 R144 to R155). -/

namespace Sys2Proof.Machine

open Sys2Proof

/-- Settles O8: each instruction runs the Alu of its rule. -/
theorem floatingPoint : Obligations.FloatingPoint := by
  unfold Obligations.FloatingPoint
  refine ⟨⟨fun f r => ?fadd, fun f m => ?faddFmod, fun f r => ?fsub, fun f m => ?fsubFmod, fun f r => ?fmul,
      fun f m => ?fmulFmod, fun f r => ?fmac, fun f m => ?fmacFmod, fun f c m => ?ffma⟩,
    fun f nan => ?fmin, fun f nan => ?fmax, fun f => ?fneg, fun pd a b ra rb cmp bop pc ftz => ?fcmp, fun f => ?fclass,
    fun f r => ?frnd, fun f m => ?frndFmod, fun f r => ?fscale, fun f m => ?fscaleFmod⟩
  case fadd | faddFmod | fsub | fsubFmod | fmul | fmulFmod => exact computes_of_ruleAlu (fun _ => rfl)
  case fmac | fmacFmod | ffma => exact computes_of_ruleAlu (fun _ => rfl)
  case fmin | fmax | fneg | fcmp | fclass | frnd | frndFmod | fscale | fscaleFmod => exact computes_of_ruleAlu (fun _ => rfl)

end Sys2Proof.Machine

/-! Packed halves and conversions (06 R156 to R162; 02 R54, R55). -/

namespace Sys2Proof.Machine

open Sys2Proof

/-- A conversion to the nearest that flushes and saturates nothing, that of the short forms (06 R161, R162). -/
def convertPlain (f g : FFmt) (x : Nat) : Nat × Flags :=
  g.finish (.mode .rn) false false (f.read false false x, signallingFlag [f.read false false x])

/-- PACK2 of the short forms converts its two sources (06 R161). -/
theorem pack2_computes (f : F3) (bf : Bool) :
    Computes (.pack2 f bf) (ruleFp 1 (srcs3 f) [] f.d (fun v =>
      ((convertPlain .f32 (halfFmt bf) (v.getD 0 0)).1 % 2 ^ 16 + 2 ^ 16 * ((convertPlain .f32 (halfFmt bf) (v.getD 1 0)).1 % 2 ^ 16),
        (convertPlain .f32 (halfFmt bf) (v.getD 0 0)).2 ||| (convertPlain .f32 (halfFmt bf) (v.getD 1 0)).2))) := by
  cases bf <;> exact computes_of_ruleAlu (fun _ => rfl)

/-- The rule of UNPACK2, whose two elements are converted by `e0` and `e1` (06 R162). -/
def ruleUnpack (words : Nat) (f : F2) (e0 e1 : Nat → Nat × Flags) : LaneRule :=
  { words := words, row := rowFadd, pins := [(op32 f.a, f.ra)], uses := { srcs := [op32 f.a], dst := some (op64 f.d) }
    val := fun v _ => (e0 (v.getD 0 0)).1 + 2 ^ 32 * (e1 (v.getD 0 0)).1
    flags := fun v _ => (e0 (v.getD 0 0)).2 ||| (e1 (v.getD 0 0)).2 }

/-- Element `i` that UNPACK2 reads from a source of format `g`, converted (06 R162). -/
def unpackElement (m : CvMod) (g : FFmt) (x i : Nat) : Nat × Flags :=
  convert (.float g) (.float .f32) m 0 (x / 2 ^ (g.bits * (m.selem.toNat + i)) % 2 ^ g.bits)

/-- UNPACK2 computes by its rule. -/
theorem computes_aluUnpack2 {i : Instr} {words : Nat} {f : F2} {m : CvMod} {g : FFmt} {e0 e1 : Nat → Nat × Flags}
    (he : ∀ s, exec i s = runAlu words (aluUnpack2 f m) s) (hg : cvFmt m.sfmt = .float g)
    (h0 : ∀ x, unpackElement m g x 0 = e0 x) (h1 : ∀ x, unpackElement m g x 1 = e1 x) :
    Computes i (ruleUnpack words f e0 e1) := by
  obtain rfl : (fun x => unpackElement m g x 0) = e0 := funext h0
  obtain rfl : (fun x => unpackElement m g x 1) = e1 := funext h1
  refine computes_of_alu (aluUnpack2 f m) he rfl rfl rfl rfl (fun c w => ?_)
  simp only [aluUnpack2, lanewise, hg]
  rfl

/-- UNPACK2 of the short forms reads halves (06 R162). -/
theorem unpackElement_short (bf : Bool) (x i : Nat) :
    unpackElement ⟨0, if bf then 2 else 1, 0, false, false, 0, 0⟩ (halfFmt bf) x i = convertPlain (halfFmt bf) .f32 (half x i) := by
  have hx : x / 2 ^ (16 * (0 + i)) % 2 ^ 16 = half x i := by rw [Nat.zero_add]; rfl
  cases bf <;> exact congrArg (convertPlain _ .f32) hx

/-- UNPACK2 of the short forms converts the two halves of its source (06 R162). -/
theorem unpack2_computes (f : F2) (bf : Bool) :
    Computes (.unpack2 f bf) (ruleUnpack 1 f (fun x => convertPlain (halfFmt bf) .f32 (x % 2 ^ 16))
      (fun x => convertPlain (halfFmt bf) .f32 (x / 2 ^ 16 % 2 ^ 16))) := by
  have hfmt : cvFmt (if bf then 2 else 1) = .float (halfFmt bf) := by cases bf <;> rfl
  have h0 : ∀ x, half x 0 = x % 2 ^ 16 := fun x => congrArg (· % 2 ^ 16) (Nat.div_one x)
  exact computes_aluUnpack2 (fun _ => rfl) hfmt (fun x => h0 x ▸ unpackElement_short bf x 0) (fun x => unpackElement_short bf x 1)

/-- Settles O9: each instruction runs the Alu of its rule. -/
theorem packedAndConverted : Obligations.PackedAndConverted := by
  unfold Obligations.PackedAndConverted
  refine ⟨⟨fun f bf => ?hadd2, fun f bf m => ?hadd2Hmod, fun f bf => ?hmul2, fun f bf m => ?hmul2Hmod, fun f bf c m => ?hfma2,
      fun f bf => ?hmax2⟩,
    fun f m => ?fcvt, fun f bf => ?pack2, fun f m => ?pack2Cvx, fun f bf => ?unpack2, fun f m g hg => ?unpack2Cvx⟩
  case hadd2 | hadd2Hmod | hmul2 | hmul2Hmod | hfma2 | hmax2 => exact computes_of_ruleAlu (fun _ => rfl)
  case fcvt => exact computesWhen_of_alu (aluFcvt f m) (fun _ => rfl) rfl rfl rfl rfl (fun _ _ _ => rfl)
  case pack2 => exact pack2_computes f bf
  case pack2Cvx => exact computesWhen_of_alu (aluPack2 f m) (fun _ => rfl) rfl rfl rfl rfl (fun _ _ _ => rfl)
  case unpack2 => exact unpack2_computes f bf
  case unpack2Cvx =>
    exact computes_aluUnpack2 (e0 := fun x => unpackElement m g x 0) (e1 := fun x => unpackElement m g x 1) (fun _ => rfl) hg
      (fun _ => rfl) (fun _ => rfl)

end Sys2Proof.Machine

/-! The abacus (02 R63 to R65). -/

namespace Sys2Proof.Machine

open Sys2Proof

/-! One addition (02 R64). -/

/-- A number is added to the body, or overflows for good. -/
theorem Abacus.add_num {x : Abacus} (hi : x.inf = false) (ho : x.ovf = false) (e : Exact) :
    x.add (.num e) =
      if x.body.toInt + e.scaled (-266) < -(2 ^ 575 : Int) || x.body.toInt + e.scaled (-266) > 2 ^ 575 - 1 then
        { x with ovf := true, body := Abacus.signBody (decide (x.body.toInt + e.scaled (-266) < 0)) }
      else { x with body := BitVec.ofInt 576 (x.body.toInt + e.scaled (-266)) } := by
  simp only [Abacus.add, hi, ho, Bool.or_self, Bool.false_eq_true, if_false]

/-- A number leaves INF, NAN and IVD alone. -/
theorem Abacus.add_num_flags (x : Abacus) (e : Exact) :
    (x.add (.num e)).inf = x.inf ∧ (x.add (.num e)).nan = x.nan ∧ (x.add (.num e)).ivd = x.ivd := by
  simp only [Abacus.add]
  split
  · exact ⟨rfl, rfl, rfl⟩
  · split <;> exact ⟨rfl, rfl, rfl⟩

/-- An infinity raises INF, and changes the body and IVD besides. -/
theorem Abacus.add_inf_frame (x : Abacus) (neg : Bool) : ∃ b v, x.add (.inf neg) = { x with inf := true, body := b, ivd := v } := by
  obtain ⟨b, o, i, n, v⟩ := x
  cases i with
  | false => exact ⟨_, _, rfl⟩
  | true =>
    simp only [Abacus.add]
    split
    · exact ⟨_, _, rfl⟩
    · split <;> exact ⟨_, _, rfl⟩

theorem Abacus.add_inf (x : Abacus) (i : AbacusInput) : (x.add i).inf = (x.inf || (i == .inf false || i == .inf true)) := by
  cases i with
  | nan | invalidProduct => exact (Bool.or_false _).symm
  | num e =>
    obtain ⟨hinf, -, -⟩ := x.add_num_flags e
    exact hinf.trans (Bool.or_false _).symm
  | inf neg =>
    obtain ⟨_, _, h⟩ := x.add_inf_frame neg
    have hneg : (AbacusInput.inf neg == .inf false || AbacusInput.inf neg == .inf true) = true := by cases neg <;> rfl
    rw [h, hneg, Bool.or_true]

theorem Abacus.add_nan (x : Abacus) (i : AbacusInput) : (x.add i).nan = (x.nan || i == .nan) := by
  cases i with
  | nan => exact (Bool.or_true _).symm
  | invalidProduct => exact (Bool.or_false _).symm
  | num e =>
    obtain ⟨-, hnan, -⟩ := x.add_num_flags e
    exact hnan.trans (Bool.or_false _).symm
  | inf neg =>
    obtain ⟨_, _, h⟩ := x.add_inf_frame neg
    exact (congrArg Abacus.nan h).trans (Bool.or_false _).symm

/-- OVF is never cleared. -/
theorem Abacus.add_ovf {x : Abacus} (ho : x.ovf = true) (i : AbacusInput) : (x.add i).ovf = true := by
  cases i with
  | nan | invalidProduct => exact ho
  | num e => simp only [Abacus.add, ho, Bool.or_true, if_true]
  | inf neg =>
    obtain ⟨_, _, h⟩ := x.add_inf_frame neg
    rw [h, ho]

/-! Many additions (02 R63). -/

theorem Abacus.foldl_add_ovf {x : Abacus} (h : x.ovf = true) (is : List AbacusInput) : (is.foldl Abacus.add x).ovf = true := by
  induction is generalizing x with
  | nil => exact h
  | cons i is ih => exact ih (x.add_ovf h i)

theorem Abacus.foldl_add_nan (x : Abacus) (is : List AbacusInput) :
    (is.foldl Abacus.add x).nan = (x.nan || is.contains .nan) := by
  induction is generalizing x with
  | nil => exact (Bool.or_false _).symm
  | cons i is ih => rw [List.foldl_cons, ih, Abacus.add_nan, List.contains_cons, Bool.or_assoc, Bool.beq_comm]

theorem Abacus.foldl_add_inf (x : Abacus) (is : List AbacusInput) :
    (is.foldl Abacus.add x).inf = (x.inf || is.contains (.inf false) || is.contains (.inf true)) := by
  induction is generalizing x with
  | nil => simp
  | cons i is ih =>
    rw [List.foldl_cons, ih, Abacus.add_inf, List.contains_cons, List.contains_cons, Bool.beq_comm (a := i), Bool.beq_comm (a := i)]
    ac_rfl

/-- Numbers leave NAN, IVD and INF alone. -/
theorem Abacus.foldl_add_num_flags (x : Abacus) (es : List Exact) :
    let y := (es.map AbacusInput.num).foldl Abacus.add x
    y.inf = x.inf ∧ y.nan = x.nan ∧ y.ivd = x.ivd := by
  induction es generalizing x with
  | nil => exact ⟨rfl, rfl, rfl⟩
  | cons e es ih =>
    obtain ⟨hi, hn, hv⟩ := x.add_num_flags e
    obtain ⟨hi', hn', hv'⟩ := ih (x.add (.num e))
    exact ⟨hi'.trans hi, hn'.trans hn, hv'.trans hv⟩

/-- One number that does not overflow is added exactly. -/
theorem Abacus.add_num_body {x : Abacus} {e : Exact} (hi : x.inf = false) (ho : x.ovf = false) (h : (x.add (.num e)).ovf = false) :
    (x.add (.num e)).body.toInt = x.body.toInt + e.scaled (-266) := by
  rw [Abacus.add_num hi ho] at h ⊢
  split
  · next hov => rw [if_pos hov] at h; cases h
  · next hov =>
    simp only [Bool.or_eq_true, decide_eq_true_eq, not_or, not_lt] at hov
    obtain ⟨hlo, hhi⟩ := hov
    exact BitVec.toInt_ofInt_eq_self (by decide) hlo (Int.lt_of_le_sub_one hhi)

/-- Numbers that do not overflow are added exactly (02 R63). -/
theorem Abacus.foldl_add_num_body {x : Abacus} {es : List Exact} (hi : x.inf = false) (ho : x.ovf = false)
    (h : ((es.map AbacusInput.num).foldl Abacus.add x).ovf = false) :
    ((es.map AbacusInput.num).foldl Abacus.add x).body.toInt = x.body.toInt + (es.map (fun e => e.scaled (-266))).sum := by
  induction es generalizing x with
  | nil => exact (Int.add_zero _).symm
  | cons e es ih =>
    rw [List.map_cons, List.foldl_cons] at h ⊢
    have ho' : (x.add (.num e)).ovf = false := by
      by_contra hov
      rw [Abacus.foldl_add_ovf (Bool.eq_true_of_not_eq_false hov)] at h
      cases h
    obtain ⟨hinf, -, -⟩ := x.add_num_flags e
    rw [ih (hinf.trans hi) ho' h, Abacus.add_num_body hi ho ho', List.map_cons, List.sum_cons, Int.add_assoc]

/-! What an addition takes is a multiple of the body's last place, of weight 2^-266 (02 R63, Table 2.10). -/

/-- The last place of a format's least numbers bounds every number's exponent (02 R46). -/
theorem FFmt.decode_exp_ge {f : FFmt} {w : Nat} {e : Exact} (h : f.decode w = .num e) : f.emin - f.mbits ≤ e.exp := by
  unfold FFmt.decode at h
  dsimp only at h
  split at h
  · split at h <;> cases h
  · split at h
    · cases h
    · split at h
      · cases h
        exact le_rfl
      · next hne =>
        cases h
        have hpos := Nat.pos_of_ne_zero hne
        show (1 - f.bias - f.mbits : Int) ≤ (w / 2 ^ f.mbits % 2 ^ f.ebits : Nat) - f.bias - f.mbits
        generalize w / 2 ^ f.mbits % 2 ^ f.ebits = code at hpos ⊢
        omega

/-- A product of two numbers is exact (06 R169). -/
theorem AbacusInput.ofProduct_eq_num {x y : FpVal} {e : Exact} (h : AbacusInput.ofProduct x y = .num e) :
    ∃ a b, x = .num a ∧ y = .num b ∧ e = a.mul b := by
  cases x with
  | nan => cases h
  | inf a =>
    cases y with
    | nan | inf => cases h
    | num b =>
      simp only [AbacusInput.ofProduct] at h
      split at h <;> cases h
  | num a =>
    cases y with
    | nan => cases h
    | inf b =>
      simp only [AbacusInput.ofProduct] at h
      split at h <;> cases h
    | num b =>
      cases h
      exact ⟨a, b, rfl, rfl, rfl⟩

/-- A number whose exponent is that of the body's last place or more is a multiple of it. -/
theorem Exact.scaled_of_exp_ge {e : Exact} (h : -266 ≤ e.exp) :
    ∃ k : Nat, e.exp = (k : Int) - 266 ∧ e.scaled (-266) = (if e.neg then -1 else 1) * (e.mant * 2 ^ k : Nat) := by
  obtain ⟨k, hk⟩ := Int.eq_ofNat_of_zero_le (a := e.exp + 266) (by omega)
  have hs : (e.exp - -266).toNat = k := by omega
  refine ⟨k, by omega, ?_⟩
  rw [Exact.scaled, Exact.scaledMant, hs]
  split
  · exact (neg_one_mul _).symm
  · exact (one_mul _).symm

/-! Reading (02 R65). -/

theorem Abacus.read_invalid {x : Abacus} (h : (x.nan || x.ivd) = true) (f : FFmt) (m : RMode) (sat : Bool) :
    x.read f m sat = (f.canonicalNan, if x.ivd then flagNV else 0) := by
  rw [Abacus.read, if_pos h]
  rfl

theorem Abacus.read_inf {x : Abacus} (h : (x.nan || x.ivd) = false) (hi : x.inf = true) {f : FFmt} (hf : f.ieee = true)
    (m : RMode) (sat : Bool) : (x.read f m sat).2 = 0 := by
  rw [Abacus.read, if_neg (by simp [h]), if_pos hi, FFmt.roundInf, if_pos hf]

theorem Abacus.read_ovf {x : Abacus} (h : (x.nan || x.ivd) = false) (hi : x.inf = false) (ho : x.ovf = true) (f : FFmt)
    (m : RMode) (sat : Bool) : (x.read f m sat).2 = flagOF ||| flagNX := by
  rw [Abacus.read, if_neg (by simp [h]), if_neg (by simp [hi]), if_pos ho]

/-- An empty body is a positive zero. -/
theorem Abacus.read_zero {x : Abacus} (hb : x.body = 0) (h : (x.nan || x.ivd) = false) (hi : x.inf = false) (ho : x.ovf = false)
    (f : FFmt) (m : RMode) (sat : Bool) : x.read f m sat = (0, 0) := by
  have h0 : Exact.ofInt x.body.toInt (-266) = ⟨false, 0, -266⟩ := by rw [hb, BitVec.ofNat_eq_ofNat, BitVec.toInt_zero]; rfl
  rw [Abacus.read, if_neg (by simp [h]), if_neg (by simp [hi]), if_neg (by simp [ho]), h0]
  rfl

/-- Settles O12, by induction over what is added: each addition of a number is exact until one overflows, and the sticky
bits are those of the inputs. -/
theorem abacusSums : Obligations.AbacusSums := by
  unfold Obligations.AbacusSums
  refine ⟨⟨fun x es hi ho => ?sums, fun x is => ⟨x.foldl_add_nan is, x.foldl_add_inf is⟩, fun w e h => ?value, fun v w e h => ?product⟩,
    fun x f m sat => ⟨fun h => x.read_invalid h f m sat, fun h hi hf => x.read_inf h hi hf m sat,
      fun h hi ho => x.read_ovf h hi ho f m sat, fun hb hn hv hi ho => ?zero⟩⟩
  case sums =>
    obtain ⟨hinf, hnan, hivd⟩ := x.foldl_add_num_flags es
    exact ⟨hinf.trans hi, hnan, hivd, fun hov => Abacus.foldl_add_num_body hi ho hov⟩
  case value => exact Exact.scaled_of_exp_ge (le_trans (by decide) (FFmt.decode_exp_ge h))
  case product =>
    obtain ⟨a, b, ha, hb, rfl⟩ := AbacusInput.ofProduct_eq_num h
    have hae : -133 ≤ a.exp := FFmt.decode_exp_ge ha
    have hbe : -133 ≤ b.exp := FFmt.decode_exp_ge hb
    exact Exact.scaled_of_exp_ge (show -266 ≤ a.exp + b.exp by omega)
  case zero => exact x.read_zero hb (by rw [hn, hv, Bool.or_self]) hi ho f m sat

end Sys2Proof.Machine

/-! Encoding and decoding (03 R79 to R85): what each field of a packed word holds. -/

namespace Sys2Proof

open Sys2Proof.Machine

/-! Fields of a word that a format packs. -/

@[simp] theorem packF3_fields (op d a b : BitVec 7) (ra rb : Bool) (m : BitVec 2) :
    let w := packF3 op d a b ra rb m
    fOp w = op ∧ fD w = d ∧ fA w = a ∧ fB w = b ∧ fRA w = ra ∧ fRB w = rb ∧ fM w = m := by
  simp [packF3, fOp, fD, fA, fB, fRA, fRB, fM, BitVec.extractLsb'_append_eq_of_le, BitVec.extractLsb'_append_eq_of_add_le,
    BitVec.getLsbD_append, -BitVec.getLsbD_eq_getElem, -Nat.reduceAdd]

@[simp] theorem packFI_fields (op d a : BitVec 7) (i : BitVec 11) :
    let w := packFI op d a i
    fOp w = op ∧ fD w = d ∧ fA w = a ∧ fImm11 w = i ∧ fiOf w = ⟨d, a, i⟩ := by
  simp [packFI, fiOf, fOp, fD, fA, fImm11, BitVec.extractLsb'_append_eq_of_le, BitVec.extractLsb'_append_eq_of_add_le, -Nat.reduceAdd]

@[simp] theorem packFL_fields (op d : BitVec 7) (i : BitVec 18) :
    let w := packFL op d i
    fOp w = op ∧ fD w = d ∧ fImm18 w = i := by
  simp [packFL, fOp, fD, fImm18, BitVec.extractLsb'_append_eq_of_le, BitVec.extractLsb'_append_eq_of_add_le, -Nat.reduceAdd]

@[simp] theorem packFM_fields (op t b : BitVec 7) (la : BitVec 4) (tk : BitVec 3) (o : BitVec 4) :
    let w := packFM op t b la tk o
    fOp w = op ∧ fD w = t ∧ fA w = b ∧ fLaFM w = la ∧ fTK w = tk ∧ fLow4 w = o := by
  simp [packFM, fOp, fD, fA, fLaFM, fTK, fLow4, BitVec.extractLsb'_append_eq_of_le, BitVec.extractLsb'_append_eq_of_add_le,
    -Nat.reduceAdd]

@[simp] theorem packFB_fields (op : BitVec 7) (c : BitVec 4) (o : BitVec 21) :
    let w := packFB op c o
    fOp w = op ∧ fCond w = c ∧ fOff21 w = o := by
  simp [packFB, fOp, fCond, fOff21, BitVec.extractLsb'_append_eq_of_le, BitVec.extractLsb'_append_eq_of_add_le, -Nat.reduceAdd]

@[simp] theorem packFQ_fields (op d a b : BitVec 7) (j : BitVec 4) :
    let w := packFQ op d a b j
    fOp w = op ∧ fD w = d ∧ fA w = a ∧ fB w = b ∧ fLow4 w = j ∧ fqOf w = ⟨d, a, b, j⟩ := by
  simp [packFQ, fqOf, fOp, fD, fA, fB, fLow4, BitVec.extractLsb'_append_eq_of_le, BitVec.extractLsb'_append_eq_of_add_le, -Nat.reduceAdd]

@[simp] theorem packFMM_fields (op a : BitVec 7) (bk dk : BitVec 5) (r : Bool) (tk : BitVec 3) (la : BitVec 4) :
    let w := packFMM op a bk dk r tk la
    fOp w = op ∧ fAmm w = a ∧ fBK w = bk ∧ fDK w = dk ∧ fReuseA w = r ∧ fTK w = tk ∧ fLow4 w = la := by
  simp [packFMM, fOp, fAmm, fBK, fDK, fReuseA, fTK, fLow4, BitVec.extractLsb'_append_eq_of_le,
    BitVec.extractLsb'_append_eq_of_add_le, BitVec.getLsbD_append, -BitVec.getLsbD_eq_getElem, -Nat.reduceAdd]

/-- The operand fields of an instruction with D, A and B. -/
@[simp] theorem encF3_fields (op : BitVec 7) (f : F3) (m : BitVec 2) :
    fOp (encF3 op f m) = op ∧ f3Of (encF3 op f m) = f ∧ fM (encF3 op f m) = m := by
  simp [encF3, f3Of]

/-- Those of an instruction with D and A. -/
@[simp] theorem encF2_fields (op : BitVec 7) (f : F2) (m : BitVec 2) :
    let w := encF2 op f m
    fOp w = op ∧ f2Of w = f ∧ fB w = unusedCode ∧ fRB w = false ∧ fM w = m := by
  simp [encF2, f2Of]

/-- Those of a memory instruction. -/
@[simp] theorem encFM_fields (op : BitVec 7) (m : Fm) (o : BitVec 4) :
    fOp (encFM op m o) = op ∧ fmOf (encFM op m o) = m ∧ fLow4 (encFM op m o) = o := by
  simp [encFM, fmOf]

/-! Extension words. -/

@[simp] theorem rmodeOf_rmodeBits (m : RMode) : rmodeOf (rmodeBits m) = m := by
  cases m <;> rfl

/-- An extension word of the kind that is called for, its reserved bits clear. -/
theorem ext_of_kind {x : Word} {k : BitVec 5} {n : Nat} (hk : fKind x = k) (hr : x.extractLsb' 0 n = 0)
    (body : Except DecodeError Instr) : ext x k n body = body := by
  have h0 : x.toNat % 2 ^ n = 0 := by simpa using congrArg BitVec.toNat hr
  simp [ext, chk, hk, h0]

@[simp] theorem encIt_fields (m : ItMod) : (∀ k, ext (encIt m) 0x00#5 23 k = k) ∧ itOf (encIt m) = m := by
  refine ⟨ext_of_kind ?_ ?_, ?_⟩ <;>
  simp [encIt, fKind, itOf, BitVec.extractLsb'_append_eq_of_le, BitVec.extractLsb'_append_eq_of_add_le, BitVec.getLsbD_append,
    -BitVec.getLsbD_eq_getElem, -Nat.reduceAdd]

@[simp] theorem encFmod_fields (m : FMod) : let x := encFmod m
    (∀ k, ext x 0x01#5 21 k = k) ∧ fmodOf x = m := by
  refine ⟨ext_of_kind ?_ ?_, ?_⟩ <;>
  simp [encFmod, fKind, fmodOf, BitVec.extractLsb'_append_eq_of_le, BitVec.extractLsb'_append_eq_of_add_le,
    BitVec.getLsbD_append, -BitVec.getLsbD_eq_getElem, -Nat.reduceAdd]

@[simp] theorem encHmod_fields (bf : Bool) (m : FMod) : let x := encHmod bf m
    (∀ k, ext x 0x02#5 20 k = k) ∧ x[26] = bf ∧ hmodOf x = m := by
  refine ⟨ext_of_kind ?_ ?_, ?_, ?_⟩ <;>
  simp [encHmod, fKind, hmodOf, BitVec.extractLsb'_append_eq_of_le, BitVec.extractLsb'_append_eq_of_add_le,
    BitVec.getLsbD_append, ← BitVec.getLsbD_eq_getElem, -Nat.reduceAdd]

@[simp] theorem encCyx_fields (sub : Bool) (cin : PredRef) (cout : BitVec 3) : let x := encCyx sub cin cout
    (∀ k, ext x 0x03#5 19 k = k) ∧ x[26] = sub ∧ x.extractLsb' 22 4 = cin ∧ x.extractLsb' 19 3 = cout := by
  refine ⟨ext_of_kind ?_ ?_, ?_, ?_, ?_⟩ <;>
  simp [encCyx, fKind, BitVec.extractLsb'_append_eq_of_le, BitVec.extractLsb'_append_eq_of_add_le,
    BitVec.getLsbD_append, ← BitVec.getLsbD_eq_getElem, -Nat.reduceAdd]

@[simp] theorem encIx_fields (c : Code) (signed sat : Bool) : let x := encIx c signed sat
    (∀ k, ext x 0x04#5 18 k = k) ∧ x.extractLsb' 20 7 = c ∧ x[19] = signed ∧ x[18] = sat := by
  refine ⟨ext_of_kind ?_ ?_, ?_, ?_, ?_⟩ <;>
  simp [encIx, fKind, BitVec.extractLsb'_append_eq_of_le, BitVec.extractLsb'_append_eq_of_add_le,
    BitVec.getLsbD_append, ← BitVec.getLsbD_eq_getElem, -Nat.reduceAdd]

@[simp] theorem encBfx_fields (shf : Bool) (c : Code) (dir : Bool) : let x := encBfx shf c dir
    (∀ k, ext x 0x05#5 18 k = k) ∧ x[26] = shf ∧ x.extractLsb' 19 7 = c ∧ x[18] = dir := by
  refine ⟨ext_of_kind ?_ ?_, ?_, ?_, ?_⟩ <;>
  simp [encBfx, fKind, BitVec.extractLsb'_append_eq_of_le, BitVec.extractLsb'_append_eq_of_add_le,
    BitVec.getLsbD_append, ← BitVec.getLsbD_eq_getElem, -Nat.reduceAdd]

@[simp] theorem encFcx_fields (c : Code) (m : FcMod) : let x := encFcx c m
    (∀ k, ext x 0x0A#5 13 k = k) ∧ x.extractLsb' 20 7 = c ∧ fcxOf x = m := by
  refine ⟨ext_of_kind ?_ ?_, ?_, ?_⟩ <;>
  simp [encFcx, fKind, fcxOf, BitVec.extractLsb'_append_eq_of_le, BitVec.extractLsb'_append_eq_of_add_le,
    BitVec.getLsbD_append, -BitVec.getLsbD_eq_getElem, -Nat.reduceAdd]

@[simp] theorem encHcx_fields (bf : Bool) (c : Code) (m : FcMod) : let x := encHcx bf c m
    (∀ k, ext x 0x0C#5 12 k = k) ∧ x[26] = bf ∧ x.extractLsb' 19 7 = c ∧ hcxOf x = m := by
  refine ⟨ext_of_kind ?_ ?_, ?_, ?_, ?_⟩ <;>
  simp [encHcx, fKind, hcxOf, BitVec.extractLsb'_append_eq_of_le, BitVec.extractLsb'_append_eq_of_add_le,
    BitVec.getLsbD_append, ← BitVec.getLsbD_eq_getElem, -Nat.reduceAdd]

@[simp] theorem encCvx_fields (m : CvMod) : let x := encCvx m
    (∀ k, ext x 0x0D#5 8 k = k) ∧ cvxOf x = m := by
  refine ⟨ext_of_kind ?_ ?_, ?_⟩ <;>
  simp [encCvx, fKind, cvxOf, BitVec.extractLsb'_append_eq_of_le, BitVec.extractLsb'_append_eq_of_add_le,
    BitVec.getLsbD_append, -BitVec.getLsbD_eq_getElem, -Nat.reduceAdd]

@[simp] theorem encSfx_fields (m : SfMod) : let x := encSfx m
    (∀ k, ext x 0x0E#5 17 k = k) ∧ sfxOf x = m := by
  refine ⟨ext_of_kind ?_ ?_, ?_⟩ <;>
  simp [encSfx, fKind, sfxOf, BitVec.extractLsb'_append_eq_of_le, BitVec.extractLsb'_append_eq_of_add_le,
    BitVec.getLsbD_append, -BitVec.getLsbD_eq_getElem, -Nat.reduceAdd]

@[simp] theorem encAbx_fields (scan : Bool) (m : AbMod) : let x := encAbx scan m
    (∀ k, ext x 0x0F#5 13 k = k) ∧ x[26] = scan ∧ abxOf x = m := by
  refine ⟨ext_of_kind ?_ ?_, ?_, ?_⟩ <;>
  simp [encAbx, fKind, abxOf, BitVec.extractLsb'_append_eq_of_le, BitVec.extractLsb'_append_eq_of_add_le,
    BitVec.getLsbD_append, ← BitVec.getLsbD_eq_getElem, -Nat.reduceAdd]

@[simp] theorem encMx_fields (m : MxMod) : let x := encMx m
    (∀ k, ext x 0x10#5 0 k = k) ∧ mxOf x = m := by
  refine ⟨ext_of_kind ?_ ?_, ?_⟩ <;>
  simp [encMx, fKind, mxOf, BitVec.extractLsb'_append_eq_of_le, BitVec.extractLsb'_append_eq_of_add_le,
    BitVec.getLsbD_append, -BitVec.getLsbD_eq_getElem, -Nat.reduceAdd]

@[simp] theorem encAx_fields (m : AxMod) : let x := encAx m
    (∀ k, ext x 0x11#5 8 k = k) ∧ axOf x = m := by
  refine ⟨ext_of_kind ?_ ?_, ?_⟩ <;>
  simp [encAx, fKind, axOf, BitVec.extractLsb'_append_eq_of_le, BitVec.extractLsb'_append_eq_of_add_le,
    BitVec.getLsbD_append, -BitVec.getLsbD_eq_getElem, -Nat.reduceAdd]

@[simp] theorem encXlx_fields (same : Bool) (rop : BitVec 3) (signed : Bool) (la : BitVec 4) (tk : BitVec 3) : let x := encXlx same rop signed la tk
    (∀ k, ext x 0x12#5 15 k = k) ∧ x[26] = same ∧ x.extractLsb' 23 3 = rop ∧ x[22] = signed ∧ x.extractLsb' 18 4 = la ∧ x.extractLsb' 15 3 = tk := by
  refine ⟨ext_of_kind ?_ ?_, ?_, ?_, ?_, ?_, ?_⟩ <;>
  simp [encXlx, fKind, BitVec.extractLsb'_append_eq_of_le, BitVec.extractLsb'_append_eq_of_add_le,
    BitVec.getLsbD_append, ← BitVec.getLsbD_eq_getElem, -Nat.reduceAdd]

/-- OPSEL of the DPX word (05 R132). -/
def dotBits : DotOp → BitVec 2
  | .sad => 0 | .dp4a => 1 | .dp2a => 2

theorem encDpx_eq (op : DotOp) (c : Code) (sa sb sat : Bool) : encDpx op c sa sb sat =
    (0x07 : BitVec 5) ++ dotBits op ++ c ++ bit sa ++ bit sb ++ bit sat ++ (0 : BitVec 15) := by
  cases op <;> rfl

@[simp] theorem encDpx_fields (op : DotOp) (c : Code) (sa sb sat : Bool) : let x := encDpx op c sa sb sat
    (∀ k, ext x 0x07#5 15 k = k) ∧ x.extractLsb' 25 2 = dotBits op ∧ x.extractLsb' 18 7 = c ∧ x[17] = sa ∧ x[16] = sb ∧
      x[15] = sat := by
  refine ⟨ext_of_kind ?_ ?_, ?_, ?_, ?_, ?_, ?_⟩ <;>
  simp [encDpx_eq, fKind, BitVec.extractLsb'_append_eq_of_le, BitVec.extractLsb'_append_eq_of_add_le, BitVec.getLsbD_append,
    ← BitVec.getLsbD_eq_getElem, -Nat.reduceAdd]

/-- MADW does not accept SAT: its bit is one of the reserved ones. -/
@[simp] theorem ext_encIx_noSat (c : Code) (signed : Bool) (k : Except DecodeError Instr) :
    ext (encIx c signed false) 0x04#5 19 k = k := by
  refine ext_of_kind ?_ ?_ k
  · simp [encIx, fKind, BitVec.extractLsb'_append_eq_of_le, -Nat.reduceAdd]
  · ext i hi
    simp [encIx, BitVec.getLsbD_append, -Nat.reduceAdd, -BitVec.reduceAppend]
    intro h18 h0
    omega

@[simp] theorem packFP_fields (op : BitVec 7) (q : BitVec 6) (kb : Bool) (g : BitVec 4) (f : BitVec 3) (tk : BitVec 3) (la : BitVec 4) :
    let w := packFP op q kb g f tk la
    fOp w = op ∧ w.extractLsb' 7 4 = 0#4 ∧ w.extractLsb' 19 6 = q ∧ w[18] = kb ∧ w.extractLsb' 14 4 = g ∧
      w.extractLsb' 11 3 = f ∧ fTK w = tk ∧ fLow4 w = la := by
  simp [packFP, fOp, fTK, fLow4, BitVec.extractLsb'_append_eq_of_le, BitVec.extractLsb'_append_eq_of_add_le,
    BitVec.getLsbD_append, ← BitVec.getLsbD_eq_getElem, -Nat.reduceAdd]

/-- COND of BRQ: a bit that negates and three zeros (08 R215). -/
@[simp] theorem brqCond_fields (n : Bool) : (bit n ++ 0#3).extractLsb' 0 3 = 0#3 ∧ (bit n ++ 0#3)[3] = n := by
  cases n <;> exact ⟨rfl, rfl⟩

@[simp] theorem packFI_shift (op d a : BitVec 7) (form : BitVec 2) (n : BitVec 5) : let w := packFI op d a (form ++ 0#4 ++ n)
    w.extractLsb' 5 4 = 0#4 ∧ w.extractLsb' 9 2 = form ∧ w.extractLsb' 0 5 = n := by
  simp [packFI, BitVec.extractLsb'_append_eq_of_le, BitVec.extractLsb'_append_eq_of_add_le, -Nat.reduceAdd]

/-! The minor-form classes (03 Table 3.8) read what their encoders write. -/

@[simp] theorem encA_fields (op : BitVec 7) (a : Code) (ra : Bool) (m : BitVec 2) :
    fOp (encA op a ra m) = op ∧ fM (encA op a ra m) = m := by
  simp [encA]
@[simp] theorem encAB_fields (op : BitVec 7) (a b : Code) (ra rb : Bool) (m : BitVec 2) :
    fOp (encAB op a b ra rb m) = op ∧ fM (encAB op a b ra rb m) = m := by
  simp [encAB]
@[simp] theorem encZ_fields (op : BitVec 7) (m : BitVec 2) : fOp (encZ op m) = op ∧ fM (encZ op m) = m := by
  simp [encZ]

theorem fin_of_wf {i : Instr} (h : i.wf = true) : fin i true = .ok i := by
  simp [fin, h]

@[simp] theorem chk_true (k : Except DecodeError Instr) : chk true k = k := rfl

@[simp] theorem decT_short (op : BitVec 7) (f : F3) (s : Bool) (x : Word) (short : F3 → Bool → Instr) (long : F3 → ItMod → Instr) :
    decT (encF3 op f (if s then 0#2 else 1#2)) x short long = fin (short f s) true := by
  cases s <;> simp [decT]

@[simp] theorem decT_long (op : BitVec 7) (f : F3) (m : ItMod) (short : F3 → Bool → Instr) (long : F3 → ItMod → Instr) :
    decT (encF3 op f 3#2) (encIt m) short long = fin (long f m) true := by
  simp [decT]

theorem decR_short {m : RMode} (h : m ≠ .rd) (op : BitVec 7) (f : F3) (x : Word) (short : F3 → RMode → Instr)
    (long : F3 → FMod → Instr) : decR (encF3 op f (rmodeBits m)) x short long = fin (short f m) true := by
  cases m with
  | rd => exact absurd rfl h
  | rn | rz | ru => simp [decR, rmodeBits, rmodeOf]

@[simp] theorem decR_long (op : BitVec 7) (f : F3) (m : FMod) (short : F3 → RMode → Instr) (long : F3 → FMod → Instr) :
    decR (encF3 op f 3#2) (encFmod m) short long = fin (long f m) true := by
  simp [decR]

@[simp] theorem decH_short (op : BitVec 7) (f : F3) (b : Bool) (x : Word) (short : F3 → Bool → Instr)
    (long : F3 → Bool → FMod → Instr) : decH (encF3 op f (if b then 1#2 else 0#2)) x short long = fin (short f b) true := by
  cases b <;> simp [decH]

@[simp] theorem decH_long (op : BitVec 7) (f : F3) (b : Bool) (m : FMod) (short : F3 → Bool → Instr)
    (long : F3 → Bool → FMod → Instr) : decH (encF3 op f 3#2) (encHmod b m) short long = fin (long f b m) true := by
  simp [decH]

@[simp] theorem onlyA_encF2 (op : BitVec 7) (f : F2) (m : BitVec 2) (i : F2 → Instr) : onlyA (encF2 op f m) i = fin (i f) true := by
  simp [onlyA]

@[simp] theorem onlySrc_encA (op : BitVec 7) (a : Code) (ra : Bool) (m : BitVec 2) (i : Code → Bool → Instr) :
    onlySrc (encA op a ra m) i = fin (i a ra) true := by
  simp [onlySrc, encA]

@[simp] theorem twoSrc_encAB (op : BitVec 7) (a b : Code) (ra rb : Bool) (m : BitVec 2) (i : Code → Code → Bool → Bool → Instr) :
    twoSrc (encAB op a b ra rb m) i = fin (i a b ra rb) true := by
  simp [twoSrc, encAB]

@[simp] theorem noOperand_encZ (op : BitVec 7) (m : BitVec 2) (i : Instr) : noOperand (encZ op m) i = fin i true := by
  simp [noOperand, encZ]

/-- A field of a predicate, a team register or an abacus. -/
@[simp] theorem predD_fields (p : BitVec 3) : (predD p).extractLsb' 3 4 = 0#4 ∧ (predD p).extractLsb' 0 3 = p := by
  simp [predD, BitVec.extractLsb'_append_eq_of_le, BitVec.extractLsb'_append_eq_of_add_le, -Nat.reduceAdd]

@[simp] theorem predS_fields (p : PredRef) : (predS p).extractLsb' 4 3 = 0#3 ∧ (predS p).extractLsb' 0 4 = p := by
  simp [predS, BitVec.extractLsb'_append_eq_of_le, BitVec.extractLsb'_append_eq_of_add_le, -Nat.reduceAdd]

@[simp] theorem abacusC_fields (x : BitVec 2) : abacusOk (abacusC x) = true ∧ abacusOf (abacusC x) = x := by
  simp [abacusOk, abacusOf, abacusC, BitVec.extractLsb'_append_eq_of_le, BitVec.extractLsb'_append_eq_of_add_le, -Nat.reduceAdd]

@[simp] theorem predForm_packF3 (op : BitVec 7) (pd : BitVec 3) (a b : PredRef) (m : BitVec 2) (i : BitVec 3 → PredRef → PredRef → Instr) :
    predForm (packF3 op (predD pd) (predS a) (predS b) false false m) i = fin (i pd a b) true := by
  simp [predForm]

@[simp] theorem decSF_encF2 (op : BitVec 7) (f : F2) (m : SfMod) (i : F2 → SfMod → Instr) :
    decSF (encF2 op f 3#2) (encSfx m) i = fin (i f m) true := by
  simp [decSF, decX]

theorem decFM_short {o : BitVec 4} (h : o ≠ 8#4) (op : BitVec 7) (m : Fm) (x : Word) (short : Fm → BitVec 4 → Instr)
    (long : Fm → MxMod → Instr) : decFM (encFM op m o) x short long = fin (short m o) true := by
  simp [decFM, h]

@[simp] theorem decFM_long (op : BitVec 7) (m : Fm) (x : MxMod) (short : Fm → BitVec 4 → Instr) (long : Fm → MxMod → Instr) :
    decFM (encFM op m 8#4) (encMx x) short long = fin (long m x) true := by
  simp [decFM]

@[simp] theorem decMma_encMmx (op : BitVec 7) (m : MmaOp) (i : MmaOp → Instr) :
    decMma (packFMM op m.a m.bk m.dk m.reusea m.tk m.la) (encMmx m) i = fin (i m) true := by
  rw [decMma, ext_of_kind]
  · simp [mmaOf, encMmx, BitVec.extractLsb'_append_eq_of_le, BitVec.extractLsb'_append_eq_of_add_le,
      BitVec.getLsbD_append, -BitVec.getLsbD_eq_getElem, -Nat.reduceAdd]
  · simp [fKind, encMmx, BitVec.extractLsb'_append_eq_of_le, -Nat.reduceAdd]
  · simp [encMmx, BitVec.extractLsb'_append_eq_of_add_le, -Nat.reduceAdd]

theorem decXfer_encXfer {k : BitVec 5} {w y : Word} {x : XferOp} (h : encXfer k x = [w, y]) (i : XferOp → Instr) :
    decXfer w y i = fin (i x) true := by
  obtain ⟨s, dk, tk, la, n⟩ := x
  cases s <;> cases h <;>
  simp [decXfer, BitVec.extractLsb'_append_eq_of_le, BitVec.extractLsb'_append_eq_of_add_le, -Nat.reduceAdd]

@[simp] theorem decTable_encTable (k : BitVec 5) (bk : BitVec 5) (tk : BitVec 3) (la : BitVec 4) (tsel : BitVec 2) (i : TableOp → Instr) :
    decTable (packFMM 0x6D#7 unusedCode bk 0#5 false tk la) (k ++ tsel ++ 0#25) i = fin (i ⟨bk, tk, la, tsel⟩) true := by
  simp [decTable, BitVec.extractLsb'_append_eq_of_le, BitVec.extractLsb'_append_eq_of_add_le, -Nat.reduceAdd]

@[simp] theorem decXlx_lfold (d a : Code) (j : BitVec 4) (m : XlMod) :
    decXlx (packFQ 0x62#7 d a unusedCode j) (encXlx false m.rop m.signed m.la m.tk) = fin (.lfold d a j m) true := by
  simp [decXlx]

@[simp] theorem decXlx_lsame (d a : Code) (j : BitVec 4) (all : Bool) (la : BitVec 4) (tk : BitVec 3) :
    decXlx (packFQ 0x62#7 d a unusedCode j) (encXlx true (if all then 1#3 else 0#3) false la tk) = fin (.lsame d a j all la tk) true := by
  cases all <;> simp [decXlx]

/-- What POLL and LEAD hold in place of B and J. -/
theorem decPoll_packFQ (d : Code) (form : BitVec 2) (p : PredRef) (j : BitVec 4) :
    let w := packFQ 0x61#7 d unusedCode (form ++ 0#1 ++ p) j
    w.extractLsb' 9 2 = form ∧ w.extractLsb' 4 4 = p ∧ w[8] = false := by
  simp [packFQ, BitVec.extractLsb'_append_eq_of_le, BitVec.extractLsb'_append_eq_of_add_le, BitVec.getLsbD_append,
    ← BitVec.getLsbD_eq_getElem, -Nat.reduceAdd]

@[simp] theorem ite_ne_three (s : Bool) : ((if s = true then 0#2 else 1#2) == 3#2) = false ∧ ((if s = true then 1#2 else 0#2) == 3#2) = false := by
  cases s <;> exact ⟨rfl, rfl⟩

theorem rmodeBits_ne_three {m : RMode} (h : m ≠ .rd) : (rmodeBits m == 3#2) = false := by
  cases m with
  | rd => exact absurd rfl h
  | rn | rz | ru => rfl

theorem shortOff_iff {o : BitVec 4} : shortOff o = true ↔ o ≠ 8#4 := by
  simp [shortOff]

end Sys2Proof

namespace Sys2Proof

open Sys2Proof.Machine

/-- The word's fields lead the decoder to the instruction's class, which reads its operands back: opcodes 0x00 to 0x3F. -/
theorem decodeWords_encode_of_op_lt {i : Instr} (he : i.encoded = true) (h : i.wf = true)
    (hop : (fOp ((encode i).headD 0)).toNat < 0x40) : decodeWords ((encode i).headD 0) ((encode i).getD 1 0) = .ok i := by
  cases i
  all_goals dsimp only [encode, encMma, encTable, List.headD_cons, List.headD_nil, List.getD_cons_succ, List.getD_cons_zero] at hop ⊢
  case add | sub | mul | mulhi | div | rem | min | max | addIt | subIt | mulIt | mulhiIt | divIt | remIt | minIt | maxIt =>
    simp [decodeWords, decodeInt, fin_of_wf h]
  case abs | absIt | not | brev | popc | clz | ctz | promv | mov | demoteFirst | demoteChk | demoteaChk =>
    simp [decodeWords, decodeInt, fin_of_wf h]
  case and | or | xor | andn | shl | shr | sar | rot | proma | add64 | sub64 | shl64 | sad | dp4a | dp2a =>
    simp [decodeWords, decodeInt, fin_of_wf h]
  case addImm | promaImm | movi | movhi | pand | por | pxor | movmRead | movmWrite =>
    simp [decodeWords, decodeInt, fin_of_wf h]
  case shlImm | shrImm | sarImm | rotImm =>
    simp [decodeWords, decodeInt, fin_of_wf h, -BitVec.reduceAppend]
  case addc | subb | mad | madw | bfi | shf =>
    simp [decodeWords, decodeInt, decX, fin_of_wf h]
  case bfe s => cases s <;> simp [decodeWords, decodeInt, fin_of_wf h]
  case lea hw =>
    have hh := (bne_iff_ne ..).mp h
    simp only [decodeWords, decodeInt, encF3_fields]
    simp
    split
    · exact absurd rfl hh
    · exact fin_of_wf h
  case dpxDotForms op _ _ _ _ => cases op <;> simp [decodeWords, decodeInt, dotBits, fin_of_wf h]
  case leaLx | sel | icmp =>
    simp [decodeWords, decodeInt, decX, fin_of_wf h, ext_of_kind, fKind, BitVec.extractLsb'_append_eq_of_le,
      BitVec.extractLsb'_append_eq_of_add_le, BitVec.getLsbD_append, -BitVec.getLsbD_eq_getElem, -Nat.reduceAdd]
  case fadd | fsub | fmul | fmac | fscale =>
    have hm := (bne_iff_ne ..).mp h
    simp [decodeWords, decodeFloat, decR_short hm, fin_of_wf h]
  case frnd m =>
    cases m with
    | rd => cases h
    | rn | rz | ru => simp [decodeWords, decodeFloat, rmodeBits, rmodeOf, fin_of_wf h]
  case faddFmod | fsubFmod | fmulFmod | fmacFmod | fscaleFmod | frndFmod =>
    simp [decodeWords, decodeFloat, fin_of_wf h]
  case fmin b | fmax b | hmax2 b | pack2 b | unpack2 b | xadd b =>
    cases b <;> simp [decodeWords, decodeFloat, fin_of_wf h]
  case hadd2 | hmul2 | hadd2Hmod | hmul2Hmod =>
    simp [decodeWords, decodeFloat, fin_of_wf h]
  case fneg | fclass | xclr | xmov | xfma =>
    simp [decodeWords, decodeFloat, decZ, fin_of_wf h]
  case fexp2 | flog2 | frcp | frsqrt | fsqrt | fdiv | fsin | fcos | ftanh | ffma | hfma2 | fcvt | pack2Cvx | unpack2Cvx | xrd | xscan =>
    simp [decodeWords, decodeFloat, decX, fin_of_wf h]
  case fcmp =>
    simp [decodeWords, decodeFloat, decX, fin_of_wf h, ext_of_kind, fKind, BitVec.extractLsb'_append_eq_of_le,
      BitVec.extractLsb'_append_eq_of_add_le, BitVec.getLsbD_append, -BitVec.getLsbD_eq_getElem, -Nat.reduceAdd]
  all_goals try (cases he; done)
  case mld x | mst x =>
    obtain ⟨sp, dk, tk, la, n⟩ := x
    cases sp <;> simp [encXfer] at hop
  all_goals simp at hop

/-- The same for opcodes 0x40 to 0x7B. -/
theorem decodeWords_encode_of_op_ge {i : Instr} (he : i.encoded = true) (h : i.wf = true)
    (hop : 0x40 ≤ (fOp ((encode i).headD 0)).toNat) : decodeWords ((encode i).headD 0) ((encode i).getD 1 0) = .ok i := by
  cases i
  all_goals dsimp only [encode, encMma, encTable, List.headD_cons, List.headD_nil, List.getD_cons_succ, List.getD_cons_zero] at hop ⊢
  case bra | call | brq | armj | join | waitj | bpt => simp [decodeWords, decodeCore, fin_of_wf h]
  case jmp | callr | ret | exit | yield | nop => simp [decodeWords, decodeCore, decZ, fin_of_wf h]
  case ld | st | lds | sts | ldc | stc | ldwp | pref =>
    have ho := shortOff_iff.mp (Bool.and_eq_true_iff.mp h).2
    simp [decodeWords, decodeCore, decFM_short ho, ho, fin_of_wf h]
  case ldMx | stMx | ldsMx | stsMx | ldcMx | stcMx | qtok => simp [decodeWords, decodeCore, fin_of_wf h]
  case prefMx | ldwpMx =>
    simp [decodeWords, decodeCore, encMx, fin_of_wf h, ext_of_kind, fKind, BitVec.extractLsb'_append_eq_of_le,
      BitVec.extractLsb'_append_eq_of_add_le, -Nat.reduceAdd]
  case atom x =>
    obtain he7 | hu := Bool.or_eq_true_iff.mp (Bool.and_eq_true_iff.mp h).2
    · have ha : x.aop = 7#3 := by simpa using he7
      simp [decodeWords, decodeCore, ha, fin_of_wf h]
    · obtain ⟨aop, w64, sg, c, e⟩ := x
      obtain rfl : e = unusedCode := eq_of_beq hu
      simp [decodeWords, decodeCore, fin_of_wf h]
  case fatom b _ =>
    cases b <;>
    simp [decodeWords, decodeCore, encAx, fin_of_wf h, ext_of_kind, fKind, BitVec.extractLsb'_append_eq_of_le,
      BitVec.extractLsb'_append_eq_of_add_le, BitVec.getLsbD_append, -BitVec.getLsbD_eq_getElem, -Nat.reduceAdd]
  case qpushP | qdepth | tbar | lgetAbs | lgetBelow | lgetAbove | lgetBfly | lfold | lsame | tlp =>
    simp [decodeWords, decodeCore, fin_of_wf h]
  case pollEvery | pollSome | pollMask =>
    simp [decodeWords, decodeCore, decPoll, decPoll_packFQ, fin_of_wf h, -BitVec.reduceAppend]
  case lead =>
    rw [show (3 : BitVec 2) ++ (0 : BitVec 5) = (3 : BitVec 2) ++ (0 : BitVec 1) ++ (0 : BitVec 4) from rfl]
    simp [decodeWords, decodeCore, decPoll, decPoll_packFQ, fin_of_wf h, -BitVec.reduceAppend]
  case mmaBf16 | mmaF16 | mmaE4m3 | mmaE5m2 | mmaE2m1 | mmaVq2 | mmaI8 =>
    simp [decodeWords, decodeSystem, fin_of_wf h]
  case mld x | mst x =>
    obtain ⟨sp, dk, tk, la, n⟩ := x
    cases sp <;>
    simp [encXfer, decodeWords, decodeSystem, decXfer, fin_of_wf h, fKind, BitVec.extractLsb'_append_eq_of_le,
      BitVec.extractLsb'_append_eq_of_add_le, -Nat.reduceAdd]
  case cbld | actld =>
    simp [decodeWords, decodeSystem, fin_of_wf h, fKind, BitVec.extractLsb'_append_eq_of_le, -Nat.reduceAdd]
  case mdrain | mepi | barwait =>
    simp [decodeWords, decodeSystem, decX, encA, fin_of_wf h, ext_of_kind, fKind, BitVec.extractLsb'_append_eq_of_le,
      BitVec.extractLsb'_append_eq_of_add_le, BitVec.getLsbD_append, -BitVec.getLsbD_eq_getElem, -Nat.reduceAdd]
  case mzero | mwait | mtree | cbarArrive | cbarWait | cbarArriveWait | push | gset | gclr | trap | cclean | pclass | rtt | halt |
      sleep | rdsr | wrsr =>
    simp [decodeWords, decodeSystem, fin_of_wf h]
  case barinit | bararr => simp [decodeWords, decodeSystem, decZ, fin_of_wf h]
  all_goals try (cases he; done)
  all_goals simp at hop

/-- A second word follows a minor form of 3, an offset code of 8, or an opcode that always has one. -/
theorem encode_length {i : Instr} (he : i.encoded = true) (h : i.wf = true) :
    (encode i).length = (if hasExt ((encode i).headD 0) then 2 else 1) := by
  cases i
  all_goals dsimp only [encode, encMma, encTable, List.headD_cons, List.headD_nil, List.length_cons, List.length_nil]
  case add s | sub s | mul s | mulhi s | div s | rem s | min s | max s | bfe s | fmin s | fmax s | hadd2 s | hmul2 s | hmax2 s |
      pack2 s | unpack2 s | xadd s =>
    cases s <;> simp [hasExt]
  case fadd m | fsub m | fmul m | fmac m | fscale m | frnd m =>
    cases m with
    | rd => cases h
    | rn | rz | ru => simp [rmodeBits, hasExt]
  case lea hw =>
    have hh := (bne_iff_ne ..).mp h
    simpa [hasExt] using hh
  case ld | st | lds | sts | ldc | stc | ldwp | pref =>
    have ho := shortOff_iff.mp (Bool.and_eq_true_iff.mp h).2
    simp [hasExt, ho]
  case mld x | mst x =>
    obtain ⟨sp, dk, tk, la, n⟩ := x
    cases sp <;> simp [encXfer, hasExt]
  case push => simp [hasExt]
  all_goals try (cases he; done)
  all_goals
    simp only [hasExt, encF3_fields, encF2_fields, encA_fields, encAB_fields, encZ_fields, encFM_fields, packF3_fields,
      packFI_fields, packFQ_fields, packFMM_fields, packFB_fields, packFL_fields, packFM_fields]
    rfl

/-- Settles O52: the words decode to the instruction, and their number is what the first says. -/
theorem encodingRoundTrip : Obligations.EncodingRoundTrip := by
  unfold Obligations.EncodingRoundTrip
  intro i he h
  refine ⟨?_, encode_length he h⟩
  obtain hop | hop := Nat.lt_or_ge (fOp ((encode i).headD 0)).toNat 0x40
  · exact decodeWords_encode_of_op_lt he h hop
  · exact decodeWords_encode_of_op_ge he h hop

end Sys2Proof

/-! What decodes is well formed (03 R82, R83, R98): every class of the decoder ends in `fin`. -/

namespace Sys2Proof

open Sys2Proof.Machine

/-- An outcome of the decoder that is an error or a well-formed instruction that has an encoding. -/
def Sound (e : Except DecodeError Instr) : Prop := ∀ i, e = .ok i → i.wf = true ∧ i.encoded = true

theorem sound_error (e : DecodeError) : Sound (.error e) := nofun

theorem sound_fin {i : Instr} {unused : Bool} (h : i.encoded = true) : Sound (fin i unused) := by
  intro j hj
  unfold fin at hj
  split at hj
  · next hw =>
    split at hj <;> cases hj
    exact ⟨hw, h⟩
  · cases hj

theorem sound_chk {clear : Bool} {k : Except DecodeError Instr} (h : Sound k) : Sound (chk clear k) := by
  cases clear
  · exact sound_error _
  · exact h

theorem sound_ite {p : Prop} [Decidable p] {a b : Except DecodeError Instr} (ha : Sound a) (hb : Sound b) :
    Sound (if p then a else b) := by
  split
  · exact ha
  · exact hb

theorem sound_ext {x : Word} {k : BitVec 5} {n : Nat} {b : Except DecodeError Instr} (h : Sound b) : Sound (ext x k n b) :=
  sound_ite (sound_chk h) (sound_error _)

theorem sound_decX {w : Word} {k : Except DecodeError Instr} (h : Sound k) : Sound (decX w k) :=
  sound_ite h (sound_error _)

theorem sound_decZ {w : Word} {k : Except DecodeError Instr} (h : Sound k) : Sound (decZ w k) :=
  sound_ite h (sound_error _)

theorem sound_onlyA {w : Word} {i : F2 → Instr} (h : ∀ f, (i f).encoded = true) : Sound (onlyA w i) :=
  sound_chk (sound_fin (h _))

theorem sound_onlySrc {w : Word} {i : Code → Bool → Instr} (h : ∀ a ra, (i a ra).encoded = true) : Sound (onlySrc w i) :=
  sound_chk (sound_fin (h ..))

theorem sound_twoSrc {w : Word} {i : Code → Code → Bool → Bool → Instr} (h : ∀ a b ra rb, (i a b ra rb).encoded = true) :
    Sound (twoSrc w i) :=
  sound_fin (h ..)

theorem sound_noOperand {w : Word} {i : Instr} (h : i.encoded = true) : Sound (noOperand w i) :=
  sound_chk (sound_fin h)

theorem sound_predForm {w : Word} {i : BitVec 3 → PredRef → PredRef → Instr} (h : ∀ d a b, (i d a b).encoded = true) :
    Sound (predForm w i) :=
  sound_chk (sound_fin (h ..))

theorem sound_decT {w x : Word} {short : F3 → Bool → Instr} {long : F3 → ItMod → Instr} (hs : ∀ f s, (short f s).encoded = true)
    (hl : ∀ f m, (long f m).encoded = true) : Sound (decT w x short long) := by
  unfold decT
  split
  · exact sound_fin (hs ..)
  · exact sound_fin (hs ..)
  · exact sound_error _
  · exact sound_ext (sound_fin (hl ..))

theorem sound_decR {w x : Word} {short : F3 → RMode → Instr} {long : F3 → FMod → Instr} (hs : ∀ f m, (short f m).encoded = true)
    (hl : ∀ f m, (long f m).encoded = true) : Sound (decR w x short long) := by
  unfold decR
  split
  · exact sound_ext (sound_fin (hl ..))
  · exact sound_fin (hs ..)

theorem sound_decH {w x : Word} {short : F3 → Bool → Instr} {long : F3 → Bool → FMod → Instr}
    (hs : ∀ f b, (short f b).encoded = true) (hl : ∀ f b m, (long f b m).encoded = true) : Sound (decH w x short long) := by
  unfold decH
  split
  · exact sound_fin (hs ..)
  · exact sound_fin (hs ..)
  · exact sound_error _
  · exact sound_ext (sound_fin (hl ..))

theorem sound_decSF {w x : Word} {i : F2 → SfMod → Instr} (h : ∀ f m, (i f m).encoded = true) : Sound (decSF w x i) :=
  sound_decX (sound_chk (sound_ext (sound_fin (h ..))))

theorem sound_decFM {w x : Word} {short : Fm → BitVec 4 → Instr} {long : Fm → MxMod → Instr}
    (hs : ∀ m o, (short m o).encoded = true) (hl : ∀ m y, (long m y).encoded = true) : Sound (decFM w x short long) :=
  sound_ite (sound_ext (sound_fin (hl ..))) (sound_fin (hs ..))

theorem sound_decMma {w x : Word} {i : MmaOp → Instr} (h : ∀ m, (i m).encoded = true) : Sound (decMma w x i) :=
  sound_ext (sound_fin (h _))

theorem encoded_mld (y : XferOp) : (Instr.mld y).encoded = true := by
  obtain ⟨sp, dk, tk, la, n⟩ := y
  cases sp <;> rfl

theorem encoded_mst (y : XferOp) : (Instr.mst y).encoded = true := by
  obtain ⟨sp, dk, tk, la, n⟩ := y
  cases sp <;> rfl

theorem sound_decXfer {w x : Word} {i : XferOp → Instr} (h : ∀ y, (i y).encoded = true) : Sound (decXfer w x i) :=
  sound_chk (sound_ite (sound_chk (sound_fin (h _))) (sound_ite (sound_fin (h _)) (sound_ite (sound_fin (h _)) (sound_error _))))

theorem sound_decTable {w x : Word} {i : TableOp → Instr} (h : ∀ y, (i y).encoded = true) : Sound (decTable w x i) :=
  sound_chk (sound_fin (h _))

theorem sound_decPoll (w : Word) : Sound (decPoll w) :=
  sound_chk (sound_ite (sound_chk (sound_fin rfl)) (sound_ite (sound_chk (sound_fin rfl))
    (sound_ite (sound_fin rfl) (sound_chk (sound_fin rfl)))))

theorem sound_decXlx (w x : Word) : Sound (decXlx w x) :=
  sound_ext (sound_ite (sound_ite (sound_error _) (sound_fin rfl)) (sound_fin rfl))

/-! The tables: each arm is peeled down to `fin`, and the instruction named there has words. -/

theorem sound_decodeInt (w x : Word) : Sound (decodeInt w x) := by
  unfold decodeInt
  repeat' split
  any_goals with_reducible apply sound_decT
  any_goals with_reducible apply sound_onlyA
  any_goals with_reducible apply sound_predForm
  any_goals with_reducible apply sound_decX
  any_goals with_reducible apply sound_chk
  any_goals with_reducible apply sound_ext
  any_goals with_reducible apply sound_fin
  any_goals with_reducible apply sound_error
  all_goals intros; rfl

theorem sound_decodeFloat (w x : Word) : Sound (decodeFloat w x) := by
  unfold decodeFloat
  repeat' split
  any_goals with_reducible apply sound_decR
  any_goals with_reducible apply sound_decH
  any_goals with_reducible apply sound_decSF
  any_goals with_reducible apply sound_decX
  any_goals with_reducible apply sound_decZ
  any_goals with_reducible apply sound_onlyA
  any_goals with_reducible apply sound_chk
  any_goals with_reducible apply sound_ext
  any_goals with_reducible apply sound_chk
  any_goals with_reducible apply sound_fin
  any_goals with_reducible apply sound_error
  all_goals intros; rfl

theorem sound_decodeCore (w x : Word) : Sound (decodeCore w x) := by
  unfold decodeCore
  repeat' split
  any_goals with_reducible apply sound_decFM
  any_goals with_reducible apply sound_decPoll
  any_goals with_reducible apply sound_decXlx
  any_goals with_reducible apply sound_decZ
  any_goals with_reducible apply sound_onlySrc
  any_goals with_reducible apply sound_noOperand
  any_goals with_reducible apply sound_chk
  any_goals with_reducible apply sound_ext
  any_goals with_reducible apply sound_fin
  any_goals with_reducible apply sound_error
  all_goals intros; rfl

theorem sound_decodeSystem (w x : Word) : Sound (decodeSystem w x) := by
  unfold decodeSystem
  repeat' split
  any_goals with_reducible apply sound_decMma
  any_goals with_reducible apply sound_decTable
  any_goals with_reducible apply sound_decXfer
  any_goals with_reducible apply sound_decX
  any_goals with_reducible apply sound_decZ
  any_goals with_reducible apply sound_onlySrc
  any_goals with_reducible apply sound_twoSrc
  any_goals with_reducible apply sound_noOperand
  any_goals with_reducible apply sound_chk
  any_goals with_reducible apply sound_ext
  any_goals with_reducible apply sound_fin
  any_goals with_reducible apply sound_error
  any_goals with_reducible exact encoded_mld
  any_goals with_reducible exact encoded_mst
  all_goals intros; rfl

/-- Settles O53: each of the four tables is sound. -/
theorem decodingWellFormed : Obligations.DecodingWellFormed := by
  unfold Obligations.DecodingWellFormed
  intro w x i h
  refine (?_ : Sound (decodeWords w x)) i h
  exact sound_ite (sound_decodeInt w x) (sound_ite (sound_decodeFloat w x)
    (sound_ite (sound_decodeCore w x) (sound_decodeSystem w x)))

end Sys2Proof

/-! What a step does (03 R73, R94, R96; 14 R353; 17 R437). -/

namespace Sys2Proof.Machine

open Sys2Proof

/-! The turn of a slot. -/

/-- A slot whose clock runs and whose operands are collected takes its turn. -/
theorem stepSlot_of_collects {s : State} {n : Nat} {r : Run} (hr : s.runs.find n = some r) (hc : s.clockRuns (slotCore n / 96) = true)
    (ho : s.collects n r = true) : s.stepSlot n = if r.left = 0 then .next (s.nextClause n) else s.issueNext n r := by
  simp [State.stepSlot, hr, hc, ho]

theorem issueNext_of_ok {s : State} {n : Nat} {r : Run} {w : Word} {ws : List Word} (hr : r.code = w :: ws) {i : Instr}
    (hi : decodeWords w (ws.headD 0) = .ok i) (hj : (s.arrive n r).armjLate r i = false) :
    s.issueNext n r = s.thaw n r (exec i (s.arrive n r)) := by
  simp only [State.issueNext, hr, hi, hj, Bool.false_eq_true, if_false]

theorem issueNext_of_error {s : State} {n : Nat} {r : Run} {w : Word} {ws : List Word} (hr : r.code = w :: ws) {e : DecodeError}
    (he : decodeWords w (ws.headD 0) = .error e) : s.issueNext n r = .next ((s.arrive n r).faultRun r w e) := by
  simp only [State.issueNext, hr, he]

/-! The turn of a queue. -/

section
variable {s : State} {q : Nat} {c : QCmd} (hc : s.headCmd q = some c) (hk : queueKind q = 1 ∨ s.clockRuns (q / 32) = true)
include hc hk

theorem stepQueue_of_guard (hg : c.guard ≠ 0 ∧ c.started = false) : s.stepQueue q = exec (.guardConsume q) s := by
  have hrun : ¬ (queueKind q ≠ 1 ∧ (!s.clockRuns (q / 32)) = true) := by
    rcases hk with hk | hk <;> simp [hk]
  simp only [State.stepQueue, hc, if_neg hrun]
  exact if_pos (by simpa using hg)

theorem stepQueue_of_ok (hg : ¬ (c.guard ≠ 0 ∧ c.started = false)) {i : Instr}
    (hi : decodeCommand q (queueKind q) c.drained c.bytes = .ok i) : s.stepQueue q = exec i s := by
  have hrun : ¬ (queueKind q ≠ 1 ∧ (!s.clockRuns (q / 32)) = true) := by
    rcases hk with hk | hk <;> simp [hk]
  simp only [State.stepQueue, hc, if_neg hrun, hi]
  exact if_neg (by simpa using hg)

end

/-! The words of a clause. -/

/-- Code words lie four bytes apart, addresses wrapping at 64 bits. -/
theorem fetchWords_words {s : State} {g : Group} {slot va n : Nat} {ws : List Word} (hva : va < 2 ^ 64)
    (h : s.fetchWords g slot va n = .words ws) :
    ws.length = n ∧ ∀ i w, ws[i]? = some w → ∃ key, s.codeAt g slot ((va + 4 * i) % 2 ^ 64) = .ok key ∧
      s.poisonIn key 4 = false ∧ w = s.wordAt key := by
  induction n generalizing va ws with
  | zero =>
    cases h
    exact ⟨rfl, fun i w hw => nomatch hw⟩
  | succ n ih =>
    unfold State.fetchWords at h
    split at h
    case h_1 key hkey =>
      split at h
      · cases h
      · next hp =>
        split at h
        · next rest hrest =>
          cases h
          obtain ⟨hlen, hat⟩ := ih (Nat.mod_lt _ (by norm_num)) hrest
          refine ⟨by simp [hlen], fun i w hw => ?_⟩
          cases i with
          | zero =>
            cases hw
            exact ⟨key, by rwa [Nat.mul_zero, Nat.add_zero, Nat.mod_eq_of_lt hva], by simpa using hp, rfl⟩
          | succ i =>
            obtain ⟨k, hk, hpk, hwk⟩ := hat i w hw
            refine ⟨k, ?_, hpk, hwk⟩
            rwa [Nat.mod_add_mod, Nat.add_assoc, Nat.add_comm 4, ← Nat.mul_succ] at hk
        · next hne => exact absurd h (hne ws)
    case h_2 => cases h
    case h_3 => cases h

theorem clauseWords_clause {s : State} {g : Group} {st : Stream} {slot : Nat} {c d : Clause}
    (h : s.clauseWords g st slot c = .clause d) : d.hdr = c.hdr ∧ d.head = c.head ∧
      ∃ ws, s.fetchWords g slot ((c.hdr.toNat + 4) % 2 ^ 64) (hdrCount c.head) = .words ws ∧ d.words = ws.drop c.skip := by
  unfold State.clauseWords at h
  split at h
  · cases h
  · cases h
  · next ws hws =>
    cases h
    exact ⟨rfl, rfl, ws, hws, rfl⟩

/-- The clause read behind a header: as many words as the header counts, less those left out, each the word that memory holds
at its place. -/
theorem clauseWords_words {s : State} {g : Group} {st : Stream} {slot : Nat} {c d : Clause}
    (h : s.clauseWords g st slot c = .clause d) : d.words.length = hdrCount c.head - c.skip ∧
      ∀ i w, d.words[i]? = some w → ∃ key, s.codeAt g slot ((c.hdr.toNat + 4 + 4 * (c.skip + i)) % 2 ^ 64) = .ok key ∧
        s.poisonIn key 4 = false ∧ w = s.wordAt key := by
  obtain ⟨-, -, ws, hws, hd⟩ := clauseWords_clause h
  obtain ⟨hlen, hat⟩ := fetchWords_words (Nat.mod_lt _ (by norm_num)) hws
  refine ⟨by rw [hd, List.length_drop, hlen], fun i w hw => ?_⟩
  rw [hd, List.getElem?_drop] at hw
  simpa only [Nat.mod_add_mod] using hat _ w hw

/-! A slot that its instruction freezes (03 R94). -/

/-- What a wait leaves of a group whose stream `st` waits: its registers and the results that are to land. -/
structure StallKeeps (st : Stream) (g h : Group) : Prop where
  v : h.v = g.v
  k : h.k = g.k
  a : h.a = g.a
  p : h.p = g.p
  q : h.q = g.q
  fpstat : h.fpstat = g.fpstat
  landing : (h.stream st).landing = (g.stream st).landing

theorem StallKeeps.refl (st : Stream) (g : Group) : StallKeeps st g g := ⟨rfl, rfl, rfl, rfl, rfl, rfl, rfl⟩

theorem StallKeeps.waits {st : Stream} {g h : Group} (hk : StallKeeps st g h) (why : WaitReason) :
    StallKeeps st g (h.modStream st (fun x => { x with waiting := some why })) := by
  obtain ⟨hv, hkr, ha, hp, hq, hf, hl⟩ := hk
  cases st <;> exact ⟨hv, hkr, ha, hp, hq, hf, hl⟩

theorem stallKeeps_modGroup {s t : State} {k : Nat} {st : Stream} {why : WaitReason}
    (h : ∀ i g, s.groups.find i = some g → ∃ x, t.groups.find i = some x ∧ StallKeeps st g x) {i : Nat} {g : Group}
    (hg : s.groups.find i = some g) :
    ∃ x, (t.modGroup k (fun g => g.modStream st (fun x => { x with waiting := some why }))).groups.find i = some x ∧ StallKeeps st g x := by
  obtain ⟨x, hx, hk⟩ := h i g hg
  by_cases hi : i = k
  · subst hi
    exact ⟨_, by rw [modGroup_find, hx, Option.map_some], hk.waits why⟩
  · exact ⟨x, by rw [modGroup_find_ne _ _ hi, hx], hk⟩

/-- A bundle that waits keeps teams and memory, and of each group its registers and what is to land. -/
theorem stall_frame (s : State) (r : Run) (why : WaitReason) : (s.stall r why).teams = s.teams ∧ (s.stall r why).mem = s.mem ∧
    ∀ i g, s.groups.find i = some g → ∃ x, (s.stall r why).groups.find i = some x ∧ StallKeeps r.stream g x := by
  unfold State.stall
  generalize hu : s.modRun s.cur _ = u
  have hstart : u.teams = s.teams ∧ u.mem = s.mem ∧ ∀ i g, s.groups.find i = some g → ∃ x, u.groups.find i = some x ∧ StallKeeps r.stream g x := by
    subst hu
    exact ⟨rfl, rfl, fun i g hg => ⟨g, hg, .refl _ g⟩⟩
  clear hu
  induction r.members generalizing u with
  | nil => exact hstart
  | cons m ms ih =>
    obtain ⟨hteams, hmem, hgroups⟩ := hstart
    exact ih _ ⟨hteams, hmem, fun i g hg => stallKeeps_modGroup hgroups hg⟩

/-! What a move that is held, and a slot that is frozen, give. -/

theorem unlessHeld_of_not_held {s : State} {o : Host.Outcome State Fault Refusal} (h : ∀ t, o = .next t → t.held = false) :
    s.unlessHeld o = o := by
  cases o with
  | next t => simp [State.unlessHeld, h t rfl]
  | _ => rfl

theorem unlessHeld_of_held {s t : State} (h : t.held = true) : s.unlessHeld (.next t) = .next s := by
  simp [State.unlessHeld, h]

theorem thaw_of_not_stalled {s t : State} {n : Nat} {r : Run} (h : ∀ q, t.runs.find n = some q → q.stalled = none) :
    s.thaw n r (.next t) = .next t := by
  have hnone : (t.runs.find n).bind (fun x => x.stalled) = none := Option.bind_eq_none_iff.2 h
  simp only [State.thaw, hnone]

theorem thaw_of_stalled {s t : State} {n : Nat} {r q : Run} {w : WaitReason} (hq : t.runs.find n = some q) (hw : q.stalled = some w) :
    s.thaw n r (.next t) =
      .next (({ t with groups := s.groups, teams := s.teams, bad := s.bad, runs := s.runs } : State).stall r w) := by
  simp only [State.thaw, hq, Option.bind_some, hw]

/-! The agenda's move. -/

theorem step_of_agenda {s : State} {d : Nat} {m : Move} {rest : List Timed} (h : s.agenda = ⟨d, m⟩ :: rest) :
    step s = (({ s with agenda := rest } : State).pass d).unlessHeld ((({ s with agenda := rest } : State).pass d).move m) := by
  simp only [step, State.advanceOne, h]

/-- The turn of a slot: exec of what its words decode to, the next clause at its end, a trap where they do not decode. -/
theorem move_slot {x : State} {n : Nat} {r : Run} (hr : x.runs.find n = some r) (hc : x.clockRuns (slotCore n / 96) = true)
    (ho : x.collects n r = true) :
    (r.code = [] → x.move (.slot n) = .next (x.nextClause n)) ∧
    ∀ w ws, r.code = w :: ws →
      (∀ i, decodeWords w (ws.headD 0) = .ok i → (x.arrive n r).armjLate r i = false →
        x.move (.slot n) = x.thaw n r (exec i (x.arrive n r))) ∧
      (∀ e, decodeWords w (ws.headD 0) = .error e → x.move (.slot n) = .next ((x.arrive n r).faultRun r w e)) := by
  have hturn : x.move (.slot n) = if r.left = 0 then .next (x.nextClause n) else x.issueNext n r := stepSlot_of_collects hr hc ho
  refine ⟨fun hnil => ?_, fun w ws hcons => ?_⟩
  · rw [hturn, if_pos (by simp [Run.left, hnil])]
  · rw [hturn, if_neg (by simp [Run.left, hcons])]
    exact ⟨fun i hi hj => issueNext_of_ok hcons hi hj, fun e he => issueNext_of_error hcons he⟩

theorem move_event {x : State} {e : Instr} (he : isEvent e = true) (hf : x.frozenEvent e = false) : x.move (.event e) = exec e x := by
  simp [State.move, he, hf]

theorem move_event_refused {x : State} {e : Instr} (he : isEvent e = false) : x.move (.event e) = .refused .agendaNotEvent := by
  simp [State.move, he]

/-- Settles O55, a lemma for each kind of move and for each of what may hold it. -/
theorem stepRunsDecoded : Obligations.StepRunsDecoded := by
  unfold Obligations.StepRunsDecoded
  refine ⟨fun s d m rest hag => ?_, fun s g st slot c d hcl => ?_, fun s o => unlessHeld_of_not_held,
    fun s t => unlessHeld_of_held, fun s t n r => thaw_of_not_stalled, fun s t n r q w hq hw => ?_⟩
  · rw [step_of_agenda hag]
    refine ⟨fun n r hm hr hc ho => ?_, fun q c hm hc hk => ?_, fun e hm => ?_⟩
    · subst hm
      obtain ⟨hnil, hcons⟩ := move_slot hr hc ho
      exact ⟨fun h => congrArg _ (hnil h), fun w ws h =>
        ⟨fun i hi hj => congrArg _ ((hcons w ws h).1 i hi hj), fun e he => congrArg _ ((hcons w ws h).2 e he)⟩⟩
    · subst hm
      exact ⟨fun hg => congrArg _ (stepQueue_of_guard hc hk hg), fun hg i hi => congrArg _ (stepQueue_of_ok hc hk hg hi)⟩
    · subst hm
      exact ⟨fun he hf => congrArg _ (move_event he hf), fun he => congrArg _ (move_event_refused he)⟩
  · obtain ⟨hhdr, hhead, -⟩ := clauseWords_clause hcl
    obtain ⟨hlen, hwords⟩ := clauseWords_words hcl
    exact ⟨hhdr, hhead, hlen, hwords⟩
  · obtain ⟨hteams, hmem, hgroups⟩ :=
      stall_frame ({ t with groups := s.groups, teams := s.teams, bad := s.bad, runs := s.runs } : State) r w
    refine ⟨_, thaw_of_stalled hq hw, hteams, hmem, fun k g hg => ?_⟩
    obtain ⟨h, hh, hv, hkr, ha, hp, hq', hf, hl⟩ := hgroups k g hg
    exact ⟨h, hh, hv, hkr, ha, hp, hq', hf, hl⟩

end Sys2Proof.Machine

/-! A pending instruction whose completion counter stays as it is (03 R93). -/

namespace Sys2Proof.Machine

open Sys2Proof

/-- A group that runs, with 1 in place 0 of its address stream's counters. The counters of 03 R93 are 1 to 6; place 0 belongs to
TK = 0, which counts nothing. -/
def uncountedGroup : Group :=
  let g := Group.start (LaunchRec.of []) ⟨0, 0, 0, 0, 0, 0, 0, 0, 0, 0, 0, 0, 0⟩
  { g with sa := { g.sa with tk := g.sa.tk.set 0 1 } }

/-- A pending instruction of TK = 0 that has no access and no result left. -/
def uncountedOp : VOp := ⟨0, 0, .addr, .sfu, true, .load, 0, 0, none, [], [], false, [], 0, [], none, ⟨2, false, false, 0⟩, 8, 0⟩

/-- The machine after reset, with that group and that instruction. -/
def uncountedState : State := { State.reset with groups := [(0, uncountedGroup)], ops := [(9, uncountedOp)] }

theorem uncountedOp_done : OpDone uncountedState 9 uncountedOp uncountedGroup where
  found := rfl
  performed := rfl
  group := rfl
  running := rfl
  untrapped := rfl
  live := by decide +kernel
  unkilled := by
    intro e he
    obtain rfl : e = (0, uncountedGroup) := List.mem_singleton.1 he
    rfl
  clean := ⟨rfl, fun r hr => nomatch hr⟩
  own := fun w hw => nomatch hw

/-- Place 0 of the counters of group 0's address stream. -/
def placeZeroOf : Host.Outcome State Fault Refusal → Option Nat
  | .next t => (t.groups.find 0).map (fun h => (h.stream .addr).count 0)
  | _ => none

/-- TK = 0 counts nothing: the completion leaves the 1 there. -/
theorem placeZeroOf_sfuComplete : placeZeroOf (exec (.sfuComplete 9 0) uncountedState) = some 1 := by decide +kernel

/-- Refutes O14: an instruction of TK = 0 counts in no counter (03 R93), so that its completion does not count place 0 down;
a group with 1 in that place, which the premises allow, still has 1 in it. -/
theorem not_completions : ¬ Obligations.Completions := by
  unfold Obligations.Completions
  rintro ⟨-, -, hends⟩
  obtain ⟨hlanes, -⟩ := hends uncountedState 9 uncountedOp uncountedGroup uncountedOp_done
  obtain ⟨-, -, -, -, hsfu, -⟩ := hlanes 0 (fun r hr => nomatch hr)
  obtain ⟨t, ht, -, -, h, hh, -, hcount, -⟩ := hsfu rfl
  have hone : (t.groups.find 0).map (fun h => (h.stream .addr).count 0) = some 1 := by
    have := placeZeroOf_sfuComplete
    rwa [ht] at this
  rw [show t.groups.find 0 = some h from hh, Option.map_some, Option.some_inj] at hone
  have hzero : (h.stream .addr).count 0 = 0 := hcount
  omega

end Sys2Proof.Machine

/-! What a fixed-latency instruction leaves unchanged of the groups of the machine (03 R88, R89; 01 R22): an invariant that
everything which happens at the issue of an instruction keeps. -/

namespace Sys2Proof.Machine

open Sys2Proof

/-! One group. -/

/-- What a stream has issued and has not landed names only writes of a list. -/
def StreamState.Owes (x : StreamState) (ws : List RegWrite) : Prop := ∀ l, l ∈ x.landing ∨ l ∈ x.late → l.writes ⊆ ws

/-- The fields of a group that no landing result names. -/
def Group.setup (g : Group) : LaunchRec × Vector Word 16 × Vector Abacus 4 × Row × Vector Dword 32 × BitVec 160 :=
  (g.cfg, g.j, g.x, g.seed, g.sptr, g.epi)

/-- The registers of a group in which results land. -/
def Group.regFile (g : Group) : Vector Row 64 × Vector Word 32 × Vector Affine 16 × Vector Word 8 × Row :=
  (g.v, g.k, g.a, g.p, g.fpstat)

/-- `h` is `g` with no register changed and with no more to land. -/
structure Idle (g h : Group) : Prop where
  setup : h.setup = g.setup
  regFile : h.regFile = g.regFile
  owes : ∀ st ws, (g.stream st).Owes ws → (h.stream st).Owes ws

/-- `h` is `g` with no register element changed that none of `ws` names, and with only writes of `ws` to land. -/
structure Kept (ws : List RegWrite) (g h : Group) : Prop where
  setup : h.setup = g.setup
  varying : ∀ n L, n < 64 → (∀ x, RegWrite.vElem n L x ∉ ws) → h.vElem n L = g.vElem n L
  uniform : ∀ n : Fin 32, (∀ x, RegWrite.kReg n x ∉ ws) → h.k[n] = g.k[n]
  affine : ∀ n : Fin 16, (∀ b st, RegWrite.aReg n b st ∉ ws) → h.a[n] = g.a[n]
  preds : ∀ n L, n < 8 → (∀ b, RegWrite.pBit n L b ∉ ws) → h.pred n L = g.pred n L
  fpstat : ∀ L : Fin 32, (∀ f, RegWrite.flags L f ∉ ws) → h.fpstat[L] = g.fpstat[L]
  owes : ∀ st, (h.stream st).Owes ws

theorem mem_dueWrites_of_stream {g : Group} {st : Stream} {l : Landing} {ws : List RegWrite} {w : RegWrite}
    (hl : l ∈ (g.stream st).landing ∨ l ∈ (g.stream st).late) (hw : w ∈ l.writes) : w ∈ dueWrites g ws := by
  refine List.mem_append_left _ (List.mem_flatMap.2 ⟨l, ?_, hw⟩)
  simp only [List.mem_append]
  cases st <;> rcases hl with h | h
  · exact .inl (.inl (.inl h))
  · exact .inl (.inl (.inr h))
  · exact .inl (.inr h)
  · exact .inr h

theorem owes_dueWrites (g : Group) (st : Stream) (ws : List RegWrite) : (g.stream st).Owes (dueWrites g ws) :=
  fun _ hl _ hw => mem_dueWrites_of_stream hl hw

/-- A group as it is, under the writes due in it. -/
theorem Kept.start (g : Group) (ws : List RegWrite) : Kept (dueWrites g ws) g g :=
  ⟨rfl, fun _ _ _ _ => rfl, fun _ _ => rfl, fun _ _ => rfl, fun _ _ _ _ => rfl, fun _ _ => rfl, fun st => owes_dueWrites g st ws⟩

theorem Kept.idle {ws : List RegWrite} {g h k : Group} (hk : Kept ws g h) (hi : Idle h k) : Kept ws g k := by
  obtain ⟨hsetup, hreg, howes⟩ := hi
  simp only [Group.regFile, Prod.mk.injEq] at hreg
  obtain ⟨hv, hkr, ha, hp, hf⟩ := hreg
  refine ⟨hsetup.trans hk.setup, fun n L hn hw => ?_, fun n hw => ?_, fun n hw => ?_, fun n L hn hw => ?_, fun L hw => ?_,
    fun st => howes st ws (hk.owes st)⟩
  · rw [← hk.varying n L hn hw, Group.vElem, Group.vElem, hv]
  · rw [hkr, hk.uniform n hw]
  · rw [ha, hk.affine n hw]
  · rw [← hk.preds n L hn hw, Group.pred, Group.pred, hp]
  · rw [hf, hk.fpstat L hw]

theorem Idle.refl (g : Group) : Idle g g := ⟨rfl, rfl, fun _ _ h => h⟩

theorem Idle.trans {g h k : Group} (hgh : Idle g h) (hhk : Idle h k) : Idle g k :=
  ⟨hhk.setup.trans hgh.setup, hhk.regFile.trans hgh.regFile, fun st ws h => hhk.owes st ws (hgh.owes st ws h)⟩

theorem stream_modStream (g : Group) (st : Stream) (f : StreamState → StreamState) (st' : Stream) :
    (g.modStream st f).stream st' = if st' = st then f (g.stream st) else g.stream st' := by
  cases st <;> cases st' <;> rfl

/-- A change of a stream after which it owes nothing new. -/
theorem Kept.modStream {ws : List RegWrite} {g h : Group} (hk : Kept ws g h) (st : Stream) {f : StreamState → StreamState}
    (hf : (f (h.stream st)).Owes ws) : Kept ws g (h.modStream st f) := by
  have howes (st' : Stream) : ((h.modStream st f).stream st').Owes ws := by
    rw [stream_modStream]
    split
    · exact hf
    · exact hk.owes st'
  obtain ⟨hsetup, hv, hkr, ha, hp, hfl, -⟩ := hk
  cases st <;> exact ⟨hsetup, hv, hkr, ha, hp, hfl, howes⟩

/-- A change of a stream that leaves it no more to land. -/
theorem idle_modStream (g : Group) (st : Stream) {f : StreamState → StreamState}
    (hf : ∀ ws, (g.stream st).Owes ws → (f (g.stream st)).Owes ws) : Idle g (g.modStream st f) := by
  have howes (st' : Stream) (ws : List RegWrite) (h : (g.stream st').Owes ws) : ((g.modStream st f).stream st').Owes ws := by
    rw [stream_modStream]
    split
    · next heq => exact hf ws (heq ▸ h)
    · exact h
  cases st <;> exact ⟨rfl, rfl, howes⟩

theorem idle_modLanes (g : Group) (st : Stream) (m : Word) (f : LaneCtl → LaneCtl) : Idle g (g.modLanes st m f) := by
  unfold Group.modLanes
  exact idle_modStream g st (fun _ h l hl => h l hl)

theorem idle_setPc (g : Group) (st : Stream) (m : Word) (pc : Dword) (k : PcKind) : Idle g (g.setPc st m pc k) := idle_modLanes ..

/-- A trap is entered with a compute stream that owes what it owed. -/
theorem idle_trapFields (g : Group) (sv : Vector SavedLane 32) (r : TrapRegs) {x : StreamState} (hx : ∀ ws, g.sc.Owes ws → x.Owes ws) :
    Idle g { g with saved := sv, regs := r, trapMode := true, pendingTrap := none, sc := x } :=
  ⟨rfl, rfl, fun st ws h => match st, h with
    | .addr, h => h
    | .comp, h => hx ws h⟩

theorem idle_enterTrap (g : Group) (p : PendingTrap) : Idle g (g.enterTrap p) := by
  unfold Group.enterTrap
  refine Idle.trans (idle_trapFields g _ _ ?_) (idle_modLanes ..)
  exact fun _ h l hl => h l hl

theorem idle_pop (g : Group) (u : Uses) (m : Word) : Idle g (g.pop u m) := by
  have hq (q : Nat) (L : Fin 32) (n : Nat) (x : Group) : Idle x (x.dequeue q L n) := ⟨rfl, rfl, fun _ _ h => h⟩
  unfold Group.pop
  refine List.foldlRecOn (motive := Idle g) _ _ (.refl g) (fun x hx L _ => ?_)
  exact List.foldlRecOn (motive := Idle g) _ _ hx (fun y hy q _ => hy.trans (hq q L _ y))

theorem mem_insertLanding {l x : Landing} {ls : List Landing} : x ∈ insertLanding l ls ↔ x = l ∨ x ∈ ls := by
  induction ls with
  | nil => simp [insertLanding]
  | cons y ls ih =>
    unfold insertLanding
    split
    · exact List.mem_cons
    · simp only [List.mem_cons, ih]
      exact or_left_comm

/-- A stream that leaves its run still owes what it owed. -/
theorem owes_leave {x : StreamState} {ws : List RegWrite} (hx : x.Owes ws) (r : Run) (now start : Nat) : (x.leave r now start).Owes ws := by
  have hlate : ∀ l ∈ x.landing.foldl (fun r' l => insertLanding { l with due := r.base now + (l.due - r.adv) } r') x.late, l.writes ⊆ ws := by
    refine List.foldlRecOn (motive := fun ls : List Landing => ∀ l ∈ ls, l.writes ⊆ ws) _ _ (fun l hl => hx l (.inr hl)) (fun ls hls l hl m hm => ?_)
    rcases mem_insertLanding.1 hm with rfl | hm
    · exact hx l (.inl hl)
    · exact hls m hm
  rintro l (hl | hl)
  · exact absurd hl List.not_mem_nil
  · exact hlate l hl

/-- Results that are to land are of those named. -/
theorem Kept.landLater {ws us : List RegWrite} {g h : Group} (hk : Kept ws g h) (hus : us ⊆ ws) (st : Stream) (due : Nat) :
    Kept ws g (h.landLater st due us) := by
  unfold Group.landLater
  split
  · exact hk
  · refine hk.modStream st fun l hl => ?_
    rcases hl with hl | hl
    · rcases mem_insertLanding.1 hl with rfl | hl
      · exact hus
      · exact hk.owes st l (.inl hl)
    · exact hk.owes st l (.inr hl)

/-! What no write names. -/

theorem lastV_eq_none {ws : List RegWrite} {n : Nat} {L : Fin 32} (h : ∀ x, RegWrite.vElem n L x ∉ ws) : lastV ws n L = none := by
  refine List.findSome?_eq_none_iff.2 fun w hw => ?_
  split
  · exact if_neg fun ⟨hk, hM⟩ => h _ (hk ▸ hM ▸ List.mem_reverse.1 hw)
  · rfl

theorem lastK_eq_none {ws : List RegWrite} {n : Nat} (h : ∀ x, RegWrite.kReg n x ∉ ws) : lastK ws n = none := by
  refine List.findSome?_eq_none_iff.2 fun w hw => ?_
  split
  · exact if_neg fun hk => h _ (hk ▸ List.mem_reverse.1 hw)
  · rfl

theorem lastA_eq_none {ws : List RegWrite} {n : Nat} (h : ∀ b st, RegWrite.aReg n b st ∉ ws) : lastA ws n = none := by
  refine List.findSome?_eq_none_iff.2 fun w hw => ?_
  split
  · exact if_neg fun hk => h _ _ (hk ▸ List.mem_reverse.1 hw)
  · rfl

theorem lastP_eq_none {ws : List RegWrite} {n : Nat} {L : Fin 32} (h : ∀ b, RegWrite.pBit n L b ∉ ws) : lastP ws n L = none := by
  refine List.findSome?_eq_none_iff.2 fun w hw => ?_
  split
  · exact if_neg fun ⟨hk, hM⟩ => h _ (hk ▸ hM ▸ List.mem_reverse.1 hw)
  · rfl

theorem flagsIn_eq_zero {ws : List RegWrite} {L : Fin 32} (h : ∀ f, RegWrite.flags L f ∉ ws) : flagsIn ws L = 0 := by
  unfold flagsIn
  refine List.foldlRecOn (motive := fun f : Flags => f = 0) _ _ rfl (fun f hf w hw => ?_)
  split
  · rw [if_neg fun hM => h _ (hM ▸ hw), hf]
  · exact hf

/-- Named writes land. -/
theorem Kept.landed {ws us : List RegWrite} {g h k : Group} (hk : Kept ws g h) (hl : Landed h k us) (hus : us ⊆ ws)
    (hsetup : k.setup = h.setup) (hst : ∀ st, k.stream st = h.stream st) : Kept ws g k := by
  refine ⟨hsetup.trans hk.setup, fun n L hn hno => ?_, fun n hno => ?_, fun n hno => ?_, fun n L hn hno => ?_, fun L hno => ?_,
    fun st => hst st ▸ hk.owes st⟩
  · rw [hl.varying n L hn, lastV_eq_none fun x hx => hno x (hus hx)]
    exact hk.varying n L hn hno
  · rw [hl.uniform n, lastK_eq_none fun x hx => hno x (hus hx)]
    exact hk.uniform n hno
  · rw [hl.affine n, lastA_eq_none fun b st hx => hno b st (hus hx)]
    exact hk.affine n hno
  · rcases Nat.eq_zero_or_pos n with rfl | h0
    · rfl
    · rw [hl.preds n L h0 hn, lastP_eq_none fun b hx => hno b (hus hx)]
      exact hk.preds n L hn hno
  · rw [hl.fpstat L, flagsIn_eq_zero fun f hx => hno f (hus hx), ← hk.fpstat L hno]
    exact BitVec.or_zero

theorem Kept.onGroup {ws : List RegWrite} {g h : Group} (hk : Kept ws g h) {w : RegWrite} (hw : w ∈ ws) : Kept ws g (w.onGroup h) := by
  refine hk.landed (landed_onGroup h w) (List.cons_subset.2 ⟨hw, List.nil_subset _⟩) ?_ (onGroup_stream h w)
  obtain ⟨_, _, _, _, _, _, he⟩ := onGroup_frame h w
  rw [he]
  rfl

end Sys2Proof.Machine

/-! What issuing keeps, operation by operation. -/

namespace Sys2Proof.Machine

open Sys2Proof

/-! The machine. -/

/-- What the frame of an instruction speaks of. -/
def State.store (s : State) : Bytes × Assoc AccRow × Assoc REntry × Assoc Group × Assoc Team :=
  (s.mem, s.acc, s.entries, s.groups, s.teams)

/-- `t` is `s` after nothing but writes of `W k` has landed in group `k`: those may still be to land. -/
structure Framed (s : State) (W : Nat → List RegWrite) (t : State) : Prop where
  mem : t.mem = s.mem
  acc : t.acc = s.acc
  entries : t.entries = s.entries
  groups : ∀ k h, t.groups.find k = some h → ∃ g, s.groups.find k = some g ∧ Kept (W k) g h
  teams : (∀ k n x, RegWrite.mReg n x ∉ W k) → t.teams = s.teams

/-- The writes due in each group, `new` being those of the instruction. -/
def State.dueIn (s : State) (new : Nat → List RegWrite) (k : Nat) : List RegWrite :=
  match s.groups.find k with
  | some g => dueWrites g (new k)
  | none => []

theorem Framed.start (s : State) (new : Nat → List RegWrite) : Framed s (s.dueIn new) s := by
  refine ⟨rfl, rfl, rfl, fun k h hh => ⟨h, hh, ?_⟩, fun _ => rfl⟩
  simp only [State.dueIn, hh]
  exact .start h _

section
variable {s t : State} {W : Nat → List RegWrite} (hf : Framed s W t)
include hf

/-- What changes nothing of what the frame speaks of. -/
theorem Framed.of_store {u : State} (h : u.store = t.store) : Framed s W u := by
  simp only [State.store, Prod.mk.injEq] at h
  obtain ⟨hmem, hacc, hent, hgr, hte⟩ := h
  exact ⟨hmem.trans hf.mem, hacc.trans hf.acc, hent.trans hf.entries, hgr ▸ hf.groups, fun hno => hte.trans (hf.teams hno)⟩

theorem Framed.modGroup (k : Nat) {f : Group → Group} (h : ∀ g x, t.groups.find k = some x → Kept (W k) g x → Kept (W k) g (f x)) :
    Framed s W (t.modGroup k f) := by
  refine ⟨hf.mem, hf.acc, hf.entries, fun i y hy => ?_, hf.teams⟩
  by_cases hi : i = k
  · subst hi
    rw [modGroup_find, Option.map_eq_some_iff] at hy
    obtain ⟨x, hx, rfl⟩ := hy
    obtain ⟨g, hg, hk⟩ := hf.groups i x hx
    exact ⟨g, hg, h g x hx hk⟩
  · rw [modGroup_find_ne _ _ hi] at hy
    exact hf.groups i y hy

theorem Framed.modGroup_idle (k : Nat) {f : Group → Group} (h : ∀ x, Idle x (f x)) : Framed s W (t.modGroup k f) :=
  hf.modGroup k (fun _ x _ hk => hk.idle (h x))

/-- Groups that are killed keep their registers. -/
theorem Framed.killed {u : State} (hmem : u.mem = t.mem) (hacc : u.acc = t.acc) (hent : u.entries = t.entries) (hte : u.teams = t.teams)
    (hgr : SameGroups t.groups u.groups) : Framed s W u := by
  refine ⟨hmem.trans hf.mem, hacc.trans hf.acc, hent.trans hf.entries, fun k h hh => ?_, fun hno => hte.trans (hf.teams hno)⟩
  obtain ⟨p, hp⟩ := hgr.find k
  rw [hp, Option.map_eq_some_iff] at hh
  obtain ⟨x, hx, rfl⟩ := hh
  obtain ⟨g, hg, hk⟩ := hf.groups k x hx
  refine ⟨g, hg, hk.idle ?_⟩
  split
  · exact ⟨rfl, rfl, fun _ _ h => h⟩
  · exact .refl x

theorem Framed.recorded {u : State} (h : Recorded t u) : Framed s W u := by
  obtain ⟨_, _, _, _, _, rfl, -, -, hgr⟩ := h
  exact hf.killed rfl rfl rfl rfl hgr

theorem Framed.killLaunch (l : Nat) : Framed s W (t.killLaunch l) := by
  obtain ⟨_, _, h, -, hgr⟩ := killLaunch_frame t l
  rw [h]
  exact hf.killed rfl rfl rfl rfl hgr

/-- What a group's streams have issued is due in it. -/
theorem Framed.owed {k : Nat} {x : Group} (hx : t.groups.find k = some x) (st : Stream) : (x.stream st).Owes (W k) := by
  obtain ⟨_, _, hk⟩ := hf.groups k x hx
  exact hk.owes st

/-! Landing (03 R88, R89). -/

theorem Framed.land (cyc gid : Nat) {w : RegWrite} (hw : w ∈ W gid) : Framed s W (t.land cyc gid w) := by
  have hrep : Framed s W (t.repair gid w.repairs) := hf.of_store rfl
  cases w with
  | mReg n x =>
    simp only [State.land]
    split
    · exact ⟨hrep.mem, hrep.acc, hrep.entries, hrep.groups, fun hno => absurd hw (hno gid n x)⟩
    · exact hrep
  | _ => exact hrep.modGroup gid (fun _ _ _ hk => hk.onGroup hw)

theorem Framed.landAllWrites (cyc gid : Nat) {ws : List RegWrite} (hws : ws ⊆ W gid) : Framed s W (t.landAllWrites cyc gid ws) := by
  have hunpin : Framed s W (t.unpin gid ws) := by
    obtain ⟨_, h⟩ := unpin_frame t gid ws
    rw [h]
    exact hf.of_store rfl
  refine Framed.modGroup_idle (List.foldlRecOn _ _ hunpin (fun u hu w hw => hu.land cyc gid (hws hw))) gid (fun x => ?_)
  obtain ⟨_, h⟩ := noteLanded_frame x cyc ws
  rw [h]
  exact ⟨rfl, rfl, fun _ _ h => h⟩

theorem Framed.landLate (gid : Nat) (st : Stream) (now : Nat) : Framed s W (t.landLate gid st now) := by
  unfold State.landLate
  split
  · exact hf
  · next g hg =>
    have howed := hf.owed hg st
    refine List.foldlRecOn _ _ (hf.modGroup_idle gid fun x => ?_) (fun u hu l hl => hu.landAllWrites _ _ ?_)
    · exact idle_modStream x st (fun ws h l hl => h l (hl.imp_right List.mem_of_mem_drop))
    · exact howed l (.inr (List.takeWhile_subset _ hl))

theorem Framed.landAll (gid : Nat) (st : Stream) : Framed s W (t.landAll gid st) := by
  unfold State.landAll
  split
  · exact hf
  · exact hf.landLate ..

theorem Framed.landAlls (gid : Nat) : Framed s W ((t.landAll gid .addr).landAll gid .comp) := (hf.landAll gid .addr).landAll gid .comp

/-! Runs. -/

theorem Framed.leaveRun (r : Run) (m : Nat × Word) : Framed s W (t.leaveRun r m) := by
  unfold State.leaveRun
  split
  · exact hf
  · refine Framed.landLate (hf.modGroup m.1 (fun g x hx hk => ?_)) _ _ _
    have hpc := hk.idle (idle_setPc x r.stream m.2 r.place.1 r.place.2)
    exact hpc.modStream r.stream (owes_leave (hpc.owes r.stream) _ _ _)

theorem Framed.endRun (slot : Nat) : Framed s W (t.endRun slot) := by
  unfold State.endRun
  split
  · exact hf
  · exact List.foldlRecOn _ _ (hf.of_store rfl) (fun u hu m _ => hu.leaveRun _ m)

theorem Framed.stopStream (gid : Nat) (st : Stream) : Framed s W (t.stopStream gid st) := by
  unfold State.stopStream
  split
  · exact hf
  · split
    · exact hf.endRun _
    · exact Framed.leaveRun (t := t.modRun _ _) (hf.of_store rfl) _ _

/-! Faults and traps (17). -/

theorem Framed.raise (gid : Nat) (c : Cause) (regs : TrapRegs) : Framed s W (t.raise gid c regs) := by
  refine Framed.modGroup_idle (Framed.landAlls ((hf.stopStream gid .addr).stopStream gid .comp) gid) gid (fun x => ?_)
  split
  · exact .refl x
  · exact ⟨rfl, rfl, fun _ _ h => h⟩

theorem Framed.raiseAt (gid : Nat) (st : Stream) (m : Word) (pc : Dword) (k : PcKind) (f : FaultInfo) :
    Framed s W (t.raiseAt gid st m pc k f) := by
  unfold State.raiseAt
  split
  · exact hf
  · exact (hf.raise ..).modGroup_idle gid (fun x => (idle_setPc x ..).trans (idle_modLanes ..))

theorem Framed.postRecord (f : Nat) (r : FaultRec) : Framed s W (t.postRecord f r) := by
  unfold State.postRecord
  split
  · exact hf.of_store rfl
  · split
    · exact hf.killLaunch _
    · exact hf.of_store rfl

theorem Framed.escalate (gid : Nat) (p : PendingTrap) : Framed s W (t.escalate gid p) := by
  unfold State.escalate
  split
  · exact hf
  · refine Framed.postRecord (hf.modGroup_idle gid (fun x => ?_)) _ _
    exact ⟨rfl, rfl, fun _ _ h => h⟩

theorem Framed.settle (gid : Nat) : Framed s W (t.settle gid) := by
  unfold State.settle
  split
  · exact hf
  · split
    · exact hf
    · split_ifs
      · exact hf
      · exact hf.modGroup_idle gid (fun x => ⟨rfl, rfl, fun _ _ h => h⟩)
      · exact hf.escalate ..
      · exact hf.modGroup_idle gid (fun x => idle_enterTrap x _)

/-! Finishing (07 R176; 10 R258; 16 R418, R422). -/

theorem Framed.haltIfQuiet (gid : Nat) : Framed s W (t.haltIfQuiet gid) := by
  unfold State.haltIfQuiet
  split
  · exact hf
  · split
    · exact (hf.landAlls gid).modGroup_idle gid (fun x => ⟨rfl, rfl, fun _ _ h => h⟩)
    · exact hf

theorem Framed.finishGang (gk : Nat) : Framed s W (t.finishGang gk) := by
  unfold State.finishGang
  split
  · exact hf
  · split
    · exact hf
    · split
      · refine List.foldlRecOn _ _ ?_ (fun u hu x _ => ?_)
        · split <;> exact hf.of_store rfl
        · split
          · exact hu.of_store rfl
          · exact hu
      · exact hf

theorem Framed.finishGroup (gid : Nat) : Framed s W (t.finishGroup gid) := by
  unfold State.finishGroup
  split
  · exact hf
  · have hdone := (hf.landAlls gid).modGroup_idle gid (f := fun g => { g with status := .finished, q := [] })
      (fun x => ⟨rfl, rfl, fun _ _ h => h⟩)
    refine Framed.finishGang (hdone.of_store ?_) _
    rfl

theorem Framed.reap (gid : Nat) : Framed s W (t.reap gid) := by
  unfold State.reap
  split
  · exact hf
  · split_ifs
    · exact hf
    · exact hf.finishGroup gid
    · exact hf

theorem Framed.reapKilled : Framed s W t.reapKilled := List.foldlRecOn _ _ hf (fun _ hu gid _ => hu.reap gid)

theorem Framed.afterWork (gid : Nat) : Framed s W (t.afterWork gid) := (((hf.settle gid).haltIfQuiet gid).reap gid).reapKilled

theorem Framed.stopAhead (c : Ctx) : Framed s W (t.stopAhead c) := by
  unfold State.stopAhead
  split
  · exact hf
  · split
    · exact (hf.stopStream ..).modGroup_idle _ (fun x => idle_setPc x ..)
    · exact hf

/-! The advance of the slot. -/

theorem Framed.breakpoints (r : Run) (due : List ((Nat × Word) × Nat)) (next : Dword) : Framed s W (t.breakpoints r due next) := by
  refine List.foldlRecOn _ _ hf (fun u hu e _ => ?_)
  exact ((hu.modGroup_idle _ (fun x => idle_modStream x _ (fun _ h l hl => h l hl))).raiseAt ..).afterWork _

theorem Framed.tickRun (slot : Nat) : Framed s W (t.tickRun slot) := hf.of_store rfl

theorem Framed.advance (slot words : Nat) (pins : List Nat) (stop : Bool) : Framed s W (t.advance slot words pins stop) := by
  unfold State.advance
  split
  · exact hf
  · have htick := fun f : Run → Run => Framed.tickRun (t := t.modRun slot f) (hf.of_store rfl) slot
    dsimp only
    split
    · split
      · exact ((htick _).endRun slot).breakpoints ..
      · exact htick _
    · split
      · exact (htick _).endRun slot
      · exact htick _

theorem Framed.after (cs : List Ctx) : Framed s W (t.after cs) := by
  have hcs : Framed s W (cs.foldl (fun s c => (s.stopAhead c).afterWork c.gid) t) :=
    List.foldlRecOn _ _ hf (fun _ hu c _ => (hu.stopAhead c).afterWork c.gid)
  exact hcs.of_store rfl

/-! The instruction. -/

theorem Framed.issueFixed (c : Ctx) (u : Uses) (lat : Nat) {ws : List RegWrite} (hws : ws ⊆ W c.gid) :
    Framed s W (t.issueFixed c u lat ws) :=
  (hf.recorded (orderTeam_frame t c.g ws)).modGroup c.gid (fun _ x _ hk => (hk.idle (idle_pop x ..)).landLater hws ..)

theorem Framed.effect (p : LaneRule) (c : Ctx) (hws : p.writes c (c.part p.full) ⊆ W c.gid) : Framed s W (p.effect c t) := by
  unfold LaneRule.effect
  split
  · exact hf
  · exact hf.issueFixed c _ _ hws

theorem Framed.markIssue (gid : Nat) (st : Stream) : Framed s W (t.markIssue gid st) := by
  refine hf.modGroup_idle gid (fun x => ?_)
  have hwait : Idle x (x.modStream st (fun y => { y with waiting := none })) := idle_modStream x st (fun _ h l hl => h l hl)
  exact hwait.trans ⟨rfl, rfl, fun _ _ h => h⟩

theorem Framed.afterIssue (cs : List Ctx) (words : Nat) (pins : List Nat) (stop : Bool) (p : LaneRule)
    (hws : ∀ c ∈ cs, p.writes c (c.part p.full) ⊆ W c.gid) : Framed s W (t.afterIssue cs words pins stop p.effect) := by
  have heff : Framed s W (t.effects cs p.effect) := List.foldlRecOn _ _ hf (fun u hu c hc =>
    Framed.effect (Framed.markIssue (t := u.countWindows c.gid c.st) (hu.of_store rfl) ..) p c (hws c hc))
  exact (heff.advance ..).after cs

end

/-- What an instruction of a rule writes in the groups of a bundle that have a number. -/
def LaneRule.writesIn (p : LaneRule) (cs : List Ctx) (k : Nat) : List RegWrite :=
  (cs.filter (fun c => c.gid == k)).flatMap (fun c => p.writes c (c.part p.full))

theorem dueIn_of_find {s : State} {k : Nat} {g : Group} (hg : s.groups.find k = some g) (new : Nat → List RegWrite) :
    s.dueIn new k = dueWrites g (new k) := by
  simp only [State.dueIn, hg]

theorem dueIn_of_none {s : State} {k : Nat} (hg : s.groups.find k = none) (new : Nat → List RegWrite) : s.dueIn new k = [] := by
  simp only [State.dueIn, hg]

/-- An instruction sees a group that is there. -/
theorem find_of_ctx {s : State} {r : Run} {m : Nat × Word} {c : Ctx} (h : s.ctx r m = some c) : s.groups.find c.gid = some c.g := by
  obtain ⟨g, hg, rfl⟩ := Option.map_eq_some_iff.1 h
  exact hg

/-- What an instruction writes in a group is due there. -/
theorem writes_subset_dueIn {s : State} {r : Run} {cs : List Ctx} (hcs : r.members.filterMap (s.ctx r) = cs) (p : LaneRule) {c : Ctx}
    (hc : c ∈ cs) : p.writes c (c.part p.full) ⊆ s.dueIn (p.writesIn cs) c.gid := by
  obtain ⟨m, -, hm⟩ := List.mem_filterMap.1 (hcs ▸ hc)
  rw [dueIn_of_find (find_of_ctx hm)]
  exact fun w hw => List.mem_append_right _ (List.mem_flatMap.2 ⟨c, List.mem_filter.2 ⟨hc, beq_self_eq_true _⟩, hw⟩)

/-- Settles O57: what issues, advances, stops, faults and finishes lands nothing but what is due. -/
theorem registerFrame : Obligations.RegisterFrame := by
  unfold Obligations.RegisterFrame
  intro i p hi s r cs t hgo haff ht
  obtain rfl : t = s.afterIssue cs p.words (pinRows p.pins) false p.effect :=
    (Host.Outcome.next.inj ((hi s r cs hgo haff).symm.trans ht)).symm
  obtain ⟨hmem, hacc, hent, hgroups, hteams⟩ := (Framed.start s (p.writesIn cs)).afterIssue cs p.words (pinRows p.pins) false p
    (fun c hc => writes_subset_dueIn hgo.groups p hc)
  refine ⟨hmem, hacc, hent, fun k g h hg hh => ?_, fun hno k z hz => ?_⟩
  · obtain ⟨x, hx, hk⟩ := hgroups k h hh
    obtain rfl : g = x := Option.some_inj.1 (hg.symm.trans hx)
    rw [dueIn_of_find hg] at hk
    obtain ⟨hsetup, hv, hkr, ha, hp, hf, -⟩ := hk
    simp only [Group.setup, Prod.mk.injEq] at hsetup
    obtain ⟨hcfg, hj, hx, hseed, hsptr, hepi⟩ := hsetup
    exact ⟨hcfg, hj, hx, hseed, hsptr, hepi, hv, hkr, ha, hp, hf⟩
  · have hsame := hteams fun k n x => by
      cases hg : s.groups.find k with
      | none =>
        rw [dueIn_of_none hg]
        exact List.not_mem_nil
      | some g =>
        rw [dueIn_of_find hg]
        exact hno k g hg n x
    exact ⟨z, hsame ▸ hz, rfl, rfl⟩

end Sys2Proof.Machine

/-! Logic, shifts, bit fields and counts (05 R125 to R129). -/

namespace Sys2Proof.Machine

open Sys2Proof

/-! Instructions of one and of two sources. -/

/-- An instruction that runs a binary operation computes by the rule whose value is that of the operation on what is read. -/
theorem computes_alu3 {i : Instr} {words : Nat} {f : F3} {row : LatRow} {n : Nat} {sg closed : Bool} {g : Int → Int → Nat}
    {op : Option (List (Int × Int) → Int × Int)} {val : Nat → Nat → Nat}
    (he : ∀ s, exec i s = runAlu words
      { alu3 f row n sg g with uses := { (alu3 f row n sg g).uses with closed := closed }, closed := op } s)
    (hv : ∀ x y, g (readInt n sg x) (readInt n sg y) = val x y) : Computes i (ruleBin words f n sg row val closed) := by
  obtain rfl : (fun x y => g (readInt n sg x) (readInt n sg y)) = val := funext₂ hv
  exact computes_of_ruleAlu (closed := op) he

/-- The same for a unary operation. -/
theorem computes_alu2 {i : Instr} {words : Nat} {f : F2} {row : LatRow} {n : Nat} {sg closed : Bool} {g : Int → Nat}
    {op : Option (List (Int × Int) → Int × Int)} {val : Nat → Nat}
    (he : ∀ s, exec i s = runAlu words
      { alu2 f row n sg g with uses := { (alu2 f row n sg g).uses with closed := closed }, closed := op } s)
    (hv : ∀ x, g (readInt n sg x) = val x) : Computes i (ruleUn words f.d f.a f.ra n sg row val closed) := by
  obtain rfl : (fun x => g (readInt n sg x)) = val := funext hv
  exact computes_of_ruleAlu (closed := op) he

/-- The same for an operation on three sources. -/
theorem computes_alu4 {i : Instr} {words : Nat} {f : F3} {c : Code} {row : LatRow} {n w : Nat} {sg : Bool}
    {g : Int → Int → Int → Nat} {val : Nat → Nat → Nat → Nat} (he : ∀ s, exec i s = runAlu words (alu4 f c row n w sg g) s)
    (hv : ∀ x y z, g (readInt n sg x) (readInt n sg y) (readInt w sg z) = val x y z) :
    Computes i (ruleTri words f c n w sg row val) := by
  obtain rfl : (fun x y z => g (readInt n sg x) (readInt n sg y) (readInt w sg z)) = val := funext₃ hv
  exact computes_of_ruleAlu (closed := none) he

theorem readInt_unsigned (n x : Nat) : readInt n false x = ((x % 2 ^ n : Nat) : Int) := rfl

theorem toNat_readInt_unsigned (n x : Nat) : (readInt n false x).toNat = x % 2 ^ n := Int.toNat_natCast _

/-- A raw word is read as it is. -/
theorem word32_readInt (x : Nat) : word32 (readInt 32 false x) = BitVec.ofNat 32 x := by
  rw [readInt_unsigned, word32, BitVec.ofInt_natCast]
  exact BitVec.eq_of_toNat_eq (by rw [BitVec.toNat_ofNat, BitVec.toNat_ofNat, Nat.mod_mod])

/-- An instruction on two raw words computes by the rule whose value is that of the operation on the words. -/
theorem computes_aluBits {i : Instr} {f : F3} {closed : Bool} (g : Word → Word → Word)
    {op : Option (List (Int × Int) → Int × Int)} {val : Nat → Nat → Nat}
    (he : ∀ s, exec i s = runAlu 1 { aluBits f g with uses := { (aluBits f g).uses with closed := closed }, closed := op } s)
    (hv : ∀ x y : Nat, (g (BitVec.ofNat 32 x) (BitVec.ofNat 32 y)).toNat = val x y) :
    Computes i (ruleBin 1 f 32 false rowAdd val closed) :=
  computes_alu3 he (fun x y => by rw [word32_readInt, word32_readInt, hv])

/-- The same for one raw word. -/
theorem computes_aluBits1 {i : Instr} {f : F2} {closed : Bool} (g : Word → Word)
    {op : Option (List (Int × Int) → Int × Int)} {val : Nat → Nat}
    (he : ∀ s, exec i s = runAlu 1 { aluBits1 f g with uses := { (aluBits1 f g).uses with closed := closed }, closed := op } s)
    (hv : ∀ x : Nat, (g (BitVec.ofNat 32 x)).toNat = val x) : Computes i (ruleUn 1 f.d f.a f.ra 32 false rowAdd val closed) :=
  computes_alu2 he (fun x => by rw [word32_readInt, hv])

/-! Shifts and rotates of a word given as a number (05 R126). -/

theorem shiftAmount_ofNat (y : Nat) : shiftAmount (BitVec.ofNat 32 y) = y % 64 := by
  rw [shiftAmount, BitVec.toNat_ofNat]
  omega

theorem toNat_shl32 (x n : Nat) : (shl32 (BitVec.ofNat 32 x) n).toNat = x % 2 ^ 32 * 2 ^ n % 2 ^ 32 := by
  rw [shl32, BitVec.toNat_shiftLeft, BitVec.toNat_ofNat, Nat.shiftLeft_eq]

theorem toNat_shr32 (x n : Nat) : (shr32 (BitVec.ofNat 32 x) n).toNat = x % 2 ^ 32 / 2 ^ n := by
  rw [shr32, BitVec.toNat_ushiftRight, BitVec.toNat_ofNat, Nat.shiftRight_eq_div_pow]

theorem signedOf_eq_toInt (n x : Nat) : signedOf n x = (BitVec.ofNat n x).toInt := by
  rw [BitVec.toInt_eq_toNat_cond, BitVec.toNat_ofNat]
  push_cast
  rfl

theorem toNat_sar32 (x n : Nat) : (sar32 (BitVec.ofNat 32 x) n).toNat = wrapNat 32 (signedOf 32 x / 2 ^ n) := by
  have hint : signedOf 32 x / 2 ^ n = (sar32 (BitVec.ofNat 32 x) n).toInt := by
    rw [sar32, BitVec.toInt_sshiftRight, ← signedOf_eq_toInt, Int.shiftRight_eq_div_pow]
    push_cast
    rfl
  have hword := BitVec.toNat_ofInt (n := 32) (sar32 (BitVec.ofNat 32 x) n).toInt
  rw [BitVec.ofInt_toInt] at hword
  rw [hint, hword]
  rfl

/-- A rotation counts modulo 32. -/
theorem rot32_shiftAmount (x : Word) (y : Nat) : rot32 x (shiftAmount (BitVec.ofNat 32 y)) = x.rotateLeft (y % 32) := by
  rw [rot32, shiftAmount_ofNat, Nat.mod_mod_of_dvd y (by decide : 32 ∣ 64)]

/-! Bit reversal (05 R126). -/

/-- The upper `n` bits of a word in reverse order. -/
def reverseUpper (x : Word) (n : Nat) : Word :=
  (List.range n).foldl (fun acc i => if x.getLsbD (31 - i) then acc ||| (1#32 <<< i) else acc) 0

theorem getLsbD_one_shiftLeft {i : Nat} (hi : i < 32) (n : Nat) : (1#32 <<< n).getLsbD i = decide (i = n) := by
  rw [BitVec.getLsbD_shiftLeft, BitVec.getLsbD_one, Bool.eq_iff_iff]
  simp only [Bool.and_eq_true, Bool.not_eq_true', decide_eq_true_eq, decide_eq_false_iff_not]
  omega

/-- One more bit reversed. -/
theorem getLsbD_reverseUpper_succ (x : Word) (n : Nat) {i : Nat} (hi : i < 32) :
    (reverseUpper x (n + 1)).getLsbD i = ((reverseUpper x n).getLsbD i || (x.getLsbD (31 - n) && decide (i = n))) := by
  have hsucc : reverseUpper x (n + 1) = if x.getLsbD (31 - n) then reverseUpper x n ||| (1#32 <<< n) else reverseUpper x n := by
    simp only [reverseUpper, List.range_succ, List.foldl_append, List.foldl_cons, List.foldl_nil]
  rw [hsucc]
  split
  · next h => rw [BitVec.getLsbD_or, getLsbD_one_shiftLeft hi, h, Bool.true_and]
  · next h => rw [Bool.eq_false_iff.2 h, Bool.false_and, Bool.or_false]

theorem getLsbD_reverseUpper (x : Word) (n : Nat) {i : Nat} (hi : i < 32) :
    (reverseUpper x n).getLsbD i = (decide (i < n) && x.getLsbD (31 - i)) := by
  induction n with
  | zero => exact BitVec.getLsbD_zero
  | succ n ih =>
    rw [getLsbD_reverseUpper_succ x n hi, ih]
    rcases eq_or_ne i n with rfl | hne
    · simp
    · simp [hne, Nat.lt_succ_iff, Nat.le_iff_lt_or_eq]

theorem getLsbD_reverse32 (x : Word) {i : Nat} (hi : i < 32) : (reverse32 x).getLsbD i = x.getLsbD (31 - i) := by
  have h := getLsbD_reverseUpper x 32 hi
  rwa [decide_eq_true hi, Bool.true_and] at h

/-! Counts (05 R129). -/

theorem popcountNat_eq_countP (n x : Nat) : popcountNat n x = (List.range n).countP (fun i => x.testBit i) := by
  induction n generalizing x with
  | zero => rfl
  | succ n ih =>
    have hlow : (if x.testBit 0 = true then 1 else 0) = x % 2 := by
      simp only [Nat.testBit_zero, decide_eq_true_eq]
      split <;> omega
    rw [popcountNat, ih, List.range_succ_eq_map, List.countP_cons, List.countP_map, hlow, add_comm]
    simp only [Function.comp_def, Nat.succ_eq_add_one, Nat.testBit_add_one]

theorem bitLength_of_ne_zero {x : Nat} (h : x ≠ 0) : bitLength x = x.log2 + 1 := if_neg h

/-- The place that CLZ leads to is that of the highest set bit. -/
theorem highestBit {x : Nat} (hx : x < 2 ^ 32) (h0 : x ≠ 0) : x.testBit (31 - (32 - bitLength x)) = true ∧
    ∀ i, 31 - (32 - bitLength x) < i → x.testBit i = false := by
  have hlog : x.log2 < 32 := (Nat.log2_lt h0).2 hx
  have hplace : 31 - (32 - bitLength x) = x.log2 := by
    rw [bitLength_of_ne_zero h0]
    omega
  rw [hplace]
  exact ⟨Nat.testBit_log2 h0, fun i hi => Nat.testBit_lt_two_pow ((Nat.log2_lt h0).1 hi)⟩

/-- CTZ gives the place of the lowest set bit. -/
theorem trailingZeros_spec {n x : Nat} (h : x % 2 ^ n ≠ 0) : x.testBit (trailingZeros n x) = true ∧
    ∀ i, i < trailingZeros n x → x.testBit i = false := by
  induction n generalizing x with
  | zero => exact absurd (Nat.mod_one x) h
  | succ n ih =>
    rw [trailingZeros]
    split
    · next hodd => exact ⟨by rw [Nat.testBit_zero, decide_eq_true hodd], fun i hi => absurd hi (Nat.not_lt_zero i)⟩
    · next heven =>
      have hhalf : x / 2 % 2 ^ n ≠ 0 := by
        rw [pow_succ', Nat.mod_mul] at h
        omega
      obtain ⟨hset, hclear⟩ := ih hhalf
      rw [add_comm]
      refine ⟨by rw [Nat.testBit_add_one, hset], fun i hi => ?_⟩
      cases i with
      | zero => rw [Nat.testBit_zero, decide_eq_false heven]
      | succ i => rw [Nat.testBit_add_one, hclear i (Nat.lt_of_succ_lt_succ hi)]

/-! Bit fields (05 R127). -/

theorem bfeNat_unsigned (a b : Nat) : bfeNat false a b = a / 2 ^ (fieldOf b).1 % 2 ^ (fieldOf b).2 := by
  simp only [bfeNat]
  split
  · next h => rw [h, pow_zero, Nat.mod_one]
  · rfl

theorem testBit_bfeNat_unsigned (a b : Nat) {i : Nat} (hi : i < (fieldOf b).2) :
    (bfeNat false a b).testBit i = a.testBit ((fieldOf b).1 + i) := by
  rw [bfeNat_unsigned, Nat.testBit_mod_two_pow, decide_eq_true hi, Bool.true_and, Nat.testBit_div_two_pow, add_comm]

/-- A number with its field of `w` bits from bit `p` replaced by `m`: what stands above, the field, what stands below. -/
theorem replaceField_eq (c m p w : Nat) :
    c - c / 2 ^ p % 2 ^ w * 2 ^ p + m * 2 ^ p = 2 ^ p * (2 ^ w * (c / 2 ^ p / 2 ^ w) + m) + c % 2 ^ p := by
  have hlow : 2 ^ p * (c / 2 ^ p) + c % 2 ^ p = c := Nat.div_add_mod c (2 ^ p)
  have hhigh : 2 ^ p * (2 ^ w * (c / 2 ^ p / 2 ^ w)) + 2 ^ p * (c / 2 ^ p % 2 ^ w) = 2 ^ p * (c / 2 ^ p) := by
    rw [← mul_add, Nat.div_add_mod]
  rw [mul_add, mul_comm m, mul_comm (c / 2 ^ p % 2 ^ w)]
  omega

theorem testBit_bfiNat (a b c i : Nat) : (bfiNat a b c).testBit i =
    if (fieldOf b).1 ≤ i ∧ i < (fieldOf b).1 + (fieldOf b).2 then a.testBit (i - (fieldOf b).1) else c.testBit i := by
  simp only [bfiNat]
  generalize (fieldOf b).1 = p
  generalize (fieldOf b).2 = w
  rw [replaceField_eq, Nat.testBit_two_pow_mul_add _ (Nat.mod_lt c (Nat.two_pow_pos p))]
  rcases lt_or_ge i p with hbelow | hfrom
  · rw [if_pos hbelow, if_neg (by omega), Nat.testBit_mod_two_pow, decide_eq_true hbelow, Bool.true_and]
  rw [if_neg (Nat.not_lt.2 hfrom), Nat.testBit_two_pow_mul_add _ (Nat.mod_lt a (Nat.two_pow_pos w))]
  rcases lt_or_ge (i - p) w with hin | habove
  · rw [if_pos hin, if_pos (by omega), Nat.testBit_mod_two_pow, decide_eq_true hin, Bool.true_and]
  · rw [if_neg (Nat.not_lt.2 habove), if_neg (by omega), Nat.testBit_div_two_pow, Nat.testBit_div_two_pow]
    congr 1
    omega

/-! Funnel shifts (05 R128). -/

/-- What SHF gives of the words `x` and `z`, its amount being `y`. -/
def funnelNat (right : Bool) (x y z : Nat) : Nat :=
  if right then (z * 2 ^ 32 + x) / 2 ^ (y % 64) % 2 ^ 32 else (z * 2 ^ 32 + x) * 2 ^ (y % 64) % 2 ^ 64 / 2 ^ 32

/-- Settles O4: each instruction runs the Alu of its rule, and the bit operations are as their recursions or their
arithmetic place each bit. -/
theorem bitOperations : Obligations.BitOperations := by
  unfold Obligations.BitOperations
  refine ⟨⟨fun f => ?and, fun f => ?or, fun f => ?xor, fun f => ?andn, fun f => ?not, fun f => ?shl, fun f => ?shr, fun f => ?sar,
    fun f => ?rot, fun d a n => ?shlImm, fun d a n => ?shrImm, fun d a n => ?sarImm, fun d a n => ?rotImm, fun f => ?brev,
    fun f sg => ?bfe, fun f c => ?bfi, fun f c right => ?shf, fun f => ?popc, fun f => ?clz, fun f => ?ctz⟩,
    fun x i => getLsbD_reverse32 x, popcountNat_eq_countP 32, fun x => highestBit, rfl, fun x => trailingZeros_spec, rfl,
    fun a b _ => ⟨?bfeBound, fun i => testBit_bfeNat_unsigned a b⟩, fun a b c i _ => testBit_bfiNat a b c i⟩
  case and => exact computes_aluBits (fun a b => a &&& b) (fun _ => rfl) (fun x y => by simp only [BitVec.toNat_and, BitVec.toNat_ofNat])
  case or => exact computes_aluBits (fun a b => a ||| b) (fun _ => rfl) (fun x y => by simp only [BitVec.toNat_or, BitVec.toNat_ofNat])
  case xor => exact computes_aluBits (fun a b => a ^^^ b) (fun _ => rfl) (fun x y => by simp only [BitVec.toNat_xor, BitVec.toNat_ofNat])
  case andn => exact computes_aluBits (fun a b => a &&& ~~~b) (fun _ => rfl) (fun _ _ => rfl)
  case not => exact computes_aluBits1 (fun a => ~~~a) (fun _ => rfl) (fun x => by simp only [BitVec.toNat_not, BitVec.toNat_ofNat])
  case shl =>
    exact computes_aluBits (fun a b => shl32 a (shiftAmount b)) (fun _ => rfl) (fun x y => by rw [shiftAmount_ofNat, toNat_shl32])
  case shr =>
    exact computes_aluBits (fun a b => shr32 a (shiftAmount b)) (fun _ => rfl) (fun x y => by rw [shiftAmount_ofNat, toNat_shr32])
  case sar =>
    exact computes_aluBits (fun a b => sar32 a (shiftAmount b)) (fun _ => rfl) (fun x y => by rw [shiftAmount_ofNat, toNat_sar32])
  case rot =>
    exact computes_aluBits (fun a b => rot32 a (shiftAmount b)) (fun _ => rfl) (fun x y => by rw [rot32_shiftAmount])
  case shlImm =>
    exact computes_aluBits1 (f := ⟨d, a, false⟩) (fun x => shl32 x n.toNat) (fun _ => rfl) (fun x => toNat_shl32 x n.toNat)
  case shrImm =>
    exact computes_aluBits1 (f := ⟨d, a, false⟩) (fun x => shr32 x n.toNat) (fun _ => rfl) (fun x => toNat_shr32 x n.toNat)
  case sarImm =>
    exact computes_aluBits1 (f := ⟨d, a, false⟩) (fun x => sar32 x n.toNat) (fun _ => rfl) (fun x => toNat_sar32 x n.toNat)
  case rotImm =>
    exact computes_aluBits1 (f := ⟨d, a, false⟩) (fun x => rot32 x n.toNat) (fun _ => rfl)
      (fun x => by rw [rot32, Nat.mod_eq_of_lt n.isLt])
  case brev => exact computes_aluBits1 reverse32 (fun _ => rfl) (fun _ => rfl)
  case bfe =>
    -- the rule's value, written with what the instruction reads
    simp only [← toNat_readInt_unsigned]
    exact computes_of_ruleAlu (fun _ => rfl)
  case bfi =>
    exact computes_alu4 (g := fun x y z => bfiNat x.toNat y.toNat z.toNat) (fun _ => rfl) (fun x y z => by
      simp only [toNat_readInt_unsigned])
  case shf =>
    exact computes_alu4 (g := fun x y z => funnelNat right x.toNat y.toNat z.toNat) (fun _ => rfl) (fun x y z => by
      simp only [toNat_readInt_unsigned, funnelNat, Nat.mod_mod_of_dvd y (by decide : 64 ∣ 2 ^ 32)])
  case popc =>
    exact computes_alu2 (g := fun x => popcountNat 32 x.toNat) (fun _ => rfl) (fun x => by rw [toNat_readInt_unsigned])
  case clz =>
    exact computes_alu2 (g := fun x => 32 - bitLength x.toNat) (fun _ => rfl) (fun x => by rw [toNat_readInt_unsigned])
  case ctz =>
    exact computes_alu2 (g := fun x => trailingZeros 32 x.toNat) (fun _ => rfl) (fun x => by rw [toNat_readInt_unsigned])
  case bfeBound =>
    rw [bfeNat_unsigned]
    exact Nat.mod_lt _ (Nat.two_pow_pos _)

end Sys2Proof.Machine

/-! Address arithmetic and dot products (05 R130 to R132). -/

namespace Sys2Proof.Machine

open Sys2Proof

/-- A sum of 64 bits wraps (05 R131). -/
theorem wrapNat_readInt_add (x y : Nat) :
    wrapNat 64 (readInt 64 false x + readInt 64 false y) = (x % 2 ^ 64 + y % 2 ^ 64) % 2 ^ 64 := by
  rw [readInt_unsigned, readInt_unsigned, wrapNat]
  omega

/-- A difference of 64 bits wraps (05 R131). -/
theorem wrapNat_readInt_sub (x y : Nat) :
    wrapNat 64 (readInt 64 false x - readInt 64 false y) = (x % 2 ^ 64 + 2 ^ 64 - y % 2 ^ 64) % 2 ^ 64 := by
  rw [readInt_unsigned, readInt_unsigned, wrapNat]
  omega

/-- SAD sums the differences of the four unsigned bytes of its sources (05 R132). -/
theorem dotSum_sad (a b : Nat) : dotSum .sad false false a b = (List.range 4).foldl (fun t i =>
    t + (((a / 256 ^ i % 256 : Nat) : Int) - (b / 256 ^ i % 256 : Nat)).natAbs) 0 := by
  have hplace : ∀ i, 256 ^ i = 2 ^ (8 * i) := fun i => (pow_mul 2 8 i).symm
  simp only [hplace]
  rfl

/-- Settles O5: each instruction runs the Alu of its rule, and the 64-bit results wrap. -/
theorem addressAndDot : Obligations.AddressAndDot := by
  unfold Obligations.AddressAndDot
  refine ⟨fun f h => ?lea, fun f sh sg => ?leaLx, fun f => ?add64, fun f => ?sub64, fun f => ?shl64, fun f => ?sad, fun f => ?dp4a,
    fun f => ?dp2a, fun f op c sa sb sat => ?dpx, dotSum_sad⟩
  case lea | leaLx | shl64 => exact computes_of_ruleAlu (fun _ => rfl)
  case add64 => exact computes_alu3 (g := fun x y => wrapNat 64 (x + y)) (fun _ => rfl) wrapNat_readInt_add
  case sub64 => exact computes_alu3 (g := fun x y => wrapNat 64 (x - y)) (fun _ => rfl) wrapNat_readInt_sub
  case sad | dp4a | dp2a | dpx => exact computes_of_ruleAlu (fun _ => rfl)

end Sys2Proof.Machine

/-! Selection, comparison, predicate logic, moves and promotions (05 R133 to R140). -/

namespace Sys2Proof.Machine

open Sys2Proof

/-- The comparisons of 05 Table 5.2 are those of the integers. -/
theorem cmpHolds_compare (x y : Int) : (cmpHolds 0 (compare x y) = true ↔ x = y) ∧ (cmpHolds 1 (compare x y) = true ↔ x ≠ y) ∧
    (cmpHolds 2 (compare x y) = true ↔ x < y) ∧ (cmpHolds 3 (compare x y) = true ↔ x ≤ y) ∧
    (cmpHolds 4 (compare x y) = true ↔ y < x) ∧ (cmpHolds 5 (compare x y) = true ↔ y ≤ x) :=
  ⟨beq_iff_eq.trans compare_eq_iff_eq, bne_iff_ne.trans (not_congr compare_eq_iff_eq), beq_iff_eq.trans compare_lt_iff_lt,
    bne_iff_ne.trans compare_le_iff_le, beq_iff_eq.trans compare_gt_iff_gt, bne_iff_ne.trans compare_ge_iff_ge⟩

/-- What PROMA of sources `srcs` into D names (05 R139). -/
def promaRule (d : Code) (srcs : List Operand) (pins : List (Operand × Bool)) : LaneRule :=
  { words := 1, row := ⟨none, some 2, none⟩, pins := pins, uses :=
    { srcs := srcs, dst := some (op32 d), badType := tyOf d != .aff || srcs.any (fun o => o.ty != .uni) } }

section
variable {i : Instr} {d : Code} {srcs : List Operand} {stride : List Nat → Int} {pins : List (Operand × Bool)}

/-- PROMA with a stride in range gives the base A and the stride. -/
theorem computesWhen_aluProma (he : ∀ s, exec i s = runAlu 1 (aluProma d srcs stride pins) s) :
    ComputesWhen i (promaRule d srcs pins)
      (fun c m => strideOk (stride (c.values (promaRule d srcs pins).uses (lowestLane m))) = true)
      (fun c m _ => { val := (c.values (promaRule d srcs pins).uses (lowestLane m)).getD 0 0
                      stride := stride (c.values (promaRule d srcs pins).uses (lowestLane m)) }) :=
  computesWhen_of_alu (aluProma d srcs stride pins) he rfl rfl rfl rfl (fun _ _ h => if_pos h)

/-- PROMA with a stride out of range faults (01 R37). -/
theorem faultsWhen_aluProma (he : ∀ s, exec i s = runAlu 1 (aluProma d srcs stride pins) s) :
    FaultsWhen i (promaRule d srcs pins)
      (fun c m => strideOk (stride (c.values (promaRule d srcs pins).uses (lowestLane m))) = false) .affineRange :=
  faultsWhen_of_alu (aluProma d srcs stride pins) he rfl rfl (fun _ _ h => if_neg (Bool.eq_false_iff.1 h))

end

/-- Settles O6: each instruction but the write of a team register runs the Alu of its rule; PROMA's results and its fault are
those of its stride. -/
theorem selectMovePromote : Obligations.SelectMovePromote := by
  unfold Obligations.SelectMovePromote
  refine ⟨⟨fun f p w64 => ?sel, fun pd a b ra rb cmp width sg bop pc => ?icmp, fun pd a b => ?pand, fun pd a b => ?por,
      fun pd a b => ?pxor, cmpHolds_compare, fun c p => ⟨rfl, rfl, rfl⟩⟩,
    fun f => ?mov, fun d n => ?movmRead, fun a n ra => ?movmWrite, fun d i => ?movi, fun d i => ?movhi, fun f => ?promaImm,
    fun f => ⟨?proma, ?promaFaults⟩, fun f => ?promv⟩
  case sel | icmp | pand | por | pxor => exact computes_of_ruleAlu (fun _ => rfl)
  case mov => exact computes_aluBits1 (fun a => a) (fun _ => rfl) (fun x => BitVec.toNat_ofNat x 32)
  case movmRead => exact computesWhen_of_alu (aluMovmRead d n) (fun _ => rfl) rfl rfl rfl rfl (fun _ _ _ => rfl)
  case movmWrite => exact acts_of (fun _ => rfl) (fun _ _ _ => go_unless _ _)
  case movi | movhi | promv => exact computes_of_ruleAlu (fun _ => rfl)
  case promaImm => exact computesWhen_aluProma (stride := fun _ => f.imm.toInt) (fun _ => rfl)
  case proma => exact computesWhen_aluProma (stride := fun v => signedOf 32 (v.getD 1 0)) (fun _ => rfl)
  case promaFaults => exact faultsWhen_aluProma (stride := fun v => signedOf 32 (v.getD 1 0)) (fun _ => rfl)

end Sys2Proof.Machine

/-! Special functions (06 R163 to R165). -/

namespace Sys2Proof.Machine

open Sys2Proof

/-! How one lands: the operand is read, the value is taken, and it is rounded once (06 R164). -/

/-- Flushing reaches subnormal operands alone (02 R49). -/
theorem FFmt.read_of_not_subnormal {f : FFmt} {b : Nat} (h : f.isSubnormal b = false) (ftz : Bool) :
    f.read false ftz b = f.decode b := by
  rw [FFmt.read, h, Bool.and_false]
  rfl

/-- A NaN is no subnormal. -/
theorem FFmt.not_subnormal_of_nan {b : Nat} {q : Bool} (h : FFmt.f32.decode b = .nan q) : FFmt.f32.isSubnormal b = false := by
  by_contra hs
  rw [Bool.not_eq_false, FFmt.isSubnormal, Bool.and_eq_true, beq_iff_eq] at hs
  obtain ⟨he, -⟩ := hs
  rw [FFmt.decode, he] at h
  cases h

/-- The bits of a special function whose value `x` rounds to `w` without a flag. -/
theorem specialFn_of_value {fn : SpecialFn} {m : RMode} {ftz : Bool} {a b : Word} {x : FpVal} {fl : Flags} {w : Nat}
    (hw : FFmt.f32.round (.mode m) false ftz x = (w, 0))
    (hv : specialVal fn (FFmt.f32.decode a.toNat) (FFmt.f32.read false ftz b.toNat) = (x, fl))
    (ha : FFmt.f32.isSubnormal a.toNat = false := by decide) :
    specialFn fn m ftz a b = (BitVec.ofNat 32 w, fl) := by
  rw [specialFn, FFmt.read_of_not_subnormal ha, hv, FFmt.finish, hw]
  exact congrArg (Prod.mk _) (BitVec.zero_or ..)

/-! The values that every mode rounds alike (02 R48, R52). -/

section
variable {m : RMode} {ftz : Bool}

theorem round_f32_nan (s : Bool) : FFmt.f32.round (.mode m) false ftz (.nan s) = (0x7FC00000, 0) := rfl

theorem round_f32_inf (neg : Bool) :
    FFmt.f32.round (.mode m) false ftz (.inf neg) = (if neg then 0xFF800000 else 0x7F800000, 0) := by
  cases neg <;> rfl

theorem round_f32_zero (neg : Bool) (q : Int) :
    FFmt.f32.round (.mode m) false ftz (.num ⟨neg, 0, q⟩) = (if neg then 0x80000000 else 0, 0) := by
  cases neg <;> rfl

theorem round_f32_one (neg : Bool) :
    FFmt.f32.round (.mode m) false ftz (.num ⟨neg, 1, 0⟩) = (if neg then 0xBF800000 else 0x3F800000, 0) := by
  cases neg <;> cases ftz <;> cases m <;> decide

end

/-! NaN operands, and the cosines that are computed through fixed point (06 Table 6.7). -/

/-- A NaN operand, beside a number, gives a NaN, and NV where it is signalling. -/
theorem specialVal_nan (fn : SpecialFn) (q : Bool) (e : Exact) :
    specialVal fn (.nan q) (.num e) = (.nan false, if q then flagNV else 0) := by
  cases fn <;> cases q <;> rfl

/-- cos(π/2) is a positive zero. -/
theorem specialVal_cosPi_half (y : FpVal) : specialVal .cosPi (FFmt.f32.decode 0x3F000000) y = (.num (Exact.zero false), 0) := by
  have hv : cosPiVal ⟨false, 0x800000, -24⟩ = .num (Exact.zero false) := by decide +kernel
  have hd : FFmt.f32.decode 0x3F000000 = .num ⟨false, 0x800000, -24⟩ := by decide
  rw [hd, ← hv]
  rfl

/-- cos(−π) is −1. -/
theorem specialVal_cosPi_neg_one (y : FpVal) : specialVal .cosPi (FFmt.f32.decode 0xBF800000) y = (.num ⟨true, 1, 0⟩, 0) := by
  have hv : cosPiVal ⟨true, 0x800000, -23⟩ = .num ⟨true, 1, 0⟩ := by decide +kernel
  have hd : FFmt.f32.decode 0xBF800000 = .num ⟨true, 0x800000, -23⟩ := by decide
  rw [hd, ← hv]
  rfl

/-- A NaN operand gives the canonical NaN, FDIV by 1.0 included. -/
theorem specialFn_nan {a : Word} {q : Bool} (h : FFmt.f32.decode a.toNat = .nan q) (fn : SpecialFn) (m : RMode) (ftz : Bool) :
    specialFn fn m ftz a 0x3F800000 = (0x7FC00000, if q then flagNV else 0) := by
  obtain ⟨e, he⟩ : ∃ e, FFmt.f32.decode (0x3F800000 : Word).toNat = .num e := ⟨_, rfl⟩
  have hone : FFmt.f32.read false ftz (0x3F800000 : Word).toNat = .num e := (FFmt.read_of_not_subnormal (by decide) ftz).trans he
  exact specialFn_of_value (round_f32_nan false) (by rw [h, hone, specialVal_nan]) (FFmt.not_subnormal_of_nan h)

/-- A quotient of two operands that are no subnormals. -/
theorem specialFn_div_of_value {m : RMode} {ftz : Bool} {a b : Word} {x : FpVal} {fl : Flags} {w : Nat}
    (hw : FFmt.f32.round (.mode m) false ftz x = (w, 0))
    (hv : divVal (FFmt.f32.decode a.toNat) (FFmt.f32.decode b.toNat) = (x, fl))
    (ha : FFmt.f32.isSubnormal a.toNat = false := by decide) (hb : FFmt.f32.isSubnormal b.toNat = false := by decide) :
    specialFn .div m ftz a b = (BitVec.ofNat 32 w, fl) :=
  specialFn_of_value hw (by rw [FFmt.read_of_not_subnormal hb]; exact hv) ha

/-- Settles O10: each function issues as a variable-latency computation, and each special case is a value that every mode
rounds alike. -/
theorem specialFunctions : Obligations.SpecialFunctions := by
  unfold Obligations.SpecialFunctions
  refine ⟨⟨fun f m => ?fexp2, fun f m => ?flog2, fun f m => ?frcp, fun f m => ?frsqrt, fun f m => ?fsqrt, fun f m => ?fdiv,
      fun f m => ?fsin, fun f m => ?fcos, fun f m => ?ftanh⟩,
    fun m ftz => ⟨fun fn a q h => specialFn_nan h fn m ftz, fun b => ?exp2, fun b => ?log2, fun b => ?rcp, fun b => ?rsqrt,
      fun b => ?sqrt, ?div, fun b => ?trig, fun b => ?tanh⟩⟩
  case fexp2 | flog2 | frcp | frsqrt | fsqrt | fdiv | fsin | fcos | ftanh => exact starts_of (fun _ => rfl)
  case exp2 => exact ⟨specialFn_of_value (round_f32_inf false) rfl, specialFn_of_value (round_f32_zero false 0) rfl⟩
  case log2 =>
    exact ⟨specialFn_of_value (round_f32_inf true) rfl, specialFn_of_value (round_f32_inf true) rfl,
      specialFn_of_value (round_f32_nan false) rfl, specialFn_of_value (round_f32_inf false) rfl,
      specialFn_of_value (round_f32_zero false 0) rfl⟩
  case rcp =>
    exact ⟨specialFn_of_value (round_f32_inf false) rfl, specialFn_of_value (round_f32_inf true) rfl,
      specialFn_of_value (round_f32_zero false 0) rfl, specialFn_of_value (round_f32_zero true 0) rfl⟩
  case rsqrt =>
    exact ⟨specialFn_of_value (round_f32_inf false) rfl, specialFn_of_value (round_f32_inf true) rfl,
      specialFn_of_value (round_f32_zero false 0) rfl, specialFn_of_value (round_f32_nan false) rfl⟩
  case sqrt =>
    exact ⟨specialFn_of_value (round_f32_zero true (-149)) rfl, specialFn_of_value (round_f32_nan false) rfl,
      specialFn_of_value (round_f32_inf false) rfl⟩
  case div =>
    exact ⟨specialFn_div_of_value (round_f32_inf false) rfl, specialFn_div_of_value (round_f32_inf true) rfl,
      specialFn_div_of_value (round_f32_nan false) rfl, specialFn_div_of_value (round_f32_nan false) rfl,
      specialFn_div_of_value (round_f32_zero true 0) rfl⟩
  case trig =>
    exact ⟨specialFn_of_value (round_f32_nan false) rfl, specialFn_of_value (round_f32_nan false) rfl,
      specialFn_of_value (round_f32_zero false 0) rfl, specialFn_of_value (round_f32_zero true 0) rfl,
      specialFn_of_value (round_f32_zero false 0) (specialVal_cosPi_half _),
      specialFn_of_value (round_f32_one true) (specialVal_cosPi_neg_one _)⟩
  case tanh =>
    exact ⟨specialFn_of_value (round_f32_one false) rfl, specialFn_of_value (round_f32_one true) rfl,
      specialFn_of_value (round_f32_zero false (-149)) rfl, specialFn_of_value (round_f32_zero true (-149)) rfl⟩

end Sys2Proof.Machine

/-! Abacus instructions (06 R168 to R173). -/

namespace Sys2Proof.Machine

open Sys2Proof

theorem mem_lanesOf {m : Word} {L : Fin 32} : L ∈ lanesOf m ↔ laneIn m L = true := by
  simp only [lanesOf, List.mem_filter, List.mem_finRange, true_and]

theorem lanesOf_nodup (m : Word) : (lanesOf m).Nodup := (List.nodup_finRange 32).filter _

/-- The inputs of the lanes, joined, are added one after the other (06 R169). -/
theorem addLanes_eq_foldl (x : Abacus) (m : Word) (f : Fin 32 → List AbacusInput) :
    addLanes x m f = ((lanesOf m).flatMap f).foldl Abacus.add x := (List.foldl_flatMap ..).symm

/-! Running sums (06 R172). -/

section
variable (f : FFmt) (m : AbMod) (val : Fin 32 → FpVal)

/-- The accumulator after the values of some lanes. -/
def sumOver (Ls : List (Fin 32)) (x : Abacus) : Abacus := (Ls.map (fun M => AbacusInput.ofVal (val M))).foldl Abacus.add x

/-- The accumulator as lane `L` finds it, those before it in the list having been added. -/
def sumBefore (Ls : List (Fin 32)) (x : Abacus) (L : Fin 32) : Abacus := sumOver val (Ls.takeWhile (fun M => M != L)) x

/-- What XSCAN gives lane `L`. -/
def scanOut (Ls : List (Fin 32)) (x : Abacus) (L : Fin 32) : LaneOut :=
  fout ((if m.incl then (sumBefore val Ls x L).add (.ofVal (val L)) else sumBefore val Ls x L).read f m.rnd m.sat)

theorem sumBefore_self (M : Fin 32) (Ls : List (Fin 32)) (x : Abacus) : sumBefore val (M :: Ls) x M = x := by
  simp [sumBefore, sumOver]

theorem sumBefore_cons {M L : Fin 32} (h : M ≠ L) (Ls : List (Fin 32)) (x : Abacus) :
    sumBefore val (M :: Ls) x L = sumBefore val Ls (x.add (.ofVal (val M))) L := by
  simp [sumBefore, sumOver, h]

/-- XSCAN leaves the sum over its lanes in the accumulator. -/
theorem scanLanes_sum (Ls : List (Fin 32)) (x : Abacus) (acc : List (Fin 32 × LaneOut)) :
    (scanLanes f m val Ls x acc).2 = sumOver val Ls x := by
  induction Ls generalizing x acc with
  | nil => rfl
  | cons M Ls ih => exact ih (x.add (.ofVal (val M))) _

/-- Each lane of the scan finds its own running sum among the results. -/
theorem scanLanes_find {Ls : List (Fin 32)} (hn : Ls.Nodup) (x : Abacus) (acc : List (Fin 32 × LaneOut)) (L : Fin 32) :
    (scanLanes f m val Ls x acc).1.find? (fun e => e.1 == L) =
      if L ∈ Ls then some (L, scanOut f m val Ls x L) else acc.find? (fun e => e.1 == L) := by
  induction Ls generalizing x acc with
  | nil => rfl
  | cons M Ls ih =>
    obtain ⟨hM, hn⟩ := List.nodup_cons.1 hn
    rw [scanLanes, ih hn]
    by_cases h : M = L
    · subst h
      simp [hM, scanOut, sumBefore_self]
    · simp [h, Ne.symm h, scanOut, sumBefore_cons val h]

end

/-- The result of XSCAN in a lane: its running sum where it is active, none elsewhere. -/
theorem scanLanes_result (f : FFmt) (m : AbMod) (val : Fin 32 → FpVal) (act : Word) (x : Abacus) (L : Fin 32) :
    (((scanLanes f m val (lanesOf act) x []).1.find? (fun e => e.1 == L)).map Prod.snd).getD {} =
      if laneIn act L then scanOut f m val (lanesOf act) x L else {} := by
  rw [scanLanes_find f m val (lanesOf_nodup act), if_congr mem_lanesOf rfl rfl]
  split <;> rfl

/-- An instruction that replaces accumulator `n` by `f` where a lane is active (06 R168 to R170). -/
theorem acts_of_issueX {i : Instr} {u : Uses} {pins : List (Operand × Bool)} {n : BitVec 2}
    {f : Ctx → Abacus} {g : Ctx → Word → Abacus}
    (he : ∀ s, exec i s = .next (s.issueX u pins n g)) (hf : ∀ c, g c c.act = f c) :
    Acts i 1 u none pins false (fun _ _ => True) (fun _ c x =>
      if c.act = 0 then x
      else (x.modGroup c.gid (fun y => (y.pop u c.act).setX n (f c))).repair c.gid (fun b => b.what == 0x400 + n.toNat)) := by
  refine acts_of he (fun s c _ => ?_)
  rw [← hf]
  exact go_unless _ _

/-- Settles O11: the first four issue with their accumulator replaced, and XRD and XSCAN issue as variable-latency
computations, XSCAN's lanes finding their running sums. -/
theorem abacusInstructions : Obligations.AbacusInstructions := by
  unfold Obligations.AbacusInstructions
  refine ⟨fun n => ?xclr, fun n k => ?xmov, fun n a ra => ?xadd, fun n a ra => ?xaddBf16, fun n a b ra rb => ?xfma,
    fun d n m => ?xrd, fun d n b rb m => ?xscan⟩
  case xclr | xmov => exact acts_of_issueX (fun _ => rfl) (fun _ => rfl)
  case xadd | xaddBf16 | xfma => exact acts_of_issueX (fun _ => rfl) (fun _ => addLanes_eq_foldl ..)
  case xrd => exact starts_of (fun _ => rfl)
  case xscan =>
    refine starts_of (fun s => ?_)
    show execXscan d n b rb m s = _
    simp only [execXscan, scanLanes_result, scanLanes_sum]
    rfl

end Sys2Proof.Machine

/-! Transfers of control and rejoin masks (07 R176, R201, R202; 08 R214 to R222). -/

namespace Sys2Proof.Machine

open Sys2Proof

/-! Lane masks. -/

theorem laneIn_zero (L : Fin 32) : laneIn 0 L = false := BitVec.getLsbD_zero

theorem laneIn_or (m n : Word) (L : Fin 32) : laneIn (m ||| n) L = (laneIn m L || laneIn n L) := BitVec.getLsbD_or

theorem laneIn_and (m n : Word) (L : Fin 32) : laneIn (m &&& n) L = (laneIn m L && laneIn n L) := BitVec.getLsbD_and

theorem laneIn_not (m : Word) (L : Fin 32) : laneIn (~~~m) L = !laneIn m L := by
  simp only [laneIn, BitVec.getLsbD_not, L.isLt, decide_true, Bool.true_and]

theorem laneIn_foldl_setBit (f : Fin 32 → Bool) (ls : List (Fin 32)) (m : Word) (L : Fin 32) :
    laneIn (ls.foldl (fun acc M => if f M then acc ||| (1#32 <<< M.val) else acc) m) L = true ↔
      laneIn m L = true ∨ (L ∈ ls ∧ f L = true) := by
  induction ls generalizing m with
  | nil => simp
  | cons M ls ih =>
    have hset : laneIn (if f M then m ||| (1#32 <<< M.val) else m) L = if M = L ∧ f M = true then true else laneIn m L := by
      by_cases hf : f M = true
      · have h := laneIn_setBit m M L true
        simp only [setBit, if_true] at h
        simp only [hf, if_true, h, and_true]
      · simp only [hf, if_false, and_false, Bool.false_eq_true]
    rw [List.foldl_cons, ih, hset, List.mem_cons]
    by_cases hM : M = L
    · subst hM
      by_cases hf : f M = true <;> simp [hf]
    · simp [hM, Ne.symm hM]

@[simp] theorem laneIn_maskOf (f : Fin 32 → Bool) (L : Fin 32) : laneIn (maskOf f) L = f L := by
  have hzero : laneIn 0#32 L = false := laneIn_zero L
  rw [Bool.eq_iff_iff, maskOf, laneIn_foldl_setBit]
  simp only [hzero, Bool.false_eq_true, false_or, List.mem_finRange, true_and]

@[simp] theorem laneIn_lanesWhere (x : StreamState) (p : LaneCtl → Bool) (L : Fin 32) : laneIn (x.lanesWhere p) L = p x.lanes[L] :=
  laneIn_maskOf _ L

/-- No lane of one mask is missing in another. -/
theorem and_not_eq_zero_iff {m n : Word} : m &&& ~~~n = 0 ↔ ∀ L, laneIn m L = true → laneIn n L = true := by
  constructor
  · intro h L hm
    have hL : laneIn (m &&& ~~~n) L = laneIn 0 L := congrArg (fun w => laneIn w L) h
    simpa only [laneIn_and, laneIn_not, laneIn_zero, hm, Bool.true_and, Bool.not_eq_false'] using hL
  · intro h
    refine BitVec.eq_of_getLsbD_eq fun i hi => ?_
    change laneIn (m &&& ~~~n) ⟨i, hi⟩ = laneIn 0 ⟨i, hi⟩
    rw [laneIn_and, laneIn_not, laneIn_zero]
    cases hm : laneIn m ⟨i, hi⟩ with
    | false => rfl
    | true => simp [h ⟨i, hi⟩ hm]

/-! Where a transfer sends the lanes (08 R214 to R217). -/

theorem goodTargets_const {s : State} {c : Ctx} {ls : List (Fin 32)} {t : Dword} (h : (∃ L, L ∈ ls) → s.goodTargets c [t]) :
    s.goodTargets c (ls.map (fun _ => t)) := by
  intro pc hpc
  obtain ⟨L, hL, rfl⟩ := List.mem_map.1 hpc
  exact h ⟨L, hL⟩ _ List.mem_cons_self

theorem mem_filter_lanesOf {m : Word} {p : Fin 32 → Bool} {L : Fin 32} :
    L ∈ (lanesOf m).filter p ↔ (laneIn m L && p L) = true := by
  rw [List.mem_filter, mem_lanesOf, Bool.and_eq_true]

/-- The lanes of a mask that meet a condition all go to one target. -/
theorem transferVerdict_filter {s : State} {c : Ctx} {p : Fin 32 → Bool} {t : Dword} {eff : State → State}
    (h : (∃ L, (laneIn c.act L && p L) = true) → s.goodTargets c [t]) :
    s.transferVerdict c (((lanesOf c.act).filter p).map (fun L => (L, t))) eff 0 =
      .go eff (some (fun L => some (if laneIn c.act L && p L then t else c.pc + 4))) := by
  rw [transferVerdict_map (f := fun _ => t) (goodTargets_const fun ⟨L, hL⟩ => h ⟨L, mem_filter_lanesOf.1 hL⟩)]
  simp only [laneIn_zero, Bool.false_eq_true, if_false, mem_filter_lanesOf]

/-- The active lanes go each to its target. -/
theorem transferVerdict_active {s : State} {c : Ctx} {f : Fin 32 → Dword} {eff : State → State}
    (h : s.goodTargets c ((lanesOf c.act).map f)) :
    s.transferVerdict c ((lanesOf c.act).map (fun L => (L, f L))) eff 0 =
      .go eff (some (fun L => some (if laneIn c.act L then f L else c.pc + 4))) := by
  rw [transferVerdict_map h]
  simp only [laneIn_zero, Bool.false_eq_true, if_false, mem_lanesOf]

/-- No lane goes anywhere but behind the instruction or out of the run. -/
theorem transferVerdict_nil (s : State) (c : Ctx) (eff : State → State) (leave : Word) :
    s.transferVerdict c [] eff leave = .go eff (some (fun L => if laneIn leave L then none else some (c.pc + 4))) :=
  transferVerdict_good (ts := []) (fun _ h => absurd h List.not_mem_nil)

/-! Lanes of a stream. -/

theorem modLanes_lane (g : Group) (st : Stream) (m : Word) (f : LaneCtl → LaneCtl) (st' : Stream) (L : Fin 32) :
    ((g.modLanes st m f).stream st').lanes[L] =
      if st' = st ∧ laneIn m L = true then f ((g.stream st').lanes[L]) else (g.stream st').lanes[L] := by
  rw [Group.modLanes, stream_modStream]
  by_cases hst : st' = st
  · subst hst
    simp
  · simp [hst]

/-! The release of a rejoin set (07 R202). -/

/-- Every lane of a mask has arrived in a stream or exited there. -/
def Group.Rejoined (g : Group) (st : Stream) (j : Fin 16) : Prop :=
  ∀ L, laneIn g.j[j] L = true → laneIn (g.stream st).arrivals[j] L = true ∨ ((g.stream st).lanes[L]).exited = true

/-- A stream whose parked lanes a mask has released. -/
def StreamState.released (x : StreamState) (j : Fin 16) (cyc : Nat) : StreamState :=
  { x.free (x.lanesWhere (fun l => l.park == .join j.val)) cyc with
    lanes := Vector.ofFn (fun i => if x.lanes[i].park = .join j.val then { x.lanes[i] with park := .none } else x.lanes[i])
    arrivals := x.arrivals.set j 0 }

theorem rejoined_iff {g : Group} {st : Stream} {j : Fin 16} :
    g.j[j] &&& ~~~((g.stream st).arrivals[j] ||| (g.stream st).exitedMask) = 0 ↔ g.Rejoined st j := by
  simp only [and_not_eq_zero_iff, laneIn_or, StreamState.exitedMask, laneIn_lanesWhere, Bool.or_eq_true]
  rfl

theorem release_of_rejoined {g : Group} {st : Stream} {j : Fin 16} (h : g.Rejoined st j) (cyc : Nat) :
    g.release st j cyc = g.modStream st (fun x => x.released j cyc) := if_pos (rejoined_iff.2 h)

theorem release_of_not_rejoined {g : Group} {st : Stream} {j : Fin 16} (h : ¬ g.Rejoined st j) (cyc : Nat) :
    g.release st j cyc = g := if_neg (rejoined_iff.not.2 h)

theorem released_lane (x : StreamState) (j : Fin 16) (cyc : Nat) (L : Fin 32) :
    (x.released j cyc).lanes[L] = if x.lanes[L].park = .join j.val then { x.lanes[L] with park := .none } else x.lanes[L] :=
  Vector.getElem_ofFn ..

/-- A lane that is released stands on no path in that cycle. -/
theorem released_walkers {x : StreamState} {j : Fin 16} {L : Fin 32} (h : x.lanes[L].park = .join j.val) (cyc : Nat) :
    laneIn ((x.released j cyc).walkers cyc) L = false := by
  have hfreed : laneIn (x.released j cyc).freed L = true := by
    have hpark : laneIn (x.lanesWhere (fun l => l.park == .join j.val)) L = true := by
      rw [laneIn_lanesWhere, h]
      exact beq_self_eq_true _
    unfold StreamState.released StreamState.free
    dsimp only
    split
    · rw [laneIn_or, hpark, Bool.or_true]
    · exact hpark
  have hsettled : (x.released j cyc).settled cyc = ~~~(x.released j cyc).freed := if_pos rfl
  rw [StreamState.walkers, laneIn_and, hsettled, laneIn_not, hfreed]
  rfl

/-- A release exits no lane. -/
theorem release_exited (g : Group) (st : Stream) (j : Fin 16) (cyc : Nat) (st' : Stream) (L : Fin 32) :
    (((g.release st j cyc).stream st').lanes[L]).exited = ((g.stream st').lanes[L]).exited := by
  by_cases h : g.Rejoined st j
  · rw [release_of_rejoined h, stream_modStream]
    split
    · next hst =>
      subst hst
      rw [released_lane]
      split <;> rfl
    · rfl
  · rw [release_of_not_rejoined h]

theorem releaseAll_exited (g : Group) (st : Stream) (cyc : Nat) (st' : Stream) (L : Fin 32) :
    (((g.releaseAll st cyc).stream st').lanes[L]).exited = ((g.stream st').lanes[L]).exited :=
  List.foldlRecOn (motive := fun x : Group => ((x.stream st').lanes[L]).exited = ((g.stream st').lanes[L]).exited) _ _ rfl
    (fun x hx j _ => (release_exited x st j cyc st' L).trans hx)

/-! EXIT (07 R176). -/

theorem checkTbar_groups (s : State) (tid : Nat) (st : Stream) (n : Nat) : (s.checkTbar tid st n).groups = s.groups := by
  unfold State.checkTbar
  split
  · rfl
  · dsimp only
    split <;> rfl

theorem checkCbar_groups (s : State) (gk : Nat) (n : Fin 8) : (s.checkCbar gk n).groups = s.groups := by
  unfold State.checkCbar
  split
  · rfl
  · dsimp only
    split <;> rfl

theorem checkBarriers_groups (s : State) (g : Group) (st : Stream) : (s.checkBarriers g st).groups = s.groups := by
  have hteam : ((List.range 4).foldl (fun s n => s.checkTbar g.team st n) s).groups = s.groups :=
    List.foldlRecOn (motive := fun t : State => t.groups = s.groups) _ _ rfl (fun t ht n _ => (checkTbar_groups t _ _ n).trans ht)
  unfold State.checkBarriers
  cases st with
  | addr => exact hteam
  | comp =>
    exact List.foldlRecOn (motive := fun t : State => t.groups = s.groups) _ _ hteam (fun t ht n _ => (checkCbar_groups t _ n).trans ht)

/-- What an exit makes of a group in a cycle of its die. -/
def Group.exitIn (g : Group) (st : Stream) (m : Word) (cyc : Nat) : Group :=
  (g.modLanes st m (fun l => { l with exited := true, park := .none, faulting := false })).releaseAll st cyc

theorem exitIn_exited (g : Group) (st : Stream) (m : Word) (cyc : Nat) (st' : Stream) (L : Fin 32) :
    (((g.exitIn st m cyc).stream st').lanes[L]).exited = true ↔
      (st' = st ∧ laneIn m L = true) ∨ ((g.stream st').lanes[L]).exited = true := by
  rw [Group.exitIn, releaseAll_exited, modLanes_lane]
  split <;> simp only [*, and_self, true_or, false_or]

theorem exitStream_find (s : State) (gid : Nat) (st : Stream) (m : Word) :
    (s.exitStream gid st m).groups.find gid = (s.groups.find gid).map (fun g => g.exitIn st m (s.dieCycle g.die)) := by
  have hgroups : (s.exitStream gid st m).groups = (s.modGroup gid (fun g => g.exitIn st m (s.dieCycle g.die))).groups := by
    unfold State.exitStream Group.exitIn
    dsimp only
    split
    · split
      · exact checkBarriers_groups ..
      · rfl
    · rfl
  rw [hgroups, modGroup_find]

/-- The lanes of an exit have exited in their stream. -/
theorem exitLanes_exited {s : State} {gid : Nat} {st : Stream} {m : Word} {h : Group} {L : Fin 32}
    (hh : (s.exitLanes gid st m).groups.find gid = some h) (hL : laneIn m L = true) : ((h.stream st).lanes[L]).exited = true := by
  have hfirst : ∀ x, (s.exitStream gid st m).groups.find gid = some x → ((x.stream st).lanes[L]).exited = true := by
    intro x hx
    rw [exitStream_find, Option.map_eq_some_iff] at hx
    obtain ⟨g, -, rfl⟩ := hx
    exact (exitIn_exited ..).2 (.inl ⟨rfl, hL⟩)
  unfold State.exitLanes at hh
  dsimp only at hh
  split at hh
  · next x hx =>
    split at hh
    · rw [exitStream_find, modGroup_find, hx] at hh
      obtain rfl := Option.some_inj.1 hh
      exact (exitIn_exited ..).2 (.inr (hfirst x hx))
    · exact hfirst h hh
  · exact hfirst h hh

/-- Settles O16: the first three transfer the lanes that meet their condition, the others act on their groups alone, and an
exit leaves its lanes exited. -/
theorem transfersOfControl : Obligations.TransfersOfControl := by
  unfold Obligations.TransfersOfControl
  refine ⟨⟨fun p o => ?bra, fun n o => ?brq, fun a ra => ?jmp⟩, ?exit, ?yield, ?nop, fun i => ?bpt,
    fun s gid st m g h L _ hh hL => exitLanes_exited hh hL⟩
  case bra =>
    refine transfers_of (fun _ => rfl) (fun s c hok => transferVerdict_filter fun ⟨L, hL⟩ => hok ⟨L, ?_⟩)
    exact Bool.and_eq_true_iff.1 hL
  case brq => exact transfers_of (fun _ => rfl) (fun s c hok => transferVerdict_filter hok)
  case jmp => exact transfers_of (fun _ => rfl) (fun s c hok => transferVerdict_active hok)
  case exit => exact transfers_of (fun _ => rfl) (fun s c _ => transferVerdict_nil s c _ _)
  case yield | nop => exact acts_of (fun _ => rfl) (fun _ _ _ => rfl)
  case bpt => exact acts_of (fun _ => rfl) (fun _ _ _ => go_unless _ _)

/-- Settles O19: ARMJ and JOIN act on their groups alone, WAITJ sends the lanes it parks out of the run, and a release is made
of what it leaves of a lane. -/
theorem rejoinMasks : Obligations.RejoinMasks := by
  unfold Obligations.RejoinMasks
  refine ⟨⟨fun d a j => ?armj, fun j => ?join, fun j => ?waitj⟩, fun g st j cyc => ⟨fun hready => ⟨fun L => ⟨?park, ?path⟩, ?arrivals⟩,
    fun hnot => release_of_not_rejoined hnot cyc⟩⟩
  case armj => exact acts_of (fun _ => rfl) (fun _ _ _ => go_unless _ _)
  case join => exact acts_of (fun _ => rfl) (fun _ _ _ => rfl)
  case waitj => exact transfers_of (fun _ => rfl) (fun s c _ => transferVerdict_nil s c _ _)
  case park =>
    rw [release_of_rejoined hready, stream_modStream, if_pos rfl, released_lane]
    split
    · exact Park.noConfusion
    · assumption
  case path =>
    intro hpark
    rw [release_of_rejoined hready, stream_modStream, if_pos rfl]
    exact released_walkers hpark cyc
  case arrivals =>
    rw [release_of_rejoined hready, stream_modStream, if_pos rfl]
    exact Vector.getElem_set_self ..

end Sys2Proof.Machine

/-! Calls and returns (07 R205 to R207; 08 R217). -/

namespace Sys2Proof.Machine

open Sys2Proof

/-! CALL and CALLR: the verdict. -/

/-- Where the full stacks can be spilled and the targets are headers, every lane of a list pushes and goes to its target. -/
theorem callVerdict_good {s : State} {c : Ctx} {ls : List (Fin 32)} {f : Fin 32 → Dword} (hspill : ∃ ps, s.spills c ls = .ok ps)
    (h : s.goodTargets c (ls.map f)) :
    s.callVerdict c (ls.map (fun L => (L, f L))) =
      .go (s.pushAll c ls) (some (fun L => some (if L ∈ ls then f L else c.pc + 4))) := by
  obtain ⟨ps, hps⟩ := hspill
  have hlanes : (ls.map (fun L => (L, f L))).map Prod.fst = ls := by rw [List.map_map]; exact List.map_id ls
  have hpush : s.pushAll c ls = fun x => ls.foldl (fun y L =>
      y.pushReturn c (c.pc + 4) L ((ps.find? (fun p => p.1 == L)).map Prod.snd)) x := by
    funext x
    simp only [State.pushAll, hps, spillOf]
  unfold State.spills Ctx.fullStacks at hps
  unfold State.callVerdict
  dsimp only
  rw [hlanes, hps]
  dsimp only
  rw [transferVerdict_map h, hpush]
  simp only [List.foldl_map, laneIn_zero, Bool.false_eq_true, if_false]

/-! RET: the verdict. -/

/-- No access, no wait and no fault. -/
theorem stackAccesses_nil (s : State) (c : Ctx) (need : Need) (forbidden : Fin 32 → Bool) :
    s.stackAccesses c need forbidden [] = .ok [] := by
  simp [State.stackAccesses]

/-- The active lanes whose return stack holds an entry. -/
def Ctx.holding (c : Ctx) : List (Fin 32) := (lanesOf c.act).filter (fun L => !(((c.g.stream c.st).lanes[L]).rstack).isEmpty)

/-- The active lanes whose return stack is empty. -/
def Ctx.ending (c : Ctx) : Word := maskOf (fun L => laneIn c.act L && (((c.g.stream c.st).lanes[L]).rstack).isEmpty)

/-- No active lane has an empty stack with entries in memory. -/
def Ctx.Refilled (c : Ctx) : Prop :=
  ∀ L, laneIn c.act L = true → (((c.g.stream c.st).lanes[L]).rstack).isEmpty = true → ((c.g.stream c.st).lanes[L]).spilled = 0

theorem refills_eq_nil {c : Ctx} (h : c.Refilled) : c.refills = [] := by
  refine List.map_eq_nil_iff.2 (List.filter_eq_nil_iff.2 fun L hL => ?_)
  rw [Bool.and_eq_true, decide_eq_true_eq]
  rintro ⟨hempty, hspilled⟩
  exact hspilled.ne' (h L (mem_lanesOf.1 hL) hempty)

/-- The lanes that end their stream are those with an empty stack. -/
theorem ending_of_refilled {c : Ctx} (h : c.Refilled) :
    maskOf (fun L => laneIn c.act L && (((c.g.stream c.st).lanes[L]).rstack).isEmpty && ((c.g.stream c.st).lanes[L]).spilled == 0) =
      c.ending := by
  refine congrArg maskOf (funext fun L => ?_)
  cases hact : laneIn c.act L with
  | false => rfl
  | true =>
    cases hempty : (((c.g.stream c.st).lanes[L]).rstack).isEmpty with
    | false => rfl
    | true => rw [h L hact hempty]; rfl

/-- A lane that does not end its stream goes to its newest entry if it is active. -/
theorem mem_holding_of_not_ending {c : Ctx} {L : Fin 32} (h : laneIn c.ending L ≠ true) : L ∈ c.holding ↔ laneIn c.act L = true := by
  rw [Ctx.ending, laneIn_maskOf] at h
  rw [Ctx.holding, mem_filter_lanesOf, Bool.and_eq_true, and_iff_left_iff_imp]
  intro hact
  rw [hact, Bool.true_and] at h
  rw [Bool.eq_false_iff.2 h]
  rfl

/-- What RET does in a group: the holding lanes pop, the others exit. -/
def State.popAll (c : Ctx) (x : State) : State :=
  let x := x.modGroup c.gid (fun g => c.holding.foldl (fun g L => g.popReturn c.st L) g)
  if c.ending = 0 then x else x.exitLanes c.gid c.st c.ending

theorem retVerdict_good {s : State} {c : Ctx} (hrefilled : c.Refilled)
    (hclean : ∀ L ∈ c.holding, (((c.g.stream c.st).lanes[L]).rbad).contains 0 = false)
    (h : s.goodTargets c (c.holding.map (fun L => (((c.g.stream c.st).lanes[L]).rstack).headD 0))) :
    s.retVerdict c = .go (State.popAll c) (some (fun L => if laneIn c.ending L then none
      else some (if laneIn c.act L then (((c.g.stream c.st).lanes[L]).rstack).headD 0 else c.pc + 4))) := by
  have hbad : c.holding.any (fun L => (((c.g.stream c.st).lanes[L]).rbad).contains 0) = false :=
    List.any_eq_false.2 fun L hL => by rw [hclean L hL]; exact Bool.false_ne_true
  unfold State.retVerdict
  dsimp only
  rw [refills_eq_nil hrefilled, stackAccesses_nil, ending_of_refilled hrefilled]
  dsimp only
  refine (if_neg (Bool.eq_false_iff.1 hbad)).trans ?_
  refine (transferVerdict_map h).trans ?_
  congr 2
  funext L
  split
  · rfl
  · next hL => exact congrArg some (if_congr (mem_holding_of_not_ending hL) rfl rfl)

/-- Settles O17: the verdicts of CALL, CALLR and RET under their conditions. -/
theorem callsAndReturns : Obligations.CallsAndReturns := by
  unfold Obligations.CallsAndReturns
  refine ⟨fun p o => ?call, fun a ra => ?callr, ?ret⟩
  case call =>
    refine transfers_of (fun _ => rfl) (fun s c ⟨hspill, hgood⟩ => ?_)
    have htargets := goodTargets_const fun ⟨L, hL⟩ => hgood (List.ne_nil_of_mem hL)
    refine (callVerdict_good (f := fun _ => _) hspill htargets).trans ?_
    simp only [mem_filter_lanesOf]
  case callr =>
    refine transfers_of (fun _ => rfl) (fun s c ⟨hspill, hgood⟩ => ?_)
    refine (callVerdict_good hspill hgood).trans ?_
    simp only [mem_lanesOf]
  case ret => exact transfers_of (fun _ => rfl) (fun s c ⟨hrefilled, hclean, hgood⟩ => retVerdict_good hrefilled hclean hgood)

end Sys2Proof.Machine

/-! Spills and refills of return stacks (07 R205 to R207). -/

namespace Sys2Proof.Machine

open Sys2Proof

/-! What an access to a line leaves alone (13 R333; 19 R487). -/

theorem SameGroups.trans {a b c : Assoc Group} (h : SameGroups a b) (k : SameGroups b c) : SameGroups a c := by
  obtain ⟨p, rfl⟩ := h
  obtain ⟨q, rfl⟩ := k
  refine ⟨fun g => p g || q (if p g then { g with killed := true } else g), ?_⟩
  rw [List.map_map]
  refine List.map_congr_left fun e _ => ?_
  dsimp only [Function.comp_apply]
  by_cases hp : p e.2 = true
  · simp only [hp, if_true, Bool.true_or]
    split <;> rfl
  · simp only [hp, Bool.false_or, Bool.false_eq_true, if_false]

theorem SameGroups.find_some {a b : Assoc Group} (h : SameGroups a b) {k : Nat} {g : Group} (hg : a.find k = some g) :
    ∃ dead, b.find k = some { g with killed := dead } := by
  obtain ⟨p, hp⟩ := h.find k
  rw [hp, hg, Option.map_some]
  split
  · exact ⟨true, rfl⟩
  · exact ⟨g.killed, rfl⟩

theorem Recorded.sameGroups {s t : State} (h : Recorded s t) : SameGroups s.groups t.groups := by
  obtain ⟨_, _, _, _, _, rfl, -, -, hg⟩ := h
  exact hg

theorem Recorded.viral {s t : State} (h : Recorded s t) : t.viral = s.viral := by
  obtain ⟨_, _, _, _, _, rfl, -, -, -⟩ := h; rfl

section
variable (s : State) (g : Group) (key who die : Nat) (core : Option Nat) (w : Bool)

theorem accessLine_sameGroups : SameGroups s.groups (s.accessLine g key who die core w).groups := by
  have hline := (order_frame s g 7 (key / 128) who []).sameGroups
  have hchange := (orderChange_frame ((s.orderLine g key who).classify key die core w) s g (granuleOf key) who).sameGroups
  rw [classify_groups] at hchange
  exact hline.trans hchange

theorem accessLine_viral : (s.accessLine g key who die core w).viral = s.viral := by
  unfold State.accessLine
  rw [(orderChange_frame ..).viral, classify_viral]
  exact (order_frame ..).viral

end

theorem count_mem (s : State) (core code n : Nat) : (s.count core code n).mem = s.mem := modDie_mem ..

theorem count_groups (s : State) (core code n : Nat) : (s.count core code n).groups = s.groups := modDie_groups ..

theorem writeBytes_mem_of_not_blocked {s : State} {key : Nat} (h : s.viralBlocks key = false) (bs : List Byte) :
    (s.writeBytes key bs).mem = s.mem.writeN key bs := congrArg State.mem (if_neg (Bool.eq_false_iff.1 h))

theorem writeBytes_groups (s : State) (key : Nat) (bs : List Byte) : (s.writeBytes key bs).groups = s.groups := by
  obtain ⟨_, h⟩ := writeBytes_frame s key bs
  rw [h]

theorem writePoison_groups (s : State) (key n : Nat) : (s.writePoison key n).groups = s.groups := by
  unfold State.writePoison
  split <;> rfl

/-! One group whose stack spills or is refilled (07 R206, R207). -/

/-- The pointer by which a stream spills in a lane. -/
def Group.spillPtr (g : Group) : Stream → Fin 32 → Dword
  | .addr, L => g.sptr[L]
  | .comp, L => g.cspill[L]

/-- That pointer behind one entry more. -/
def Group.nextSpill (g : Group) : Stream → Fin 32 → Dword
  | .addr, L => g.sptr[L] - 8
  | .comp, L => g.cspill[L] + 8

/-- That pointer behind one entry fewer. -/
def Group.prevSpill (g : Group) : Stream → Fin 32 → Dword
  | .addr, L => g.sptr[L] + 8
  | .comp, L => g.cspill[L] - 8

/-- Set that pointer. -/
def Group.setSpillPtr (g : Group) (st : Stream) (L : Fin 32) (x : Dword) : Group :=
  match st with
  | .addr => { g with sptr := setLaneD g.sptr L x }
  | .comp => { g with cspill := setLaneD g.cspill L x }

/-- A lane whose oldest entry leaves for memory as a return address is pushed. -/
def LaneCtl.pushSpilled (l : LaneCtl) (ret : Dword) : LaneCtl :=
  { l with rstack := ret :: l.rstack.dropLast, spilled := l.spilled + 1,
           rbad := (l.rbad.filter (fun i => decide (i + 1 < l.rstack.length))).map (fun i => i + 1) }

/-- A lane to whose empty stack an entry comes back. -/
def LaneCtl.refilled (l : LaneCtl) (x : Dword) : LaneCtl := { l with spilled := l.spilled - 1, rstack := [x], rbad := [] }

/-- A stream's change of one lane and of its spill pointer there. -/
def Group.spillStep (g : Group) (st : Stream) (L : Fin 32) (f : LaneCtl → LaneCtl) (ptr : Group → Stream → Fin 32 → Dword) : Group :=
  let h := g.modLanes st (setBit 0 L true) f
  h.setSpillPtr st L (ptr h st L)

section
variable (g : Group) (st : Stream) (L : Fin 32)

/-- The lane of a change to one lane. -/
theorem modLanes_setBit_lane (f : LaneCtl → LaneCtl) :
    ((g.modLanes st (setBit 0 L true) f).stream st).lanes[L] = f ((g.stream st).lanes[L]) := by
  rw [modLanes_lane, laneIn_setBit, if_pos ⟨rfl, if_pos rfl⟩]

theorem setSpillPtr_stream (x : Dword) : (g.setSpillPtr st L x).stream = g.stream := by
  cases st <;> rfl

theorem setSpillPtr_spillPtr (x : Dword) : (g.setSpillPtr st L x).spillPtr st L = x := by
  cases st <;> exact Vector.getElem_set_self ..

theorem modStream_sptr (f : StreamState → StreamState) : (g.modStream st f).sptr = g.sptr := by cases st <;> rfl

theorem modStream_cspill (f : StreamState → StreamState) : (g.modStream st f).cspill = g.cspill := by cases st <;> rfl

theorem spillStep_lane (f : LaneCtl → LaneCtl) (ptr : Group → Stream → Fin 32 → Dword) :
    ((g.spillStep st L f ptr).stream st).lanes[L] = f ((g.stream st).lanes[L]) := by
  unfold Group.spillStep
  dsimp only
  rw [setSpillPtr_stream, modLanes_setBit_lane]

theorem spillStep_nextSpill (f : LaneCtl → LaneCtl) : (g.spillStep st L f Group.nextSpill).spillPtr st L = g.nextSpill st L := by
  refine (setSpillPtr_spillPtr ..).trans ?_
  cases st <;> simp only [Group.nextSpill, Group.modLanes, modStream_sptr, modStream_cspill]

theorem spillStep_prevSpill (f : LaneCtl → LaneCtl) : (g.spillStep st L f Group.prevSpill).spillPtr st L = g.prevSpill st L := by
  refine (setSpillPtr_spillPtr ..).trans ?_
  cases st <;> simp only [Group.prevSpill, Group.modLanes, modStream_sptr, modStream_cspill]

end

/-! A push in the machine (07 R205, R206). -/

/-- The oldest entry of a lane's stack. -/
def Ctx.oldest (c : Ctx) (L : Fin 32) : Dword := ((((c.g.stream c.st).lanes[L]).rstack).getLast?).getD 0

/-- The oldest entry of a lane's stack goes to its place in memory. -/
def State.spillOldest (s : State) (c : Ctx) (L : Fin 32) (key : Nat) : State :=
  let t := (s.accessLine c.g key (c.g.yWho L.val) c.g.die (some c.g.core) true).writeBytes key (bytesOfNat 8 (c.oldest L).toNat)
  let lane := (c.g.stream c.st).lanes[L]
  (if lane.rbad.contains (lane.rstack.length - 1) then t.writePoison key 8 else t).count c.g.core 0x09 1

section
variable (s : State) (c : Ctx) (ret : Dword) (L : Fin 32) (key : Nat)

theorem pushReturn_spill : s.pushReturn c ret L (some key) =
    (s.spillOldest c L key).modGroup c.gid (fun g => g.spillStep c.st L (fun l => l.pushSpilled ret) Group.nextSpill) := by
  refine congrArg (State.modGroup _ _) (funext fun g => ?_)
  cases c.st <;> rfl

theorem refill_eq : s.refill c L key =
    ((s.accessLine c.g key (c.g.yWho L.val) c.g.die (some c.g.core) false).count c.g.core 0x0A 1).modGroup c.gid (fun g =>
      g.spillStep c.st L (fun l => l.refilled (BitVec.ofNat 64 (natOfBytes (s.mem.readN key 8)))) Group.prevSpill) := by
  refine congrArg (State.modGroup _ _) (funext fun g => ?_)
  cases c.st <;> rfl

theorem spillOldest_sameGroups : SameGroups s.groups (s.spillOldest c L key).groups := by
  have hgroups : (s.spillOldest c L key).groups =
      (s.accessLine c.g key (c.g.yWho L.val) c.g.die (some c.g.core) true).groups := by
    unfold State.spillOldest
    dsimp only
    rw [count_groups]
    split
    · exact (writePoison_groups ..).trans (writeBytes_groups ..)
    · exact writeBytes_groups ..
  rw [hgroups]
  exact accessLine_sameGroups ..

variable {s key}

theorem spillOldest_mem (h : s.viralBlocks key = false) :
    (s.spillOldest c L key).mem = s.mem.writeN key (bytesOfNat 8 (c.oldest L).toNat) := by
  have hblocks : (s.accessLine c.g key (c.g.yWho L.val) c.g.die (some c.g.core) true).viralBlocks key = false := by
    rw [State.viralBlocks, accessLine_viral]
    exact h
  have hwrite : ((s.accessLine c.g key (c.g.yWho L.val) c.g.die (some c.g.core) true).writeBytes key
      (bytesOfNat 8 (c.oldest L).toNat)).mem = s.mem.writeN key (bytesOfNat 8 (c.oldest L).toNat) := by
    rw [writeBytes_mem_of_not_blocked hblocks, accessLine_mem]
  unfold State.spillOldest
  dsimp only
  rw [count_mem]
  split
  · exact (writePoison_mem ..).trans hwrite
  · exact hwrite

/-- The spilled entry is read back from its place. -/
theorem spillOldest_readN (h : s.viralBlocks key = false) (hwf : s.mem.wf = true) :
    natOfBytes ((s.spillOldest c L key).mem.readN key 8) = (c.oldest L).toNat := by
  have hread := Bytes.readN_writeN hwf key (bytesOfNat 8 (c.oldest L).toNat)
  rw [bytesOfNat_length] at hread
  rw [spillOldest_mem c L h, hread, natOfBytes_bytesOfNat]
  exact Nat.mod_eq_of_lt (c.oldest L).isLt

end

/-- A group after a push onto a stack with room (07 R205). -/
theorem pushReturn_room (s : State) (c : Ctx) (ret : Dword) (L : Fin 32) {g : Group} (hg : s.groups.find c.gid = some g) :
    ∃ h, (s.pushReturn c ret L none).groups.find c.gid = some h ∧
      ((h.stream c.st).lanes[L]).rstack = ret :: ((g.stream c.st).lanes[L]).rstack := by
  refine ⟨_, (modGroup_find ..).trans (congrArg (Option.map _) hg), ?_⟩
  rw [modLanes_setBit_lane]

/-- A group after a push onto a full stack (07 R206). -/
theorem pushReturn_full (s : State) (c : Ctx) (ret : Dword) (L : Fin 32) (key : Nat) {g : Group} (hg : s.groups.find c.gid = some g) :
    ∃ h, (s.pushReturn c ret L (some key)).groups.find c.gid = some h ∧
      ((h.stream c.st).lanes[L]) = ((g.stream c.st).lanes[L]).pushSpilled ret ∧ h.spillPtr c.st L = g.nextSpill c.st L := by
  obtain ⟨dead, hdead⟩ := (spillOldest_sameGroups s c L key).find_some hg
  refine ⟨_, by rw [pushReturn_spill, modGroup_find, hdead, Option.map_some], ?_, ?_⟩
  · rw [spillStep_lane]
    cases c.st <;> rfl
  · rw [spillStep_nextSpill]
    cases c.st <;> rfl

/-! RETURN_STACK_REFILL (07 R207). -/

/-- A group after the refill of a lane. -/
theorem refill_find (s : State) (c : Ctx) (L : Fin 32) (key : Nat) {g : Group} (hg : s.groups.find c.gid = some g) :
    ∃ h, (s.refill c L key).groups.find c.gid = some h ∧
      ((h.stream c.st).lanes[L]) = ((g.stream c.st).lanes[L]).refilled (BitVec.ofNat 64 (natOfBytes (s.mem.readN key 8))) ∧
      h.spillPtr c.st L = g.prevSpill c.st L := by
  obtain ⟨dead, hdead⟩ := (accessLine_sameGroups s c.g key (c.g.yWho L.val) c.g.die (some c.g.core) false).find_some hg
  refine ⟨_, (congrArg (fun t : State => t.groups.find c.gid) (refill_eq s c L key)).trans
    ((modGroup_find ..).trans (congrArg (Option.map _) hdead)), ?_, ?_⟩
  · rw [spillStep_lane]
    cases c.st <;> rfl
  · rw [spillStep_prevSpill]
    cases c.st <;> rfl

theorem refill_mem (s : State) (c : Ctx) (L : Fin 32) (key : Nat) : (s.refill c L key).mem = s.mem := by
  rw [refill_eq, modGroup_mem]
  exact accessLine_mem ..

/-- The refills of a group write nothing to memory, its fault neither. -/
theorem refillGroup_mem (s : State) (c : Ctx) : (s.refillGroup c).mem = s.mem := by
  unfold State.refillGroup
  split
  · rfl
  · split
    · exact (((Framed.start s (fun _ => [])).raiseAt ..).afterWork _).mem
    · exact List.foldlRecOn (motive := fun t : State => t.mem = s.mem) _ _ rfl (fun t ht p _ => (refill_mem t c _ _).trans ht)

/-- The run waits no longer. -/
theorem returnStackRefill_next {s : State} {slot : Nat} {r : Run} (hr : s.runs.find slot = some r) (hw : r.stalled = some .refill) :
    ∃ t, exec (.returnStackRefill slot) s = .next t ∧ t.mem = s.mem ∧ ∀ q, t.runs.find slot = some q → q.stalled = none := by
  change ∃ t, execReturnStackRefill slot s = .next t ∧ _
  unfold execReturnStackRefill
  rw [hr]
  dsimp only
  rw [if_pos hw]
  refine ⟨_, rfl, ?_, fun q hq => ?_⟩
  · exact List.foldlRecOn (motive := fun t : State => t.mem = s.mem) _ _ rfl (fun t ht c _ => (refillGroup_mem t c).trans ht)
  · dsimp only at hq
    rw [modRun_find, Option.map_eq_some_iff] at hq
    obtain ⟨x, -, rfl⟩ := hq
    rfl

/-- Settles O18: what a push and a refill make of a lane, its spill pointer and memory. -/
theorem returnStacks : Obligations.ReturnStacks := by
  unfold Obligations.ReturnStacks
  refine ⟨fun s c ret L g hg => ⟨?room, fun key hgc hviral _ hwf => ?full⟩, fun s slot r hr hw => returnStackRefill_next hr hw,
    fun s c L key g hg => ?refill⟩
  case room =>
    obtain ⟨h, hh, hstack⟩ := pushReturn_room s c ret L hg
    exact ⟨h, hh, hstack, rfl⟩
  case full =>
    obtain ⟨h, hh, hlane, hptr⟩ := pushReturn_full s c ret L key hg
    have hread := spillOldest_readN c L hviral hwf
    refine ⟨h, hh, by rw [hlane]; rfl, by rw [hlane]; rfl, ?_, ?_⟩
    · rw [pushReturn_spill, modGroup_mem, hgc]
      exact hread
    · split <;> next hst => rw [hst] at hptr; exact hptr
  case refill =>
    obtain ⟨h, hh, hlane, hptr⟩ := refill_find s c L key hg
    refine ⟨h, hh, by rw [hlane]; rfl, by rw [hlane]; rfl, ?_⟩
    split <;> next hst => rw [hst] at hptr; exact hptr

end Sys2Proof.Machine

/-! A lane's access, performed (13 R326; 08 R229, R237). -/

namespace Sys2Proof.Machine

open Sys2Proof

@[simp] theorem writeAccess_ops (s : State) (a : LaneAccess) (x : Nat) : (s.writeAccess a x).ops = s.ops := by
  unfold State.writeAccess
  split
  · obtain ⟨p, hp⟩ := writeBytes_frame s a.addr (bytesOfNat a.size x)
    rw [hp]
  · simp
  · rfl

/-- In memory, what is read is what memory holds: only a queue's write pointer is replayed (19 R488). -/
theorem readPerformed_phys {a : LaneAccess} (h : a.space = .phys) (s : State) (id : Nat) :
    s.readPerformed id a =
      (natOfBytes (s.mem.readN a.addr a.size), if s.poisonIn a.addr a.size then some a.va else none) := by
  simp [State.readPerformed, State.wptrGroup, State.readAccess, State.bytesAt, h]

/-- Without viral containment a place holds the value that the access puts there. -/
theorem performAccess_readN {s : State} (hwf : s.mem.wf = true) (hv : s.viral = false) {a : LaneAccess} (hp : a.space = .phys)
    (id core : Nat) {x : Nat} (hx : a.act.newValue a.size (natOfBytes (s.mem.readN a.addr a.size)) = some x) :
    natOfBytes ((s.performAccess id core a).mem.readN a.addr a.size) = x % 2 ^ (8 * a.size) := by
  have hread := Bytes.readN_writeN hwf a.addr (bytesOfNat a.size x)
  rw [bytesOfNat_length] at hread
  rw [performAccess_mem, readPerformed_phys hp, hx]
  simp [hp, State.viralBlocks, hv, hread, natOfBytes_bytesOfNat]

/-- The pending instruction after an access to memory: the lane's access is gone, and its result is held unless it is a store's. -/
theorem performAccess_ops {s : State} {id : Nat} {o : VOp} (ho : s.ops.find id = some o) (core : Nat) {a : LaneAccess}
    (hp : a.space = .phys) :
    (s.performAccess id core a).ops.find id = some { o with
      todo := o.todo.filter (fun b => b.lane != a.lane)
      results := o.results ++ (match a.act with
        | .store _ => []
        | _ => if codeNames o.t = .zero then []
               else [o.receive a.lane a.size (natOfBytes (s.mem.readN a.addr a.size))
                      (if s.poisonIn a.addr a.size then some a.va else none)]) } := by
  unfold State.performAccess
  simp only [readPerformed_phys hp, hp]
  cases hn : a.act.newValue a.size (natOfBytes (s.mem.readN a.addr a.size)) <;>
    simp only [modOp_find, writeAccess_ops, opChange_ops, classify_ops, recordAccess_ops, ho, Option.map_some] <;>
    cases a.act <;> rfl

/-! The operations of ATOM (08 R237). -/

theorem readInt_ite_eq_min (n : Nat) (sg : Bool) (x y : Nat) :
    readInt n sg (if readInt n sg y < readInt n sg x then y else x) = min (readInt n sg x) (readInt n sg y) := by
  split <;> omega

theorem readInt_ite_eq_max (n : Nat) (sg : Bool) (x y : Nat) :
    readInt n sg (if readInt n sg x < readInt n sg y then y else x) = max (readInt n sg x) (readInt n sg y) := by
  split <;> omega

/-- Settles O21: what an access leaves in memory is `performAccess_mem`, and its bytes read back. -/
theorem accessesPerformed : Obligations.AccessesPerformed := by
  unfold Obligations.AccessesPerformed
  refine ⟨fun s id core o a ho hp hv hwf _ => ?_, fun n old v cmp _ _ sg => ?_⟩
  · refine ⟨fun k hk => performAccess_read_out s id core a fun _ => hk, fun ha => ?_, fun x ha => ?_, fun op sg v cmp ha => ?_,
      fun bf v ha => ?_, ?_⟩
    · rw [performAccess_mem, ha]; rfl
    · exact performAccess_readN hwf hv hp id core (by rw [ha]; rfl)
    · exact performAccess_readN hwf hv hp id core (by rw [ha]; rfl)
    · exact performAccess_readN hwf hv hp id core (by rw [ha]; rfl)
    · exact ⟨_, performAccess_ops ho core hp, rfl, by cases a.act <;> rfl⟩
  · refine ⟨rfl, readInt_ite_eq_min n sg old v, readInt_ite_eq_max n sg old v, fun k => ⟨?_, ?_, ?_⟩, rfl, rfl⟩
    · exact Nat.testBit_and ..
    · exact Nat.testBit_or ..
    · exact (Nat.testBit_xor ..).trans (by cases old.testBit k <;> cases v.testBit k <;> rfl)

end Sys2Proof.Machine

/-! Queue instructions and team barriers (08 R240 to R243). -/

namespace Sys2Proof.Machine

open Sys2Proof

/-! QDEPTH (08 R242). -/

/-- What QDEPTH into D names. -/
def qdepthRule (d : Code) : LaneRule := { words := 1, row := ⟨some 2, none, some 1⟩, uses := { dst := some (op32 d) } }

/-- The entries that a lane counts: its own, or for a uniform destination the fewest of the active lanes. -/
def qdepthVal (d : Code) (q : Nat) (c : Ctx) (L : Fin 32) : Nat :=
  if tyOf d = .vary then (c.g.entries q L).countP QEntry.present
  else (lanesOf c.act).foldl (fun x M => Nat.min x ((c.g.entries q M).countP QEntry.present))
    ((c.g.entries q (lowestLane c.act)).countP QEntry.present)

/-- QDEPTH in a group outside a replay (19 R487). -/
theorem aluQdepth_sem {s : State} {d a : Code} {q : Nat} (ha : codeNames a = .q q) {c : Ctx} (hy : s.yMode c.g = 0) :
    (aluQdepth s d a).sem s c = .go (fun x =>
      if c.part (qdepthRule d).full = 0 then x
      else x.issueFixed c (qdepthRule d).full (qdepthRule d).latency
        ((qdepthRule d).writesOf c (c.part (qdepthRule d).full) (fun L => { val := qdepthVal d q c L }))) none := by
  have hv : ∀ what L live, s.yValue c.g what L live = live := fun _ _ _ => by simp [State.yValue, hy]
  have hclosed : (aluQdepth s d a).isClosed = false := by simp [Alu.isClosed, aluQdepth]
  have hfn : ∀ m, (aluQdepth s d a).fn c m = .ok (fun L => { val := c.depthOf d q m L }) := by
    intro m
    simp only [aluQdepth, ha, hv, Option.getD_some]
  have huses : (aluQdepth s d a).allUses = (qdepthRule d).full := by simp only [Alu.allUses, aluQdepth, ha]; rfl
  have hlat : (aluQdepth s d a).latency = (qdepthRule d).latency := by simp only [Alu.latency, aluQdepth, ha]; rfl
  have hwrites : ∀ m out, (aluQdepth s d a).writes c m out = (qdepthRule d).writesOf c m out := fun m out => by
    simp only [Alu.writes, aluQdepth, ha]
    rfl
  have hstep : ∀ (x : State) m (f : Fin 32 → Nat), x.modGroup c.gid (fun g => g.step m (fun L => { val := f L })) = x :=
    fun x m f => modGroup_id x _ _ (fun g => step_id g m _ (fun _ => rfl))
  simp only [Alu.sem, hclosed, hfn, huses, hlat, hwrites, hstep, Bool.false_eq_true, if_false]
  exact go_unless _ _

/-- QDEPTH of a bundle outside a replay. -/
theorem qdepth_issues {d a : Code} {q : Nat} (ha : codeNames a = .q q) {s : State} {r : Run} {cs : List Ctx}
    (h : Going s r cs (qdepthRule d).full (fun _ => some (qdepthRule d).latency)) (hy : ∀ c ∈ cs, s.yMode c.g = 0) :
    exec (.qdepth d a) s = .next (s.afterIssue cs 1 [] false (fun c x =>
      (if c.part (qdepthRule d).full = 0 then x
       else x.issueFixed c (qdepthRule d).full (qdepthRule d).latency
         ((qdepthRule d).writesOf c (c.part (qdepthRule d).full) (fun L => { val := qdepthVal d q c L }))).yAfterAll c.g yQdepth
           (qdepthVal d q c) (readLanes d c.act))) := by
  have huses : (aluQdepth s d a).allUses = (qdepthRule d).full := by simp only [Alu.allUses, aluQdepth, ha]; rfl
  have hlat : (aluQdepth s d a).latency = (qdepthRule d).latency := by simp only [Alu.latency, aluQdepth, ha]; rfl
  show execQdepth d a s = _
  simp only [execQdepth, huses, hlat, ha]
  congr 1
  refine issue_go h (fun c hc => ?_)
  rw [aluQdepth_sem ha (hy c hc)]
  rfl

/-! Phases of a team barrier (08 R243). -/

/-- A group no longer counts in a phase of a stream: it has finished, or has exited there with no ordered access left. -/
theorem goneAt_iff (s : State) (gid : Nat) (g : Group) (st : Stream) :
    s.goneAt gid g st = true ↔
      g.status = .finished ∨ ((g.stream st).allExited = true ∧ (st = .addr → s.orderedOutstanding gid = false)) := by
  cases st <;> simp [State.goneAt]

/-- Every group of the team has arrived in the stream, has exited there or has finished. -/
def TbarDone (s : State) (tid : Nat) (t : Team) (st : Stream) (n : Nat) : Prop :=
  ∀ e ∈ s.groups, e.2.team = tid →
    e.2.status = .finished ∨ ((e.2.stream st).allExited = true ∧ (st = .addr → s.orderedOutstanding e.1 = false)) ∨
      t.tbar[tbarIx st n].arrived.getLsbD e.2.groupId = true

theorem teamGroups_all_iff (s : State) (tid : Nat) (t : Team) (st : Stream) (n : Nat) :
    (s.teamGroups tid).all (fun e => s.goneAt e.1 e.2 st || t.tbar[tbarIx st n].arrived.getLsbD e.2.groupId) = true ↔
      TbarDone s tid t st n := by
  simp only [State.teamGroups, TbarDone, List.all_eq_true, List.mem_filter, beq_iff_eq, and_imp, Bool.or_eq_true, goneAt_iff,
    or_assoc]

theorem checkTbar_of_done {s : State} {tid : Nat} {t : Team} {st : Stream} {n : Nat} (ht : s.teams.find tid = some t)
    (hd : TbarDone s tid t st n) (ha : t.tbar[tbarIx st n].arrived ≠ 0) :
    (s.checkTbar tid st n).teams.find tid = some { t with
      tbar := t.tbar.set (tbarIx st n) ⟨t.tbar[tbarIx st n].phase + 1, 0, t.tbar[tbarIx st n].visible⟩ } := by
  simp only [State.checkTbar, ht, (teamGroups_all_iff s tid t st n).2 hd, bne_iff_ne.2 ha, Bool.and_self, if_true, modTeam_find,
    Option.map_some]

theorem checkTbar_of_not_done {s : State} {tid : Nat} {t : Team} {st : Stream} {n : Nat} (ht : s.teams.find tid = some t)
    (hd : ¬ TbarDone s tid t st n) : s.checkTbar tid st n = s := by
  have hall := Bool.eq_false_iff.2 (mt (teamGroups_all_iff s tid t st n).1 hd)
  simp only [State.checkTbar, ht, hall, Bool.false_and, Bool.false_eq_true, if_false]

/-- Settles O22: each instruction issues with its effect, and a phase completes as `checkTbar` tests its groups. -/
theorem queuesAndTeamBarriers : Obligations.QueuesAndTeamBarriers := by
  unfold Obligations.QueuesAndTeamBarriers
  refine ⟨⟨fun la tk => ?qtok, fun d p => ?qpushP, fun d a q ha s r cs h hy => ?qdepth, fun a ra => ?tbar⟩,
    fun s tid t st n ht => ⟨fun hd hb => ?phase, fun hd => checkTbar_of_not_done ht hd⟩⟩
  case qtok =>
    refine acts_of (fun _ => rfl) (fun s c hok => ?_)
    by_cases h0 : c.act = 0
    · simp only [h0, if_true]
    · obtain ⟨hord, hvar⟩ := hok h0
      simp only [h0, hord, hvar, Bool.false_eq_true, if_false]
      rfl
  case qpushP => exact computes_of_lanewise (aluQpush d p) (fun _ => rfl) rfl rfl rfl rfl rfl rfl rfl rfl fun _ _ => rfl
  case qdepth => exact qdepth_issues ha h hy
  case tbar =>
    refine acts_of (fun _ => rfl) (fun s c hok => ?_)
    by_cases h0 : c.act = 0
    · simp only [h0, if_true]
    · have hgo : (c.st == Stream.addr && s.orderedOutstanding c.gid) = false := by
        rw [Bool.and_eq_false_imp]
        exact fun hst => hok h0 (beq_iff_eq.1 hst)
      simp only [h0, hgo, Bool.false_eq_true, if_false]
      rfl
  case phase =>
    refine ⟨_, checkTbar_of_done ht hd hb, ?_, fun m hm => ?_⟩
    · exact Vector.getElem_set_self (tbarIx st n).isLt
    · exact Vector.getElem_set_ne (tbarIx st n).isLt (tbarIx st m).isLt fun h => hm (Fin.ext h.symm)

end Sys2Proof.Machine

/-! Instructions across lanes (08 R245 to R249). -/

namespace Sys2Proof.Machine

open Sys2Proof

/-! Shuffles and votes (08 R246, R247). -/

/-- The only lane that a search names is found when it is in the mask. -/
theorem find_lanesOf {m : Word} {p : Fin 32 → Bool} {M : Fin 32} (hp : ∀ K, p K = true ↔ K = M) :
    (lanesOf m).find? p = if laneIn m M then some M else none := by
  cases hf : (lanesOf m).find? p with
  | some K =>
    have hK : K = M := (hp K).1 (List.find?_some hf)
    rw [← hK, if_pos (mem_lanesOf.1 (List.mem_of_find?_eq_some hf))]
  | none =>
    rw [if_neg fun hm => List.find?_eq_none.1 hf M (mem_lanesOf.2 hm) ((hp M).2 rfl)]

/-- A search for a lane by its number. -/
theorem find_laneAt (m : Word) (x : Int) :
    (lanesOf m).find? (fun M => (M.val : Int) == x) = (laneAt x).filter (laneIn m) := by
  unfold laneAt
  split
  · next h =>
    rw [find_lanesOf (M := ⟨x.toNat, by omega⟩) fun K => by rw [beq_iff_eq, Fin.ext_iff]; dsimp only; omega]
    rfl
  · next h =>
    have hnone : (lanesOf m).find? (fun M => (M.val : Int) == x) = none :=
      List.find?_eq_none.2 fun M _ => by
        have := M.isLt
        rw [beq_iff_eq]
        omega
    rw [hnone]
    rfl

/-- The lane that a shuffle reads: the source lane where it takes part, else the lane itself (08 R246). -/
theorem shuffle_source {α : Type} (m : Word) (L : Fin 32) (x : Int) (f : Fin 32 → α) :
    f (match laneAt x with | some M => if laneIn m M then M else L | none => L) =
      match (lanesOf m).find? (fun M => (M.val : Int) == x) with
      | some M => f M
      | none => f L := by
  rw [find_laneAt]
  cases laneAt x with
  | none => rfl
  | some M =>
    rw [Option.filter_some]
    dsimp only
    split <;> rfl

theorem lget_computes {i : FQ → Instr} {src : Nat → Nat → Int} (f : FQ) (he : ∀ s, exec (i f) s = runAlu 1 (aluLget f src) s) :
    ComputesWhen (i f) { words := 1, row := ⟨some 4, none, none⟩, uses := shuffleUses f } (fun _ _ => True) (fun c m L =>
      { val := match (lanesOf m).find? (fun M => (M.val : Int) == src L.val ((c.values (shuffleUses f) L).getD 1 0)) with
          | some M => (c.values (shuffleUses f) M).getD 0 0
          | none => (c.values (shuffleUses f) L).getD 0 0 }) := by
  refine computesWhen_of_alu (aluLget f src) he rfl rfl rfl rfl fun c m _ => congrArg Except.ok (funext fun L => ?_)
  exact congrArg (fun v => ({ val := v } : LaneOut)) (shuffle_source m L _ fun M => (c.values (shuffleUses f) M).getD 0 0)

/-- Every lane of a mask meets a condition. -/
theorem maskOf_beq_mask (m : Word) (p : Fin 32 → Bool) : (maskOf (fun L => laneIn m L && p L) == m) = (lanesOf m).all p := by
  rw [Bool.eq_iff_iff, beq_iff_eq, List.all_eq_true]
  constructor
  · intro h L hL
    have hm := mem_lanesOf.1 hL
    rw [← h, laneIn_maskOf, Bool.and_eq_true] at hm
    exact hm.2
  · intro h
    refine BitVec.eq_of_getLsbD_eq fun k hk => ?_
    change laneIn (maskOf _) ⟨k, hk⟩ = laneIn m ⟨k, hk⟩
    rw [laneIn_maskOf]
    cases hm : laneIn m ⟨k, hk⟩ with
    | false => rfl
    | true => exact h _ (mem_lanesOf.2 hm)

/-- Some lane of a mask meets a condition. -/
theorem maskOf_bne_zero (m : Word) (p : Fin 32 → Bool) : (maskOf (fun L => laneIn m L && p L) != 0) = (lanesOf m).any p := by
  rw [Bool.eq_iff_iff, bne_iff_ne, List.any_eq_true]
  constructor
  · intro h
    by_contra hn
    refine h (BitVec.eq_of_getLsbD_eq fun k hk => ?_)
    change laneIn (maskOf _) ⟨k, hk⟩ = laneIn 0 ⟨k, hk⟩
    rw [laneIn_maskOf, laneIn_zero, Bool.and_eq_false_iff]
    by_contra hkp
    rw [not_or, Bool.not_eq_false, Bool.not_eq_false] at hkp
    exact hn ⟨⟨k, hk⟩, mem_lanesOf.2 hkp.1, hkp.2⟩
  · rintro ⟨L, hL, hp⟩ h
    have hin : laneIn (maskOf (fun L => laneIn m L && p L)) L = true := by
      rw [laneIn_maskOf, mem_lanesOf.1 hL, hp]
      rfl
    rw [h, laneIn_zero] at hin
    cases hin

/-! The permute (08 R249). -/

/-- A byte of the table: byte `x % 4` of lane `x / 4`, zero where no such lane takes part. -/
theorem tlpByte_eq (m : Word) (f : Fin 32 → Nat) (x : Nat) :
    tlpByte (fun M => if laneIn m M then f M else 0) x =
      if x < 128 then
        match (lanesOf m).find? (fun M => M.val == x / 4) with
        | some M => f M / 256 ^ (x % 4) % 256
        | none => 0
      else 0 := by
  unfold tlpByte
  by_cases hx : x < 128
  · rw [if_neg (Nat.not_le.2 hx), if_pos hx,
      find_lanesOf (M := ⟨x / 4 % 32, Nat.mod_lt _ (by decide)⟩) fun K => by
        rw [beq_iff_eq, Fin.ext_iff]
        dsimp only
        omega]
    by_cases hm : laneIn m ⟨x / 4 % 32, Nat.mod_lt _ (by decide)⟩ = true <;> simp [hm]
  · rw [if_pos (Nat.not_lt.1 hx), if_neg hx]

theorem tlp_computes (f : FQ) :
    ComputesWhen (.tlp f) { words := 1, row := ⟨some 4, none, none⟩, uses := shuffleUses f } (fun _ _ => True) (fun c m L =>
      let byte (i : Nat) : Nat :=
        let x := (c.values (shuffleUses f) L).getD 1 0 / 256 ^ i % 256
        if x < 128 then
          match (lanesOf m).find? (fun M => M.val == x / 4) with
          | some M => (c.values (shuffleUses f) M).getD 0 0 / 256 ^ (x % 4) % 256
          | none => 0
        else 0
      { val := byte 0 + 256 * byte 1 + 256 ^ 2 * byte 2 + 256 ^ 3 * byte 3 }) := by
  refine computesWhen_of_alu (aluTlp f) (fun _ => rfl) rfl rfl rfl rfl fun c m _ => congrArg Except.ok (funext fun L => ?_)
  refine congrArg (fun v => ({ val := v } : LaneOut)) ?_
  dsimp only
  rw [tlpByte_eq, tlpByte_eq, tlpByte_eq, tlpByte_eq, Nat.pow_zero, Nat.mul_one, Nat.pow_one, Nat.mul_comm 256, Nat.mul_comm (256 ^ 2),
    Nat.mul_comm (256 ^ 3)]

/-! What LFOLD computes (08 R248). -/

theorem foldl_add_mod (sg : Bool) (xs : List Nat) {x : Nat} (hx : x < 2 ^ 32) :
    xs.foldl (foldStep 0 sg) x = (x + xs.sum) % 2 ^ 32 := by
  induction xs generalizing x with
  | nil => exact (Nat.mod_eq_of_lt hx).symm
  | cons y xs ih =>
    have hstep : foldStep 0 sg x y = (x + y) % 2 ^ 32 := rfl
    rw [List.foldl_cons, hstep, ih (Nat.mod_lt _ (by decide)), List.sum_cons, Nat.mod_add_mod, Nat.add_assoc]

/-- A fold that keeps one of its two values, the one no greater by `key`, ends with a least of all. -/
theorem foldl_least {f : Nat → Nat → Nat} {key : Nat → Int} (hmem : ∀ x y, f x y = x ∨ f x y = y)
    (hle : ∀ x y, key (f x y) ≤ key x ∧ key (f x y) ≤ key y) (x : Nat) (xs : List Nat) :
    xs.foldl f x ∈ x :: xs ∧ ∀ v ∈ x :: xs, key (xs.foldl f x) ≤ key v := by
  induction xs generalizing x with
  | nil => exact ⟨List.mem_cons_self, fun v hv => by rw [List.mem_singleton.1 hv]; exact le_rfl⟩
  | cons y xs ih =>
    obtain ⟨hin, hleast⟩ := ih (f x y)
    have hfirst := hleast _ List.mem_cons_self
    rw [List.foldl_cons]
    refine ⟨?_, fun v hv => ?_⟩
    · rcases List.mem_cons.1 hin with h | h
      · rcases hmem x y with hf | hf <;> rw [h, hf] <;> simp
      · exact List.mem_cons_of_mem _ (List.mem_cons_of_mem _ h)
    · rcases List.mem_cons.1 hv with rfl | hv
      · exact hfirst.trans (hle v y).1
      · rcases List.mem_cons.1 hv with rfl | hv
        · exact hfirst.trans (hle x v).2
        · exact hleast v (List.mem_cons_of_mem _ hv)

theorem foldValues_min (sg : Bool) (x : Nat) (xs : List Nat) :
    foldValues 1 sg (x :: xs) ∈ x :: xs ∧ ∀ v ∈ x :: xs, readInt 32 sg (foldValues 1 sg (x :: xs)) ≤ readInt 32 sg v := by
  have hstep : ∀ x y, foldStep 1 sg x y = if readInt 32 sg y < readInt 32 sg x then y else x := fun _ _ => rfl
  refine foldl_least (key := readInt 32 sg) (fun x y => ?_) (fun x y => ?_) x xs
  · rw [hstep]; split <;> simp
  · rw [hstep]; split <;> omega

theorem foldValues_max (sg : Bool) (x : Nat) (xs : List Nat) :
    foldValues 2 sg (x :: xs) ∈ x :: xs ∧ ∀ v ∈ x :: xs, readInt 32 sg v ≤ readInt 32 sg (foldValues 2 sg (x :: xs)) := by
  have hstep : ∀ x y, foldStep 2 sg x y = if readInt 32 sg x < readInt 32 sg y then y else x := fun _ _ => rfl
  obtain ⟨hin, hgreatest⟩ := foldl_least (f := foldStep 2 sg) (key := fun v => -readInt 32 sg v) (fun x y => by rw [hstep]; split <;> simp)
    (fun x y => by rw [hstep]; split <;> omega) x xs
  exact ⟨hin, fun v hv => Int.neg_le_neg_iff.1 (hgreatest v hv)⟩

theorem testBit_foldl_and (sg : Bool) (k : Nat) (xs : List Nat) (x : Nat) :
    (xs.foldl (foldStep 3 sg) x).testBit k = (x.testBit k && xs.all fun v => v.testBit k) := by
  have hstep : ∀ x y, foldStep 3 sg x y = x &&& y := fun _ _ => rfl
  induction xs generalizing x with
  | nil => simp
  | cons y xs ih => rw [List.foldl_cons, ih, hstep, Nat.testBit_and, List.all_cons, Bool.and_assoc]

theorem testBit_foldl_or (sg : Bool) (k : Nat) (xs : List Nat) (x : Nat) :
    (xs.foldl (foldStep 4 sg) x).testBit k = (x.testBit k || xs.any fun v => v.testBit k) := by
  have hstep : ∀ x y, foldStep 4 sg x y = x ||| y := fun _ _ => rfl
  induction xs generalizing x with
  | nil => simp
  | cons y xs ih => rw [List.foldl_cons, ih, hstep, Nat.testBit_or, List.any_cons, Bool.or_assoc]

theorem testBit_foldl_xor (sg : Bool) (k : Nat) (xs : List Nat) (x : Nat) :
    (xs.foldl (foldStep 5 sg) x).testBit k = decide (((x :: xs).countP fun v => v.testBit k) % 2 = 1) := by
  have hstep : ∀ x y, foldStep 5 sg x y = x ^^^ y := fun _ _ => rfl
  induction xs generalizing x with
  | nil => cases hx : x.testBit k <;> simp [hx]
  | cons y xs ih =>
    rw [List.foldl_cons, ih, hstep]
    cases hx : x.testBit k <;> cases hy : y.testBit k <;> simp [Nat.testBit_xor, hx, hy]
    omega

/-- Settles O13: the lanes of each instruction's Alu give the statement's values, and LFOLD's folds are proved step by step. -/
theorem crossLaneInstructions : Obligations.CrossLane := by
  unfold Obligations.CrossLane
  refine ⟨⟨fun f => ?abs, fun f => ?below, fun f => ?above, fun f => ?bfly, fun pd p j => ?every, fun pd p j => ?some,
      fun d p j => ?mask, fun pd j => ?lead, tlp_computes, fun d a j m => ?lfold, fun d a j all la tk => ?lsame⟩,
    ⟨fun sg vs hvs => ?sum, fun sg vs hne _ => ?extremes, fun sg vs k hne => ?bits⟩⟩
  case abs => exact lget_computes (i := .lgetAbs) (src := fun _ x => (x % 32 : Nat)) f fun _ => rfl
  case below => exact lget_computes (i := .lgetBelow) (src := fun L x => (L : Int) - x) f fun _ => rfl
  case above => exact lget_computes (i := .lgetAbove) (src := fun L x => (L : Int) + x) f fun _ => rfl
  case bfly => exact lget_computes (i := .lgetBfly) (src := fun L x => ((L ^^^ (x % 32) : Nat) : Int)) f fun _ => rfl
  case every =>
    refine computesWhen_of_alu (aluVote [pd.toNat] none [p] j (fun m yes _ => { pred := yes == m })) (fun _ => rfl) rfl rfl rfl rfl
      fun c m _ => congrArg Except.ok (funext fun L => ?_)
    exact congrArg (fun b => ({ pred := b } : LaneOut)) (maskOf_beq_mask m (c.g.predRef p))
  case some =>
    refine computesWhen_of_alu (aluVote [pd.toNat] none [p] j (fun _ yes _ => { pred := yes != 0 })) (fun _ => rfl) rfl rfl rfl rfl
      fun c m _ => congrArg Except.ok (funext fun L => ?_)
    exact congrArg (fun b => ({ pred := b } : LaneOut)) (maskOf_bne_zero m (c.g.predRef p))
  case mask =>
    exact computesWhen_of_alu (aluVote [] (some d) [p] j (fun _ yes _ => { val := yes.toNat })) (fun _ => rfl) rfl rfl rfl rfl
      fun _ _ _ => rfl
  case lead =>
    exact computesWhen_of_alu (aluVote [pd.toNat] none [] j (fun m _ L => { pred := L == lowestLane m })) (fun _ => rfl) rfl rfl rfl
      rfl fun _ _ _ => rfl
  case lfold | lsame => exact starts_of fun _ => rfl
  case sum =>
    cases vs with
    | nil => rfl
    | cons x xs => rw [List.sum_cons]; exact foldl_add_mod sg xs (hvs x List.mem_cons_self)
  case extremes =>
    cases vs with
    | nil => exact absurd rfl hne
    | cons x xs => exact ⟨foldValues_min sg x xs, foldValues_max sg x xs⟩
  case bits =>
    cases vs with
    | nil => exact absurd rfl hne
    | cons x xs =>
      rw [List.all_cons, List.any_cons]
      exact ⟨testBit_foldl_and sg k xs x, testBit_foldl_or sg k xs x, testBit_foldl_xor sg k xs x⟩

end Sys2Proof.Machine

/-! Memory instructions (08 R223 to R240; 17 R436 to R438). -/

namespace Sys2Proof.Machine

open Sys2Proof

/-- The refusal of a lane's address, with the address and the cause (17 R437). -/
def MemInstr.refusal (i : MemInstr) (s : State) (c : Ctx) (L : Fin 32) : Option (Fin 32 × Nat × Cause) :=
  match i.lanePlace s c L with
  | .fault x => some (L, i.laneAddr c L, x)
  | _ => none

/-- The refusals of a group's lanes. -/
def MemInstr.refusals (i : MemInstr) (s : State) (c : Ctx) : List (Fin 32 × Nat × Cause) :=
  (i.lanes c.act).filterMap (i.refusal s c)

section
variable {i : MemInstr} {s : State} {c : Ctx}

theorem refusal_of_fault {L : Fin 32} {x : Cause} (h : i.lanePlace s c L = .fault x) :
    i.refusal s c L = some (L, i.laneAddr c L, x) := by
  rw [MemInstr.refusal, h]

theorem refusal_of_at {L : Fin 32} (h : ∃ sp k, i.lanePlace s c L = .at sp k) : i.refusal s c L = none := by
  obtain ⟨sp, k, hat⟩ := h
  rw [MemInstr.refusal, hat]

/-- The lanes that access memory go from the lowest up. -/
theorem lanes_pairwise_lt (i : MemInstr) (m : Word) : (i.lanes m).Pairwise (· < ·) := by
  have hall : (lanesOf m).Pairwise (· < ·) := (List.pairwise_lt_finRange 32).filter _
  have hsub : ∀ one : Bool, (if one then (lanesOf m).take 1 else lanesOf m).Sublist (lanesOf m) := fun one => by
    cases one
    · exact List.Sublist.refl _
    · exact List.take_sublist 1 _
  exact hall.sublist (hsub _)

/-- With every address placed no lane is refused. -/
theorem refusals_of_placed (h : ∀ L ∈ i.lanes c.act, ∃ sp k, i.lanePlace s c L = .at sp k) : i.refusals s c = [] :=
  List.filterMap_eq_nil_iff.2 fun L hL => refusal_of_at (h L hL)

/-- The lowest refused lane stands first. -/
theorem refusals_of_lowest {L : Fin 32} {x : Cause} (hL : L ∈ i.lanes c.act) (hx : i.lanePlace s c L = .fault x)
    (hlow : ∀ M ∈ i.lanes c.act, M < L → ∃ sp k, i.lanePlace s c M = .at sp k) :
    ∃ rest, i.refusals s c = (L, i.laneAddr c L, x) :: rest := by
  obtain ⟨before, behind, hsplit⟩ := List.append_of_mem hL
  have hlt : ∀ M ∈ before, M < L := by
    have hord := lanes_pairwise_lt i c.act
    rw [hsplit, List.pairwise_append] at hord
    obtain ⟨-, -, hcross⟩ := hord
    exact fun M hM => hcross M hM L List.mem_cons_self
  have hnone : before.filterMap (i.refusal s c) = [] :=
    List.filterMap_eq_nil_iff.2 fun M hM =>
      refusal_of_at (hlow M (hsplit ▸ List.mem_append_left _ hM) (hlt M hM))
  refine ⟨behind.filterMap (i.refusal s c), ?_⟩
  rw [MemInstr.refusals, hsplit, List.filterMap_append, hnone, List.nil_append, List.filterMap_cons_some (refusal_of_fault hx)]

/-- A placed address waits for nothing. -/
theorem not_later_of_placed (h : ∀ L ∈ i.lanes c.act, ∃ sp k, i.lanePlace s c L = .at sp k) :
    ∀ L ∈ i.lanes c.act, ∀ x, i.lanePlace s c L ≠ .later x := by
  intro L hL x hx
  obtain ⟨sp, k, hat⟩ := h L hL
  cases hat.symm.trans hx

variable (h0 : c.act ≠ 0) (ho : s.orderedOutstanding c.gid = false) (hl : ∀ L ∈ i.lanes c.act, ∀ x, i.lanePlace s c L ≠ .later x)
include h0 ho hl

/-- A lane is refused and none waits: the group faults at the first refusal, unless it loads into a queue. -/
theorem verdict_of_refused (hq : i.uses.pushes.isSome = false) {L : Fin 32} {a : Nat} {x : Cause} {rest : List (Fin 32 × Nat × Cause)}
    (hr : i.refusals s c = (L, a, x) :: rest) : i.verdict s c = .fault ⟨x, i.kind, i.act != .load && i.act != .pref, a⟩ := by
  unfold MemInstr.verdict
  simp only [if_neg h0, ho, hq, Bool.and_false, Bool.false_eq_true, if_false]
  split
  · next x' hf =>
    obtain ⟨M, hM, hMx⟩ := List.mem_map.1 (List.mem_of_find?_eq_some hf)
    exact absurd (congrArg (fun e => e.2.2.2) hMx) (hl M hM x')
  · split
    · next M b y _ hb =>
      rw [List.filterMap_map] at hb
      cases hr.symm.trans hb
      rfl
    · next hb =>
      rw [List.filterMap_map] at hb
      cases hr.symm.trans hb

/-- PREF goes when no lane is refused and none waits (08 R239). -/
theorem verdict_of_pref (hp : i.act = .pref) (hr : i.refusals s c = []) :
    i.verdict s c = .go (fun x => x.modGroup c.gid (fun g => g.pop i.uses c.act)) none := by
  unfold MemInstr.verdict
  simp only [if_neg h0, ho, hp, Bool.false_eq_true, if_false, if_true]
  split
  · next x' hf =>
    obtain ⟨M, hM, hMx⟩ := List.mem_map.1 (List.mem_of_find?_eq_some hf)
    exact absurd (congrArg (fun e => e.2.2.2) hMx) (hl M hM x')
  · split
    · next hb =>
      rw [List.filterMap_map] at hb
      cases hr.symm.trans hb
    · rfl

/-- What goes becomes pending with the group's accesses, unless it meets a drain point or a full counter. -/
theorem verdict_of_placed (hp : i.act ≠ .pref) (hr : i.refusals s c = []) :
    i.verdict s c =
      if (i.accesses s c).any (fun a => a.space == .phys && s.atDrainPoint c.g.core a.addr) then .wait .drain
      else match s.varWait c c.act i.m.tk.toNat with
        | some w => .wait w
        | none => .go (fun x => (x.modGroup c.gid (fun g => g.pop i.uses c.act)).addOp (i.start x c (i.accesses s c) [])) none := by
  unfold MemInstr.verdict
  simp only [if_neg h0, ho, if_neg hp, Bool.false_eq_true, if_false]
  split
  · next x' hf =>
    obtain ⟨M, hM, hMx⟩ := List.mem_map.1 (List.mem_of_find?_eq_some hf)
    exact absurd (congrArg (fun e => e.2.2.2) hMx) (hl M hM x')
  · split
    · next hb =>
      rw [List.filterMap_map] at hb
      cases hr.symm.trans hb
    · simp only [List.filterMap_map]
      rfl

end

/-- A ready memory instruction goes, and becomes pending with its accesses. -/
theorem MemReady.verdict {i : MemInstr} {s : State} {c : Ctx} (h : MemReady s i c) (h0 : c.act ≠ 0) (hp : i.act ≠ .pref) :
    i.verdict s c =
      .go (fun x => (x.modGroup c.gid (fun g => g.pop i.uses c.act)).addOp (i.start x c (i.accesses s c) [])) none := by
  have hdrain : (i.accesses s c).any (fun a => a.space == .phys && s.atDrainPoint c.g.core a.addr) = false := by
    refine List.any_eq_false.2 fun a ha => ?_
    rw [Bool.and_eq_true, beq_iff_eq]
    rintro ⟨hphys, hat⟩
    rw [h.drained a ha hphys] at hat
    cases hat
  rw [verdict_of_placed h0 h.ordered (not_later_of_placed h.placed) hp (refusals_of_placed h.placed), hdrain, h.room]
  rfl

/-- Every memory form runs its instruction (08 R223 to R240). -/
theorem exec_memOf {j : Instr} {w : Nat} {i : MemInstr} (h : memOf j = some (w, i)) (s : State) :
    exec j s = .next (s.issue w i.uses (fun _ => none) [] false i.verdict State.performBundle) := by
  cases j <;> cases h <;> rfl

/-- Settles O20: each group's verdict follows from the places of its lanes, and the bundle issues or faults by it. -/
theorem memoryInstructions : Obligations.MemoryInstructions := by
  unfold Obligations.MemoryInstructions
  refine ⟨fun j w i hj s r cs hg => ⟨fun hp hready => ?goes, fun hp hready => ?prefetches⟩,
    fun j w i hj hq => ⟨fun s r cs bad why hg hbad => ?faults, fun s c L hp hmis => ?misaligned⟩⟩
  case goes =>
    rw [exec_memOf hj, issue_go hg fun c hc => ?_]
    by_cases h0 : c.act = 0
    · simp only [MemInstr.verdict, h0, if_true]
    · simp only [(hready c hc h0).verdict h0 hp, h0, if_false]
  case prefetches =>
    rw [exec_memOf hj, issue_go hg fun c hc => ?_]
    by_cases h0 : c.act = 0
    · simp only [MemInstr.verdict, h0, if_true]
    · obtain ⟨hord, hplaced⟩ := hready c hc h0
      simp only [verdict_of_pref h0 hord (not_later_of_placed hplaced) hp (refusals_of_placed hplaced), h0, if_false]
  case faults =>
    rw [exec_memOf hj, issue_fault (v := fun c => .fault ⟨why c, i.kind, i.act != .load && i.act != .pref, i.laneAddr c (bad c)⟩)
      hg.run hg.groups (fun c hc => ?_) fun _ _ => rfl]
    obtain ⟨h0, hord, hin, hx, hlater, hlow⟩ := hbad c hc
    obtain ⟨rest, hr⟩ := refusals_of_lowest hin hx hlow
    rw [hg.judge hc, verdict_of_refused h0 hord hlater hq hr]
  case misaligned => exact if_pos ⟨hp, hmis⟩

end Sys2Proof.Machine

/-! Memory before and after a change of the machine: unchanged, or still in its canonical form. -/

namespace Sys2Proof.Machine

open Sys2Proof

/-- Memory is as before. -/
def SameMem (s t : State) : Prop := t.mem = s.mem
@[simp] theorem sameMem_iff {s t : State} : SameMem s t ↔ t.mem = s.mem := Iff.rfl
/-- Memory stays in its canonical form. -/
def KeepsWf (s t : State) : Prop := s.mem.wf = true → t.mem.wf = true
@[simp] theorem ite_mem (p : Prop) [Decidable p] (x y : State) : (if p then x else y).mem = if p then x.mem else y.mem := apply_ite ..
@[simp] theorem foldl_mem {α : Type} {f : State → α → State} {l : List α} {s : State} (h : ∀ x a, SameMem x (f x a)) :
    (l.foldl f s).mem = s.mem := by
  induction l generalizing s with
  | nil => rfl
  | cons a l ih => rw [List.foldl_cons, ih, h]

end Sys2Proof.Machine

/-! Operations that leave memory as it is, by the part of the model they belong to. -/

namespace Sys2Proof.Machine

open Sys2Proof

/-! `Ops`. -/

@[simp] theorem repair_mem (s : State) (gid : Nat) (p : BadEntry → Bool) : (s.repair gid p).mem = s.mem := by simp [State.repair]
@[simp] theorem unpin_mem (s : State) (gid : Nat) (ws : List RegWrite) : (s.unpin gid ws).mem = s.mem := by simp [State.unpin]
@[simp] theorem landAllWrites_mem (s : State) (cyc gid : Nat) (ws : List RegWrite) : (s.landAllWrites cyc gid ws).mem = s.mem := by
  simp [State.landAllWrites, landWrites_mem]
@[simp] theorem landDue_mem (s : State) (gid : Nat) (st : Stream) (adv cyc : Nat) : (s.landDue gid st adv cyc).mem = s.mem := by
  unfold State.landDue; split <;> simp
@[simp] theorem landLate_mem (s : State) (gid : Nat) (st : Stream) (now : Nat) : (s.landLate gid st now).mem = s.mem := by
  unfold State.landLate; split <;> simp
@[simp] theorem landAll_mem (s : State) (gid : Nat) (st : Stream) : (s.landAll gid st).mem = s.mem := by
  unfold State.landAll; split <;> simp
@[simp] theorem landRun_mem (s : State) (slot : Nat) (r : Run) : (s.landRun slot r).mem = s.mem := by simp [State.landRun]
@[simp] theorem leaveRun_mem (s : State) (r : Run) (m : Nat × Word) : (s.leaveRun r m).mem = s.mem := by
  unfold State.leaveRun; split <;> simp
@[simp] theorem endRun_mem (s : State) (slot : Nat) : (s.endRun slot).mem = s.mem := by unfold State.endRun; split <;> simp
@[simp] theorem stopStream_mem (s : State) (gid : Nat) (st : Stream) : (s.stopStream gid st).mem = s.mem := by
  unfold State.stopStream; split <;> simp
@[simp] theorem raise_mem (s : State) (gid : Nat) (c : Cause) (regs : TrapRegs) : (s.raise gid c regs).mem = s.mem := by
  simp [State.raise]
@[simp] theorem raiseAt_mem (s : State) (gid : Nat) (st : Stream) (m : Word) (pc : Dword) (k : PcKind) (f : FaultInfo) :
    (s.raiseAt gid st m pc k f).mem = s.mem := by
  unfold State.raiseAt; split <;> simp
@[simp] theorem raiseLate_mem (s : State) (gid : Nat) (st : Stream) (f : FaultInfo) : (s.raiseLate gid st f).mem = s.mem := by
  simp [State.raiseLate]
@[simp] theorem killLaunch_mem (s : State) (l : Nat) : (s.killLaunch l).mem = s.mem := by simp [State.killLaunch]
@[simp] theorem postRecord_mem (s : State) (f : Nat) (r : FaultRec) : (s.postRecord f r).mem = s.mem := by
  unfold State.postRecord; simp; split <;> simp
@[simp] theorem postLog_mem (s : State) (f part : Nat) (cause : Word) (addr : Nat) (detail : List Byte) :
    (s.postLog f part cause addr detail).mem = s.mem := by
  simp [State.postLog]
@[simp] theorem escalate_mem (s : State) (gid : Nat) (p : PendingTrap) : (s.escalate gid p).mem = s.mem := by
  unfold State.escalate; split <;> simp
@[simp] theorem settle_mem (s : State) (gid : Nat) : (s.settle gid).mem = s.mem := by
  unfold State.settle; (repeat' split) <;> simp
@[simp] theorem seenFaults_mem (s : State) (fn : Nat) (w : Waiter) : (s.seenFaults fn w).mem = s.mem := by simp [State.seenFaults]
@[simp] theorem checkTbar_mem (s : State) (tid : Nat) (st : Stream) (n : Nat) : (s.checkTbar tid st n).mem = s.mem := by
  unfold State.checkTbar; split <;> simp
@[simp] theorem checkCbar_mem (s : State) (gk : Nat) (n : Fin 8) : (s.checkCbar gk n).mem = s.mem := by
  unfold State.checkCbar; split <;> simp
@[simp] theorem checkBarriers_mem (s : State) (g : Group) (st : Stream) : (s.checkBarriers g st).mem = s.mem := by
  unfold State.checkBarriers; split <;> simp
@[simp] theorem afterOrdered_mem (s : State) (gid : Nat) : (s.afterOrdered gid).mem = s.mem := by
  unfold State.afterOrdered; split <;> simp
@[simp] theorem finishGang_mem (s : State) (gk : Nat) :
    (s.finishGang gk).mem = s.mem := by
  unfold State.finishGang
  split
  · rfl
  · dsimp only
    split
    · rfl
    · split
      · refine (foldl_mem fun x t => ?_).trans (by simp)
        split <;> simp
      · rfl
@[simp] theorem finishGroup_mem (s : State) (gid : Nat) : (s.finishGroup gid).mem = s.mem := by
  unfold State.finishGroup; split <;> simp
@[simp] theorem reap_mem (s : State) (gid : Nat) : (s.reap gid).mem = s.mem := by unfold State.reap; split <;> simp
@[simp] theorem haltIfQuiet_mem (s : State) (gid : Nat) : (s.haltIfQuiet gid).mem = s.mem := by
  unfold State.haltIfQuiet; split <;> simp
@[simp] theorem reapKilled_mem (s : State) : s.reapKilled.mem = s.mem := by simp [State.reapKilled]
@[simp] theorem afterWork_mem (s : State) (gid : Nat) : (s.afterWork gid).mem = s.mem := by simp [State.afterWork]
@[simp] theorem exitStream_mem (s : State) (gid : Nat) (st : Stream) (m : Word) : (s.exitStream gid st m).mem = s.mem := by
  unfold State.exitStream; dsimp only; split <;> simp
@[simp] theorem exitLanes_mem (s : State) (gid : Nat) (st : Stream) (m : Word) : (s.exitLanes gid st m).mem = s.mem := by
  unfold State.exitLanes; dsimp only; split <;> simp

/-! `Yuhan`. -/

@[simp] theorem record_mem (s : State) (fn : Nat) (i : YItem) : (s.record fn i).mem = s.mem := by simp [State.record]
@[simp] theorem diverge_mem (s : State) (g : Group) : (s.diverge g).mem = s.mem := by simp [State.diverge]
@[simp] theorem yAfter_mem (s : State) (g : Group) (what L live : Nat) : (s.yAfter g what L live).mem = s.mem := by
  simp [State.yAfter]
@[simp] theorem yAfterAll_mem (s : State) (g : Group) (what : Nat) (live : Fin 32 → Nat) (ls : List (Fin 32)) :
    (s.yAfterAll g what live ls).mem = s.mem := by
  simp [State.yAfterAll]
@[simp] theorem appendRecord_mem (s : State) (g : Group) (q : Nat) (bytes : List Byte) :
    (s.appendRecord g q bytes).mem = s.mem := by
  simp [State.appendRecord]
@[simp] theorem orderLine_mem (s : State) (g : Group) (key who : Nat) : (s.orderLine g key who).mem = s.mem := by
  simp [State.orderLine]
@[simp] theorem orderRelearn_mem (t s : State) :
    (t.orderRelearn s).mem = t.mem := by
  unfold State.orderRelearn
  refine foldl_mem fun x fn => foldl_mem fun x gr => ?_
  dsimp only
  (repeat' split) <;> simp
@[simp] theorem unseen_mem (t s : State) (fn : Nat) : (t.unseen s fn).mem = t.mem := by simp [State.unseen]
@[simp] theorem orderTeam_mem (s : State) (g : Group) (ws : List RegWrite) : (s.orderTeam g ws).mem = s.mem := by
  unfold State.orderTeam; split <;> simp

/-! `Issue`. -/

@[simp] theorem issueFixed_mem (s : State) (c : Ctx) (u : Uses) (lat : Nat) (ws : List RegWrite) :
    (s.issueFixed c u lat ws).mem = s.mem := by
  simp [State.issueFixed]
@[simp] theorem countWindows_mem (s : State) (gid : Nat) (st : Stream) : (s.countWindows gid st).mem = s.mem := by
  simp [State.countWindows]
@[simp] theorem markIssue_mem (s : State) (gid : Nat) (st : Stream) : (s.markIssue gid st).mem = s.mem := by
  simp [State.markIssue]
@[simp] theorem breakpoints_mem (s : State) (r : Run) (due : List ((Nat × Word) × Nat)) (next : Dword) :
    (s.breakpoints r due next).mem = s.mem := by
  simp [State.breakpoints]
@[simp] theorem tickRun_mem (s : State) (slot : Nat) : (s.tickRun slot).mem = s.mem := by simp [State.tickRun]
@[simp] theorem advance_mem (s : State) (slot words : Nat) (pins : List Nat) (stop : Bool) :
    (s.advance slot words pins stop).mem = s.mem := by
  unfold State.advance; split <;> simp
@[simp] theorem transfer_mem (s : State) (slot words : Nat) (pins : List Nat) (stop : Bool) (dest : Nat → Fin 32 → Option Dword) :
    (s.transfer slot words pins stop dest).mem = s.mem := by
  unfold State.transfer; dsimp only; (repeat' split) <;> simp
@[simp] theorem takeFault_mem (s : State) (r : Run) (words : Nat) (c : Ctx) (v : Verdict) :
    (s.takeFault r words c v).mem = s.mem := by
  unfold State.takeFault; (repeat' split) <;> simp
@[simp] theorem stall_mem (s : State) (r : Run) (why : WaitReason) : (s.stall r why).mem = s.mem := by simp [State.stall]
@[simp] theorem stopAhead_mem (s : State) (c : Ctx) : (s.stopAhead c).mem = s.mem := by unfold State.stopAhead; split <;> simp

/-! `Variable`. -/

@[simp] theorem addOp_mem (s : State) (o : VOp) : (s.addOp o).mem = s.mem := by simp [State.addOp]
@[simp] theorem finishOp_mem (s : State) (id : Nat) : (s.finishOp id).mem = s.mem := by
  unfold State.finishOp; (repeat' split) <;> simp
@[simp] theorem landWindow_mem (s : State) (gid : Nat) (ws : List RegWrite) : (s.landWindow gid ws).mem = s.mem := by
  simp [State.landWindow, landWrites_mem]
@[simp] theorem completeLanes_mem (s : State) (id : Nat) (m : Word) : (s.completeLanes id m).mem = s.mem := by
  unfold State.completeLanes; (repeat' split) <;> simp
@[simp] theorem completeKind_mem (s : State) (op : Nat) (lanes : Word) (p : OpKind → Bool) :
    (s.completeKind op lanes p).mem = s.mem := by
  unfold State.completeKind; split <;> simp
@[simp] theorem startCompute_mem (s : State) (c : Ctx) (u : Uses) (kind : OpKind) (la : BitVec 4) (tk : BitVec 3) (out : Fin 32 → LaneOut) :
    (s.startCompute c u kind la tk out).mem = s.mem := by simp [State.startCompute]

/-! `Memory`. -/

theorem takeWalker_mem {s t : State} {m : Miss} (h : s.takeWalker m = some t) : t.mem = s.mem := by
  unfold State.takeWalker at h
  (repeat' split at h) <;> cases h <;> rfl

@[simp] theorem requestWalk_mem (s : State) (die fn page : Nat) (w : Waiter) :
    (s.requestWalk die fn page w).mem = s.mem := by
  unfold State.requestWalk
  dsimp only
  split
  · rfl
  · split
    · exact takeWalker_mem ‹_›
    · rfl
@[simp] theorem serveMisses_mem (s : State) (die : Nat) (y : List Miss) :
    (s.serveMisses die y).mem = s.mem := by
  induction y generalizing s with
  | nil => rfl
  | cons m ms ih =>
    unfold State.serveMisses
    split
    · exact ih s
    · split
      · next t ht => rw [ih]; exact takeWalker_mem (t := t) ht
      · exact ih s
@[simp] theorem setAts_mem (s : State) (fn page : Nat) (e : AtsEntry) : (s.setAts fn page e).mem = s.mem := by simp [State.setAts]
@[simp] theorem requestAts_mem (s : State) (fn page limit : Nat) (w : Waiter) : (s.requestAts fn page limit w).mem = s.mem := by
  unfold State.requestAts; (repeat' split) <;> simp
@[simp] theorem request_mem (s : State) (die fn : Nat) (w : Waiter) (y : Xlat) : (s.request die fn w y).mem = s.mem := by
  unfold State.request; split <;> simp
@[simp] theorem dropPerm_mem (s : State) (core gr : Nat) : (s.dropPerm core gr).mem = s.mem := by simp [State.dropPerm]
@[simp] theorem usePerm_mem (s : State) (core gr : Nat) : (s.usePerm core gr).mem = s.mem := by simp [State.usePerm]
@[simp] theorem dropPerms_mem (s : State) (gr : Nat) : (s.dropPerms gr).mem = s.mem := by simp [State.dropPerms]
@[simp] theorem clearL1_mem (s : State) (gr : Nat) : (s.clearL1 gr).mem = s.mem := by simp [State.clearL1]
@[simp] theorem clearLines_mem (s : State) (gr : Nat) : (s.clearLines gr).mem = s.mem := by simp [State.clearLines]
@[simp] theorem drainFor_mem (s : State) (gr : Nat) (core : Option Nat) (write : Bool) :
    (s.drainFor gr core write).mem = s.mem := by
  unfold State.drainFor; split <;> simp
@[simp] theorem invalidateReadonly_mem (s : State) (gr : Nat) : (s.invalidateReadonly gr).mem = s.mem := by
  unfold State.invalidateReadonly; split <;> simp
@[simp] theorem waitHome_mem (s : State) (die key : Nat) : (s.waitHome die key).mem = s.mem := by simp [State.waitHome]

/-! `MemOps`. -/

@[simp] theorem message_mem (s : State) (fn vec : Nat) : (s.message fn vec).mem = s.mem := by simp [State.message]
@[simp] theorem violate_mem (s : State) (management : Bool) (clamp addr : Nat) : (s.violate management clamp addr).mem = s.mem := by
  unfold State.violate; simp; split <;> simp
@[simp] theorem failWalk_mem (s : State) (walk die : Nat) (c : Cause) : (s.failWalk walk die c).mem = s.mem := by
  simp [State.failWalk]
@[simp] theorem putTlb_mem (s : State) (t : TlbEntry) (cap : Nat) : (s.putTlb t cap).mem = s.mem := by simp [State.putTlb]
@[simp] theorem fillTlbs_mem (s : State) (w : Walk) (level : Nat) (leaf : Dword) : (s.fillTlbs w level leaf).mem = s.mem := by
  simp [State.fillTlbs]
@[simp] theorem cacheTable_mem (s : State) (c : WalkCacheEntry) : (s.cacheTable c).mem = s.mem := by simp [State.cacheTable]
@[simp] theorem cacheWay_mem (s : State) (die fn va level : Nat) : (s.cacheWay die fn va level).mem = s.mem := by
  unfold State.cacheWay; dsimp only; (repeat' split) <;> simp
@[simp] theorem noteWalk_mem (s : State) (fn va : Nat) : (s.noteWalk fn va).mem = s.mem := by
  unfold State.noteWalk; split <;> simp
@[simp] theorem turnAts_mem (s : State) (e : AtsEntry) (st : AtsState) : (s.turnAts e st).mem = s.mem := by simp [State.turnAts]
@[simp] theorem sendPage_mem (s : State) (fn : Nat) : (s.sendPage fn).mem = s.mem := by unfold State.sendPage; split <;> simp
@[simp] theorem answerInvals_mem (s : State) : s.answerInvals.mem = s.mem := by simp [State.answerInvals]

/-! `CrossLane`. -/

@[simp] theorem arriveTbar_mem (s : State) (gid : Nat) (g : Group) (st : Stream) (adv n : Nat) :
    (s.arriveTbar gid g st adv n).mem = s.mem := by
  unfold State.arriveTbar; split <;> simp

/-! `Clock`. -/

@[simp] theorem gateClock_mem (s : State) (d : Nat) : (s.gateClock d).mem = s.mem := by simp [State.gateClock]
@[simp] theorem endRelock_mem (s : State) (d : Nat) : (s.endRelock d).mem = s.mem := by unfold State.endRelock; split <;> simp

/-! `Save`. -/

@[simp] theorem rereadBarwait_mem (s : State) (gid : Nat) (rd : RecordReader) : (s.rereadBarwait gid rd).mem = s.mem := by
  simp [State.rereadBarwait]
@[simp] theorem rereadGroup_mem (s : State) (gid : Nat) : (s.rereadGroup gid).mem = s.mem := by
  unfold State.rereadGroup; (repeat' split) <;> simp
@[simp] theorem rereadTeam_mem (s : State) (tid : Nat) : (s.rereadTeam tid).mem = s.mem := by
  unfold State.rereadTeam; (repeat' split) <;> simp
@[simp] theorem rereadGang_mem (s : State) (gk : Nat) : (s.rereadGang gk).mem = s.mem := by
  unfold State.rereadGang; (repeat' split) <;> simp
@[simp] theorem setAcc_mem (s : State) (q r : Nat) (y : AccRow) : (s.setAcc q r y).mem = s.mem := by simp [State.setAcc]
@[simp] theorem giveUpQuad_mem (s : State) (q ctx : Nat) : (s.giveUpQuad q ctx).mem = s.mem := by simp [State.giveUpQuad]
@[simp] theorem noteRan_mem (s : State) (gs : List Group) : (s.noteRan gs).mem = s.mem := by simp [State.noteRan]
@[simp] theorem readMaster_mem (s : State) (ctx : Nat) : (s.readMaster ctx).mem = s.mem := by
  unfold State.readMaster; split <;> simp
@[simp] theorem useTables_mem (s : State) (q ctx : Nat) : (s.useTables q ctx).mem = s.mem := by
  unfold State.useTables; split <;> simp

/-! `Matrix`. -/

@[simp] theorem noteEligible_mem (s : State) (q : Nat) : (s.noteEligible q).mem = s.mem := by simp [State.noteEligible]
@[simp] theorem arriveCbar_mem (s : State) (gid : Nat) (g : Group) (n : Fin 8) : (s.arriveCbar gid g n).mem = s.mem := by
  unfold State.arriveCbar; split <;> simp
@[simp] theorem waitCbar_mem (s : State) (gid : Nat) (n : Fin 8) : (s.waitCbar gid n).mem = s.mem := by
  unfold State.waitCbar; split <;> simp

/-! `Quad`. -/

@[simp] theorem freeEntry_mem (s : State) (id : Nat) : (s.freeEntry id).mem = s.mem := by unfold State.freeEntry; split <;> simp
@[simp] theorem blockPasses_mem (s : State) (q : Nat) : (s.blockPasses q).mem = s.mem := by simp [State.blockPasses]
@[simp] theorem append_mem (s : State) (q rank : Nat) (c : QCmd) : (s.append q rank c).mem = s.mem := by simp [State.append]

/-! `Arbitrate`. -/

@[simp] theorem readCpred_mem (s : State) (slot : Nat) : (s.readCpred slot).mem = s.mem := by
  unfold State.readCpred; split <;> simp
@[simp] theorem enterClause_mem (s : State) (st : Stream) (members : List (Nat × Word)) (c : Clause) :
    (s.enterClause st members c).mem = s.mem := by
  simp [State.enterClause]
@[simp] theorem requestOffers_mem (s : State) (slot : Nat) (os : List (Nat × Group × Dword × PcKind × Word × Pick)) :
    (s.requestOffers slot os).mem = s.mem := by
  unfold State.requestOffers; exact foldl_mem (fun x a => by (repeat' split) <;> simp)
@[simp] theorem beginRun_mem (s : State) (slot gid : Nat) (g : Group) (m : Word) (c : Clause) (os : List (Nat × Group × Dword × PcKind × Word × Pick)) :
    (s.beginRun slot gid g m c os).mem = s.mem := by
  simp [State.beginRun, count_mem]
@[simp] theorem arrive_mem (s : State) (slot : Nat) (r : Run) : (s.arrive slot r).mem = s.mem := by simp [State.arrive]
@[simp] theorem closeRun_mem (s : State) (slot : Nat) : (s.closeRun slot).mem = s.mem := by simp [State.closeRun]
@[simp] theorem nextClause_mem (s : State) (slot : Nat) : (s.nextClause slot).mem = s.mem := by
  unfold State.nextClause; dsimp only; (repeat' split) <;> simp

/-! `Copy`. -/

@[simp] theorem setProgress_mem (s : State) (q : Nat) (p : Progress) : (s.setProgress q p).mem = s.mem := by
  simp [State.setProgress]
@[simp] theorem logFailure_mem (s : State) (q : Nat) (c : QCmd) (cause bar : Nat) : (s.logFailure q c cause bar).mem = s.mem := by
  simp [State.logFailure]
@[simp] theorem popCommand_mem (s : State) (q : Nat) : (s.popCommand q).mem = s.mem := by simp [State.popCommand]
@[simp] theorem queueSeen_mem (s : State) (q : Nat) (c : QCmd) : (s.queueSeen q c).mem = s.mem := by simp [State.queueSeen]
@[simp] theorem waitsLike_mem (s t : State) : (s.waitsLike t).mem = s.mem := by simp [State.waitsLike]

/-! `Yoyo`. -/

@[simp] theorem relearnWhere_mem (s : State) (p : Nat → Bool) : (s.relearnWhere p).mem = s.mem := by simp [State.relearnWhere]
@[simp] theorem relearnPart_mem (s : State) (part : Nat) : (s.relearnPart part).mem = s.mem := by
  unfold State.relearnPart; split <;> simp
@[simp] theorem relearnTenant_mem (s : State) (fn : Nat) : (s.relearnTenant fn).mem = s.mem := by simp [State.relearnTenant]
@[simp] theorem dropTlb_mem (s : State) (fn va : Nat) : (s.dropTlb fn va).mem = s.mem := by simp [State.dropTlb]
@[simp] theorem requestMoveTo_mem (s : State) (fn va src tier frame : Nat) :
    (s.requestMoveTo fn va src tier frame).mem = s.mem := by simp [State.requestMoveTo]
@[simp] theorem requestMove_mem (s : State) (part fn va src tier : Nat) : (s.requestMove part fn va src tier).mem = s.mem := by
  unfold State.requestMove; simp; split <;> simp
@[simp] theorem moveUp_mem (s : State) (part fn : Nat) (out : Option Nat) (l : Leaf) : (s.moveUp part fn out l).mem = s.mem := by
  unfold State.moveUp; (repeat' split) <;> simp
@[simp] theorem switchMoves_mem (s : State) (part fn : Nat) (out : Option Nat) : (s.switchMoves part fn out).mem = s.mem := by
  simp [State.switchMoves]

/-! `System`. -/

@[simp] theorem faultMembers_mem (s : State) (p : Group → Bool) (e : Cause) : (s.faultMembers p e).mem = s.mem := by
  unfold State.faultMembers; split <;> simp
@[simp] theorem returnTraps_mem (s before : State) : (s.returnTraps before).mem = s.mem := by
  unfold State.returnTraps; exact foldl_mem (fun x a => by (repeat' split) <;> simp)
@[simp] theorem cleanPiece_mem (s : State) (key n : Nat) : (s.cleanPiece key n).mem = s.mem := by simp [State.cleanPiece]

/-! `Submit`. -/

@[simp] theorem submitFault_mem (s : State) (fn part : Nat) (write : Bool) (addr access entry : Nat) :
    (s.submitFault fn part write addr access entry).mem = s.mem := by
  simp [State.submitFault]
@[simp] theorem modSq_mem (s : State) (fn q : Nat) (f : SubQueue → SubQueue) : (s.modSq fn q f).mem = s.mem := by
  simp [State.modSq]
@[simp] theorem takeHead_mem (s : State) (fn q part : Nat) (y : Submission) : (s.takeHead fn q part y).mem = s.mem := by
  simp [State.takeHead]
@[simp] theorem refuseEntry_mem (s : State) (fn q part : Nat) (b : List Byte) (status offset : Nat) :
    (s.refuseEntry fn q part b status offset).mem = s.mem := by simp [State.refuseEntry]
@[simp] theorem epoch_mem (s : State) (fn part : Nat) (r : LaunchRec) :
    (s.epoch fn part r).mem = s.mem := by
  unfold State.epoch; simp [State.applyHints]
@[simp] theorem workArrives_mem (s : State) (part fn : Nat) : (s.workArrives part fn).mem = s.mem := by simp [State.workArrives]
@[simp] theorem leaveDq_mem (s : State) (id : Nat) : (s.leaveDq id).mem = s.mem := by simp [State.leaveDq]
@[simp] theorem forgetLaunch_mem (s : State) (launch : Nat) : (s.forgetLaunch launch).mem = s.mem := by simp [State.forgetLaunch]

/-! `Place`. -/

@[simp] theorem markSaved_mem (s : State) (o : Nat) : (s.markSaved o).mem = s.mem := by unfold State.markSaved; split <;> simp
@[simp] theorem occupy_mem (s : State) (core : Nat) (plan : CorePlan) (r : LaunchRec) (tid : Nat) (gids : List Nat) (live : Nat → Bool) (northWest : Bool) :
    (s.occupy core plan r tid gids live northWest).mem = s.mem := by simp [State.occupy]
@[simp] theorem haltGang_mem (s : State) (gk : Nat) : (s.haltGang gk).mem = s.mem := by unfold State.haltGang; split <;> simp
@[simp] theorem wakeGroups_mem (s : State) (c : Gang) : (s.wakeGroups c).mem = s.mem := by simp [State.wakeGroups]
@[simp] theorem resumeHere_mem (s : State) (gk : Nat) (c : Gang) : (s.resumeHere gk c).mem = s.mem := by simp [State.resumeHere]
@[simp] theorem dropUnfit_mem (s : State) (launch : Nat) : (s.dropUnfit launch).mem = s.mem := by
  unfold State.dropUnfit; split <;> simp

/-! `Schedule`. -/

@[simp] theorem noteRegions_mem (s : State) (l : Launch) : (s.noteRegions l).mem = s.mem := by simp [State.noteRegions]
@[simp] theorem requestRegion_mem (s : State) (part fn : Nat) (r : Region) : (s.requestRegion part fn r).mem = s.mem := by
  simp [State.requestRegion]
@[simp] theorem addStride_mem (s : State) (part fn : Nat) : (s.addStride part fn).mem = s.mem := by simp [State.addStride]
@[simp] theorem switchTenant_mem (s : State) (part : Nat) (new : Option Nat) : (s.switchTenant part new).mem = s.mem := by
  unfold State.switchTenant; split <;> simp
@[simp] theorem tickChoice_mem (s : State) (part : Nat) : (s.tickChoice part).mem = s.mem := by
  unfold State.tickChoice; split <;> simp

/-! `Fabric`. -/

@[simp] theorem modPort_mem (s : State) (n : Nat) (f : Port → Port) : (s.modPort n f).mem = s.mem := by simp [State.modPort]
@[simp] theorem sendPkt_mem (s : State) (part vc : Nat) (ty : PacketType) (p : Packet) : (s.sendPkt part vc ty p).mem = s.mem := by
  simp [State.sendPkt]
@[simp] theorem reply_mem (s : State) (part : Nat) (ty : PacketType) (p : Packet) : (s.reply part ty p).mem = s.mem := by
  simp [State.reply]
@[simp] theorem modCmd_mem (s : State) (id : Nat) (f : FabPending → FabPending) : (s.modCmd id f).mem = s.mem := by
  simp [State.modCmd]
@[simp] theorem answered_mem (s : State) (id node vf seq cause : Nat) : (s.answered id node vf seq cause).mem = s.mem := by
  simp [State.answered]
@[simp] theorem giveUp_mem (s : State) (part cause : Nat) (injected : Bool) (ty : PacketType) (p : Packet) :
    (s.giveUp part cause injected ty p).mem = s.mem := by
  unfold State.giveUp; simp; split <;> simp
@[simp] theorem setSeq_mem (s : State) (q fn dnode dvf seq : Nat) : (s.setSeq q fn dnode dvf seq).mem = s.mem := by
  simp [State.setSeq]
@[simp] theorem emit_mem (s : State) (id : Nat) (f : FabPending) (y : Cargo) : (s.emit id f y).mem = s.mem := by simp [State.emit]
@[simp] theorem sentAll_mem (s : State) (q id : Nat) : (s.sentAll q id).mem = s.mem := by simp [State.sentAll]
@[simp] theorem stopSending_mem (s : State) (q id cause : Nat) : (s.stopSending q id cause).mem = s.mem := by
  simp [State.stopSending]
@[simp] theorem modMember_mem (s : State) (fn coll : Nat) (f : Membership → Membership) : (s.modMember fn coll f).mem = s.mem := by
  simp [State.modMember]
@[simp] theorem dropMember_mem (s : State) (fn coll : Nat) : (s.dropMember fn coll).mem = s.mem := by simp [State.dropMember]
@[simp] theorem endFab_mem (s : State) (id : Nat) (f : FabPending) : (s.endFab id f).mem = s.mem := by
  unfold State.endFab; split <;> simp
@[simp] theorem logFab_mem (s : State) (f : FabPending) (cause : Nat) : (s.logFab f cause).mem = s.mem := by simp [State.logFab]
@[simp] theorem unbox_mem (s : State) (port : Nat) (ty : PacketType) (p : Packet) : (s.unbox port ty p).mem = s.mem := by
  simp [State.unbox]
@[simp] theorem setRx_mem (s : State) (r : RxStream) (p : Packet) : (s.setRx r p).mem = s.mem := by simp [State.setRx]
@[simp] theorem packetGone_mem (s : State) (p : Packet) (cause : Nat) : (s.packetGone p cause).mem = s.mem := by
  simp [State.packetGone]
@[simp] theorem streamRestarts_mem (s : State) (p : Packet) : (s.streamRestarts p).mem = s.mem := by simp [State.streamRestarts]
@[simp] theorem noteFailed_mem (s : State) (fn : Nat) (va : Option Nat) :
    (s.noteFailed fn va).mem = s.mem := by
  unfold State.noteFailed; cases va <;> simp
@[simp] theorem failLost_mem (s : State) (fn coll : Nat) (node : Nat × Nat) : (s.failLost fn coll node).mem = s.mem := by
  simp [State.failLost]
@[simp] theorem loseMember_mem (s : State) (fn coll : Nat) (node : Nat × Nat) : (s.loseMember fn coll node).mem = s.mem := by
  simp [State.loseMember]
@[simp] theorem forgetJoin_mem (s : State) (fn coll : Nat) (node : Nat × Nat) : (s.forgetJoin fn coll node).mem = s.mem := by
  simp [State.forgetJoin]
@[simp] theorem movedAnswer_mem (s : State) (cmd : Nat) (u : OpenPkt) : (s.movedAnswer cmd u).mem = s.mem := by
  simp [State.movedAnswer]
@[simp] theorem grant_mem (s : State) (input : Nat) (y : InPacket) (out : Nat × Nat) : (s.grant input y out).mem = s.mem := by
  simp [State.grant]
@[simp] theorem noteFabric_mem (s : State) : s.noteFabric.mem = s.mem := by simp [State.noteFabric]
@[simp] theorem latchEscapes_mem (s : State) : s.latchEscapes.mem = s.mem := by simp [State.latchEscapes]
@[simp] theorem flitIn_mem (s : State) (port : Nat) (f : Flit) : (s.flitIn port f).mem = s.mem := by
  unfold State.flitIn; simp; split <;> simp
@[simp] theorem flitOut_mem (s : State) (port : Nat) : (s.flitOut port).mem = s.mem := by
  unfold State.flitOut; dsimp only; (repeat' split) <;> simp
@[simp] theorem flitsTaken_mem (s : State) (port n : Nat) : (s.flitsTaken port n).mem = s.mem := by simp [State.flitsTaken]
@[simp] theorem laneLock_mem (s : State) (port : Nat) (held : Bool) : (s.laneLock port held).mem = s.mem := by
  simp [State.laneLock]
@[simp] theorem closeLink_mem (s : State) (port : Nat) : (s.closeLink port).mem = s.mem := by
  unfold State.closeLink; dsimp only; split <;> simp
@[simp] theorem farSlots_mem (s : State) (port : Nat) (far : Credits) : (s.farSlots port far).mem = s.mem := by
  simp [State.farSlots]

/-! `Registers`. -/

@[simp] theorem startInvalidation_mem (s : State) (fn : Nat) : (s.startInvalidation fn).mem = s.mem := by
  simp [State.startInvalidation]
@[simp] theorem writeVfsched_mem (s : State) (vf v : Nat) : (s.writeVfsched vf v).mem = s.mem := by simp [State.writeVfsched]
@[simp] theorem writeDie_mem (s : State) (die off v : Nat) : (s.writeDie die off v).mem = s.mem := by simp [State.writeDie]
@[simp] theorem hostCaches_mem (s : State) (key : Nat) : (s.hostCaches key).mem = s.mem := by simp [State.hostCaches]
@[simp] theorem answerHost_mem (s : State) (addr : Nat) (access : HostAccess) : (s.answerHost addr access).mem = s.mem := by
  unfold State.answerHost; split <;> simp
@[simp] theorem snoopLine_mem (s : State) (line : Nat) (invalidate : Bool) : (s.snoopLine line invalidate).mem = s.mem := by
  simp [State.snoopLine]

/-! `Power`. -/

@[simp] theorem stepDie_mem (s : State) (d k : Nat) : (s.stepDie d k).mem = s.mem := by simp [State.stepDie]
@[simp] theorem lower_mem (s : State) : s.lower.mem = s.mem := by unfold State.lower; split <;> simp
@[simp] theorem raiseClock_mem (s : State) : s.raiseClock.mem = s.mem := by unfold State.raiseClock; split <;> simp
@[simp] theorem unthrottle_mem (s : State) : s.unthrottle.mem = s.mem := by simp [State.unthrottle]
@[simp] theorem throttle_mem (s : State) (part : Nat) (on : Bool) : (s.throttle part on).mem = s.mem := by simp [State.throttle]
@[simp] theorem stepClock_mem (s : State) (d k : Nat) : (s.stepClock d k).mem = s.mem := by simp [State.stepClock]
@[simp] theorem killPart_mem (s : State) (part : Nat) : (s.killPart part).mem = s.mem := by simp [State.killPart]
@[simp] theorem strikeRow_mem (s : State) (gid row : Nat) (lane : Fin 32) : (s.strikeRow gid row lane).mem = s.mem := by
  unfold State.strikeRow; split <;> simp
@[simp] theorem softError_mem (s : State) (t : SoftTarget) : (s.softError t).mem = s.mem := by
  unfold State.softError; split <;> simp
@[simp] theorem requestGate_mem (s : State) (d : Nat) : (s.requestGate d).mem = s.mem := by simp [State.requestGate]
@[simp] theorem leaveLines_mem (s : State) (d : Nat) : (s.leaveLines d).mem = s.mem := by simp [State.leaveLines]

/-! `Reset`. -/

@[simp] theorem dropSubs_mem (s : State) (fn : Nat) : (s.dropSubs fn).mem = s.mem := by simp [State.dropSubs]
@[simp] theorem dropGroups_mem (s : State) (fn : Nat) : (s.dropGroups fn).mem = s.mem := by simp [State.dropGroups]
@[simp] theorem dropCommands_mem (s : State) (fn : Nat) : (s.dropCommands fn).mem = s.mem := by simp [State.dropCommands]
@[simp] theorem leaveLost_mem (s : State) (fn part : Nat) : (s.leaveLost fn part).mem = s.mem := by simp [State.leaveLost]
@[simp] theorem dropWaiting_mem (s : State) (input : Nat) (y : InPacket) : (s.dropWaiting input y).mem = s.mem := by
  unfold State.dropWaiting; split <;> simp
@[simp] theorem dropFabric_mem (s : State) (fn : Nat) : (s.dropFabric fn).mem = s.mem := by simp [State.dropFabric]
@[simp] theorem cleanHostLines_mem (s : State) : s.cleanHostLines.mem = s.mem := by simp [State.cleanHostLines]
@[simp] theorem resetRegs_mem (s : State) (fn : Nat) (keepBinding : Bool) : (s.resetRegs fn keepBinding).mem = s.mem := by
  simp [State.resetRegs]
@[simp] theorem resetPfSpace_mem (s : State) : s.resetPfSpace.mem = s.mem := by simp [State.resetPfSpace]

/-! `Partition`. -/

@[simp] theorem returns_mem (s : State) (r : Nat) : (s.returns r).mem = s.mem := by simp [State.returns]
@[simp] theorem giveFqs_mem (s : State) (mask : Nat) : (s.giveFqs mask).mem = s.mem := by simp [State.giveFqs]
@[simp] theorem giveCqs_mem (s : State) (mask : Nat) : (s.giveCqs mask).mem = s.mem := by simp [State.giveCqs]
@[simp] theorem dropUnplaced_mem (s : State) (pid : Nat) : (s.dropUnplaced pid).mem = s.mem := by simp [State.dropUnplaced]

/-! `Time`. -/

@[simp] theorem stallCycles_mem (s : State) (n : Nat → Nat) : (s.stallCycles n).mem = s.mem := by
  simp [State.stallCycles, count_mem]
@[simp] theorem bridgeCycles_mem (s : State) (n : Nat → Nat) : (s.bridgeCycles n).mem = s.mem := by simp [State.bridgeCycles]
@[simp] theorem lapse_mem (s : State) (dt : Nat) : (s.lapse dt).mem = s.mem := by simp [State.lapse]
@[simp] theorem passClocks_mem (y : State) (y' y'' : Nat) :
    (y.passClocks y' y'').mem = y.mem := by
  fun_induction State.passClocks <;> simp_all
@[simp] theorem landPast_mem (s : State) :
    s.landPast.mem = s.mem := by
  unfold State.landPast
  dsimp only
  simp only [ite_mem, wake_mem, ite_self]
  exact foldl_mem fun x k => by split <;> simp
@[simp] theorem pass_mem (s : State) (dt : Nat) : (s.pass dt).mem = s.mem := by simp [State.pass]

/-! `Run`. -/

@[simp] theorem faultRun_mem (s : State) (r : Run) (w : Word) (e : DecodeError) : (s.faultRun r w e).mem = s.mem := by
  simp [State.faultRun]
@[simp] theorem configAts_mem (s : State) (fn : Nat) (ats pri : Bool) : (s.configAts fn ats pri).mem = s.mem := by
  simp [State.configAts]

end Sys2Proof.Machine

/-! Issuing: what the groups of a bundle do to memory is all that the instruction does to it. -/

namespace Sys2Proof.Machine

open Sys2Proof

/-- A relation that holds wherever memory is as before, and along two changes of which each obeys it. -/
structure MemRel (R : State → State → Prop) : Prop where
  same : ∀ {s t : State}, SameMem s t → R s t
  trans : ∀ {s t u : State}, R s t → R t u → R s u

theorem memRel_sameMem : MemRel SameMem := ⟨id, fun h k => Eq.trans k h⟩

theorem memRel_keepsWf : MemRel KeepsWf := ⟨fun h k => (congrArg Bytes.wf h).trans k, fun h k hs => k (h hs)⟩

theorem MemRel.refl {R : State → State → Prop} (hR : MemRel R) (s : State) : R s s := hR.same rfl

theorem MemRel.foldl {R : State → State → Prop} (hR : MemRel R) {α : Type} {f : State → α → State} {l : List α} {s : State}
    (h : ∀ x, ∀ a ∈ l, R x (f x a)) : R s (l.foldl f s) :=
  List.foldlRecOn l f (hR.refl s) fun x hx a ha => hR.trans hx (h x a ha)

/-- What a verdict does to the machine obeys a relation. -/
def Verdict.Within (R : State → State → Prop) : Verdict → Prop
  | .go f _ | .waitDo _ f => ∀ s, R s (f s)
  | _ => True

section
variable {R : State → State → Prop} {f : State → State}

@[simp] theorem within_go {j : Option (Fin 32 → Option Dword)} : (Verdict.go f j).Within R ↔ ∀ s, R s (f s) := .rfl
@[simp] theorem within_waitDo {w : WaitReason} : (Verdict.waitDo w f).Within R ↔ ∀ s, R s (f s) := .rfl
@[simp] theorem within_wait {w : WaitReason} : (Verdict.wait w).Within R := trivial
@[simp] theorem within_fault {x : FaultInfo} : (Verdict.fault x).Within R := trivial
@[simp] theorem within_faultAfter {x : FaultInfo} : (Verdict.faultAfter x).Within R := trivial
@[simp] theorem within_deliver : Verdict.deliver.Within R := trivial

theorem Verdict.Within.of_sameMem (hR : MemRel R) {v : Verdict} (h : v.Within SameMem) : v.Within R := by
  cases v with
  | go | waitDo => exact fun s => hR.same (h s)
  | _ => trivial

theorem gate_within {s : State} {u : Uses} {lat : Option Nat} {c : Ctx} {v : Verdict} (h : s.gate u lat c = some v) : v.Within R := by
  unfold State.gate at h
  (repeat' split at h) <;> cases h <;> trivial

theorem judge_within {s : State} {u : Uses} {lat : Ctx → Option Nat} {sem : State → Ctx → Verdict} {c : Ctx}
    (h : (sem s c).Within R) : (s.judge u lat sem c).Within R := by
  unfold State.judge
  split
  · exact gate_within ‹_›
  · split
    · next he =>
      split
      · trivial
      · rwa [he] at h
    · exact h

/-- A bundle changes memory as the verdicts of its groups and what follows them do. -/
theorem issue_within (hR : MemRel R) {s : State} {words : Nat} {u : Uses} {lat : Ctx → Option Nat} {pins : List Nat} {stop : Bool}
    {sem : State → Ctx → Verdict} {post : State → State} (hsem : ∀ c, (sem s c).Within R) (hpost : ∀ x, R x (post x)) :
    R s (s.issue words u lat pins stop sem post) := by
  unfold State.issue
  split
  · exact hR.refl s
  · next r _ =>
    dsimp only
    have hv : ∀ e ∈ (r.members.filterMap (s.ctx r)).map (fun c => (c, s.judge u lat sem c)), Verdict.Within R e.2 := by
      simp only [List.mem_map]
      rintro e ⟨c, -, rfl⟩
      exact judge_within (hsem c)
    generalize (r.members.filterMap (s.ctx r)).map (fun c => (c, s.judge u lat sem c)) = vs at hv ⊢
    have hbad : R s ((vs.filter (fun e => e.2.isFault)).foldl (fun s e => s.takeFault r words e.1 e.2) s) :=
      hR.same (foldl_mem fun x e => by simp)
    refine hR.trans hbad ?_
    generalize (vs.filter (fun e => e.2.isFault)).foldl (fun s e => s.takeFault r words e.1 e.2) s = t
    have hgood : ∀ e ∈ vs.filter (fun e => !e.2.isFault), Verdict.Within R e.2 := fun e he => hv e (List.mem_filter.1 he).1
    split
    · have hw : R t (waitEffects (vs.filter (fun e => !e.2.isFault)) t) := by
        refine hR.foldl fun x e he => ?_
        have h := hgood e he
        split
        · next heq => rw [heq] at h; exact h x
        · exact hR.refl x
      split
      · exact hR.trans hw (hR.same (by simp))
      · exact hR.trans hw (hR.same (by simp))
    · split
      · exact hR.same (by simp)
      · have he : R t ((vs.filter (fun e => !e.2.isFault)).foldl (fun s e =>
            match e.2 with
            | .go f _ => f ((s.countWindows e.1.gid e.1.st).markIssue e.1.gid e.1.st)
            | _ => (s.countWindows e.1.gid e.1.st).markIssue e.1.gid e.1.st) t) := by
          refine hR.foldl fun x e he => hR.trans (t := (x.countWindows e.1.gid e.1.st).markIssue e.1.gid e.1.st) (hR.same (by simp)) ?_
          have h := hgood e he
          split
          · next heq => rw [heq] at h; exact h _
          · exact hR.refl _
        refine hR.trans (hR.trans he (hpost _)) (hR.same ?_)
        split <;> simp <;> rfl

end

end Sys2Proof.Machine

/-! What an outcome leads to. -/

namespace Sys2Proof.Machine

open Sys2Proof

/-- Every next state that an outcome gives stands in a relation to `s`. -/
structure Leads (R : State → State → Prop) (s : State) (o : Host.Outcome State Fault Refusal) : Prop where
  next : ∀ t, o = .next t → R s t

section
variable {R : State → State → Prop} {s : State}

@[simp] theorem leads_next {t : State} : Leads R s (.next t) ↔ R s t :=
  ⟨fun h => h.next t rfl, fun h => ⟨fun _ e => Host.Outcome.next.inj e ▸ h⟩⟩

@[simp] theorem leads_fault {e : Fault} : Leads R s (.fault e) := ⟨nofun⟩
@[simp] theorem leads_refused {e : Refusal} : Leads R s (.refused e) := ⟨nofun⟩

/-- An instruction whose verdicts, and what follows them, leave memory alone. -/
theorem issue_sameMem {words : Nat} {u : Uses} {lat : Ctx → Option Nat} {pins : List Nat} {stop : Bool}
    {sem : State → Ctx → Verdict} (hsem : ∀ c, (sem s c).Within SameMem) : SameMem s (s.issue words u lat pins stop sem) :=
  issue_within memRel_sameMem hsem fun _ => rfl

end

/-! Instructions that store nothing as they issue. -/

section
variable (s : State) (c : Ctx)

theorem aluSem_within (a : Alu) : (a.sem s c).Within SameMem := by
  unfold Alu.sem
  dsimp only
  (repeat' split) <;> simp

theorem runAlu_sameMem (words : Nat) (a : Alu) : Leads SameMem s (runAlu words a s) :=
  leads_next.2 (issue_sameMem fun c => aluSem_within s c a)

theorem recorded_within {v : Verdict} (h : v.Within SameMem) (what : Nat) (live : Fin 32 → Nat) (ls : List (Fin 32)) :
    (v.recorded what c live ls).Within SameMem := by
  cases v with
  | go f => intro x; simpa using h x
  | _ => exact h

theorem computeVerdict_within (u : Uses) (kind : OpKind) (la : BitVec 4) (tk : BitVec 3) (out : Fin 32 → LaneOut)
    {also : State → State} (h : ∀ x, SameMem x (also x)) : (computeVerdict s c u kind la tk out also).Within SameMem := by
  unfold computeVerdict
  dsimp only
  split
  · simp
  · split
    · simp
    · exact fun x => (h _).trans (by simp)

theorem transferVerdict_within {R : State → State → Prop} (hR : MemRel R) (ts : List (Fin 32 × Dword)) {eff : State → State}
    (leave : Word) (h : ∀ x, R x (eff x)) : (s.transferVerdict c ts eff leave).Within R := by
  unfold State.transferVerdict
  dsimp only
  split
  · exact fun x => hR.same (by simp)
  · split
    · trivial
    · exact h

theorem stackAccesses_within {need : Need} {forbidden : Fin 32 → Bool} {ps : List (Fin 32 × Nat)} {v : Verdict}
    (h : s.stackAccesses c need forbidden ps = .error v) : v.Within SameMem := by
  unfold State.stackAccesses at h
  dsimp only at h
  (repeat' split at h) <;> cases h <;> simp

theorem retVerdict_within : (s.retVerdict c).Within SameMem := by
  unfold State.retVerdict
  dsimp only
  split
  · exact stackAccesses_within s c ‹_›
  · trivial
  · split
    · trivial
    · refine transferVerdict_within s c memRel_sameMem _ _ fun x => ?_
      split <;> simp

theorem cleanPages_within {a n : Nat} {skips : Cause → Bool} {v : Verdict} (h : s.cleanPages c a n skips = .error v) :
    v.Within SameMem := by
  unfold State.cleanPages at h
  dsimp only at h
  (repeat' split at h) <;> cases h <;> simp

end

end Sys2Proof.Machine

namespace Sys2Proof.Machine

open Sys2Proof

section
variable (s : State)

theorem issueSfu_sameMem (fn : SpecialFn) (u : Uses) (pins : List (Operand × Bool)) (m : SfMod) :
    SameMem s (s.issueSfu fn u pins m) :=
  issue_sameMem fun c => computeVerdict_within s c _ _ _ _ _ fun _ => rfl

theorem issueX_sameMem (u : Uses) (pins : List (Operand × Bool)) (n : BitVec 2) (f : Ctx → Word → Abacus) :
    SameMem s (s.issueX u pins n f) := by
  refine issue_sameMem fun c => ?_
  dsimp only
  split <;> simp

theorem issueControl_sameMem {u : Uses} {pins : List (Operand × Bool)} {sem : State → Ctx → Verdict}
    (h : ∀ c, (sem s c).Within SameMem) : SameMem s (s.issueControl u pins sem) := issue_sameMem h

theorem issueCbar_sameMem (a : Code) (ra arrive wait : Bool) : SameMem s (s.issueCbar a ra arrive wait) := by
  refine issue_sameMem fun c => ?_
  dsimp only
  (repeat' split) <;> simp

theorem issueGuard_sameMem (g : BitVec 4) (v : Guard) : SameMem s (s.issueGuard g v) := by
  refine issue_sameMem fun c => ?_
  split <;> simp

theorem issueIn_sameMem {ok : Group → Bool} {go : State → State} (h : ∀ x, SameMem x (go x)) : SameMem s (s.issueIn ok go) := by
  unfold State.issueIn
  dsimp only
  split
  · exact h s
  · split
    · exact (h _).trans (by simp)
    · simp

theorem movmWrite_sameMem (a : Code) (n : BitVec 4) (ra : Bool) : Leads SameMem s (exec (.movmWrite a n ra) s) := by
  refine leads_next.2 (issue_sameMem fun c => ?_)
  split <;> simp

theorem xrd_sameMem (d : Code) (x : BitVec 2) (m : AbMod) : Leads SameMem s (exec (.xrd d x m) s) :=
  leads_next.2 (issue_sameMem fun c => computeVerdict_within s c _ _ _ _ _ fun _ => rfl)

theorem xscan_sameMem (d : Code) (x : BitVec 2) (b : Code) (rb : Bool) (m : AbMod) :
    Leads SameMem s (exec (.xscan d x b rb m) s) :=
  leads_next.2 (issue_sameMem fun c => computeVerdict_within s c _ _ _ _ _ fun _ => rfl)

theorem bra_sameMem (cond : PredRef) (off : BitVec 21) : Leads SameMem s (exec (.bra cond off) s) :=
  leads_next.2 (issueControl_sameMem s fun c => transferVerdict_within s c memRel_sameMem _ _ fun _ => rfl)

theorem brq_sameMem (neg : Bool) (off : BitVec 21) : Leads SameMem s (exec (.brq neg off) s) :=
  leads_next.2 (issueControl_sameMem s fun c => transferVerdict_within s c memRel_sameMem _ _ fun x => by simp [count_mem])

theorem jmp_sameMem (a : Code) (ra : Bool) : Leads SameMem s (exec (.jmp a ra) s) :=
  leads_next.2 (issueControl_sameMem s fun c => transferVerdict_within s c memRel_sameMem _ _ fun _ => rfl)

theorem ret_sameMem : Leads SameMem s (exec .ret s) := leads_next.2 (issueControl_sameMem s fun c => retVerdict_within s c)

theorem exit_sameMem : Leads SameMem s (exec .exit s) := by
  refine leads_next.2 (issueControl_sameMem s fun c => transferVerdict_within s c memRel_sameMem _ _ fun x => ?_)
  split <;> simp

theorem waitj_sameMem (j : BitVec 4) : Leads SameMem s (exec (.waitj j) s) :=
  leads_next.2 (issueControl_sameMem s fun c => transferVerdict_within s c memRel_sameMem _ _ fun _ => rfl)

theorem sleep_sameMem (a : Code) (ra : Bool) : Leads SameMem s (exec (.sleep a ra) s) :=
  leads_next.2 (issueControl_sameMem s fun c => transferVerdict_within s c memRel_sameMem _ _ fun _ => rfl)

theorem trap_sameMem (a : Code) (ra : Bool) : Leads SameMem s (exec (.trap a ra) s) := by
  refine leads_next.2 (issueControl_sameMem s fun c => ?_)
  (repeat' split) <;> simp

theorem halt_sameMem : Leads SameMem s (exec .halt s) := by
  refine leads_next.2 (issueControl_sameMem s fun c => ?_)
  split <;> simp

theorem armj_sameMem (d a : Code) (j : BitVec 4) : Leads SameMem s (exec (.armj d a j) s) := by
  refine leads_next.2 (issue_sameMem fun c => ?_)
  split <;> simp

theorem bpt_sameMem (i : BitVec 11) : Leads SameMem s (exec (.bpt i) s) := by
  refine leads_next.2 (issue_sameMem fun c => ?_)
  split <;> simp

theorem qtok_sameMem (la : BitVec 4) (tk : BitVec 3) : Leads SameMem s (exec (.qtok la tk) s) := by
  refine leads_next.2 (issue_sameMem fun c => ?_)
  (repeat' split) <;> simp

theorem qdepth_sameMem (d a : Code) : Leads SameMem s (exec (.qdepth d a) s) :=
  leads_next.2 (issue_sameMem fun c => recorded_within c (aluSem_within s c _) _ _ _)

theorem tbar_sameMem (a : Code) (ra : Bool) : Leads SameMem s (exec (.tbar a ra) s) := by
  refine leads_next.2 (issue_sameMem fun c => ?_)
  (repeat' split) <;> simp

theorem lfold_sameMem (d a : Code) (j : BitVec 4) (m : XlMod) : Leads SameMem s (exec (.lfold d a j m) s) :=
  leads_next.2 (issue_sameMem fun c => computeVerdict_within s c _ _ _ _ _ fun _ => rfl)

theorem lsame_sameMem (d a : Code) (j : BitVec 4) (all : Bool) (la : BitVec 4) (tk : BitVec 3) :
    Leads SameMem s (exec (.lsame d a j all la tk) s) :=
  leads_next.2 (issue_sameMem fun c => computeVerdict_within s c _ _ _ _ _ fun _ => rfl)

theorem mwait_sameMem : Leads SameMem s (exec .mwait s) := by
  refine leads_next.2 (issue_sameMem fun c => ?_)
  split <;> simp

theorem mepi_sameMem (a : Code) (ra : Bool) (wmask : BitVec 5) : Leads SameMem s (exec (.mepi a ra wmask) s) := by
  refine leads_next.2 (issue_sameMem fun c => ?_)
  split <;> simp

theorem push_sameMem (x : PushOp) : Leads SameMem s (exec (.push x) s) := by
  refine leads_next.2 (issue_sameMem fun c => ?_)
  dsimp only
  (repeat' split) <;> simp

theorem barwait_sameMem (x : BarwaitOp) : Leads SameMem s (exec (.barwait x) s) := by
  refine leads_next.2 (issue_sameMem fun c => ?_)
  dsimp only
  (repeat' split) <;> simp

theorem cclean_sameMem (a b : Code) (ra rb : Bool) : Leads SameMem s (exec (.cclean a b ra rb) s) := by
  refine leads_next.2 (issue_sameMem fun c => ?_)
  dsimp only
  split
  · simp
  · split
    · trivial
    · split
      · exact cleanPages_within s c ‹_›
      · simp

theorem pclass_sameMem (a b : Code) (ra rb : Bool) : Leads SameMem s (exec (.pclass a b ra rb) s) := by
  refine leads_next.2 (issueIn_sameMem s fun x => issue_sameMem fun c => ?_)
  dsimp only
  split
  · simp
  · split
    · trivial
    · split
      · split <;> trivial
      · exact cleanPages_within x c ‹_›
      · simp

theorem rtt_sameMem : Leads SameMem s (exec .rtt s) := by
  refine leads_next.2 (issueIn_sameMem s fun x => (returnTraps_mem ..).trans (issue_sameMem fun c => ?_))
  split <;> simp

theorem rdsr_sameMem (d : Code) (n : BitVec 11) : Leads SameMem s (exec (.rdsr d n) s) := by
  refine leads_next.2 (issue_sameMem fun c => ?_)
  split
  · trivial
  · exact recorded_within c (aluSem_within s c _) _ _ _

theorem wrsr_sameMem (a : Code) (n : BitVec 11) : Leads SameMem s (exec (.wrsr a n) s) := by
  refine leads_next.2 (issue_sameMem fun c => ?_)
  split <;> simp

end

/-- An instruction that stores nothing as it issues leaves memory as it was (08 R229). -/
theorem exec_sameMem {i : Instr} (hi : storesNothing i = true) (s : State) : Leads SameMem s (exec i s) := by
  cases i
  case add | addIt | addImm | sub | subIt | addc | subb | mul | mulIt | mulhi | mulhiIt | mad | madw | div | divIt | rem | remIt | min
      | minIt | max | maxIt | abs | absIt | and | or | xor | andn | not | shl | shr | sar | shlImm | shrImm | sarImm | rotImm | rot | brev
      | promaImm | bfe | bfi | shf | popc | clz | ctz | proma | promv | lea | leaLx | add64 | sub64 | shl64 | sad | dp4a | dp2a
      | dpxDotForms | sel | icmp | pand | por | pxor | mov | movmRead | movi | movhi | demoteFirst | demoteChk | demoteaChk | fadd
      | faddFmod | fsub | fsubFmod | fmul | fmulFmod | ffma | fmac | fmacFmod | fmin | fmax | fneg | fcmp | fclass | hadd2 | hadd2Hmod
      | hmul2 | hmul2Hmod | hfma2 | hmax2 | fcvt | frnd | frndFmod | fscale | fscaleFmod | pack2 | pack2Cvx | unpack2 | unpack2Cvx
      | qpushP | lgetAbs | lgetBelow | lgetAbove | lgetBfly | pollEvery | pollSome | pollMask | lead | tlp =>
    exact runAlu_sameMem ..
  case fexp2 | flog2 | frcp | frsqrt | fsqrt | fdiv | fsin | fcos | ftanh => exact leads_next.2 (issueSfu_sameMem ..)
  case xclr | xmov | xadd | xfma => exact leads_next.2 (issueX_sameMem ..)
  case cbarArrive | cbarWait | cbarArriveWait => exact leads_next.2 (issueCbar_sameMem ..)
  case gset | gclr => exact leads_next.2 (issueGuard_sameMem ..)
  case yield | nop | join => exact leads_next.2 (issue_sameMem fun _ _ => rfl)
  case movmWrite => exact movmWrite_sameMem ..
  case xrd => exact xrd_sameMem ..
  case xscan => exact xscan_sameMem ..
  case bra => exact bra_sameMem ..
  case brq => exact brq_sameMem ..
  case jmp => exact jmp_sameMem ..
  case ret => exact ret_sameMem ..
  case exit => exact exit_sameMem ..
  case waitj => exact waitj_sameMem ..
  case sleep => exact sleep_sameMem ..
  case trap => exact trap_sameMem ..
  case halt => exact halt_sameMem ..
  case armj => exact armj_sameMem ..
  case bpt => exact bpt_sameMem ..
  case qtok => exact qtok_sameMem ..
  case qdepth => exact qdepth_sameMem ..
  case tbar => exact tbar_sameMem ..
  case lfold => exact lfold_sameMem ..
  case lsame => exact lsame_sameMem ..
  case mwait => exact mwait_sameMem ..
  case mepi => exact mepi_sameMem ..
  case push => exact push_sameMem ..
  case barwait => exact barwait_sameMem ..
  case cclean => exact cclean_sameMem ..
  case pclass => exact pclass_sameMem ..
  case rtt => exact rtt_sameMem ..
  case rdsr => exact rdsr_sameMem ..
  case wrsr => exact wrsr_sameMem ..
  case mld | mst => simp [storesNothing] at hi
  all_goals exact absurd hi Bool.false_ne_true

end Sys2Proof.Machine

/-! What a memory instruction leaves of memory (08 R229; 13 R326). -/

namespace Sys2Proof.Machine

open Sys2Proof

/-- An access does not touch byte `k` of memory. -/
def LaneAccess.Spares (k : Nat) (a : LaneAccess) : Prop := a.space = .phys → k < a.addr ∨ a.addr + a.size ≤ k

/-- Pending instructions whose accesses do not touch byte `k`. -/
def VOp.Spares (k : Nat) (o : VOp) : Prop := ∀ a ∈ o.todo, a.Spares k

theorem Assoc.mem_set {α : Type} {m : Assoc α} {k : Nat} {x : α} {e : Nat × α} (h : e ∈ m.set k x) : e = (k, x) ∨ e ∈ m := by
  induction m with
  | nil => exact .inl (List.mem_singleton.1 h)
  | cons d r ih =>
    obtain ⟨i, y⟩ := d
    simp only [Assoc.set] at h
    split at h
    · rcases List.mem_cons.1 h with rfl | h
      · exact .inr List.mem_cons_self
      · exact (ih h).imp_right (List.mem_cons_of_mem _)
    · split at h
      · exact (List.mem_cons.1 h).imp_right (List.mem_cons_of_mem _)
      · exact List.mem_cons.1 h

/-! Accesses performed one after the other. -/

/-- Byte `k` holds `v`, and no pending instruction of `ids` touches it. -/
structure Untouched (k : Nat) (v : Byte) (ids : List Nat) (s : State) : Prop where
  holds : s.mem.read k = v
  spared : ∀ id ∈ ids, ∀ o, s.ops.find id = some o → o.Spares k

/-- A performed access leaves the other accesses of its instruction and every other instruction as they are. -/
theorem performAccess_todo {s : State} {id core : Nat} {a : LaneAccess} {i : Nat} {p : VOp}
    (h : (s.performAccess id core a).ops.find i = some p) : ∃ o, s.ops.find i = some o ∧ p.todo ⊆ o.todo := by
  obtain ⟨t, f, ht, hf, heq⟩ : ∃ (t : State) (f : VOp → VOp), t.ops = s.ops ∧
      (∀ o, (f o).todo = o.todo.filter (fun b => b.lane != a.lane)) ∧ s.performAccess id core a = t.modOp id f := by
    refine ⟨_, _, ?_, fun _ => rfl, rfl⟩
    split <;> split <;> simp
  rw [heq] at h
  by_cases hi : i = id
  · subst hi
    rw [modOp_find, ht] at h
    obtain ⟨o, ho, rfl⟩ := Option.map_eq_some_iff.1 h
    exact ⟨o, ho, hf o ▸ List.filter_sublist.subset⟩
  · rw [modOp_find_ne _ _ hi, ht] at h
    exact ⟨p, h, fun _ hx => hx⟩

theorem Untouched.performAccess {k : Nat} {v : Byte} {ids : List Nat} {s : State} (h : Untouched k v ids s) {a : LaneAccess}
    (ha : a.Spares k) (id core : Nat) : Untouched k v ids (s.performAccess id core a) where
  holds := (performAccess_read_out s id core a ha).trans h.holds
  spared i hi p hp := by
    obtain ⟨o, ho, hsub⟩ := performAccess_todo hp
    exact fun x hx => h.spared i hi o ho x (hsub hx)

theorem Untouched.performLanes {k : Nat} {v : Byte} {ids : List Nat} (ls : List (Fin 32)) {s : State} (h : Untouched k v ids s) :
    Untouched k v ids (s.performLanes ids ls) := by
  induction ls generalizing s with
  | nil => exact h
  | cons L ls ih =>
    refine ih (List.foldlRecOn (motive := Untouched k v ids) ids _ h fun x hx id hid => ?_)
    split
    · next o ho =>
      split
      · next a g ha _ => exact hx.performAccess (hx.spared id hid o ho a (List.mem_of_find?_eq_some ha)) id g.core
      · exact hx
    · exact hx

/-- No pending instruction that bundle `b` may perform touches byte `k`. -/
def BundleSpares (k b : Nat) (m : Assoc VOp) : Prop :=
  ∀ id o, (∃ d ∈ m, d.1 = id ∧ d.2.bundle = b) → m.find id = some o → o.Spares k

/-- The bundle's accesses leave a byte alone that none of them touches. -/
theorem performBundle_read {s : State} {k : Nat} (h : BundleSpares k s.bundleSeq s.ops) :
    s.performBundle.mem.read k = s.mem.read k := by
  unfold State.performBundle
  dsimp only
  split
  · simp
  · refine (Untouched.performLanes _ ⟨rfl, fun id hid o ho => ?_⟩).holds
    obtain ⟨d, hd, rfl⟩ := List.mem_map.1 hid
    obtain ⟨hmem, hmine⟩ := List.mem_filter.1 hd
    exact h d.1 o ⟨d, hmem, rfl, beq_iff_eq.1 (Bool.and_eq_true_iff.1 hmine).1⟩ ho

/-! What issuing adds to the pending instructions. -/

theorem BundleSpares.set {k b : Nat} {m : Assoc VOp} (h : BundleSpares k b m) (n : Nat) {o : VOp} (ho : o.Spares k) :
    BundleSpares k b (m.set n o) := by
  rintro id p ⟨d, hd, rfl, hb⟩ hp
  by_cases hn : d.1 = n
  · rw [hn, Assoc.find_set] at hp
    cases hp
    exact ho
  · rw [Assoc.find_set_ne _ _ hn] at hp
    rcases Assoc.mem_set hd with rfl | hd
    · exact absurd rfl hn
    · exact h d.1 p ⟨d, hd, rfl, hb⟩ hp

/-- While the groups of a bundle issue: memory is as before, and no pending instruction of the bundle touches byte `k`. -/
structure Spared (k : Nat) (s x : State) : Prop where
  mem : x.mem = s.mem
  seq : x.bundleSeq = s.bundleSeq
  ops : BundleSpares k s.bundleSeq x.ops

theorem Spared.countWindows {k : Nat} {s x : State} (h : Spared k s x) (gid : Nat) (st : Stream) :
    Spared k s (x.countWindows gid st) where
  mem := h.mem
  seq := h.seq
  ops := by
    rintro id p ⟨d, hd, rfl, hb⟩ hp
    obtain ⟨e, he, rfl⟩ := List.mem_map.1 hd
    have hbundle : e.2.bundle = s.bundleSeq := by
      rw [← hb]
      dsimp only
      split <;> rfl
    have hfind := Assoc.find_map x.ops e.1 (fun _ o =>
      if o.gid = gid ∧ o.stream = st then { o with window := o.window.map (fun w => w - 1) } else o)
    rw [show (x.countWindows gid st).ops.find e.1 = _ from hfind] at hp
    obtain ⟨o, ho, rfl⟩ := Option.map_eq_some_iff.1 hp
    have hspared := h.ops e.1 o ⟨e, he, rfl, hbundle⟩ ho
    split <;> exact hspared

theorem Spared.modGroup {k : Nat} {s x : State} (h : Spared k s x) (gid : Nat) (f : Group → Group) :
    Spared k s (x.modGroup gid f) := ⟨h.mem, h.seq, h.ops⟩

theorem Spared.addOp {k : Nat} {s x : State} (h : Spared k s x) {o : VOp} (ho : o.Spares k) : Spared k s (x.addOp o) :=
  ⟨h.mem, h.seq, h.ops.set _ ho⟩

theorem Spared.effects {k : Nat} {s : State} {cs : List Ctx} {eff : Ctx → State → State} (h : Spared k s s)
    (he : ∀ c ∈ cs, ∀ x, Spared k s x → Spared k s (eff c x)) : Spared k s (s.effects cs eff) :=
  List.foldlRecOn (motive := Spared k s) cs _ h fun _ hx c hc => he c hc _ ((hx.countWindows c.gid c.st).modGroup c.gid _)

@[simp] theorem after_mem (s : State) (cs : List Ctx) : (s.after cs).mem = s.mem := by
  unfold State.after
  simp

/-- A bundle whose effects and whose accesses touch a byte nowhere leaves it alone. -/
theorem Spared.afterIssue {k : Nat} {s : State} {cs : List Ctx} {eff : Ctx → State → State} (h : Spared k s s)
    (he : ∀ c ∈ cs, ∀ x, Spared k s x → Spared k s (eff c x)) (w : Nat) (pins : List Nat) (stop : Bool) :
    (s.afterIssue cs w pins stop eff State.performBundle).mem.read k = s.mem.read k := by
  obtain ⟨hmem, hseq, hops⟩ := h.effects he
  rw [State.afterIssue, after_mem, advance_mem, performBundle_read (hseq ▸ hops), hmem]

/-- Settles O58: the frame of every instruction that stores nothing is `exec_sameMem`; a memory instruction's accesses are
all that its bundle performs. -/
theorem memoryFrame : Obligations.MemoryFrame := by
  unfold Obligations.MemoryFrame
  refine ⟨fun i s t hi ht => (exec_sameMem hi s).next t ht, fun j w i s t r cs hj hg hready ht k hout hops => ?_⟩
  have hspared : Spared k s s := ⟨rfl, rfl, fun id o hd ho => hops (id, o) (Assoc.mem_of_find ho) hd⟩
  obtain ⟨hgoes, hprefetches⟩ := memoryInstructions.1 j w i hj s r cs hg
  by_cases hp : i.act = .pref
  · have hnext := hprefetches hp fun c hc h0 => ⟨(hready c hc h0).ordered, (hready c hc h0).placed⟩
    cases hnext.symm.trans ht
    refine hspared.afterIssue (fun c hc x hx => ?_) w [] false
    split
    · exact hx
    · exact hx.modGroup _ _
  · cases (hgoes hp hready).symm.trans ht
    refine hspared.afterIssue (fun c hc x hx => ?_) w [] false
    split
    · exact hx
    · exact (hx.modGroup _ _).addOp fun a ha => hout c hc a ha

end Sys2Proof.Machine

/-! Writers of memory: each leaves the canonical form of memory as it finds it. -/

namespace Sys2Proof.Machine

open Sys2Proof

@[simp] theorem ite_wf (p : Prop) [Decidable p] (a b : Bytes) :
    Bytes.wf (if p then a else b) = if p then a.wf else b.wf := apply_ite ..

theorem foldl_wf {α : Type} {f : State → α → State} {l : List α} {s : State} (h : s.mem.wf = true)
    (hf : ∀ x a, KeepsWf x (f x a)) : (l.foldl f s).mem.wf = true := memRel_keepsWf.foldl (fun x a _ => hf x a) h

/-- The state of an option, if there is one, has memory in its canonical form. -/
structure OptWf (o : Option State) : Prop where
  wf : ∀ t, o = some t → t.mem.wf = true

@[simp] theorem optWf_none : OptWf none := ⟨nofun⟩

@[simp] theorem optWf_some {s : State} : OptWf (some s) ↔ s.mem.wf = true :=
  ⟨fun h => h.wf s rfl, fun h => ⟨fun _ e => Option.some.inj e ▸ h⟩⟩

theorem OptWf.map {o : Option State} {f : State → State} (ho : OptWf o) (hf : ∀ x, KeepsWf x (f x)) : OptWf (o.map f) := by
  cases o with
  | none => exact optWf_none
  | some s => exact optWf_some.2 (hf s (optWf_some.1 ho))

theorem OptWf.bind {o : Option State} {f : State → Option State} (ho : OptWf o) (hf : ∀ x, x.mem.wf = true → OptWf (f x)) :
    OptWf (o.bind f) := by
  cases o with
  | none => exact optWf_none
  | some s => exact hf s (optWf_some.1 ho)

theorem OptWf.getD {o : Option State} {s : State} (ho : OptWf o) (h : s.mem.wf = true) : (o.getD s).mem.wf = true := by
  cases o with
  | none => exact h
  | some t => exact optWf_some.1 ho

theorem OptWf.foldl {α : Type} {f : Option State → α → Option State} {l : List α} {o : Option State} (ho : OptWf o)
    (hf : ∀ x a, OptWf x → OptWf (f x a)) : OptWf (l.foldl f o) := List.foldlRecOn l f ho fun x hx a _ => hf x a hx

section
variable {s : State} (h : s.mem.wf = true)
include h

/-! Accesses and return stacks. -/

theorem serve_wf (op core : Nat) (a : LaneAccess) : (s.serve op core a).mem.wf = true := by
  unfold State.serve
  cases s.ops.find op <;> simpa using performAccess_wf h op core a

theorem pushReturn_wf (c : Ctx) (ret : Dword) (L : Fin 32) (spill : Option Nat) : (s.pushReturn c ret L spill).mem.wf = true := by
  unfold State.pushReturn
  split
  · simpa using h
  · simp [count_mem, writeBytes_wf, h]

/-! Records of contexts (16 R415; 17 R443). -/

theorem storeRecord_wf (fn first chunks : Nat) (l : Layout) : (s.storeRecord fn first chunks l).mem.wf = true :=
  foldl_wf (Bytes.wf_clear h ..) fun _ _ hx => Bytes.wf_writeN hx ..

theorem putRecord_wf (fn kind lrec key chunks : Nat) (l : Layout) : OptWf (s.putRecord fn kind lrec key chunks l) := by
  unfold State.putRecord
  have hs : ∀ first, (s.storeRecord fn first chunks l).mem.wf = true := fun first => storeRecord_wf h ..
  extract_lets es
  split
  · next i first _ _ =>
    extract_lets t entry
    have ht : t.mem.wf = true := hs first
    clear_value t entry
    exact optWf_some.2 (Bytes.wf_writeN ht _ _)
  · exact optWf_none

theorem freeRecord_wf (fn kind lrec key : Nat) : (s.freeRecord fn kind lrec key).mem.wf = true := by
  unfold State.freeRecord
  split
  · exact Bytes.wf_clear h ..
  · exact h

theorem putPart_wf (fn kind lrec key chunks : Nat) (p : RecordPart) : OptWf (s.putPart fn kind lrec key chunks p) := by
  unfold State.putPart
  refine OptWf.bind ?_ fun x hx => ?_
  · split
    · exact optWf_some.2 h
    · exact putRecord_wf h ..
  · refine ⟨fun t ht => ?_⟩
    obtain ⟨a, -, rfl⟩ := Option.map_eq_some_iff.1 ht
    rw [foldl_mem fun y e => by simp]
    exact foldl_wf hx fun _ _ hy => Bytes.wf_writeN hy ..

theorem saveOwner_wf (o : Nat) (own : Bool) (hit : Nat → Bool) : OptWf (s.saveOwner o own hit) := by
  unfold State.saveOwner
  extract_lets team
  have hteam : ∀ {x : State}, x.mem.wf = true → ∀ tid own hit, OptWf (team x tid own hit) := by
    intro x hx tid own hit
    unfold team
    split
    · exact optWf_some.2 hx
    · split
      · exact optWf_some.2 hx
      · exact putPart_wf hx ..
  clear_value team
  split
  · split
    · exact optWf_some.2 h
    · refine (putPart_wf h ..).bind fun x hx => ?_
      split
      · exact hteam hx _ _ _
      · exact optWf_some.2 hx
  · exact hteam h _ _ _

theorem saveOwners_wf (own : Nat → Bool) (hit : Nat → Nat → Bool) (os : List Nat) : OptWf (s.saveOwners own hit os) := by
  induction os generalizing s with
  | nil => exact optWf_some.2 h
  | cons o os ih =>
    unfold State.saveOwners
    split
    · next ht => exact ih ((saveOwner_wf h ..).wf _ ht)
    · exact optWf_none

theorem saveRest_wf (c : Gang) : OptWf (s.saveRest c) := by
  unfold State.saveRest
  split
  · next ht => exact putPart_wf ((saveOwners_wf h ..).wf _ ht) ..
  · exact optWf_none

theorem freeGangRecords_wf (fn lrec gridpos : Nat) : (s.freeGangRecords fn lrec gridpos).mem.wf = true := by
  refine foldl_wf h fun x e hx => ?_
  split
  · exact Bytes.wf_clear hx ..
  · exact hx

theorem writeMaster_wf (fn ctx : Nat) : (s.writeMaster fn ctx).mem.wf = true := by
  unfold State.writeMaster
  split
  · exact storeRecord_wf h ..
  · split
    · next t ht =>
      have ht' : t.mem.wf = true := (putRecord_wf h ..).wf t ht
      exact ht'
    · exact h

/-! Accumulator blocks of contexts (10 R262 to R265). -/

theorem saveBlock_wf (q b owner : Nat) : OptWf (s.saveBlock q b owner) := by
  unfold State.saveBlock
  exact (putRecord_wf h ..).map fun _ hx => by simpa using hx

theorem giveBlock_wf (q b ctx : Nat) : (s.giveBlock q b ctx).mem.wf = true := by
  unfold State.giveBlock
  dsimp only
  split
  · exact freeRecord_wf (by simpa using h) ..
  · simpa using h

theorem acquire_wf (q ctx : Nat) (rows : List Nat) : (s.acquire q ctx rows).mem.wf = true := by
  refine foldl_wf h fun x b hx => ?_
  split
  · exact giveBlock_wf hx ..
  · exact hx

theorem claimBlocks_wf (q ctx : Nat) (rows : List Nat) : (s.claimBlocks q ctx rows).mem.wf = true := by
  refine foldl_wf h fun x e hx => ?_
  split
  · exact hx
  · split
    · next ht => exact giveBlock_wf ((saveBlock_wf hx ..).wf _ ht) ..
    · exact hx

theorem putBlock_wf (gk : Nat) (c : Gang) (q b : Nat) (rows : List AccRow) : OptWf (s.putBlock gk c q b rows) :=
  (putRecord_wf h ..).map fun _ hx => by simpa using hx

theorem freeBlocks_wf (c : Gang) : (s.freeBlocks c).mem.wf = true := foldl_wf h fun _ _ hx => Bytes.wf_clear hx ..

theorem releaseContext_wf (ctx : Nat) : (s.releaseContext ctx).mem.wf = true := by
  unfold State.releaseContext
  split
  · exact h
  · refine foldl_wf h fun x e hx => ?_
    have hz : ((e.2.saved.filter (fun z => z.context == ctx)).foldl (fun s z =>
        s.freeRecord (ctx % 65) 5 0 (e.1 * 256 + z.block)) x).mem.wf = true := foldl_wf hx fun _ _ hy => freeRecord_wf hy ..
    simpa using hz

end

end Sys2Proof.Machine

/-! Instructions that store as they issue. -/

namespace Sys2Proof.Machine

open Sys2Proof

theorem issue_keepsWf {s : State} {words : Nat} {u : Uses} {lat : Ctx → Option Nat} {pins : List Nat} {stop : Bool}
    {sem : State → Ctx → Verdict} {post : State → State} (hsem : ∀ c, (sem s c).Within KeepsWf)
    (hpost : ∀ x, KeepsWf x (post x)) :
    Leads KeepsWf s (.next (s.issue words u lat pins stop sem post)) :=
  leads_next.2 (issue_within memRel_keepsWf hsem hpost)

section
variable (s : State) (c : Ctx)

theorem memVerdict_within (i : MemInstr) : (i.verdict s c).Within SameMem := by
  unfold MemInstr.verdict
  dsimp only
  (repeat' split) <;> simp

theorem runMem_keepsWf (w : Nat) (i : MemInstr) : Leads KeepsWf s (runMem w i s) :=
  issue_keepsWf (fun c => (memVerdict_within s c i).of_sameMem memRel_keepsWf) fun _ => performBundle_wf

theorem issueBar_keepsWf (a b : Code) (pins : List (Operand × Bool)) (size : Nat) (act : Nat → Act) :
    Leads KeepsWf s (.next (s.issueBar a b pins size act)) := by
  refine issue_keepsWf (fun c => Verdict.Within.of_sameMem memRel_keepsWf ?_) fun _ => performBundle_wf
  dsimp only
  (repeat' split) <;> simp

theorem callVerdict_within (ts : List (Fin 32 × Dword)) : (s.callVerdict c ts).Within KeepsWf := by
  unfold State.callVerdict
  dsimp only
  split
  · exact (stackAccesses_within s c ‹_›).of_sameMem memRel_keepsWf
  · exact transferVerdict_within s c memRel_keepsWf _ _ fun x hx => foldl_wf hx fun _ _ hy => pushReturn_wf hy ..

theorem call_keepsWf (p : PredRef) (off : BitVec 21) : Leads KeepsWf s (execCall p off s) :=
  issue_keepsWf (fun c => callVerdict_within s c _) fun _ => id

theorem callr_keepsWf (a : Code) (ra : Bool) : Leads KeepsWf s (execCallr a ra s) :=
  issue_keepsWf (fun c => callVerdict_within s c _) fun _ => id

/-! Requests of the matrix unit: their entries are made, and nothing is stored before a pass is performed. -/

@[simp] theorem submit_mem (o : VOp) (es : List REntry) : (s.submit c o es).mem = s.mem := by
  simp [State.submit]

theorem entryVerdict_within {n : Nat} {eff : State → State} (h : ∀ x, SameMem x (eff x)) :
    (s.entryVerdict c n eff).Within SameMem := by
  unfold State.entryVerdict
  split
  · trivial
  · exact h

theorem requestVerdict_within {n : Nat} {tk : BitVec 3} {eff : State → State} (h : ∀ x, SameMem x (eff x)) :
    (s.requestVerdict c n tk eff).Within SameMem := by
  unfold State.requestVerdict
  split
  · trivial
  · split
    · trivial
    · exact h

theorem matrixPlaces_within {need : Need} {scratch : Bool} {align base pitch : Nat} {vas : List Nat} {v : Verdict}
    (h : s.matrixPlaces c need scratch align base pitch vas = .error v) : v.Within SameMem := by
  unfold State.matrixPlaces at h
  dsimp only at h
  (repeat' split at h) <;> cases h <;> simp

theorem issueMma_sameMem (m : MmaOp) (op : Nat) : SameMem s (s.issueMma m op) := by
  refine issue_sameMem fun c => ?_
  dsimp only
  split
  · simp
  · split
    · exact matrixPlaces_within s c ‹_›
    · exact requestVerdict_within s c fun x => by simp

theorem mzero_sameMem (a : Code) (ra : Bool) : Leads SameMem s (execMzero a ra s) := by
  refine leads_next.2 (issue_sameMem fun c => ?_)
  dsimp only
  split
  · simp
  · exact entryVerdict_within s c fun x => by simp

theorem mtree_sameMem (a b : Code) (ra rb : Bool) : Leads SameMem s (execMtree a b ra rb s) := by
  refine leads_next.2 (issue_sameMem fun c => ?_)
  dsimp only
  split
  · simp
  · exact entryVerdict_within s c fun x => by simp

theorem mld_sameMem (x : XferOp) : Leads SameMem s (execMld x s) := by
  refine leads_next.2 (issue_sameMem fun c => ?_)
  dsimp only
  split
  · simp
  · split
    · exact requestVerdict_within s c fun x => by simp
    · split
      · exact matrixPlaces_within s c ‹_›
      · exact requestVerdict_within s c fun x => by simp

theorem mst_sameMem (x : XferOp) : Leads SameMem s (execMst x s) := by
  refine leads_next.2 (issue_sameMem fun c => ?_)
  dsimp only
  split
  · simp
  · split
    · exact requestVerdict_within s c fun x => by simp
    · split
      · exact matrixPlaces_within s c ‹_›
      · exact requestVerdict_within s c fun x => by simp

theorem mdrain_sameMem (x : DrainOp) : Leads SameMem s (execMdrain x s) := by
  unfold execMdrain
  extract_lets bad u
  clear_value u
  refine leads_next.2 (issue_sameMem fun c => ?_)
  dsimp only
  split
  · simp
  · split
    · trivial
    · split
      · trivial
      · exact requestVerdict_within s c fun x => by simp

theorem issueTable_sameMem (x : TableOp) (act : Bool) (bytes : Nat) : SameMem s (s.issueTable x act bytes) := by
  refine issue_sameMem fun c => ?_
  dsimp only
  split
  · simp
  · split
    · exact matrixPlaces_within s c ‹_›
    · exact requestVerdict_within s c fun x => by simp

end

end Sys2Proof.Machine

/-! What the accesses of commands give (14 R363): every state that comes with an answer has memory in its canonical form. -/

namespace Sys2Proof.Machine

open Sys2Proof

structure Reach.Wf (r : Reach) : Prop where
  wait : ∀ {t}, r = .wait t → t.mem.wf = true

structure ReadOut.Wf (r : ReadOut) : Prop where
  got : ∀ {bs bad t}, r = .got bs bad t → t.mem.wf = true
  wait : ∀ {t}, r = .wait t → t.mem.wf = true

structure WriteOut.Wf (r : WriteOut) : Prop where
  done : ∀ {t}, r = .done t → t.mem.wf = true
  wait : ∀ {t}, r = .wait t → t.mem.wf = true

structure CmdOut.Wf (r : CmdOut) : Prop where
  wait : ∀ {t}, r = .wait t → t.mem.wf = true
  more : ∀ {t}, r = .more t → t.mem.wf = true
  done : ∀ {t n b}, r = .done t n b → t.mem.wf = true
  fail : ∀ {t e n b}, r = .fail t e n b → t.mem.wf = true

section
variable {t : State}

@[simp] theorem Reach.wf_at {key : Nat} : (Reach.at_ key).Wf := ⟨nofun⟩
@[simp] theorem Reach.wf_fail {e : Nat} : (Reach.fail e).Wf := ⟨nofun⟩
@[simp] theorem Reach.wf_wait : (Reach.wait t).Wf ↔ t.mem.wf = true := ⟨fun h => h.wait rfl, fun h => ⟨by rintro _ ⟨⟩; exact h⟩⟩

@[simp] theorem ReadOut.wf_fail {e : Nat} : (ReadOut.fail e).Wf := ⟨nofun, nofun⟩
@[simp] theorem ReadOut.wf_got {bs : List Byte} {bad : List Bool} : (ReadOut.got bs bad t).Wf ↔ t.mem.wf = true :=
  ⟨fun h => h.got rfl, fun h => ⟨by rintro _ _ _ ⟨⟩; exact h, nofun⟩⟩
@[simp] theorem ReadOut.wf_wait : (ReadOut.wait t).Wf ↔ t.mem.wf = true :=
  ⟨fun h => h.wait rfl, fun h => ⟨nofun, by rintro _ ⟨⟩; exact h⟩⟩

@[simp] theorem WriteOut.wf_fail {e : Nat} : (WriteOut.fail e).Wf := ⟨nofun, nofun⟩
@[simp] theorem WriteOut.wf_done : (WriteOut.done t).Wf ↔ t.mem.wf = true :=
  ⟨fun h => h.done rfl, fun h => ⟨by rintro _ ⟨⟩; exact h, nofun⟩⟩
@[simp] theorem WriteOut.wf_wait : (WriteOut.wait t).Wf ↔ t.mem.wf = true :=
  ⟨fun h => h.wait rfl, fun h => ⟨nofun, by rintro _ ⟨⟩; exact h⟩⟩

@[simp] theorem CmdOut.wf_wait : (CmdOut.wait t).Wf ↔ t.mem.wf = true :=
  ⟨fun h => h.wait rfl, fun h => ⟨by rintro _ ⟨⟩; exact h, nofun, nofun, nofun⟩⟩
@[simp] theorem CmdOut.wf_more : (CmdOut.more t).Wf ↔ t.mem.wf = true :=
  ⟨fun h => h.more rfl, fun h => ⟨nofun, by rintro _ ⟨⟩; exact h, nofun, nofun⟩⟩
@[simp] theorem CmdOut.wf_done {n : Int} {b : Nat} : (CmdOut.done t n b).Wf ↔ t.mem.wf = true :=
  ⟨fun h => h.done rfl, fun h => ⟨nofun, nofun, by rintro _ _ _ ⟨⟩; exact h, nofun⟩⟩
@[simp] theorem CmdOut.wf_fail {e : Nat} {n : Int} {b : Nat} : (CmdOut.fail t e n b).Wf ↔ t.mem.wf = true :=
  ⟨fun h => h.fail rfl, fun h => ⟨nofun, nofun, nofun, by rintro _ _ _ _ ⟨⟩; exact h⟩⟩

end

section
variable {s : State} (h : s.mem.wf = true) (q : Nat) (c : QCmd)
include h

theorem reach_wf (need : Need) (va : Nat) : (s.reach q c need va).Wf := by
  unfold State.reach
  (repeat' split) <;> simp [h]

theorem cmdRead_wf (va fuel n : Nat) : (s.cmdRead q c va fuel n).Wf := by
  induction fuel generalizing s va n with
  | zero => cases n <;> simp [State.cmdRead, h]
  | succ fuel ih =>
    cases n with
    | zero => simp [State.cmdRead, h]
    | succ n =>
      simp only [State.cmdRead]
      split
      · exact ReadOut.wf_wait.2 ((reach_wf h ..).wait ‹_›)
      · simp
      · next key _ =>
        have hrest : ∀ va n, ((s.cmdAccess q c key false).cmdRead q c va fuel n).Wf := fun va n => ih (by simpa using h) va n
        split
        · exact ReadOut.wf_got.2 ((hrest _ _).got ‹_›)
        · exact hrest _ _

theorem readBytes_wf (va n : Nat) : (s.readBytes q c va n).Wf := cmdRead_wf h q c va _ n

theorem cmdWrite_keepsWf (va : Nat) (bs : List Byte) (bad data : Bool) : (s.cmdWrite q c va bs bad data).Wf where
  done := cmdWrite_wf h
  wait hw := by
    unfold State.cmdWrite at hw
    split at hw
    · next ht =>
      cases hw
      exact (reach_wf h ..).wait ht
    · cases hw
    · cases hw

/-! Commands. -/

theorem endCommand_wf (cause : Nat) (count : Int) (bar : Nat) : (s.endCommand q c cause count bar).mem.wf = true := by
  unfold State.endCommand
  split
  · simp [h]
  · split
    · next ht => simpa using (reach_wf h ..).wait ht
    · simp [h]
    · have hd : ∀ key, ((s.orderCmd q c key).decrement key cause count (queueDie q)).mem.wf = true :=
        fun key => decrement_wf (by simpa using h) ..
      simp [hd]

omit c in
theorem runCommand_wf {body : State → QCmd → Progress → CmdOut} (hb : ∀ c p, (body s c p).Wf) :
    (s.runCommand q body).mem.wf = true := by
  unfold State.runCommand
  split
  · exact h
  · split
    · exact h
    · dsimp only
      split
      · exact endCommand_wf h ..
      · split
        · next hw => simpa using (hb _ _).wait hw
        · next hm => simpa using (hb _ _).more hm
        · next hd => exact endCommand_wf ((hb _ _).done hd) ..
        · next hf =>
          have ht := (hb _ _).fail hf
          split
          · simpa using ht
          · exact endCommand_wf (by simpa using ht) ..

omit q c in
theorem judgeFields_wf (count : Int) (bar : Nat) (bad misaligned : Bool) {go : CmdOut} (hg : go.Wf) :
    (judgeFields s count bar bad misaligned go).Wf := by
  unfold judgeFields
  (repeat' split) <;> simp [h, hg]

theorem copyChunk_wf (src dst n : Nat) {next : State → CmdOut} (hn : ∀ x, x.mem.wf = true → (next x).Wf) (count : Int) (bar : Nat) :
    (s.copyChunk q c src dst n next count bar).Wf := by
  unfold State.copyChunk
  split
  · exact CmdOut.wf_wait.2 ((readBytes_wf h ..).wait ‹_›)
  · simp [h]
  · next hr =>
    have ht := (readBytes_wf h ..).got hr
    split
    · exact CmdOut.wf_wait.2 ((cmdWrite_keepsWf ht ..).wait ‹_›)
    · simp [ht]
    · exact hn _ ((cmdWrite_keepsWf ht ..).done ‹_›)

omit c in
theorem nextItem_wf (p : Progress) : (s.nextItem q p).Wf := by simp [State.nextItem, h]

end

end Sys2Proof.Machine

/-! COPY, FILL, GATHER, KVCOMMIT and SIGNAL (14 R366 to R368). -/

namespace Sys2Proof.Machine

open Sys2Proof

/-- A command keeps the canonical form when each of its steps does. -/
theorem command_keepsWf {s : State} {q : Nat} {body : State → QCmd → Progress → CmdOut}
    (hb : s.mem.wf = true → ∀ c p, (body s c p).Wf) : Leads KeepsWf s (.next (s.runCommand q body)) :=
  leads_next.2 fun h => runCommand_wf h q (hb h)

section
variable (s : State) (q : Nat)

theorem copy_keepsWf (bar src dst len : Dword) : Leads KeepsWf s (execCopy q bar src dst len s) := by
  refine command_keepsWf fun h c p => judgeFields_wf h _ _ _ _ ?_
  split
  · simp [h]
  · exact copyChunk_wf h _ _ _ _ _ (fun x hx => nextItem_wf hx ..) ..

theorem fill_keepsWf (bar dst len : Dword) (pattern : BitVec 128) : Leads KeepsWf s (execFill q bar dst len pattern s) := by
  refine command_keepsWf fun h c p => judgeFields_wf h _ _ _ _ ?_
  split
  · simp [h]
  · split
    · exact CmdOut.wf_wait.2 ((cmdWrite_keepsWf h ..).wait ‹_›)
    · simp [h]
    · exact nextItem_wf ((cmdWrite_keepsWf h ..).done ‹_›) ..

theorem gather_keepsWf (bar src idx dst pitch : Dword) (count rowbytes : Word) :
    Leads KeepsWf s (execGather q bar src idx dst pitch count rowbytes s) := by
  refine command_keepsWf fun h c p => judgeFields_wf h _ _ _ _ ?_
  dsimp only
  split
  · simp [h]
  · split
    · split
      · exact CmdOut.wf_wait.2 ((readBytes_wf h ..).wait ‹_›)
      · simp [h]
      · next hr => simpa using (readBytes_wf h ..).got hr
    · exact copyChunk_wf h _ _ _ _ _ (fun x hx => nextItem_wf hx ..) ..

theorem kvcommit_keepsWf (bar stage cache lenaddr maskaddr : Dword) (entbytes : Word) (nslots : BitVec 8) (cap : Word) :
    Leads KeepsWf s (execKvcommit q bar stage cache lenaddr maskaddr entbytes nslots cap s) := by
  refine command_keepsWf fun h c p => judgeFields_wf h _ _ _ _ ?_
  dsimp only
  split
  · split
    · exact CmdOut.wf_wait.2 ((readBytes_wf h ..).wait ‹_›)
    · simp [h]
    · next hr => simpa using (readBytes_wf h ..).got hr
  · split
    · split
      · exact CmdOut.wf_wait.2 ((readBytes_wf h ..).wait ‹_›)
      · simp [h]
      · next hr =>
        have ht := (readBytes_wf h ..).got hr
        split <;> simpa using ht
    · split
      · split
        · exact CmdOut.wf_wait.2 ((cmdWrite_keepsWf h ..).wait ‹_›)
        · simp [h]
        · exact CmdOut.wf_done.2 ((cmdWrite_keepsWf h ..).done ‹_›)
      · exact copyChunk_wf h _ _ _ _ _ (fun x hx => nextItem_wf hx ..) ..

theorem signal_keepsWf (bar addr value : Dword) (mode : BitVec 8) (decr : Dword) :
    Leads KeepsWf s (execSignal q bar addr value mode decr s) := by
  refine command_keepsWf fun h c p => judgeFields_wf h _ _ _ _ ?_
  split
  · simp [h]
  · split
    · exact CmdOut.wf_wait.2 ((reach_wf h ..).wait ‹_›)
    · simp [h]
    · exact CmdOut.wf_done.2 (writeBytes_wf (by simpa using h) ..)

end

/-! TILE, TILEADD and VREAD (14 R369 to R373). -/

section
variable {s : State} (h : s.mem.wf = true) (q : Nat) (c : QCmd)
include h

theorem withShape_wf (p : Progress) (bar shape trows tcols : Nat) (drained misaligned : Bool) (badShape : Shape → Nat → Bool)
    {go : State → TileJob → CmdOut} (hg : ∀ j, (go s j).Wf) :
    (s.withShape q c p bar shape trows tcols drained misaligned badShape go).Wf := by
  refine judgeFields_wf h _ _ _ _ ?_
  dsimp only
  split
  · split
    · exact CmdOut.wf_wait.2 ((readBytes_wf h ..).wait ‹_›)
    · simp [h]
    · next hr => simpa using (readBytes_wf h ..).got hr
  · split
    · simp [h]
    · split
      · simp [h]
      · generalize (if drained then (Shape.of p.shape).baraddr else bar) = bar
        split
        · simp [h]
        · exact hg _

theorem tileRowBytes_wf (t : TileCmd) (e i : Nat) : (s.tileRowBytes q c t e i).Wf := by
  unfold State.tileRowBytes
  split
  · split <;> simp [h]
  · exact readBytes_wf h ..

theorem tileRowPiece_wf (t : TileCmd) (e i o : Nat) : (s.tileRowPiece q c t e i o).Wf := by
  unfold State.tileRowPiece
  split
  · exact tileRowBytes_wf h ..
  · exact readBytes_wf h ..

theorem tileWrite_wf (add : Bool) (j : TileJob) (row : List Byte) (bad : List Bool) (tcols i o : Nat) :
    (s.tileWrite q c add j row bad tcols i o).1.Wf := by
  unfold State.tileWrite
  dsimp only
  split
  · exact WriteOut.wf_wait.2 ((reach_wf h ..).wait ‹_›)
  · simp
  · have hw : ∀ key bs, ((s.cmdAccess q c key true).writeBytes key bs).mem.wf = true :=
      fun key bs => writeBytes_wf (by simpa using h) ..
    simp [hw]

theorem tileRowAll_wf (add : Bool) (j : TileJob) (row : List Byte) (bad : List Bool) (tcols i fuel o : Nat) :
    (s.tileRowAll q c add j row bad tcols i fuel o).Wf := by
  induction fuel generalizing s o with
  | zero => simp [State.tileRowAll, h]
  | succ fuel ih =>
    unfold State.tileRowAll
    split
    · simp [h]
    · have hw := tileWrite_wf h q c add j row bad tcols i o
      split
      · next hd => exact ih (hw.done (congrArg Prod.fst hd)) _
      · next hx => rwa [hx] at hw

theorem tileAll_wf (t : TileCmd) (add : Bool) (j : TileJob) (is : List Nat) : (s.tileAll q c t add j is).Wf := by
  induction is generalizing s with
  | nil => simp [State.tileAll, h]
  | cons i is ih =>
    unfold State.tileAll
    split
    · exact WriteOut.wf_wait.2 ((tileRowBytes_wf h ..).wait ‹_›)
    · simp
    · next hr =>
      have ht := (tileRowBytes_wf h ..).got hr
      split
      · exact ih ((tileRowAll_wf ht ..).done ‹_›)
      · exact tileRowAll_wf ht ..

theorem tileAon_wf (t : TileCmd) (add : Bool) (j : TileJob) : (s.tileAon q c t add j).Wf := by
  unfold State.tileAon
  split
  · simp [State.waitsLike, h]
  · simp [h]
  · next hd =>
    have ht := (tileAll_wf h ..).done hd
    split
    · simp [ht]
    · split
      · exact CmdOut.wf_wait.2 ((reach_wf h ..).wait ‹_›)
      · simp [h]
      · exact CmdOut.wf_done.2 (writeBytes_wf (by simpa using ht) ..)

theorem tileStep_wf (t : TileCmd) (add : Bool) (p : Progress) (j : TileJob) : (s.tileStep q c t add p j).Wf := by
  unfold State.tileStep
  split
  · simp [h]
  · split
    · exact tileAon_wf h ..
    · split
      · simp [h]
      · split
        · split
          · exact CmdOut.wf_wait.2 ((tileRowPiece_wf h ..).wait ‹_›)
          · simp [h]
          · next hr => simpa using (tileRowPiece_wf h ..).got hr
        · split
          · simp [h]
          · have hw := tileWrite_wf h q c add j p.buf p.bad t.tcols.toNat p.pos p.x
            split
            · next hx => exact CmdOut.wf_wait.2 (hw.wait (congrArg Prod.fst hx))
            · simp [h]
            · next hd => simpa using hw.done (congrArg Prod.fst hd)

theorem vreadRow_wf (j : TileJob) (tcols i : Nat) : (s.vreadRow q c j tcols i).Wf := by
  unfold State.vreadRow
  dsimp only
  split
  · simp [h]
  · split
    · exact ReadOut.wf_got.2 ((readBytes_wf h ..).got ‹_›)
    · exact readBytes_wf h ..

theorem vreadRows_wf (j : TileJob) (tcols : Nat) (is : List Nat) : (s.vreadRows q c j tcols is).Wf := by
  induction is generalizing s with
  | nil => simp [State.vreadRows, h]
  | cons i is ih =>
    unfold State.vreadRows
    split
    · next hr =>
      have ht := ih ((vreadRow_wf h ..).got hr)
      split
      · exact ReadOut.wf_got.2 (ht.got ‹_›)
      · exact ht
    · exact vreadRow_wf h ..

theorem vreadStep_wf (p : Progress) (j : TileJob) (dst vout trows tcols : Nat) :
    (s.vreadStep q c p j dst vout trows tcols).Wf := by
  unfold State.vreadStep
  dsimp only
  split
  · split
    · split
      · exact CmdOut.wf_wait.2 ((readBytes_wf h ..).wait ‹_›)
      · simp [h]
      · next hv =>
        have ht := (readBytes_wf h ..).got hv
        split
        · simp [State.waitsLike, h]
        · simp [h]
        · next hr => simpa using (vreadRows_wf ht ..).got hr
    · split
      · exact CmdOut.wf_wait.2 ((readBytes_wf h ..).wait ‹_›)
      · simp [h]
      · next hv => simpa using (readBytes_wf h ..).got hv
  · split
    · simp [h]
    · split
      · simp [h]
      · split
        · exact CmdOut.wf_wait.2 ((readBytes_wf h ..).wait ‹_›)
        · simp [h]
        · next hr => simpa using (readBytes_wf h ..).got hr
  · split
    · exact CmdOut.wf_wait.2 ((readBytes_wf h ..).wait ‹_›)
    · simp [h]
    · next hv => simpa using (readBytes_wf h ..).got hv
  · split
    · simp [h]
    · split
      · exact CmdOut.wf_wait.2 ((cmdWrite_keepsWf h ..).wait ‹_›)
      · simp [h]
      · next hd => simpa using (cmdWrite_keepsWf h ..).done hd
  · split
    · simp [h]
    · split
      · exact CmdOut.wf_wait.2 ((cmdWrite_keepsWf h ..).wait ‹_›)
      · simp [h]
      · next hd => exact CmdOut.wf_done.2 ((cmdWrite_keepsWf h ..).done hd)

end

section
variable (s : State) (q : Nat)

theorem runTile_keepsWf (t : TileCmd) (add : Bool) : Leads KeepsWf s (.next (s.runTile q t add)) :=
  command_keepsWf fun h _ _ => withShape_wf h _ _ _ _ _ _ _ _ _ _ fun _ => tileStep_wf h ..

theorem vread_keepsWf (bar shape dst : Dword) (trows tcols : BitVec 16) (vout : Dword) :
    Leads KeepsWf s (execVread q bar shape dst trows tcols vout s) :=
  command_keepsWf fun h _ _ => withShape_wf h _ _ _ _ _ _ _ _ _ _ fun _ => vreadStep_wf h ..

end

end Sys2Proof.Machine

/-! Entries of a quad's table (10 R264 to R285; 11 R297 to R307). -/

namespace Sys2Proof.Machine

open Sys2Proof

section
variable {s : State} (h : s.mem.wf = true)
include h

theorem performEntry_wf (id : Nat) (p : EntryKind → Bool) {f : State → REntry → State}
    (hf : ∀ x e, x.mem.wf = true → (f x e).mem.wf = true) : (s.performEntry id p f).mem.wf = true := by
  unfold State.performEntry
  split
  · exact h
  · split
    · exact h
    · dsimp only
      split
      · simpa using h
      · exact hf _ _ (acquire_wf h ..)

omit h in
@[simp] theorem engineRead_mem (g : Group) (scratch : Bool) (a n : Nat) : (s.engineRead g scratch a n).2.2.mem = s.mem := by
  unfold State.engineRead
  split
  · split <;> rfl
  · simp

omit h in
@[simp] theorem engineReadAll_mem (g : Group) (scratch : Bool) (as : List Nat) : (s.engineReadAll g scratch as).2.2.mem = s.mem :=
  List.foldlRecOn (motive := fun x : List Byte × Bool × State => x.2.2.mem = s.mem) as _ rfl fun _ hx _ _ =>
    (engineRead_mem ..).trans hx

theorem entryReads_wf (id : Nat) (e : REntry) (scratch : Bool) (as : List Nat) {done : State → List Byte → List Bool → State}
    (hd : ∀ x bs bad, x.mem.wf = true → (done x bs bad).mem.wf = true) : (s.entryReads id e scratch as done).mem.wf = true := by
  unfold State.entryReads
  split
  · split
    · simpa using h
    · dsimp only
      split
      · exact hd _ _ _ (by simpa using h)
      · simpa using h
  · exact h

theorem entryWrites_wf (id : Nat) (e : REntry) (scratch : Bool) (as : List Nat) : (s.entryWrites id e scratch as).mem.wf = true := by
  unfold State.entryWrites
  dsimp only
  split
  · split
    · simpa using h
    · have hw : ∀ g a bs p, (s.engineWrite g scratch a bs p).mem.wf = true := fun g a bs p => engineWrite_wf h ..
      simp [hw]
  · exact h

end

section
variable (s : State) (entry : Nat)

theorem mldEntry_keepsWf : Leads KeepsWf s (execMldEntry entry s) := by
  refine leads_next.2 fun h => performEntry_wf h _ _ fun x e hx => ?_
  split
  · simpa using hx
  · exact entryReads_wf hx _ _ _ _ fun y bs bad hy => by simpa using hy
  · exact hx

theorem mstEntry_keepsWf : Leads KeepsWf s (execMstEntry entry s) := by
  refine leads_next.2 fun h => performEntry_wf h _ _ fun x e hx => ?_
  split
  · simpa using hx
  · exact entryWrites_wf hx ..
  · exact hx

theorem mzeroEntry_keepsWf : Leads KeepsWf s (execMzeroEntry entry s) :=
  leads_next.2 fun h => performEntry_wf h _ _ fun x e hx => by simpa using hx

theorem mtreeEntry_keepsWf : Leads KeepsWf s (execMtreeEntry entry s) := by
  refine leads_next.2 fun h => performEntry_wf h _ _ fun x e hx => ?_
  split
  · simpa using hx
  · exact hx

theorem mdrainEntry_keepsWf : Leads KeepsWf s (execMdrainEntry entry s) := by
  refine leads_next.2 fun h => ?_
  split
  · exact h
  · refine performEntry_wf h _ _ fun x e hx => ?_
    split
    · dsimp only
      split
      · simpa using hx
      · exact hx
    · exact hx

theorem tableLoadComplete_keepsWf : Leads KeepsWf s (execTableLoadComplete entry s) := by
  refine leads_next.2 fun h => performEntry_wf h _ _ fun x e hx => ?_
  split
  · refine entryReads_wf hx _ _ _ _ fun y bs bad hy => ?_
    dsimp only
    rw [freeEntry_mem]
    split
    · simpa using hy
    · refine writeMaster_wf ?_ ..
      exact hy
  · exact hx

theorem blockWaitRelease_keepsWf : Leads KeepsWf s (execBlockWaitRelease entry s) := by
  unfold execBlockWaitRelease
  split
  · split
    · exact leads_next.2 fun h => h
    · refine leads_next.2 fun h => ?_
      have hc : ∀ q ctx rows, (s.claimBlocks q ctx rows).mem.wf = true := fun q ctx rows => claimBlocks_wf h ..
      split
      · simpa using hc ..
      · exact hc ..
  · exact leads_next.2 fun h => h

end

end Sys2Proof.Machine

/-! Events that keep memory's canonical form. -/

namespace Sys2Proof.Machine

open Sys2Proof

@[simp] theorem keepsWf_iff {s t : State} : KeepsWf s t ↔ (s.mem.wf = true → t.mem.wf = true) := Iff.rfl

/-- Only a memory in its canonical form has to be kept so. -/
theorem Leads.of_wf {s : State} {o : Host.Outcome State Fault Refusal} (ho : s.mem.wf = true → Leads KeepsWf s o) : Leads KeepsWf s o :=
  ⟨fun t ht h => (ho h).next t ht h⟩

theorem Leads.keepsWf {s : State} {o : Host.Outcome State Fault Refusal} (ho : Leads SameMem s o) : Leads KeepsWf s o :=
  ⟨fun t ht => memRel_keepsWf.same (ho.next t ht)⟩

/-! The memory system (13 R337 to R349; 17 R455). -/

section
variable (s : State)

theorem orderedAccess_keepsWf (op : Nat) : Leads KeepsWf s (execOrderedAccess op s) := .of_wf fun h => by
  unfold execOrderedAccess
  (repeat' split) <;> simp [h, serve_wf]

theorem drain_keepsWf (granule : Nat) : Leads KeepsWf s (execDrain granule s) := .of_wf fun h => by
  unfold execDrain
  (repeat' split) <;> simp [h, serve_wf]

theorem readonlyInvalidation_keepsWf (granule : Nat) : Leads KeepsWf s (execReadonlyInvalidation granule s) := .of_wf fun h => by
  unfold execReadonlyInvalidation
  (repeat' split) <;> simp [h, serve_wf]

theorem walkComplete_keepsWf (walk : Nat) : Leads KeepsWf s (execWalkComplete walk s) := .of_wf fun h => by
  unfold execWalkComplete
  split
  · split
    · simp
    · split <;> simp [h, writeBytes_wf]
  · simp

theorem passGrant_keepsWf (quad : Nat) : Leads KeepsWf s (execPassGrant quad s) := .of_wf fun h => by
  unfold execPassGrant
  extract_lets now s0 pool
  have h0 : s0.mem.wf = true := by simpa [s0] using h
  split
  · simp
  · split
    · simp [h0]
    · next e _ =>
      split
      · cases e.2.pass? <;> simp [h0]
      · extract_lets same taken s1
        have h1 : s1.mem.wf = true := foldl_wf h0 fun x e hx => by simpa using acquire_wf hx ..
        split
        · next g p _ _ =>
          extract_lets r s2 s3
          have h2 : s2.mem = s1.mem :=
            (foldl_mem fun x e => by split <;> simp).trans (by simp [r])
          simp [s3, h1, h2]
        · simp [h0]

theorem faultRecordAppend_keepsWf (fn : Nat) : Leads KeepsWf s (execFaultRecordAppend fn s) := .of_wf fun h => by
  unfold execFaultRecordAppend
  dsimp only
  (repeat' split) <;> simp [h, writeBytes_wf]

end

/-! The yo-yo engine (16 R402 to R409). -/

section
variable {s : State} (h : s.mem.wf = true)
include h

theorem setTransit_wf (entry : Nat) (e : Dword) (frame : Nat) (on : Bool) : (s.setTransit entry e frame on).mem.wf = true :=
  writeBytes_wf h ..

theorem movePage_wf (src dst : Nat) : (s.movePage src dst).mem.wf = true :=
  List.foldlRecOn (motive := fun m => Bytes.wf m = true) _ _ (Bytes.wf_clear (by simpa using h) ..) fun _ hm _ _ => Bytes.wf_write hm ..

end

section
variable (s : State)

theorem move_keepsWf (q : Nat) (bar vaddr : Dword) (vf : BitVec 6) (dtier : BitVec 2) (frame : Dword) :
    Leads KeepsWf s (execMove q bar vaddr vf dtier frame s) := by
  refine command_keepsWf fun h c p => judgeFields_wf h _ _ _ _ ?_
  dsimp only
  (repeat' split) <;> simp [h, setTransit_wf, movePage_wf]

theorem wssnap_keepsWf (q : Nat) (bar dst : Dword) (len : Word) (vf : BitVec 6) :
    Leads KeepsWf s (execWssnap q bar dst len vf s) := by
  refine command_keepsWf fun h c p => judgeFields_wf h _ _ _ _ ?_
  dsimp only
  split
  · simp [h]
  · split
    · simp [h]
    · split
      · simp [h]
      · split
        · exact CmdOut.wf_wait.2 ((cmdWrite_keepsWf h ..).wait ‹_›)
        · simp [h]
        · next hd => simpa using (cmdWrite_keepsWf h ..).done hd

theorem wsSweep_keepsWf (fn : Nat) : Leads KeepsWf s (execWsSweep fn s) := .of_wf fun h => by
  unfold execWsSweep
  split
  · refine leads_next.2 fun _ => foldl_wf (by simpa using h) fun x l hx => ?_
    simpa using writeBytes_wf hx ..
  · simp

end

end Sys2Proof.Machine

/-! The device's own accesses and submissions (16 R410 to R419). -/

namespace Sys2Proof.Machine

open Sys2Proof

structure OwnRead.Wf (r : OwnRead) : Prop where
  got : ∀ {bs t}, r = .got bs t → t.mem.wf = true
  wait : ∀ {t}, r = .wait t → t.mem.wf = true

structure OwnPlace.Wf (r : OwnPlace) : Prop where
  wait : ∀ {t}, r = .wait t → t.mem.wf = true

structure Head.Wf (r : Head) : Prop where
  wait : ∀ {t}, r = .wait t → t.mem.wf = true
  invalid : ∀ {bs o t}, r = .invalid bs o t → t.mem.wf = true
  depFault : ∀ {bs a t}, r = .depFault bs a t → t.mem.wf = true
  held : ∀ {t}, r = .held t → t.mem.wf = true
  ready : ∀ {bs t}, r = .ready bs t → t.mem.wf = true

structure WsRead.Wf (r : WsRead) : Prop where
  got : ∀ {rs t}, r = .got rs t → t.mem.wf = true
  malformed : ∀ {t}, r = .malformed t → t.mem.wf = true
  wait : ∀ {t}, r = .wait t → t.mem.wf = true

section
variable {t : State}

@[simp] theorem OwnRead.wf_fail {a : Nat} : (OwnRead.fail a).Wf := ⟨nofun, nofun⟩
@[simp] theorem OwnRead.wf_got {bs : List Byte} : (OwnRead.got bs t).Wf ↔ t.mem.wf = true :=
  ⟨fun h => h.got rfl, fun h => ⟨by rintro _ _ ⟨⟩; exact h, nofun⟩⟩
@[simp] theorem OwnRead.wf_wait : (OwnRead.wait t).Wf ↔ t.mem.wf = true :=
  ⟨fun h => h.wait rfl, fun h => ⟨nofun, by rintro _ ⟨⟩; exact h⟩⟩

@[simp] theorem OwnPlace.wf_skip : OwnPlace.skip.Wf := ⟨nofun⟩
@[simp] theorem OwnPlace.wf_fail {a : Nat} : (OwnPlace.fail a).Wf := ⟨nofun⟩
@[simp] theorem OwnPlace.wf_at {key : Nat} : (OwnPlace.at_ key).Wf := ⟨nofun⟩
@[simp] theorem OwnPlace.wf_wait : (OwnPlace.wait t).Wf ↔ t.mem.wf = true :=
  ⟨fun h => h.wait rfl, fun h => ⟨by rintro _ ⟨⟩; exact h⟩⟩

@[simp] theorem Head.wf_none : Head.none.Wf := ⟨nofun, nofun, nofun, nofun, nofun⟩
@[simp] theorem Head.wf_ringFault {a : Nat} : (Head.ringFault a).Wf := ⟨nofun, nofun, nofun, nofun, nofun⟩
@[simp] theorem Head.wf_wait : (Head.wait t).Wf ↔ t.mem.wf = true :=
  ⟨fun h => h.wait rfl, fun h => ⟨by rintro _ ⟨⟩; exact h, nofun, nofun, nofun, nofun⟩⟩
@[simp] theorem Head.wf_invalid {bs : List Byte} {o : Nat} : (Head.invalid bs o t).Wf ↔ t.mem.wf = true :=
  ⟨fun h => h.invalid rfl, fun h => ⟨nofun, by rintro _ _ _ ⟨⟩; exact h, nofun, nofun, nofun⟩⟩
@[simp] theorem Head.wf_depFault {bs : List Byte} {a : Nat} : (Head.depFault bs a t).Wf ↔ t.mem.wf = true :=
  ⟨fun h => h.depFault rfl, fun h => ⟨nofun, nofun, by rintro _ _ _ ⟨⟩; exact h, nofun, nofun⟩⟩
@[simp] theorem Head.wf_held : (Head.held t).Wf ↔ t.mem.wf = true :=
  ⟨fun h => h.held rfl, fun h => ⟨nofun, nofun, nofun, by rintro _ ⟨⟩; exact h, nofun⟩⟩
@[simp] theorem Head.wf_ready {bs : List Byte} : (Head.ready bs t).Wf ↔ t.mem.wf = true :=
  ⟨fun h => h.ready rfl, fun h => ⟨nofun, nofun, nofun, nofun, by rintro _ _ ⟨⟩; exact h⟩⟩

@[simp] theorem WsRead.wf_fail {a : Nat} : (WsRead.fail a).Wf := ⟨nofun, nofun, nofun⟩
@[simp] theorem WsRead.wf_got {rs : List Region} : (WsRead.got rs t).Wf ↔ t.mem.wf = true :=
  ⟨fun h => h.got rfl, fun h => ⟨by rintro _ _ ⟨⟩; exact h, nofun, nofun⟩⟩
@[simp] theorem WsRead.wf_malformed : (WsRead.malformed t).Wf ↔ t.mem.wf = true :=
  ⟨fun h => h.malformed rfl, fun h => ⟨nofun, by rintro _ ⟨⟩; exact h, nofun⟩⟩
@[simp] theorem WsRead.wf_wait : (WsRead.wait t).Wf ↔ t.mem.wf = true :=
  ⟨fun h => h.wait rfl, fun h => ⟨nofun, nofun, by rintro _ ⟨⟩; exact h⟩⟩

end

section
variable {s : State} (h : s.mem.wf = true)
include h

theorem ownRead_wf (fn part va fuel n : Nat) : (s.ownRead fn part va fuel n).Wf := by
  induction fuel generalizing s va n with
  | zero => cases n <;> simp [State.ownRead, h]
  | succ fuel ih =>
    cases n with
    | zero => simp [State.ownRead, h]
    | succ n =>
      simp only [State.ownRead]
      split
      · next key _ =>
        have hrest : ∀ va n, ((s.classify key (homeDie key) none false).ownRead fn part va fuel n).Wf :=
          fun va n => ih (by simpa using h) va n
        split
        · simp [h]
        · split
          · simp
          · split
            · exact OwnRead.wf_got.2 ((hrest _ _).got ‹_›)
            · exact hrest _ _
      all_goals simp [h]

theorem readOwn_wf (fn part va n : Nat) : (s.readOwn fn part va n).Wf := ownRead_wf h fn part va _ n

theorem ownPlace_wf (fn part addr : Nat) (need : Need) (size : Nat) : (s.ownPlace fn part addr need size).Wf := by
  unfold State.ownPlace
  (repeat' split) <;> simp [h]

theorem queueHead_wf (fn part q : Nat) : (s.queueHead fn part q).Wf := by
  unfold State.queueHead
  dsimp only
  split
  · simp
  · split
    · exact Head.wf_wait.2 ((readOwn_wf h ..).wait ‹_›)
    · simp
    · next hr =>
      have ht := (readOwn_wf h ..).got hr
      split
      · simp [ht]
      · split
        · simp [ht]
        · split
          · exact Head.wf_wait.2 ((readOwn_wf ht ..).wait ‹_›)
          · simp [ht]
          · next hf =>
            have hu := (readOwn_wf ht ..).got hf
            split <;> simp [hu]

theorem readWs_wf (fn part va : Nat) : (s.readWs fn part va).Wf := by
  unfold State.readWs
  split
  · exact WsRead.wf_wait.2 ((readOwn_wf h ..).wait ‹_›)
  · simp
  · next hr =>
    have ht := (readOwn_wf h ..).got hr
    dsimp only
    split
    · simp [ht]
    · split
      · exact WsRead.wf_wait.2 ((readOwn_wf ht ..).wait ‹_›)
      · simp
      · next hb =>
        have hu := (readOwn_wf ht ..).got hb
        split <;> simp [hu]

theorem openContext_wf (part fn : Nat) : (s.openContext part fn).mem.wf = true := by
  unfold State.openContext
  dsimp only
  split
  · exact h
  · refine writeMaster_wf ?_ ..
    exact h

theorem recordLaunch_wf (fn part : Nat) (r : LaunchRec) (rb : List Byte) : (s.recordLaunch fn part r rb).mem.wf = true := by
  unfold State.recordLaunch
  extract_lets f s1 items
  have h1 : s1.mem.wf = true := by simpa [s1] using h
  split
  · split
    · next hr => simpa using (readOwn_wf h1 ..).got hr
    · exact h1
  · split <;> simp [h]

theorem recorderMove_wf (fn : Nat) : (s.recorderMove fn).mem.wf = true := by
  unfold State.recorderMove
  dsimp only
  (repeat' split) <;> simp [h, writeBytes_wf]

theorem startLaunch_wf (fn part : Nat) (p : Part) (sub lrec : Nat) (rb : List Byte) (rs : List Region) :
    (s.startLaunch fn part p sub lrec rb rs).mem.wf = true := by
  have hr : ((((s.workArrives part fn).openContext part fn).epoch fn part (LaunchRec.of rb)).recordLaunch fn part
      (LaunchRec.of rb) rb).mem.wf = true :=
    recordLaunch_wf (by simpa using openContext_wf (by simpa using h) ..) ..
  exact hr

theorem hintsWait_wf (fn part : Nat) (r : LaunchRec) : OptWf (s.hintsWait fn part r) := by
  refine OptWf.foldl optWf_none fun w x hw => ?_
  have hs := hw.getD h
  split <;> simp [hs, hw]

theorem takePlain_wf (fn q part : Nat) {x : Head} (hx : x.Wf) : (s.takePlain fn q part x).mem.wf = true := by
  unfold State.takePlain
  split
  · simpa using h
  · simpa using hx.invalid rfl
  · simpa using hx.depFault rfl
  · simpa using hx.ready rfl
  · exact hx.wait rfl
  · exact hx.held rfl
  · exact h

theorem takeLaunch_wf (fn q part : Nat) (p : Part) (b : List Byte) : (s.takeLaunch fn q part p b).mem.wf = true := by
  unfold State.takeLaunch
  extract_lets at_ lrec fault
  have hfault : ∀ x a access, x.mem.wf = true → (fault x a access).mem.wf = true := fun x a access hx => by
    simpa [fault] using hx
  clear_value fault
  split
  · exact (readOwn_wf h ..).wait ‹_›
  · exact hfault _ _ _ h
  · next rb x hr =>
    have hx := (readOwn_wf h ..).got hr
    extract_lets r err ws
    have hws : ws.Wf := by
      unfold ws
      split
      · simpa using hx
      · exact readWs_wf hx ..
    clear_value ws err
    split
    · exact hws.wait rfl
    · simpa using hws.malformed rfl
    · simpa using hx
    · exact hfault _ _ _ hx
    · simpa using hws.got rfl
    · have ht := hws.got rfl
      split
      · simpa using ht
      · split
        · exact (hintsWait_wf ht ..).wf _ ‹_›
        · exact startLaunch_wf (by simpa using ht) ..

end

section
variable (s : State)

theorem launch_keepsWf (fn q : Nat) : Leads KeepsWf s (execLaunch fn q s) := .of_wf fun h => by
  unfold execLaunch
  split
  · simp
  · next part _ =>
    have hq := queueHead_wf h fn part q
    split
    · split
      · next hw => exact leads_next.2 fun _ => hq.wait hw
      · next hd => exact leads_next.2 fun _ => hq.held hd
      · simp
      · next hr =>
        split
        · exact leads_next.2 fun _ => takeLaunch_wf (hq.ready hr) ..
        · simp
      · split
        · exact leads_next.2 fun _ => takePlain_wf h _ _ _ hq
        · simp
    · simp

theorem signalEntry_keepsWf (fn q : Nat) : Leads KeepsWf s (execSignalEntry fn q s) := .of_wf fun h => by
  unfold execSignalEntry
  split
  · simp
  · next part _ =>
    dsimp only
    split
    · next hd => exact leads_next.2 fun _ => (queueHead_wf h ..).held hd
    · split
      · exact leads_next.2 fun _ => takePlain_wf h _ _ _ (queueHead_wf h ..)
      · simp

theorem launchComplete_keepsWf (launch : Nat) : Leads KeepsWf s (execLaunchComplete launch s) := .of_wf fun h => by
  unfold execLaunchComplete
  split
  · next l _ =>
    split
    · refine leads_next.2 fun _ => releaseContext_wf ?_ _
      simpa using foldl_wf h fun x e hx => freeGangRecords_wf hx ..
    · simp
  · simp

theorem submissionComplete_keepsWf (sub : Nat) : Leads KeepsWf s (execSubmissionComplete sub s) := .of_wf fun h => by
  unfold execSubmissionComplete
  split
  · simp
  · next x _ =>
    extract_lets isOver status
    split
    · simp
    · have hst := ownPlace_wf h x.fn x.part x.stAddr .write 16
      have hdn := ownPlace_wf h x.fn x.part x.doneAddr .both 8
      generalize s.ownPlace x.fn x.part x.stAddr .write 16 = st at hst ⊢
      generalize s.ownPlace x.fn x.part x.doneAddr .both 8 = dn at hdn ⊢
      split
      · exact leads_next.2 fun _ => hst.wait rfl
      · exact leads_next.2 fun _ => hdn.wait rfl
      · extract_lets s1 s2 s3
        have h1 : s1.mem.wf = true := by
          unfold s1
          split <;> simp [h, writeBytes_wf]
        have h2 : s2.mem.wf = true := by
          unfold s2
          split <;> simp [h1, writeBytes_wf]
        split <;> simp [s3, h2]

end

end Sys2Proof.Machine

/-! Placing and restoring clusters (16 R417 to R426). -/

namespace Sys2Proof.Machine

open Sys2Proof

theorem OptWf.findSome {α : Type} {f : α → Option State} (hf : ∀ a, OptWf (f a)) (l : List α) : OptWf (l.findSome? f) :=
  ⟨fun t ht => by
    obtain ⟨a, -, ha⟩ := List.exists_of_findSome?_eq_some ht
    exact (hf a).wf t ha⟩

section
variable {s : State} (h : s.mem.wf = true)
include h

theorem claimCore_wf (core : Nat) (plan : CorePlan) : OptWf (s.claimCore core plan) :=
  (saveOwners_wf h ..).map fun _ hx => by simpa using hx

theorem placeTeam_wf (l : Launch) (x : Cluster) (gk i : Nat) : OptWf (s.placeTeam l x gk i) := by
  unfold State.placeTeam
  dsimp only
  split
  · simp
  · exact (claimCore_wf h ..).map fun _ hx => by simpa using hx

theorem placeTeams_wf (l : Launch) (x : Cluster) (gk : Nat) (is : List Nat) : OptWf (s.placeTeams l x gk is) := by
  induction is generalizing s with
  | nil => simpa [State.placeTeams] using h
  | cons i is ih =>
    unfold State.placeTeams
    split
    · exact ih ((placeTeam_wf h ..).wf _ ‹_›)
    · simp

theorem placeCluster_wf (x : Cluster) : OptWf (s.placeCluster x) := by
  unfold State.placeCluster
  split
  · simp
  · refine (placeTeams_wf ?_ ..).map fun _ hy => by simpa using hy
    exact h

theorem takeBlocks_wf (gk : Nat) (c : Gang) : OptWf (s.takeBlocks gk c) := by
  refine OptWf.foldl (optWf_some.2 h) fun t q ht => ht.bind fun x hx => ?_
  dsimp only
  refine OptWf.map (OptWf.foldl (optWf_some.2 ?_) fun u b hu => hu.bind fun y hy => putBlock_wf hy ..) fun y hy => ?_
  · split
    · exact foldl_wf hx fun y b hy => freeRecord_wf hy ..
    · exact hx
  · split <;> simpa using hy

theorem writeWhole_wf (gk : Nat) : OptWf (s.writeWhole gk) := by
  unfold State.writeWhole
  split
  · simp
  · split
    · simpa using h
    · refine ((saveRest_wf h _).bind fun t ht => takeBlocks_wf ht ..).map fun x hx => ?_
      dsimp only
      rw [modGang_mem, modCore_mem]
      refine (congrArg Bytes.wf (foldl_mem fun y t => ?_)).trans hx
      split <;> simp

theorem restoreTeam_wf (r : LaunchRec) (c : Gang) (core i : Nat) : OptWf (s.restoreTeam r c core i) := by
  unfold State.restoreTeam
  split
  · exact (claimCore_wf h ..).map fun x hx => by simpa using hx
  · simp

theorem restoreTeams_wf (r : LaunchRec) (c : Gang) (core : Nat → Nat) (is : List Nat) : OptWf (s.restoreTeams r c core is) := by
  induction is generalizing s with
  | nil => simpa [State.restoreTeams] using h
  | cons i is ih =>
    unfold State.restoreTeams
    split
    · exact ih ((restoreTeam_wf h ..).wf _ ‹_›)
    · simp

theorem bringBlock_wf (gk : Nat) (c : Gang) (m : GangBlock × Nat) : (s.bringBlock gk c m).mem.wf = true := by
  unfold State.bringBlock
  extract_lets b rows held kept s1 s2
  have h1 : s1.mem.wf = true := by
    unfold s1
    split
    · exact freeRecord_wf h ..
    · exact h
  have h2 : s2.mem.wf = true := (putRecord_wf h1 ..).getD h1
  split
  · exact h
  · split <;> simp [h, h2]

theorem restoreGang_wf (gk : Nat) : OptWf (s.restoreGang gk) := by
  unfold State.restoreGang
  split
  · simp
  · split
    · refine OptWf.findSome (fun d => ?_) _
      split
      · simp
      · refine ⟨fun t ht => ?_⟩
        obtain ⟨at_, -, ht⟩ := Option.bind_eq_some_iff.1 ht
        refine ((restoreTeams_wf (by simpa using h) ..).map fun x hx => ?_).wf t ht
        simpa using freeBlocks_wf (freeGangRecords_wf (foldl_wf hx fun y m hy => bringBlock_wf hy ..) ..) _
    · simp

theorem giveUpGang_wf (gk : Nat) : (s.giveUpGang gk).mem.wf = true := by
  unfold State.giveUpGang
  split
  · exact h
  · simpa using freeBlocks_wf (freeGangRecords_wf h ..) _

theorem resumeGang_wf (gk : Nat) : OptWf (s.resumeGang gk) := by
  unfold State.resumeGang
  split
  · simp
  · split
    · simp
    · split
      · simpa using h
      · split
        · simp
        · next hw =>
          have ht := (writeWhole_wf h ..).wf _ hw
          split
          · exact optWf_some.2 (giveUpGang_wf ht _)
          · split
            · next hr => exact optWf_some.2 ((restoreGang_wf ht _).wf _ hr)
            · split
              · simp
              · exact optWf_some.2 ht

/-! Scheduling (14 R376, R377; 16 R416 to R427). -/

theorem dropLaunch_wf (id : Nat) (l : Launch) (status : Nat) : (s.dropLaunch id l status).mem.wf = true := by
  refine releaseContext_wf ?_ _
  exact h

theorem placeTicket_wf (id die : Nat) (fallback : Bool) : OptWf (s.placeTicket id die fallback) := by
  unfold State.placeTicket
  split
  · simp
  · split
    · dsimp only
      split
      · simp
      · refine ⟨fun t ht => ?_⟩
        obtain ⟨at_, -, ht⟩ := Option.bind_eq_some_iff.1 ht
        exact ((placeCluster_wf h _).map fun x hx => by simpa using hx).wf t ht
    · simp

theorem goOn_wf (gk : Nat) : OptWf (s.goOn gk) :=
  (resumeGang_wf h gk).bind fun x hx => by split <;> simp [hx]

theorem strideStep_wf {part fn die : Nat} {i : Item} {t : State} (ht : s.strideStep part fn die = some (i, t)) : t.mem.wf = true := by
  unfold State.strideStep at ht
  split at ht
  · next x hx =>
    cases ht
    obtain ⟨gk, -, hg⟩ := List.exists_of_findSome?_eq_some hx
    obtain ⟨u, hu, he⟩ := Option.map_eq_some_iff.1 hg
    cases he
    exact (goOn_wf h gk).wf _ hu
  · obtain ⟨id, -, hg⟩ := List.exists_of_findSome?_eq_some ht
    obtain ⟨u, hu, he⟩ := Option.map_eq_some_iff.1 hg
    cases he
    exact (placeTicket_wf h ..).wf _ hu

theorem fitting_wf {part : Nat} {p : Part} {x : Nat × Item × State} (hx : x ∈ s.fitting part p) : x.2.2.mem.wf = true := by
  obtain ⟨fn, -, hf⟩ := List.mem_filterMap.1 hx
  split at hf
  · cases hf
  · obtain ⟨⟨i, t⟩, ht, rfl⟩ := Option.map_eq_some_iff.1 hf
    exact strideStep_wf h ht

theorem decision_wf {part : Nat} {i : Item} {t : State} (ht : s.decision part = some (i, t)) : t.mem.wf = true := by
  unfold State.decision at ht
  split at ht
  · cases ht
  · next p _ =>
    split at ht
    · cases ht
    · obtain ⟨x, hx, he⟩ := Option.map_eq_some_iff.1 ht
      cases he
      refine (addStride_mem ..).symm ▸ List.foldlRecOn
        (motive := fun b : Option (Nat × Item × State) => ∀ y, b = some y → y.2.2.mem.wf = true) _ _ (by rintro _ ⟨⟩)
        (fun b hb y hy => ?_) x hx
      split
      · split
        · rintro _ ⟨⟩
          exact fitting_wf h hy
        · exact hb
      · rintro _ ⟨⟩
        exact fitting_wf h hy

end

end Sys2Proof.Machine

namespace Sys2Proof.Machine

open Sys2Proof

section
variable (s : State)

theorem residencyGate_keepsWf (part dq : Nat) : Leads KeepsWf s (execResidencyGate part dq s) := .of_wf fun h => by
  unfold execResidencyGate
  (repeat' split) <;> simp [h, dropLaunch_wf]

theorem schedulingDecision_keepsWf (part : Nat) : Leads KeepsWf s (execSchedulingDecision part s) := .of_wf fun h => by
  unfold execSchedulingDecision
  split
  · exact leads_next.2 fun _ => decision_wf h ‹_›
  · simp

theorem carouselPlace_keepsWf (launch die : Nat) : Leads KeepsWf s (execCarouselPlace launch die s) := .of_wf fun h => by
  unfold execCarouselPlace
  split
  · simp
  · split
    · split
      · next hd =>
        have ht := decision_wf h hd
        split <;> simp [ht]
      · simp
    · split
      · exact leads_next.2 fun _ => (placeTicket_wf h ..).getD h
      · simp

theorem fallbackPlacement_keepsWf (launch die : Nat) : Leads KeepsWf s (execFallbackPlacement launch die s) := .of_wf fun h => by
  unfold execFallbackPlacement
  split
  · simp
  · extract_lets one may
    clear_value one may
    split
    · split
      · next hp =>
        have ht := (placeTicket_wf h ..).wf _ hp
        split <;> simp [ht]
      · simp
    · simp

theorem resumeInPlace_keepsWf (gang : Nat) : Leads KeepsWf s (execResumeInPlace gang s) := .of_wf fun h => by
  unfold execResumeInPlace
  split
  · simp
  · split
    · split
      · next hd =>
        have ht := decision_wf h hd
        split <;> simp [ht]
      · simp
    · split
      · exact leads_next.2 fun _ => (resumeGang_wf h _).getD h
      · simp

end

end Sys2Proof.Machine

/-! Fabric commands at their source (20 R505 to R513). -/

namespace Sys2Proof.Machine

open Sys2Proof

section
variable {s : State} (h : s.mem.wf = true)
include h

theorem startFab_wf (q : Nat) (c : QCmd) (p : Progress) (x : FabCmd) (y : FabShape) (dests : List (Nat × Nat))
    {more : State → Nat → State} (hm : ∀ t id, t.mem.wf = true → (more t id).mem.wf = true) :
    (s.startFab q c p x y dests more).Wf := by
  refine judgeFields_wf h _ _ _ _ (CmdOut.wf_more.2 (hm _ _ ?_))
  simpa using h

theorem pumpFab_wf (q : Nat) (c : QCmd) (p : Progress) (dest : Nat × Nat)
    (cargo : State → Nat → List Byte → List Bool → Cargo) (read : Nat → Nat × Nat) : (s.pumpFab q c p dest cargo read).Wf := by
  unfold State.pumpFab
  split
  · simp [h]
  · split
    · simp [h]
    · split
      · simp [h]
      · split
        · simp [h]
        · dsimp only
          split
          · exact CmdOut.wf_wait.2 ((readBytes_wf h ..).wait ‹_›)
          · simp [h]
          · next hr =>
            have ht := (readBytes_wf h ..).got hr
            simp [ht]

omit h in
theorem runData_keepsWf (q : Nat) (x : FabCmd) (y : FabShape) (opx : Nat) : Leads KeepsWf s (.next (s.runData q x y opx)) := by
  unfold State.runData
  refine command_keepsWf fun h c p => ?_
  split
  · exact startFab_wf h _ _ _ _ _ _ fun _ _ ht => ht
  · exact pumpFab_wf h ..

omit h in
theorem runAsk_keepsWf (q : Nat) (x : FabCmd) (y : FabShape) (len : Nat → Nat) (opx : Nat) :
    Leads KeepsWf s (.next (s.runAsk q x y len opx)) := by
  unfold State.runAsk
  refine command_keepsWf fun h c p => ?_
  split
  · exact startFab_wf h _ _ _ _ _ _ fun _ _ ht => ht
  · exact pumpFab_wf h ..

theorem pumpColl_wf (q : Nat) (p : Progress) : (s.pumpColl q p).Wf := by
  unfold State.pumpColl
  dsimp only
  (repeat' split) <;> simp [h]

end

section
variable (s : State)

theorem colljoin_keepsWf (q : Nat) (x : FabCmd) : Leads KeepsWf s (execColljoin q x s) := by
  refine command_keepsWf fun h c p => ?_
  split
  · exact pumpColl_wf h ..
  · refine judgeFields_wf h _ _ _ _ ?_
    split
    · simp [h]
    · split
      · exact CmdOut.wf_wait.2 ((readBytes_wf h ..).wait ‹_›)
      · simp [h]
      · next hr =>
        have ht := (readBytes_wf h ..).got hr
        dsimp only
        split
        · simp [ht]
        · exact startFab_wf ht _ _ _ _ _ _ fun _ _ hu => by simpa using hu

theorem collleave_keepsWf (q : Nat) (x : FabCmd) : Leads KeepsWf s (execCollleave q x s) := by
  refine command_keepsWf fun h c p => ?_
  split
  · exact pumpColl_wf h ..
  · refine judgeFields_wf h _ _ _ _ ?_
    split
    · simp [h]
    · split
      · simp [h]
      · split
        · simp [h]
        · exact startFab_wf h _ _ _ _ _ _ fun _ _ ht => ht

theorem fabricCommandComplete_keepsWf (cmd : Nat) : Leads KeepsWf s (execFabricCommandComplete cmd s) := .of_wf fun h => by
  unfold execFabricCommandComplete
  dsimp only
  (repeat' split) <;> simp [h, decrement_wf]

end

/-! Packets at their destination and answers (20 R507 to R513). -/

structure Deliver.Wf (d : Deliver) : Prop where
  wait : ∀ {t}, d = .wait t → t.mem.wf = true
  more : ∀ {t got bad}, d = .more t got bad → t.mem.wf = true
  slot : ∀ {t tail}, d = .slot t tail → t.mem.wf = true
  done : ∀ {t ty data bad}, d = .done t ty data bad → t.mem.wf = true

structure Places.Wf (p : Places) : Prop where
  wait : ∀ {t}, p = .wait t → t.mem.wf = true

section
variable {t : State}

@[simp] theorem Deliver.wf_refuse {c : Nat} {va : Option Nat} : (Deliver.refuse c va).Wf := ⟨nofun, nofun, nofun, nofun⟩
@[simp] theorem Deliver.wf_wait : (Deliver.wait t).Wf ↔ t.mem.wf = true :=
  ⟨fun h => h.wait rfl, fun h => ⟨by rintro _ ⟨⟩; exact h, nofun, nofun, nofun⟩⟩
@[simp] theorem Deliver.wf_more {got : List Byte} {bad : List Nat} : (Deliver.more t got bad).Wf ↔ t.mem.wf = true :=
  ⟨fun h => h.more rfl, fun h => ⟨nofun, by rintro _ _ _ ⟨⟩; exact h, nofun, nofun⟩⟩
@[simp] theorem Deliver.wf_slot {tail : Nat} : (Deliver.slot t tail).Wf ↔ t.mem.wf = true :=
  ⟨fun h => h.slot rfl, fun h => ⟨nofun, nofun, by rintro _ _ ⟨⟩; exact h, nofun⟩⟩
@[simp] theorem Deliver.wf_done {ty : PacketType} {data : List Byte} {bad : List Nat} :
    (Deliver.done t ty data bad).Wf ↔ t.mem.wf = true :=
  ⟨fun h => h.done rfl, fun h => ⟨nofun, nofun, nofun, by rintro _ _ _ _ ⟨⟩; exact h⟩⟩

@[simp] theorem Places.wf_at {ks : List Nat} : (Places.at_ ks).Wf := ⟨nofun⟩
@[simp] theorem Places.wf_refuse {c va : Nat} : (Places.refuse c va).Wf := ⟨nofun⟩
@[simp] theorem Places.wf_wait : (Places.wait t).Wf ↔ t.mem.wf = true :=
  ⟨fun h => h.wait rfl, fun h => ⟨by rintro _ ⟨⟩; exact h⟩⟩

end

section
variable {s : State} (h : s.mem.wf = true)
include h

theorem places_wf (fn part : Nat) (need : Need) (as : List Nat) : (s.places fn part need as).Wf := by
  induction as with
  | nil => simp [State.places]
  | cons a as ih =>
    unfold State.places
    split
    · split
      · simp
      · exact ih
    all_goals simp [h]

theorem rbarKey_wf (p : Packet) (part : Nat) : (s.rbarKey p part).Wf := by
  unfold State.rbarKey
  split
  · exact places_wf h ..
  · simp

theorem storePiece_wf (die : Nat) (bs : List Byte) (bad : List Nat) (i key : Nat) :
    (s.storePiece die bs bad i key).mem.wf = true := by
  have hw : ((s.classify key die none true).writeBytes key ((bs.drop (16 * i)).take 16)).mem.wf = true :=
    writeBytes_wf (by simpa using h) ..
  unfold State.storePiece
  dsimp only
  split <;> simp [hw]

theorem nextPiece_wf (from_ : Nat) (die : Nat → Nat) (bs : List Byte) (bad : List Nat) (ks : List Nat) (i : Nat) {d : Deliver}
    (hd : d.Wf) : ((s.nextPiece from_ die bs bad ks i).getD d).Wf := by
  unfold State.nextPiece
  cases ks[i]? with
  | none => exact hd
  | some key =>
    simp only [Option.map_some, Option.getD_some]
    split <;> simp [h, storePiece_wf]

theorem rbarMade_wf (ks : List Nat) (p : Packet) (r : RxStream) : (s.rbarMade ks p r).mem.wf = true := by
  unfold State.rbarMade
  split
  · exact decrement_wf h ..
  · exact h

theorem lastAccess_wf (from_ : Nat) (ks : List Nat) (p : Packet) (r : RxStream) : (s.lastAccess from_ ks p r).Wf := by
  unfold State.lastAccess
  split <;> simp [h, rbarMade_wf]

theorem addElement_wf (efmt e : Nat) (bs : List Byte) (bad : List Nat) (i key : Nat) :
    (s.addElement efmt e bs bad i key).mem.wf = true := by
  unfold State.addElement
  dsimp only
  split <;> simp [h, writeBytes_wf]

theorem deliver_wf (port : Nat) (ty : PacketType) (p : Packet) {perform : State → Nat → RxStream → Deliver}
    (hp : ∀ part r, (perform s part r).Wf) : (s.deliver port ty p perform).mem.wf = true := by
  unfold State.deliver
  split
  · exact h
  · next part _ =>
    extract_lets r d
    have hd : d.Wf := by
      unfold d
      split
      · simp
      · split
        · simp
        · exact hp ..
    clear_value d
    split
    · exact h
    · split
      · exact hd.wait rfl
      · simpa using hd.more rfl
      · simpa using hd.slot rfl
      · simpa using h
      · simpa using hd.done rfl

theorem takeAnswer_wf (port : Nat) (ty : PacketType) (p : Packet) {store : State → FabPending → OpenPkt → Deliver}
    (hs : ∀ f u, (store s f u).Wf) : (s.takeAnswer port ty p store).mem.wf = true := by
  unfold State.takeAnswer
  split
  · exact h
  · split
    · simpa using h
    · split
      · exact (hs ..).wait ‹_›
      · exact (hs ..).slot ‹_›
      · next hm => simpa using (hs ..).more hm
      · simpa using h
      · next hd => simpa using (hs ..).done hd

theorem storeReturned_wf (p : Packet) (w : Nat) (f : FabPending) (u : OpenPkt) : (storeReturned p w s f u).Wf := by
  unfold storeReturned
  split
  · simp [h]
  · split
    · exact nextPiece_wf h _ _ _ _ _ _ (by simpa using h)
    · exact Deliver.wf_wait.2 ((places_wf h ..).wait ‹_›)
    · simp

end

section
variable (s : State) (port : Nat) (p : Packet)

theorem putData_keepsWf : Leads KeepsWf s (execPutData port p s) := by
  refine leads_next.2 fun h => deliver_wf h _ _ _ fun part r => ?_
  split
  · exact nextPiece_wf h _ _ _ _ _ _ (lastAccess_wf h ..)
  · exact Deliver.wf_wait.2 ((places_wf h ..).wait ‹_›)
  · simp
  · exact Deliver.wf_wait.2 ((rbarKey_wf h ..).wait ‹_›)
  · simp

theorem getRequest_keepsWf : Leads KeepsWf s (execGetRequest port p s) := by
  refine leads_next.2 fun h => deliver_wf h _ _ _ fun part r => ?_
  split
  · split
    · split <;> simp [h]
    · simp [h]
  · exact Deliver.wf_wait.2 ((places_wf h ..).wait ‹_›)
  · simp

theorem sendPacket_keepsWf : Leads KeepsWf s (execSendPacket port p s) := by
  refine leads_next.2 fun h => deliver_wf h _ _ _ fun part r => ?_
  dsimp only
  split
  · simp
  · split
    · exact Deliver.wf_wait.2 ((places_wf h ..).wait ‹_›)
    · simp
    · split
      · simp [h]
      · split
        · split
          · simp
          · split <;> simp [h]
        · split
          · split
            · simp [h, writeBytes_wf]
            · exact nextPiece_wf h _ _ _ _ _ _ (lastAccess_wf h ..)
          · exact Deliver.wf_wait.2 ((places_wf h ..).wait ‹_›)
          · simp
          · exact Deliver.wf_wait.2 ((rbarKey_wf h ..).wait ‹_›)
          · simp

theorem atomicPacket_keepsWf : Leads KeepsWf s (execAtomicPacket port p s) := by
  refine leads_next.2 fun h => deliver_wf h _ _ _ fun part r => ?_
  split
  · dsimp only
    split <;> simp [h, writeBytes_wf]
  · exact Deliver.wf_wait.2 ((places_wf h ..).wait ‹_›)
  · simp

theorem reduceputPacket_keepsWf : Leads KeepsWf s (execReduceputPacket port p s) := by
  refine leads_next.2 fun h => deliver_wf h _ _ _ fun part r => ?_
  dsimp only
  split
  · split
    · split <;> simp [h, addElement_wf]
    · exact lastAccess_wf h ..
  · exact Deliver.wf_wait.2 ((places_wf h ..).wait ‹_›)
  · simp
  · exact Deliver.wf_wait.2 ((rbarKey_wf h ..).wait ‹_›)
  · simp

theorem joinPacket_keepsWf : Leads KeepsWf s (execJoinPacket port p s) := by
  refine leads_next.2 fun h => deliver_wf h _ _ _ fun part r => ?_
  simp [h]

theorem leavePacket_keepsWf (lost : Bool) : Leads KeepsWf s (execLeavePacket port p lost s) := .of_wf fun h => by
  unfold execLeavePacket
  dsimp only
  split
  · simp
  · split
    · split
      · simp
      · split <;> simp
    · exact leads_next.2 fun _ => deliver_wf h _ _ _ fun part r => by simpa using h

theorem ack_keepsWf : Leads KeepsWf s (execAck port p s) :=
  leads_next.2 fun h => takeAnswer_wf h _ _ _ fun _ _ => by simpa using h

theorem nack_keepsWf : Leads KeepsWf s (execNack port p s) :=
  leads_next.2 fun h => takeAnswer_wf h _ _ _ fun _ _ => Deliver.wf_refuse

theorem getData_keepsWf : Leads KeepsWf s (execGetData port p s) :=
  leads_next.2 fun h => takeAnswer_wf h _ _ _ fun _ _ => storeReturned_wf h ..

theorem atomicResult_keepsWf : Leads KeepsWf s (execAtomicResult port p s) :=
  leads_next.2 fun h => takeAnswer_wf h _ _ _ fun _ _ => storeReturned_wf h ..

end

end Sys2Proof.Machine

/-! Events that write no byte: completions, queues, passes, links, registers and counters. -/

namespace Sys2Proof.Machine

open Sys2Proof

section
variable (s : State)

theorem arbitration_sameMem (slot : Nat) : Leads SameMem s (execArbitration slot s) := by
  unfold execArbitration
  dsimp only
  (repeat' split) <;> simp

theorem loadComplete_sameMem (op : Nat) (lanes : Word) : Leads SameMem s (execLoadComplete op lanes s) := by
  simp [execLoadComplete]

theorem queueFill_sameMem (op : Nat) (lanes : Word) : Leads SameMem s (execQueueFill op lanes s) := by
  simp [execQueueFill]

theorem storeComplete_sameMem (op : Nat) : Leads SameMem s (execStoreComplete op s) := by simp [execStoreComplete]

theorem atomicComplete_sameMem (op : Nat) (lanes : Word) : Leads SameMem s (execAtomicComplete op lanes s) := by
  simp [execAtomicComplete]

theorem qtokProduce_sameMem (op : Nat) (lanes : Word) : Leads SameMem s (execQtokProduce op lanes s) := by
  unfold execQtokProduce
  split <;> simp

theorem sfuComplete_sameMem (op : Nat) (lanes : Word) : Leads SameMem s (execSfuComplete op lanes s) := by
  simp [execSfuComplete]

theorem xrdComplete_sameMem (op : Nat) (lanes : Word) : Leads SameMem s (execXrdComplete op lanes s) := by
  simp [execXrdComplete]

theorem xscanComplete_sameMem (op : Nat) (lanes : Word) : Leads SameMem s (execXscanComplete op lanes s) := by
  simp [execXscanComplete]

theorem lfoldComplete_sameMem (op : Nat) (lanes : Word) : Leads SameMem s (execLfoldComplete op lanes s) := by
  simp [execLfoldComplete]

theorem pushComplete_sameMem (op : Nat) (lanes : Word) : Leads SameMem s (execPushComplete op lanes s) := by
  simp [execPushComplete]

theorem barwaitPerformed_sameMem (op : Nat) : Leads SameMem s (execBarwaitPerformed op s) := by
  unfold execBarwaitPerformed
  dsimp only
  (repeat' split) <;> simp

theorem sleepWake_sameMem (gid : Nat) : Leads SameMem s (execSleepWake gid s) := by simp [execSleepWake]

theorem transitResume_sameMem (gid : Nat) : Leads SameMem s (execTransitResume gid s) := by
  unfold execTransitResume
  (repeat' split) <;> simp

theorem queueDeadlock_sameMem (gid : Nat) : Leads SameMem s (execQueueDeadlock gid s) := by
  unfold execQueueDeadlock
  (repeat' split) <;> simp

theorem watchdog_sameMem (gid : Nat) : Leads SameMem s (execWatchdog gid s) := by
  unfold execWatchdog
  dsimp only
  (repeat' split) <;> simp

theorem passReady_sameMem (entry : Nat) : Leads SameMem s (execPassReady entry s) := by
  unfold execPassReady
  split <;> simp

theorem passPromotion_sameMem (entry : Nat) : Leads SameMem s (execPassPromotion entry s) := by simp [execPassPromotion]

theorem guardConsume_sameMem (q : Nat) : Leads SameMem s (execGuardConsume q s) := by
  unfold execGuardConsume
  (repeat' split) <;> simp

theorem escape_sameMem (port vc : Nat) : Leads SameMem s (execEscape port vc s) := by
  unfold execEscape
  (repeat' split) <;> simp

theorem linkRetry_sameMem (port seq : Nat) : Leads SameMem s (execLinkRetry port seq s) := by simp [execLinkRetry]

theorem linkDown_sameMem (port : Nat) : Leads SameMem s (execLinkDown port s) := by
  unfold execLinkDown
  (repeat' split) <;> simp

theorem linkRetrain_sameMem (port : Nat) : Leads SameMem s (execLinkRetrain port s) := by simp [execLinkRetrain]

theorem memberLost_sameMem (node vf : Nat) : Leads SameMem s (execMemberLost node vf s) := by simp [execMemberLost]

theorem atsCompletion_sameMem (fn page : Nat) (answer : AtsAnswer) :
    Leads SameMem s (execAtsCompletion fn page answer s) := by
  unfold execAtsCompletion
  (repeat' split) <;> simp

theorem priResponse_sameMem (fn page : Nat) (answer : PriAnswer) : Leads SameMem s (execPriResponse fn page answer s) := by
  unfold execPriResponse
  (repeat' split) <;> simp

theorem sqtail_sameMem (fn q tail : Nat) : Leads SameMem s (execSqtail fn q tail s) := by simp [execSqtail]

theorem quantumEnd_sameMem (gang : Nat) : Leads SameMem s (execQuantumEnd gang s) := by
  unfold execQuantumEnd
  (repeat' split) <;> simp

theorem tick_sameMem (part : Nat) : Leads SameMem s (execTick part s) := by
  unfold execTick
  (repeat' split) <;> simp

theorem relockEnd_sameMem (die : Nat) : Leads SameMem s (execRelockEnd die s) := by simp [execRelockEnd]

theorem tlbInvalidate_sameMem (fn : Nat) : Leads SameMem s (execTlbInvalidate fn s) := by simp [execTlbInvalidate]

theorem invalidationDone_sameMem (fn : Nat) : Leads SameMem s (execInvalidationDone fn s) := by
  simp [execInvalidationDone]

theorem resume_sameMem (fn seq : Nat) : Leads SameMem s (execResume fn seq s) := by
  unfold execResume
  split <;> simp

theorem kill_sameMem (fn seq : Nat) : Leads SameMem s (execKill fn seq s) := by
  unfold execKill
  split <;> simp

theorem powerGate_sameMem (die : Nat) : Leads SameMem s (execPowerGate die s) := by
  unfold execPowerGate
  split <;> simp

theorem firmwareViolation_sameMem (management : Bool) (clamp addr : Nat) :
    Leads SameMem s (execFirmwareViolation management clamp addr s) := by
  simp [execFirmwareViolation]

theorem linkTrained_sameMem (port : Nat) : Leads SameMem s (execLinkTrained port s) := by simp [execLinkTrained]

theorem forwardedPacket_sameMem (port vc : Nat) (t : PacketType) (p : Packet) (room : Bool) :
    Leads SameMem s (execForwardedPacket port vc t p room s) := by
  unfold execForwardedPacket
  (repeat' split) <;> simp

theorem returnStackRefill_sameMem (slot : Nat) : Leads SameMem s (execReturnStackRefill slot s) := by
  unfold execReturnStackRefill
  (repeat' split) <;> simp [refillGroup_mem]

theorem passComplete_sameMem (pass : Nat) : Leads SameMem s (execPassComplete pass s) := by
  unfold execPassComplete
  (repeat' split) <;> simp

theorem earlyClean_sameMem (line : Nat) : Leads SameMem s (execEarlyClean line s) := by simp [execEarlyClean]

theorem directoryEccError_sameMem (line : Nat) (classifier : Bool) :
    Leads SameMem s (execDirectoryEccError line classifier s) := by
  simp [execDirectoryEccError]

theorem atsInvalidate_sameMem (fn page pages : Nat) : Leads SameMem s (execAtsInvalidate fn page pages s) := by
  simp [execAtsInvalidate]

theorem snoop_sameMem (line : Nat) (invalidate : Bool) : Leads SameMem s (execSnoop line invalidate s) := by
  simp [execSnoop]

theorem powerSample_sameMem (watts : Nat) : Leads SameMem s (execPowerSample watts s) := by
  unfold execPowerSample
  dsimp only
  (repeat' split) <;> simp

theorem llcTagError_sameMem (channel way : Nat) : Leads SameMem s (execLlcTagError channel way s) := by
  simp [execLlcTagError]

theorem uncontainedError_sameMem : Leads SameMem s (execUncontainedError s) := by simp [execUncontainedError]

end

end Sys2Proof.Machine

/-! The host, function-level resets, firmware's commands and the registers write memory in its canonical form. -/

namespace Sys2Proof.Machine

open Sys2Proof

section
variable {s : State} (h : s.mem.wf = true)
include h

theorem hostOwn_wf (access : HostAccess) (p : Nat × Nat × Nat) : (s.hostOwn access p).mem.wf = true := by
  cases access with
  | read n => simpa [State.hostOwn] using h
  | write bs => exact Bytes.wf_writeN (by simpa using h) ..

theorem hostPiece_wf (access : HostAccess) (p : Nat × Nat × Nat) : (s.hostPiece access p).mem.wf = true := by
  cases access with
  | read n => simpa [State.hostPiece] using h
  | write bs => exact writeBytes_wf (by simpa using h) ..

theorem dropContexts_wf (fn : Nat) : (s.dropContexts fn).mem.wf = true := by
  unfold State.dropContexts
  extract_lets t ctxs u
  have ht : t.mem.wf = true := foldl_wf h fun x e hx => Bytes.wf_clear hx ..
  clear_value t
  exact foldl_wf ht fun x c hx => releaseContext_wf hx c

theorem flr_wf (fn : Nat) (keepBinding : Bool) : (s.flr fn keepBinding).mem.wf = true := by
  have hc : (((s.dropSubs fn).dropGroups fn).dropContexts fn).mem.wf = true := dropContexts_wf (by simpa using h) fn
  simpa [State.flr] using hc

theorem dropLost_wf (gs : List Nat) : (s.dropLost gs).mem.wf = true := by
  unfold State.dropLost
  dsimp only
  rw [returns_mem, foldl_mem fun x l => dropUnfit_mem x l]
  exact foldl_wf h fun x g hx => giveUpGang_wf hx g

theorem writeAll_wf (gs : List Nat) : OptWf (s.writeAll gs) := by
  induction gs generalizing s with
  | nil => exact optWf_some.2 h
  | cons g gs ih =>
    unfold State.writeAll
    split
    · next ht => exact ih ((writeWhole_wf h g).wf _ ht)
    · exact optWf_none

/-- A change firmware makes once the clusters it touches are written out (16 R429 to R432). -/
theorem withHalted_wf (gs : List Nat) (force : Bool) {change : State → State} (hc : ∀ x, KeepsWf x (change x)) :
    (s.withHalted gs force change).mem.wf = true := by
  unfold State.withHalted
  split
  · exact dropLost_wf (hc s h) gs
  split
  · simpa using h
  split
  · split
    · simpa using h
    · next ht => exact dropLost_wf (hc _ ((writeAll_wf h gs).wf _ ht)) gs
  · exact foldl_wf h fun x g hx => by simpa using hx

theorem command_wf (codes : Nat → Bool) {go : Nat → State} (hg : ∀ c, (go c).mem.wf = true) :
    (s.command codes go).mem.wf = true := by
  unfold State.command
  split
  · split
    · exact hg _
    · exact h
  · exact h

theorem scrub_wf (pid : Nat) (p : Part) : (s.scrub pid p).mem.wf = true := Bytes.wf_filter h _

end

section
variable (s : State)

theorem hostRequest_keepsWf (addr : Nat) (access : HostAccess) : Leads KeepsWf s (execHostRequest addr access s) :=
  .of_wf fun h => by
    unfold execHostRequest
    dsimp only
    split
    · simp
    split
    · refine leads_next.2 fun _ => ?_
      split
      · exact h
      · exact (wake_mem _).symm ▸ foldl_wf h fun x p hx => hostOwn_wf hx access p
    split
    · exact leads_next.2 id
    · refine leads_next.2 fun _ => ?_
      rw [wake_mem, answerHost_mem]
      exact foldl_wf h fun x p hx => hostPiece_wf hx access p

theorem partCreate_keepsWf : Leads KeepsWf s (execPartCreate s) :=
  leads_next.2 fun h => command_wf h _ fun c => by
    dsimp only
    (repeat' split) <;> simp [h]

theorem partDestroy_keepsWf : Leads KeepsWf s (execPartDestroy s) :=
  leads_next.2 fun h => command_wf h _ fun c => by
    dsimp only
    split
    · simp [h]
    · refine withHalted_wf h _ _ fun x hx => scrub_wf (s := State.relearnPart _ _) ?_ _ _
      rw [relearnPart_mem, dropUnplaced_mem, foldl_mem fun y fn => dropFabric_mem y fn]
      exact hx

theorem partResize_keepsWf : Leads KeepsWf s (execPartResize s) :=
  leads_next.2 fun h => command_wf h _ fun c => by
    dsimp only
    split
    · simp [h]
    split
    · simp [h]
    · exact withHalted_wf h _ _ fun x hx => by simp [hx]

theorem partMode_keepsWf : Leads KeepsWf s (execPartMode s) :=
  leads_next.2 fun h => command_wf h _ fun c => by
    dsimp only
    split
    · simp [h]
    split
    · simp [h]
    · exact withHalted_wf h _ _ fun x hx => by simp [hx]

theorem coreRemove_keepsWf : Leads KeepsWf s (execCoreRemove s) :=
  leads_next.2 fun h => command_wf h _ fun c => by
    dsimp only
    split
    · simp [h]
    · exact withHalted_wf h _ _ fun x hx => by simp [hx]

theorem vfBind_keepsWf : Leads KeepsWf s (execVfBind s) :=
  leads_next.2 fun h => command_wf h _ fun c => by
    dsimp only
    (repeat' split) <;> simp [h]

theorem vfFlr_keepsWf (fn : Nat) : Leads KeepsWf s (execVfFlr fn s) :=
  leads_next.2 fun h => by
    split
    · exact flr_wf h fn false
    · exact h

theorem pfFlr_keepsWf : Leads KeepsWf s (execPfFlr s) :=
  leads_next.2 fun h => (resetPfSpace_mem _).symm ▸ foldl_wf h fun _ fn hx => flr_wf hx fn true

theorem coldReset_keepsWf : Leads KeepsWf s (execColdReset s) := leads_next.2 fun h => Bytes.wf_filter h _

theorem afterOutcome_mem {x : Host.Outcome State Fault Refusal} (hx : Leads SameMem s x) : (after x s).mem = s.mem := by
  cases x with
  | next t => exact leads_next.1 hx
  | _ => rfl

theorem writeSq_mem (fn q off v : Nat) : (s.writeSq fn q off v).mem = s.mem := by
  unfold State.writeSq
  dsimp only
  (repeat' split) <;> simp [afterOutcome_mem, sqtail_sameMem]

theorem writeFnReg_mem (fn off v : Nat) : (s.writeFnReg fn off v).mem = s.mem := by
  unfold State.writeFnReg
  dsimp only
  (repeat' split) <;> simp [afterOutcome_mem, resume_sameMem, kill_sameMem]

theorem writeFpcfg_mem (port v : Nat) : (s.writeFpcfg port v).mem = s.mem := by
  unfold State.writeFpcfg
  dsimp only
  split <;> simp [afterOutcome_mem, linkRetrain_sameMem]

theorem writePfReg_mem (off v : Nat) : (s.writePfReg off v).mem = s.mem := by
  unfold State.writePfReg
  dsimp only
  simp [writeSq_mem, writeFpcfg_mem]

theorem registerWrite_sameMem (fn off value : Nat) : Leads SameMem s (execRegisterWrite fn off value s) := by
  simp [execRegisterWrite, writeSq_mem, writeFnReg_mem, writePfReg_mem]

end

end Sys2Proof.Machine

/-! Whatever is executed keeps memory in its canonical form. -/

namespace Sys2Proof.Machine

open Sys2Proof

/-- What may store: memory instructions, calls, barrier objects and requests of the matrix unit, commands and events. -/
theorem storing_keepsWf {i : Instr} (hi : storesNothing i ≠ true) (s : State) : Leads KeepsWf s (exec i s) := by
  cases i
  case ld | ldMx | st | stMx | lds | ldsMx | sts | stsMx | ldc | ldcMx | stc | stcMx | atom | fatom | pref | prefMx | ldwp | ldwpMx =>
    exact runMem_keepsWf ..
  case call => exact call_keepsWf ..
  case callr => exact callr_keepsWf ..
  case barinit | bararr => exact issueBar_keepsWf ..
  case mmaBf16 | mmaF16 | mmaE4m3 | mmaE5m2 | mmaE2m1 | mmaVq2 | mmaI8 =>
    exact Leads.keepsWf (leads_next.2 (issueMma_sameMem ..))
  case mld => exact (mld_sameMem ..).keepsWf
  case mst => exact (mst_sameMem ..).keepsWf
  case mdrain => exact (mdrain_sameMem ..).keepsWf
  case mzero => exact (mzero_sameMem ..).keepsWf
  case mtree => exact (mtree_sameMem ..).keepsWf
  case cbld | actld => exact Leads.keepsWf (leads_next.2 (issueTable_sameMem ..))
  case tile | tileadd => exact runTile_keepsWf ..
  case put | send | reduceput => exact runData_keepsWf ..
  case get | atomic => exact runAsk_keepsWf ..
  case arbitration => exact (arbitration_sameMem ..).keepsWf
  case loadComplete => exact (loadComplete_sameMem ..).keepsWf
  case queueFill => exact (queueFill_sameMem ..).keepsWf
  case storeComplete => exact (storeComplete_sameMem ..).keepsWf
  case atomicComplete => exact (atomicComplete_sameMem ..).keepsWf
  case qtokProduce => exact (qtokProduce_sameMem ..).keepsWf
  case returnStackRefill => exact (returnStackRefill_sameMem ..).keepsWf
  case sfuComplete => exact (sfuComplete_sameMem ..).keepsWf
  case xrdComplete => exact (xrdComplete_sameMem ..).keepsWf
  case xscanComplete => exact (xscanComplete_sameMem ..).keepsWf
  case lfoldComplete => exact (lfoldComplete_sameMem ..).keepsWf
  case pushComplete => exact (pushComplete_sameMem ..).keepsWf
  case barwaitPerformed => exact (barwaitPerformed_sameMem ..).keepsWf
  case sleepWake => exact (sleepWake_sameMem ..).keepsWf
  case transitResume => exact (transitResume_sameMem ..).keepsWf
  case queueDeadlock => exact (queueDeadlock_sameMem ..).keepsWf
  case watchdog => exact (watchdog_sameMem ..).keepsWf
  case passReady => exact (passReady_sameMem ..).keepsWf
  case passGrant => exact passGrant_keepsWf ..
  case passPromotion => exact (passPromotion_sameMem ..).keepsWf
  case passComplete => exact (passComplete_sameMem ..).keepsWf
  case mzeroEntry => exact mzeroEntry_keepsWf ..
  case mtreeEntry => exact mtreeEntry_keepsWf ..
  case mldEntry => exact mldEntry_keepsWf ..
  case mstEntry => exact mstEntry_keepsWf ..
  case mdrainEntry => exact mdrainEntry_keepsWf ..
  case tableLoadComplete => exact tableLoadComplete_keepsWf ..
  case blockWaitRelease => exact blockWaitRelease_keepsWf ..
  case guardConsume => exact (guardConsume_sameMem ..).keepsWf
  case copy => exact copy_keepsWf ..
  case fill => exact fill_keepsWf ..
  case gather => exact gather_keepsWf ..
  case kvcommit => exact kvcommit_keepsWf ..
  case signal => exact signal_keepsWf ..
  case vread => exact vread_keepsWf ..
  case move => exact move_keepsWf ..
  case wssnap => exact wssnap_keepsWf ..
  case colljoin => exact colljoin_keepsWf ..
  case collleave => exact collleave_keepsWf ..
  case putData => exact putData_keepsWf ..
  case getRequest => exact getRequest_keepsWf ..
  case sendPacket => exact sendPacket_keepsWf ..
  case atomicPacket => exact atomicPacket_keepsWf ..
  case reduceputPacket => exact reduceputPacket_keepsWf ..
  case joinPacket => exact joinPacket_keepsWf ..
  case leavePacket => exact leavePacket_keepsWf ..
  case ack => exact ack_keepsWf ..
  case nack => exact nack_keepsWf ..
  case getData => exact getData_keepsWf ..
  case atomicResult => exact atomicResult_keepsWf ..
  case fabricCommandComplete => exact fabricCommandComplete_keepsWf ..
  case escape => exact (escape_sameMem ..).keepsWf
  case linkRetry => exact (linkRetry_sameMem ..).keepsWf
  case linkDown => exact (linkDown_sameMem ..).keepsWf
  case linkRetrain => exact (linkRetrain_sameMem ..).keepsWf
  case memberLost => exact (memberLost_sameMem ..).keepsWf
  case orderedAccess => exact orderedAccess_keepsWf ..
  case drain => exact drain_keepsWf ..
  case readonlyInvalidation => exact readonlyInvalidation_keepsWf ..
  case earlyClean => exact (earlyClean_sameMem ..).keepsWf
  case directoryEccError => exact (directoryEccError_sameMem ..).keepsWf
  case walkComplete => exact walkComplete_keepsWf ..
  case atsCompletion => exact (atsCompletion_sameMem ..).keepsWf
  case priResponse => exact (priResponse_sameMem ..).keepsWf
  case atsInvalidate => exact (atsInvalidate_sameMem ..).keepsWf
  case hostRequest => exact hostRequest_keepsWf ..
  case snoop => exact (snoop_sameMem ..).keepsWf
  case sqtail => exact (sqtail_sameMem ..).keepsWf
  case launch => exact launch_keepsWf ..
  case signalEntry => exact signalEntry_keepsWf ..
  case residencyGate => exact residencyGate_keepsWf ..
  case carouselPlace => exact carouselPlace_keepsWf ..
  case fallbackPlacement => exact fallbackPlacement_keepsWf ..
  case launchComplete => exact launchComplete_keepsWf ..
  case submissionComplete => exact submissionComplete_keepsWf ..
  case schedulingDecision => exact schedulingDecision_keepsWf ..
  case quantumEnd => exact (quantumEnd_sameMem ..).keepsWf
  case tick => exact (tick_sameMem ..).keepsWf
  case resumeInPlace => exact resumeInPlace_keepsWf ..
  case wsSweep => exact wsSweep_keepsWf ..
  case powerSample => exact (powerSample_sameMem ..).keepsWf
  case relockEnd => exact (relockEnd_sameMem ..).keepsWf
  case partCreate => exact partCreate_keepsWf ..
  case partDestroy => exact partDestroy_keepsWf ..
  case partResize => exact partResize_keepsWf ..
  case partMode => exact partMode_keepsWf ..
  case coreRemove => exact coreRemove_keepsWf ..
  case vfBind => exact vfBind_keepsWf ..
  case tlbInvalidate => exact (tlbInvalidate_sameMem ..).keepsWf
  case invalidationDone => exact (invalidationDone_sameMem ..).keepsWf
  case resume => exact (resume_sameMem ..).keepsWf
  case kill => exact (kill_sameMem ..).keepsWf
  case faultRecordAppend => exact faultRecordAppend_keepsWf ..
  case registerWrite => exact (registerWrite_sameMem ..).keepsWf
  case llcTagError => exact (llcTagError_sameMem ..).keepsWf
  case uncontainedError => exact (uncontainedError_sameMem ..).keepsWf
  case coldReset => exact coldReset_keepsWf ..
  case pfFlr => exact pfFlr_keepsWf ..
  case vfFlr => exact vfFlr_keepsWf ..
  case powerGate => exact (powerGate_sameMem ..).keepsWf
  case firmwareViolation => exact (firmwareViolation_sameMem ..).keepsWf
  case linkTrained => exact (linkTrained_sameMem ..).keepsWf
  case forwardedPacket => exact (forwardedPacket_sameMem ..).keepsWf
  all_goals exact absurd rfl hi

theorem exec_keepsWf (i : Instr) (s : State) : Leads KeepsWf s (exec i s) := by
  by_cases hi : storesNothing i = true
  · exact (exec_sameMem hi s).keepsWf
  · exact storing_keepsWf hi s

/-! Slots and queues (03 R72 to R76, R98; 14 R353, R365). -/

/-- What a state of canonical memory leads to keeps the canonical form from any other. -/
theorem Leads.from_wf {s t : State} {o : Host.Outcome State Fault Refusal} (ht : t.mem.wf = true) (ho : Leads KeepsWf t o) :
    Leads KeepsWf s o := ⟨fun u hu _ => ho.next u hu ht⟩

section
variable (s : State)

theorem thaw_keepsWf {t : State} (slot : Nat) (r : Run) {o : Host.Outcome State Fault Refusal} (ho : Leads KeepsWf t o) :
    Leads KeepsWf t (s.thaw slot r o) := by
  cases o with
  | next u =>
    unfold State.thaw
    dsimp only
    split
    · exact leads_next.2 fun ht => by simpa using leads_next.1 ho ht
    · exact ho
  | fault e => exact leads_fault
  | refused e => exact leads_refused

theorem issueNext_keepsWf (slot : Nat) (r : Run) : Leads KeepsWf s (s.issueNext slot r) := .of_wf fun h => by
  have ht : (s.arrive slot r).mem.wf = true := by simpa using h
  unfold State.issueNext
  dsimp only
  split
  · simp
  split
  · split
    · exact leads_next.2 fun _ => ht
    · exact .from_wf ht (thaw_keepsWf s slot r (exec_keepsWf _ _))
  · simp

theorem stepSlot_keepsWf (slot : Nat) : Leads KeepsWf s (s.stepSlot slot) := by
  unfold State.stepSlot
  split
  · simp
  split
  · simp
  split
  · simp
  · exact issueNext_keepsWf s slot _

theorem failBad_keepsWf (q : Nat) (bs : List Byte) : Leads KeepsWf s (.next (s.failBad q bs)) :=
  command_keepsWf fun h _ _ => by simpa using h

theorem stepQueue_keepsWf (q : Nat) : Leads KeepsWf s (s.stepQueue q) := by
  unfold State.stepQueue
  split
  · simp
  split
  · simp
  split
  · exact exec_keepsWf ..
  split
  · exact exec_keepsWf ..
  · exact failBad_keepsWf ..

end

end Sys2Proof.Machine

/-! The scheduler's trials (log 2). -/

namespace Sys2Proof.Machine

open Sys2Proof

/-- A trial keeps memory in its canonical form. -/
structure Trial.Keeps (t : Trial) : Prop where
  act : ∀ s, Leads KeepsWf s (t.act s)

/-- Every trial of a list keeps memory in its canonical form. -/
def TrialsKeep (ts : List Trial) : Prop := ∀ t ∈ ts, t.Keeps

@[simp] theorem trial_keeps {ds : List Nat} {act : State → Host.Outcome State Fault Refusal} :
    Trial.Keeps ⟨ds, act⟩ ↔ ∀ s, Leads KeepsWf s (act s) := ⟨fun h => h.act, fun h => ⟨h⟩⟩

@[simp] theorem anyDie_keeps {act : State → Host.Outcome State Fault Refusal} :
    (anyDie act).Keeps ↔ ∀ s, Leads KeepsWf s (act s) := trial_keeps

section
variable {α : Type} {t : Trial} {ts us : List Trial} {l : List α}

@[simp] theorem trialsKeep_nil : TrialsKeep [] := List.forall_mem_nil _

@[simp] theorem trialsKeep_cons : TrialsKeep (t :: ts) ↔ t.Keeps ∧ TrialsKeep ts := List.forall_mem_cons

@[simp] theorem trialsKeep_append : TrialsKeep (ts ++ us) ↔ TrialsKeep ts ∧ TrialsKeep us := List.forall_mem_append

theorem trialsKeep_map {f : α → Trial} (h : ∀ a, (f a).Keeps) : TrialsKeep (l.map f) := List.forall_mem_map.2 fun a _ => h a

theorem trialsKeep_flatMap {f : α → List Trial} (h : ∀ a, TrialsKeep (f a)) : TrialsKeep (l.flatMap f) := fun t ht =>
  have ⟨a, _, hta⟩ := List.mem_flatMap.1 ht
  h a t hta

end

section
variable (s : State)

theorem deliverAt_keepsWf (port : Nat) (ty : PacketType) (p : Packet) : Leads KeepsWf s (deliverAt port ty p s) := by
  cases ty with
  | put => exact exec_keepsWf (.putData port p) s
  | getRequest => exact exec_keepsWf (.getRequest port p) s
  | send => exact exec_keepsWf (.sendPacket port p) s
  | atomic => exact exec_keepsWf (.atomicPacket port p) s
  | reducePut => exact exec_keepsWf (.reduceputPacket port p) s
  | join => exact exec_keepsWf (.joinPacket port p) s
  | leave => exact exec_keepsWf (.leavePacket port p _) s
  | ack => exact exec_keepsWf (.ack port p) s
  | nack => exact exec_keepsWf (.nack port p) s
  | getData => exact exec_keepsWf (.getData port p) s
  | atomicResult => exact exec_keepsWf (.atomicResult port p) s

theorem opMoves_keep : TrialsKeep s.opMoves := by
  refine trialsKeep_flatMap fun e => trialsKeep_append.2 ⟨?_, trialsKeep_flatMap fun a => ?_⟩
  · simp [Leads.keepsWf, orderedAccess_keepsWf, loadComplete_sameMem, queueFill_sameMem, storeComplete_sameMem,
      atomicComplete_sameMem, qtokProduce_sameMem, sfuComplete_sameMem, xrdComplete_sameMem, xscanComplete_sameMem,
      lfoldComplete_sameMem, pushComplete_sameMem, barwaitPerformed_sameMem]
  · split <;> simp [drain_keepsWf, readonlyInvalidation_keepsWf]

theorem quadMoves_keep : TrialsKeep s.quadMoves := by
  refine trialsKeep_append.2 ⟨trialsKeep_flatMap fun e => ?_, trialsKeep_map fun e => ?_⟩
  · simp [Leads.keepsWf, blockWaitRelease_keepsWf, passReady_sameMem, passGrant_keepsWf, mzeroEntry_keepsWf, mtreeEntry_keepsWf,
      mldEntry_keepsWf, mstEntry_keepsWf, mdrainEntry_keepsWf, tableLoadComplete_keepsWf]
  · simp [Leads.keepsWf, passComplete_sameMem]

theorem groupMoves_keep : TrialsKeep s.groupMoves := by
  refine trialsKeep_append.2 ⟨trialsKeep_flatMap fun e => ?_, trialsKeep_map fun e => ?_⟩
  · split
    · refine trialsKeep_append.2 ⟨trialsKeep_map fun i => ?_, ?_⟩
      · simp [Leads.keepsWf, arbitration_sameMem]
      · simp [Leads.keepsWf, sleepWake_sameMem, transitResume_sameMem, queueDeadlock_sameMem, watchdog_sameMem]
    · simp
  · simp [Leads.keepsWf, returnStackRefill_sameMem]

theorem fabricMoves_keep : TrialsKeep s.fabricMoves := by
  refine trialsKeep_append.2 ⟨trialsKeep_flatMap fun e => ?_, trialsKeep_flatMap fun m => trialsKeep_map fun a => ?_⟩
  · refine trialsKeep_append.2 ⟨trialsKeep_flatMap fun x => ?_, ?_⟩
    · split <;> simp [Leads.keepsWf, forwardedPacket_sameMem, escape_sameMem, deliverAt_keepsWf]
    · simp [Leads.keepsWf, linkDown_sameMem]
  · simp [Leads.keepsWf, memberLost_sameMem]

theorem systemMoves_keep : TrialsKeep s.systemMoves := by
  unfold State.systemMoves
  simp only [trialsKeep_append, trialsKeep_cons]
  refine ⟨⟨⟨⟨⟨trialsKeep_map fun e => ?_, trialsKeep_flatMap fun e => ?_⟩, trialsKeep_flatMap fun d => ?_⟩,
    trialsKeep_map fun e => ?_⟩, ?_, trialsKeep_map fun e => ?_⟩, fabricMoves_keep s⟩
  · simp [walkComplete_keepsWf]
  · simp +contextual [Leads.keepsWf, faultRecordAppend_keepsWf, invalidationDone_sameMem, wsSweep_keepsWf, recorderMove_wf]
  · simp [Leads.keepsWf, relockEnd_sameMem, powerGate_sameMem]
  · simp [fabricCommandComplete_keepsWf]
  · simp
  · simp [deliverAt_keepsWf]

theorem launchMoves_keep : TrialsKeep s.launchMoves := by
  unfold State.launchMoves
  simp only [trialsKeep_append]
  refine ⟨⟨⟨⟨⟨trialsKeep_map fun e => ?_, trialsKeep_flatMap fun e => trialsKeep_flatMap fun q => ?_⟩,
    trialsKeep_flatMap fun e => ?_⟩, trialsKeep_flatMap fun e => ?_⟩, trialsKeep_flatMap fun e => ?_⟩, ?_⟩
  · simp [submissionComplete_keepsWf]
  · simp [launch_keepsWf, signalEntry_keepsWf]
  · refine trialsKeep_cons.2 ⟨?_, trialsKeep_flatMap fun d => ?_⟩
    · simp [launchComplete_keepsWf]
    · simp [carouselPlace_keepsWf, fallbackPlacement_keepsWf]
  · simp [Leads.keepsWf, resumeInPlace_keepsWf, quantumEnd_sameMem]
  · refine trialsKeep_append.2 ⟨trialsKeep_map fun n => ?_, ?_⟩
    · simp [residencyGate_keepsWf]
    · simp [Leads.keepsWf, schedulingDecision_keepsWf, tick_sameMem]
  · simp [partCreate_keepsWf, partDestroy_keepsWf, partResize_keepsWf, partMode_keepsWf, coreRemove_keepsWf, vfBind_keepsWf]

theorem queueTrials_keep : TrialsKeep s.queueTrials := trialsKeep_map fun e => anyDie_keeps.2 fun t => stepQueue_keepsWf t e.1

/-- Whatever the scheduler may try keeps memory in its canonical form. -/
theorem trials_keep : TrialsKeep (s.opMoves ++ s.quadMoves ++ s.systemMoves ++ s.groupMoves ++ s.launchMoves ++ s.queueTrials) := by
  simp [opMoves_keep, quadMoves_keep, systemMoves_keep, groupMoves_keep, launchMoves_keep, queueTrials_keep]

theorem Trial.result_keepsWf {t : Trial} (ht : t.Keeps) {o : Host.Outcome State Fault Refusal} (ho : t.result s = some o) :
    Leads KeepsWf s o := by
  have ha := ht.act s
  unfold Trial.result at ho
  split at ho
  · exact absurd ho nofun
  split at ho
  · next hx =>
    split at ho
    · exact absurd ho nofun
    · exact Option.some.inj ho ▸ hx ▸ ha
  · exact Option.some.inj ho ▸ ha

/-! One move, and one step (log 2). -/

theorem autoStep_keepsWf : Leads KeepsWf s s.autoStep := by
  unfold State.autoStep
  split
  · next ho =>
    obtain ⟨e, -, he⟩ := List.exists_of_findSome?_eq_some ho
    have hs := stepSlot_keepsWf s e.1
    split at he
    · split at he
      · next hx =>
        split at he
        · exact absurd he nofun
        · exact Option.some.inj he ▸ hx ▸ hs
      · exact Option.some.inj he ▸ hs
    · exact absurd he nofun
  split
  · next ho =>
    obtain ⟨t, ht, hr⟩ := List.exists_of_findSome?_eq_some ho
    exact t.result_keepsWf s (trials_keep s t ht) hr
  · simp

theorem stateMove_keepsWf (m : Move) : Leads KeepsWf s (s.move m) := by
  cases m with
  | slot n => exact stepSlot_keepsWf s n
  | queue q => exact stepQueue_keepsWf s q
  | event e =>
    unfold State.move
    dsimp only
    split
    · simp
    split
    · simp
    · exact exec_keepsWf e s
  | recorder fn => exact leads_next.2 fun h => recorderMove_wf h fn
  | _ => simp [State.move]

theorem unlessHeld_keepsWf {t : State} {o : Host.Outcome State Fault Refusal} (hs : s.mem.wf = true) (ho : Leads KeepsWf t o) :
    Leads KeepsWf t (s.unlessHeld o) := by
  cases o with
  | next u =>
    unfold State.unlessHeld
    dsimp only
    refine leads_next.2 fun ht => ?_
    split
    · exact hs
    · exact leads_next.1 ho ht
  | fault e => exact leads_fault
  | refused e => exact leads_refused

theorem advanceOne_keepsWf : Leads KeepsWf s s.advanceOne := .of_wf fun h => by
  unfold State.advanceOne
  split
  · next t rest _ =>
    have hp : (({ s with agenda := rest } : State).pass t.dt).mem.wf = true := by simpa using h
    exact .from_wf hp (unlessHeld_keepsWf _ hp (stateMove_keepsWf ..))
  · exact autoStep_keepsWf s

end

end Sys2Proof.Machine

namespace Sys2Proof.Machine

open Sys2Proof

/-- Settles O60: the next move, the agenda's or the scheduler's, leaves memory in its canonical form, for every write of memory
goes through `Bytes.write` or a filter (08 R229; 13 R326). -/
theorem stepKeepsMemory : Obligations.StepKeepsMemory := fun s t hs ht => (advanceOne_keepsWf s).next t ht hs

end Sys2Proof.Machine

/-! Requests to a quad's reservation table (10 R266 to R270; 11 R292 to R308). -/

namespace Sys2Proof.Machine

open Sys2Proof

section

variable {s : State} {c : Ctx} {n : Nat} {eff : State → State}

theorem entryVerdict_of_room (hroom : n ≤ s.tableRoom c.g.quad) : s.entryVerdict c n eff = .go eff none :=
  if_neg (Nat.not_lt.2 hroom)

theorem requestVerdict_of_room {tk : BitVec 3} (hroom : n ≤ s.tableRoom c.g.quad) (hvar : s.varWait c c.act tk.toNat = none) :
    s.requestVerdict c n tk eff = .go eff none := by
  simp only [State.requestVerdict, hvar, if_neg (Nat.not_lt.2 hroom)]

end

/-- An instruction whose operands hang on the mode or the latch of its group, and whose groups, where they meet `ok`, go
with an effect. -/
theorem actsIn_of {i : Instr} {words : Nat} {u : State → Uses} {lat : State → Option Nat} {pins : List (Operand × Bool)}
    {ok : State → Ctx → Prop} {eff : State → Ctx → State → State} {sem : State → State → Ctx → Verdict}
    (he : ∀ s, exec i s = .next (s.issue words (u s) (fun _ => lat s) (pinRows pins) false (sem s)))
    (hs : ∀ s c, ok s c → sem s s c = .go (eff s c) none) : ActsIn i words u lat pins ok eff := by
  intro s r cs h hok
  rw [he, issue_go h (fun c hc => hs s c (hok c hc))]

section

variable {i : Instr} {words : Nat} {u : State → Uses} {pins : List (Operand × Bool)} {la : BitVec 4} {tk : BitVec 3}
  {n : Ctx → Nat} {ok : State → Ctx → Prop} {es : State → Ctx → State → List REntry}
  {pre : Ctx → State → State} {post : State → Ctx → State → State → State} {sem : State → State → Ctx → Verdict}

/-- An instruction that goes without effect where no lane is active, and elsewhere reaches, where `ok` holds, the verdict of a
request. -/
theorem requests_of
    (he : ∀ s, exec i s = .next (s.issue words (u s) (fun _ => none) (pinRows pins) false (fun x c =>
      if c.act = 0 then .go (fun s => s) none else sem s x c)))
    (hs : ∀ s c, ok s c → sem s s c = s.requestVerdict c (n c) tk (fun x =>
      post s c x ((pre c x).submit c (VOp.start x c (u s) .request la tk) (es s c x)))) :
    Requests i words u pins la tk n ok es pre post := by
  refine actsIn_of he (fun s c hok => ?_)
  by_cases h0 : c.act = 0
  · simp only [h0, if_true]
  · obtain ⟨hc, hroom, hvar⟩ := hok h0
    simp only [if_neg h0, hs s c hc, requestVerdict_of_room hroom (hvar rfl)]
    rfl

/-- The same for a request that is no variable-latency instruction (03 R91, R92): it waits for room alone. -/
theorem requests_of_entry
    (he : ∀ s, exec i s = .next (s.issue words (u s) (fun _ => none) (pinRows pins) false (fun x c =>
      if c.act = 0 then .go (fun s => s) none else sem s x c)))
    (hs : ∀ s c, ok s c → sem s s c = s.entryVerdict c (n c) (fun x =>
      post s c x ((pre c x).submit c { VOp.start x c (u s) .request la tk with counted := false } (es s c x)))) :
    Requests i words u pins la tk n ok es pre post (counted := false) := by
  refine actsIn_of he (fun s c hok => ?_)
  by_cases h0 : c.act = 0
  · simp only [h0, if_true]
  · obtain ⟨hc, hroom, -⟩ := hok h0
    simp only [if_neg h0, hs s c hc, entryVerdict_of_room hroom]

end

/-- Settles O25: each format issues as `issueMma` says, and its places are B's. -/
theorem matrixMultiply : Obligations.MatrixMultiply := by
  unfold Obligations.MatrixMultiply
  intro u v places mma
  have hmma : ∀ (i : MmaOp → Instr) (op : Nat), (∀ m s, exec (i m) s = .next (s.issueMma m op)) → mma i op := by
    intro i op he m
    refine requests_of (fun s => he m s) (fun s c hok => ?_)
    obtain ⟨ps, hps⟩ := hok
    simp only [u, v, places] at hps ⊢
    cases hctx : s.curCtx with
    | none | some d =>
      simp only [hctx] at hps ⊢
      simp only [hps]
  exact ⟨hmma _ _ fun _ _ => rfl, hmma _ _ fun _ _ => rfl, hmma _ _ fun _ _ => rfl, hmma _ _ fun _ _ => rfl,
    hmma _ _ fun _ _ => rfl, hmma _ _ fun _ _ => rfl, hmma _ _ fun _ _ => rfl⟩

/-- Settles O26: each request reaches its verdict once its places are found, and MWAIT names the requests now pending. -/
theorem matrixRequests : Obligations.MatrixRequests := by
  unfold Obligations.MatrixRequests
  intro places got inReg xu xv xfer
  refine ⟨?mld, ?mst, fun x => ?mdrain, ?table, fun a ra => ?mzero, fun a b ra rb => ?mtree, ?mwait⟩
  case mld | mst =>
    rintro ⟨space, dk, tk, la, nrows⟩
    refine requests_of (fun _ => rfl) (fun s c hok => ?_)
    cases space with
    | reg a => rfl
    | global bk | scratch bk =>
      obtain ⟨ps, hps⟩ := hok.resolve_left nofun
      simp only [places, got, xv, xu] at hps ⊢
      cases hctx : s.curCtx with
      | none | some d =>
        simp only [hctx] at hps ⊢
        simp only [hps]
  case mdrain =>
    refine requests_of (fun _ => rfl) (fun s c ⟨hshape, howns⟩ => ?_)
    rw [howns]
    exact if_neg (not_not_intro hshape)
  case table =>
    intro table
    have htable : ∀ (i : TableOp → Instr) (act : Bool) (bytes : Nat),
        (∀ x s, exec (i x) s = .next (s.issueTable x act bytes)) → table i act bytes := by
      intro i act bytes he x u at_
      refine requests_of (fun s => he x s) (fun s c ⟨ps, hps⟩ => ?_)
      simp only [u, at_] at hps ⊢
      simp only [hps]
      rfl
    exact ⟨htable _ _ _ fun _ _ => rfl, htable _ _ _ fun _ _ => rfl⟩
  case mzero => exact requests_of_entry (fun _ => rfl) (fun _ _ _ => rfl)
  case mtree => exact requests_of_entry (fun _ => rfl) (fun _ _ _ => rfl)
  case mwait => exact acts_of (fun _ => rfl) (fun _ _ _ => go_unless _ _)

end Sys2Proof.Machine

namespace Sys2Proof.Machine

open Sys2Proof

/-! The epilogue configuration (10 Table 10.5) and cluster barriers (10 R286). -/

/-- One word of the epilogue configuration is replaced. -/
def epiPut (e : BitVec 160) (w : Nat × Word) : BitVec 160 :=
  (e &&& ~~~(BitVec.ofNat 160 (0xFFFFFFFF * 2 ^ (32 * w.1)))) ||| BitVec.ofNat 160 (w.2.toNat * 2 ^ (32 * w.1))

theorem epiWrite_eq (e : BitVec 160) (ws : List (Nat × Word)) :
    epiWrite e ws = ws.foldl epiPut e &&& ~~~(BitVec.ofNat 160 0x1FFF) := rfl

/-- Bits of a word that stands at place `n` of a number. -/
theorem testBit_word_at (x : Word) (n k : Nat) :
    (x.toNat * 2 ^ (32 * n)).testBit k = (decide (n = k / 32) && x.getLsbD (k % 32)) := by
  rw [Nat.testBit_mul_two_pow, BitVec.testBit_toNat]
  by_cases hn : n = k / 32
  · rw [show k - 32 * n = k % 32 by omega, decide_eq_true (by omega : 32 * n ≤ k), decide_eq_true hn]
  · rw [decide_eq_false hn, Bool.false_and, Bool.and_eq_false_imp]
    intro hle
    exact BitVec.getLsbD_of_ge _ _ (by have := of_decide_eq_true hle; omega)

theorem epiPut_bit (e : BitVec 160) (w : Nat × Word) {k : Nat} (hk : k < 160) :
    (epiPut e w).getLsbD k = if w.1 = k / 32 then w.2.getLsbD (k % 32) else e.getLsbD k := by
  have hmask : (0xFFFFFFFF * 2 ^ (32 * w.1)).testBit k = decide (w.1 = k / 32) := by
    rw [show 0xFFFFFFFF = (BitVec.allOnes 32 : Word).toNat from rfl, testBit_word_at,
      BitVec.getLsbD_allOnes, decide_eq_true (Nat.mod_lt k (by decide) : k % 32 < 32), Bool.and_true]
  simp only [epiPut, BitVec.getLsbD_or, BitVec.getLsbD_and, BitVec.getLsbD_not, BitVec.getLsbD_ofNat, hmask, testBit_word_at, hk]
  by_cases hw : w.1 = k / 32 <;> simp [hw]

/-- The last word written to a place counts. -/
theorem foldl_epiPut_bit (e : BitVec 160) (ws : List (Nat × Word)) {k : Nat} (hk : k < 160) :
    (ws.foldl epiPut e).getLsbD k =
      ((ws.reverse.find? (fun w => w.1 == k / 32)).map (fun w => w.2.getLsbD (k % 32))).getD (e.getLsbD k) := by
  induction ws using List.reverseRecOn with
  | nil => rfl
  | append_singleton ws w ih =>
    rw [List.foldl_append, List.foldl_cons, List.foldl_nil, epiPut_bit _ w hk, ih, List.reverse_append, List.reverse_singleton,
      List.singleton_append]
    by_cases hw : w.1 = k / 32
    · rw [if_pos hw, List.find?_cons_of_pos (by simpa using hw)]
      rfl
    · rw [if_neg hw, List.find?_cons_of_neg (by simpa using hw)]

/-- Bits [12:0] are reserved (10 Table 10.5). -/
theorem epiWrite_bit (e : BitVec 160) (ws : List (Nat × Word)) (k : Nat) :
    (epiWrite e ws).getLsbD k = (decide (13 ≤ k) &&
      ((ws.reverse.find? (fun w => w.1 == k / 32)).map (fun w => w.2.getLsbD (k % 32))).getD (e.getLsbD k) && decide (k < 160)) := by
  have hreserved : (0x1FFF : Nat).testBit k = decide (k < 13) := Nat.testBit_two_pow_sub_one 13 k
  rw [epiWrite_eq, BitVec.getLsbD_and, BitVec.getLsbD_not, BitVec.getLsbD_ofNat, hreserved]
  by_cases hk : k < 160
  · rw [foldl_epiPut_bit e ws hk]
    by_cases h13 : k < 13
    · simp [hk, h13, Nat.not_le.2 h13]
    · simp [hk, h13, Nat.not_lt.1 h13]
  · simp [hk]

/-- Settles O27: MEPI and the three forms of CBAR act on their groups alone, and each word written lands in its place. -/
theorem epilogueAndClusterBarriers : Obligations.EpilogueAndClusterBarriers := by
  unfold Obligations.EpilogueAndClusterBarriers
  refine ⟨fun a ra wm => ?mepi, fun e ws k => ?epilogue, ?cbar⟩
  case mepi => exact actsIn_of (fun _ => rfl) (fun _ _ _ => go_unless _ _)
  case epilogue =>
    rw [epiWrite_bit]
    cases ws.reverse.find? (fun w => w.1 == k / 32) <;> rfl
  case cbar =>
    intro cb
    have hcb : ∀ (i : Code → Bool → Instr) (arrive wait : Bool),
        (∀ a ra s, exec (i a ra) s = .next (s.issueCbar a ra arrive wait)) → cb i arrive wait := by
      intro i arrive wait he a ra
      refine acts_of (fun s => he a ra s) (fun s c hok => ?_)
      by_cases h0 : c.act = 0
      · simp only [h0, if_true]
      · have hnew : (arrive && s.cbarArrived c.gid c.g (cbarIx ((c.values (cbarUses a) (lowestLane c.act)).getD 0 0))) = false := by
          rw [Bool.and_eq_false_imp]
          exact hok h0
        simp only [if_neg h0, hnew]
        rfl
    exact ⟨hcb _ _ _ fun _ _ _ => rfl, hcb _ _ _ fun _ _ _ => rfl, hcb _ _ _ fun _ _ _ => rfl⟩

end Sys2Proof.Machine

/-! What the completion of an instruction leaves of the quads (10 R264 to R267). -/

namespace Sys2Proof.Machine

open Sys2Proof

/-- The accumulator rows, the entries of the reservation tables and the passes. -/
def State.quadSide (s : State) : Assoc AccRow × Assoc REntry × Assoc Pass := (s.acc, s.entries, s.passes)

theorem foldl_quadSide {α : Type} {f : State → α → State} (h : ∀ x a, (f x a).quadSide = x.quadSide) (l : List α) (s : State) :
    (l.foldl f s).quadSide = s.quadSide :=
  List.foldlRecOn (motive := fun t => t.quadSide = s.quadSide) _ _ rfl (fun t ht a _ => (h t a).trans ht)

theorem Recorded.quadSide {s t : State} (h : Recorded s t) : t.quadSide = s.quadSide := by
  obtain ⟨_, _, _, _, _, rfl, -, -, -⟩ := h; rfl

section

variable (s : State) (gid : Nat)

/-! Landing. -/

theorem landAllWrites_quadSide (cyc : Nat) (ws : List RegWrite) : (s.landAllWrites cyc gid ws).quadSide = s.quadSide := by
  have hunpin : (s.unpin gid ws).quadSide = s.quadSide := by
    obtain ⟨_, h⟩ := unpin_frame s gid ws
    rw [h]
    rfl
  refine (foldl_quadSide (fun x w => ?_) ws _).trans hunpin
  cases w with
  | mReg n y => simp only [State.land]; split <;> rfl
  | _ => rfl

theorem landLate_quadSide (st : Stream) (now : Nat) : (s.landLate gid st now).quadSide = s.quadSide := by
  unfold State.landLate
  split
  · rfl
  · exact foldl_quadSide (fun x l => landAllWrites_quadSide x gid _ _) _ _

theorem landAll_quadSide (st : Stream) : (s.landAll gid st).quadSide = s.quadSide := by
  unfold State.landAll
  split
  · rfl
  · exact landLate_quadSide ..

theorem landAlls_quadSide : ((s.landAll gid .addr).landAll gid .comp).quadSide = s.quadSide :=
  (landAll_quadSide ..).trans (landAll_quadSide ..)

/-! Runs that stop and faults that are raised. -/

theorem leaveRun_quadSide (r : Run) (m : Nat × Word) : (s.leaveRun r m).quadSide = s.quadSide := by
  unfold State.leaveRun
  split
  · rfl
  · exact landLate_quadSide ..

theorem endRun_quadSide (slot : Nat) : (s.endRun slot).quadSide = s.quadSide := by
  unfold State.endRun
  split
  · rfl
  · exact foldl_quadSide (fun x m => leaveRun_quadSide x _ m) _ _

theorem stopStream_quadSide (st : Stream) : (s.stopStream gid st).quadSide = s.quadSide := by
  unfold State.stopStream
  split
  · rfl
  · split
    · exact endRun_quadSide ..
    · exact leaveRun_quadSide ..

theorem raise_quadSide (c : Cause) (regs : TrapRegs) : (s.raise gid c regs).quadSide = s.quadSide :=
  (landAlls_quadSide ..).trans ((stopStream_quadSide ..).trans (stopStream_quadSide ..))

theorem postRecord_quadSide (f : Nat) (r : FaultRec) : (s.postRecord f r).quadSide = s.quadSide := by
  unfold State.postRecord
  split
  · rfl
  · split <;> rfl

theorem escalate_quadSide (p : PendingTrap) : (s.escalate gid p).quadSide = s.quadSide := by
  unfold State.escalate
  split
  · rfl
  · exact postRecord_quadSide ..

theorem settle_quadSide : (s.settle gid).quadSide = s.quadSide := by
  unfold State.settle
  split
  · rfl
  · split
    · rfl
    · split_ifs
      · rfl
      · rfl
      · exact escalate_quadSide ..
      · rfl

/-! Barriers and finishing. -/

theorem checkTbar_quadSide (tid : Nat) (st : Stream) (n : Nat) : (s.checkTbar tid st n).quadSide = s.quadSide := by
  unfold State.checkTbar
  split
  · rfl
  · dsimp only
    split <;> rfl

theorem checkCbar_quadSide (gk : Nat) (n : Fin 8) : (s.checkCbar gk n).quadSide = s.quadSide := by
  unfold State.checkCbar
  split
  · rfl
  · dsimp only
    split <;> rfl

theorem checkBarriers_quadSide (g : Group) (st : Stream) : (s.checkBarriers g st).quadSide = s.quadSide := by
  have htbar := foldl_quadSide (fun x n => checkTbar_quadSide x g.team st n) (List.range 4) s
  cases st with
  | addr => exact htbar
  | comp => exact (foldl_quadSide (fun x n => checkCbar_quadSide x g.gang n) _ _).trans htbar

theorem afterOrdered_quadSide : (s.afterOrdered gid).quadSide = s.quadSide := by
  unfold State.afterOrdered
  split
  · split
    · exact checkBarriers_quadSide ..
    · rfl
  · rfl

theorem finishGang_quadSide (gk : Nat) : (s.finishGang gk).quadSide = s.quadSide := by
  unfold State.finishGang
  split
  · rfl
  · dsimp only
    split
    · rfl
    · split
      · refine (foldl_quadSide (fun x t => ?_) _ _).trans ?_
        · split <;> rfl
        · split <;> rfl
      · rfl

theorem finishGroup_quadSide : (s.finishGroup gid).quadSide = s.quadSide := by
  unfold State.finishGroup
  split
  · rfl
  · exact (finishGang_quadSide ..).trans (landAlls_quadSide s gid)

theorem reap_quadSide : (s.reap gid).quadSide = s.quadSide := by
  unfold State.reap
  split
  · rfl
  · split_ifs
    · rfl
    · exact finishGroup_quadSide ..
    · rfl

theorem haltIfQuiet_quadSide : (s.haltIfQuiet gid).quadSide = s.quadSide := by
  unfold State.haltIfQuiet
  split
  · rfl
  · split_ifs
    · exact landAlls_quadSide ..
    · rfl

theorem afterWork_quadSide : (s.afterWork gid).quadSide = s.quadSide :=
  (foldl_quadSide (fun x k => reap_quadSide x k) _ _).trans
    ((reap_quadSide ..).trans ((haltIfQuiet_quadSide ..).trans (settle_quadSide ..)))

/-- An instruction that completes leaves rows, entries and passes as they are. -/
theorem finishOp_quadSide (id : Nat) : (s.finishOp id).quadSide = s.quadSide := by
  unfold State.finishOp
  split
  · rfl
  · next o _ =>
    refine (afterWork_quadSide _ o.gid).trans ((afterOrdered_quadSide _ o.gid).trans ?_)
    have hland := landAllWrites_quadSide ({ s with ops := s.ops.drop id } : State) o.gid
      (({ s with ops := s.ops.drop id } : State).groupCycle o.gid) o.flags
    split
    · exact (raise_quadSide ..).trans hland
    · exact hland

end

/-! An entry that leaves the table (10 R267). -/

theorem noteEligible_find (s : State) (q k : Nat) :
    (s.noteEligible q).entries.find k = (s.entries.find k).map (fun e =>
      if e.quad = q && s.fourWait e then
        e.modPass (fun p => { p with readyAt := p.readyAt.or (some (s.dieCycle (q / 24) + 1)) }) else e) :=
  Assoc.find_map s.entries k (fun _ e => if e.quad = q && s.fourWait e then
    e.modPass (fun p => { p with readyAt := p.readyAt.or (some (s.dieCycle (q / 24) + 1)) }) else e)

/-- What freeing an entry leaves of the quads: the entry is gone, and others may have become ready. -/
theorem freeEntry_quadSide (s : State) (id : Nat) : ∃ t : State, (s.freeEntry id).quadSide = t.quadSide ∧
    t.acc = s.acc ∧ t.passes = s.passes ∧ t.entries.find id = none ∧ ∀ k, s.entries.find k = none → t.entries.find k = none := by
  unfold State.freeEntry
  split
  · next h => exact ⟨s, rfl, rfl, rfl, h, fun _ h => h⟩
  · next e h =>
    obtain ⟨hacc, hent, hpass⟩ : (s.orderEntry 10 e).acc = s.acc ∧ (s.orderEntry 10 e).entries = s.entries ∧
        (s.orderEntry 10 e).passes = s.passes := by
      simpa [State.quadSide] using (orderEntry_frame s 10 e).quadSide
    refine ⟨({ s.orderEntry 10 e with entries := (s.orderEntry 10 e).entries.drop id } : State).noteEligible e.quad, ?_, hacc, hpass,
      ?_, fun k hk => ?_⟩
    · dsimp only
      split
      · rfl
      · exact finishOp_quadSide ..
    · rw [noteEligible_find, Assoc.find_drop]
      rfl
    · rw [noteEligible_find, hent]
      by_cases hki : k = id
      · rw [hki, Assoc.find_drop]
        rfl
      · rw [Assoc.find_drop_ne _ hki, hk]
        rfl

section

variable (s : State) (id : Nat)

@[simp] theorem freeEntry_acc : (s.freeEntry id).acc = s.acc := by
  obtain ⟨t, ht, hacc, -⟩ := freeEntry_quadSide s id
  exact (congrArg Prod.fst ht).trans hacc

@[simp] theorem freeEntry_passes : (s.freeEntry id).passes = s.passes := by
  obtain ⟨t, ht, -, hpass, -⟩ := freeEntry_quadSide s id
  exact (congrArg (fun x => x.2.2) ht).trans hpass

theorem freeEntry_find_self : (s.freeEntry id).entries.find id = none := by
  obtain ⟨t, ht, -, -, hself, -⟩ := freeEntry_quadSide s id
  rw [show (s.freeEntry id).entries = t.entries from congrArg (fun x => x.2.1) ht, hself]

theorem freeEntry_find_none {k : Nat} (h : s.entries.find k = none) : (s.freeEntry id).entries.find k = none := by
  obtain ⟨t, ht, -, -, -, hnone⟩ := freeEntry_quadSide s id
  rw [show (s.freeEntry id).entries = t.entries from congrArg (fun x => x.2.1) ht, hnone k h]

end

/-- Entries that leave the table, one after the other. -/
theorem freeEntries (s : State) (ids : List Nat) :
    (ids.foldl (fun s id => s.freeEntry id) s).acc = s.acc ∧ (ids.foldl (fun s id => s.freeEntry id) s).passes = s.passes ∧
    ∀ k, k ∈ ids ∨ s.entries.find k = none → (ids.foldl (fun s id => s.freeEntry id) s).entries.find k = none := by
  induction ids generalizing s with
  | nil => exact ⟨rfl, rfl, fun k hk => hk.resolve_left List.not_mem_nil⟩
  | cons id ids ih =>
    obtain ⟨hacc, hpass, hnone⟩ := ih (s.freeEntry id)
    refine ⟨hacc.trans (freeEntry_acc s id), hpass.trans (freeEntry_passes s id), fun k hk => hnone k ?_⟩
    rw [List.mem_cons, or_assoc] at hk
    rcases hk with rfl | hk | hk
    · exact .inr (freeEntry_find_self s k)
    · exact .inl hk
    · exact .inr (freeEntry_find_none s id hk)

/-! Rows of the accumulator store (10 Table 10.1). -/

theorem setAcc_accRow (s : State) (q r : Nat) (x : AccRow) : (s.setAcc q r x).accRow q r = x := by
  unfold State.setAcc State.accRow Assoc.getD
  by_cases hx : x = AccRow.zero
  · simp only [hx, if_true, Assoc.find_drop, Option.getD_none]
  · simp only [if_neg hx, Assoc.find_set, Option.getD_some]

theorem setAcc_accRow_ne (s : State) (q : Nat) {r k : Nat} (x : AccRow) (h : k ≠ r) : (s.setAcc q r x).accRow q k = s.accRow q k := by
  have hkey : 4096 * q + k ≠ 4096 * q + r := by omega
  unfold State.setAcc State.accRow Assoc.getD
  by_cases hx : x = AccRow.zero
  · simp only [hx, if_true, Assoc.find_drop_ne _ hkey]
  · simp only [if_neg hx, Assoc.find_set_ne _ _ hkey]

/-- Rows of a quad are set, one after the other. -/
def State.setRows (s : State) (q : Nat) (rows : List (Nat × AccRow)) : State := rows.foldl (fun s r => s.setAcc q r.1 r.2) s

theorem setRows_accRow_out (s : State) (q : Nat) (rows : List (Nat × AccRow)) {k : Nat} (h : k ∉ rows.map Prod.fst) :
    (s.setRows q rows).accRow q k = s.accRow q k := by
  induction rows generalizing s with
  | nil => rfl
  | cons r rows ih =>
    rw [List.map_cons, List.mem_cons, not_or] at h
    exact (ih (s.setAcc q r.1 r.2) h.2).trans (setAcc_accRow_ne s q r.2 h.1)

theorem setRows_accRow (s : State) (q : Nat) {rows : List (Nat × AccRow)} (hn : (rows.map Prod.fst).Nodup) {k : Nat} {x : AccRow}
    (h : (k, x) ∈ rows) : (s.setRows q rows).accRow q k = x := by
  induction rows generalizing s with
  | nil => exact absurd h List.not_mem_nil
  | cons r rows ih =>
    rw [List.map_cons, List.nodup_cons] at hn
    rcases List.mem_cons.1 h with rfl | h
    · exact (setRows_accRow_out (s.setAcc q k x) q rows hn.1).trans (setAcc_accRow s q k x)
    · exact ih (s.setAcc q r.1 r.2) hn.2 h

theorem setRows_passes (s : State) (q : Nat) (rows : List (Nat × AccRow)) : (s.setRows q rows).passes = s.passes :=
  List.foldlRecOn (motive := fun t : State => t.passes = s.passes) _ _ rfl (fun _ ht _ _ => ht)

theorem tileRow_injective (row : Nat) : Function.Injective (fun L : Fin 32 => tileRow row L.val) := by
  intro L M h
  simp only [tileRow] at h
  omega

theorem dRows_nodup (e : REntry) : e.dRows.Nodup := (lanesOf_nodup e.mask).map (tileRow_injective e.row)

end Sys2Proof.Machine

/-! PASS_COMPLETE (10 R274; 11 R295). -/

namespace Sys2Proof.Machine

open Sys2Proof

/-- The rows that an entry of a pass writes. -/
def State.entryRows (s : State) (x : Pass) (e : REntry) : List (Nat × AccRow) :=
  match e.pass? with
  | some p =>
    let rows := splitRows (mmaRowBytes p.op) (mmaK p.op) x.b
    let bf := if p.op = 0x6A then [] else rows.map (mmaBRow p.op)
    let bi := if p.op = 0x6A then rows.map (fun b => int8Row 32 (natOfBytes b)) else []
    (lanesOf e.mask).map (s.passRow (s.context (s.entryContext e)) e p bf bi x.poisoned)
  | none => []

theorem pass?_of_kind {e : REntry} {p : PassInfo} (h : e.kind = .pass p) : e.pass? = some p := by
  simp only [REntry.pass?, h]

theorem entryRows_fst (s : State) (x : Pass) {e : REntry} {p : PassInfo} (h : e.kind = .pass p) :
    (s.entryRows x e).map Prod.fst = e.dRows := by
  simp only [State.entryRows, pass?_of_kind h, List.map_map]
  rfl

/-- The row of each lane of the mask is among them. -/
theorem passRow_mem_entryRows (s : State) (x : Pass) {e : REntry} {p : PassInfo} (h : e.kind = .pass p) {L : Fin 32}
    (hL : laneIn e.mask L = true) :
    let rows := splitRows (mmaRowBytes p.op) (mmaK p.op) x.b
    let bf := if p.op = 0x6A then [] else rows.map (mmaBRow p.op)
    let bi := if p.op = 0x6A then rows.map (fun b => int8Row 32 (natOfBytes b)) else []
    s.passRow (s.context (s.entryContext e)) e p bf bi x.poisoned L ∈ s.entryRows x e := by
  rw [State.entryRows, pass?_of_kind h]
  exact List.mem_map_of_mem (mem_lanesOf.2 hL)

/-- The entries of a pass that are in the table. -/
theorem found_entries {s : State} {ids : List Nat} {es : List (Nat × REntry)} (hids : ids = es.map Prod.fst)
    (hes : ∀ y ∈ es, s.entries.find y.1 = some y.2) :
    ids.filterMap (fun id => (s.entries.find id).map (fun e => (id, e))) = es := by
  subst hids
  rw [List.filterMap_map]
  exact (List.filterMap_congr (fun y hy => by simp only [Function.comp_apply, hes y hy, Option.map_some])).trans List.filterMap_some

/-- The oldest pass of its quad writes the rows of its entries, which then leave the table. -/
theorem passComplete_eq {s : State} {n : Nat} {x : Pass} {es : List (Nat × REntry)} (hx : s.passes.find n = some x)
    (hold : ∀ y ∈ s.passes, y.2.quad = x.quad → n ≤ y.1) (hids : x.entries = es.map Prod.fst)
    (hes : ∀ y ∈ es, s.entries.find y.1 = some y.2) :
    exec (.passComplete n) s = .next (x.entries.foldl (fun s id => s.freeEntry id)
      { s.setRows x.quad (es.flatMap (fun y => s.entryRows x y.2)) with passes := s.passes.drop n }) := by
  have hany : s.passes.any (fun y => decide (y.1 < n) && y.2.quad == x.quad) = false := by
    rw [List.any_eq_false]
    intro y hy hlt
    rw [Bool.and_eq_true, decide_eq_true_eq, beq_iff_eq] at hlt
    exact Nat.not_lt.2 (hold y hy hlt.2) hlt.1
  show execPassComplete n s = _
  unfold execPassComplete
  rw [hx]
  dsimp only
  rw [hany, found_entries hids hes]
  rw [if_neg (by decide), ← setRows_passes s x.quad (es.flatMap (fun y => s.entryRows x y.2))]
  rfl

/-- No two entries write a common row, so no row is written twice. -/
theorem passRows_nodup (s : State) (x : Pass) {es : List (Nat × REntry)} (hkind : ∀ y ∈ es, ∃ p, y.2.kind = .pass p)
    (hrows : es.Pairwise (fun y z => ∀ r ∈ y.2.dRows, r ∉ z.2.dRows)) :
    (es.flatMap (fun y => s.entryRows x y.2)).map Prod.fst = es.flatMap (fun y => y.2.dRows) ∧
    (es.flatMap (fun y => y.2.dRows)).Nodup := by
  refine ⟨?_, List.nodup_flatMap.2 ⟨fun y _ => dRows_nodup y.2, hrows⟩⟩
  rw [List.map_flatMap]
  refine List.flatMap_congr fun y hy => ?_
  obtain ⟨p, hp⟩ := hkind y hy
  exact entryRows_fst s x hp

/-- What PASS_COMPLETE writes and leaves, of a pass whose entries share no row. -/
theorem passComplete_rows {s : State} {n : Nat} {x : Pass} {es : List (Nat × REntry)} (hx : s.passes.find n = some x)
    (hold : ∀ y ∈ s.passes, y.2.quad = x.quad → n ≤ y.1) (hids : x.entries = es.map Prod.fst)
    (hes : ∀ y ∈ es, s.entries.find y.1 = some y.2) (hkind : ∀ y ∈ es, ∃ p, y.2.kind = .pass p)
    (hrows : es.Pairwise (fun y z => ∀ r ∈ y.2.dRows, r ∉ z.2.dRows)) :
    ∃ t, exec (.passComplete n) s = .next t ∧ t.passes.find n = none ∧ (∀ y ∈ es, t.entries.find y.1 = none) ∧
      (∀ y ∈ es, ∀ r ∈ s.entryRows x y.2, t.accRow x.quad r.1 = r.2) ∧
      (∀ r, (∀ y ∈ es, r ∉ y.2.dRows) → t.accRow x.quad r = s.accRow x.quad r) := by
  obtain ⟨hfst, hnodup⟩ := passRows_nodup s x hkind hrows
  obtain ⟨hacc, hpass, hnone⟩ := freeEntries
    ({ s.setRows x.quad (es.flatMap (fun y => s.entryRows x y.2)) with passes := s.passes.drop n }) x.entries
  have hrow : ∀ r, State.accRow _ x.quad r = (s.setRows x.quad (es.flatMap (fun y => s.entryRows x y.2))).accRow x.quad r :=
    fun r => congrArg (fun m => Assoc.getD m (4096 * x.quad + r) AccRow.zero) hacc
  refine ⟨_, passComplete_eq hx hold hids hes, ?_, fun y hy => hnone y.1 (.inl ?_), fun y hy r hr => ?_, fun r hr => ?_⟩
  · rw [hpass]
    exact Assoc.find_drop ..
  · exact hids ▸ List.mem_map_of_mem hy
  · rw [hrow]
    exact setRows_accRow s x.quad (hfst ▸ hnodup) (List.mem_flatMap.2 ⟨y, hy, hr⟩)
  · rw [hrow]
    refine setRows_accRow_out s x.quad _ ?_
    rw [hfst, List.mem_flatMap]
    rintro ⟨y, hy, hry⟩
    exact hr y hy hry

end Sys2Proof.Machine

/-! PASS_READY, PASS_PROMOTION and PASS_GRANT (10 R271 to R276). -/

namespace Sys2Proof.Machine

open Sys2Proof

/-! The choice among entries (10 R272). -/

theorem mem_of_bestEntry {s : State} {es : List (Nat × REntry)} {x : Nat × REntry} (h : s.bestEntry es = some x) : x ∈ es := by
  have hinv : ∀ y, s.bestEntry es = some y → y ∈ es := by
    refine List.foldlRecOn (motive := fun best : Option (Nat × REntry) => ∀ y, best = some y → y ∈ es) _ _ nofun ?_
    intro best hbest e he y hy
    cases best with
    | none => exact Option.some_inj.1 hy ▸ he
    | some b =>
      dsimp only at hy
      split at hy
      · exact Option.some_inj.1 hy ▸ he
      · exact hbest y hy
  exact hinv x h

/-- Two entries write no common row. -/
def RowsApart (y z : Nat × REntry) : Prop := ∀ r ∈ y.2.dRows, r ∉ z.2.dRows

/-- The further entries of a pass: as many as are asked for at most, from the pool, sharing no row with what is taken. -/
theorem fuse_spec (s : State) (n : Nat) (taken pool : List (Nat × REntry)) (ht : taken.Pairwise RowsApart) :
    ∃ more, s.fuse n taken pool = taken ++ more ∧ more.length ≤ n ∧ more ⊆ pool ∧ (taken ++ more).Pairwise RowsApart := by
  induction n generalizing taken with
  | zero => exact ⟨[], (List.append_nil _).symm, Nat.le_refl _, List.nil_subset _, by simpa using ht⟩
  | succ n ih =>
    rw [State.fuse]
    split
    · next e he =>
      obtain ⟨hpool, hfit⟩ := List.mem_filter.1 (mem_of_bestEntry he)
      have hapart : ∀ y ∈ taken, RowsApart y e := by
        intro y hy r hr hre
        rw [Bool.not_eq_true', List.any_eq_false] at hfit
        refine hfit y hy ?_
        rw [Bool.or_eq_true, List.any_eq_true]
        exact .inr ⟨r, hr, List.contains_iff_mem.2 hre⟩
      have htaken : (taken ++ [e]).Pairwise RowsApart :=
        List.pairwise_append.2 ⟨ht, List.pairwise_singleton _ _, fun y hy z hz => List.mem_singleton.1 hz ▸ hapart y hy⟩
      obtain ⟨more, hfuse, hlen, hsub, hpair⟩ := ih (taken ++ [e]) htaken
      refine ⟨e :: more, ?_, Nat.succ_le_succ hlen, List.cons_subset.2 ⟨hpool, hsub⟩, ?_⟩
      · rw [hfuse, List.append_assoc, List.singleton_append]
      · rwa [List.append_assoc, List.singleton_append] at hpair
    · exact ⟨[], (List.append_nil _).symm, Nat.zero_le _, List.nil_subset _, by simpa using ht⟩

/-! What acquiring blocks leaves alone (10 R264). -/

section

variable (s : State) (q : Nat)

theorem setRows_frame (rows : List (Nat × AccRow)) : ∃ a, s.setRows q rows = { s with acc := a } := by
  refine List.foldlRecOn (motive := fun t : State => ∃ a, t = { s with acc := a }) _ _ ⟨s.acc, rfl⟩ ?_
  rintro _ ⟨_, rfl⟩ r _
  exact ⟨_, rfl⟩

theorem scrub_eq_setRows (rs : List Nat) :
    rs.foldl (fun s r => s.setAcc q r AccRow.zero) s = s.setRows q (rs.map (fun r => (r, AccRow.zero))) := by
  rw [State.setRows, List.foldl_map]

theorem giveBlock_frame (b ctx : Nat) : ∃ m a qs, s.giveBlock q b ctx = { s with mem := m, acc := a, quads := qs } := by
  unfold State.giveBlock
  dsimp only
  split
  · next x _ =>
    obtain ⟨a, ha⟩ := setRows_frame (s.modQuad q (fun x => { x with owners := x.owners.set b ctx })) q
      (numbered (32 * b) ((s.modQuad q (fun x => { x with owners := x.owners.set b ctx })).savedRows q x))
    unfold State.setRows at ha
    rw [ha]
    unfold State.freeRecord
    split <;> exact ⟨_, _, _, rfl⟩
  · rw [scrub_eq_setRows]
    obtain ⟨a, ha⟩ := setRows_frame (s.modQuad q (fun x => { x with owners := x.owners.set b ctx })) q
      ((blockRows b).map (fun r => (r, AccRow.zero)))
    exact ⟨_, _, _, ha⟩

/-- Where nothing is saved, a block that is given is scrubbed, and memory is left alone. -/
theorem giveBlock_unsaved (b ctx : Nat) (h : (s.quad q).saved = []) :
    (s.giveBlock q b ctx).mem = s.mem ∧ ((s.giveBlock q b ctx).quad q).saved = [] := by
  have hsaved : ((s.modQuad q (fun x => { x with owners := x.owners.set b ctx })).quad q).saved = [] := by
    rw [modQuad_quad]
    exact h
  unfold State.giveBlock
  dsimp only
  rw [hsaved, List.find?_nil]
  dsimp only
  rw [scrub_eq_setRows]
  obtain ⟨a, ha⟩ := setRows_frame (s.modQuad q (fun x => { x with owners := x.owners.set b ctx })) q
    ((blockRows b).map (fun r => (r, AccRow.zero)))
  rw [ha]
  exact ⟨rfl, hsaved⟩

theorem acquire_frame (ctx : Nat) (rows : List Nat) :
    ∃ m a qs, s.acquire q ctx rows = { s with mem := m, acc := a, quads := qs } := by
  refine List.foldlRecOn (motive := fun t : State => ∃ m a qs, t = { s with mem := m, acc := a, quads := qs }) _ _
    ⟨s.mem, s.acc, s.quads, rfl⟩ ?_
  rintro t ⟨m, a, qs, rfl⟩ b _
  split
  · obtain ⟨m, a, qs, h⟩ := giveBlock_frame { s with mem := m, acc := a, quads := qs } q b ctx
    exact ⟨m, a, qs, h⟩
  · exact ⟨m, a, qs, rfl⟩

theorem acquire_unsaved (ctx : Nat) (rows : List Nat) (h : (s.quad q).saved = []) :
    (s.acquire q ctx rows).mem = s.mem ∧ ((s.acquire q ctx rows).quad q).saved = [] := by
  refine List.foldlRecOn (motive := fun t : State => t.mem = s.mem ∧ (t.quad q).saved = []) _ _ ⟨rfl, h⟩ ?_
  rintro t ⟨hmem, hsaved⟩ b _
  split
  · obtain ⟨hm, hs⟩ := giveBlock_unsaved t q b ctx hsaved
    exact ⟨hm.trans hmem, hs⟩
  · exact ⟨hmem, hsaved⟩

end

/-! The grant (10 R272, R276). -/

/-- The entries of a pass are granted: their blocks become their contexts' own. -/
def State.grantAll (s : State) (q : Nat) (taken : List (Nat × REntry)) : State :=
  taken.foldl (fun s x => ((s.acquire q (s.entryContext x.2) x.2.rows).orderEntry 9 x.2).modEntry x.1
    (fun e => { e with granted := true })) s

/-- What a grant leaves alone: groups but for a kill, teams, and, where the quad has nothing saved, memory. -/
structure GrantKeeps (s : State) (q : Nat) (t : State) : Prop where
  groups : SameGroups s.groups t.groups
  teams : t.teams = s.teams
  unsaved : (s.quad q).saved = [] → t.mem = s.mem ∧ (t.quad q).saved = []

theorem GrantKeeps.step {s t : State} {q : Nat} (h : GrantKeeps s q t) (ctx : Nat) (rows : List Nat) (x : Nat × REntry) :
    GrantKeeps s q (((t.acquire q ctx rows).orderEntry 9 x.2).modEntry x.1 (fun e => { e with granted := true })) := by
  obtain ⟨m, a, qs, hacq⟩ := acquire_frame t q ctx rows
  have hmem := acquire_unsaved t q ctx rows
  rw [hacq] at hmem ⊢
  obtain ⟨n, f, ls, gs, held, hrec, -, -, hgs⟩ := orderEntry_frame { t with mem := m, acc := a, quads := qs } 9 x.2
  rw [hrec]
  exact ⟨h.groups.trans hgs, h.teams, fun hs => ⟨(hmem (h.unsaved hs).2).1.trans (h.unsaved hs).1, (hmem (h.unsaved hs).2).2⟩⟩

theorem grantAll_keeps (s : State) (q : Nat) (taken : List (Nat × REntry)) : GrantKeeps s q (s.grantAll q taken) :=
  List.foldlRecOn (motive := GrantKeeps s q) _ _ ⟨.refl _, rfl, fun h => ⟨rfl, h⟩⟩ (fun _ ht x _ => ht.step _ _ x)

/-! The read of B (10 R276, R278). -/

section

variable (s : State) (g : Group) (as : List Nat)

/-- From memory, B is the bytes at its places. -/
theorem engineReadAll_phys : (s.engineReadAll g false as).1 = as.flatMap (fun a => s.mem.readN a 16) := by
  have hgen : ∀ (t : State) (bs : List Byte) (bad : Bool), t.mem = s.mem →
      (as.foldl (fun (x : List Byte × Bool × State) a =>
        let r := x.2.2.engineRead g false a 16
        (x.1 ++ r.1, x.2.1 || r.2.1, r.2.2)) (bs, bad, t)).1 = bs ++ as.flatMap (fun a => s.mem.readN a 16) := by
    induction as with
    | nil => exact fun _ bs _ _ => (List.append_nil bs).symm
    | cons a as ih =>
      intro t bs bad ht
      have hread : (t.engineRead g false a 16).1 = s.mem.readN a 16 := congrArg (fun m => Bytes.readN m a 16) ht
      rw [List.foldl_cons, List.flatMap_cons, ← List.append_assoc, ← hread]
      exact ih _ _ _ ((engineRead_mem g false a 16).trans ht)
  exact (hgen s [] false rfl).trans (List.nil_append _)

/-- From scratch, B is the bytes of the team's. -/
theorem engineReadAll_scratch {z : Team} (hz : s.teams.find g.team = some z) :
    (s.engineReadAll g true as).1 = as.flatMap (fun a => z.scratch.readN a 16) := by
  have hgen : ∀ (bs : List Byte) (bad : Bool),
      (as.foldl (fun (x : List Byte × Bool × State) a =>
        let r := x.2.2.engineRead g true a 16
        (x.1 ++ r.1, x.2.1 || r.2.1, r.2.2)) (bs, bad, s)).1 = bs ++ as.flatMap (fun a => z.scratch.readN a 16) := by
    induction as with
    | nil => exact fun bs _ => (List.append_nil bs).symm
    | cons a as ih =>
      intro bs bad
      simp only [List.foldl_cons, List.flatMap_cons, ← List.append_assoc, State.engineRead, hz, if_true]
      simpa only [State.engineRead, hz, if_true] using ih ..
  exact (hgen [] false).trans (List.nil_append _)

end

/-! PASS_GRANT. -/

/-- The read of B is also that of every other entry of the pass, by its own core (10 R276, R278). -/
def State.readByOthers (s : State) (p : PassInfo) (others : List (Nat × REntry)) : State :=
  others.foldl (fun s x =>
    match s.groups.find x.2.gid with
    | some h => (s.engineReadAll h p.scratchB p.phys).2.2
    | none => s) s

/-- The pass is under way with the B that it read, and the engine is busy for two cycles. -/
def State.beginPass (s : State) (q now : Nat) (x : Pass) : State :=
  let t : State := { s with
    passes := s.passes.set s.nextId x
    nextId := s.nextId + 1
    entries := s.entries.map (fun (x : Nat × REntry) =>
      if x.2.quad = q && !x.2.granted then (x.1, x.2.modPass PassInfo.passedBy) else x) }
  (t.modQuad q (fun x => { x with busyUntil := now + 2 })).noteEligible q

theorem beginPass_pass (s : State) (q now : Nat) (x : Pass) : (s.beginPass q now x).passes.find s.nextId = some x :=
  Assoc.find_set ..

theorem beginPass_busy (s : State) (q now : Nat) (x : Pass) : ((s.beginPass q now x).quad q).busyUntil = now + 2 :=
  congrArg Quad.busyUntil (modQuad_quad _ q (fun x => { x with busyUntil := now + 2 }))

/-- The state after the grant of a pass of `taken` to an entry of group `g`. -/
def State.grantPass (s : State) (q now : Nat) (taken : List (Nat × REntry)) (g : Group) (p : PassInfo) : State :=
  let r := s.engineReadAll g p.scratchB p.phys
  (r.2.2.readByOthers p (taken.drop 1)).beginPass q now ⟨q, taken.map Prod.fst, r.1, r.2.1⟩

/-- The entries that an entry's pass may take. -/
def State.passPool (s : State) (q : Nat) (e : REntry) : List (Nat × REntry) :=
  (s.entries.filter (fun x => x.2.quad == q && s.eligiblePass x.1 x.2 && !x.2.blocked)).filter
    (fun x => s.sameKey e x.2 && s.foreignBlocks q (s.entryContext x.2) x.2.rows == [])

theorem passGrant_eq {s : State} {q id : Nat} {e : REntry} {p : PassInfo} {g : Group}
    (hbusy : (s.quad q).busyUntil ≤ s.dieCycle (q / 24))
    (hbest : (s.blockPasses q).bestEntry ((s.blockPasses q).entries.filter (fun x => x.2.quad == q &&
      (s.blockPasses q).eligiblePass x.1 x.2 && !x.2.blocked && (s.blockPasses q).passReadyNow x.2)) = some (id, e))
    (hkind : e.kind = .pass p) (hhome : p.scratchB = false → ∀ k ∈ p.phys, (s.blockPasses q).homeWaits k = false)
    (hg : (((s.blockPasses q).grantAll q ((s.blockPasses q).fuse 3 [(id, e)] ((s.blockPasses q).passPool q e))).groups.find e.gid) =
      some g) :
    exec (.passGrant q) s = .next (((s.blockPasses q).grantAll q
      ((s.blockPasses q).fuse 3 [(id, e)] ((s.blockPasses q).passPool q e))).grantPass q (s.dieCycle (q / 24))
      ((s.blockPasses q).fuse 3 [(id, e)] ((s.blockPasses q).passPool q e)) g p) := by
  show execPassGrant q s = _
  unfold execPassGrant
  dsimp only
  rw [if_neg (Nat.not_lt.2 hbusy)]
  have hwait : (e.pass?.map (fun p => !p.scratchB && p.phys.any (s.blockPasses q).homeWaits)).getD false = false := by
    rw [pass?_of_kind hkind, Option.map_some, Option.getD_some, Bool.and_eq_false_imp]
    intro hs
    rw [List.any_eq_false]
    intro k hk
    rw [hhome (by simpa using hs) k hk]
    decide
  rw [List.filter_filter, List.filter_congr (fun x _ => Bool.and_comm ..), hbest]
  dsimp only
  rw [hwait, if_neg Bool.false_ne_true]
  unfold State.grantAll State.passPool at hg
  rw [hg, pass?_of_kind hkind]
  rfl

theorem sameKey_self {s : State} {e : REntry} {p : PassInfo} {g : Group} (hk : e.kind = .pass p)
    (hg : s.groups.find e.gid = some g) : s.sameKey e e = true := by
  simp [State.sameKey, hk, hg]

/-- What a grant takes: its first entry, and further ones of the same key that may be granted, no two writing a common row. -/
theorem fuse_pass {b : State} {q id : Nat} {e : REntry} {p : PassInfo} {g : Group}
    (hbest : b.bestEntry (b.entries.filter (fun x => x.2.quad == q && b.eligiblePass x.1 x.2 && !x.2.blocked && b.passReadyNow x.2)) =
      some (id, e))
    (hkind : e.kind = .pass p) (hg : b.groups.find e.gid = some g) :
    let es := b.fuse 3 [(id, e)] (b.passPool q e)
    es.head? = some (id, e) ∧ es.length ≤ 4 ∧ es.Pairwise RowsApart ∧
      ∀ y ∈ es, y ∈ b.entries ∧ b.sameKey e y.2 = true ∧ b.eligiblePass y.1 y.2 = true ∧ y.2.blocked = false := by
  obtain ⟨more, hfuse, hlen, hsub, hpair⟩ := fuse_spec b 3 [(id, e)] (b.passPool q e) (List.pairwise_singleton _ _)
  rw [hfuse]
  refine ⟨rfl, Nat.succ_le_succ hlen, hpair, List.forall_mem_cons.2 ⟨?_, fun y hy => ?_⟩⟩
  · obtain ⟨hmem, hcond⟩ := List.mem_filter.1 (mem_of_bestEntry hbest)
    simp only [Bool.and_eq_true, Bool.not_eq_true'] at hcond
    exact ⟨hmem, sameKey_self hkind hg, hcond.1.1.2, hcond.1.2⟩
  · obtain ⟨hy, hkey⟩ := List.mem_filter.1 (hsub hy)
    obtain ⟨hmem, hcond⟩ := List.mem_filter.1 hy
    simp only [Bool.and_eq_true, Bool.not_eq_true'] at hkey hcond
    exact ⟨hmem, hkey.1, hcond.1.2, hcond.2⟩

/-! The statement's parts. -/

theorem modPass_of_kind {e : REntry} {p : PassInfo} (h : e.kind = .pass p) (f : PassInfo → PassInfo) :
    e.modPass f = { e with kind := .pass (f p) } := by
  simp only [REntry.modPass, h]

/-- Four entries of a key that may be granted make each other ready from the next cycle on (10 R271). -/
theorem noteEligible_readyAt {s : State} {id : Nat} {e : REntry} {p : PassInfo} (he : s.entries.find id = some e) (hp : e.kind = .pass p)
    (hfour : s.fourWait e = true) (hready : p.readyAt = none) :
    (s.noteEligible e.quad).entries.find id =
      some { e with kind := .pass { p with readyAt := some (s.dieCycle (e.quad / 24) + 1) } } := by
  rw [noteEligible_find, he, Option.map_some, modPass_of_kind hp, hready, hfour, decide_eq_true rfl]
  rfl

theorem passReady_readyAt {s : State} {id : Nat} {e : REntry} {p : PassInfo} (he : s.entries.find id = some e) (hp : e.kind = .pass p)
    (hready : e.cycle + 16 ≤ s.dieCycle (e.quad / 24) ∨ ∃ c, p.readyAt = some c ∧ c ≤ s.dieCycle (e.quad / 24)) :
    ∃ t, exec (.passReady id) s = .next t ∧ t.entries.find id =
      some { e with kind := .pass { p with readyAt := some (p.readyAt.getD (s.dieCycle (e.quad / 24))) } } := by
  have hnow : s.passReadyNow e = true := by
    simp only [State.passReadyNow, hp, Bool.or_eq_true, decide_eq_true_eq]
    refine hready.imp_right fun ⟨c, hc, hle⟩ => ?_
    rw [hc]
    exact decide_eq_true hle
  refine ⟨s.modEntry id (fun e => e.modPass (fun p => { p with readyAt := p.readyAt.or (some (s.dieCycle (e.quad / 24))) })), ?_, ?_⟩
  · show execPassReady id s = _
    simp only [execPassReady, he, hnow, if_true]
  · rw [modEntry_find, he, Option.map_some, modPass_of_kind hp, Option.or_some]

theorem passPromotion_promoted {s : State} {id : Nat} {e : REntry} {p : PassInfo} (he : s.entries.find id = some e)
    (hp : e.kind = .pass p) : ∃ t, exec (.passPromotion id) s = .next t ∧
      t.entries.find id = some { e with kind := .pass (if 256 ≤ p.waited then { p with promoted := true } else p) } := by
  refine ⟨_, rfl, ?_⟩
  rw [modEntry_find, he, Option.map_some, modPass_of_kind hp]

/-- The pass that a grant begins: its entries, and B as memory or the team's scratch gives it. -/
theorem passGrant_grants {s b : State} {q id : Nat} {e : REntry} {p : PassInfo} {g : Group} (hb : b = s.blockPasses q)
    (hbusy : (s.quad q).busyUntil ≤ s.dieCycle (q / 24))
    (hbest : b.bestEntry (b.entries.filter (fun x => x.2.quad == q && b.eligiblePass x.1 x.2 && !x.2.blocked && b.passReadyNow x.2)) =
      some (id, e))
    (hp : e.kind = .pass p) (hg : s.groups.find e.gid = some g) (hhome : p.scratchB = false → ∀ k ∈ p.phys, b.homeWaits k = false) :
    ∃ (t : State) (n : Nat) (x : Pass), exec (.passGrant q) s = .next t ∧ t.passes.find n = some x ∧ x.quad = q ∧
      x.entries = (b.fuse 3 [(id, e)] (b.passPool q e)).map Prod.fst ∧
      ((s.quad q).saved = [] → p.scratchB = false → x.b = p.phys.flatMap (fun a => s.mem.readN a 16)) ∧
      (∀ z, p.scratchB = true → s.teams.find g.team = some z → x.b = p.phys.flatMap (fun a => z.scratch.readN a 16)) ∧
      (t.quad q).busyUntil = s.dieCycle (q / 24) + 2 := by
  subst hb
  obtain ⟨hgroups, hteams, hunsaved⟩ := grantAll_keeps (s.blockPasses q) q
    ((s.blockPasses q).fuse 3 [(id, e)] ((s.blockPasses q).passPool q e))
  obtain ⟨dead, hdead⟩ := hgroups.find_some hg
  refine ⟨_, _, _, passGrant_eq hbusy hbest hp hhome hdead, beginPass_pass .., rfl, rfl, fun hsaved hs => ?_, fun z hs hz => ?_,
    beginPass_busy ..⟩
  · rw [hs, engineReadAll_phys, (hunsaved hsaved).1]
    rfl
  · rw [hs, engineReadAll_scratch _ _ _ (z := z)]
    rw [hteams]
    exact hz

/-- Settles O34: readiness and promotion change their entry alone, a grant takes what `fuse` adds to its first entry and reads
B, and the rows of a pass that completes are written once each. -/
theorem passes : Obligations.Passes := by
  unfold Obligations.Passes
  refine ⟨⟨fun s id e p he hp => ⟨fun hfour hready => noteEligible_readyAt he hp (decide_eq_true hfour) hready, passReady_readyAt he hp⟩,
    fun s id e p => passPromotion_promoted, fun s q id e p g => ?granted⟩, fun s n x es hx hold hids hes hrows => ?complete⟩
  case granted =>
    intro b hbusy hbest hp hg hhome
    obtain ⟨hhead, hlen, hpair, hall⟩ := fuse_pass hbest hp hg
    obtain ⟨t, n, x, ht, hx, hquad, hids, hmem, hscratch, hbusy'⟩ := passGrant_grants rfl hbusy hbest hp hg hhome
    exact ⟨t, n, x, _, ht, hx, hquad, hids, hhead, hlen, hall, hmem, hscratch, hpair, hbusy'⟩
  case complete =>
    obtain ⟨t, ht, hpass, hgone, hrow, hout⟩ := passComplete_rows hx hold hids (fun y hy => (hes y hy).1)
      (fun y hy => (hes y hy).2.2) hrows
    refine ⟨t, ht, hpass, hgone, fun y hy p hp L hL => ?_, fun r _ hr => hout r hr⟩
    exact hrow y hy _ (passRow_mem_entryRows s x hp hL)

end Sys2Proof.Machine

/-! A replayed launch that diverges at its last request (19 R488; 17 R443). -/

namespace Sys2Proof.Machine

open Sys2Proof

/-- A group of a recording launch whose ended run still has 7 to land in lane 0 of v0. -/
def replayedGroup : Group :=
  let g := Group.start (LaunchRec.of []) ⟨0, 0, 0, 0, 0, 0, 0, 0, 0, 0, 0, 0, 0⟩
  { g with cfg := { g.cfg with record := true }, sc := { g.sc with late := [⟨0, [.vElem 0 0 7]⟩] } }

/-- An MST of that group: lane 0 of row 0 goes to v0. -/
def replayedStore : REntry := ⟨0, 0, 9, 0, 0, 0, 0, 1, 0, .mstReg 0 1, false, false, [], 0⟩

/-- The instruction of that entry. -/
def replayedOp : VOp := ⟨0, 0, .comp, .request, true, .load, 1, 0, none, [], [], false, [], 0, [], none, ⟨2, false, false, 0⟩, 0, 1⟩

/-- The machine after reset with that group, whose function replays and has no record left, and with row block 0 its context's. -/
def replayedState : State :=
  let s : State := { State.reset with groups := [(0, replayedGroup)], ops := [(9, replayedOp)], entries := [(20, replayedStore)] }
  (s.modQuad 0 (fun x => { x with owners := [(0, replayedGroup.context)] })).modFn 0 (fun x => { x with ymode := 2 })

/-- Lane 0 of v0 of group 0. -/
def laneZeroOf : Host.Outcome State Fault Refusal → Option Word
  | .next t => (t.groups.find 0).map (fun h => h.vElem 0 0)
  | _ => none

/-- The entry's departure matches no record, so that the launch is killed and its quiet group finishes: what the ended run still
owed lands after the row did. -/
theorem laneZeroOf_mstEntry : laneZeroOf (exec (.mstEntry 20) replayedState) = some 7 := by decide +kernel

theorem replayedStore_owned : ∀ r ∈ replayedStore.rows,
    (replayedState.quad 0).owners.find (r / 32) = some (replayedState.entryContext replayedStore) := by decide +kernel

theorem replayedState_rowZero : (replayedState.accRow 0 0).psn = false ∧ (replayedState.accRow 0 0).word 0 0 = 0 := by
  decide +kernel

/-- Refutes O35: MST's row lands in the registers (log 39), but where a replayed launch diverges as the entry leaves the table,
the launch is killed, its group finishes at once, and the results that an ended run of it still owed land over the row's words. -/
theorem not_rowRequests : ¬ Obligations.RowRequests := by
  unfold Obligations.RowRequests
  rintro ⟨-, -, -, hmst, -⟩
  obtain ⟨hpsn, hword⟩ := replayedState_rowZero
  have hrows : ∀ i, i < 1 → (replayedState.accRow 0 ((0 + i) % 4096)).psn = false := by
    intro i hi
    obtain rfl : i = 0 := Nat.lt_one_iff.1 hi
    exact hpsn
  have hclean : ∀ o, replayedState.ops.find 9 = some o → o.poisoned = none ∧ o.flags = [] := by
    intro o ho
    obtain rfl := Option.some_inj.1 ho
    exact ⟨rfl, rfl⟩
  have halive : ∀ y ∈ replayedState.groups, y.2.killed = false := by
    intro y hy
    obtain rfl := List.mem_singleton.1 hy
    rfl
  obtain ⟨t, ht, -, -, hlands⟩ := hmst replayedState 20 replayedStore 0 1 replayedGroup
    ⟨rfl, rfl, by decide, by decide +kernel, replayedStore_owned⟩ rfl rfl (by decide) (by decide) hrows hclean rfl rfl
    (by decide +kernel) halive
  have hseven : (t.groups.find 0).map (fun h => h.vElem 0 0) = some 7 := by
    have := laneZeroOf_mstEntry
    rwa [ht] at this
  obtain ⟨h, hh, hlane⟩ := Option.map_eq_some_iff.1 hseven
  have hrow : h.vElem 0 0 = 0 := (hlands h hh 0 (by decide) 0 (by decide)).trans hword
  exact absurd (hlane.symm.trans hrow) (by decide)

end Sys2Proof.Machine

/-! Ordered accesses that are served, and what a served access makes of granules, lines and permissions (13 R336 to R347). -/

namespace Sys2Proof.Machine

open Sys2Proof

/-! Which access is served. -/

theorem ops_of_nextOrdered {s : State} {op : Nat} {o : VOp} {a : LaneAccess} (h : s.nextOrdered op = some (o, a)) :
    s.ops.find op = some o := by
  unfold State.nextOrdered at h
  split at h
  · next p hp =>
    split at h
    · split at h
      · cases h
        exact hp
      · cases h
    · cases h
  · cases h

theorem mem_requestsFor {s : State} {gr : Nat} {ids : List Nat} {r : Nat × Nat × LaneAccess} (h : r ∈ s.requestsFor gr ids) :
    r.2.2.space = .phys ∧ granuleOf r.2.2.addr = gr := by
  obtain ⟨id, -, hid⟩ := List.mem_filterMap.1 h
  obtain ⟨x, -, hx⟩ := Option.bind_eq_some_iff.1 hid
  split at hx
  · next hplace =>
    obtain ⟨g, -, rfl⟩ := Option.map_eq_some_iff.1 hx
    exact hplace
  · cases hx

/-- The request that is served next is one to memory of that granule. -/
theorem nextRequest_some {s : State} {gr : Nat} {p : Nat × Nat × LaneAccess → Bool} {r : Nat × Nat × LaneAccess}
    (h : s.nextRequest gr p = some r) : p r = true ∧ r.2.2.space = .phys ∧ granuleOf r.2.2.addr = gr := by
  unfold State.nextRequest at h
  split at h
  · next x xs hx =>
    split at h
    · next hp =>
      cases h
      exact ⟨hp, mem_requestsFor (hx ▸ List.mem_cons_self)⟩
    · cases h
  · have hp := List.find?_some h
    exact ⟨(Bool.and_eq_true_iff.1 hp).1, mem_requestsFor (List.mem_of_find?_eq_some h)⟩

/-! What serving an access changes. -/

theorem checkTbar_frame (s : State) (tid : Nat) (st : Stream) (n : Nat) : ∃ ts, s.checkTbar tid st n = { s with teams := ts } := by
  unfold State.checkTbar
  split
  · exact ⟨s.teams, rfl⟩
  · dsimp only
    split
    · exact ⟨_, rfl⟩
    · exact ⟨s.teams, rfl⟩

theorem afterOrdered_frame (s : State) (gid : Nat) : ∃ ts, s.afterOrdered gid = { s with teams := ts } := by
  unfold State.afterOrdered
  split
  · split
    · next g _ _ =>
      refine List.foldlRecOn (motive := fun x : State => ∃ ts, x = { s with teams := ts }) _ _ ⟨s.teams, rfl⟩ ?_
      rintro _ ⟨ts, rfl⟩ n -
      obtain ⟨us, hus⟩ := checkTbar_frame { s with teams := ts } g.team .addr n
      exact ⟨us, hus⟩
    · exact ⟨s.teams, rfl⟩
  · exact ⟨s.teams, rfl⟩

/-- A served access is performed and waits at its home no longer; besides, only barriers and the slots that wait change. -/
theorem serve_frame (s : State) (op core : Nat) (a : LaneAccess) : ∃ ts rs, s.serve op core a =
    { s.performAccess op core a with
      home := (s.performAccess op core a).home.filter (fun k => k != op), teams := ts, runs := rs } := by
  unfold State.serve
  cases s.ops.find op with
  | none => exact ⟨_, _, rfl⟩
  | some o =>
    obtain ⟨ts, hts⟩ := afterOrdered_frame
      { s.performAccess op core a with home := (s.performAccess op core a).home.filter (fun k => k != op) } o.gid
    exact ⟨ts, _, congrArg State.wake hts⟩

section
variable (s : State) (op core : Nat) (a : LaneAccess)

theorem serve_mem : (s.serve op core a).mem = (s.performAccess op core a).mem := by
  obtain ⟨_, _, h⟩ := serve_frame s op core a; rw [h]

theorem serve_ops : (s.serve op core a).ops = (s.performAccess op core a).ops := by
  obtain ⟨_, _, h⟩ := serve_frame s op core a; rw [h]

theorem serve_home : op ∉ (s.serve op core a).home := by
  obtain ⟨_, _, h⟩ := serve_frame s op core a
  rw [h]
  simp

/-- The pending instruction after its access is performed has no access of that lane left. -/
theorem performAccess_ops_find : ∃ f : VOp → VOp, (∀ o, (f o).todo = o.todo.filter (fun b => b.lane != a.lane)) ∧
    (s.performAccess op core a).ops.find op = (s.ops.find op).map f := by
  obtain ⟨t, f, ht, hf, heq⟩ : ∃ (t : State) (f : VOp → VOp), t.ops = s.ops ∧
      (∀ o, (f o).todo = o.todo.filter (fun b => b.lane != a.lane)) ∧ s.performAccess op core a = t.modOp op f := by
    refine ⟨_, _, ?_, fun _ => rfl, rfl⟩
    split <;> split <;> simp
  exact ⟨f, hf, by rw [heq, modOp_find, ht]⟩

variable {s op core a}

theorem serve_todo {p : VOp} (hp : (s.serve op core a).ops.find op = some p) : ∀ b ∈ p.todo, b.lane ≠ a.lane := by
  obtain ⟨f, hf, hfind⟩ := performAccess_ops_find s op core a
  rw [serve_ops, hfind] at hp
  obtain ⟨o, -, rfl⟩ := Option.map_eq_some_iff.1 hp
  intro b hb
  rw [hf] at hb
  simpa using (List.mem_filter.1 hb).2

theorem serve_ops_isSome {o : VOp} (ho : s.ops.find op = some o) : ∃ p, (s.serve op core a).ops.find op = some p := by
  obtain ⟨f, -, hfind⟩ := performAccess_ops_find s op core a
  exact ⟨f o, by rw [serve_ops, hfind, ho, Option.map_some]⟩

theorem serve_mem_of_load (h : a.act = .load) : (s.serve op core a).mem = s.mem := by
  rw [serve_mem, performAccess_mem, h]
  rfl

/-- Without viral containment a served store leaves its bytes in memory, and every other byte as it was. -/
theorem serve_mem_of_store {x : Nat} (h : a.act = .store x) (hp : a.space = .phys) (hv : s.viral = false) (hwf : s.mem.wf = true) :
    (s.serve op core a).mem.readN a.addr a.size = bytesOfNat a.size x ∧
      sameOutside s.mem (s.serve op core a).mem a.addr a.size := by
  rw [serve_mem]
  refine ⟨?_, fun k hk => performAccess_read_out s op core a fun _ => hk⟩
  have hread := Bytes.readN_writeN hwf a.addr (bytesOfNat a.size x)
  rw [bytesOfNat_length] at hread
  have hvalue : a.act.newValue a.size (s.readPerformed op a).1 = some x := by rw [h]; rfl
  rw [performAccess_mem, hvalue]
  simp [hp, State.viralBlocks, hv, hread]

end

/-! Granules, lines and permissions. -/

/-- What the classifier and the directory hold: the states of granules, the lines, and the cores with their permissions. -/
def State.directory (s : State) : Assoc GState × Assoc Line × Assoc Core := (s.granules, s.lines, s.cores)

theorem directory_eq {s t : State} (h : s.directory = t.directory) : s.granules = t.granules ∧ s.lines = t.lines ∧ s.cores = t.cores := by
  simpa [State.directory] using h

theorem Recorded.directory {s t : State} (h : Recorded s t) : t.directory = s.directory := by
  obtain ⟨_, _, _, _, _, rfl, -, -, -⟩ := h; rfl

theorem writeAccess_directory (s : State) (a : LaneAccess) (x : Nat) : (s.writeAccess a x).directory = s.directory := by
  unfold State.writeAccess
  split
  · obtain ⟨_, h⟩ := writeBytes_frame s a.addr (bytesOfNat a.size x)
    rw [h]
    rfl
  · rfl
  · rfl

/-- A served access to memory is classified once, and nothing else changes the directory. -/
theorem serve_directory {a : LaneAccess} (hp : a.space = .phys) (s : State) (op core : Nat) :
    (s.serve op core a).directory = ((s.recordAccess op a).classify a.addr (core / 96) (some core) a.act.writes).directory := by
  have hperform : (s.serve op core a).directory = (s.performAccess op core a).directory := by
    obtain ⟨_, _, h⟩ := serve_frame s op core a
    rw [h]
    rfl
  have hchange := (opChange_frame ((s.recordAccess op a).classify a.addr (core / 96) (some core) a.act.writes)
    (s.recordAccess op a) op a).directory
  rw [hperform]
  unfold State.performAccess
  simp only [hp]
  split
  · exact (writeAccess_directory ..).trans hchange
  · exact hchange

/-- The drain and the invalidation that come before a granule's next state (13 R339, R341). -/
def State.opened (s : State) (gr : Nat) (core : Option Nat) (write : Bool) : State :=
  if write then (s.drainFor gr core write).invalidateReadonly gr else s.drainFor gr core write

@[simp] theorem clearL1_granules (s : State) (gr : Nat) : (s.clearL1 gr).granules = s.granules := rfl

@[simp] theorem dropPerms_granules (s : State) (gr : Nat) : (s.dropPerms gr).granules = s.granules := rfl

theorem invalidateReadonly_of_ne {s : State} {gr : Nat} (h : s.granules.find gr ≠ some .readonly) : s.invalidateReadonly gr = s := by
  unfold State.invalidateReadonly
  split
  · next hro => exact absurd hro h
  · rfl

theorem drainFor_of_foreign {s : State} {gr c : Nat} {w : Bool} {core : Option Nat} (hg : s.granules.find gr = some (.priv c w))
    (hc : core ≠ some c) (write : Bool) : s.drainFor gr core write =
      let x := s.setGranule gr (if write || w then .shared else .readonly)
      if w || write then (x.clearL1 gr).dropPerms gr else x := by
  simp [State.drainFor, hg, hc, granuleNext]

theorem drainFor_of_ne_priv {s : State} {gr : Nat} (h : ∀ c w, s.granules.find gr ≠ some (.priv c w)) (core : Option Nat)
    (write : Bool) : s.drainFor gr core write = s := by
  unfold State.drainFor
  split
  · next c w hg => exact absurd hg (h c w)
  · rfl

/-- A PRIVATE granule that must become SHARED: every L1 and every core gives it up. -/
theorem opened_of_foreign {s : State} {gr c : Nat} {w write : Bool} {core : Option Nat} (hg : s.granules.find gr = some (.priv c w))
    (hc : core ≠ some c) (hw : (w || write) = true) :
    s.opened gr core write = ((s.setGranule gr .shared).clearL1 gr).dropPerms gr := by
  have hdrain : s.drainFor gr core write = ((s.setGranule gr .shared).clearL1 gr).dropPerms gr := by
    simp [drainFor_of_foreign hg hc, Bool.or_comm write w, hw]
  unfold State.opened
  split
  · rw [hdrain]
    exact invalidateReadonly_of_ne (by simp [setGranule_find])
  · exact hdrain

theorem opened_of_readonly {s : State} {gr : Nat} (hg : s.granules.find gr = some .readonly) (core : Option Nat) :
    s.opened gr core true = ((s.clearLines gr).dropPerms gr).setGranule gr .shared := by
  simp [State.opened, drainFor_of_ne_priv (s := s) (gr := gr) (by simp [hg]), State.invalidateReadonly, hg]

/-- The drain and the invalidation anticipate the granule's next state and do not alter it. -/
theorem granuleNext_opened (s : State) (gr : Nat) (core : Option Nat) (write : Bool) :
    granuleNext ((s.opened gr core write).granules.find gr) core write = granuleNext (s.granules.find gr) core write := by
  have hsame : (∀ c w, s.granules.find gr ≠ some (.priv c w)) → s.granules.find gr ≠ some .readonly → s.opened gr core write = s := by
    intro hpriv hro
    unfold State.opened
    rw [drainFor_of_ne_priv hpriv, invalidateReadonly_of_ne hro, ite_self]
  rcases hg : s.granules.find gr with _ | (⟨c, w⟩ | _ | _)
  case none => rw [hsame (by simp [hg]) (by simp [hg]), hg]
  case some.shared => rw [hsame (by simp [hg]) (by simp [hg]), hg]
  case some.readonly =>
    cases write with
    | false => simp [State.opened, drainFor_of_ne_priv (s := s) (gr := gr) (by simp [hg]), hg]
    | true => rw [opened_of_readonly hg, setGranule_find]; rfl
  case some.priv =>
    by_cases hc : core = some c
    · have hdrain : s.drainFor gr core write = s := by simp [State.drainFor, hg, hc]
      unfold State.opened
      rw [hdrain, invalidateReadonly_of_ne (by simp [hg]), ite_self, hg]
    · cases hw : w || write with
      | true =>
        rw [opened_of_foreign hg hc hw]
        simp [setGranule_find, granuleNext, hc, Bool.or_comm write w, hw]
      | false =>
        obtain ⟨rfl, rfl⟩ := Bool.or_eq_false_iff.1 hw
        simp [State.opened, drainFor_of_foreign hg hc, setGranule_find, granuleNext, hc]

/-- A classified access takes its granule to the next state of 13 Table 13.2. -/
theorem classify_granule (s : State) (key die : Nat) (core : Option Nat) (write : Bool) :
    (s.classify key die core write).granules.find (granuleOf key) =
      some (granuleNext (s.granules.find (granuleOf key)) core write) := by
  have hperm : ∀ (x : State) (c : Nat), (x.usePerm c (granuleOf key)).granules = x.granules := by
    intro x c
    obtain ⟨_, _, h⟩ := usePerm_frame x c (granuleOf key)
    rw [h]
  rw [← granuleNext_opened]
  unfold State.classify State.opened
  dsimp only
  split <;> simp [hperm, setGranule_find]

/-- An access to a granule that is SHARED from now on stays out of the L1s and takes no permission (13 R342). -/
theorem classify_of_shared {s : State} {key : Nat} {core : Option Nat} {write : Bool}
    (h : granuleNext (s.granules.find (granuleOf key)) core write = .shared) (die : Nat) :
    (s.classify key die core write).lines = (s.opened (granuleOf key) core write).lines.set (key / 128)
        (((s.opened (granuleOf key) core write).lines.getD (key / 128) Line.none).after die core write false) ∧
      (s.classify key die core write).cores = (s.opened (granuleOf key) core write).cores := by
  rw [← granuleNext_opened] at h
  unfold State.classify
  unfold State.opened at h ⊢
  simp only [h]
  cases core <;> exact ⟨rfl, rfl⟩

theorem lineIn_iff {gr line : Nat} : lineIn gr line = true ↔ line / 32 = gr := beq_iff_eq

theorem line_granuleOf (key : Nat) : key / 128 / 32 = granuleOf key := Nat.div_div_eq_div_mul key 128 32

/-- An access that bypasses the L1s leaves none of them the line, where none held it before. -/
theorem Line.after_l1 {l : Line} (h : l.l1 = []) (die : Nat) (core : Option Nat) (write : Bool) :
    (l.after die core write false).l1 = [] := by
  cases write with
  | true => rfl
  | false => cases core <;> exact h

theorem getD_l1 {ls : Assoc Line} {line : Nat} (h : ∀ l, ls.find line = some l → l.l1 = []) : (ls.getD line Line.none).l1 = [] := by
  unfold Assoc.getD
  cases hl : ls.find line with
  | none => rfl
  | some l => exact h l hl

theorem clearL1_l1 {s : State} {gr line : Nat} {l : Line} (hl : (s.clearL1 gr).lines.find line = some l) (hgr : line / 32 = gr) :
    l.l1 = [] := by
  have hfind := Assoc.find_map s.lines line (fun k l => if lineIn gr k then { l with l1 := [], l1Dirty := false } else l)
  have hmap : (s.clearL1 gr).lines =
      s.lines.map (fun e => (e.1, if lineIn gr e.1 then { e.2 with l1 := [], l1Dirty := false } else e.2)) :=
    List.map_congr_left fun e _ => by split <;> rfl
  rw [hmap, hfind] at hl
  obtain ⟨m, -, rfl⟩ := Option.map_eq_some_iff.1 hl
  rw [if_pos (lineIn_iff.2 hgr)]

theorem Line.forget_some {l m : Line} (h : l.forget = some m) : m = { Line.none with host := true } := by
  unfold Line.forget at h
  split at h <;> cases h
  rfl

/-- Of a line that no cache of the device holds any more, at most the host's copy is left. -/
theorem forgetLines_find {ls : Assoc Line} {p : Nat → Bool} {k : Nat} {l : Line} (hp : p k = true)
    (h : (forgetLines ls p).find k = some l) : l = { Line.none with host := true } := by
  obtain ⟨⟨i, m⟩, -, he⟩ := List.mem_filterMap.1 (Assoc.mem_of_find h)
  split at he
  · obtain ⟨n, hn, heq⟩ := Option.map_eq_some_iff.1 he
    cases heq
    exact Line.forget_some hn
  · next hi =>
    cases he
    exact absurd hp hi

theorem forgetLines_find_ne (ls : Assoc Line) {p : Nat → Bool} {k : Nat} (hp : p k = false) :
    (forgetLines ls p).find k = ls.find k := by
  induction ls with
  | nil => rfl
  | cons e r ih =>
    obtain ⟨i, m⟩ := e
    unfold forgetLines at ih ⊢
    by_cases hi : i = k
    · subst hi
      simp [hp, Assoc.find]
    · rw [List.filterMap_cons]
      split
      · simpa [Assoc.find, hi] using ih
      · next e he =>
        have hkey : e.1 = i := by
          split at he
          · obtain ⟨_, -, rfl⟩ := Option.map_eq_some_iff.1 he
            rfl
          · cases he
            rfl
        obtain ⟨j, n⟩ := e
        cases hkey
        simpa [Assoc.find, hi] using ih

theorem not_mem_dropPerms {s : State} {gr k : Nat} {c : Core} (h : (s.dropPerms gr).cores.find k = some c) : gr ∉ c.perms := by
  obtain ⟨e, -, heq⟩ := List.mem_map.1 (Assoc.mem_of_find h)
  cases heq
  simp

end Sys2Proof.Machine

/-! Events of the memory system (13 R337 to R349; 19 R482). -/

namespace Sys2Proof.Machine

open Sys2Proof

theorem orderedAccess_performed {s : State} {op : Nat} {o : VOp} {a : LaneAccess} {g : Group} (hn : s.nextOrdered op = some (o, a))
    (hg : s.groups.find o.gid = some g) (hp : s.performable op g.core a = true) :
    execOrderedAccess op s = .next (s.serve op g.core a) := by
  simp [execOrderedAccess, hn, hg, hp]

theorem orderedAccess_arrives {s : State} {op : Nat} {o : VOp} {a : LaneAccess} {g : Group} (hn : s.nextOrdered op = some (o, a))
    (hg : s.groups.find o.gid = some g) (hp : s.performable op g.core a = false) (hh : s.home.contains op = false)
    (ha : s.arrivesHome g.core a = true) :
    execOrderedAccess op s = .next { s.waitHome g.die a.addr with home := s.home ++ [op] } := by
  simp only [execOrderedAccess, hn, hg, hp, hh, ha]
  rfl

theorem waitHome_ops (s : State) (die key : Nat) : (s.waitHome die key).ops = s.ops := by
  unfold State.waitHome
  split <;> rfl

theorem orderedAccess_stays {s : State} {op : Nat} {o : VOp} {a : LaneAccess} {g : Group} (hn : s.nextOrdered op = some (o, a))
    (hg : s.groups.find o.gid = some g) (hp : s.performable op g.core a = false)
    (h : s.home.contains op = true ∨ s.arrivesHome g.core a = false) : execOrderedAccess op s = .next s := by
  have hstay : (s.home.contains op || !s.arrivesHome g.core a) = true := by simpa using h
  simp only [execOrderedAccess, hn, hg, hp, hstay]
  rfl

theorem drain_serves {s : State} {gr c op core : Nat} {w : Bool} {a : LaneAccess} (hg : s.granules.find gr = some (.priv c w))
    (hr : s.nextRequest gr (fun r => r.2.1 != c) = some (op, core, a)) : execDrain gr s = .next (s.serve op core a) := by
  simp [execDrain, hg, hr]

/-- A PRIVATE granule after another core's access: what it becomes, and where it becomes SHARED no L1 holds a line of it. -/
theorem serve_foreign {s : State} {c op core : Nat} {w : Bool} {a : LaneAccess} (hp : a.space = .phys)
    (hg : s.granules.find (granuleOf a.addr) = some (.priv c w)) (hc : core ≠ c) :
    (s.serve op core a).granules.find (granuleOf a.addr) = some (if w || a.act.writes then .shared else .readonly) ∧
      ((w || a.act.writes) = true → ∀ line l, (s.serve op core a).lines.find line = some l → line / 32 = granuleOf a.addr →
        l.l1 = []) := by
  obtain ⟨hgs, hls, -⟩ := directory_eq (serve_directory hp s op core)
  obtain ⟨hrec, -, -⟩ := directory_eq (recordAccess_frame s op a).directory
  have hnext : granuleNext (some (.priv c w)) (some core) a.act.writes = if w || a.act.writes then .shared else .readonly := by
    simp [granuleNext, hc, Bool.or_comm a.act.writes w]
  rw [← hrec] at hg
  rw [hgs, hls, classify_granule, hg, hnext]
  refine ⟨rfl, fun hw line l hl hgr => ?_⟩
  have hcore : some core ≠ some c := fun h => hc (Option.some.inj h)
  rw [(classify_of_shared (by rw [hg, hnext, hw]; rfl) (core / 96)).1, opened_of_foreign hg hcore hw] at hl
  by_cases hline : line = a.addr / 128
  · rw [hline, Assoc.find_set] at hl
    cases hl
    exact Line.after_l1 (getD_l1 fun m hm => clearL1_l1 hm (line_granuleOf a.addr)) ..
  · rw [Assoc.find_set_ne _ _ hline] at hl
    exact clearL1_l1 hl hgr

theorem readonlyInvalidation_serves {s : State} {gr op core : Nat} {a : LaneAccess} (hg : s.granules.find gr = some .readonly)
    (hr : s.nextRequest gr (fun r => r.2.2.act.writes) = some (op, core, a)) :
    execReadonlyInvalidation gr s = .next (s.serve op core a) := by
  simp [execReadonlyInvalidation, hg, hr]

/-- A READONLY granule after a write: it is SHARED, the writer's die alone holds the line written, and no copy of any other line
and no permission is left. -/
theorem serve_write_readonly {s : State} {op core : Nat} {a : LaneAccess} (hp : a.space = .phys) (hw : a.act.writes = true)
    (hg : s.granules.find (granuleOf a.addr) = some .readonly) :
    (s.serve op core a).granules.find (granuleOf a.addr) = some .shared ∧
      (∀ line l, (s.serve op core a).lines.find line = some l → line / 32 = granuleOf a.addr → l.l1 = [] ∧
        (if line = a.addr / 128 then l.owner = some (core / 96) ∧ l.sharers = [core / 96] else l.sharers = [] ∧ l.dirty = false)) ∧
      (∀ k c, (s.serve op core a).cores.find k = some c → granuleOf a.addr ∉ c.perms) := by
  obtain ⟨hgs, hls, hcs⟩ := directory_eq (serve_directory hp s op core)
  obtain ⟨hrec, -, -⟩ := directory_eq (recordAccess_frame s op a).directory
  rw [← hrec] at hg
  rw [hw] at hgs hls hcs
  obtain ⟨hlines, hcores⟩ := classify_of_shared (s := s.recordAccess op a) (key := a.addr) (core := some core) (write := true)
    (by rw [hg]; rfl) (core / 96)
  rw [opened_of_readonly hg] at hlines hcores
  rw [hgs, hls, hcs, hlines, hcores, classify_granule, hg]
  refine ⟨rfl, fun line l hl hgr => ?_, fun k c hc => not_mem_dropPerms hc⟩
  by_cases hline : line = a.addr / 128
  · rw [hline, Assoc.find_set] at hl
    cases hl
    rw [if_pos hline]
    exact ⟨rfl, rfl, rfl⟩
  · rw [Assoc.find_set_ne _ _ hline] at hl
    rw [if_neg hline, forgetLines_find (lineIn_iff.2 hgr) hl]
    exact ⟨rfl, rfl, rfl⟩

theorem earlyClean_cleans {s : State} {line : Nat} (h : s.keepsDirty line = false) :
    execEarlyClean line s = .next { s with lines := s.lines.modify line (fun l => { l with dirty := l.l1Dirty }) } := by
  simp [execEarlyClean, h]

theorem earlyClean_kept {s : State} {line : Nat} (h : s.keepsDirty line = true) : execEarlyClean line s = .next s := by
  simp [execEarlyClean, h]

/-- A line that was recalled: no die holds it, in no L1, and it is not modified. -/
theorem forgetLines_gone {ls : Assoc Line} {p : Nat → Bool} {k : Nat} {l : Line} (hp : p k = true)
    (h : (forgetLines ls p).find k = some l) : l.sharers = [] ∧ l.l1 = [] ∧ l.dirty = false := by
  rw [forgetLines_find hp h]
  exact ⟨rfl, rfl, rfl⟩

theorem directoryEccError_line (s : State) (line : Nat) : ∃ t, execDirectoryEccError line false s = .next t ∧ t.mem = s.mem ∧
    t.dirErrors = s.dirErrors ++ [(line, false)] ∧
    (∀ l, t.lines.find line = some l → l.sharers = [] ∧ l.l1 = [] ∧ l.dirty = false) ∧
    ∀ k, k ≠ line → t.lines.find k = s.lines.find k :=
  ⟨{ s with dirErrors := s.dirErrors ++ [(line, false)], lines := forgetLines s.lines (fun n => n == line) }, rfl, rfl, rfl,
    fun _ hl => forgetLines_gone (p := fun n => n == line) (beq_self_eq_true line) hl,
    fun k hk => forgetLines_find_ne s.lines (p := fun n => n == line) (k := k) (beq_false_of_ne hk)⟩

theorem directoryEccError_granule (s : State) (line : Nat) : ∃ t, execDirectoryEccError line true s = .next t ∧ t.mem = s.mem ∧
    t.dirErrors = s.dirErrors ++ [(line, true)] ∧ t.granules.find (line / 32) = some .shared ∧
    ∀ k l, k / 32 = line / 32 → t.lines.find k = some l → l.sharers = [] ∧ l.l1 = [] ∧ l.dirty = false :=
  ⟨((({ s with dirErrors := s.dirErrors ++ [(line, true)] }.clearLines (line / 32)).dropPerms (line / 32)).setGranule
      (line / 32) .shared).wake, rfl, rfl, rfl, setGranule_find ..,
    fun _ _ hk hl => forgetLines_gone (ls := s.lines) (lineIn_iff.2 hk) hl⟩

end Sys2Proof.Machine

/-! Requests of the host within a block of 16 bytes, and snoops (13 R330, R522; 19 R475). -/

namespace Sys2Proof.Machine

open Sys2Proof

/-- A request within a 16-byte block is one piece. -/
theorem hostPieces_of_block {a n : Nat} (hn : 0 < n) (h : a % 16 + n ≤ 16) : hostPieces a n = [(0, a, n)] := by
  have hblocks : (a % 16 + n + 15) / 16 = 1 := by omega
  have hlo : Nat.max a (16 * (a / 16)) = a := Nat.max_eq_left (by omega)
  have hhi : Nat.min (a + n) (16 * (a / 16) + 16) = a + n := Nat.min_eq_left (by omega)
  simp [hostPieces, blocksOf, hblocks, hlo, hhi]

section
variable {s : State} {a n : Nat} (hn : 0 < n) (hb : a % 16 + n ≤ 16)
include hn hb

/-- Device memory that no partition owns has no place for the host (log 29). -/
theorem hostRequest_refused (ha : a < hostBase) (he : s.exposed a = false) : execHostRequest a (.read n) s = .fault (.noMemory a) := by
  simp [execHostRequest, hostLength, hostPieces_of_block hn hb, ha, he]

/-- The host's own access to host memory. -/
theorem hostRequest_own (ha : hostBase ≤ a) (hl : s.lineBusy (a / 128) = false) (access : HostAccess) (hlen : hostLength access = n) :
    execHostRequest a access s = .next (s.hostOwn access (0, a, n)).wake := by
  simp [execHostRequest, hlen, hostPieces_of_block hn hb, ha, hl, Nat.not_lt.2 ha]

/-- The host's access to device memory. -/
theorem hostRequest_device (ha : a < hostBase) (he : s.exposed a = true) (hm : s.inMotion a = false) (hw : s.homeWaits a = false)
    (access : HostAccess) (hlen : hostLength access = n) :
    execHostRequest a access s = .next ((s.hostPiece access (0, a, n)).answerHost a access).wake := by
  simp [execHostRequest, hlen, hostPieces_of_block hn hb, Nat.not_le.2 ha, he, hm, hw]

end

/-- What stands in memory after bytes were written from `a` up. -/
theorem writeN_written {m : Bytes} (h : m.wf = true) (a : Nat) {bs : List Byte} {n : Nat} (hlen : bs.length = n) :
    (m.writeN a bs).readN a n = bs ∧ sameOutside m (m.writeN a bs) a n := by
  subst hlen
  exact ⟨Bytes.readN_writeN h a bs, fun _ hk => Bytes.read_writeN_out m a bs hk⟩

theorem hostOwn_write_mem (s : State) (a : Nat) (bs : List Byte) :
    (s.hostOwn (.write bs) (0, a, bs.length)).mem = s.mem.writeN a bs := by
  simp [State.hostOwn]

theorem hostPiece_write_mem {a : Nat} (ha : a < hostBase) (s : State) (bs : List Byte) :
    (s.hostPiece (.write bs) (0, a, bs.length)).mem = s.mem.writeN a bs := by
  have hblocks : (s.classify a (homeDie a) none true).viralBlocks a = false := by
    simp [State.viralBlocks, Nat.not_le.2 ha]
  simp [State.hostPiece, writeBytes_mem_of_not_blocked hblocks]

/-- The data of a read is what memory held, with the poison it had. -/
theorem hostPiece_read_toHost (s : State) (a n : Nat) :
    ((s.hostPiece (.read n) (0, a, n)).answerHost a (.read n)).toHost =
      s.toHost ++ [(a, .data (s.mem.readN a n) (s.slotPoison a n))] := by
  obtain ⟨_, _, _, _, h⟩ := classify_frame s a (homeDie a) none false
  simp only [State.hostPiece, h]
  rfl

/-- SNOOP on a line that no access in progress holds. -/
theorem snoop_answers {s : State} {line : Nat} (h : s.lineBusy line = false) (invalidate : Bool) : ∃ t,
    execSnoop line invalidate s = .next t ∧ t.mem = s.mem ∧ t.toHost = s.toHost ++ [(line, s.snoopAnswer line)] ∧
      t.lines = (s.snoopLine line invalidate).lines := by
  refine ⟨{ s.snoopLine line invalidate with
    toHost := s.toHost ++ [(line, s.snoopAnswer line)], lost := s.lost.filter (fun x => x != line) }, ?_, snoopLine_mem .., rfl, rfl⟩
  simp [execSnoop, h]

/-- Settles O43: an ordered access is served by ORDERED_ACCESS, DRAIN or READONLY_INVALIDATION alike, and its classification says what
becomes of its granule, the lines and the permissions; each of the other events has its equation. -/
theorem memorySystemEvents : Obligations.MemorySystemEvents := by
  unfold Obligations.MemorySystemEvents
  refine ⟨?_, ?_, ?_, ?_, fun s line => ⟨?_, earlyClean_kept, directoryEccError_line s line, directoryEccError_granule s line⟩,
    fun s a n hn hb => ⟨hostRequest_refused hn hb, ?_, ?_⟩, ?_⟩
  · intro s op o a g hnext hg hp
    obtain ⟨p, hfind⟩ := serve_ops_isSome (core := g.core) (a := a) (ops_of_nextOrdered hnext)
    exact ⟨_, p, orderedAccess_performed hnext hg hp, hfind, serve_todo hfind, serve_mem_of_load, fun _ => serve_mem_of_store⟩
  · intro s op o a g hnext hg hp
    refine ⟨fun hh ha => ⟨_, orderedAccess_arrives hnext hg hp hh ha, rfl, waitHome_mem .., waitHome_ops ..⟩, ?_⟩
    exact orderedAccess_stays hnext hg hp
  · intro s gr c op core w a hg hr
    obtain ⟨hforeign, hphys, rfl⟩ := nextRequest_some hr
    obtain ⟨hgranule, hl1⟩ := serve_foreign (op := op) hphys hg (bne_iff_ne.1 hforeign)
    exact ⟨_, drain_serves hg hr, serve_home s op core a, serve_mem_of_load, fun _ => serve_todo, hgranule, hl1⟩
  · intro s gr op core a hg hr
    obtain ⟨hwrites, hphys, rfl⟩ := nextRequest_some hr
    obtain ⟨hgranule, hlines, hperms⟩ := serve_write_readonly (op := op) (core := core) hphys hwrites hg
    exact ⟨_, readonlyInvalidation_serves hg hr, serve_home s op core a, hgranule, fun _ => serve_todo, hlines, hperms⟩
  · exact fun h => ⟨_, earlyClean_cleans h, rfl, Assoc.find_modify s.lines line (fun l => { l with dirty := l.l1Dirty })⟩
  · rintro ha hl hwf bs rfl
    refine ⟨_, hostRequest_own hn hb ha hl (.write bs) rfl, ?_⟩
    rw [wake_mem, hostOwn_write_mem]
    exact writeN_written hwf a rfl
  · intro ha he hm hw
    refine ⟨⟨_, hostRequest_device hn hb ha he hm hw (.read n) rfl, ?_, hostPiece_read_toHost s a n⟩, ?_⟩
    · simp [State.hostPiece]
    · rintro bs rfl hwf
      refine ⟨_, hostRequest_device hn hb ha he hm hw (.write bs) rfl, ?_⟩
      rw [wake_mem, answerHost_mem, hostPiece_write_mem ha]
      exact writeN_written hwf a rfl
  · intro s line hl
    obtain ⟨t, ht, htm, htoHost, htl⟩ := snoop_answers hl true
    obtain ⟨u, hu, hum, huoHost, hul⟩ := snoop_answers hl false
    refine ⟨⟨t, ht, htm, ?_, htoHost⟩, ⟨u, hu, hum, huoHost, ?_⟩⟩
    · rw [htl]
      exact Assoc.find_drop ..
    · rw [hul]
      exact Assoc.find_modify s.lines line (fun l => { l with owner := none, dirty := false, l1Dirty := false })

end Sys2Proof.Machine

/-! PUSH and guards (14 R352 to R357). -/

namespace Sys2Proof.Machine

open Sys2Proof

/-! PUSH (14 R353). -/

theorem Recorded.cur {s t : State} (h : Recorded s t) : t.cur = s.cur := by
  obtain ⟨_, _, _, _, _, rfl, -, -, -⟩ := h; rfl

/-- Effects that agree in the current slot, and keep it, are the same. -/
theorem effects_congr_of_cur {s : State} {cs : List Ctx} {f g : Ctx → State → State}
    (h : ∀ c x, x.cur = s.cur → f c x = g c x) (hk : ∀ c x, (g c x).cur = x.cur) : s.effects cs f = s.effects cs g := by
  have key : ∀ x : State, x.cur = s.cur →
      cs.foldl (fun s c => f c ((s.countWindows c.gid c.st).markIssue c.gid c.st)) x =
        cs.foldl (fun s c => g c ((s.countWindows c.gid c.st).markIssue c.gid c.st)) x := by
    induction cs with
    | nil => exact fun _ _ => rfl
    | cons c cs ih =>
      intro x hx
      have hx' : ((x.countWindows c.gid c.st).markIssue c.gid c.st).cur = s.cur := hx
      simp only [List.foldl_cons, h c _ hx']
      exact ih _ ((hk c _).trans hx')
  exact key s rfl

section
variable (x : PushOp) (u : Uses) (s : State) (c : Ctx)

/-- The queue that PUSH names in a group. -/
def pushQueue : Nat := 32 * c.g.die + x.qid.toNat

/-- That queue is full (14 R353). -/
def State.pushFull : Bool := decide (64 ≤ (s.queue (pushQueue x c)).cmds.length)

/-- The 64 bytes of the registers that PUSH names. -/
def pushBytes : List Byte := (c.values u (lowestLane c.act)).flatMap (fun w => bytesOfNat 4 w)

/-- The command that PUSH appends. -/
def pushCommand : QCmd := ⟨pushBytes u c, x.guard.toNat, c.gid, c.g.launch, c.g.fn, false, false⟩

/-- The queue's part of PUSH at a rank: the flag is recorded, and the command appended where there is room. -/
def pushAppends (full : Bool) (rank : Nat) (y : State) : State :=
  let b := y.yAfter c.g yFlag 0 (if full then 1 else 0)
  if full then b else (b.appendRecord c.g (pushQueue x c) (pushBytes u c)).append (pushQueue x c) rank (pushCommand x u c)

/-- What PUSH does in a group whose queue is full or not. -/
def pushEffect (full : Bool) (rank : Nat) (y : State) : State :=
  let z := pushAppends x u c full rank y
  z.addOp { VOp.start z c u .push x.la x.tk with results := (lanesOf c.act).map (fun L =>
    { lane := L, writes := [.pBit x.flagp.toNat L full], entries := [], poison := none }) }

theorem pushAppends_cur (full : Bool) (rank : Nat) (y : State) : (pushAppends x u c full rank y).cur = y.cur := by
  have hflag : (y.yAfter c.g yFlag 0 (if full then 1 else 0)).cur = y.cur := (yAfter_frame ..).cur
  unfold pushAppends
  cases full
  · exact ((order_frame ..).cur).trans hflag
  · exact hflag

theorem pushEffect_cur (full : Bool) (rank : Nat) (y : State) : (pushEffect x u c full rank y).cur = y.cur :=
  pushAppends_cur x u c full rank y

end

/-- Nothing stops PUSH in a group, which does not replay (19 R487). -/
structure PushReady (s : State) (x : PushOp) (c : Ctx) : Prop where
  owned : s.ownsQueue c.g x.qid.toNat = true
  ordered : s.orderedOutstanding c.gid = false
  counted : s.varWait c c.act x.tk.toNat = none
  live : s.yMode c.g = 0
  turn : s.pushFull x c = false → s.appendWaits (pushQueue x c) (appendRank c.g.core (s.cur % 6 - 4)) = false

section
variable {x : PushOp} {s : State} {r : Run} {cs : List Ctx} {u : Uses}
  (hu : u = pushUses x ((s.curCtx.map (fun c => c.g.sysMode)).getD false)) (h : Going s r cs u (fun _ => none))
  (hok : ∀ c ∈ cs, c.act ≠ 0 → PushReady s x c)
include hu h hok

/-- PUSH issues, its rank being that of the slot in which its group's effect takes place. -/
theorem push_goes : exec (.push x) s = .next (s.afterIssue cs 1 (pinRows []) false (fun c y =>
    if c.act = 0 then y else pushEffect x u c (s.pushFull x c) (appendRank c.g.core (y.cur % 6 - 4)) y)) := by
  subst hu
  refine congrArg Host.Outcome.next (issue_go h (fun c hc => ?_))
  by_cases h0 : c.act = 0
  · simp only [h0, if_true]
  · obtain ⟨hown, hord, hvar, hy, hturn⟩ := hok c hc h0
    have hlive : ∀ live, s.yValue c.g yFlag 0 live = live := fun _ => by simp [State.yValue, hy]
    rw [if_neg h0, hown, if_neg (by decide), if_neg (Bool.eq_false_iff.1 hord), hvar]
    cases hf : s.pushFull x c with
    | true =>
      have hlen : 64 ≤ (s.queue (queueKey c.g.die x.qid.toNat)).cmds.length := of_decide_eq_true hf
      simp only [hlive, hlen, decide_true, if_true]
      refine (if_neg Bool.false_ne_true).trans (congrArg (Verdict.go · none) (funext fun y => ?_))
      rw [if_neg h0]
      rfl
    | false =>
      have hlen : ¬ 64 ≤ (s.queue (queueKey c.g.die x.qid.toNat)).cmds.length := of_decide_eq_false hf
      have hwait : s.appendWaits (queueKey c.g.die x.qid.toNat) (appendRank c.g.core (s.cur % 6 - 4)) = false := hturn hf
      simp only [hlive, hlen, hwait, decide_false, Bool.false_eq_true, if_false]
      refine (if_neg (by decide)).trans (congrArg (Verdict.go · none) (funext fun y => ?_))
      have hcur : (y.yAfter c.g yFlag 0 0).cur = y.cur := (yAfter_frame ..).cur
      rw [if_neg h0, ← hcur]
      rfl

/-- PUSH issues, its rank being that of the current slot, which no effect of the bundle changes. -/
theorem push_issues : exec (.push x) s = .next (s.afterIssue cs 1 (pinRows []) false (fun c y =>
    if c.act = 0 then y else pushEffect x u c (s.pushFull x c) (appendRank c.g.core (s.cur % 6 - 4)) y)) := by
  have heff := effects_congr_of_cur (s := s) (cs := cs)
    (f := fun c y => if c.act = 0 then y else pushEffect x u c (s.pushFull x c) (appendRank c.g.core (y.cur % 6 - 4)) y)
    (g := fun c y => if c.act = 0 then y else pushEffect x u c (s.pushFull x c) (appendRank c.g.core (s.cur % 6 - 4)) y)
    (fun c y hy => by rw [hy]) (fun c y => by split <;> simp only [pushEffect_cur])
  rw [push_goes hu h hok, State.afterIssue, heff]
  rfl

end

/-! Guards (14 R355 to R357). -/

/-- GSET or GCLR resolves a slot of its group. -/
theorem guard_acts {i : BitVec 4 → Instr} {v : Guard} (he : ∀ g s, exec (i g) s = .next (s.issueGuard g v)) (g : BitVec 4) :
    Acts (i g) 1 { compOnly := true, badOperand := g == 0 } none [] false (fun _ _ => True) (fun _ c x =>
      if c.act = 0 then x
      else (x.modGroup c.gid (fun y => { y with guards := y.guards.set g.toNat v g.isLt })).repair c.gid
        (fun b => b.what == 0x600 + g.toNat)) :=
  acts_of (fun s => he g s) fun _ _ _ => go_unless _ _

section
variable {s : State} {q : Nat} {c : QCmd} {rest : List QCmd} {g : Group} (hlt : c.guard < 16) (hcmds : (s.queue q).cmds = c :: rest)
  (h0 : c.guard ≠ 0) (hstart : c.started = false) (hg : s.groups.find c.gid = some g)

include hlt hg in
/-- The resolution that a command of a group in place finds (14 R357). -/
theorem guardOf_eq : s.guardOf c =
    if (if g.status = .halted then Guard.unresolved else g.guards[c.guard]) = .unresolved ∧ g.status = .finished then .isFalse
    else if g.status = .halted then .unresolved else g.guards[c.guard] := by
  have hget : g.guards.toList.getD c.guard .unresolved = g.guards[c.guard] := by
    simp [List.getD_eq_getElem?_getD, hlt]
  simp only [State.guardOf, hg, hget]

include hcmds in
/-- A command whose slot another queue consumes, or is not resolved, waits (14 R355, R357). -/
theorem guardConsume_waits (h : s.guardTaken q c = true ∨ s.guardOf c = .unresolved) :
    exec (.guardConsume q) s = .next s := by
  show execGuardConsume q s = _
  unfold execGuardConsume
  rw [hcmds]
  dsimp only
  split
  · rfl
  · next hn =>
    rcases h with h | h
    · simp [h] at hn
    · rw [h]

include hcmds h0 hstart hg in
/-- A command that finds its slot resolved consumes it, and starts or is discarded (14 R355, R356). -/
theorem guardConsume_consumes (hfree : s.guardTaken q c = false) (hv : s.guardOf c ≠ .unresolved) :
    exec (.guardConsume q) s = .next (((s.order g 11 (g.yWho 0 * 16 + c.guard) (q % 32)).modGroup c.gid (fun g =>
      if h : c.guard < 16 then { g with guards := g.guards.set c.guard .unresolved h } else g)).modQueue q (fun x =>
        { x with cmds := if s.guardOf c = Guard.isTrue then { c with started := true } :: rest else rest })) := by
  show execGuardConsume q s = _
  unfold execGuardConsume
  rw [hcmds]
  simp only [h0, hstart, hfree, Bool.or_self, Bool.false_eq_true, decide_false, if_false]
  rw [hg]

end

/-- Settles O23: PUSH issues as `push_issues` says, GSET and GCLR act on their group alone, and a guarded command waits or consumes
its slot as `guardOf` and `guardTaken` say. -/
theorem pushAndGuards : Obligations.PushAndGuards := by
  unfold Obligations.PushAndGuards
  constructor
  · intro x u q rank full bytes s r cs h hok
    refine push_issues rfl h fun c hc h0 => ?_
    obtain ⟨hown, hord, hvar, hlive, hturn⟩ := hok c hc h0
    exact ⟨hown, hord, hvar, hlive, hturn⟩
  intro sets
  refine ⟨guard_acts fun _ _ => rfl, guard_acts fun _ _ => rfl, fun s q c rest g hlt hcmds h0 hstart hg =>
    ⟨fun hw => ?waits, fun hfree hrun hres => ?consumes, fun hun hfin => ?unresolved⟩⟩
  case waits =>
    refine guardConsume_waits hcmds (hw.imp_right fun hh => ?_)
    rw [guardOf_eq hlt hg]
    simp [hh]
  case unresolved =>
    refine guardConsume_waits hcmds (.inr ?_)
    rw [guardOf_eq hlt hg]
    simp [hun, hfin]
  case consumes =>
    have hv : s.guardOf c = g.guards[c.guard] := by
      rw [guardOf_eq hlt hg]
      simp [hrun, hres]
    refine ⟨_, guardConsume_consumes hcmds h0 hstart hg hfree (hv ▸ hres), ?_, ?_⟩
    · rw [hv]
      exact congrArg EQueue.cmds (modQueue_queue ..)
    · obtain ⟨dead, hd⟩ := (order_frame s g 11 (g.yWho 0 * 16 + c.guard) (q % 32) []).sameGroups.find_some hg
      rw [modQueue_groups, modGroup_find, hd, Option.map_some, dif_pos hlt]
      exact ⟨_, rfl, Vector.getElem_set_self hlt⟩

end Sys2Proof.Machine

/-! BARWAIT of a replayed launch that diverges as it reads its object (14 R361; 19 R488; 17 R443). -/

namespace Sys2Proof.Machine

open Sys2Proof

/-- A BARWAIT of the group that replays, which waits for nothing but the object at 16: D is v8. -/
def replayedBarwait : VOp :=
  ⟨0, 0, .addr, .barwait 8 16 none, true, .engine, 1, 0, none, [], [], false, [], 0, [], none, ⟨2, false, false, 0⟩, 8, 0⟩

/-- The machine after reset with that group and that BARWAIT: one leaf maps the function's first pages to the memory of its
partition, where the object is 0, and the function replays with no record left. -/
def barwaitState : State :=
  let s : State := { State.reset with
    mem := [(0, 7)], groups := [(0, replayedGroup)], ops := [(9, replayedBarwait)]
    parts := [(0, { Part.ofArg [] with slices := 1, hbmch := 1 })] }
  s.modFn 0 (fun x => { x with root := 1, ymode := 2 })

/-- The object is read at 16. -/
theorem barwaitState_reaches :
    barwaitState.translateNow replayedGroup.fn replayedGroup.part .read 16 = .ok 16 ∧ barwaitState.homeWaits 16 = false := by
  decide +kernel

/-- It holds: nothing remains. -/
theorem barwaitState_holds : signedOf 64 (natOfBytes (barwaitState.mem.readN 16 16)) ≤ 0 := by decide +kernel

/-- The access matches no record, so that the launch is killed and its quiet group finishes: what the ended run still owed lands
in v0, which BARWAIT does not name. -/
theorem laneZeroOf_barwaitPerformed : laneZeroOf (exec (.barwaitPerformed 9) barwaitState) = some 7 := by decide +kernel

/-- D's writes leave v0 alone. -/
theorem barwaitState_writes : lastV (destWrites (op32 8) replayedBarwait.mask
    (fun _ => natOfBytes (barwaitState.mem.readN 16 16) / 2 ^ 96) ++ replayedBarwait.flags) 0 0 = none := by decide +kernel

/-- Refutes O24: BARWAIT's D has the phase word, but where a replayed launch diverges at the access to the object, the launch is
killed, its group finishes at once, and the results that an ended run of it still owed land in other registers. -/
theorem not_barrierObjects : ¬ Obligations.BarrierObjects := by
  unfold Obligations.BarrierObjects
  rintro ⟨⟨-, -, -, hperform⟩, -⟩
  obtain ⟨hplace, hhome⟩ := barwaitState_reaches
  have halive : ∀ y ∈ barwaitState.groups, y.2.killed = false := by
    intro y hy
    obtain rfl := List.mem_singleton.1 hy
    rfl
  obtain ⟨hholds, -⟩ := hperform barwaitState 9 replayedBarwait replayedGroup 8 16 16 none rfl rfl rfl (.inl rfl) rfl rfl rfl
    hplace hhome
  obtain ⟨t, ht, -, -, hlands⟩ := hholds barwaitState_holds nofun
  obtain ⟨h, hh, hland⟩ := hlands (by decide +kernel) rfl rfl (by decide +kernel) halive
  have hseven : (t.groups.find 0).map (fun h => h.vElem 0 0) = some 7 := by
    have := laneZeroOf_barwaitPerformed
    rwa [ht] at this
  have hlane : h.vElem 0 0 = 7 := by
    rw [show t.groups.find 0 = some h from hh] at hseven
    exact Option.some_inj.1 hseven
  have hkept := hland.varying 0 0 (by decide)
  rw [barwaitState_writes, hlane] at hkept
  exact absurd hkept (by decide +kernel)

end Sys2Proof.Machine

/-! What an access of a command leaves alone, and what a step of a command that reaches its addresses does (14 R363 to R365). -/

namespace Sys2Proof.Machine

open Sys2Proof

/-! A classified access moves no address: translation and the waits at a home do not see the directory (13 R336 to R347). -/

/-- Granules, lines and permissions may differ, nothing else. -/
def Classified (s t : State) : Prop := ∃ gs ls cs lo, t = { s with granules := gs, lines := ls, cores := cs, lost := lo }

section
variable {s t : State} (h : Classified s t)
include h

theorem Classified.walkVa (fn va : Nat) : t.walkVa fn va = s.walkVa fn va := by
  obtain ⟨gs, li, cs, lo, rfl⟩ := h
  have hwalk : ∀ ls base, State.walkFrom { s with granules := gs, lines := li, cores := cs, lost := lo } va ls base =
      s.walkFrom va ls base := by
    intro ls
    induction ls with
    | nil => exact fun _ => rfl
    | cons l ls ih =>
      intro base
      simp only [State.walkFrom, ih]
      rfl
  exact hwalk _ _

theorem Classified.cmdXlat (q : Nat) (c : QCmd) (need : Need) (va : Nat) : t.cmdXlat q c need va = s.cmdXlat q c need va := by
  have hwalk := h.walkVa
  obtain ⟨_, _, _, _, rfl⟩ := h
  simp only [State.cmdXlat, State.translate, State.readAgain, hwalk]
  rfl

theorem Classified.homeWaits (key : Nat) : t.homeWaits key = s.homeWaits key := by
  obtain ⟨_, _, _, _, rfl⟩ := h
  rfl

/-- A command reaches the same place before and after a classified access. -/
theorem Classified.reach {q : Nat} {c : QCmd} {need : Need} {va key : Nat} (hr : s.reach q c need va = .at_ key) :
    t.reach q c need va = .at_ key := by
  unfold State.reach at hr ⊢
  rw [h.cmdXlat]
  cases hx : s.cmdXlat q c need va with
  | ok k =>
    simp only [hx, h.homeWaits] at hr ⊢
    split at hr
    · cases hr
    · next hn => rw [if_neg hn, hr]
  | fault e => rw [hx] at hr; cases e <;> simp at hr
  | walk p | ats p n | busy => rw [hx] at hr; simp at hr

end

theorem classify_classified (s : State) (key die : Nat) (core : Option Nat) (w : Bool) : Classified s (s.classify key die core w) :=
  classify_frame ..

theorem Recorded.queues {s t : State} (h : Recorded s t) : t.queues = s.queues := by
  obtain ⟨_, _, _, _, _, rfl, -, -, -⟩ := h; rfl

/-! An access of a command (14 R363; 19 R487). -/

section
variable (s : State) (q : Nat) (c : QCmd) (key : Nat) (w : Bool)

theorem cmdAccess_queues : (s.cmdAccess q c key w).queues = s.queues := by
  unfold State.cmdAccess
  rw [(orderCmdChange_frame ..).queues, classify_queues, (orderCmd_frame ..).queues]

theorem cmdAccess_viralBlocks (k : Nat) : (s.cmdAccess q c key w).viralBlocks k = s.viralBlocks k := by
  unfold State.cmdAccess State.viralBlocks
  rw [(orderCmdChange_frame ..).viral, classify_viral, (orderCmd_frame ..).viral]

variable {s q c} in
theorem cmdAccess_reach {need : Need} {va k : Nat} (h : s.reach q c need va = .at_ k) :
    (s.cmdAccess q c key w).reach q c need va = .at_ k :=
  (orderCmdChange_frame ..).reach q c need va
    ((classify_classified ..).reach ((orderCmd_frame s q c key).reach q c need va h))

end

theorem writePoison_queues (s : State) (key n : Nat) : (s.writePoison key n).queues = s.queues := by
  unfold State.writePoison; split <;> rfl

theorem writeBytes_queues (s : State) (key : Nat) (bs : List Byte) : (s.writeBytes key bs).queues = s.queues := by
  obtain ⟨_, h⟩ := writeBytes_frame s key bs
  rw [h]

/-! Queues (14 R351, R364, R374). -/

/-- Only the write pointer of a queue may have changed, and no other queue: its commands and their progress stand. -/
def SameCommands (s t : State) (q : Nat) : Prop := ∃ wp, t.queue q = { s.queue q with wp := wp }

theorem SameCommands.of_queues {s t : State} (h : t.queues = s.queues) (q : Nat) : SameCommands s t q :=
  ⟨(s.queue q).wp, by unfold State.queue; rw [h]⟩

theorem SameCommands.trans {s t u : State} {q : Nat} (h : SameCommands s t q) (k : SameCommands t u q) : SameCommands s u q := by
  obtain ⟨_, h⟩ := h
  obtain ⟨wp, k⟩ := k
  exact ⟨wp, by rw [k, h]⟩

theorem SameCommands.cmds {s t : State} {q : Nat} (h : SameCommands s t q) : (t.queue q).cmds = (s.queue q).cmds := by
  obtain ⟨_, h⟩ := h
  rw [h]

theorem sameCommands_wp (s : State) (q : Nat) (wp : Dword) : SameCommands s (s.modQueue q (fun x => { x with wp := wp })) q :=
  ⟨_, modQueue_queue ..⟩

@[simp] theorem wake_queue (s : State) (q : Nat) : s.wake.queue q = s.queue q := rfl

@[simp] theorem setProgress_progress (s : State) (q : Nat) (p : Progress) : (s.setProgress q p).wake.progress q = p := by
  unfold State.progress State.setProgress
  rw [wake_queue, modQueue_queue]
  rfl

/-! Reads and writes of a command (14 R363; 13 R323). -/

/-- A naturally aligned piece is one access. -/
theorem accessSize_accessSize (a n : Nat) : accessSize a (accessSize a n) = accessSize a n := by
  unfold accessSize
  split_ifs <;> omega

theorem accessSize_pos (a n : Nat) : 0 < accessSize a n := by
  unfold accessSize
  split_ifs <;> omega

theorem accessSize_le {a n : Nat} (h : 0 < n) : accessSize a n ≤ n := by
  unfold accessSize
  split_ifs <;> omega

theorem accessSize_block {a : Nat} (h : a % 16 = 0) : accessSize a 16 = 16 := if_pos ⟨h, by decide⟩

theorem accessSize_dword {a : Nat} (h : a % 8 = 0) : accessSize a 8 = 8 := by
  unfold accessSize
  split_ifs <;> omega

theorem accessSize_word {a : Nat} (h : a % 4 = 0) : accessSize a 4 = 4 := by
  unfold accessSize
  split_ifs <;> omega

section
variable {s : State} {q : Nat} {c : QCmd} {va n k : Nat}

/-- Bytes that one access reads. -/
theorem readBytes_of_piece (hn : accessSize va n = n) (hr : s.reach q c .read va = .at_ k) :
    s.readBytes q c va n = .got (s.mem.readN k n) (List.replicate n (s.poisonIn k n)) (s.cmdAccess q c k false) := by
  have hpos : n ≠ 0 := (hn ▸ accessSize_pos va n).ne'
  obtain ⟨m, rfl⟩ := Nat.exists_eq_succ_of_ne_zero hpos
  simp only [State.readBytes, State.cmdRead, hn, hr, Nat.sub_self]
  simp [State.bytesAt]

/-- Bytes that a command writes where nothing keeps them from memory (14 R363; 19 R482). -/
theorem cmdWrite_of_reach {bs : List Byte} {bad data : Bool} (hr : s.reach q c .write va = .at_ k) (hv : s.viralBlocks k = false) :
    ∃ t, s.cmdWrite q c va bs bad data = .done t ∧ t.mem = s.mem.writeN k bs ∧ SameCommands s t q := by
  unfold State.cmdWrite
  simp only [hr]
  refine ⟨_, rfl, ?_, ?_⟩
  · have hmem : ((s.cmdAccess q c k true).writeBytes k bs).mem = s.mem.writeN k bs := by
      rw [writeBytes_mem_of_not_blocked ((cmdAccess_viralBlocks ..).trans hv), cmdAccess_mem]
    cases data <;> cases bad <;> simpa using hmem
  · have hq : ((s.cmdAccess q c k true).writeBytes k bs).queues = s.queues := (writeBytes_queues ..).trans (cmdAccess_queues ..)
    have hp : (((s.cmdAccess q c k true).writeBytes k bs).writePoison k bs.length).queues = s.queues := (writePoison_queues ..).trans hq
    cases data <;> cases bad
    · exact .of_queues hq q
    · exact .of_queues hp q
    · exact (SameCommands.of_queues hq q).trans (sameCommands_wp ..)
    · exact (SameCommands.of_queues hp q).trans (sameCommands_wp ..)

end

/-! A step of the command at a queue's head (14 R364, R365). -/

/-- The state after a command's body has answered. -/
def State.afterBody (s : State) (q : Nat) (c : QCmd) : CmdOut → State
  | .wait t => t.unseen s c.fn
  | .more t => t.wake
  | .done t count bar => t.endCommand q c 0 count bar
  | .fail t cause count bar =>
    let t := t.queueSeen q c
    if bar % 16 ≠ 0 then (t.logFailure q c cause bar).popCommand q else t.endCommand q c cause count bar

section
variable {s : State} {q : Nat} {c : QCmd} {p : Progress} (h : CmdRuns s q c p) {body : State → QCmd → Progress → CmdOut}
include h

theorem runCommand_eq : s.runCommand q body = s.afterBody q c (body s c p) := by
  obtain ⟨hhead, hguard, rfl, hgoing⟩ := h
  have hstart : ¬ (c.guard ≠ 0 ∧ (!c.started) = true) := by
    rintro ⟨hne, hns⟩
    rcases hguard with hg | hg
    · exact hne hg
    · simp [hg] at hns
  unfold State.runCommand
  simp only [hhead, hstart, hgoing, if_false]
  rfl

theorem runCommand_more {t : State} (hb : body s c p = .more t) : s.runCommand q body = t.wake := by
  rw [runCommand_eq h, hb]
  rfl

theorem runCommand_done {t : State} {count : Int} {bar : Nat} (hb : body s c p = .done t count bar) :
    s.runCommand q body = t.endCommand q c 0 count bar := by
  rw [runCommand_eq h, hb]
  rfl

end

/-- A command whose fields are legal goes on to its accesses. -/
theorem judgeFields_go {s : State} {count : Int} {bar : Nat} {bad misaligned : Bool} {go : CmdOut} (hbad : bad = false)
    (hmis : misaligned = false) (hbar : bar % 16 = 0) : judgeFields s count bar bad misaligned go = go := by
  simp [judgeFields, hbad, hmis, hbar]

/-! The end of a command (14 R358, R364). -/

/-- The lowest bytes of those from an address. -/
theorem natOfBytes_readN_mod (m : Bytes) (k n j : Nat) : natOfBytes (m.readN k (n + j)) % 2 ^ (8 * n) = natOfBytes (m.readN k n) := by
  induction n generalizing k with
  | zero => rw [Nat.mul_zero, Nat.pow_zero, Nat.mod_one]; rfl
  | succ n ih =>
    have hbyte : (m.read k).toNat < 256 := (m.read k).isLt
    have hpow : 2 ^ (8 * (n + 1)) = 256 * 2 ^ (8 * n) := by rw [Nat.mul_succ, Nat.pow_add, Nat.mul_comm]
    rw [show n + 1 + j = n + j + 1 by omega]
    simp only [Bytes.readN, natOfBytes]
    rw [hpow, Nat.mod_mul, ← ih (k + 1)]
    congr 2
    · omega
    · congr 1
      omega

/-- What a decrement leaves in an object: REMAIN falls by the count, modulo 2^64 (14 R358, R364). -/
theorem decrement_mem {s : State} {key : Nat} (hv : s.viralBlocks key = false) (count : Int) (die : Nat) :
    (s.decrement key 0 count die).mem =
      s.mem.writeN key (bytesOfNat 8 (wrapNat 64 ((natOfBytes (s.mem.readN key 8) : Int) - count))) := by
  have hblocks : (s.classify key die none true).viralBlocks key = false := by
    unfold State.viralBlocks
    rw [classify_viral]
    exact hv
  have hlow := natOfBytes_readN_mod s.mem key 8 8
  unfold State.decrement State.bytesAt
  simp only [if_true]
  rw [writeBytes_mem_of_not_blocked hblocks, classify_mem, ← hlow]

theorem decrement_queues (s : State) (key : Nat) (count : Int) (die : Nat) : (s.decrement key 0 count die).queues = s.queues := by
  unfold State.decrement
  simp only [if_true]
  rw [writeBytes_queues, classify_queues]

/-- The command at the head of a queue has left it, and the next has made no progress. -/
def Popped (s t : State) (q : Nat) : Prop := (t.queue q).cmds = (s.queue q).cmds.tail ∧ (t.queue q).prog = none

/-- The command at a queue's head is over (14 R364). -/
theorem SameCommands.popped {s t : State} {q : Nat} (h : SameCommands s t q) : Popped s (t.popCommand q) q := by
  unfold Popped State.popCommand
  rw [wake_queue, modQueue_queue, ← h.cmds]
  cases (t.queue q).cmds <;> exact ⟨rfl, rfl⟩

theorem SameCommands.refl (s : State) (q : Nat) : SameCommands s s q := .of_queues rfl q

section
variable {s t : State} {q : Nat} {c : QCmd} {count : Int} {bar : Nat} (hq : SameCommands s t q)
include hq

/-- With BAR 0 a command leaves its queue, and memory is as before. -/
theorem endCommand_free : Popped s (t.endCommand q c 0 count 0) q ∧ (t.endCommand q c 0 count 0).mem = t.mem :=
  ⟨hq.popped, popCommand_mem t q⟩

/-- With an object it decrements that, too. -/
theorem endCommand_object {k : Nat} (hbar : bar ≠ 0) (hr : t.reach q c .both bar = .at_ k) (hv : t.viralBlocks k = false) :
    Popped s (t.endCommand q c 0 count bar) q ∧ (t.endCommand q c 0 count bar).mem =
      t.mem.writeN k (bytesOfNat 8 (wrapNat 64 ((natOfBytes (t.mem.readN k 8) : Int) - count))) := by
  have hblocks : (t.orderCmd q c k).viralBlocks k = false := by
    unfold State.viralBlocks
    rw [(orderCmd_frame ..).viral]
    exact hv
  have hend : t.endCommand q c 0 count bar =
      (((t.orderCmd q c k).decrement k 0 count (queueDie q)).orderCmdChange t q c k).popCommand q := by
    unfold State.endCommand
    rw [if_neg hbar, hr]
    rfl
  have hqueues : (((t.orderCmd q c k).decrement k 0 count (queueDie q)).orderCmdChange t q c k).queues = t.queues := by
    rw [(orderCmdChange_frame ..).queues, decrement_queues, (orderCmd_frame ..).queues]
  rw [hend]
  refine ⟨(hq.trans (.of_queues hqueues q)).popped, ?_⟩
  rw [popCommand_mem, orderCmdChange_mem, decrement_mem hblocks, orderCmd_mem]

end

theorem wrapNat_lt_two_pow (n : Nat) (x : Int) : wrapNat n x < 2 ^ n := by
  have hpos : (0 : Int) < 2 ^ n := by positivity
  have hlt : (wrapNat n x : Int) < 2 ^ n := by
    unfold wrapNat
    rw [Int.toNat_of_nonneg (Int.emod_nonneg _ hpos.ne')]
    exact Int.emod_lt_of_pos x hpos
  exact_mod_cast hlt

/-- The end of a command whose count is a number of bytes, with and without an object (14 R364). -/
theorem ends_of {s : State} (hwf : s.mem.wf = true) {q : Nat} {c : QCmd} {i : Instr} {bar count : Nat}
    (he : exec i s = .next (s.endCommand q c 0 count bar)) :
    (bar = 0 → ∃ u, exec i s = .next u ∧ Popped s u q ∧ u.mem = s.mem) ∧
    (∀ k, bar ≠ 0 → s.reach q c .both bar = .at_ k → s.viralBlocks k = false →
      ∃ u, exec i s = .next u ∧ Popped s u q ∧ sameOutside s.mem u.mem k 8 ∧
        natOfBytes (u.mem.readN k 8) = wrapNat 64 ((natOfBytes (s.mem.readN k 8) : Int) - count)) := by
  refine ⟨?_, fun k hbar hr hv => ?_⟩
  · rintro rfl
    obtain ⟨hpop, hmem⟩ := endCommand_free (c := c) (count := count) (SameCommands.refl s q)
    exact ⟨_, he, hpop, hmem⟩
  · obtain ⟨hpop, hmem⟩ := endCommand_object (c := c) (count := count) (SameCommands.refl s q) hbar hr hv
    obtain ⟨hread, hout⟩ := writeN_written (bs := bytesOfNat 8 (wrapNat 64 ((natOfBytes (s.mem.readN k 8) : Int) - count)))
      (n := 8) hwf k (bytesOfNat_length ..)
    refine ⟨_, he, hpop, hmem ▸ hout, ?_⟩
    rw [hmem, hread, natOfBytes_bytesOfNat]
    exact Nat.mod_eq_of_lt (wrapNat_lt_two_pow 64 _)

end Sys2Proof.Machine

/-! COPY, FILL, GATHER, SIGNAL, KVCOMMIT and WSSNAP (14 R363 to R368; 16 R408). -/

namespace Sys2Proof.Machine

open Sys2Proof

/-- Bytes that a step has written stand in memory, and nothing else has changed. -/
theorem stored_of_mem {s t : State} {k n : Nat} {bs : List Byte} (hwf : s.mem.wf = true) (hmem : t.mem = s.mem.writeN k bs)
    (hlen : bs.length = n) : t.mem.readN k n = bs ∧ sameOutside s.mem t.mem k n := hmem ▸ writeN_written hwf k hlen

/-- A step of a command that writes and goes on to its next item. -/
theorem exec_of_more {i : Instr} {s t : State} {q : Nat} {c : QCmd} {p p' : Progress} (h : CmdRuns s q c p)
    {body : State → QCmd → Progress → CmdOut} (he : exec i s = .next (s.runCommand q body))
    (hb : body s c p = .more (t.setProgress q p')) :
    ∃ u, exec i s = .next u ∧ u.mem = t.mem ∧ u.progress q = p' :=
  ⟨_, he.trans (congrArg _ (runCommand_more h hb)), by rw [wake_mem, setProgress_mem], setProgress_progress t q p'⟩

section
variable {s : State} {q : Nat} {c : QCmd}

/-- A piece of sixteen bytes is copied as one read and one write (log 46). -/
theorem copyChunk_of_reach {src dst k1 k2 : Nat} {next : State → CmdOut} {count : Int} {bar : Nat} (hsrc : src % 16 = 0)
    (h1 : s.reach q c .read src = .at_ k1) (h2 : s.reach q c .write dst = .at_ k2) (hv : s.viralBlocks k2 = false) :
    ∃ t, s.copyChunk q c src dst 16 next count bar = next t ∧ t.mem = s.mem.writeN k2 (s.mem.readN k1 16) := by
  obtain ⟨t, ht, hmem, -⟩ := cmdWrite_of_reach (bs := s.mem.readN k1 16)
    (bad := (List.replicate 16 (s.poisonIn k1 16)).any (fun b => b)) (data := true) (cmdAccess_reach k1 false h2)
    ((cmdAccess_viralBlocks s q c k1 false k2).trans hv)
  refine ⟨t, ?_, hmem.trans (by rw [cmdAccess_mem])⟩
  unfold State.copyChunk
  simp only [readBytes_of_piece (accessSize_block hsrc) h1, ht]

end

/-- The fields of GATHER are legal (14 R367). -/
structure GatherLegal (bar src idx dst pitch : Dword) (n rb : Word) : Prop where
  bar : bar.toNat % 16 = 0
  rows : 0 < n.toNat ∧ n.toNat ≤ 65536
  bytes : 16 ≤ rb.toNat ∧ rb.toNat ≤ 65536
  rowbytes : rb.toNat % 16 = 0
  idx : idx.toNat % 4 = 0
  src : src.toNat % 16 = 0
  dst : dst.toNat % 16 = 0
  pitch : pitch.toNat % 16 = 0

theorem GatherLegal.judged {bar src idx dst pitch : Dword} {n rb : Word} (h : GatherLegal bar src idx dst pitch n rb) {s : State}
    {count : Int} {go : CmdOut} : judgeFields s count bar.toNat
      (n.toNat == 0 || decide (65536 < n.toNat) || decide (rb.toNat < 16) || decide (65536 < rb.toNat))
      (idx.toNat % 4 != 0 || src.toNat % 16 != 0 || dst.toNat % 16 != 0 || pitch.toNat % 16 != 0 || rb.toNat % 16 != 0) go = go := by
  obtain ⟨hbar, hn, hrb, hrb0, hidx, hsrc, hdst, hpitch⟩ := h
  refine judgeFields_go ?_ (by simp [hrb0, hidx, hsrc, hdst, hpitch]) hbar
  simp only [Bool.or_eq_false_iff, beq_eq_false_iff_ne, decide_eq_false_iff_not]
  omega

section
variable {s : State} {q : Nat} {c : QCmd} {p : Progress} (h : CmdRuns s q c p) (hwf : s.mem.wf = true)
include h hwf

theorem copy_next {bar src dst len : Dword} {k1 k2 : Nat} (hbar : bar.toNat % 16 = 0) (hlen : len.toNat % 16 = 0)
    (hsrc : src.toNat % 16 = 0) (hdst : dst.toNat % 16 = 0) (hleft : 16 * p.pos < len.toNat)
    (h1 : s.reach q c .read (src.toNat + 16 * p.pos) = .at_ k1) (h2 : s.reach q c .write (dst.toNat + 16 * p.pos) = .at_ k2)
    (hv : s.viralBlocks k2 = false) :
    ∃ t, exec (.copy q bar src dst len) s = .next t ∧ t.mem.readN k2 16 = s.mem.readN k1 16 ∧ sameOutside s.mem t.mem k2 16 ∧
      (t.progress q).pos = p.pos + 1 := by
  obtain ⟨t, ht, hmem⟩ := copyChunk_of_reach (next := fun s => s.nextItem q p) (count := len.toNat) (bar := bar.toNat)
    (by omega) h1 h2 hv
  obtain ⟨u, hu, hum, hup⟩ := exec_of_more (i := .copy q bar src dst len) h rfl
    ((judgeFields_go rfl (by simp [hlen, hsrc, hdst]) hbar).trans ((if_neg (by omega)).trans ht))
  obtain ⟨hread, hout⟩ := stored_of_mem hwf (hum.trans hmem) (Bytes.readN_length ..)
  exact ⟨u, hu, hread, hout, by rw [hup]⟩

theorem fill_next {bar dst len : Dword} {pat : BitVec 128} {k : Nat} (hbar : bar.toNat % 16 = 0) (hlen : len.toNat % 16 = 0)
    (hdst : dst.toNat % 16 = 0) (hleft : 16 * p.pos < len.toNat)
    (hr : s.reach q c .write (dst.toNat + 16 * p.pos) = .at_ k) (hv : s.viralBlocks k = false) :
    ∃ t, exec (.fill q bar dst len pat) s = .next t ∧ natOfBytes (t.mem.readN k 16) = pat.toNat ∧
      sameOutside s.mem t.mem k 16 ∧ (t.progress q).pos = p.pos + 1 := by
  obtain ⟨t, ht, hmem, -⟩ := cmdWrite_of_reach (bs := bytesOfNat 16 pat.toNat) (bad := false) (data := true) hr hv
  obtain ⟨u, hu, hum, hup⟩ := exec_of_more (i := .fill q bar dst len pat) (t := t) (p' := { p with pos := p.pos + 1 }) h rfl
    ((judgeFields_go rfl (by simp [hlen, hdst]) hbar).trans ((if_neg (by omega)).trans (by rw [ht]; rfl)))
  obtain ⟨hread, hout⟩ := stored_of_mem hwf (hum.trans hmem) (bytesOfNat_length 16 _)
  refine ⟨u, hu, ?_, hout, by rw [hup]⟩
  rw [hread, natOfBytes_bytesOfNat]
  exact Nat.mod_eq_of_lt pat.isLt

omit hwf in
theorem gather_index {bar src idx dst pitch : Dword} {n rb : Word} (hlegal : GatherLegal bar src idx dst pitch n rb)
    (hleft : p.pos < n.toNat * (rb.toNat / 16)) {k : Nat} (hstage : p.stage = 0)
    (hr : s.reach q c .read (idx.toNat + 4 * (p.pos / (rb.toNat / 16))) = .at_ k) :
    ∃ t, exec (.gather q bar src idx dst pitch n rb) s = .next t ∧ t.mem = s.mem ∧ (t.progress q).stage = 1 ∧
      (t.progress q).x = natOfBytes (s.mem.readN k 4) := by
  have hidx := hlegal.idx
  have hread := readBytes_of_piece (accessSize_word (by omega)) hr
  obtain ⟨u, hu, hum, hup⟩ := exec_of_more (i := .gather q bar src idx dst pitch n rb) (t := s.cmdAccess q c k false)
    (p' := { p with stage := 1, x := natOfBytes (s.mem.readN k 4) }) h rfl
    (hlegal.judged.trans ((if_neg (by omega)).trans ((if_pos hstage).trans (by rw [hread]))))
  exact ⟨u, hu, hum.trans (cmdAccess_mem ..), by rw [hup], by rw [hup]⟩

theorem gather_copy {bar src idx dst pitch : Dword} {n rb : Word} (hlegal : GatherLegal bar src idx dst pitch n rb)
    (hleft : p.pos < n.toNat * (rb.toNat / 16)) {k1 k2 : Nat} (hstage : p.stage = 1)
    (h1 : s.reach q c .read (src.toNat + p.x * pitch.toNat + 16 * (p.pos % (rb.toNat / 16))) = .at_ k1)
    (h2 : s.reach q c .write (dst.toNat + p.pos / (rb.toNat / 16) * rb.toNat + 16 * (p.pos % (rb.toNat / 16))) = .at_ k2)
    (hv : s.viralBlocks k2 = false) :
    ∃ t, exec (.gather q bar src idx dst pitch n rb) s = .next t ∧ t.mem.readN k2 16 = s.mem.readN k1 16 ∧
      sameOutside s.mem t.mem k2 16 ∧ (t.progress q).pos = p.pos + 1 := by
  have halign : (src.toNat + p.x * pitch.toNat + 16 * (p.pos % (rb.toNat / 16))) % 16 = 0 := by
    rw [Nat.add_mul_mod_self_left, Nat.add_mod, hlegal.src, Nat.mul_mod, hlegal.pitch, Nat.mul_zero]
  obtain ⟨t, ht, hmem⟩ := copyChunk_of_reach
    (next := fun s => s.nextItem q { p with stage := if (p.pos + 1) % (rb.toNat / 16) = 0 then 0 else 1 })
    (count := n.toNat * rb.toNat) (bar := bar.toNat) halign h1 h2 hv
  obtain ⟨u, hu, hum, hup⟩ := exec_of_more (i := .gather q bar src idx dst pitch n rb) h rfl
    (hlegal.judged.trans ((if_neg (by omega)).trans ((if_neg (by omega)).trans ht)))
  obtain ⟨hread, hout⟩ := stored_of_mem hwf (hum.trans hmem) (Bytes.readN_length ..)
  exact ⟨u, hu, hread, hout, by rw [hup]⟩

/-- The second stage of WSSNAP stores its list (16 R408). -/
theorem wssnap_next {bar dst : Dword} {len : Word} {vf : BitVec 6} {k : Nat} (hbar : bar.toNat % 16 = 0)
    (hlen : 2 ≤ len.toNat ∧ len.toNat ≤ 65536 ∧ len.toNat % 2 = 0) (hdst : dst.toNat % 16 = 0)
    (hbound : (s.fn vf.toNat).bound = some (s.cmdPart c)) (hstage : p.stage = 1) (hleft : p.pos + 16 ≤ p.buf.length)
    (hr : s.reach q c .write (dst.toNat + p.pos) = .at_ k) (hv : s.viralBlocks k = false) :
    ∃ t, exec (.wssnap q bar dst len vf) s = .next t ∧ t.mem.readN k 16 = (p.buf.drop p.pos).take 16 ∧
      sameOutside s.mem t.mem k 16 ∧ (t.progress q).pos = p.pos + 16 := by
  have hbad : (decide (len.toNat < 2) || decide (65536 < len.toNat) || len.toNat % 2 != 0) = false := by
    simp only [Bool.or_eq_false_iff, decide_eq_false_iff_not, bne_eq_false_iff_eq]
    omega
  obtain ⟨t, ht, hmem, -⟩ := cmdWrite_of_reach (bs := (p.buf.drop p.pos).take 16) (bad := false) (data := false) hr hv
  obtain ⟨u, hu, hum, hup⟩ := exec_of_more (i := .wssnap q bar dst len vf) (t := t) (p' := { p with pos := p.pos + 16 }) h rfl
    ((judgeFields_go hbad (by simp [hdst]) hbar).trans ((if_neg (not_not.2 hbound)).trans ((if_neg (by omega)).trans
      ((if_neg (by omega)).trans (by rw [ht])))))
  obtain ⟨hread, hout⟩ := stored_of_mem hwf (hum.trans hmem) (n := 16) (by simp; omega)
  exact ⟨u, hu, hread, hout, by rw [hup]⟩

end

/-- Settles O36: each command's next access, its fields being legal, goes where its address leads. -/
theorem copyCommands : Obligations.CopyCommands := by
  unfold Obligations.CopyCommands
  intro s q c p bar h hbar hwf
  refine ⟨fun src dst len k1 k2 hlen hsrc hdst hleft h1 h2 hv => copy_next h hwf hbar hlen hsrc hdst hleft h1 h2 hv,
    fun dst len pat k hlen hdst hleft hr hv => fill_next h hwf hbar hlen hdst hleft hr hv,
    fun src idx dst pitch n rb hn hn' hrb hrb' hrb0 hidx hsrc hdst hpitch hleft => ?gather,
    fun dst len vf k hl hl' hl2 hdst hbound hstage hleft hr hv =>
      wssnap_next h hwf hbar ⟨hl, hl', hl2⟩ hdst hbound hstage hleft hr hv⟩
  have hlegal : GatherLegal bar src idx dst pitch n rb := ⟨hbar, ⟨hn, hn'⟩, ⟨hrb, hrb'⟩, hrb0, hidx, hsrc, hdst, hpitch⟩
  exact ⟨fun k hstage hr => gather_index h hlegal hleft hstage hr,
    fun k1 k2 hstage h1 h2 hv => gather_copy h hwf hlegal hleft hstage h1 h2 hv⟩

/-! Ends of commands (14 R364, R368). -/

section
variable {s : State} {q : Nat} {c : QCmd} {p : Progress} (h : CmdRuns s q c p)
include h

theorem copy_done {bar src dst len : Dword} (hbar : bar.toNat % 16 = 0) (hlen : len.toNat % 16 = 0) (hsrc : src.toNat % 16 = 0)
    (hdst : dst.toNat % 16 = 0) (hdone : len.toNat ≤ 16 * p.pos) :
    exec (.copy q bar src dst len) s = .next (s.endCommand q c 0 len.toNat bar.toNat) :=
  congrArg Host.Outcome.next (runCommand_done h
    ((judgeFields_go rfl (by simp [hlen, hsrc, hdst]) hbar).trans (if_pos hdone)))

theorem fill_done {bar dst len : Dword} {pat : BitVec 128} (hbar : bar.toNat % 16 = 0) (hlen : len.toNat % 16 = 0)
    (hdst : dst.toNat % 16 = 0) (hdone : len.toNat ≤ 16 * p.pos) :
    exec (.fill q bar dst len pat) s = .next (s.endCommand q c 0 len.toNat bar.toNat) :=
  congrArg Host.Outcome.next (runCommand_done h
    ((judgeFields_go rfl (by simp [hlen, hdst]) hbar).trans (if_pos hdone)))

/-- SIGNAL, which has no object, stores its value or adds it to the word that stands there. -/
theorem signal_done (hwf : s.mem.wf = true) {addr value : Dword} {mode : BitVec 8} {decr : Dword} {k : Nat} (hmode : mode.toNat ≤ 1)
    (haddr : addr.toNat % 8 = 0) (h0 : addr ≠ 0) (hr : s.reach q c (if mode = 0 then .write else .both) addr.toNat = .at_ k)
    (hv : s.viralBlocks k = false) :
    ∃ t, exec (.signal q 0 addr value mode decr) s = .next t ∧ Popped s t q ∧ sameOutside s.mem t.mem k 8 ∧
      natOfBytes (t.mem.readN k 8) =
        (if mode = 0 then value.toNat else (natOfBytes (s.mem.readN k 8) + value.toNat) % 2 ^ 64) := by
  let new : Nat := if mode = 0 then value.toNat else natOfBytes (s.mem.readN k 8) + value.toNat
  let w : State := (s.cmdAccess q c k true).writeBytes k (bytesOfNat 8 new)
  have hexec : exec (.signal q 0 addr value mode decr) s = .next (w.endCommand q c 0 decr.toInt 0) :=
    congrArg Host.Outcome.next (runCommand_done h
      ((judgeFields_go (decide_eq_false (by omega)) (by simp [haddr]) rfl).trans ((if_neg h0).trans (by rw [hr]; rfl))))
  have hqueues : w.queues = s.queues := (writeBytes_queues ..).trans (cmdAccess_queues ..)
  have hmem : w.mem = s.mem.writeN k (bytesOfNat 8 new) :=
    (writeBytes_mem_of_not_blocked ((cmdAccess_viralBlocks ..).trans hv) _).trans (by rw [cmdAccess_mem])
  obtain ⟨hpop, hend⟩ := endCommand_free (c := c) (count := decr.toInt) (SameCommands.of_queues hqueues q)
  obtain ⟨hread, hout⟩ := stored_of_mem hwf (hend.trans hmem) (bytesOfNat_length 8 _)
  refine ⟨_, hexec, hpop, hout, ?_⟩
  rw [hread, natOfBytes_bytesOfNat]
  simp only [new]
  split
  · exact Nat.mod_eq_of_lt value.isLt
  · rfl

/-- KVCOMMIT, its entries copied, stores the new length (14 R368). -/
theorem kvcommit_done (hwf : s.mem.wf = true) {stage cache lenaddr maskaddr : Dword} {eb : Word} {n : BitVec 8} {cap : Word} {k : Nat}
    (heb : 16 ≤ eb.toNat ∧ eb.toNat ≤ 65536) (hn : 0 < n.toNat ∧ n.toNat ≤ 32)
    (ha : stage.toNat % 16 = 0 ∧ cache.toNat % 16 = 0 ∧ eb.toNat % 16 = 0 ∧ lenaddr.toNat % 8 = 0 ∧ maskaddr.toNat % 4 = 0)
    (hstage : p.stage = 1) (hdone : (slotsOf p.y n.toNat).length * (eb.toNat / 16) ≤ p.pos)
    (hr : s.reach q c .write lenaddr.toNat = .at_ k) (hv : s.viralBlocks k = false) :
    ∃ t, exec (.kvcommit q 0 stage cache lenaddr maskaddr eb n cap) s = .next t ∧ Popped s t q ∧ sameOutside s.mem t.mem k 8 ∧
      natOfBytes (t.mem.readN k 8) = (p.x + (slotsOf p.y n.toNat).length) % 2 ^ 64 := by
  obtain ⟨hstg, hcache, heb0, hlen, hmask⟩ := ha
  have hbad : (decide (eb.toNat < 16) || decide (65536 < eb.toNat) || n.toNat == 0 || decide (32 < n.toNat)) = false := by
    simp only [Bool.or_eq_false_iff, beq_eq_false_iff_ne, decide_eq_false_iff_not]
    omega
  obtain ⟨w, hw, hmem, hsame⟩ := cmdWrite_of_reach (bs := bytesOfNat 8 (p.x + (slotsOf p.y n.toNat).length)) (bad := false)
    (data := false) hr hv
  have hexec : exec (.kvcommit q 0 stage cache lenaddr maskaddr eb n cap) s =
      .next (w.endCommand q c 0 (n.toNat * eb.toNat) 0) :=
    congrArg Host.Outcome.next (runCommand_done h
      ((judgeFields_go hbad (by simp [hstg, hcache, heb0, hlen, hmask]) rfl).trans ((if_neg (by omega)).trans
        ((if_neg (by omega)).trans ((if_pos hdone).trans (by rw [hw]; rfl))))))
  obtain ⟨hpop, hend⟩ := endCommand_free (c := c) (count := n.toNat * eb.toNat) hsame
  obtain ⟨hread, hout⟩ := stored_of_mem hwf (hend.trans hmem) (bytesOfNat_length 8 _)
  refine ⟨_, hexec, hpop, hout, ?_⟩
  rw [hread, natOfBytes_bytesOfNat]

end

theorem toNat_ne_zero {x : Dword} (h : x ≠ 0) : x.toNat ≠ 0 := fun h0 => h (BitVec.eq_of_toNat_eq h0)

/-- Settles O37: COPY and FILL end as `endCommand` says, SIGNAL and KVCOMMIT after their last store. -/
theorem commandsEnd : Obligations.CommandsEnd := by
  unfold Obligations.CommandsEnd
  intro s q c p h hwf gone
  refine ⟨fun bar src dst len hbar hlen hsrc hdst hdone => ?copy, fun bar dst len pat hbar hlen hdst hdone => ?fill,
    fun addr value mode decr k hmode haddr h0 hr hv => signal_done h hwf hmode haddr h0 hr hv,
    fun stage cache lenaddr maskaddr eb n cap k heb heb' hn hn' hstg hcache heb0 hlen hmask hstage hdone hr hv =>
      kvcommit_done h hwf ⟨heb, heb'⟩ ⟨hn, hn'⟩ ⟨hstg, hcache, heb0, hlen, hmask⟩ hstage hdone hr hv⟩
  case copy =>
    obtain ⟨hfree, hobject⟩ := ends_of hwf (copy_done h hbar hlen hsrc hdst hdone)
    exact ⟨fun h0 => hfree (by rw [h0]; rfl), fun k h0 hr hv => hobject k (toNat_ne_zero h0) hr hv⟩
  case fill =>
    subst hbar
    exact (ends_of hwf (fill_done h rfl hlen hdst hdone)).1 rfl

end Sys2Proof.Machine

/-! TILE, TILEADD and VREAD (14 R369 to R372; 13 R332, R333). -/

namespace Sys2Proof.Machine

open Sys2Proof

/-! The fields of the command, and its shape record (14 R365, R369). -/

/-- A tile's rows and columns are in range. -/
def TileLegal (tr tc : BitVec 16) : Prop := 0 < tr.toNat ∧ tr.toNat ≤ 4096 ∧ 0 < tc.toNat ∧ tc.toNat ≤ 4096

theorem TileLegal.judged {tr tc : BitVec 16} (h : TileLegal tr tc) {s : State} {bar shape : Nat} {misaligned : Bool}
    (hbar : bar % 16 = 0) (hshape : shape % 64 = 0) (hmis : misaligned = false) {go : CmdOut} :
    judgeFields s 0 bar (tr.toNat == 0 || decide (4096 < tr.toNat) || tc.toNat == 0 || decide (4096 < tc.toNat))
      (shape % 64 != 0 || misaligned) go = go := by
  obtain ⟨hr, hr', hc, hc'⟩ := h
  refine judgeFields_go ?_ (by simp [hshape, hmis]) hbar
  simp only [Bool.or_eq_false_iff, beq_eq_false_iff_ne, decide_eq_false_iff_not]
  omega

section
variable {s : State} {q : Nat} {c : QCmd} {p : Progress} {bar shape : Nat} {tr tc : BitVec 16} {drained misaligned : Bool}
  {badShape : Shape → Nat → Bool} {go : State → TileJob → CmdOut} (hl : TileLegal tr tc) (hbar : bar % 16 = 0)
  (hshape : shape % 64 = 0) (hmis : misaligned = false)
include hl hbar hshape hmis

/-- The shape record is read sixteen bytes at a time. -/
theorem withShape_reads (hlen : p.shape.length < 64) (hlen16 : p.shape.length % 16 = 0) {k : Nat}
    (hr : s.reach q c .read (shape + p.shape.length) = .at_ k) :
    s.withShape q c p bar shape tr.toNat tc.toNat drained misaligned badShape go =
      .more ((s.cmdAccess q c k false).setProgress q { p with shape := p.shape ++ s.mem.readN k 16 }) := by
  have hread := readBytes_of_piece (accessSize_block (by omega)) hr
  refine (hl.judged hbar hshape hmis).trans ((if_pos hlen).trans ?_)
  rw [hread]

/-- With a legal record the command goes on. -/
theorem withShape_goes {r : Shape} {e : Nat} (hlen : 64 ≤ p.shape.length) (hr : r = Shape.of p.shape)
    (he : esizeOf r.efmt = some e) (hbad : r.bad e = false) (halign : r.misaligned e = false) (hok : badShape r e = false)
    (hobj : (if drained then r.baraddr else bar) % 16 = 0) :
    s.withShape q c p bar shape tr.toNat tc.toNat drained misaligned badShape go =
      go s ⟨r, e, if drained then r.baraddr else bar, (tr.toNat * tc.toNat * e : Nat)⟩ := by
  subst hr
  refine (hl.judged hbar hshape hmis).trans ((if_neg (Nat.not_lt.2 hlen)).trans ?_)
  simp [he, hbad, hok, halign, hobj]

end

/-! What reads and failures leave of queues (14 R363, R365). -/

theorem ite_writePoison_queues (p : Prop) [Decidable p] (x : State) (k n : Nat) :
    (if p then x.writePoison k n else x).queues = x.queues := by
  split
  · exact writePoison_queues ..
  · rfl

theorem postRecord_queues (s : State) (f : Nat) (r : FaultRec) : (s.postRecord f r).queues = s.queues := by
  unfold State.postRecord
  split
  · rfl
  · split <;> rfl

theorem logFailure_queues (s : State) (q : Nat) (c : QCmd) (cause bar : Nat) : (s.logFailure q c cause bar).queues = s.queues :=
  postRecord_queues ..

section
variable {s w : State} {q : Nat} {c : QCmd} {bs : List Byte} {bad : List Bool}

theorem cmdRead_got {va fuel n : Nat} (h : s.cmdRead q c va fuel n = .got bs bad w) : w.mem = s.mem ∧ w.queues = s.queues := by
  induction fuel generalizing s va n bs bad with
  | zero =>
    cases n <;> (cases h; exact ⟨rfl, rfl⟩)
  | succ fuel ih =>
    cases n with
    | zero => cases h; exact ⟨rfl, rfl⟩
    | succ n =>
      simp only [State.cmdRead] at h
      split at h
      · cases h
      · cases h
      · next key _ =>
        split at h
        · next hrest =>
          cases h
          obtain ⟨hmem, hqueues⟩ := ih hrest
          exact ⟨hmem.trans (cmdAccess_mem ..), hqueues.trans (cmdAccess_queues ..)⟩
        · next hno => exact absurd h (hno _ _ _)

/-- What a command has read changes neither memory nor its queue. -/
theorem readBytes_got {va n : Nat} (h : s.readBytes q c va n = .got bs bad w) : w.mem = s.mem ∧ w.queues = s.queues := cmdRead_got h

end

/-! Steps of TILE and TILEADD (14 R371, R373). -/

/-- TILE or TILEADD. -/
def tileInstr (q : Nat) (t : TileCmd) (add : Bool) : Instr := if add then .tileadd q t else .tile q t

theorem exec_tileInstr (s : State) (q : Nat) (t : TileCmd) (add : Bool) : exec (tileInstr q t add) s = .next (s.runTile q t add) := by
  cases add <;> rfl

/-- What the command knows once it has read its shape. -/
def tileJob (t : TileCmd) (r : Shape) (e : Nat) : TileJob :=
  ⟨r, e, if t.drained then r.baraddr else t.bar.toNat, (t.trows.toNat * t.tcols.toNat * e : Nat)⟩

/-- A tile command is at the head of its queue, and its fields and its shape record are legal. -/
structure TileRuns (s : State) (q : Nat) (c : QCmd) (p : Progress) (t : TileCmd) (add : Bool) (r : Shape) (e : Nat) : Prop where
  runs : CmdRuns s q c p
  legal : TileLegal t.trows t.tcols
  shape : t.shape.toNat % 64 = 0
  bar : t.bar.toNat % 16 = 0
  whole : 64 ≤ p.shape.length
  record : r = Shape.of p.shape
  esize : esizeOf r.efmt = some e
  fields : r.bad e = false
  aligned : r.misaligned e = false
  accepted : s.badTile q t add r e = false
  object : (tileJob t r e).bar % 16 = 0

section
variable {s : State} {q : Nat} {c : QCmd} {p : Progress} {t : TileCmd} {add : Bool} {r : Shape} {e : Nat}

theorem tile_reads (h : CmdRuns s q c p) (hl : TileLegal t.trows t.tcols) (hshape : t.shape.toNat % 64 = 0)
    (hbar : t.bar.toNat % 16 = 0) (hlen : p.shape.length < 64) (hlen16 : p.shape.length % 16 = 0) {k : Nat}
    (hr : s.reach q c .read (t.shape.toNat + p.shape.length) = .at_ k) :
    ∃ u, exec (tileInstr q t add) s = .next u ∧ u.mem = s.mem ∧ (u.progress q).shape = p.shape ++ s.mem.readN k 16 := by
  obtain ⟨u, hu, hum, hup⟩ := exec_of_more h (exec_tileInstr s q t add)
    (withShape_reads hl hbar hshape rfl hlen hlen16 hr)
  exact ⟨u, hu, hum.trans (cmdAccess_mem ..), by rw [hup]⟩

variable (h : TileRuns s q c p t add r e)
include h

theorem TileRuns.body : s.withShape q c p t.bar.toNat t.shape.toNat t.trows.toNat t.tcols.toNat t.drained false (s.badTile q t add)
    (fun s j => s.tileStep q c t add p j) = s.tileStep q c t add p (tileJob t r e) :=
  withShape_goes h.legal h.bar h.shape rfl h.whole h.record h.esize h.fields h.aligned h.accepted h.object

theorem TileRuns.more {w : State} {p' : Progress} (hb : s.tileStep q c t add p (tileJob t r e) = .more (w.setProgress q p')) :
    ∃ u, exec (tileInstr q t add) s = .next u ∧ u.mem = w.mem ∧ u.progress q = p' :=
  exec_of_more h.runs (exec_tileInstr s q t add) (h.body.trans hb)

theorem TileRuns.done {w : State} {count : Int} {bar : Nat} (hb : s.tileStep q c t add p (tileJob t r e) = .done w count bar) :
    exec (tileInstr q t add) s = .next (w.endCommand q c 0 count bar) :=
  (exec_tileInstr s q t add).trans (congrArg _ (runCommand_done h.runs (h.body.trans hb)))

/-! One access at a time (13 R323). -/

section
omit h
variable {j : TileJob} (haon : j.shape.aon = false)
include haon

theorem tileStep_got (hleft : p.pos < t.trows.toNat) (hstage : p.stage = 0) {bs : List Byte} {bad : List Bool} {w : State}
    (hgot : s.tileRowPiece q c t j.esize p.pos p.buf.length = .got bs bad w) :
    s.tileStep q c t add p j = .more (w.setProgress q { p with
      stage := if t.tcols.toNat * j.esize ≤ (p.buf ++ bs).length then 1 else 0, x := 0, buf := p.buf ++ bs, bad := p.bad ++ bad }) := by
  simp only [State.tileStep, haon, Bool.false_and, Bool.false_eq_true, if_false, if_neg (Nat.not_le.2 hleft), if_pos hstage, hgot]

theorem tileStep_next (hleft : p.pos < t.trows.toNat) (hstage : p.stage = 1)
    (hdone : (j.shape.run t.tcols.toNat p.pos).2 * j.esize ≤ p.x) :
    s.tileStep q c t add p j =
      .more (s.setProgress q { p with stage := 0, pos := p.pos + 1, x := 0, buf := [], bad := [] }) := by
  simp only [State.tileStep, haon, Bool.false_and, Bool.false_eq_true, if_false, if_neg (Nat.not_le.2 hleft), hstage, one_ne_zero,
    if_pos hdone]

theorem tileStep_wrote (hleft : p.pos < t.trows.toNat) (hstage : p.stage = 1)
    (hrest : p.x < (j.shape.run t.tcols.toNat p.pos).2 * j.esize) {w : State} {n : Nat}
    (hwrote : s.tileWrite q c add j p.buf p.bad t.tcols.toNat p.pos p.x = (.done w, n)) :
    s.tileStep q c t add p j = .more (w.setProgress q { p with x := p.x + n }) := by
  simp only [State.tileStep, haon, Bool.false_and, Bool.false_eq_true, if_false, if_neg (Nat.not_le.2 hleft), hstage, one_ne_zero,
    if_neg (Nat.not_le.2 hrest), hwrote]

theorem tileStep_all (hall : t.trows.toNat ≤ p.pos) : s.tileStep q c t add p j = .done s j.count j.bar := by
  simp only [State.tileStep, haon, Bool.false_and, Bool.false_eq_true, if_false, if_pos hall]

end

omit h in
/-- One write of a tile row: the bytes that it stores at its place (14 R371). -/
theorem tileWrite_of_reach {j : TileJob} {row : List Byte} {bad : List Bool} {tcols i o k size : Nat}
    (hsize : size = if add then j.esize else
      accessSize ((j.shape.addr j.esize i (j.shape.run tcols i).1 + o) % 2 ^ 64) ((j.shape.run tcols i).2 * j.esize - o))
    (hr : s.reach q c (if add then .both else .write) ((j.shape.addr j.esize i (j.shape.run tcols i).1 + o) % 2 ^ 64) = .at_ k)
    (hv : s.viralBlocks k = false) :
    ∃ w, s.tileWrite q c add j row bad tcols i o = (.done w, size) ∧ w.mem = s.mem.writeN k
      (tileBytes add j.shape.efmt j.esize (s.mem.readN k size) ((row.drop ((j.shape.run tcols i).1 * j.esize + o)).take size)) := by
  unfold State.tileWrite
  dsimp only
  rw [hr, ← hsize]
  refine ⟨_, rfl, ?_⟩
  have hmem : ∀ bs, ((s.cmdAccess q c k true).writeBytes k bs).mem = s.mem.writeN k bs := fun bs => by
    rw [writeBytes_mem_of_not_blocked ((cmdAccess_viralBlocks ..).trans hv), cmdAccess_mem]
  rw [modQueue_mem]
  split
  · rw [writePoison_mem]; exact hmem _
  · exact hmem _

/-- The next piece of a row is read from SRC. -/
theorem tile_row_read (haon : r.aon = false) (hleft : p.pos < t.trows.toNat) (hstage : p.stage = 0) (hd : t.drained = false) {k : Nat}
    (hr : s.reach q c .read (t.src.toNat + p.pos * t.tcols.toNat * e + p.buf.length) = .at_ k) :
    let size := accessSize (t.src.toNat + p.pos * t.tcols.toNat * e + p.buf.length) (t.tcols.toNat * e - p.buf.length)
    ∃ u, exec (tileInstr q t add) s = .next u ∧ u.mem = s.mem ∧ (u.progress q).buf = p.buf ++ s.mem.readN k size ∧
      (u.progress q).x = 0 ∧ (u.progress q).stage = if t.tcols.toNat * e ≤ p.buf.length + size then 1 else 0 := by
  intro size
  have hgot : s.tileRowPiece q c t e p.pos p.buf.length =
      .got (s.mem.readN k size) (List.replicate size (s.poisonIn k size)) (s.cmdAccess q c k false) := by
    unfold State.tileRowPiece
    rw [hd]
    exact readBytes_of_piece (accessSize_accessSize ..) hr
  obtain ⟨u, hu, hum, hup⟩ := h.more (tileStep_got haon hleft hstage hgot)
  refine ⟨u, hu, hum.trans (cmdAccess_mem ..), by rw [hup], by rw [hup], ?_⟩
  rw [hup, List.length_append, Bytes.readN_length]
  rfl

/-- A drained row is whole. -/
theorem tile_row_drained (haon : r.aon = false) (hleft : p.pos < t.trows.toNat) (hstage : p.stage = 0) (hd : t.drained = true)
    {b : DrainBuf} {row : List Nat} (hbuf : p.buf = []) (hb : (s.queue q).bufs.find t.buffer.toNat = some b)
    (hrow : b.rows[p.pos]? = some row) :
    ∃ u, exec (tileInstr q t add) s = .next u ∧ u.mem = s.mem ∧ (u.progress q).buf = row.flatMap (fun x => bytesOfNat e x) := by
  have hgot : s.tileRowPiece q c t e p.pos p.buf.length =
      .got (row.flatMap (fun x => bytesOfNat e x)) (List.replicate (row.length * e) (b.psn.getD p.pos false)) s := by
    have hgetD : b.rows.getD p.pos [] = row := by rw [List.getD_eq_getElem?_getD, hrow, Option.getD_some]
    unfold State.tileRowPiece State.tileRowBytes
    simp only [hd, if_true, hb, hgetD]
  obtain ⟨u, hu, hum, hup⟩ := h.more (tileStep_got haon hleft hstage hgot)
  exact ⟨u, hu, hum, by rw [hup, hbuf]; rfl⟩

/-- The next piece of a row is stored, or added to what stands there. -/
theorem tile_row_write (hwf : s.mem.wf = true) (haon : r.aon = false) (hleft : p.pos < t.trows.toNat) (hstage : p.stage = 1)
    (hrest : p.x < (r.run t.tcols.toNat p.pos).2 * e) {k size : Nat}
    (hsize : size = if add then e else
      accessSize ((r.addr e p.pos (r.run t.tcols.toNat p.pos).1 + p.x) % 2 ^ 64) ((r.run t.tcols.toNat p.pos).2 * e - p.x))
    (hlen : ((p.buf.drop ((r.run t.tcols.toNat p.pos).1 * e + p.x)).take size).length = size)
    (hr : s.reach q c (if add then .both else .write) ((r.addr e p.pos (r.run t.tcols.toNat p.pos).1 + p.x) % 2 ^ 64) = .at_ k)
    (hv : s.viralBlocks k = false) :
    ∃ u, exec (tileInstr q t add) s = .next u ∧ sameOutside s.mem u.mem k size ∧
      u.mem.readN k size = (if add then bytesOfNat e (tileSum r.efmt e (natOfBytes (s.mem.readN k e))
        (natOfBytes ((p.buf.drop ((r.run t.tcols.toNat p.pos).1 * e + p.x)).take size)))
        else (p.buf.drop ((r.run t.tcols.toNat p.pos).1 * e + p.x)).take size) ∧
      (u.progress q).x = p.x + size := by
  obtain ⟨w, hw, hmem⟩ := tileWrite_of_reach (j := tileJob t r e) (row := p.buf) (bad := p.bad) hsize hr hv
  obtain ⟨u, hu, hum, hup⟩ := h.more (tileStep_wrote haon hleft hstage hrest hw)
  have hbytes : (tileBytes add r.efmt e (s.mem.readN k size)
      ((p.buf.drop ((r.run t.tcols.toNat p.pos).1 * e + p.x)).take size)).length = size := by
    cases add with
    | true => exact (bytesOfNat_length ..).trans hsize.symm
    | false => exact hlen
  obtain ⟨hread, hout⟩ := stored_of_mem hwf (hum.trans hmem) hbytes
  refine ⟨u, hu, hout, hread.trans ?_, by rw [hup]⟩
  cases add with
  | true =>
    obtain rfl : size = e := hsize
    rfl
  | false => rfl

/-- A row whose run is written makes room for the next. -/
theorem tile_row_next (haon : r.aon = false) (hleft : p.pos < t.trows.toNat) (hstage : p.stage = 1)
    (hdone : (r.run t.tcols.toNat p.pos).2 * e ≤ p.x) :
    ∃ u, exec (tileInstr q t add) s = .next u ∧ u.mem = s.mem ∧ (u.progress q).pos = p.pos + 1 ∧ (u.progress q).stage = 0 ∧
      (u.progress q).buf = [] := by
  obtain ⟨u, hu, hum, hup⟩ := h.more (tileStep_next haon hleft hstage hdone)
  exact ⟨u, hu, hum, by rw [hup], by rw [hup], by rw [hup]⟩

/-- After the last row the command ends. -/
theorem tile_done (haon : r.aon = false) (hall : t.trows.toNat ≤ p.pos) :
    exec (tileInstr q t add) s = .next (s.endCommand q c 0 (tileJob t r e).count (tileJob t r e).bar) :=
  h.done (tileStep_all haon hall)

/-- An AON tile of more than 512 lines fails with AONBIG and changes nothing in memory (14 R371). -/
theorem tile_aonBig (haon : r.aon = true) (hobj : (tileJob t r e).bar = 0) (hbig : 512 < r.lines e t.trows.toNat t.tcols.toNat) :
    ∃ u, exec (tileInstr q t add) s = .next u ∧ Popped s u q ∧ u.mem = s.mem := by
  have hstep : s.tileStep q c t add p (tileJob t r e) = .fail s 5 (tileJob t r e).count 0 := by
    have haon' : (tileJob t r e).shape.aon = true := haon
    have hbig' : 512 < (tileJob t r e).shape.lines (tileJob t r e).esize t.trows.toNat t.tcols.toNat := hbig
    simp only [State.tileStep, haon', decide_eq_true hbig', Bool.and_self, if_true, hobj]
  have hrun : s.runTile q t add = (((s.queueSeen q c).logFailure q c 5 0).popCommand q) := by
    unfold State.runTile
    rw [runCommand_eq h.runs]
    rw [h.body, hstep]
    rfl
  have hqueues : ((s.queueSeen q c).logFailure q c 5 0).queues = s.queues := logFailure_queues ..
  refine ⟨_, (exec_tileInstr s q t add).trans (congrArg _ hrun), (SameCommands.of_queues hqueues q).popped, ?_⟩
  rw [popCommand_mem, logFailure_mem, queueSeen_mem]

/-! AON (13 R332). -/

section
omit h
variable {w : State} {j : TileJob} {i : Nat} {row : List Byte} {bad : List Bool}

theorem tileRowBytes_got {bs : List Byte} (hgot : s.tileRowBytes q c t e i = .got bs bad w) : w.queues = s.queues := by
  unfold State.tileRowBytes at hgot
  split at hgot
  · split at hgot <;> (cases hgot; rfl)
  · exact (readBytes_got hgot).2

theorem tileWrite_done {tcols o n : Nat} (hdone : s.tileWrite q c add j row bad tcols i o = (.done w, n)) : SameCommands s w q := by
  unfold State.tileWrite at hdone
  dsimp only at hdone
  split at hdone
  · cases hdone
  · cases hdone
  · next key _ =>
    cases hdone
    have hq : ∀ bs, ((s.cmdAccess q c key true).writeBytes key bs).queues = s.queues :=
      fun _ => (writeBytes_queues ..).trans (cmdAccess_queues ..)
    exact SameCommands.trans (SameCommands.of_queues ((ite_writePoison_queues ..).trans (hq _)) q) (sameCommands_wp ..)

theorem tileRowAll_done {tcols fuel o : Nat} (hdone : s.tileRowAll q c add j row bad tcols i fuel o = .done w) : SameCommands s w q := by
  induction fuel generalizing s o with
  | zero => cases hdone; exact .refl _ q
  | succ fuel ih =>
    simp only [State.tileRowAll] at hdone
    split at hdone
    · cases hdone; exact .refl _ q
    · rcases hw : s.tileWrite q c add j row bad tcols i o with ⟨x | x | x, n⟩ <;> rw [hw] at hdone
      · exact (tileWrite_done hw).trans (ih hdone)
      · cases hdone
      · cases hdone

theorem tileAll_done {is : List Nat} (hdone : s.tileAll q c t add j is = .done w) : SameCommands s w q := by
  induction is generalizing s with
  | nil => cases hdone; exact .refl _ q
  | cons i is ih =>
    simp only [State.tileAll] at hdone
    split at hdone
    · cases hdone
    · cases hdone
    · next hgot =>
      split at hdone
      · next hrow => exact ((SameCommands.of_queues (tileRowBytes_got hgot) q).trans (tileRowAll_done hrow)).trans (ih hdone)
      · next hno => exact absurd hdone (hno _)

end

section
variable {w : State} (haon : r.aon = true) (hobj : (tileJob t r e).bar = 0) (hfits : r.lines e t.trows.toNat t.tcols.toNat ≤ 512)
  (hall : s.tileAll q c t add (tileJob t r e) (List.range t.trows.toNat) = .done w)
include haon hfits

omit h in
theorem tileStep_aon : s.tileStep q c t add p (tileJob t r e) = s.tileAon q c t add (tileJob t r e) := by
  have haon' : (tileJob t r e).shape.aon = true := haon
  have hfits' : ¬ 512 < (tileJob t r e).shape.lines (tileJob t r e).esize t.trows.toNat t.tcols.toNat := Nat.not_lt.2 hfits
  simp only [State.tileStep, haon', decide_eq_false hfits', Bool.and_false, Bool.false_eq_true, if_false, if_true]

include hobj hall

/-- An AON tile without a version is its rows' writes as one event. -/
theorem tile_aon_plain (hver : r.ver = false) : ∃ u, exec (tileInstr q t add) s = .next u ∧ Popped s u q ∧ u.mem = w.mem := by
  have hstep : s.tileStep q c t add p (tileJob t r e) = .done w (tileJob t r e).count 0 := by
    have hver' : (tileJob t r e).shape.ver = false := hver
    rw [tileStep_aon haon hfits]
    simp only [State.tileAon, hall, hver', Bool.not_false, if_true, hobj]
  obtain ⟨hpop, hmem⟩ := endCommand_free (c := c) (count := (tileJob t r e).count) (tileAll_done hall)
  exact ⟨_, h.done hstep, hpop, hmem⟩

/-- With a version the same event increments that, too. -/
theorem tile_aon_version (hwf : s.mem.wf = true) (hver : r.ver = true) {k : Nat} (hr : s.reach q c .both r.veraddr = .at_ k)
    (hv : w.viralBlocks k = false) :
    ∃ u, exec (tileInstr q t add) s = .next u ∧ Popped s u q ∧ sameOutside w.mem u.mem k 8 ∧
      natOfBytes (u.mem.readN k 8) = (natOfBytes (w.mem.readN k 8) + 1) % 2 ^ 64 := by
  let v : State := (w.cmdAccess q c k true).writeBytes k (bytesOfNat 8 (natOfBytes (w.mem.readN k 8) + 1))
  have hstep : s.tileStep q c t add p (tileJob t r e) = .done v (tileJob t r e).count 0 := by
    have hver' : (tileJob t r e).shape.ver = true := hver
    have hr' : s.reach q c .both (tileJob t r e).shape.veraddr = .at_ k := hr
    rw [tileStep_aon haon hfits]
    simp only [State.tileAon, hall, hver', hr', Bool.not_true, Bool.false_eq_true, if_false, hobj]
    rfl
  have hqueues : v.queues = w.queues := (writeBytes_queues ..).trans (cmdAccess_queues ..)
  have hvmem : v.mem = w.mem.writeN k (bytesOfNat 8 (natOfBytes (w.mem.readN k 8) + 1)) :=
    (writeBytes_mem_of_not_blocked ((cmdAccess_viralBlocks ..).trans hv) _).trans (by rw [cmdAccess_mem])
  obtain ⟨hpop, hmem⟩ := endCommand_free (c := c) (count := (tileJob t r e).count)
    ((tileAll_done hall).trans (.of_queues hqueues q))
  obtain ⟨hread, hout⟩ := stored_of_mem ((tileAll_wf hwf ..).done hall) (hmem.trans hvmem) (bytesOfNat_length 8 _)
  refine ⟨_, h.done hstep, hpop, hout, ?_⟩
  rw [hread, natOfBytes_bytesOfNat]

end

end

end Sys2Proof.Machine

/-! VREAD (14 R372; 13 R333), and every tile command together. -/

namespace Sys2Proof.Machine

open Sys2Proof

/-- What VREAD knows once it has read its shape. -/
def vreadJob (r : Shape) (e bar : Nat) (tr tc : BitVec 16) : TileJob := ⟨r, e, bar, (tr.toNat * tc.toNat * e : Nat)⟩

/-- VREAD is at the head of its queue, and its fields and its shape record are legal. -/
structure VreadRuns (s : State) (q : Nat) (c : QCmd) (p : Progress) (bar shape dst vout : Dword) (tr tc : BitVec 16) (r : Shape)
    (e : Nat) : Prop where
  runs : CmdRuns s q c p
  bar : bar.toNat % 16 = 0
  legal : TileLegal tr tc
  shape : shape.toNat % 64 = 0
  dst : dst.toNat % 16 = 0
  vout : vout.toNat % 8 = 0
  whole : 64 ≤ p.shape.length
  record : r = Shape.of p.shape
  esize : esizeOf r.efmt = some e
  fields : r.bad e = false
  aligned : r.misaligned e = false
  versioned : r.ver = true

section
variable {s : State} {q : Nat} {c : QCmd} {p : Progress} {bar shape dst vout : Dword} {tr tc : BitVec 16} {r : Shape} {e : Nat}
  (h : VreadRuns s q c p bar shape dst vout tr tc r e)
include h

theorem VreadRuns.body : s.withShape q c p bar.toNat shape.toNat tr.toNat tc.toNat false
    (dst.toNat % 16 != 0 || vout.toNat % 8 != 0) (fun r _ => !r.ver)
    (fun s j => s.vreadStep q c p j dst.toNat vout.toNat tr.toNat tc.toNat) =
      s.vreadStep q c p (vreadJob r e bar.toNat tr tc) dst.toNat vout.toNat tr.toNat tc.toNat :=
  withShape_goes h.legal h.bar h.shape (by simp [h.dst, h.vout]) h.whole h.record h.esize h.fields h.aligned
    (by rw [h.versioned]; rfl) h.bar

theorem VreadRuns.more {w : State} {p' : Progress} (hb : s.vreadStep q c p (vreadJob r e bar.toNat tr tc) dst.toNat vout.toNat
    tr.toNat tc.toNat = .more (w.setProgress q p')) :
    ∃ u, exec (.vread q bar shape dst tr tc vout) s = .next u ∧ u.mem = w.mem ∧ u.progress q = p' :=
  exec_of_more h.runs rfl (h.body.trans hb)

theorem VreadRuns.done {w : State} {count : Int} {b : Nat} (hb : s.vreadStep q c p (vreadJob r e bar.toNat tr tc) dst.toNat vout.toNat
    tr.toNat tc.toNat = .done w count b) :
    exec (.vread q bar shape dst tr tc vout) s = .next (w.endCommand q c 0 count b) :=
  congrArg Host.Outcome.next (runCommand_done h.runs (h.body.trans hb))

/-- The version is read as one access. -/
theorem VreadRuns.version {k : Nat} (hr : s.reach q c .read r.veraddr = .at_ k) :
    s.readBytes q c r.veraddr 8 = .got (s.mem.readN k 8) (List.replicate 8 (s.poisonIn k 8)) (s.cmdAccess q c k false) := by
  have halign := h.aligned
  unfold Shape.misaligned at halign
  simp only [h.versioned, Bool.true_and, Bool.or_eq_false_iff, bne_eq_false_iff_eq] at halign
  exact readBytes_of_piece (accessSize_dword halign.2) hr

/-- The first read of the version (13 R333). -/
theorem vread_begins {k : Nat} (hr : s.reach q c .read r.veraddr = .at_ k) (hstage : p.stage = 0) (htries : p.tries < 4) :
    ∃ u, exec (.vread q bar shape dst tr tc vout) s = .next u ∧ u.mem = s.mem ∧ (u.progress q).stage = 1 ∧
      (u.progress q).pos = 0 ∧ (u.progress q).buf = [] ∧ (u.progress q).x = natOfBytes (s.mem.readN k 8) := by
  obtain ⟨u, hu, hum, hup⟩ := h.more (w := s.cmdAccess q c k false)
    (p' := { p with stage := 1, pos := 0, x := natOfBytes (s.mem.readN k 8), y := 0, buf := [], bad := []
                    verBad := (List.replicate 8 (s.poisonIn k 8)).any id })
    (by simp only [State.vreadStep, hstage, if_neg (Nat.not_le.2 htries), vreadJob, h.version hr])
  exact ⟨u, hu, hum.trans (cmdAccess_mem ..), by rw [hup], by rw [hup], by rw [hup], by rw [hup]⟩

/-- The second: the tile is delivered when the versions agree, and read again when they do not. -/
theorem vread_compares {k : Nat} (hr : s.reach q c .read r.veraddr = .at_ k) (hstage : p.stage = 2) :
    ∃ u, exec (.vread q bar shape dst tr tc vout) s = .next u ∧ u.mem = s.mem ∧
      (u.progress q).stage = (if natOfBytes (s.mem.readN k 8) = p.x then 3 else 0) ∧
      (natOfBytes (s.mem.readN k 8) ≠ p.x → (u.progress q).tries = p.tries + 1) := by
  obtain ⟨u, hu, hum, hup⟩ := h.more (w := s.cmdAccess q c k false)
    (p' := if natOfBytes (s.mem.readN k 8) = p.x then { p with stage := 3, pos := 0 } else { p with stage := 0, tries := p.tries + 1 })
    (by simp only [State.vreadStep, hstage, vreadJob, h.version hr])
  refine ⟨u, hu, hum.trans (cmdAccess_mem ..), ?_, fun hne => ?_⟩
  · rw [hup]; split <;> rfl
  · rw [hup, if_neg hne]

/-- A piece of a row is read, behind the zeros of what is clipped before it. -/
theorem vread_piece {k : Nat} (hstage : p.stage = 1) (hleft : p.pos < tr.toNat) (hrest : p.y < (r.run tc.toNat p.pos).2 * e)
    (hr : s.reach q c .read (r.addr e p.pos (r.run tc.toNat p.pos).1 + p.y) = .at_ k) :
    let size := accessSize (r.addr e p.pos (r.run tc.toNat p.pos).1 + p.y) ((r.run tc.toNat p.pos).2 * e - p.y)
    ∃ u, exec (.vread q bar shape dst tr tc vout) s = .next u ∧ u.mem = s.mem ∧ (u.progress q).stage = 1 ∧
      (u.progress q).y = p.y + size ∧
      (u.progress q).buf = p.buf ++ List.replicate ((if p.y = 0 then (r.run tc.toNat p.pos).1 else 0) * e) 0 ++ s.mem.readN k size := by
  intro size
  have hread := readBytes_of_piece (accessSize_accessSize _ ((r.run tc.toNat p.pos).2 * e - p.y)) hr
  obtain ⟨u, hu, hum, hup⟩ := h.more (w := s.cmdAccess q c k false)
    (p' := { p with y := p.y + size
                    buf := p.buf ++ List.replicate ((if p.y = 0 then (r.run tc.toNat p.pos).1 else 0) * e) 0 ++ s.mem.readN k size
                    bad := p.bad ++ List.replicate ((if p.y = 0 then (r.run tc.toNat p.pos).1 else 0) * e) false ++
                      List.replicate size (s.poisonIn k size) })
    (by simp only [State.vreadStep, hstage, if_neg (Nat.not_le.2 hleft), vreadJob, if_neg (Nat.not_le.2 hrest), hread]; rfl)
  exact ⟨u, hu, hum.trans (cmdAccess_mem ..), by rw [hup, hstage], by rw [hup], by rw [hup]⟩

/-- A row is whole: zeros stand for what is clipped behind it. -/
theorem vread_row (hstage : p.stage = 1) (hleft : p.pos < tr.toNat) (hdone : (r.run tc.toNat p.pos).2 * e ≤ p.y) :
    ∃ u, exec (.vread q bar shape dst tr tc vout) s = .next u ∧ u.mem = s.mem ∧ (u.progress q).stage = 1 ∧
      (u.progress q).pos = p.pos + 1 ∧ (u.progress q).y = 0 ∧
      (u.progress q).buf = p.buf ++ List.replicate ((tc.toNat - (r.run tc.toNat p.pos).1 - (r.run tc.toNat p.pos).2) * e) 0 := by
  obtain ⟨u, hu, hum, hup⟩ := h.more (w := s)
    (p' := { p with pos := p.pos + 1, y := 0
                    buf := p.buf ++ List.replicate ((tc.toNat - (r.run tc.toNat p.pos).1 - (r.run tc.toNat p.pos).2) * e) 0
                    bad := p.bad ++ List.replicate ((tc.toNat - (r.run tc.toNat p.pos).1 - (r.run tc.toNat p.pos).2) * e) false })
    (by simp only [State.vreadStep, hstage, if_neg (Nat.not_le.2 hleft), vreadJob, if_pos hdone])
  exact ⟨u, hu, hum, by rw [hup, hstage], by rw [hup], by rw [hup], by rw [hup]⟩

theorem vread_rows_end (hstage : p.stage = 1) (hdone : tr.toNat ≤ p.pos) :
    ∃ u, exec (.vread q bar shape dst tr tc vout) s = .next u ∧ u.mem = s.mem ∧ (u.progress q).stage = 2 := by
  obtain ⟨u, hu, hum, hup⟩ := h.more (w := s) (p' := { p with stage := 2 })
    (by simp only [State.vreadStep, hstage, if_pos hdone])
  exact ⟨u, hu, hum, by rw [hup]⟩

/-- A piece of the tile is delivered. -/
theorem vread_deliver (hwf : s.mem.wf = true) (hstage : p.stage = 3) (hleft : p.pos < p.buf.length) {k : Nat}
    (hr : s.reach q c .write (dst.toNat + p.pos) = .at_ k) (hv : s.viralBlocks k = false) :
    let size := accessSize (dst.toNat + p.pos) (p.buf.length - p.pos)
    ∃ u, exec (.vread q bar shape dst tr tc vout) s = .next u ∧ u.mem.readN k size = (p.buf.drop p.pos).take size ∧
      sameOutside s.mem u.mem k size ∧ (u.progress q).stage = 3 ∧ (u.progress q).pos = p.pos + size := by
  intro size
  have hsize : size ≤ p.buf.length - p.pos := accessSize_le (by omega)
  obtain ⟨w, hw, hmem, -⟩ := cmdWrite_of_reach (bs := (p.buf.drop p.pos).take size)
    (bad := ((p.bad.drop p.pos).take size).any (fun b => b)) (data := true) hr hv
  obtain ⟨u, hu, hum, hup⟩ := h.more (w := w) (p' := { p with pos := p.pos + size })
    (by simp only [State.vreadStep, hstage, if_neg (Nat.not_le.2 hleft)]; rw [hw])
  obtain ⟨hread, hout⟩ := stored_of_mem hwf (hum.trans hmem) (n := size) (by simp; omega)
  exact ⟨u, hu, hread, hout, by rw [hup, hstage], by rw [hup]⟩

theorem vread_delivered (hstage : p.stage = 3) (hdone : p.buf.length ≤ p.pos) :
    ∃ u, exec (.vread q bar shape dst tr tc vout) s = .next u ∧ u.mem = s.mem ∧ (u.progress q).stage = 4 := by
  obtain ⟨u, hu, hum, hup⟩ := h.more (w := s) (p' := { p with stage := 4 })
    (by simp only [State.vreadStep, hstage, if_pos hdone])
  exact ⟨u, hu, hum, by rw [hup]⟩

/-- Without VOUT the command ends. -/
theorem vread_done (hstage : p.stage = 4) (hvout : vout = 0) :
    exec (.vread q bar shape dst tr tc vout) s = .next (s.endCommand q c 0 (tr.toNat * tc.toNat * e : Nat) bar.toNat) := by
  subst hvout
  exact h.done (by simp only [State.vreadStep, hstage]; rfl)

/-- With VOUT it stores the version there first. -/
theorem vread_version (hwf : s.mem.wf = true) (hstage : p.stage = 4) (hvout : vout ≠ 0) (hbar : bar = 0) {k : Nat}
    (hr : s.reach q c .write vout.toNat = .at_ k) (hv : s.viralBlocks k = false) :
    ∃ u, exec (.vread q bar shape dst tr tc vout) s = .next u ∧ Popped s u q ∧ sameOutside s.mem u.mem k 8 ∧
      natOfBytes (u.mem.readN k 8) = p.x % 2 ^ 64 := by
  subst hbar
  obtain ⟨w, hw, hmem, hsame⟩ := cmdWrite_of_reach (bs := bytesOfNat 8 p.x) (bad := p.verBad) (data := false) hr hv
  have hexec := h.done (w := w) (count := (vreadJob r e 0 tr tc).count) (b := 0)
    (by simp only [State.vreadStep, hstage, if_neg (toNat_ne_zero hvout), hw]; rfl)
  obtain ⟨hpop, hend⟩ := endCommand_free (c := c) (count := (vreadJob r e 0 tr tc).count) hsame
  obtain ⟨hread, hout⟩ := stored_of_mem hwf (hend.trans hmem) (bytesOfNat_length 8 _)
  refine ⟨_, hexec, hpop, hout, ?_⟩
  rw [hread, natOfBytes_bytesOfNat]

end

/-! The version and the tile as one event, after four that disagreed (13 R333). -/

section
variable {s w : State} {q : Nat} {c : QCmd} {j : TileJob} {tcols i : Nat} {bs : List Byte} {bad : List Bool}

theorem vreadRow_got (hgot : s.vreadRow q c j tcols i = .got bs bad w) : w.mem = s.mem := by
  unfold State.vreadRow at hgot
  dsimp only at hgot
  split at hgot
  · cases hgot; rfl
  · split at hgot
    · next hread =>
      cases hgot
      exact (readBytes_got hread).1
    · next hno => exact absurd hgot (hno _ _ _)

theorem vreadRows_got {is : List Nat} (hgot : s.vreadRows q c j tcols is = .got bs bad w) : w.mem = s.mem := by
  induction is generalizing s bs bad with
  | nil => cases hgot; rfl
  | cons i is ih =>
    simp only [State.vreadRows] at hgot
    split at hgot
    · next hrow =>
      split at hgot
      · next hrest =>
        cases hgot
        exact (ih hrest).trans (vreadRow_got hrow)
      · next hno => exact absurd hgot (hno _ _ _)
    · next hno => exact absurd hgot (hno _ _ _)

end

theorem vread_whole {s s1 s2 : State} {q : Nat} {c : QCmd} {p : Progress} {bar shape dst vout : Dword} {tr tc : BitVec 16}
    {r : Shape} {e : Nat} (h : VreadRuns s q c p bar shape dst vout tr tc r e) {vb bs : List Byte} {vbad bad : List Bool}
    (hstage : p.stage = 0) (htries : 4 ≤ p.tries) (hver : s.readBytes q c r.veraddr 8 = .got vb vbad s1)
    (hrows : s1.vreadRows q c (vreadJob r e bar.toNat tr tc) tc.toNat (List.range tr.toNat) = .got bs bad s2) :
    ∃ u, exec (.vread q bar shape dst tr tc vout) s = .next u ∧ u.mem = s.mem ∧ (u.progress q).stage = 3 ∧
      (u.progress q).pos = 0 ∧ (u.progress q).buf = bs ∧ (u.progress q).x = natOfBytes vb := by
  have hver' : s.readBytes q c (vreadJob r e bar.toNat tr tc).shape.veraddr 8 = .got vb vbad s1 := hver
  obtain ⟨u, hu, hum, hup⟩ := h.more (w := s2)
    (p' := { p with stage := 3, pos := 0, x := natOfBytes vb, buf := bs, bad := bad, verBad := vbad.any id })
    (by simp only [State.vreadStep, hstage, if_pos htries, hver', hrows])
  exact ⟨u, hu, (hum.trans (vreadRows_got hrows)).trans (readBytes_got hver).1, by rw [hup], by rw [hup], by rw [hup], by rw [hup]⟩

/-- Settles O38: the steps of TILE, TILEADD and VREAD, one clause each. -/
theorem tileCommands : Obligations.TileCommands := by
  unfold Obligations.TileCommands
  intro s q c p hruns hwf gone ends legal zeros
  refine ⟨fun t add k hl hshape hbar hlen hlen16 hr => tile_reads hruns hl hshape hbar hlen hlen16 hr,
    fun r e hwhole hrecord hesize hfields haligned => ⟨?tile, ?vread⟩⟩
  case tile =>
    intro t add i lo n bar count hl hshape hbar hobject haccepted
    have h : TileRuns s q c p t add r e := ⟨hruns, hl, hshape, hbar, hwhole, hrecord, hesize, hfields, haligned, haccepted, hobject⟩
    exact ⟨fun haon hleft hstage hd _ k hr => tile_row_read h haon hleft hstage hd hr,
      fun haon hleft hstage hd b row hbuf hb hrow => tile_row_drained h haon hleft hstage hd hbuf hb hrow,
      fun haon hleft hstage hrest k hlen hr hv => tile_row_write h hwf haon hleft hstage hrest rfl hlen hr hv,
      fun haon hleft hstage hdone => tile_row_next h haon hleft hstage hdone,
      fun haon hall => ends_of hwf (tile_done h haon hall),
      fun haon hobj hbig => tile_aonBig h haon hobj hbig,
      fun w haon hobj hfits hall => ⟨fun hver => tile_aon_plain h haon hobj hfits hall hver,
        fun k hver hr hv => tile_aon_version h haon hobj hfits hall hwf hver hr hv⟩⟩
  case vread =>
    intro bar shape dst vout tr tc i lo n count hbar hl hshape hdst hvout hver
    have h : VreadRuns s q c p bar shape dst vout tr tc r e :=
      ⟨hruns, hbar, hl, hshape, hdst, hvout, hwhole, hrecord, hesize, hfields, haligned, hver⟩
    exact ⟨fun k hr => ⟨fun hstage htries => vread_begins h hr hstage htries, fun hstage => vread_compares h hr hstage⟩,
      fun vb vbad s1 bs bad s2 hstage htries hread hrows => vread_whole h hstage htries hread hrows,
      fun hstage hleft hrest k hr => vread_piece h hstage hleft hrest hr,
      fun hstage hleft hdone => vread_row h hstage hleft hdone,
      fun hstage hdone => vread_rows_end h hstage hdone,
      fun hstage hleft k hr hv => vread_deliver h hwf hstage hleft hr hv,
      fun hstage hdone => vread_delivered h hstage hdone,
      fun hstage h0 => ends_of hwf (vread_done h hstage h0),
      fun hstage h0 hbar0 k hr hv => vread_version h hwf hstage h0 hbar0 hr hv⟩

end Sys2Proof.Machine

/-! The 64 bytes of a command (14 Tables 14.2 and 14.4; 16 Table 16.4; 20 Table 20.5). -/

namespace Sys2Proof.Machine

open Sys2Proof

/-! A field of bytes laid one behind another. -/

theorem replicate_zero_eq_bytesOfNat (n : Nat) : List.replicate n (0 : Byte) = bytesOfNat n 0 := by
  induction n with
  | zero => rfl
  | succ n ih => rw [List.replicate_succ, ih]; rfl

theorem bytesOfNat_drop (m x o : Nat) : (bytesOfNat m x).drop o = bytesOfNat (m - o) (x / 256 ^ o) := by
  induction o generalizing m x with
  | zero => simp
  | succ o ih =>
    cases m with
    | zero => simp [bytesOfNat]
    | succ m =>
      rw [bytesOfNat, List.drop_succ_cons, ih, Nat.div_div_eq_div_mul, ← Nat.pow_succ', Nat.add_sub_add_right]

theorem bytesOfNat_take (m x n : Nat) (h : n ≤ m) : (bytesOfNat m x).take n = bytesOfNat n x := by
  induction n generalizing m x with
  | zero => rfl
  | succ n ih =>
    cases m with
    | zero => omega
    | succ m => rw [bytesOfNat, List.take_succ_cons, ih _ _ (Nat.le_of_succ_le_succ h), bytesOfNat]

/-- Bytes of one field. -/
theorem natAt_bytesOfNat {m x o n : Nat} (h : o + n ≤ m) : natAt (bytesOfNat m x) o n = x / 256 ^ o % 2 ^ (8 * n) := by
  rw [natAt, bytesOfNat_drop, bytesOfNat_take _ _ _ (by omega), natOfBytes_bytesOfNat]

theorem natAt_inside {m x o n : Nat} {ys : List Byte} (h : o + n ≤ m) :
    natAt (bytesOfNat m x ++ ys) o n = x / 256 ^ o % 2 ^ (8 * n) := by
  rw [← natAt_bytesOfNat h, natAt, natAt, List.drop_append_of_le_length (by simp; omega), List.take_append_of_le_length (by simp; omega)]

/-- The field before is passed over. -/
@[simp] theorem natAt_behind {m x o n : Nat} {ys : List Byte} (h : m ≤ o) : natAt (bytesOfNat m x ++ ys) o n = natAt ys (o - m) n := by
  rw [natAt, natAt, List.drop_append, List.drop_eq_nil_of_le (by simp; omega), List.nil_append, bytesOfNat_length]

/-- A field holds the number that was written there. -/
theorem natAt_number {n x : Nat} {ys : List Byte} (h : x < 2 ^ (8 * n)) : natAt (bytesOfNat n x ++ ys) 0 n = x := by
  rw [natAt_inside (by omega), Nat.pow_zero, Nat.div_one, Nat.mod_eq_of_lt h]

@[simp] theorem natAt_field {w n : Nat} (x : BitVec w) {ys : List Byte} (h : w ≤ 8 * n) :
    natAt (bytesOfNat n x.toNat ++ ys) 0 n = x.toNat :=
  natAt_number (Nat.lt_of_lt_of_le x.isLt (Nat.pow_le_pow_right (by omega) h))

@[simp] theorem natAt_field_last {w n : Nat} (x : BitVec w) (h : w ≤ 8 * n) : natAt (bytesOfNat n x.toNat) 0 n = x.toNat := by
  simpa using natAt_field x (ys := []) h

@[simp] theorem natAt_zeros {m o n : Nat} {ys : List Byte} (h : o + n ≤ m) : natAt (bytesOfNat m 0 ++ ys) o n = 0 := by
  rw [natAt_inside h, Nat.zero_div, Nat.zero_mod]

@[simp] theorem natAt_zeros_last {m o n : Nat} (h : o + n ≤ m) : natAt (bytesOfNat m 0) o n = 0 := by
  rw [natAt_bytesOfNat h, Nat.zero_div, Nat.zero_mod]

/-- The opcode stands in the first byte of its dword; the others are reserved. -/
@[simp] theorem natAt_opcode {op : Nat} {ys : List Byte} (h : op < 256) : natAt (bytesOfNat 8 op ++ ys) 0 1 = op := by
  rw [natAt_inside (by omega), Nat.pow_zero, Nat.div_one]
  exact Nat.mod_eq_of_lt h

@[simp] theorem natAt_opcode_reserved {op : Nat} {ys : List Byte} (h : op < 256) : natAt (bytesOfNat 8 op ++ ys) 1 7 = 0 := by
  rw [natAt_inside (by omega), Nat.pow_one, Nat.div_eq_of_lt h, Nat.zero_mod]

/-! Reserved bytes. -/

theorem decodeCommand_reserved {q kind : Nat} {drained : Bool} {bs : List Byte} (h : natAt bs 1 7 ≠ 0) :
    decodeCommand q kind drained bs = .error .badCommand := by
  have hz : zeroAt bs 1 7 = false := beq_eq_false_iff_ne.2 h
  unfold decodeCommand
  simp only [hz, Bool.false_and, Bool.false_eq_true, if_false]
  split
  · split <;> rfl
  · split <;> split <;> rfl

/-! The fabric's destination word (20 Table 20.5). -/

/-- Its node, function and class. -/
def destWord (dnode : BitVec 12) (dvf : BitVec 6) (cls : BitVec 2) : Nat := dnode.toNat + 2 ^ 16 * dvf.toNat + 2 ^ 22 * cls.toNat

section
variable (dnode : BitVec 12) (dvf : BitVec 6) (cls : BitVec 2)

theorem destWord_lt : destWord dnode dvf cls < 2 ^ 24 := by
  unfold destWord
  have h1 := dnode.isLt
  have h2 := dvf.isLt
  have h3 := cls.isLt
  omega

@[simp] theorem destWord_node : (BitVec.ofNat 32 (destWord dnode dvf cls)).extractLsb' 0 12 = dnode := by
  have h1 := dnode.isLt
  have h := destWord_lt dnode dvf cls
  apply BitVec.eq_of_toNat_eq
  rw [BitVec.extractLsb'_toNat, BitVec.toNat_ofNat, Nat.shiftRight_eq_div_pow]
  unfold destWord at h ⊢
  omega

@[simp] theorem destWord_fn : (BitVec.ofNat 32 (destWord dnode dvf cls)).extractLsb' 16 6 = dvf := by
  have h1 := dnode.isLt
  have h2 := dvf.isLt
  have h := destWord_lt dnode dvf cls
  apply BitVec.eq_of_toNat_eq
  rw [BitVec.extractLsb'_toNat, BitVec.toNat_ofNat, Nat.shiftRight_eq_div_pow]
  unfold destWord at h ⊢
  omega

@[simp] theorem destWord_class : (BitVec.ofNat 32 (destWord dnode dvf cls)).extractLsb' 22 2 = cls := by
  have h1 := dnode.isLt
  have h2 := dvf.isLt
  have h3 := cls.isLt
  have h := destWord_lt dnode dvf cls
  apply BitVec.eq_of_toNat_eq
  rw [BitVec.extractLsb'_toNat, BitVec.toNat_ofNat, Nat.shiftRight_eq_div_pow]
  unfold destWord at h ⊢
  omega

/-- Bits 12 to 15 are reserved. -/
@[simp] theorem destWord_reserved : destWord dnode dvf cls / 4096 % 16 = 0 := by
  have h1 := dnode.isLt
  unfold destWord
  omega

@[simp] theorem destWord_reserved_low : (destWord dnode dvf cls).testBit 12 = false := by
  have h1 := dnode.isLt
  rw [Nat.testBit_eq_decide_div_mod_eq, decide_eq_false_iff_not]
  unfold destWord
  omega

variable {ys : List Byte}

@[simp] theorem natAt_destWord : natAt (bytesOfNat 4 (destWord dnode dvf cls) ++ ys) 0 4 = destWord dnode dvf cls := by
  have h := destWord_lt dnode dvf cls
  exact natAt_number (by omega)

/-- And so is its last byte. -/
@[simp] theorem natAt_destWord_last : natAt (bytesOfNat 4 (destWord dnode dvf cls) ++ ys) 3 1 = 0 := by
  have h := destWord_lt dnode dvf cls
  rw [natAt_inside (by omega)]
  omega

end

/-- The 64 bytes of a fabric command. -/
def fabBytes (op : Nat) (x : FabCmd) : List Byte :=
  bytesOfNat 8 op ++ bytesOfNat 8 x.bar.toNat ++ (bytesOfNat 4 (destWord x.dnode x.dvf x.cls) ++ bytesOfNat 4 x.len.toNat ++
    bytesOfNat 8 x.laddr.toNat ++ bytesOfNat 8 x.raddr.toNat ++ bytesOfNat 8 x.rbar.toNat ++ bytesOfNat 8 x.opx.toNat ++
    bytesOfNat 8 x.operand.toNat)

theorem fabOf_fabBytes (op : Nat) (x : FabCmd) : fabOf (fabBytes op x) = x := by
  simp [fabOf, fabBytes, dwordAt]

theorem decodeCommand_fabBytes (q : Nat) (x : FabCmd) {op : Nat} {mk : Nat → FabCmd → Instr}
    (h : (op, mk) ∈ [(0x21, Instr.put), (0x22, .get), (0x23, .send), (0x24, .atomic), (0x25, .reduceput), (0x26, .colljoin),
      (0x27, .collleave)]) :
    decodeCommand q 1 false (fabBytes op x) = .ok (mk q x) := by
  have hlegal : (natAt (fabBytes op x) 0x10 4).testBit 12 = false ∧ natAt (fabBytes op x) 0x10 4 / 4096 % 16 = 0 ∧
      zeroAt (fabBytes op x) 0x13 1 = true := by simp [fabBytes, zeroAt]
  obtain ⟨h12, h13, hlast⟩ := hlegal
  simp only [List.mem_cons, Prod.mk.injEq, List.not_mem_nil, or_false] at h
  have hop : op < 256 := by omega
  have hop1 : natAt (fabBytes op x) 0 1 = op := by simp [fabBytes, hop]
  have hzero : zeroAt (fabBytes op x) 1 7 = true := by simp [fabBytes, zeroAt, hop]
  rcases h with ⟨rfl, rfl⟩ | ⟨rfl, rfl⟩ | ⟨rfl, rfl⟩ | ⟨rfl, rfl⟩ | ⟨rfl, rfl⟩ | ⟨rfl, rfl⟩ | ⟨rfl, rfl⟩ <;>
    simp [decodeCommand, hop1, hzero, h12, h13, hlast, fabOf_fabBytes]

/-- What MDRAIN appends decodes to the tile command of its rows (14 R373). -/
theorem decodeCommand_drainCommand (q : Nat) (add : Bool) (shape : Dword) {n buf : Nat} (hn : n ≤ 32) (hbuf : buf < 4) :
    decodeCommand q 0 true (drainCommand add shape.toNat n buf) =
      .ok ((if add then Instr.tileadd q else .tile q) ⟨0, 0, shape, BitVec.ofNat 16 n, 32, true, BitVec.ofNat 2 buf⟩) := by
  have hrows : ∀ ys, natAt (bytesOfNat 2 n ++ ys) 0 2 = n := fun _ => natAt_number (by omega)
  have hcols : ∀ ys, natAt (bytesOfNat 2 32 ++ ys) 0 2 = 32 := fun _ => natAt_number (by omega)
  have hbuffer : ∀ ys, natAt (bytesOfNat 1 buf ++ ys) 0 1 = buf := fun _ => natAt_number (by omega)
  cases add <;> simp [drainCommand, decodeCommand, tileOf, dwordAt, zeroAt, hrows, hcols, hbuffer]

/-- Settles O54: the words by evaluation, the commands field by field. -/
theorem decodedWords : Obligations.DecodedWords := by
  unfold Obligations.DecodedWords
  refine ⟨by decide +kernel, by decide +kernel, by decide +kernel, by decide +kernel, by decide +kernel, by decide +kernel,
    by decide +kernel, by decide +kernel, by decide +kernel, by decide +kernel, by decide +kernel, by decide +kernel,
    by decide +kernel, fun q bar => ?_⟩
  simp only [replicate_zero_eq_bytesOfNat]
  refine ⟨?copy, ?fill, ?tile, ?drain, ?gather, ?kvcommit, ?signal, ?vread, ?fabric, ?move, ?wssnap,
    fun kind drained bs h => decodeCommand_reserved h⟩
  case copy => intros; simp [decodeCommand, dwordAt, zeroAt]
  case fill => intros; simp [decodeCommand, dwordAt, zeroAt]
  case tile => intros; simp [decodeCommand, tileOf, dwordAt, zeroAt]
  case drain => exact fun add shape n buf hn hbuf => decodeCommand_drainCommand q add shape hn hbuf
  case gather => intros; simp [decodeCommand, dwordAt, zeroAt]
  case kvcommit => intros; simp [decodeCommand, dwordAt, zeroAt]
  case signal => intros; simp [decodeCommand, dwordAt, zeroAt]
  case vread => intros; simp [decodeCommand, dwordAt, zeroAt]
  case fabric => exact fun dnode dvf cls len laddr raddr rbar opx operand x hx =>
    decodeCommand_fabBytes q ⟨bar, dnode, dvf, cls, len, laddr, raddr, rbar, opx, operand⟩ hx
  case move =>
    intro va vf tier frame
    have hvf := vf.isLt
    have htier := tier.isLt
    simp [decodeCommand, dwordAt, zeroAt, hvf, htier]
  case wssnap =>
    intro dst len vf
    have hvf := vf.isLt
    simp [decodeCommand, dwordAt, zeroAt, hvf]

end Sys2Proof.Machine

/-! Power and clocks of a die (14 R383; 19 R476, R489). -/

namespace Sys2Proof.Machine

open Sys2Proof

section
variable {s : State} {d e : Nat}

theorem die_modDie (hd : d < 4) (f : Die → Die) : (s.modDie d f).die d = f (s.die d) := by
  simp [State.die, State.modDie, Nat.mod_eq_of_lt hd]

theorem die_modDie_ne (he : e < 4) (hne : e ≠ d) (f : Die → Die) : (s.modDie d f).die e = s.die e := by
  simp [State.die, State.modDie, Nat.mod_eq_of_lt he, hne]

theorem die_wake (s : State) (d : Nat) : s.wake.die d = s.die d := rfl

end

/-! Which die steps. -/

section
variable {s : State} {m : Nat → Nat} {ds : List Nat} {d x : Nat}

theorem pickDie_concat_takes (h : ∀ x ∈ s.pickDie m ds, m (s.die x).k50 < m (s.die d).k50) : s.pickDie m (ds ++ [d]) = some d := by
  cases hp : s.pickDie m ds with
  | none =>
    unfold State.pickDie at hp ⊢
    rw [List.foldl_append, hp]
    rfl
  | some x =>
    have hlt := h x (Option.mem_def.2 hp)
    unfold State.pickDie at hp ⊢
    rw [List.foldl_append, hp]
    exact if_pos hlt

theorem pickDie_concat_keeps (h : s.pickDie m ds = some x) (hle : m (s.die d).k50 ≤ m (s.die x).k50) :
    s.pickDie m (ds ++ [d]) = some x := by
  unfold State.pickDie at h ⊢
  rw [List.foldl_append, h]
  exact if_neg (Nat.not_lt.2 hle)

theorem pickDie_mem (h : s.pickDie m ds = some x) : x ∈ ds := by
  induction ds using List.reverseRecOn generalizing x with
  | nil => cases h
  | append_singleton ds d ih =>
    by_cases ht : ∀ y ∈ s.pickDie m ds, m (s.die y).k50 < m (s.die d).k50
    · rw [pickDie_concat_takes ht] at h
      cases h
      exact List.mem_append_right _ (List.mem_singleton.2 rfl)
    · push Not at ht
      obtain ⟨y, hy, hle⟩ := ht
      rw [pickDie_concat_keeps hy hle] at h
      cases h
      exact List.mem_append_left _ (ih hy)

/-- The first of the largest is picked. -/
theorem pickDie_first {xs ys : List Nat} (hbefore : ∀ x ∈ xs, m (s.die x).k50 < m (s.die d).k50)
    (hafter : ∀ y ∈ ys, m (s.die y).k50 ≤ m (s.die d).k50) : s.pickDie m (xs ++ d :: ys) = some d := by
  induction ys using List.reverseRecOn with
  | nil => exact pickDie_concat_takes fun x hx => hbefore x (pickDie_mem hx)
  | append_singleton ys y ih =>
    rw [← List.cons_append, ← List.append_assoc]
    exact pickDie_concat_keeps (ih fun z hz => hafter z (List.mem_append_left _ hz))
      (hafter y (List.mem_append_right _ (List.mem_singleton.2 rfl)))

theorem pickDie_of_first {p : Nat → Bool} (hd : d < 4) (hp : p d = true)
    (hmost : ∀ e, e < 4 → p e = true → m (s.die e).k50 ≤ m (s.die d).k50 ∧ (e < d → m (s.die e).k50 < m (s.die d).k50)) :
    s.pickDie m ((List.range 4).filter p) = some d := by
  have hsorted : ((List.range 4).filter p).Pairwise (· < ·) := List.pairwise_lt_range.filter p
  have hmem : ∀ e ∈ (List.range 4).filter p, e < 4 ∧ p e = true := fun e he => (List.mem_filter.1 he).imp_left List.mem_range.1
  obtain ⟨xs, ys, hsplit⟩ := List.append_of_mem (List.mem_filter.2 ⟨List.mem_range.2 hd, hp⟩ : d ∈ (List.range 4).filter p)
  rw [hsplit] at hsorted hmem ⊢
  obtain ⟨-, -, hless⟩ := List.pairwise_append.1 hsorted
  refine pickDie_first (fun x hx => ?_) (fun y hy => ?_)
  · obtain ⟨hx4, hpx⟩ := hmem x (List.mem_append_left _ hx)
    exact (hmost x hx4 hpx).2 (hless x hx d List.mem_cons_self)
  · obtain ⟨hy4, hpy⟩ := hmem y (List.mem_append_right _ (List.mem_cons_of_mem _ hy))
    exact (hmost y hy4 hpy).1

end

/-- When a die that stops now starts again: 750 ns after the end of its cycle (14 R383). -/
def State.restarts (s : State) (d : Nat) : Nat :=
  (s.die d).since + (s.cyclesSince d + 1) * (s.die d).period + 750 * Config.unitsPerNs

section
variable {s : State} {d : Nat} (hd : d < 4)
include hd

theorem stepDie_dies (k : Nat) :
    ((s.stepDie d k).die d).relock = some (s.restarts d, k) ∧ ∀ e, e < 4 → e ≠ d → (s.stepDie d k).die e = s.die e :=
  ⟨by rw [State.stepDie, die_modDie hd]; rfl, fun _ he hne => die_modDie_ne he hne _⟩

/-- The fastest die that may step goes down. -/
theorem lower_of_fastest (hmay : s.mayStep d = true) (hk : 16 < (s.die d).k50)
    (hfast : ∀ e, e < 4 → s.mayStep e = true → (s.die e).k50 ≤ (s.die d).k50 ∧ (e < d → (s.die e).k50 < (s.die d).k50)) :
    s.lower = s.stepDie d ((s.die d).k50 - 1) := by
  have hpick := pickDie_of_first (s := s) (m := fun k => k) (p := fun d => s.mayStep d && decide (16 < (s.die d).k50)) hd
    (by simp [hmay, hk]) fun e he hpe => hfast e he (Bool.and_eq_true_iff.1 hpe).1
  rw [State.lower, hpick]

/-- The slowest goes up (log 79). -/
theorem raiseClock_of_slowest (hmay : s.mayStep d = true) (hk : (s.die d).k50 < 36)
    (hslow : ∀ e, e < 4 → s.mayStep e = true → (s.die d).k50 ≤ (s.die e).k50 ∧ (e < d → (s.die d).k50 < (s.die e).k50)) :
    s.raiseClock = s.stepDie d ((s.die d).k50 + 1) := by
  have hpick := pickDie_of_first (s := s) (m := fun k => 36 - k) (p := fun d => s.mayStep d && decide ((s.die d).k50 < 36)) hd
    (by simp [hmay, hk]) fun e he hpe => by
      obtain ⟨hle, hlt⟩ := hslow e he (Bool.and_eq_true_iff.1 hpe).1
      exact ⟨by omega, fun hed => by have := hlt hed; omega⟩
  rw [State.raiseClock, hpick]

end

/-- What a step of some die leaves as it was. -/
structure SameButDies (s t : State) : Prop where
  pf : t.pf = s.pf
  mem : t.mem = s.mem
  parts : t.parts = s.parts

theorem lower_sameButDies (s : State) : SameButDies s s.lower := by
  unfold State.lower
  split <;> exact ⟨rfl, rfl, rfl⟩

theorem raiseClock_sameButDies (s : State) : SameButDies s s.raiseClock := by
  unfold State.raiseClock
  split <;> exact ⟨rfl, rfl, rfl⟩

theorem unthrottle_throttled (s : State) : ∀ e ∈ s.unthrottle.parts, e.2.throttled = false := by
  intro e he
  obtain ⟨x, -, rfl⟩ := List.mem_map.1 he
  rfl

/-! POWER_SAMPLE. -/

/-- The state once the sample is noted. -/
def State.noteSample (s : State) (above : Bool) : State :=
  { s with pf := { s.pf with sampled := s.reftime / 10000 + 1, above := above } }

section
variable {s : State} {watts : Nat} (hfrozen : s.frozenMgmt = false) (hsampled : s.pf.sampled ≤ s.reftime / 10000)
include hfrozen hsampled

theorem exec_powerSample_eq : exec (.powerSample watts) s =
    .next (let limit := Nat.min s.pf.pwrlim 2400
      let s := s.noteSample (decide (limit < watts))
      if limit < watts then s.lower.wake
      else if watts * 100 < 95 * limit then s.unthrottle.raiseClock.wake else s.unthrottle.wake) := by
  have hgo : ¬ (s.frozenMgmt || decide (s.reftime / 10000 < s.pf.sampled)) = true := by
    simpa [hfrozen] using hsampled
  exact if_neg hgo

theorem powerSample_above (h : Nat.min s.pf.pwrlim 2400 < watts) :
    exec (.powerSample watts) s = .next (s.noteSample true).lower.wake := by
  rw [exec_powerSample_eq hfrozen hsampled]
  simp only [if_pos h, decide_eq_true h]

theorem powerSample_below (h : watts * 100 < 95 * Nat.min s.pf.pwrlim 2400) :
    exec (.powerSample watts) s = .next (s.noteSample false).unthrottle.raiseClock.wake := by
  have hle : ¬ Nat.min s.pf.pwrlim 2400 < watts := by omega
  rw [exec_powerSample_eq hfrozen hsampled]
  simp only [if_neg hle, if_pos h, decide_eq_false hle]

theorem powerSample_between (hle : watts ≤ Nat.min s.pf.pwrlim 2400) (h : 95 * Nat.min s.pf.pwrlim 2400 ≤ watts * 100) :
    exec (.powerSample watts) s = .next (s.noteSample false).unthrottle.wake := by
  rw [exec_powerSample_eq hfrozen hsampled]
  simp only [if_neg (Nat.not_lt.2 hle), if_neg (Nat.not_lt.2 h), decide_eq_false (Nat.not_lt.2 hle)]

end

/-! POWER_GATE. -/

theorem leaveDie_gone (l : Line) (d : Nat) : d ∉ (l.leaveDie d).sharers ∧ (l.leaveDie d).owner ≠ some d := by
  refine ⟨fun h => by simpa using (List.mem_filter.1 h).2, fun h => ?_⟩
  simp only [Line.leaveDie] at h
  split at h
  · cases h
  · next hne => exact hne (beq_iff_eq.2 h)

theorem powerGate_applies {s : State} {d : Nat} (hreq : (s.die d).gateReq = true) (hgated : (s.die d).gated = false)
    (hrelock : (s.die d).relock = none) (hfrozen : s.frozenMgmt = false)
    (hkept : ∀ e ∈ s.lines, e.2.dirty = true → e.2.owner = some d → s.keepsDirty e.1 = false) :
    exec (.powerGate d) s = .next ((s.leaveLines d).gateClock d) := by
  have hany : s.lines.any (fun e => e.2.dirty && e.2.owner == some d && s.keepsDirty e.1) = false := by
    rw [List.any_eq_false]
    intro e he h
    simp only [Bool.and_eq_true, beq_iff_eq] at h
    obtain ⟨⟨hdirty, howner⟩, hkeeps⟩ := h
    simp [hkept e he hdirty howner] at hkeeps
  show execPowerGate d s = _
  unfold execPowerGate
  simp [hreq, hgated, hrelock, hfrozen, hany]

/-- Settles O48: a sample steps the die that `pickDie` names, RELOCK_END and POWER_GATE change the die they name. -/
theorem powerEvents : Obligations.PowerEvents := by
  unfold Obligations.PowerEvents
  refine ⟨fun s watts hfrozen hsampled => ?sample, fun s d u k hd hrelock hdue => ?relock,
    fun s d hd hreq hgated hrelock hfrozen hkept => ?gate⟩
  case sample =>
    intro limit due
    by_cases habove : limit < watts
    · have h := lower_sameButDies (s.noteSample true)
      refine ⟨_, powerSample_above hfrozen hsampled habove, congrArg (·.sampled) h.pf, ?_, h.mem, fun hle => ?_,
        fun _ d hd hmay hk hfast => ?_, fun hlt => ?_, fun _ hle => ?_⟩
      · rw [decide_eq_true habove]
        exact congrArg (·.above) h.pf
      · omega
      · have heq := lower_of_fastest (s := s.noteSample true) hd hmay hk hfast
        rw [heq]
        exact stepDie_dies hd _
      · omega
      · omega
    · by_cases hbelow : watts * 100 < 95 * limit
      · have h := raiseClock_sameButDies (s.noteSample false).unthrottle
        refine ⟨_, powerSample_below hfrozen hsampled hbelow, congrArg (·.sampled) h.pf, ?_, h.mem, fun _ => ?_,
          fun hlt => absurd hlt habove, fun _ d hd hmay hk hslow => ?_, fun hle => ?_⟩
        · rw [decide_eq_false habove]
          exact congrArg (·.above) h.pf
        · exact fun e he => unthrottle_throttled _ e (h.parts ▸ he)
        · have heq := raiseClock_of_slowest (s := (s.noteSample false).unthrottle) hd hmay hk hslow
          rw [heq]
          exact stepDie_dies hd _
        · omega
      · refine ⟨_, powerSample_between hfrozen hsampled (Nat.le_of_not_lt habove) (Nat.le_of_not_lt hbelow), rfl, ?_, rfl,
          fun _ => unthrottle_throttled _, fun hlt => absurd hlt habove, fun hlt => absurd hlt hbelow, fun _ _ => rfl⟩
        rw [decide_eq_false habove]
        rfl
  case relock =>
    refine ⟨_, rfl, ?_⟩
    simp only [State.endRelock, hrelock, if_pos hdue]
    rw [die_wake, die_modDie hd]
    rfl
  case gate =>
    refine ⟨_, powerGate_applies hreq hgated hrelock hfrozen hkept, ?_, rfl, fun line l hl => ?_⟩
    · rw [State.gateClock, die_modDie hd]
    · have hl' : (s.lines.find line).map (fun l => l.leaveDie d) = some l :=
        (Assoc.find_map s.lines line (fun _ l => l.leaveDie d)).symm.trans hl
      obtain ⟨x, -, rfl⟩ := Option.map_eq_some_iff.1 hl'
      exact leaveDie_gone x d

end Sys2Proof.Machine

/-! What placing, saving and releasing leave of the dispatch state: launches, submissions, dispatch queues, and every cluster but for
its status (16 R416 to R423). -/

namespace Sys2Proof.Machine

open Sys2Proof

/-- Launches, submissions and partitions are the same, and clusters but for their status. -/
structure SameDispatch (s t : State) : Prop where
  launches : t.launches = s.launches
  subs : t.subs = s.subs
  parts : t.parts = s.parts
  gangs : ∀ k c, s.gangs.find k = some c → ∃ x, t.gangs.find k = some { c with status := x }

namespace SameDispatch
variable {s t u : State}

theorem of_gangs (hl : t.launches = s.launches) (hs : t.subs = s.subs) (hp : t.parts = s.parts) (hg : t.gangs = s.gangs) :
    SameDispatch s t :=
  ⟨hl, hs, hp, fun _ c hc => ⟨c.status, hg ▸ hc⟩⟩

theorem refl (s : State) : SameDispatch s s := of_gangs rfl rfl rfl rfl

theorem trans (h : SameDispatch s t) (h' : SameDispatch t u) : SameDispatch s u :=
  ⟨h'.launches.trans h.launches, h'.subs.trans h.subs, h'.parts.trans h.parts, fun k c hc => by
    obtain ⟨x, hx⟩ := h.gangs k c hc
    obtain ⟨y, hy⟩ := h'.gangs k _ hx
    exact ⟨y, hy⟩⟩

theorem ite {p : Prop} [Decidable p] (ht : SameDispatch s t) (hu : SameDispatch s u) : SameDispatch s (if p then t else u) := by
  split
  · exact ht
  · exact hu

theorem foldl {α : Type} {f : State → α → State} (hf : ∀ s x, SameDispatch s (f s x)) (xs : List α) (s : State) :
    SameDispatch s (xs.foldl f s) := by
  induction xs generalizing s with
  | nil => exact refl s
  | cons x xs ih => exact (hf s x).trans (ih _)

end SameDispatch

/-! Signals. -/

theorem message_sameDispatch (s : State) (fn vec : Nat) : SameDispatch s (s.message fn vec) := .of_gangs rfl rfl rfl rfl

theorem violate_sameDispatch (s : State) (management : Bool) (clamp addr : Nat) : SameDispatch s (s.violate management clamp addr) :=
  .ite (.of_gangs rfl rfl rfl rfl) (.of_gangs rfl rfl rfl rfl)

theorem signal_sameDispatch (s : State) (fn vec : Nat) : SameDispatch s (s.signal fn vec) :=
  .ite (message_sameDispatch ..) (.ite (.refl s) (violate_sameDispatch ..))

theorem noteWalk_sameDispatch (s : State) (fn va : Nat) : SameDispatch s (s.noteWalk fn va) := by
  unfold State.noteWalk
  split
  · exact signal_sameDispatch ..
  · exact .refl _

theorem noteRegions_sameDispatch (s : State) (l : Launch) : SameDispatch s (s.noteRegions l) :=
  .foldl (fun _ _ => noteWalk_sameDispatch ..) _ s

/-! Records in a pool. -/

theorem storeRecord_sameDispatch (s : State) (fn first chunks : Nat) (l : Layout) : SameDispatch s (s.storeRecord fn first chunks l) := by
  unfold State.storeRecord
  dsimp only
  refine .trans ?_ (.foldl (fun _ _ => ?_) l _) <;> exact .of_gangs rfl rfl rfl rfl

theorem freeRecord_sameDispatch (s : State) (fn kind lrec key : Nat) : SameDispatch s (s.freeRecord fn kind lrec key) := by
  unfold State.freeRecord
  split <;> exact .of_gangs rfl rfl rfl rfl

theorem freeGangRecords_sameDispatch (s : State) (fn lrec gridpos : Nat) : SameDispatch s (s.freeGangRecords fn lrec gridpos) := by
  refine .foldl (fun s _ => .ite ?_ (.refl s)) _ s
  exact .of_gangs rfl rfl rfl rfl

theorem writePoison_sameDispatch (s : State) (k n : Nat) : SameDispatch s (s.writePoison k n) := by
  unfold State.writePoison
  split <;> exact .of_gangs rfl rfl rfl rfl

section
variable {s t : State}

theorem putRecord_sameDispatch {fn kind lrec key chunks : Nat} {l : Layout} (h : s.putRecord fn kind lrec key chunks l = some t) :
    SameDispatch s t := by
  unfold State.putRecord at h
  have hs : ∀ first, SameDispatch s (s.storeRecord fn first chunks l) := fun first => storeRecord_sameDispatch s ..
  extract_lets es at h
  split at h
  · next i first _ _ =>
    extract_lets u entry at h
    have hu : SameDispatch s u := hs first
    clear_value u entry
    cases h
    exact hu.trans (.of_gangs rfl rfl rfl rfl)
  · cases h

theorem putPart_sameDispatch {fn kind lrec key chunks : Nat} {p : RecordPart} (h : s.putPart fn kind lrec key chunks p = some t) :
    SameDispatch s t := by
  unfold State.putPart at h
  obtain ⟨u, hu, ht⟩ := Option.bind_eq_some_iff.1 h
  obtain ⟨a, -, rfl⟩ := Option.map_eq_some_iff.1 ht
  have hsu : SameDispatch s u := by
    split at hu
    · cases hu
      exact .refl _
    · exact putRecord_sameDispatch hu
  refine (hsu.trans (.foldl (fun _ _ => ?_) p.bytes u)).trans (.foldl (fun _ _ => writePoison_sameDispatch ..) p.bad _)
  exact .of_gangs rfl rfl rfl rfl

theorem saveOwner_sameDispatch {o : Nat} {own : Bool} {hit : Nat → Bool} (h : s.saveOwner o own hit = some t) : SameDispatch s t := by
  unfold State.saveOwner at h
  extract_lets team at h
  have hteam : ∀ {x y : State} {tid : Nat} {own : Bool} {hit : Nat → Bool}, team x tid own hit = some y → SameDispatch x y := by
    intro x y tid own hit hy
    unfold team at hy
    split at hy
    · cases hy
      exact .refl x
    · split at hy
      · cases hy
        exact .refl x
      · exact putPart_sameDispatch hy
  clear_value team
  split at h
  · split at h
    · cases h
      exact .refl _
    · obtain ⟨u, hu, ht⟩ := Option.bind_eq_some_iff.1 h
      refine (putPart_sameDispatch hu).trans ?_
      split at ht
      · exact hteam ht
      · cases ht
        exact .refl _
  · exact hteam h

theorem saveOwners_sameDispatch {own : Nat → Bool} {hit : Nat → Nat → Bool} {os : List Nat} (h : s.saveOwners own hit os = some t) :
    SameDispatch s t := by
  induction os generalizing s with
  | nil =>
    cases h
    exact .refl _
  | cons o os ih =>
    rw [State.saveOwners] at h
    split at h
    · next hu => exact (saveOwner_sameDispatch hu).trans (ih h)
    · cases h

/-! Claims and clusters. -/

/-- A gang's status may change. -/
theorem modGang_status_sameDispatch (s : State) (k : Nat) (f : Gang → GangStatus) :
    SameDispatch s (s.modGang k (fun c => { c with status := f c })) := by
  refine ⟨rfl, rfl, rfl, fun i c hc => ?_⟩
  by_cases hi : i = k
  · subst hi
    refine ⟨f c, ?_⟩
    rw [State.modGang, Assoc.find_modify, hc]
    rfl
  · refine ⟨c.status, ?_⟩
    rw [State.modGang, Assoc.find_modify_ne _ _ hi, hc]

theorem markSaved_sameDispatch (s : State) (o : Nat) : SameDispatch s (s.markSaved o) := by
  unfold State.markSaved
  split
  · exact modGang_status_sameDispatch ..
  · exact modGang_status_sameDispatch ..
  · exact .refl _

theorem claimCore_sameDispatch {core : Nat} {plan : CorePlan} (h : s.claimCore core plan = some t) : SameDispatch s t := by
  unfold State.claimCore at h
  obtain ⟨u, hu, rfl⟩ := Option.map_eq_some_iff.1 h
  exact ((saveOwners_sameDispatch hu).trans (.foldl markSaved_sameDispatch _ u)).trans (.of_gangs rfl rfl rfl rfl)

theorem placeTeam_sameDispatch {l : Launch} {x : Cluster} {gk i : Nat} (h : s.placeTeam l x gk i = some t) : SameDispatch s t := by
  unfold State.placeTeam at h
  dsimp only at h
  split at h
  · cases h
  · obtain ⟨u, hu, rfl⟩ := Option.map_eq_some_iff.1 h
    refine ((claimCore_sameDispatch hu).trans ?_).trans (.foldl (fun _ _ => ?_) _ _) <;> exact .of_gangs rfl rfl rfl rfl

theorem placeTeams_sameDispatch {l : Launch} {x : Cluster} {gk : Nat} {is : List Nat} (h : s.placeTeams l x gk is = some t) :
    SameDispatch s t := by
  induction is generalizing s with
  | nil =>
    cases h
    exact .refl _
  | cons i is ih =>
    rw [State.placeTeams] at h
    split at h
    · next hu => exact (placeTeam_sameDispatch hu).trans (ih h)
    · cases h

/-- The cluster that a placement makes. -/
theorem placeCluster_gang {x : Cluster} {l : Launch} (hl : s.launches.find x.launch = some l) (h : s.placeCluster x = some t) :
    t.launches = s.launches ∧ ∃ c, t.gangs.find s.nextId = some c ∧ c.launch = x.launch ∧ c.fn = l.fn ∧ c.gridpos = x.gridpos ∧
      c.die = x.die ∧ (c.row, c.col) = (x.row, x.col) ∧ (c.w, c.h) = (x.w, x.h) ∧ c.fallback = x.fallback := by
  unfold State.placeCluster at h
  rw [hl] at h
  obtain ⟨u, hu, rfl⟩ := Option.map_eq_some_iff.1 h
  have hsame := placeTeams_sameDispatch hu
  obtain ⟨st, hst⟩ := hsame.gangs s.nextId _ (Assoc.find_set ..)
  exact ⟨hsame.launches, _, hst, rfl, rfl, rfl, rfl, rfl, rfl, rfl⟩

end

/-! The end of a context. -/

theorem releaseContext_sameDispatch (s : State) (ctx : Nat) : SameDispatch s (s.releaseContext ctx) := by
  unfold State.releaseContext
  split
  · exact .refl _
  · refine .foldl (fun x e => ?_) _ s
    extract_lets y z
    have hy : SameDispatch x y := .foldl (fun _ _ => freeRecord_sameDispatch ..) _ x
    have hz : SameDispatch y z := .of_gangs rfl rfl rfl rfl
    clear_value y z
    refine (hy.trans hz).trans (.foldl (fun w o => ?_) _ z)
    refine .trans ?_ (.foldl (fun _ _ => ?_) (blockRows o.1) _) <;> exact .of_gangs rfl rfl rfl rfl

end Sys2Proof.Machine

/-! Launches pass the gate, are placed and complete (14 R376 to R378; 16 R411, R416, R419). -/

namespace Sys2Proof.Machine

open Sys2Proof

/-! The residency gate (16 R416). -/

theorem dqHead_launch {s : State} {part dq id : Nat} {l : Launch} (h : s.dqHead part dq = some (id, l)) : s.launches.find id = some l := by
  unfold State.dqHead at h
  split at h
  · cases h
  · obtain ⟨i, -, hi⟩ := List.exists_of_findSome?_eq_some h
    split at hi
    · next hl =>
      split at hi
      · cases hi
      · cases hi
        exact hl
    · cases hi

/-- A launch that can be resident: each region has pages enough, and tier 1 has frames enough. -/
def State.canReside (s : State) (p : Part) (l : Launch) : Prop :=
  (∀ r ∈ l.regions, r.need ≤ s.countable l.fn r) ∧ (l.regions.map Region.need).sum ≤ s.frames p 1

section
variable {s : State} {part dq id : Nat} {p : Part} {l : Launch} (hp : s.part part = some p) (hd : s.dqHead part dq = some (id, l))
  (hgate : l.gate = false) (hfrozen : s.frozenPup = false)

theorem refused_iff : (l.regions.any (fun r => decide (s.countable l.fn r < r.need)) ||
    decide (s.frames p 1 < (l.regions.map Region.need).sum)) = true ↔ ¬ s.canReside p l := by
  simp only [State.canReside, Bool.or_eq_true, List.any_eq_true, decide_eq_true_eq, not_and_or, not_forall, Nat.not_le, exists_prop]

include hp hd hgate hfrozen

theorem residencyGate_passes (hcan : s.canReside p l) (hin : ∀ r ∈ l.regions, r.need ≤ s.residentCount l.fn r) :
    exec (.residencyGate part dq) s = .next (s.modLaunch id (fun l => { l with gate := true })) := by
  show execResidencyGate part dq s = _
  unfold execResidencyGate
  have hready : l.regions.all (fun r => decide (r.need ≤ s.residentCount l.fn r)) = true :=
    List.all_eq_true.2 fun r hr => decide_eq_true (hin r hr)
  rw [hp, hd]
  simp only [hgate, hfrozen, Bool.or_self, Bool.false_eq_true, if_false, if_neg (fun h => refused_iff.1 h hcan), if_pos hready]

theorem residencyGate_refuses (hcan : ¬ s.canReside p l) :
    exec (.residencyGate part dq) s = .next ((s.noteRegions l).dropLaunch id l 3) := by
  show execResidencyGate part dq s = _
  unfold execResidencyGate
  rw [hp, hd]
  simp only [hgate, hfrozen, Bool.or_self, Bool.false_eq_true, if_false, if_pos (refused_iff.2 hcan)]

end

/-- A refused launch is gone, and its submission has the status. -/
theorem dropLaunch_done (s : State) (id : Nat) (l : Launch) (status : Nat) : (s.dropLaunch id l status).launches.find id = none ∧
    (s.dropLaunch id l status).subs.find l.sub = (s.subs.find l.sub).map (fun x => { x with status := status, launch := none }) := by
  unfold State.dropLaunch
  extract_lets x y z
  have h := releaseContext_sameDispatch z (l.part * 65 + l.fn)
  have hsubs : z.subs = s.subs.modify l.sub (fun x => { x with status := status, launch := none }) := rfl
  rw [h.launches, h.subs, hsubs]
  exact ⟨Assoc.find_drop .., Assoc.find_modify ..⟩

/-! Placement (14 R376, R377). -/

section
variable {s u : State} {id die ticket src : Nat} {l : Launch} {p : Part} {at_ : Nat × Nat} {fb : Bool}

/-- The launch after its ticket is placed on a die. -/
def Launch.placed (l : Launch) (die src : Nat) : Launch :=
  let l := l.take die src
  { l with ranges := l.ranges.map (fun r => if r.die = die then { r with count := 0 } else r) }

theorem placeTicket_of_cluster (hl : s.launches.find id = some l) (hp : s.part l.part = some p) (hgate : l.gate = true)
    (hdie : p.dies.contains die = true) (hmay : s.mayPlaceIn die = true) (hticket : l.nextTicket die = some (ticket, src))
    (howner : s.ownerFirst p l die src = false)
    (hrect : s.findRect p (l.part * 65 + l.fn) l.cfg die (if fb then l.cfg.fallback else (l.cfg.gangpw, l.cfg.gangph)).1
      (if fb then l.cfg.fallback else (l.cfg.gangpw, l.cfg.gangph)).2 = some at_)
    (hu : s.placeCluster ⟨id, die, at_.1, at_.2, (if fb then l.cfg.fallback else (l.cfg.gangpw, l.cfg.gangph)).1,
      (if fb then l.cfg.fallback else (l.cfg.gangpw, l.cfg.gangph)).2, fb, ticket⟩ = some u) :
    ∃ t, s.placeTicket id die fb = some t ∧ t.gangs = u.gangs ∧ t.launches = u.launches.modify id (fun l => l.placed die src) := by
  unfold State.placeTicket
  simp only [hl, hp, hticket, hgate, hdie, hmay, howner, Bool.not_true, Bool.or_self, Bool.false_eq_true, if_false, hrect,
    Option.bind_some, hu, Option.map_some]
  exact ⟨_, rfl, rfl, rfl⟩

theorem exec_placement (hl : s.launches.find id = some l) (hp : s.part l.part = some p) (hone : p.oneDie = false)
    (hmay : s.mayRun l.part l.fn = true) (hgang : s.gangFirst l = false) (hhead : s.isHead id l = true)
    (hfb : fb = true → s.fallbackWaits id die = true ∧ ∃ r ∈ l.ranges, r.die = die ∧ 2048 ≤ r.count)
    {t : State} (ht : s.placeTicket id die fb = some t) :
    exec (if fb then .fallbackPlacement id die else .carouselPlace id die) s = .next t := by
  cases fb with
  | false =>
    show execCarouselPlace id die s = _
    unfold execCarouselPlace
    simp only [hl, hp, Option.map_some, Option.getD_some, hone, Bool.false_eq_true, if_false, hmay, hhead, hgang, Bool.not_false,
      Bool.and_self, if_true, ht]
  | true =>
    obtain ⟨hwaits, r, hr, hdie, hcount⟩ := hfb rfl
    have hany : l.ranges.any (fun r => r.die == die && decide (2048 ≤ r.count)) = true :=
      List.any_eq_true.2 ⟨r, hr, by simp [hdie, hcount]⟩
    show execFallbackPlacement id die s = _
    unfold execFallbackPlacement
    simp only [hl, hp, Option.map_some, Option.getD_some, hone, Bool.false_eq_true, if_false, hmay, hany, hwaits, hgang, Bool.not_false,
      Bool.and_self, if_true, ht]

end

/-! Completion (14 R378; 16 R419). -/

theorem leaveDq_gone (s : State) (id : Nat) : ∀ p ∈ (s.leaveDq id).parts, ∀ d ∈ p.2.dq, id ∉ d.2 := by
  intro p hp d hd hid
  obtain ⟨e, -, rfl⟩ := List.mem_map.1 hp
  obtain ⟨f, -, rfl⟩ := List.mem_map.1 hd
  simpa using (List.mem_filter.1 hid).2

theorem launchComplete_done {s : State} {id : Nat} {l : Launch} (hl : s.launches.find id = some l) (hnot : l.complete = false)
    (hall : l.allPlaced = true) (hgangs : ∀ k c, (k, c) ∈ s.gangs → c.launch = id → c.status = .finished) :
    ∃ t, exec (.launchComplete id) s = .next t ∧ t.launches.find id = some { l with complete := true } ∧
      (∀ p ∈ t.parts, ∀ d ∈ p.2.dq, id ∉ d.2) := by
  have hfinished : (s.gangsOf id).all (fun e => e.2.status == .finished) = true := by
    rw [List.all_eq_true]
    intro e he
    obtain ⟨hmem, hid⟩ := List.mem_filter.1 he
    exact beq_iff_eq.2 (hgangs e.1 e.2 hmem (beq_iff_eq.1 hid))
  let x : State := (s.gangsOf id).foldl (fun s e => s.freeGangRecords l.fn l.lrec.toNat e.2.gridpos) s
  let y : State := (x.modLaunch id (fun l => { l with complete := true })).leaveDq id
  have hexec : exec (.launchComplete id) s = .next (y.releaseContext (l.part * 65 + l.fn)) := by
    show execLaunchComplete id s = _
    unfold execLaunchComplete
    simp only [hl, hnot, hall, hfinished, Bool.not_false, Bool.and_self, if_true]
    rfl
  have hx : SameDispatch s x := .foldl (fun _ _ => freeGangRecords_sameDispatch ..) _ s
  have hy := releaseContext_sameDispatch y (l.part * 65 + l.fn)
  have hlaunches : y.launches = x.launches.modify id (fun l => { l with complete := true }) := rfl
  refine ⟨_, hexec, ?_, hy.parts ▸ leaveDq_gone _ id⟩
  rw [hy.launches, hlaunches, Assoc.find_modify, hx.launches, hl]
  rfl

/-- A completion write of a function's own (14 R378). -/
def State.storeOwn (s : State) (key : Nat) (bs : List Byte) : State := (s.classify key (homeDie key) none true).writeBytes key bs

theorem storeOwn_frame {s : State} (hv : s.viral = false) (key : Nat) (bs : List Byte) : ∃ gs ls cs lo p, s.storeOwn key bs =
    { s with granules := gs, lines := ls, cores := cs, lost := lo, mem := s.mem.writeN key bs, poison := p } := by
  obtain ⟨gs, ls, cs, lo, hc⟩ := classify_frame s key (homeDie key) none true
  obtain ⟨p, hw⟩ := writeBytes_frame (s.classify key (homeDie key) none true) key bs
  have hnot : (s.classify key (homeDie key) none true).viralBlocks key = false := by simp [State.viralBlocks, hv]
  refine ⟨gs, ls, cs, lo, p, ?_⟩
  rw [State.storeOwn, hw, hnot, hc]
  rfl

section
variable {s : State} (hv : s.viral = false) (key : Nat) (bs : List Byte)
include hv

theorem storeOwn_mem : (s.storeOwn key bs).mem = s.mem.writeN key bs := by
  obtain ⟨_, _, _, _, _, h⟩ := storeOwn_frame hv key bs; rw [h]

theorem storeOwn_viral : (s.storeOwn key bs).viral = false := by
  obtain ⟨_, _, _, _, _, h⟩ := storeOwn_frame hv key bs; rw [h]; exact hv

theorem storeOwn_sameDispatch : SameDispatch s (s.storeOwn key bs) := by
  obtain ⟨_, _, _, _, _, h⟩ := storeOwn_frame hv key bs; rw [h]; exact .of_gangs rfl rfl rfl rfl

end

/-- The launch of a submission, if it has one, is over. -/
def State.launchOver (s : State) (x : Submission) : Prop :=
  ∀ l, x.launch = some l → (∀ y, s.launches.find l = some y → y.complete = true) ∧ s.commandsLeft l = false

/-- The launch of a completed submission is forgotten. -/
def State.forgetOf (s : State) (x : Submission) : State := x.launch.elim s s.forgetLaunch

/-- The status record, then the completion flag. -/
def State.storeCompletion (s : State) (x : Submission) (k1 k2 : Nat) : State :=
  let t := s.storeOwn k1 (bytesOfNat 4 (s.finalStatus x) ++ bytesOfNat 4 x.offset ++ bytesOfNat 8 s.reftime)
  t.storeOwn k2 (bytesOfNat 8 (natOfBytes (t.bytesAt k2 8) + x.doneInc))

section
variable {s : State} {id k1 k2 : Nat} {x : Submission}

theorem exec_submissionComplete (hx : s.subs.find id = some x) (hover : s.launchOver x)
    (h1 : s.ownPlace x.fn x.part x.stAddr .write 16 = .at_ k1) (h2 : s.ownPlace x.fn x.part x.doneAddr .both 8 = .at_ k2) :
    exec (.submissionComplete id) s =
      .next (({ s.storeCompletion x k1 k2 with subs := (s.storeCompletion x k1 k2).subs.drop id } : State).forgetOf x) := by
  show execSubmissionComplete id s = _
  unfold execSubmissionComplete State.forgetOf
  simp only [hx, h1, h2]
  cases hlaunch : x.launch with
  | none => rfl
  | some l =>
    obtain ⟨hcomplete, hleft⟩ := hover l hlaunch
    have hdone : ((s.launches.find l).map (fun y => y.complete)).getD true = true := by
      cases hy : s.launches.find l with
      | none => rfl
      | some y => exact hcomplete y hy
    simp only [hdone, hleft, Bool.not_false, Bool.and_self, Bool.not_true, Bool.false_eq_true, if_false]
    rfl

theorem forgetOf_mem (s : State) (x : Submission) : (s.forgetOf x).mem = s.mem := by
  unfold State.forgetOf
  cases x.launch
  · rfl
  · exact forgetLaunch_mem ..

theorem noteRan_sameDispatch (s : State) (gs : List Group) : SameDispatch s (s.noteRan gs) := by
  refine .foldl (fun _ _ => ?_) gs s
  exact .of_gangs rfl rfl rfl rfl

theorem forgetOf_subs (s : State) (x : Submission) : (s.forgetOf x).subs = s.subs := by
  unfold State.forgetOf
  cases x.launch
  · rfl
  · exact (noteRan_sameDispatch s _).subs

theorem forgetOf_launch {l : Nat} (h : x.launch = some l) : (s.forgetOf x).launches.find l = none := by
  unfold State.forgetOf
  rw [h]
  exact Assoc.find_drop ..

/-- What the two writes leave in memory. -/
theorem storeCompletion_mem (hv : s.viral = false) (hwf : s.mem.wf = true) (hapart : k1 + 16 ≤ k2 ∨ k2 + 8 ≤ k1) :
    (s.storeCompletion x k1 k2).mem.readN k1 16 = bytesOfNat 4 (s.finalStatus x) ++ bytesOfNat 4 x.offset ++ bytesOfNat 8 s.reftime ∧
    natOfBytes ((s.storeCompletion x k1 k2).mem.readN k2 8) = (natOfBytes (s.mem.readN k2 8) + x.doneInc) % 2 ^ 64 ∧
    ∀ a, (a < k1 ∨ k1 + 16 ≤ a) → (a < k2 ∨ k2 + 8 ≤ a) → (s.storeCompletion x k1 k2).mem.read a = s.mem.read a := by
  let bs : List Byte := bytesOfNat 4 (s.finalStatus x) ++ bytesOfNat 4 x.offset ++ bytesOfNat 8 s.reftime
  have hlen : bs.length = 16 := by simp [bs]
  have hflag : (s.mem.writeN k1 bs).readN k2 8 = s.mem.readN k2 8 := Bytes.readN_writeN_out _ _ _ (by omega)
  have hmem : (s.storeCompletion x k1 k2).mem =
      (s.mem.writeN k1 bs).writeN k2 (bytesOfNat 8 (natOfBytes (s.mem.readN k2 8) + x.doneInc)) := by
    unfold State.storeCompletion State.bytesAt
    simp only [storeOwn_mem (storeOwn_viral hv ..), storeOwn_mem hv]
    rw [← hflag]
  obtain ⟨hread1, hout1⟩ := writeN_written hwf k1 hlen
  obtain ⟨hread2, hout2⟩ := writeN_written (Bytes.wf_writeN hwf k1 bs) k2
    (bytesOfNat_length 8 (natOfBytes (s.mem.readN k2 8) + x.doneInc))
  rw [hmem]
  refine ⟨?_, by rw [hread2, natOfBytes_bytesOfNat], fun a ha1 ha2 => (hout2 a ha2).trans (hout1 a ha1)⟩
  rw [Bytes.readN_writeN_out _ _ _ (by simp; omega), hread1]

end

/-- Settles O46: the gate, a placement, and the two completions. -/
theorem launchesPlacedAndCompleted : Obligations.LaunchesPlacedAndCompleted := by
  unfold Obligations.LaunchesPlacedAndCompleted
  refine ⟨fun s part dq id p l hp hd hgate hfrozen => ⟨fun hcan hin => ?passes, fun hcan => ?refused⟩,
    fun s u id die ticket src l p at_ fb hl hp hone hmay hgang hhead hfb hgate hdie hplace hticket howner hrect hu => ?placed,
    fun s id l hl hnot hall hgangs => launchComplete_done hl hnot hall hgangs,
    fun s id x k1 k2 hx hover hv hwf hapart h1 h2 => ?completed⟩
  case passes =>
    refine ⟨_, residencyGate_passes hp hd hgate hfrozen hcan hin, ?_⟩
    rw [State.modLaunch, Assoc.find_modify, dqHead_launch hd]
    rfl
  case refused =>
    obtain ⟨hgone, hsub⟩ := dropLaunch_done (s.noteRegions l) id l 3
    rw [(noteRegions_sameDispatch s l).subs] at hsub
    exact ⟨_, residencyGate_refuses hp hd hgate hfrozen hcan, hgone, hsub⟩
  case placed =>
    obtain ⟨t, ht, hgangs, hlaunches⟩ := placeTicket_of_cluster hl hp hgate hdie hplace hticket howner hrect hu
    obtain ⟨hsame, c, hc, hfields⟩ := placeCluster_gang hl hu
    refine ⟨t, c, exec_placement hl hp hone hmay hgang hhead hfb ht, hgangs ▸ hc, ?_⟩
    obtain ⟨hlaunch, hfn, hpos, hcdie, hcorner, hshape, hfallback⟩ := hfields
    refine ⟨hlaunch, hfn, hpos, hcdie, hcorner, hshape, hfallback, ?_⟩
    rw [hlaunches, Assoc.find_modify, hsame, hl]
    rfl
  case completed =>
    obtain ⟨hstatus, hflag, hout⟩ := storeCompletion_mem (x := x) hv hwf hapart
    refine ⟨_, exec_submissionComplete hx hover h1 h2, ?_⟩
    rw [forgetOf_mem, forgetOf_subs]
    exact ⟨Assoc.find_drop .., hstatus, hflag, hout, fun l hl => forgetOf_launch hl⟩

end Sys2Proof.Machine

/-! What relearning leaves alone (13 R343; 19 R487). -/

namespace Sys2Proof.Machine

open Sys2Proof

/-- Caches, granules, permissions and the recorder's registers may differ, nothing else. -/
def Relearned (s t : State) : Prop :=
  ∃ ls gs cs fs, t = { s with lines := ls, granules := gs, cores := cs, fns := fs } ∧ ∀ k, SameFn (s.fn k) (fs.getD k Fn.reset)

theorem Relearned.refl (s : State) : Relearned s s := ⟨s.lines, s.granules, s.cores, s.fns, rfl, fun _ => .refl _⟩

section
variable {s t u : State}

theorem Relearned.trans (h : Relearned s t) (k : Relearned t u) : Relearned s u := by
  obtain ⟨_, _, _, _, rfl, hfn⟩ := h
  obtain ⟨ls, gs, cs, fs, rfl, kfn⟩ := k
  exact ⟨ls, gs, cs, fs, rfl, fun i => (hfn i).trans (kfn i)⟩

theorem Relearned.foldl {α : Type} {f : State → α → State} (h : ∀ x a, Relearned x (f x a)) (l : List α) (s : State) :
    Relearned s (l.foldl f s) :=
  List.foldlRecOn (motive := fun t => Relearned s t) _ _ (.refl s) (fun t ht a _ => ht.trans (h t a))

theorem Relearned.modFn (s : State) (f : Nat) {u : Fn → Fn} (hu : ∀ x, SameFn x (u x)) : Relearned s (s.modFn f u) :=
  ⟨s.lines, s.granules, s.cores, _, rfl, SameFn.modFn s f hu⟩

section
variable (h : Relearned s t)
include h

theorem Relearned.parts : t.parts = s.parts := by obtain ⟨_, _, _, _, rfl, -⟩ := h; rfl
theorem Relearned.queues : t.queues = s.queues := by obtain ⟨_, _, _, _, rfl, -⟩ := h; rfl
theorem Relearned.viral : t.viral = s.viral := by obtain ⟨_, _, _, _, rfl, -⟩ := h; rfl

end

end

theorem record_relearned (s : State) (fn : Nat) (i : YItem) : Relearned s (s.record fn i) := by
  unfold State.record
  split
  · exact .refl s
  · refine .modFn s fn (fun x => ?_)
    split
    · exact ⟨x.yout, _, x.ylog, rfl⟩
    · exact ⟨_, x.ystat, x.ylog, rfl⟩

theorem orderRelearn_relearned (t s : State) : Relearned t (t.orderRelearn s) := by
  refine .foldl (fun x fn => .foldl (fun y gr => ?_) _ x) _ t
  dsimp only
  split_ifs
  · exact record_relearned ..
  · split
    · split_ifs
      · exact .modFn y fn (fun x => ⟨x.yout, x.ystat, _, rfl⟩)
      · exact .refl y
    · exact .refl y
  · exact .refl y

theorem relearnWhere_relearned (s : State) (p : Nat → Bool) : Relearned s (s.relearnWhere p) :=
  Relearned.trans ⟨_, _, _, s.fns, rfl, fun _ => .refl _⟩ (orderRelearn_relearned _ s)

theorem relearnPart_relearned (s : State) (part : Nat) : Relearned s (s.relearnPart part) := by
  unfold State.relearnPart
  split
  · exact .refl s
  · split <;> exact relearnWhere_relearned ..

theorem relearnTenant_relearned (s : State) (fn : Nat) : Relearned s (s.relearnTenant fn) := relearnWhere_relearned ..

end Sys2Proof.Machine

/-! MOVE: the entry of the page, and its bytes (16 R402 to R405). -/

namespace Sys2Proof.Machine

open Sys2Proof

/-! The entry of the page that moves. -/

/-- What MOVE writes to the entry: the frame, with TRANSIT set or clear (16 R403). -/
def movedWord (e : Dword) (frame : Nat) (on : Bool) : Nat :=
  let w := e.toNat % 2 ^ 16 + frame + e.toNat / 2 ^ 52 * 2 ^ 52
  if on then w ||| 2 ^ 5 else w - (if pteBit e 5 then 2 ^ 5 else 0)

theorem setTransit_mem {s : State} {entry : Nat} (hv : s.viralBlocks entry = false) (e : Dword) (frame : Nat) (on : Bool) :
    (s.setTransit entry e frame on).mem = s.mem.writeN entry (bytesOfNat 8 (movedWord e frame on)) :=
  writeBytes_mem_of_not_blocked hv _

theorem setTransit_queues (s : State) (entry : Nat) (e : Dword) (frame : Nat) (on : Bool) :
    (s.setTransit entry e frame on).queues = s.queues := writeBytes_queues ..

/-- The eight bytes of a word read as an entry. -/
theorem ofNat_natOfBytes_eight (w : Nat) : BitVec.ofNat 64 (natOfBytes (bytesOfNat 8 w)) = BitVec.ofNat 64 w := by
  apply BitVec.eq_of_toNat_eq
  simp only [natOfBytes_bytesOfNat, BitVec.toNat_ofNat, Nat.reduceMul, Nat.mod_mod]

/-- A page that stays where it is keeps its word but for TRANSIT. -/
theorem movedWord_marked (e : Dword) : BitVec.ofNat 64 (movedWord e (pteFrame e) true) = e ||| 0x20#64 := by
  have hword : e.toNat % 2 ^ 16 + pteFrame e + e.toNat / 2 ^ 52 * 2 ^ 52 = e.toNat := by
    unfold pteFrame
    omega
  apply BitVec.eq_of_toNat_eq
  simp only [movedWord, if_true, hword, BitVec.toNat_ofNat, BitVec.toNat_or]
  exact Nat.mod_eq_of_lt (Nat.or_lt_two_pow e.isLt (by decide))

/-- A page that has moved names its new frame, with TRANSIT clear. -/
theorem movedWord_moved (e : Dword) {frame : Nat} (hal : frame % 65536 = 0) (hlt : frame < 2 ^ 52) :
    pteFrame (BitVec.ofNat 64 (movedWord e frame false)) = frame ∧ pteBit (BitVec.ofNat 64 (movedWord e frame false)) 5 = false := by
  have he : e.toNat < 2 ^ 64 := e.isLt
  have hbit : pteBit e 5 = decide (e.toNat / 2 ^ 5 % 2 = 1) := Nat.testBit_eq_decide_div_mod_eq
  have hclear : ∀ w, w / 2 ^ 5 % 2 = 0 → pteBit (BitVec.ofNat 64 w) 5 = false := by
    intro w hw
    simp only [pteBit, BitVec.getLsbD_ofNat, Nat.testBit_eq_decide_div_mod_eq, hw]
    decide
  by_cases h : e.toNat / 2 ^ 5 % 2 = 1
  · simp only [movedWord, pteFrame, hbit, h, decide_true, if_true, Bool.false_eq_true, if_false, BitVec.toNat_ofNat]
    exact ⟨by omega, hclear _ (by omega)⟩
  · simp only [movedWord, pteFrame, hbit, h, decide_false, Bool.false_eq_true, if_false, BitVec.toNat_ofNat]
    exact ⟨by omega, hclear _ (by omega)⟩

/-! The bytes of the page that moves. -/

/-- The bytes of a page that are not 0, at their places in another frame. -/
def pageCells (m : Bytes) (src dst : Nat) : Bytes :=
  (m.filter (fun c => decide (src ≤ c.1) && decide (c.1 < src + 65536))).map (fun c => (c.1 - src + dst, c.2))

theorem pageCells_cons (c : Nat × Byte) (m : Bytes) (src dst : Nat) : pageCells (c :: m) src dst =
    if src ≤ c.1 ∧ c.1 < src + 65536 then (c.1 - src + dst, c.2) :: pageCells m src dst else pageCells m src dst := by
  simp only [pageCells, List.filter_cons, Bool.and_eq_true, decide_eq_true_eq]
  split <;> rfl

/-- Cells written to a frame stand at their places in it, and leave its other bytes. -/
theorem read_pageCells {m b : Bytes} (hm : m.wf = true) (hb : b.wf = true) {src dst i : Nat} (hi : i < 65536) :
    ((pageCells m src dst).foldl (fun m c => m.write c.1 c.2) b).read (dst + i) =
      if m.read (src + i) = 0 then b.read (dst + i) else m.read (src + i) := by
  induction m generalizing b with
  | nil => rfl
  | cons c r ih =>
    obtain ⟨j, x⟩ := c
    obtain ⟨hx, habove, hr⟩ := Bytes.wf_cons.1 hm
    rw [pageCells_cons]
    by_cases hj : j = src + i
    · subst hj
      have hplace : src + i - src + dst = dst + i := by omega
      have hread : Bytes.read ((src + i, x) :: r) (src + i) = x := if_pos rfl
      rw [if_pos ⟨Nat.le_add_right .., Nat.add_lt_add_left hi src⟩, List.foldl_cons, ih hr (Bytes.wf_write hb ..),
        Bytes.read_above habove, if_pos rfl, hread, if_neg hx, hplace, Bytes.read_write hb]
    · have hread : Bytes.read ((j, x) :: r) (src + i) = Bytes.read r (src + i) := if_neg hj
      rw [hread]
      split
      · rw [List.foldl_cons, ih hr (Bytes.wf_write hb ..), Bytes.read_write_ne b x (by omega)]
      · exact ih hr hb

theorem movePage_mem (s : State) (src dst : Nat) : (s.movePage src dst).mem =
    (pageCells s.mem src dst).foldl (fun m c => m.write c.1 c.2) (s.mem.clear dst (dst + 65536)) := by
  simp [State.movePage, pageCells]

/-- The bytes of the page stand in its new frame. -/
theorem read_movePage {s : State} (hwf : s.mem.wf = true) (src dst : Nat) {i : Nat} (hi : i < 65536) :
    (s.movePage src dst).mem.read (dst + i) = s.mem.read (src + i) := by
  have hin : ¬(dst + i < dst ∨ dst + 65536 ≤ dst + i) := by omega
  rw [movePage_mem, read_pageCells hwf (Bytes.wf_clear hwf ..) hi, Bytes.read_clear, if_neg hin]
  split
  · next h0 => exact h0.symm
  · rfl

theorem movePage_queues (s : State) (src dst : Nat) : (s.movePage src dst).queues = s.queues := (relearnWhere_relearned s _).queues

theorem movePage_viralBlocks (s : State) (src dst key : Nat) : (s.movePage src dst).viralBlocks key = s.viralBlocks key :=
  congrArg (fun v => v && decide (hostBase ≤ key)) (relearnWhere_relearned s _).viral

/-! The two steps of the command. -/

/-- The fields of MOVE are legal, and the page that it names is a leaf of its function (16 R405). -/
structure MoveLegal (s : State) (q : Nat) (c : QCmd) (va fr : Dword) (vf : BitVec 6) (tier : BitVec 2) (e : Dword) (entry : Nat) :
    Prop where
  queue : q % 32 = 24
  tier : tier = 1 ∨ tier = 2
  page : va.toNat % 65536 = 0
  frame : fr.toNat % 65536 = 0
  bound : (s.fn vf.toNat).bound = some (s.cmdPart c)
  root : (s.fn vf.toNat).root.getLsbD 0 = true
  canonical : canonicalVa va.toNat = true
  leaf : s.walkVa vf.toNat (va.toNat % 2 ^ 57) = .leaf 1 e entry

/-- A page may move to a frame now: it is in another tier of device memory, the frame is free memory of the tier and of the
partition, and no other move of its die is in progress (16 R405, R407). -/
structure MayMove (s : State) (c : QCmd) (fr : Dword) (tier : BitVec 2) (e : Dword) : Prop where
  still : pteBit e 5 = false
  device : pteBit e 9 = false
  source : s.frameTier (pteFrame e) ≠ 0
  other : s.frameTier (pteFrame e) ≠ tier.toNat
  owned : ∃ x, s.part (s.cmdPart c) = some x ∧ x.owns fr.toNat = true
  target : tierOf fr.toNat = tier.toNat
  memory : s.hasMemory fr.toNat = true
  free : s.frameFree fr.toNat = true
  turn : s.moveUnderWay (homeDie (pteFrame e)) = false
  clock : s.clockRuns (homeDie (pteFrame e)) = true

section
variable {s : State} {q : Nat} {c : QCmd} {p : Progress} {va fr : Dword} {vf : BitVec 6} {tier : BitVec 2} {e : Dword} {entry : Nat}
  (h : CmdRuns s q c p) (hl : MoveLegal s q c va fr vf tier e entry)
include h hl

/-- A page that may move is marked, and no TLB holds it. -/
theorem exec_move_marks (hm : MayMove s c fr tier e) (hp : p.stage = 0) : exec (.move q 0 va vf tier fr) s = .next
    (((s.setTransit entry e (pteFrame e) true).dropTlb vf.toNat va.toNat).setProgress q { p with stage := 1, x := pteFrame e }).wake := by
  obtain ⟨hq, ht, hva, hfr, hbound, hroot, hcan, hleaf⟩ := hl
  obtain ⟨hstill, hdev, hsrc, hother, ⟨x, hx, hown⟩, htarget, hmem, hfree, hturn, hclock⟩ := hm
  have htier : (tier == 0 || tier == 3) = false := by rcases ht with rfl | rfl <;> rfl
  refine congrArg Host.Outcome.next (runCommand_more h ((judgeFields_go htier (by simp [hva, hfr]) rfl).trans ?_))
  have hfit : s.frameTier fr.toNat = tier.toNat := (if_pos hmem).trans htarget
  simp [-Nat.reducePow, hq, hbound, hroot, hcan, hleaf, hp, hstill, hdev, hsrc, hother, hx, hown, hfit, hfree, hturn, hclock]

/-- A page that nothing uses stands in its new frame, its entry names it, and no TLB holds it. -/
theorem exec_move_moves (hp : p.stage = 1) (huse : s.entryUses (pteFrame e) = false)
    (hsrc : s.relocking (homeDie (pteFrame e)) = false) (hdst : s.relocking (homeDie fr.toNat) = false) :
    exec (.move q 0 va vf tier fr) s = .next
      ((((s.movePage (pteFrame e) fr.toNat).setTransit entry e fr.toNat false).dropTlb vf.toNat va.toNat).endCommand q c 0 65536 0) := by
  obtain ⟨hq, ht, hva, hfr, hbound, hroot, hcan, hleaf⟩ := hl
  have htier : (tier == 0 || tier == 3) = false := by rcases ht with rfl | rfl <;> rfl
  refine congrArg Host.Outcome.next (runCommand_done h ((judgeFields_go htier (by simp [hva, hfr]) rfl).trans ?_))
  simp [-Nat.reducePow, hq, hbound, hroot, hcan, hleaf, hp, huse, hsrc, hdst]

end

/-- No TLB entry of the function for the page is left. -/
theorem dropTlb_spec {s : State} {fn va : Nat} {x : TlbEntry} (hx : x ∈ (s.dropTlb fn va).tlb) (hfn : x.fn = fn) :
    x.vpn ≠ va % 2 ^ 57 / 2 ^ levelShift x.level := by
  intro hvpn
  have hkept := (List.mem_filter.1 hx).2
  simp [hfn, hvpn] at hkept

/-- Settles O39: a page that may move is marked, and one that nothing uses changes its frame. -/
theorem pageMoves : Obligations.PageMoves := by
  unfold Obligations.PageMoves
  intro s q c p va fr vf tier e entry h hwf hq ht hva hfr hbound hroot hcan hleaf hviral
  have hl : MoveLegal s q c va fr vf tier e entry := ⟨hq, ht, hva, hfr, hbound, hroot, hcan, hleaf⟩
  refine ⟨fun hp hstill hdev hsrc hother hown htarget hmem hfree hturn hclock => ?marked, fun hp huse hsrc hdst _ hlt => ?moved⟩
  case marked =>
    refine ⟨_, exec_move_marks h hl ⟨hstill, hdev, hsrc, hother, hown, htarget, hmem, hfree, hturn, hclock⟩ hp, ?_⟩
    obtain ⟨hread, hout⟩ := writeN_written hwf entry (bytesOfNat_length 8 (movedWord e (pteFrame e) true))
    rw [setProgress_progress, wake_mem, setProgress_mem, dropTlb_mem, setTransit_mem hviral, hread, ofNat_natOfBytes_eight]
    exact ⟨movedWord_marked e, hout, rfl⟩
  case moved =>
    let moved : State := (s.movePage (pteFrame e) fr.toNat).setTransit entry e fr.toNat false
    have hqueues : (moved.dropTlb vf.toNat va.toNat).queues = s.queues := (setTransit_queues ..).trans (movePage_queues ..)
    obtain ⟨⟨hcmds, -⟩, hmem⟩ := endCommand_free (c := c) (count := 65536) (SameCommands.of_queues hqueues q)
    have hviral' : (s.movePage (pteFrame e) fr.toNat).viralBlocks entry = false := (movePage_viralBlocks ..).trans hviral
    obtain ⟨hread, hout⟩ := writeN_written (movePage_wf hwf (pteFrame e) fr.toNat) entry
      (bytesOfNat_length 8 (movedWord e fr.toNat false))
    obtain ⟨hframe, hclear⟩ := movedWord_moved e hfr hlt
    refine ⟨_, exec_move_moves h hl hp huse hsrc hdst, hcmds, fun i hi hapart => ?_, ?_, ?_, fun x hx => dropTlb_spec hx⟩
    all_goals rw [hmem, dropTlb_mem, setTransit_mem hviral']
    · rw [hout _ (by omega), read_movePage hwf _ _ hi]
    · rw [hread, ofNat_natOfBytes_eight, hframe]
    · rw [hread, ofNat_natOfBytes_eight, hclear]

end Sys2Proof.Machine

/-! What the device's own reads leave alone, and what is judged at the head of a submission queue (16 R411 to R414). -/

namespace Sys2Proof.Machine

open Sys2Proof

theorem Classified.refl (s : State) : Classified s s := ⟨s.granules, s.lines, s.cores, s.lost, rfl⟩

section
variable {s t u : State}

theorem Classified.trans (h : Classified s t) (k : Classified t u) : Classified s u := by
  obtain ⟨_, _, _, _, rfl⟩ := h
  obtain ⟨gs, ls, cs, lo, rfl⟩ := k
  exact ⟨gs, ls, cs, lo, rfl⟩

section
variable (h : Classified s t)
include h

theorem Classified.parts : t.parts = s.parts := by obtain ⟨_, _, _, _, rfl⟩ := h; rfl
theorem Classified.mem : t.mem = s.mem := by obtain ⟨_, _, _, _, rfl⟩ := h; rfl
theorem Classified.nextId : t.nextId = s.nextId := by obtain ⟨_, _, _, _, rfl⟩ := h; rfl
theorem Classified.sq (fn q : Nat) : t.sq fn q = s.sq fn q := by obtain ⟨_, _, _, _, rfl⟩ := h; rfl

end

/-- Bytes that the device reads for itself are classified, and nothing else happens (16 R414). -/
theorem ownRead_classified {fn part va fuel n : Nat} {bs : List Byte} (h : s.ownRead fn part va fuel n = .got bs t) :
    Classified s t := by
  induction fuel generalizing s va n bs with
  | zero =>
    cases n <;>
    · simp only [State.ownRead, OwnRead.got.injEq] at h
      exact h.2 ▸ .refl s
  | succ fuel ih =>
    cases n with
    | zero =>
      simp only [State.ownRead, OwnRead.got.injEq] at h
      exact h.2 ▸ .refl s
    | succ n =>
      simp only [State.ownRead] at h
      split at h
      · split at h
        · cases h
        · split at h
          · cases h
          · split at h
            · next hrest =>
              cases h
              exact (classify_classified ..).trans (ih hrest)
            · exact (classify_classified ..).trans (ih h)
      all_goals cases h

theorem readOwn_classified {fn part va n : Nat} {bs : List Byte} (h : s.readOwn fn part va n = .got bs t) : Classified s t :=
  ownRead_classified h

/-- An entry that can be taken was read, with its dependence. -/
theorem queueHead_classified {fn part q : Nat} {b : List Byte} (h : s.queueHead fn part q = .ready b t) : Classified s t := by
  unfold State.queueHead at h
  dsimp only at h
  split at h
  · cases h
  · split at h
    · cases h
    · cases h
    · next hentry =>
      split at h
      · cases h
      · split at h
        · cases h
          exact readOwn_classified hentry
        · split at h
          · cases h
          · cases h
          · next hflag =>
            split at h
            · cases h
            · cases h
              exact (readOwn_classified hentry).trans (readOwn_classified hflag)

end

/-! An entry that is taken (16 R410, R412). -/

section
variable (s : State) (fn q part : Nat)

theorem modSq_sq (f : SubQueue → SubQueue) : (s.modSq fn q f).sq fn q = f (s.sq fn q) := by
  simp [State.sq, State.modSq, modFn_fn, Assoc.getD, Assoc.find_set]

theorem takeHead_subs (x : Submission) : (s.takeHead fn q part x).subs.find s.nextId = some x := Assoc.find_set ..

theorem takeHead_sq (x : Submission) :
    (s.takeHead fn q part x).sq fn q = { s.sq fn q with head := ((s.sq fn q).head + 1) % (s.sq fn q).size, flag := none } :=
  modSq_sq s fn q (fun y => { y with head := (y.head + 1) % y.size, flag := none })

/-- An entry that completes at once is recorded with its status and offset, and its ring moves on. -/
theorem refuseEntry_spec (b : List Byte) (status offset : Nat) : ∃ x,
    (s.refuseEntry fn q part b status offset).subs.find s.nextId = some x ∧ x.status = status ∧ x.offset = offset ∧ x.launch = none ∧
      ((s.refuseEntry fn q part b status offset).sq fn q).head = ((s.sq fn q).head + 1) % (s.sq fn q).size :=
  ⟨_, takeHead_subs .., rfl, rfl, rfl, congrArg SubQueue.head (takeHead_sq ..)⟩

end

section
variable {s s1 : State} {fn q part : Nat} {b : List Byte} (hpart : s.sqPart fn q = some part) (hserved : s.served part = some (fn, q))
  (hhead : s.queueHead fn part q = .ready b s1)
include hpart hserved hhead

theorem exec_signalEntry (hty : natAt b 0 1 = 2) : exec (.signalEntry fn q) s =
    .next (s1.takeHead fn q part (Submission.of fn part (s1.sq fn q).headAddr b)) := by
  show execSignalEntry fn q s = _
  simp [execSignalEntry, hpart, hserved, hhead, Head.isSignal, hty, State.takePlain]

theorem exec_launch {p : Part} (hp : s.part part = some p) (hty : natAt b 0 1 = 1) :
    exec (.launch fn q) s = .next (s1.takeLaunch fn q part p b) := by
  show execLaunch fn q s = _
  simp [execLaunch, hpart, hp, hserved, hhead, hty]

end

/-! A LAUNCH entry whose record has no working-set descriptor (16 R412, R415). -/

section
variable {s s2 : State} {fn q part : Nat} {p : Part} {b rb : List Byte}
  (hread : s.readOwn fn part (natAt b 0x08 8) 256 = .got rb s2) (hws : (LaunchRec.of rb).wsdesc = 0)
include hread hws

theorem takeLaunch_wrong {o : Nat} (herr : recordError rb = some o) :
    s.takeLaunch fn q part p b = s2.refuseEntry fn q part b 1 o := by
  simp [State.takeLaunch, hread, hws, herr]

variable (hok : recordError rb = none)
include hok

theorem takeLaunch_unplaceable (hplace : s2.placeable fn p (LaunchRec.of rb) = false) :
    s.takeLaunch fn q part p b = s2.refuseEntry fn q part b 2 0 := by
  simp [State.takeLaunch, hread, hws, hok, hplace]

variable (hplace : s2.placeable fn p (LaunchRec.of rb) = true)
include hplace

theorem takeLaunch_waits {u : State} (hwait : s2.hintsWait fn part (LaunchRec.of rb) = some u) :
    s.takeLaunch fn q part p b = u := by
  simp [State.takeLaunch, hread, hws, hok, hplace, hwait]

theorem takeLaunch_starts (hnone : s2.hintsWait fn part (LaunchRec.of rb) = none) :
    s.takeLaunch fn q part p b = (s2.takeHead fn q part (Submission.of fn part (s.sq fn q).headAddr b)).startLaunch fn part p s2.nextId
      (natAt b 0x08 8) rb [] := by
  simp [State.takeLaunch, hread, hws, hok, hplace, hnone]

end

/-! The dispatch queues while a launch starts (16 R416). -/

/-- The dispatch queues of every partition are the same. -/
def SameDqs (s t : State) : Prop := ∀ part, (t.part part).map (fun p => p.dq) = (s.part part).map (fun p => p.dq)

section
variable {s t u : State}

theorem SameDqs.of_parts (h : t.parts = s.parts) : SameDqs s t := fun part => by unfold State.part; rw [h]

theorem SameDqs.refl (s : State) : SameDqs s s := fun _ => rfl

theorem SameDqs.trans (h : SameDqs s t) (k : SameDqs t u) : SameDqs s u := fun part => (k part).trans (h part)

theorem SameDqs.foldl {α : Type} {f : State → α → State} (h : ∀ x a, SameDqs x (f x a)) (l : List α) (s : State) :
    SameDqs s (l.foldl f s) :=
  List.foldlRecOn (motive := fun t => SameDqs s t) _ _ (.refl s) (fun _ ht a _ => ht.trans (h _ a))

end

section
variable (s : State) (fn part : Nat)

theorem modPart_sameDqs {f : Part → Part} (hf : ∀ p, (f p).dq = p.dq) : SameDqs s (s.modPart part f) := by
  intro k
  by_cases hk : k = part
  · subst hk
    rw [modPart_part]
    cases s.part k with
    | none => rfl
    | some p => exact congrArg some (hf p)
  · rw [modPart_part_ne _ _ hk]

theorem takeHead_sameDqs (q : Nat) (x : Submission) : SameDqs s (s.takeHead fn q part x) :=
  fun k => modPart_sameDqs s part (f := fun p => { p with nextFn := fn + 1 }) (fun _ => rfl) k

theorem workArrives_sameDqs : SameDqs s (s.workArrives part fn) := by
  unfold State.workArrives
  split
  · exact .refl s
  · exact modPart_sameDqs s part (fun _ => rfl)

theorem writeMaster_sameDqs (ctx : Nat) : SameDqs s (s.writeMaster fn ctx) := by
  unfold State.writeMaster
  split
  · exact .of_parts (storeRecord_sameDispatch ..).parts
  · split
    · next t ht => exact SameDqs.trans (t := t) (.of_parts (putRecord_sameDispatch ht).parts) (.refl t)
    · exact .refl s

theorem openContext_sameDqs : SameDqs s (s.openContext part fn) := by
  unfold State.openContext
  dsimp only
  split
  · exact .refl s
  · exact fun k => writeMaster_sameDqs _ fn (part * 65 + fn) k

theorem applyHints_sameDqs (r : LaunchRec) : SameDqs s (s.applyHints fn part r) :=
  .foldl (fun x _ => .foldl (fun y g => by split <;> exact .refl y) _ x) _ s

theorem epoch_sameDqs (r : LaunchRec) : SameDqs s (s.epoch fn part r) := by
  unfold State.epoch
  extract_lets x t
  have hx : SameDqs s x := by
    unfold x
    split
    · exact .refl s
    · exact .of_parts (relearnPart_relearned s part).parts
  have ht : SameDqs s t := hx.trans (applyHints_sameDqs x fn part r)
  exact ht.trans (.foldl (fun y _ => .foldl (fun z _ => .of_parts (noteWalk_sameDispatch ..).parts) _ y) _ t)

theorem recordLaunch_sameDqs (r : LaunchRec) (rb : List Byte) : SameDqs s (s.recordLaunch fn part r rb) := by
  unfold State.recordLaunch
  extract_lets f x items
  have hx : SameDqs s x := .of_parts (record_relearned ..).parts
  split
  · split
    · next hr => exact hx.trans (.of_parts ((record_relearned ..).parts.trans (readOwn_classified hr).parts))
    · exact hx
  · split <;> exact .refl s

end

/-- A launch that starts joins its dispatch queue, with its tickets divided over the dies of its partition (14 R375; 16 R416). -/
theorem startLaunch_spec {s : State} {fn part : Nat} {p p' : Part} (hp : s.part part = some p') (sub lrec : Nat) (rb : List Byte)
    (rs : List Region) : ∃ n l, (s.startLaunch fn part p sub lrec rb rs).launches.find n = some l ∧ l.cfg = LaunchRec.of rb ∧ l.fn = fn ∧
      l.part = part ∧ l.lrec = BitVec.ofNat 64 lrec ∧ l.ranges = ticketRanges p.dies (LaunchRec.of rb).gridn ∧ l.gate = false ∧
      l.complete = false ∧ ((s.startLaunch fn part p sub lrec rb rs).part part).map (fun p => p.dq.getD (LaunchRec.of rb).qsel []) =
        some (p'.dq.getD (LaunchRec.of rb).qsel [] ++ [n]) := by
  let r := LaunchRec.of rb
  let u := (((s.workArrives part fn).openContext part fn).epoch fn part r).recordLaunch fn part r rb
  have hdq : SameDqs s u := (workArrives_sameDqs s fn part).trans
    ((openContext_sameDqs _ fn part).trans ((epoch_sameDqs _ fn part r).trans (recordLaunch_sameDqs _ fn part r rb)))
  refine ⟨u.nextId, _, Assoc.find_set .., rfl, rfl, rfl, rfl, rfl, rfl, rfl, ?_⟩
  have hu := hdq part
  rw [hp] at hu
  obtain ⟨y, hy, hydq⟩ := Option.map_eq_some_iff.1 hu
  have hfind : (s.startLaunch fn part p sub lrec rb rs).part part =
      (u.part part).map (fun p => { p with dq := p.dq.set r.qsel (p.dq.getD r.qsel [] ++ [u.nextId]) }) := modPart_part ..
  have hsame : y.dq = p'.dq := hydq
  rw [hfind, hy]
  simp [Assoc.getD, Assoc.find_set, r, hsame]

/-! The tickets of the dies (14 R375). -/

/-- Neighbouring ranges of tickets end where the next begins: together they hold what lies between the first and the last. -/
theorem sum_ranges {α : Type} (xs : List α) (i n d : Nat) :
    ((numbered i xs).map (fun e => (e.1 + 1) * n / d - e.1 * n / d)).sum = (i + xs.length) * n / d - i * n / d := by
  induction xs generalizing i with
  | nil => simp [numbered]
  | cons x xs ih =>
    have hfirst : i * n / d ≤ (i + 1) * n / d := Nat.div_le_div_right (Nat.mul_le_mul_right n (Nat.le_succ i))
    have hrest : (i + 1) * n / d ≤ (i + 1 + xs.length) * n / d := Nat.div_le_div_right (Nat.mul_le_mul_right n (Nat.le_add_right ..))
    have hlen : i + (x :: xs).length = i + 1 + xs.length := by rw [List.length_cons]; omega
    simp only [numbered, List.map_cons, List.sum_cons, ih, hlen]
    omega

/-- No ticket is lost or given twice. -/
theorem ticketRanges_sum {dies : List Nat} (hd : dies ≠ []) (n : Nat) :
    ((ticketRanges dies n).map (fun r => r.back - r.front)).sum = n := by
  have hsum := sum_ranges dies 0 n dies.length
  rw [Nat.zero_add, Nat.zero_mul, Nat.zero_div, Nat.sub_zero, Nat.mul_div_cancel_left n (List.length_pos_iff.2 hd)] at hsum
  rw [ticketRanges, List.map_map]
  exact hsum

/-- Settles O45: the doorbell, a SIGNAL, a LAUNCH that is wrong, unplaceable, held by its hints, and taken; the tickets of the dies. -/
theorem submissionsTaken : Obligations.SubmissionsTaken := by
  unfold Obligations.SubmissionsTaken
  refine ⟨fun s fn q tail => ⟨_, rfl, modSq_sq .., modSq_mem ..⟩, fun s s1 fn q part b hpart hserved hhead => ?_,
    fun dies n hd => ticketRanges_sum hd n⟩
  have h1 := queueHead_classified hhead
  refine ⟨fun hty => ?signal, fun p rb s2 hty hp hread hws => ?launch⟩
  case signal =>
    refine ⟨_, Submission.of fn part (s1.sq fn q).headAddr b, exec_signalEntry hpart hserved hhead hty, ?_,
      rfl, rfl, rfl, rfl, rfl, ?_, ?_⟩
    · rw [← h1.nextId, takeHead_subs]
    · rw [takeHead_sq, h1.sq]
    · rw [takeHead_mem, h1.mem]
  case launch =>
    have h2 := h1.trans (readOwn_classified hread)
    have hexec := exec_launch hpart hserved hhead hp hty
    refine ⟨fun o herr => ?wrong, fun hok hplace => ?unplaceable, fun u hok hplace hwait => ?waits, fun hok hplace hnone => ?starts⟩
    case wrong =>
      obtain ⟨x, hx, hstatus, hoffset, hlaunch, hring⟩ := refuseEntry_spec s2 fn q part b 1 o
      rw [h2.nextId] at hx
      rw [h2.sq] at hring
      exact ⟨_, x, hexec.trans (congrArg _ (takeLaunch_wrong hread hws herr)), hx, hstatus, hoffset, hlaunch, hring⟩
    case unplaceable =>
      obtain ⟨x, hx, hstatus, -, hlaunch, -⟩ := refuseEntry_spec s2 fn q part b 2 0
      rw [h2.nextId] at hx
      exact ⟨_, x, hexec.trans (congrArg _ (takeLaunch_unplaceable hread hws hok hplace)), hx, hstatus, hlaunch⟩
    case waits => exact hexec.trans (congrArg _ (takeLaunch_waits hread hws hok hplace hwait))
    case starts =>
      have hp2 : s2.part part = some p := by
        unfold State.part
        rw [h2.parts]
        exact hp
      have hdq := takeHead_sameDqs s2 fn part q (Submission.of fn part (s1.sq fn q).headAddr b) part
      rw [hp2] at hdq
      obtain ⟨p', hp', hsame⟩ := Option.map_eq_some_iff.1 hdq
      obtain ⟨n, l, hfound⟩ := startLaunch_spec (fn := fn) (p := p) hp' s2.nextId (natAt b 0x08 8) rb []
      rw [hsame] at hfound
      exact ⟨_, n, l, hexec.trans (congrArg _ (takeLaunch_starts hread hws hok hplace hnone)), hfound⟩

end Sys2Proof.Machine

/-! Halting a cluster and waking it: what becomes of partitions, clusters and groups (16 R422, R425). -/

namespace Sys2Proof.Machine

open Sys2Proof

/-- Partitions are the same, a cluster keeps its status or has finished, and no group has begun to run. -/
structure Halts (s t : State) : Prop where
  parts : t.parts = s.parts
  gangs : ∀ k c, s.gangs.find k = some c → ∃ d, t.gangs.find k = some d ∧ (d.status = c.status ∨ d.status = .finished)
  groups : ∀ i g, t.groups.find i = some g → g.status = .running → ∃ h, s.groups.find i = some h ∧ h.status = .running

namespace Halts
variable {s t u : State}

theorem of_eq (hp : t.parts = s.parts) (hg : t.gangs = s.gangs) (hr : t.groups = s.groups) : Halts s t :=
  ⟨hp, fun _ c hc => ⟨c, hg ▸ hc, .inl rfl⟩, fun _ g hi hrun => ⟨g, hr ▸ hi, hrun⟩⟩

theorem refl (s : State) : Halts s s := of_eq rfl rfl rfl

theorem trans (h : Halts s t) (k : Halts t u) : Halts s u := by
  refine ⟨k.parts.trans h.parts, fun i c hc => ?_, fun i g hg hrun => ?_⟩
  · obtain ⟨d, hd, hst⟩ := h.gangs i c hc
    obtain ⟨e, he, hst'⟩ := k.gangs i d hd
    refine ⟨e, he, ?_⟩
    rcases hst' with hst' | hst'
    · rw [hst']
      exact hst
    · exact .inr hst'
  · obtain ⟨g', hg', hrun'⟩ := k.groups i g hg hrun
    exact h.groups i g' hg' hrun'

/-- A state that differs in nothing that is spoken of. -/
theorem same (h : Halts s t) (hp : u.parts = t.parts) (hg : u.gangs = t.gangs) (hr : u.groups = t.groups) : Halts s u :=
  h.trans (of_eq hp hg hr)

theorem foldl {α : Type} {f : State → α → State} (h : ∀ x a, Halts x (f x a)) (l : List α) (s : State) : Halts s (l.foldl f s) :=
  List.foldlRecOn (motive := fun t => Halts s t) _ _ (.refl s) (fun _ ht a _ => ht.trans (h _ a))

theorem modGroup (s : State) (gid : Nat) {f : Group → Group} (hf : ∀ g, (f g).status = .running → g.status = .running) :
    Halts s (s.modGroup gid f) := by
  refine ⟨rfl, fun _ c hc => ⟨c, hc, .inl rfl⟩, fun i g hg hrun => ?_⟩
  by_cases hi : i = gid
  · subst hi
    obtain ⟨h, hh, rfl⟩ := Option.map_eq_some_iff.1 ((modGroup_find s i f).symm.trans hg)
    exact ⟨h, hh, hf h hrun⟩
  · exact ⟨g, (modGroup_find_ne s f hi).symm.trans hg, hrun⟩

theorem killLaunch (s : State) (l : Nat) : Halts s (s.killLaunch l) := by
  obtain ⟨_, _, h, -, hgr⟩ := killLaunch_frame s l
  rw [h]
  refine ⟨rfl, fun _ c hc => ⟨c, hc, .inl rfl⟩, fun i g hg hrun => ?_⟩
  obtain ⟨p, hp⟩ := hgr.find i
  obtain ⟨x, hx, rfl⟩ := Option.map_eq_some_iff.1 (hp.symm.trans hg)
  refine ⟨x, hx, ?_⟩
  split at hrun <;> exact hrun

/-! Landing (03 R88, R89). -/

theorem land (s : State) (cyc gid : Nat) (w : RegWrite) : Halts s (s.land cyc gid w) := by
  have hgroup : (∀ n x, w ≠ .mReg n x) → s.land cyc gid w = (s.repair gid w.repairs).modGroup gid w.onGroup := by
    intro hw
    cases w with
    | mReg n x => exact absurd rfl (hw n x)
    | _ => rfl
  cases w with
  | mReg n x =>
    simp only [State.land]
    split <;> exact of_eq rfl rfl rfl
  | _ =>
    rw [hgroup (by simp)]
    refine trans (t := s.repair gid _) (of_eq rfl rfl rfl) (modGroup _ gid fun g hrun => ?_)
    obtain ⟨_, _, _, _, _, _, hframe⟩ := onGroup_frame g _
    rw [hframe] at hrun
    exact hrun

theorem landAllWrites (s : State) (cyc gid : Nat) (ws : List RegWrite) : Halts s (s.landAllWrites cyc gid ws) := by
  have hunpin : Halts s (s.unpin gid ws) := by
    obtain ⟨_, h⟩ := unpin_frame s gid ws
    rw [h]
    exact of_eq rfl rfl rfl
  refine (hunpin.trans (foldl (fun x w => land x cyc gid w) ws _)).trans (modGroup _ gid fun g hrun => ?_)
  obtain ⟨_, h⟩ := noteLanded_frame g cyc ws
  rw [h] at hrun
  exact hrun

theorem landAll (s : State) (gid : Nat) (st : Stream) : Halts s (s.landAll gid st) := by
  unfold State.landAll
  split
  · exact refl s
  · unfold State.landLate
    split
    · exact refl s
    · refine (modGroup s gid fun g hrun => ?_).trans (foldl (fun x (l : Landing) => landAllWrites x l.due gid l.writes) _ _)
      cases st <;> exact hrun

theorem landAlls (s : State) (gid : Nat) : Halts s ((s.landAll gid .addr).landAll gid .comp) := (landAll ..).trans (landAll ..)

/-! What follows a change of a group's work (17 R439, R441; 16 R422; 07 R176). -/

theorem postRecord (s : State) (f : Nat) (r : FaultRec) : Halts s (s.postRecord f r) := by
  unfold State.postRecord
  split
  · exact of_eq rfl rfl rfl
  · split
    · exact killLaunch ..
    · exact of_eq rfl rfl rfl

theorem settle (s : State) (gid : Nat) : Halts s (s.settle gid) := by
  unfold State.settle
  split
  · exact refl s
  · split
    · exact refl s
    · split_ifs
      · exact refl s
      · exact modGroup s gid fun _ hrun => hrun
      · unfold State.escalate
        split
        · exact refl s
        · refine (modGroup s gid ?_).trans (postRecord ..)
          exact fun _ hrun => nomatch hrun
      · exact modGroup s gid fun _ hrun => hrun

theorem haltIfQuiet (s : State) (gid : Nat) : Halts s (s.haltIfQuiet gid) := by
  unfold State.haltIfQuiet
  split
  · exact refl s
  · split
    · exact (landAlls s gid).trans (modGroup _ gid fun _ hrun => nomatch hrun)
    · exact refl s

theorem finish (s : State) (k : Nat) : Halts s (s.modGang k (fun c => { c with status := .finished, pending := false })) := by
  refine ⟨rfl, fun i c hc => ?_, fun _ g hg hrun => ⟨g, hg, hrun⟩⟩
  by_cases hi : i = k
  · subst hi
    exact ⟨_, (modGang_find ..).trans (congrArg _ hc), .inr rfl⟩
  · exact ⟨c, (modGang_find_ne _ _ hi).trans hc, .inl rfl⟩

theorem finishGang (s : State) (gk : Nat) : Halts s (s.finishGang gk) := by
  unfold State.finishGang
  split
  · exact refl s
  · dsimp only
    split
    · exact refl s
    · split
      · refine List.foldlRecOn (motive := Halts s) _ _ ?_ (fun u hu t _ => ?_)
        · split <;> exact (finish s gk).same rfl rfl rfl
        · split
          · exact hu.same rfl rfl rfl
          · exact hu
      · exact refl s

theorem finishGroup (s : State) (gid : Nat) : Halts s (s.finishGroup gid) := by
  unfold State.finishGroup
  split
  · exact refl s
  · have hdone : Halts s (((s.landAll gid .addr).landAll gid .comp).modGroup gid (fun g => { g with status := .finished, q := [] })) :=
      (landAlls s gid).trans (modGroup _ gid fun _ hrun => nomatch hrun)
    dsimp only
    refine trans ?_ (finishGang _ _)
    exact hdone.same rfl rfl rfl

theorem reap (s : State) (gid : Nat) : Halts s (s.reap gid) := by
  unfold State.reap
  split
  · exact refl s
  · split_ifs
    · exact refl s
    · exact finishGroup ..
    · exact refl s

theorem afterWork (s : State) (gid : Nat) : Halts s (s.afterWork gid) :=
  (((settle s gid).trans (haltIfQuiet ..)).trans (reap ..)).trans (foldl reap _ _)

end Halts

end Sys2Proof.Machine

/-! QUANTUM_END and RESUME_IN_PLACE (16 R420, R422, R425). -/

namespace Sys2Proof.Machine

open Sys2Proof

/-! A cluster is halted (16 R422). -/

/-- A group of a cluster that is halted: it stops at the end of its run. -/
def State.haltGroup (s : State) (k : Nat) : State :=
  (s.modGroup k (fun g => if g.status = .running then { g with status := .halting } else g)).afterWork k

theorem haltGroup_halts (s : State) (k : Nat) : Halts s (s.haltGroup k) := by
  refine (Halts.modGroup s k fun g hrun => ?_).trans (Halts.afterWork ..)
  split at hrun
  · next h => exact h
  · exact hrun

theorem haltGroup_stops {s : State} {k : Nat} {g : Group} (hg : (s.haltGroup k).groups.find k = some g) : g.status ≠ .running := by
  intro hrun
  obtain ⟨h, hh, hhrun⟩ := (Halts.afterWork ..).groups k g hg hrun
  rw [modGroup_find] at hh
  obtain ⟨x, -, rfl⟩ := Option.map_eq_some_iff.1 hh
  split at hhrun
  · cases hhrun
  · next h => exact h hhrun

theorem haltGroups_stop {s : State} {ks : List Nat} {i : Nat} (hi : i ∈ ks) {g : Group}
    (hg : (ks.foldl State.haltGroup s).groups.find i = some g) : g.status ≠ .running := by
  induction ks generalizing s with
  | nil => cases hi
  | cons k ks ih =>
    rcases List.mem_cons.1 hi with rfl | hi
    · intro hrun
      obtain ⟨h, hh, hhrun⟩ := (Halts.foldl haltGroup_halts ks _).groups i g hg hrun
      exact haltGroup_stops hh hhrun
    · exact ih hi hg

theorem haltGang_eq {s : State} {k : Nat} {c : Gang} (hc : s.gangs.find k = some c) (hrun : c.status = .running) :
    ∃ sets, s.haltGang k = c.groups.foldl State.haltGroup (s.modGang k (fun c => { c with status := .halted s.units, sets := sets })) := by
  refine ⟨(s.gangQuads c).filter (fun q => (s.quad q).sets.contains c.context), ?_⟩
  unfold State.haltGang
  simp only [hc, hrun]
  rfl

theorem haltGang_parts (s : State) (k : Nat) : (s.haltGang k).parts = s.parts := by
  cases hc : s.gangs.find k with
  | none => simp only [State.haltGang, hc]
  | some c =>
    by_cases hrun : c.status = .running
    · obtain ⟨sets, h⟩ := haltGang_eq hc hrun
      rw [h, (Halts.foldl haltGroup_halts ..).parts]
      rfl
    · simp only [State.haltGang, hc, ne_eq, hrun, not_false_eq_true, if_true]

/-- A cluster that is halted has the mark of the time, or finishes at once; none of its groups runs on. -/
theorem haltGang_spec {s : State} {k : Nat} {c : Gang} (hc : s.gangs.find k = some c) (hrun : c.status = .running) :
    ∃ d, (s.haltGang k).gangs.find k = some d ∧ (d.status = .halted s.units ∨ d.status = .finished) ∧
      ∀ i ∈ c.groups, ∀ g, (s.haltGang k).groups.find i = some g → g.status ≠ .running := by
  obtain ⟨sets, h⟩ := haltGang_eq hc hrun
  obtain ⟨d, hd, hst⟩ := (Halts.foldl haltGroup_halts c.groups _).gangs k _ ((modGang_find s k _).trans (congrArg _ hc))
  exact ⟨d, by rw [h, hd], hst, fun i hi g hg => haltGroups_stop hi (h ▸ hg)⟩

theorem exec_quantumEnd {s : State} {k : Nat} {c : Gang} {p : Part} (hc : s.gangs.find k = some c) (hrun : c.status = .running)
    (hover : c.quantumStart + 500000 ≤ s.reftime) (hfree : s.puppeteerFree = true) (hp : s.part c.part = some p)
    (hone : p.oneDie = true) (hwait : s.othersWait c = true) : exec (.quantumEnd k) s = .next (s.haltGang k) := by
  show execQuantumEnd k s = _
  simp [execQuantumEnd, hc, hrun, hover, hfree, hp, hone, hwait]

/-! A cluster goes on in place (16 R425). -/

/-- A group that was halted runs again, unless it waits for an answer of the host. -/
def Group.woken (g : Group) : Group :=
  if (g.status = .halted ∨ g.status = .halting) ∧ g.escalated.isNone then { g with status := .running } else g

theorem woken_of_running {g : Group} (h : g.status = .running) : g.woken = g := by
  unfold Group.woken
  rw [if_neg]
  rintro ⟨hst | hst, -⟩ <;> cases h.symm.trans hst

theorem woken_of_halted {g : Group} (h : g.status = .halted) (hn : g.escalated = none) : g.woken.status = .running := by
  unfold Group.woken
  rw [if_pos ⟨.inl h, by rw [hn]; rfl⟩]

theorem wakeGroups_gangs (s : State) (c : Gang) : (s.wakeGroups c).gangs = s.gangs :=
  List.foldlRecOn (motive := fun (t : State) => t.gangs = s.gangs) c.groups _ rfl (fun _ ht _ _ => ht)

/-- A group that runs, or that is halted and still to be woken, runs in the end. -/
theorem wakeFold_runs {s : State} {ks : List Nat} {i : Nat} {g : Group} (hg : s.groups.find i = some g)
    (hst : g.status = .running ∨ i ∈ ks ∧ g.status = .halted ∧ g.escalated = none) :
    ∃ h, (ks.foldl (fun s k => s.modGroup k Group.woken) s).groups.find i = some h ∧ h.status = .running := by
  induction ks generalizing s g with
  | nil =>
    rcases hst with hst | ⟨hi, -⟩
    · exact ⟨g, hg, hst⟩
    · cases hi
  | cons k ks ih =>
    rw [List.foldl_cons]
    by_cases hk : i = k
    · subst hk
      have hfind : (s.modGroup i Group.woken).groups.find i = some g.woken := (modGroup_find ..).trans (congrArg _ hg)
      refine ih hfind (.inl ?_)
      rcases hst with hst | ⟨-, hhalt, hnone⟩
      · rwa [woken_of_running hst]
      · exact woken_of_halted hhalt hnone
    · refine ih ((modGroup_find_ne s _ hk).trans hg) (hst.imp_right fun ⟨hi, hrest⟩ => ⟨?_, hrest⟩)
      exact (List.mem_cons.1 hi).resolve_left hk

theorem wakeGroups_runs {s : State} {c : Gang} {i : Nat} {g : Group} (hi : i ∈ c.groups) (hg : s.groups.find i = some g)
    (hhalt : g.status = .halted) (hnone : g.escalated = none) :
    ∃ h, (s.wakeGroups c).groups.find i = some h ∧ h.status = .running := wakeFold_runs hg (.inr ⟨hi, hhalt, hnone⟩)

theorem exec_resumeInPlace {s : State} {k : Nat} {c : Gang} {p : Part} (hc : s.gangs.find k = some c) (hp : s.part c.part = some p)
    (hdies : p.oneDie = false) (hmay : s.mayRun c.part c.fn = true) (hhalt : c.isHalted = true) (hquiet : s.gangQuiet c = true)
    (hintact : s.intact c = true) : exec (.resumeInPlace k) s = .next (s.resumeHere k c) := by
  show execResumeInPlace k s = _
  simp [execResumeInPlace, State.resumeGang, hc, hp, hdies, hmay, hhalt, hquiet, hintact]

theorem resumeHere_gang {s : State} {k : Nat} {c : Gang} (hc : s.gangs.find k = some c) :
    (s.resumeHere k c).gangs.find k = some { c with status := .running, quantumStart := s.reftime } := by
  unfold State.resumeHere
  rw [wakeGroups_gangs, modGang_find, hc]
  rfl

end Sys2Proof.Machine

/-! The choice of a one-die partition (16 R420). -/

namespace Sys2Proof.Machine

open Sys2Proof

/-- The better of the best so far and the next tenant whose work fits: the earlier one, unless the next has a lower pass. -/
def Part.better (p : Part) {α : Type} (b : Option (Nat × α)) (x : Nat × α) : Option (Nat × α) :=
  match b with
  | some y => if p.passes.getD x.1 0 < p.passes.getD y.1 0 then some x else b
  | none => some x

/-- What a tenant of a one-die partition would place: nothing without tickets or with a cap of 0. -/
def State.wouldPlace (s : State) (part : Nat) (p : Part) (fn : Nat) : Option (Item × State) :=
  if (s.fn fn).tickets = 0 ∨ (s.fn fn).cap = 0 then none else s.strideStep part fn (p.dies.headD 0)

section
variable {α : Type} {p : Part} {x : Nat × α}

/-- The tenant is `x` itself, or its pass is higher. -/
def Part.behind (p : Part) (x y : Nat × α) : Prop := y = x ∨ p.passes.getD x.1 0 < p.passes.getD y.1 0

theorem better_keeps {y : Nat × α} (h : p.behind x y) : p.better (some x) y = some x := by
  unfold Part.better
  rcases h with rfl | h
  · exact ite_self _
  · exact if_neg (Nat.lt_asymm h)

theorem better_takes {b : Option (Nat × α)} (h : ∀ y, b = some y → p.behind x y) : p.better b x = some x := by
  cases b with
  | none => rfl
  | some y =>
    rcases h y rfl with rfl | h
    · exact ite_self _
    · exact if_pos h

/-- The tenant of the lowest pass is chosen. -/
theorem foldl_better {xs : List (Nat × α)} (hxs : ∀ y ∈ xs, p.behind x y) {b : Option (Nat × α)}
    (hb : b = some x ∨ x ∈ xs ∧ ∀ y, b = some y → p.behind x y) : xs.foldl p.better b = some x := by
  induction xs generalizing b with
  | nil => exact hb.resolve_right (fun h => nomatch h.1)
  | cons y ys ih =>
    obtain ⟨hy, hys⟩ := List.forall_mem_cons.1 hxs
    rw [List.foldl_cons]
    apply ih hys
    rcases hb with rfl | ⟨hx, hb⟩
    · exact .inl (better_keeps hy)
    · rcases List.mem_cons.1 hx with rfl | hx
      · exact .inl (better_takes hb)
      · refine .inr ⟨hx, fun z hz => ?_⟩
        cases b with
        | none => exact Option.some_inj.1 hz ▸ hy
        | some w =>
          simp only [Part.better] at hz
          split at hz
          · exact Option.some_inj.1 hz ▸ hy
          · exact hb z hz

end

section
variable {s : State} {part : Nat} {p : Part}

theorem mem_fitting {y : Nat × Item × State} :
    y ∈ s.fitting part p ↔ y.1 ∈ s.submitters part ∧ s.wouldPlace part p y.1 = some y.2 := by
  obtain ⟨f, x⟩ := y
  simp only [State.fitting, List.mem_filterMap, State.wouldPlace]
  constructor
  · rintro ⟨fn, hfn, h⟩
    split at h
    · cases h
    · next hfit =>
      obtain ⟨z, hz, he⟩ := Option.map_eq_some_iff.1 h
      cases he
      exact ⟨hfn, by rw [if_neg hfit, hz]⟩
  · rintro ⟨hf, h⟩
    refine ⟨f, hf, ?_⟩
    split at h
    · cases h
    · next hfit => rw [if_neg hfit, h]; rfl

/-- The decision of a one-die partition is the tenant of the lowest pass whose work fits. -/
theorem decision_of_lowest (hp : s.part part = some p) (hfree : s.puppeteerFree = true) (hone : p.oneDie = true) {fn : Nat} {i : Item}
    {u : State} (hfn : fn ∈ s.submitters part) (hfit : s.wouldPlace part p fn = some (i, u))
    (hlow : ∀ f ∈ s.submitters part, (s.wouldPlace part p f).isSome = true → f ≠ fn → p.passes.getD fn 0 < p.passes.getD f 0) :
    s.decision part = some (i, u.addStride part fn) := by
  have hbehind : ∀ y ∈ s.fitting part p, p.behind (fn, i, u) y := by
    rintro ⟨f, x⟩ hy
    obtain ⟨hf, hx⟩ := mem_fitting.1 hy
    by_cases hne : f = fn
    · subst hne
      exact .inl (congrArg _ (Option.some_inj.1 (hx.symm.trans hfit)))
    · exact .inr (hlow f hf (by rw [hx]; rfl) hne)
  have hbest : (s.fitting part p).foldl p.better none = some (fn, i, u) :=
    foldl_better hbehind (.inr ⟨mem_fitting.2 ⟨hfn, hfit⟩, nofun⟩)
  have hdecision : s.decision part = ((s.fitting part p).foldl p.better none).map (fun x => (x.2.1, x.2.2.addStride part x.1)) := by
    simp only [State.decision, hp, hfree, hone, Bool.not_true, Bool.or_self, Bool.false_eq_true, if_false]
    refine congrArg _ (congrArg (fun f => List.foldl f none _) ?_)
    funext b x
    cases b <;> rfl
  rw [hdecision, hbest]
  rfl

theorem exec_schedulingDecision {i : Item} {t : State} (hd : s.decision part = some (i, t)) :
    exec (.schedulingDecision part) s = .next t := by
  show execSchedulingDecision part s = _
  simp [execSchedulingDecision, hd]

/-- A carousel of a one-die partition places what the decision chooses. -/
theorem exec_carouselPlace_oneDie {id : Nat} {l : Launch} {t : State} (hl : s.launches.find id = some l) (hp : s.part l.part = some p)
    (hone : p.oneDie = true) (hd : s.decision l.part = some (.ticket id, t)) (die : Nat) :
    exec (.carouselPlace id die) s = .next t := by
  show execCarouselPlace id die s = _
  simp [execCarouselPlace, hl, hp, hone, hd]

end

end Sys2Proof.Machine

/-! TICK (16 R421, R427). -/

namespace Sys2Proof.Machine

open Sys2Proof

/-! The tenant with the largest allowance (16 R421). -/

/-- The tenant chosen so far and the next one: the larger allowance, the running tenant where they are equal. -/
def Part.prefer (p : Part) (b : Option Nat) (t : Nat) : Option Nat :=
  match b with
  | none => some t
  | some u =>
    if p.allowance.getD u 0 < p.allowance.getD t 0 ∨ (p.allowance.getD t 0 = p.allowance.getD u 0 ∧ p.running = some t) then some t
    else b

theorem choose_eq_foldl (p : Part) (ts : List Nat) : p.choose ts = ts.foldl p.prefer none := by
  unfold Part.choose
  refine congrArg (fun f => List.foldl f none _) ?_
  funext b t
  cases b <;> rfl

/-- Of the best so far and a tenant one stays, and neither has a larger allowance. -/
theorem prefer_spec (p : Part) (b : Option Nat) (t : Nat) : ∃ f, p.prefer b t = some f ∧ (f = t ∨ b = some f) ∧
    p.allowance.getD t 0 ≤ p.allowance.getD f 0 ∧ ∀ u, b = some u → p.allowance.getD u 0 ≤ p.allowance.getD f 0 := by
  cases b with
  | none => exact ⟨t, rfl, .inl rfl, Int.le_refl _, nofun⟩
  | some u =>
    unfold Part.prefer
    dsimp only
    split
    · next h =>
      refine ⟨t, rfl, .inl rfl, Int.le_refl _, fun v hv => ?_⟩
      obtain rfl := Option.some_inj.1 hv
      omega
    · next h =>
      refine ⟨u, rfl, .inr rfl, by omega, fun v hv => ?_⟩
      obtain rfl := Option.some_inj.1 hv
      exact Int.le_refl _

theorem foldl_prefer_spec (p : Part) (ts : List Nat) {b : Option Nat} {f : Nat} (h : ts.foldl p.prefer b = some f) :
    (f ∈ ts ∨ b = some f) ∧ (∀ u ∈ ts, p.allowance.getD u 0 ≤ p.allowance.getD f 0) ∧
      ∀ u, b = some u → p.allowance.getD u 0 ≤ p.allowance.getD f 0 := by
  induction ts generalizing b with
  | nil =>
    refine ⟨.inr h, nofun, fun u hu => ?_⟩
    obtain rfl := Option.some_inj.1 (hu.symm.trans h)
    exact Int.le_refl _
  | cons t ts ih =>
    rw [List.foldl_cons] at h
    obtain ⟨g, hg, hfrom, ht, hb⟩ := prefer_spec p b t
    obtain ⟨hmem, hts, hbest⟩ := ih h
    have hgf := hbest g hg
    refine ⟨?_, List.forall_mem_cons.2 ⟨ht.trans hgf, hts⟩, fun u hu => (hb u hu).trans hgf⟩
    rcases hmem with hmem | hmem
    · exact .inl (List.mem_cons_of_mem _ hmem)
    · obtain rfl := Option.some_inj.1 (hg.symm.trans hmem)
      rcases hfrom with rfl | hb
      · exact .inl List.mem_cons_self
      · exact .inr hb

theorem choose_largest {p : Part} {ts : List Nat} {f : Nat} (h : p.choose ts = some f) :
    f ∈ ts ∧ ∀ u ∈ ts, p.allowance.getD u 0 ≤ p.allowance.getD f 0 := by
  rw [choose_eq_foldl] at h
  obtain ⟨hmem, hts, -⟩ := foldl_prefer_spec p ts h
  exact ⟨hmem.resolve_right nofun, hts⟩

/-! The bookkeeping of a tick (16 R421). -/

/-- Each key of a list changes its own value once. -/
theorem foldl_set_getD {α : Type} {ks : List Nat} (hks : ks.Nodup) (v : Nat → α → α) (d : α) (m : Assoc α) (k : Nat) :
    (ks.foldl (fun m k => m.set k (v k (m.getD k d))) m).getD k d = if k ∈ ks then v k (m.getD k d) else m.getD k d := by
  induction ks generalizing m with
  | nil => rfl
  | cons i ks ih =>
    obtain ⟨hi, hks⟩ := List.nodup_cons.1 hks
    rw [List.foldl_cons, ih hks]
    by_cases hk : k = i
    · subst hk
      rw [if_neg hi, if_pos List.mem_cons_self, Assoc.getD, Assoc.find_set]
      rfl
    · have hset : (m.set i (v i (m.getD i d))).getD k d = m.getD k d := by rw [Assoc.getD, Assoc.find_set_ne _ _ hk]; rfl
      simp only [hset, List.mem_cons, hk, false_or]

/-- The allowance of a tenant with work after a tick: its gain, and what it has used, kept within 10,000,000 of 0. -/
theorem account_allowance {p : Part} {ws : List Nat} (hws : ws.Nodup) (us : List Nat) (weight : Nat → Nat) {f : Nat} (hf : f ∈ ws) :
    let w (t : Nat) : Nat := weight t * (if p.boosts.getD t 0 = 0 then 1 else 2)
    (p.account ws us weight).allowance.getD f 0 = clampAllowance (p.allowance.getD f 0 + ((1000000 * w f / (ws.map w).sum : Nat) : Int) -
      (if p.running = some f then 1000000 else 0)) :=
  (foldl_set_getD hws (fun t x => clampAllowance (x + _ - (if p.running = some t then 1000000 else 0))) 0 p.allowance f).trans
    (if_pos hf)

/-! The switch to another tenant (16 R409, R427). -/

theorem moveUp_parts (s : State) (part fn : Nat) (out : Option Nat) (l : Leaf) : (s.moveUp part fn out l).parts = s.parts := by
  unfold State.moveUp
  split
  · rfl
  · split <;> rfl

theorem switchMoves_parts (s : State) (part fn : Nat) (out : Option Nat) : (s.switchMoves part fn out).parts = s.parts :=
  List.foldlRecOn (motive := fun (t : State) => t.parts = s.parts) _ _ rfl (fun _ ht _ _ => (moveUp_parts ..).trans ht)

theorem switchTenant_parts (s : State) (part : Nat) (new : Option Nat) :
    (s.switchTenant part new).parts = s.parts.modify part (fun p => { p with running := new }) := by
  unfold State.switchTenant
  extract_lets old out halted running
  have hhalted : halted.parts = s.parts :=
    List.foldlRecOn (motive := fun (t : State) => t.parts = s.parts) out _ rfl (fun _ ht _ _ => (haltGang_parts ..).trans ht)
  have hrunning : running.parts = s.parts.modify part (fun p => { p with running := new }) := by rw [← hhalted]; rfl
  cases new with
  | none => exact hrunning
  | some t => exact (switchMoves_parts ..).trans ((relearnTenant_relearned ..).parts.trans hrunning)

theorem fn_modPart (s : State) (part : Nat) (f : Part → Part) (k : Nat) : (s.modPart part f).fn k = s.fn k := rfl

section
variable {s : State} {part : Nat} {p : Part} (hp : s.part part = some p)
include hp

/-- The choice waits for a command (16 R432). -/
theorem tickChoice_held (hbusy : s.puppeteerFree = false) :
    (s.tickChoice part).part part = some { p with switchDue := !s.frozenPup } := by
  simp only [State.tickChoice, hp, hbusy, Bool.not_false, if_true, modPart_part, Option.map_some]

/-- The choice is made: the tenant with the largest allowance of those that may run. -/
theorem tickChoice_made (hfree : s.puppeteerFree = true) (hwork : s.workers part ≠ []) :
    (s.tickChoice part).part part = some { p with
      switchDue := false, running := p.choose ((s.workers part).filter (fun f => p.underCap f (s.fn f).cap)) } := by
  let next := p.choose ((s.workers part).filter (fun f => p.underCap f (s.fn f).cap))
  let u := s.modPart part (fun p => { p with switchDue := false })
  have hu : u.part part = some { p with switchDue := false } := (modPart_part ..).trans (congrArg _ hp)
  have hchoice : s.tickChoice part = if next = p.running then u else u.switchTenant part next := by
    simp [State.tickChoice, hp, hfree, hwork, next, u, fn_modPart]
  rw [hchoice]
  split
  · next h => rw [hu, ← h]
  · have hswitch := switchTenant_parts u part next
    unfold State.part at hu ⊢
    rw [hswitch, Assoc.find_modify, hu]
    rfl

end

/-- The partition with a tick accounted. -/
def State.ticked (s : State) (part : Nat) (p : Part) : Part :=
  { p.account (s.workers part) (s.submitters part) (fun t => (s.fn t).weight) with ticked := p.ticked + 1 }

section
variable {s : State} {part : Nat} {p : Part} (hp : s.part part = some p) (hdies : p.oneDie = false)
include hp hdies

theorem exec_tick_due (hdue : p.switchDue = true) (hfree : s.puppeteerFree = true) :
    exec (.tick part) s = .next (s.tickChoice part) := by
  show execTick part s = _
  simp [execTick, hp, hdies, hdue, hfree]

theorem exec_tick_counts (hdue : (p.switchDue && s.puppeteerFree) = false) (htime : p.ticked < s.reftime / 1000000) :
    exec (.tick part) s = .next ((s.modPart part (fun p => s.ticked part p)).tickChoice part) := by
  show execTick part s = _
  simp only [execTick, hp, hdies, hdue, Nat.not_le.2 htime, Bool.false_eq_true, if_false]
  rfl

end

/-! WS_SWEEP (16 R408). -/

/-- The word of a leaf after a sweep: AGE is 3 where the page was accessed and falls by one where not, and ACCESSED is clear. -/
def agedWord (w : Dword) : Nat :=
  w.toNat - leafAge w * 2 ^ 7 - (if pteBit w 6 then 2 ^ 6 else 0) + (if pteBit w 6 then 3 else leafAge w - 1) * 2 ^ 7

/-- The sweep of one page. -/
def State.sweepLeaf (s : State) (fn : Nat) (l : Leaf) : State :=
  (s.writeBytes l.entry (bytesOfNat 8 (agedWord l.word))).dropTlb fn l.va

/-- The leaves of tables are read in memory. -/
theorem leavesFrom_congr {s t : State} (h : t.mem = s.mem) (levels : List Nat) (base va : Nat) :
    t.leavesFrom levels base va = s.leavesFrom levels base va := by
  have hentries : t.tableEntries = s.tableEntries := by
    funext base size
    simp only [State.tableEntries, h]
  have hpte : t.pte = s.pte := by
    funext a
    simp only [State.pte, State.bytesAt, h]
  induction levels generalizing base va with
  | nil => rfl
  | cons level levels ih => simp only [State.leavesFrom, hentries, hpte, ih]

theorem leaves_congr {s t : State} {fn : Nat} (hmem : t.mem = s.mem) (hroot : (t.fn fn).root = (s.fn fn).root) :
    t.leaves fn = s.leaves fn := by
  simp only [State.leaves, Fn.rootBase, hroot, leavesFrom_congr hmem]

theorem exec_wsSweep {s : State} {fn : Nat} (hrec : (s.fn fn).recorded = true) (hdue : (s.fn fn).swept < s.reftime / 1000000) :
    exec (.wsSweep fn) s = .next (((s.leaves fn).filter (fun l => l.level == 1)).foldl (fun s l => s.sweepLeaf fn l)
      (s.modFn fn (fun x => { x with swept := x.swept + 1 }))) := by
  have hleaves : (s.modFn fn (fun x => { x with swept := x.swept + 1 })).leaves fn = s.leaves fn :=
    leaves_congr (modFn_mem ..) (by rw [modFn_fn])
  show execWsSweep fn s = _
  simp only [execWsSweep, hrec, hdue, true_and, if_true, hleaves]
  rfl

/-- AGE and ACCESSED of a swept word; its other bits are as they were. -/
theorem agedWord_spec (w : Dword) : let e := BitVec.ofNat 64 (agedWord w)
    e.toNat / 2 ^ 7 % 4 = (if pteBit w 6 then 3 else w.toNat / 2 ^ 7 % 4 - 1) ∧ pteBit e 6 = false ∧
      ∀ k, k < 64 → k ≠ 6 → k ≠ 7 → k ≠ 8 → e.getLsbD k = w.getLsbD k := by
  intro e
  have hw : w.toNat < 2 ^ 64 := w.isLt
  have hbit : pteBit w 6 = decide (w.toNat / 2 ^ 6 % 2 = 1) := Nat.testBit_eq_decide_div_mod_eq
  have haged : e.toNat = w.toNat / 2 ^ 9 * 2 ^ 9 + (if pteBit w 6 then 3 else w.toNat / 2 ^ 7 % 4 - 1) * 2 ^ 7 + w.toNat % 2 ^ 6 := by
    show agedWord w % 2 ^ 64 = _
    unfold agedWord leafAge
    rw [hbit]
    by_cases h : w.toNat / 2 ^ 6 % 2 = 1
    · simp only [h, decide_true, if_true]
      omega
    · simp only [h, decide_false, Bool.false_eq_true, if_false]
      omega
  have hage : (if pteBit w 6 then 3 else w.toNat / 2 ^ 7 % 4 - 1) < 4 := by
    split
    · decide
    · omega
  generalize (if pteBit w 6 then 3 else w.toNat / 2 ^ 7 % 4 - 1) = age at haged hage ⊢
  have hclear : e.toNat / 2 ^ 6 % 2 ≠ 1 := by omega
  have hlow : e.toNat % 2 ^ 6 = w.toNat % 2 ^ 6 := by omega
  have hhigh : e.toNat / 2 ^ 9 = w.toNat / 2 ^ 9 := by omega
  refine ⟨by omega, (Nat.testBit_eq_decide_div_mod_eq ..).trans (decide_eq_false hclear), fun k _ h6 h7 h8 => ?_⟩
  show e.toNat.testBit k = w.toNat.testBit k
  rcases Nat.lt_or_ge k 6 with hk | hk
  · have hbits : (e.toNat % 2 ^ 6).testBit k = (w.toNat % 2 ^ 6).testBit k := by rw [hlow]
    rwa [Nat.testBit_mod_two_pow, Nat.testBit_mod_two_pow, decide_eq_true hk, Bool.true_and, Bool.true_and] at hbits
  · obtain ⟨j, rfl⟩ := Nat.exists_eq_add_of_le (show 9 ≤ k by omega)
    have hbits : (e.toNat / 2 ^ 9).testBit j = (w.toNat / 2 ^ 9).testBit j := by rw [hhigh]
    rwa [Nat.testBit_div_two_pow, Nat.testBit_div_two_pow, Nat.add_comm] at hbits

section
variable {s : State} (fn : Nat) (l : Leaf)

theorem sweepLeaf_fn (k : Nat) : (s.sweepLeaf fn l).fn k = s.fn k := by
  obtain ⟨_, h⟩ := writeBytes_frame s l.entry (bytesOfNat 8 (agedWord l.word))
  unfold State.sweepLeaf
  rw [h]
  rfl

theorem sweepLeaf_viral : (s.sweepLeaf fn l).viral = s.viral := by
  obtain ⟨_, h⟩ := writeBytes_frame s l.entry (bytesOfNat 8 (agedWord l.word))
  unfold State.sweepLeaf
  rw [h]
  rfl

theorem sweepLeaf_tlb {x : TlbEntry} (hx : x ∈ (s.sweepLeaf fn l).tlb) :
    x ∈ s.tlb ∧ (x.fn = fn → x.vpn ≠ l.va % 2 ^ 57 / 2 ^ levelShift x.level) := by
  refine ⟨?_, dropTlb_spec hx⟩
  obtain ⟨_, h⟩ := writeBytes_frame s l.entry (bytesOfNat 8 (agedWord l.word))
  unfold State.sweepLeaf at hx
  rw [h] at hx
  exact (List.mem_filter.1 hx).1

theorem sweepLeaf_mem (hv : s.viral = false) : (s.sweepLeaf fn l).mem = s.mem.writeN l.entry (bytesOfNat 8 (agedWord l.word)) :=
  writeBytes_mem hv ..

end

/-- Pages whose entries lie apart are swept: the entry of each has its aged word, no TLB holds one of them, and the other bytes and
the registers are as they were. -/
theorem foldl_sweepLeaf {fn : Nat} {ls : List Leaf} (hls : ls.Pairwise (fun a b => a.entry + 8 ≤ b.entry ∨ b.entry + 8 ≤ a.entry))
    {s : State} (hv : s.viral = false) (hwf : s.mem.wf = true) : let t := ls.foldl (fun s l => s.sweepLeaf fn l) s
    (∀ k, t.fn k = s.fn k) ∧
    (∀ x ∈ t.tlb, x ∈ s.tlb ∧ ∀ l ∈ ls, x.fn = fn → x.vpn ≠ l.va % 2 ^ 57 / 2 ^ levelShift x.level) ∧
    (∀ l ∈ ls, t.mem.readN l.entry 8 = bytesOfNat 8 (agedWord l.word)) ∧
    ∀ a, (∀ l ∈ ls, a < l.entry ∨ l.entry + 8 ≤ a) → t.mem.read a = s.mem.read a := by
  induction ls generalizing s with
  | nil => exact ⟨fun _ => rfl, fun x hx => ⟨hx, nofun⟩, nofun, fun _ _ => rfl⟩
  | cons l ls ih =>
    obtain ⟨hl, hls⟩ := List.pairwise_cons.1 hls
    have hmem := sweepLeaf_mem fn l hv
    obtain ⟨hread, hout⟩ := writeN_written hwf l.entry (bytesOfNat_length 8 (agedWord l.word))
    rw [← hmem] at hread hout
    obtain ⟨hfn, htlb, hwords, hrest⟩ := ih hls ((sweepLeaf_viral fn l).trans hv) (hmem ▸ Bytes.wf_writeN hwf ..)
    refine ⟨fun k => (hfn k).trans (sweepLeaf_fn ..), fun x hx => ?_, List.forall_mem_cons.2 ⟨?_, hwords⟩, fun a ha => ?_⟩
    · obtain ⟨hkept, hdropped⟩ := htlb x hx
      obtain ⟨hold, hfirst⟩ := sweepLeaf_tlb fn l hkept
      exact ⟨hold, List.forall_mem_cons.2 ⟨hfirst, hdropped⟩⟩
    · rw [← hread]
      refine Bytes.readN_congr _ _ (fun a h1 h2 => hrest a (fun m hm => ?_))
      have := hl m hm
      omega
    · obtain ⟨hfirst, hothers⟩ := List.forall_mem_cons.1 ha
      exact (hrest a hothers).trans (hout a hfirst)

/-- Settles O47: decisions, quanta, resumption in place, ticks that a command holds and ticks that choose, and sweeps. -/
theorem scheduling : Obligations.Scheduling := by
  unfold Obligations.Scheduling
  refine ⟨fun s part p hp hfree hone fn i u hfn hfit hlow => ?decision,
    fun s k c p hc hrun hover hfree hp hone hwait => ?quantum,
    fun s k c p hc hp hdies hmay hhalt hquiet hintact => ?resumes,
    fun s part p hp hdies htime hbusy hnodup => ?held,
    fun s part p hp hdies hdue hfree hwork => ?chosen, fun p ts f h => choose_largest h,
    fun s fn hrec hdue hv hwf hapart => ?sweep⟩
  case decision =>
    have hd := decision_of_lowest hp hfree hone hfn hfit hlow
    refine ⟨exec_schedulingDecision hd, fun id hi hfound hpart die => ?_⟩
    subst hi
    obtain ⟨l, hl⟩ := Option.ne_none_iff_exists'.1 hfound
    obtain rfl := hpart l hl
    exact exec_carouselPlace_oneDie hl hp hone hd die
  case quantum =>
    obtain ⟨d, hd, hst, hstop⟩ := haltGang_spec hc hrun
    exact ⟨_, d, exec_quantumEnd hc hrun hover hfree hp hone hwait, hd, hst, hstop, haltGang_mem ..⟩
  case resumes =>
    exact ⟨_, exec_resumeInPlace hc hp hdies hmay hhalt hquiet hintact, resumeHere_gang hc, resumeHere_mem ..,
      fun i hi g hg hst hnone => wakeGroups_runs hi hg hst hnone⟩
  case held =>
    have hcounts := exec_tick_counts hp hdies (by rw [hbusy, Bool.and_false]) htime
    have hticked : (s.modPart part (fun p => s.ticked part p)).part part = some (s.ticked part p) :=
      (modPart_part ..).trans (congrArg _ hp)
    exact ⟨_, _, hcounts, tickChoice_held hticked hbusy, rfl, rfl, rfl, rfl,
      fun f hf => account_allowance hnodup (s.submitters part) (fun t => (s.fn t).weight) hf⟩
  case chosen =>
    by_cases hs : p.switchDue = true
    · refine ⟨_, _, exec_tick_due hp hdies hs hfree, tickChoice_made hp hfree hwork, rfl, ?_, ?_⟩ <;> simp only [hs, if_true]
    · have htime := hdue.resolve_left hs
      have hcounts := exec_tick_counts hp hdies (by rw [Bool.eq_false_iff.2 hs, Bool.false_and]) htime
      have hticked : (s.modPart part (fun p => s.ticked part p)).part part = some (s.ticked part p) :=
        (modPart_part ..).trans (congrArg _ hp)
      refine ⟨_, _, hcounts, tickChoice_made hticked hfree hwork, rfl, ?_, ?_⟩ <;> rw [if_neg hs] <;> rfl
  case sweep =>
    obtain ⟨hfn, htlb, hwords, hrest⟩ := foldl_sweepLeaf (fn := fn) hapart
      (s := s.modFn fn (fun x => { x with swept := x.swept + 1 })) hv hwf
    refine ⟨_, exec_wsSweep hrec hdue, ?_, fun l hl x hx => (htlb x hx).2 l hl, fun l hl => ?_, hrest⟩
    · rw [hfn, modFn_fn]
    · have hword := agedWord_spec l.word
      rw [hwords l hl, ofNat_natOfBytes_eight]
      exact hword

end Sys2Proof.Machine

/-! PART_DESTROY of a state in which two clusters have one number (16 R431, R432). -/

namespace Sys2Proof.Machine

open Sys2Proof

/-- A cluster of one core with no team and no launch behind it, in partition 0. -/
def strayGang (status : GangStatus) (pending : Bool) : Gang :=
  ⟨0, 0, 0, 0, 0, 0, 1, 1, false, 0, [], [], Vector.replicate 8 ⟨0, []⟩, 0, status, pending, [], []⟩

/-- The partition that is destroyed: one slice, no memory. -/
def strayPart : Part := { Part.ofArg [] with slices := 4, dieorder := 0xE4 }

/-- The machine after reset with PART_DESTROY of partition 2 in PCMD, and number 7 given to a finished cluster that stays pending
and to one that runs and fits nowhere. -/
def strayState : State :=
  { State.reset with
    pf := { State.reset.pf with pcmd := some 0x202 }, parts := [(2, strayPart)],
    gangs := [(7, strayGang .finished true), (7, strayGang .running false)] }

/-- RESULT after an outcome. -/
def resultAfter : Host.Outcome State Fault Refusal → Option Nat
  | .next t => some t.pf.result
  | _ => none

/-- The command takes the cluster that runs for the pending one, gives it up, and returns UNPLACEABLE. -/
theorem resultAfter_partDestroy : resultAfter (exec .partDestroy strayState) = some resUnplaceable := by decide +kernel

/-- Refutes O49: the statement speaks of every state, also of one whose clusters do not have distinct numbers. There a cluster that
the command does not affect, and that is not pending, is looked up under its number as a finished one that is; it fits nowhere, and
PART_DESTROY returns UNPLACEABLE where the statement says OK. -/
theorem not_partitionCommands : ¬ Obligations.PartitionCommands := by
  unfold Obligations.PartitionCommands
  intro h
  obtain ⟨-, hdestroy, -⟩ := h strayState 0x202 rfl rfl (by decide +kernel)
  obtain ⟨hchannels, -, -⟩ := hdestroy (by decide) strayPart (by decide +kernel)
  obtain ⟨t, ht, -, ⟨-, hok⟩, -⟩ := hchannels (by decide +kernel) (by decide +kernel)
  have hresult := resultAfter_partDestroy
  rw [ht] at hresult
  exact absurd ((Option.some_inj.1 hresult).symm.trans hok) (by decide)

end Sys2Proof.Machine

/-! The package after bring-up, and the lines that CCLEAN cleans while VIRAL is set (19 R480, R490; 17 R450). -/

namespace Sys2Proof.Machine

open Sys2Proof

/-- An empty input has its 96 shared slots and two of each VC. -/
theorem reset_fslot (now : Nat) : Port.reset.fslot now = 0xAAAA60 := by
  show (List.range 8).foldl (fun n v => n + 2 * 2 ^ (2 * v + 8)) 96 = 0xAAAA60
  decide

/-- Settles O59: every field has its value by the definition of the state after bring-up. -/
theorem resetState : Obligations.ResetState := by
  refine ⟨rfl, fun _ => rfl, rfl, rfl, rfl, rfl, rfl, fun _ => rfl, fun _ _ => rfl, fun _ => rfl, fun _ => ?function,
    fun d hd => ?die, fun _ => ⟨rfl, funext reset_fslot⟩, rfl, rfl, rfl, rfl, rfl⟩
  case function =>
    show Fn.reset.bound = none ∧ Fn.reset.tickets = 100 ∧ Fn.reset.cap = 1000 ∧ Fn.reset.root = 0 ∧ Fn.reset.wdcfg = 0x0800 ∧
      Fn.reset.invdone = true
    decide
  case die => interval_cases d <;> exact ⟨rfl, rfl, rfl⟩

/-- The machine after reset with VIRAL set and the first line of host memory modified in the last-level cache. -/
def viralDirtyState : State :=
  { State.reset with viral := true, lines := [(2 ^ 57, { Line.none with dirty := true })] }

/-- Cleaning that line leaves it modified: VIRAL keeps it from being written. -/
theorem cleanPiece_viralDirty :
    ((viralDirtyState.cleanPiece (2 ^ 64) 128).lines.find (2 ^ 57)).map Line.dirty = some true := by decide +kernel

/-- Refutes O29: the statement's last clause says that CCLEAN cleans every line of its range, but while VIRAL is set a modified
line of host memory stays modified, for it is not written. -/
theorem not_sleepCleanRelearn : ¬ Obligations.SleepCleanRelearn := by
  unfold Obligations.SleepCleanRelearn
  rintro ⟨-, -, hclean⟩
  have hkept := cleanPiece_viralDirty
  rw [hclean viralDirtyState (2 ^ 64) 128 (2 ^ 57)] at hkept
  exact absurd hkept (by decide +kernel)

end Sys2Proof.Machine

/-! Writes of the host to the registers of a function and of the physical function (16 Tables 16.3, 16.6, 16.13; 17 Table 17.4;
20 Table 20.2). -/

namespace Sys2Proof.Machine

open Sys2Proof

theorem exec_registerWrite_fn (s : State) {fn off : Nat} (v : Nat) (hfn : fn ≤ 64) (hlow : 0x2000 ≤ off) (hhigh : off < 0x3000) :
    exec (.registerWrite fn off v) s = .next (s.writeFnReg fn off (v % 2 ^ 64)).wake := by
  show execRegisterWrite fn off v s = _
  simp only [execRegisterWrite, pfId, if_neg (show ¬ 64 < fn by omega), if_pos (And.intro hlow hhigh)]

theorem exec_registerWrite_pf (s : State) {off : Nat} (v : Nat) (hoff : off < 0x2000 ∨ 0x3000 ≤ off) :
    exec (.registerWrite 64 off v) s = .next (s.writePfReg off (v % 2 ^ 64)).wake := by
  show execRegisterWrite 64 off v s = _
  simp only [execRegisterWrite, pfId, if_neg (show ¬ 64 < 64 by omega), if_neg (show ¬ (0x2000 ≤ off ∧ off < 0x3000) by omega),
    if_true]

theorem ofNat_mod_dword (v : Nat) : BitVec.ofNat 64 (v % 2 ^ 64) = BitVec.ofNat 64 v :=
  BitVec.eq_of_toNat_eq (by simp)

/-- A mask whose ones are all bits from `n` up keeps the bits from `n` up. -/
theorem and_highMask (d : Dword) (n : Nat) : d &&& (BitVec.allOnes 64 <<< n) = d >>> n <<< n := by
  ext i hi
  simp only [BitVec.getElem_and, BitVec.getElem_shiftLeft, BitVec.getElem_allOnes]
  by_cases h : i < n
  · simp [h]
  · simp [h, BitVec.getLsbD_eq_getElem hi, Nat.add_sub_cancel' (Nat.le_of_not_lt h)]

theorem and_highMask_or_one (d : Dword) (n : Nat) :
    d &&& ((BitVec.allOnes 64 <<< n) ||| 1#64) = d >>> n <<< n ||| (d &&& 1#64) := by
  rw [← and_highMask, BitVec.and_or_distrib_left]

/-- A register write of a function that is a change `f` of its registers and nothing else. -/
def FnWrite (s : State) (fn off v : Nat) (f : Fn → Fn) : Prop :=
  ∃ t, exec (.registerWrite fn off v) s = .next t ∧ t.fn fn = f (s.fn fn) ∧ t.mem = s.mem ∧ ∀ k, k ≠ fn → t.fn k = s.fn k

theorem fnWrite_of_modFn {s : State} {fn off v : Nat} {f : Fn → Fn} (hfn : fn ≤ 64) (hlow : 0x2000 ≤ off) (hhigh : off < 0x3000)
    (hw : s.writeFnReg fn off (v % 2 ^ 64) = s.modFn fn f) : FnWrite s fn off v f :=
  ⟨_, exec_registerWrite_fn s v hfn hlow hhigh, hw ▸ modFn_fn s fn f, hw ▸ modFn_mem s fn f, fun _ hk => hw ▸ modFn_fn_ne s f hk⟩

theorem fnWrite_kept {s : State} {fn off v : Nat} (hfn : fn ≤ 64) (hlow : 0x2000 ≤ off) (hhigh : off < 0x3000)
    (hw : s.writeFnReg fn off (v % 2 ^ 64) = s) : FnWrite s fn off v (fun x => x) :=
  ⟨_, exec_registerWrite_fn s v hfn hlow hhigh, hw.symm ▸ rfl, hw.symm ▸ rfl, fun _ _ => hw.symm ▸ rfl⟩

theorem ofNat_low (n v : Nat) (hn : n ≤ 32) :
    BitVec.ofNat 32 (v % 2 ^ n) = (BitVec.ofNat 64 v &&& BitVec.ofNat 64 (2 ^ n - 1)).setWidth 32 := by
  refine BitVec.eq_of_toNat_eq ?_
  have hpow : 2 ^ n ≤ 2 ^ 32 := Nat.pow_le_pow_right (by decide) hn
  have hdvd : 2 ^ n ∣ 2 ^ 64 := Nat.pow_dvd_pow 2 (by omega)
  rw [BitVec.toNat_ofNat, BitVec.toNat_setWidth, BitVec.toNat_and, BitVec.toNat_ofNat, BitVec.toNat_ofNat,
    Nat.mod_eq_of_lt (a := 2 ^ n - 1) (by omega), Nat.and_two_pow_sub_one_eq_mod, Nat.mod_mod_of_dvd v hdvd]

/-- The registers of a function that are written at any time. -/
theorem writeFnReg_free (s : State) (fn v : Nat) : let d : Dword := BitVec.ofNat 64 v
    s.writeFnReg fn 0x2008 (v % 2 ^ 64) = s.modFn fn (fun x => { x with invaddr := d >>> 16 <<< 16 }) ∧
    s.writeFnReg fn 0x2010 (v % 2 ^ 64) = s.modFn fn (fun x => { x with invcnt := d.setWidth 32 }) ∧
    s.writeFnReg fn 0x2030 (v % 2 ^ 64) = s.modFn fn (fun x => { x with frbase := d >>> 12 <<< 12 }) ∧
    s.writeFnReg fn 0x2038 (v % 2 ^ 64) = s.modFn fn (fun x => { x with frsize := v % 2 ^ 13 }) ∧
    s.writeFnReg fn 0x2048 (v % 2 ^ 64) = s.modFn fn (fun x => { x with frhead := v % 2 ^ 12 }) ∧
    s.writeFnReg fn 0x2060 (v % 2 ^ 64) = s.modFn fn (fun x => { x with wdcfg := (d &&& 0xFFFF#64).setWidth 32 }) ∧
    s.writeFnReg fn 0x2080 (v % 2 ^ 64) = s.modFn fn (fun x => { x with fabcfg := (d &&& 0x1FFFF#64).setWidth 32 }) ∧
    s.writeFnReg fn 0x2088 (v % 2 ^ 64) = s.modFn fn (fun x => { x with rxbase := d >>> 12 <<< 12 }) := by
  have hmod (n : Nat) (hn : n ≤ 64) : v % 2 ^ 64 % 2 ^ n = v % 2 ^ n := Nat.mod_mod_of_dvd v (Nat.pow_dvd_pow 2 hn)
  intro d
  simp only [← and_highMask, d]
  refine ⟨?_, ?_, ?_, ?_, ?_, ?_, ?_, ?_⟩ <;> simp only [State.writeFnReg, ofNat_mod_dword]
  case refine_1 => rfl
  case refine_3 => rfl
  case refine_4 => rw [hmod 13 (by decide)]
  case refine_5 => rw [hmod 12 (by decide)]
  case refine_6 => rw [hmod 16 (by decide), ofNat_low 16 v (by decide)]; rfl
  case refine_7 => rw [hmod 17 (by decide), ofNat_low 17 v (by decide)]; rfl
  case refine_8 => rfl

/-- ROOT, CTXBASE and CTXCHUNKS are written while no launch of the function runs. -/
theorem writeFnReg_idle {s : State} {fn : Nat} (v : Nat) (hidle : s.launchRuns fn = false) : let d : Dword := BitVec.ofNat 64 v
    s.writeFnReg fn 0x2000 (v % 2 ^ 64) = s.modFn fn (fun x => { x with root := d >>> 18 <<< 18 ||| (d &&& 1#64) }) ∧
    s.writeFnReg fn 0x2020 (v % 2 ^ 64) = s.modFn fn (fun x => { x with ctxbase := d >>> 16 <<< 16 }) ∧
    s.writeFnReg fn 0x2028 (v % 2 ^ 64) = s.modFn fn (fun x => { x with ctxchunks := d.setWidth 32 }) := by
  intro d
  simp only [d]
  refine ⟨?_, ?_, ?_⟩ <;> simp only [State.writeFnReg, ofNat_mod_dword, hidle]
  · rw [← and_highMask_or_one]; rfl
  · rw [← and_highMask]; rfl
  · rfl

theorem writeFnReg_running {s : State} {fn : Nat} (v : Nat) (hruns : s.launchRuns fn = true) :
    s.writeFnReg fn 0x2000 v = s ∧ s.writeFnReg fn 0x2020 v = s ∧ s.writeFnReg fn 0x2028 v = s := by
  refine ⟨?_, ?_, ?_⟩ <;> simp only [State.writeFnReg, hruns, if_true]

theorem setSched_sched (f : Fn) (d : Dword) (now : Nat) : (f.setSched d now).sched = d := by
  unfold Fn.setSched
  dsimp only
  split <;> rfl

/-- The bits of VFSCHED that are not reserved. -/
theorem vfschedMask_bit : ∀ k, k < 64 → (0x7FFFFFFC03F : Dword).getLsbD k = (decide (k < 6) || (decide (14 ≤ k) && decide (k ≤ 42))) := by
  decide

/-- The bits of VFSCHED that a tenant's binding does not hold. -/
theorem vfschedShareMask_bit : ∀ k, k < 64 → (0x7FFFFFFC000 : Dword).getLsbD k = (decide (14 ≤ k) && decide (k ≤ 42)) := by
  decide

theorem vfschedBindingMask_bit : ∀ k, k < 64 → (0x3F : Dword).getLsbD k = decide (k < 6) := by
  decide

theorem writePfReg_vfsched (s : State) {vf : Nat} (v : Nat) (h : vf < 64) :
    s.writePfReg (0x50000 + 8 * vf) v = s.writeVfsched vf v := by
  rw [State.writePfReg, if_neg (by omega), if_neg (by omega), if_pos (by omega), show (0x50000 + 8 * vf - 0x50000) / 8 = vf by omega]

theorem writeVfsched_bit (s : State) (vf v : Nat) {k : Nat} (hk : k < 64) :
    ((s.writeVfsched vf v).fn vf).sched.getLsbD k =
      (if k < 6 then
        (if ((s.fn vf).bound.map (fun p => s.hasWork p vf)).getD false then (s.fn vf).sched.getLsbD k else (BitVec.ofNat 64 v).getLsbD k)
       else (decide (14 ≤ k) && decide (k ≤ 42) && (BitVec.ofNat 64 v).getLsbD k)) := by
  simp only [State.writeVfsched, modFn_fn, setSched_sched]
  have hapart : ¬ (k < 6 ∧ 14 ≤ k) := by omega
  cases ((s.fn vf).bound.map (fun p => s.hasWork p vf)).getD false
  case false =>
    simp only [Bool.false_eq_true, if_false, BitVec.getLsbD_and, vfschedMask_bit k hk]
    generalize (BitVec.ofNat 64 v).getLsbD k = b
    by_cases hlow : k < 6
    · simp [hlow]
    · simp [hlow, Bool.and_comm]
  case true =>
    simp only [if_true, BitVec.getLsbD_or, BitVec.getLsbD_and, vfschedMask_bit k hk, vfschedShareMask_bit k hk, vfschedBindingMask_bit k hk]
    generalize (BitVec.ofNat 64 v).getLsbD k = b
    by_cases hlow : k < 6
    · simp [hlow, show ¬ 14 ≤ k by omega]
    · by_cases hmid : 14 ≤ k <;> simp [hlow, hmid, Bool.and_comm]

theorem writePfReg_pwrlim (s : State) (v : Nat) : s.writePfReg 0x50800 v = { s with pf := { s.pf with pwrlim := v % 2 ^ 16 } } := rfl

theorem writePfReg_pcmd (s : State) (v : Nat) :
    (s.writePfReg 0x50D00 v).pf.pcmd = (match s.pf.pcmd with | some c => some c | none => some (v % 2 ^ 32)) := by
  show (if s.pf.pcmd.isNone then { s with pf := { s.pf with pcmd := some (v % 2 ^ 32) } } else s).pf.pcmd = _
  cases h : s.pf.pcmd <;> simp [h]

theorem writePfReg_pnode (s : State) {part : Nat} (v : Nat) (h : part < 32) :
    (s.writePfReg (0x70000 + 8 * part) v).pnode part = v % 2 ^ 12 := by
  rw [State.writePfReg, if_neg (by omega), if_neg (by omega), if_neg (by omega), if_neg (by omega), if_neg (by omega),
    if_neg (by omega), if_neg (by omega), if_neg (by omega), if_neg (by omega), if_pos (by omega),
    show (0x70000 + 8 * part - 0x70000) / 8 = part by omega]
  simp [State.pnode, Assoc.getD, modFabric_fabric, Assoc.find_set]

theorem writePfReg_route (s : State) {part node : Nat} (v : Nat) (h : part < 32) (hn : node < 4096) :
    (s.writePfReg (0x80000 + 0x4000 * part + 4 * node) v).route part node = BitVec.ofNat 32 v := by
  rw [State.writePfReg, if_neg (by omega), if_neg (by omega), if_neg (by omega), if_neg (by omega), if_neg (by omega),
    if_neg (by omega), if_neg (by omega), if_neg (by omega), if_neg (by omega), if_neg (by omega), if_pos (by omega),
    show (0x80000 + 0x4000 * part + 4 * node - 0x80000) / 4 = 4096 * part + node by omega]
  simp [State.route, Assoc.getD, modFabric_fabric, Assoc.find_set]

/-- Settles O51: each register's mask keeps the bits that the tables name, and no other register changes. -/
theorem registerWrites : Obligations.RegisterWrites := by
  unfold Obligations.RegisterWrites
  refine ⟨fun s fn v hfn => ?function, fun s vf v hvf => ?vfsched, fun s v => ?physical⟩
  case function =>
    obtain ⟨hinvaddr, hinvcnt, hfrbase, hfrsize, hfrhead, hwdcfg, hfabcfg, hrxbase⟩ := writeFnReg_free s fn v
    have sets {off : Nat} {f : Fn → Fn} (h : 0x2000 ≤ off ∧ off < 0x3000) :=
      fnWrite_of_modFn (s := s) (v := v) (f := f) hfn h.1 h.2
    have kept {off : Nat} (h : 0x2000 ≤ off ∧ off < 0x3000) := fnWrite_kept (s := s) (v := v) hfn h.1 h.2
    refine ⟨fun hidle => ?_, fun hruns => ?_, sets (by omega) hinvaddr, sets (by omega) hinvcnt, sets (by omega) hfrbase,
      sets (by omega) hfrsize, sets (by omega) hfrhead, sets (by omega) hwdcfg, sets (by omega) hfabcfg, sets (by omega) hrxbase⟩
    · obtain ⟨hroot, hbase, hchunks⟩ := writeFnReg_idle v hidle
      exact ⟨sets (by omega) hroot, sets (by omega) hbase, sets (by omega) hchunks⟩
    · obtain ⟨hroot, hbase, hchunks⟩ := writeFnReg_running (v % 2 ^ 64) hruns
      exact ⟨kept (by omega) hroot, kept (by omega) hbase, kept (by omega) hchunks⟩
  case vfsched =>
    refine ⟨_, exec_registerWrite_pf s v (by omega), fun k hk => ?_⟩
    rw [writePfReg_vfsched s _ hvf, ← ofNat_mod_dword v]
    exact writeVfsched_bit s vf _ hk
  case physical =>
    have hmod (n : Nat) (hn : n ≤ 64) : v % 2 ^ 64 % 2 ^ n = v % 2 ^ n := Nat.mod_mod_of_dvd v (Nat.pow_dvd_pow 2 hn)
    refine ⟨⟨_, exec_registerWrite_pf s v (by omega), ?_⟩, ⟨_, exec_registerWrite_pf s v (by omega), ?_⟩,
      fun part hp => ⟨_, exec_registerWrite_pf s v (by omega), ?_⟩,
      fun part node hp hn => ⟨_, exec_registerWrite_pf s v (by omega), ?_⟩⟩
    · rw [← hmod 16 (by decide), writePfReg_pwrlim]; rfl
    · rw [← hmod 32 (by decide)]; exact writePfReg_pcmd ..
    · rw [← hmod 12 (by decide)]; exact writePfReg_pnode s _ hp
    · refine (writePfReg_route s _ hp hn).trans (BitVec.eq_of_toNat_eq ?_)
      rw [BitVec.toNat_ofNat, BitVec.toNat_ofNat, hmod 32 (by decide)]

end Sys2Proof.Machine

/-! Walks that end, host translations and invalidations (17 R453 to R458). -/

namespace Sys2Proof.Machine

open Sys2Proof

/-! What the walkers, the TLBs and the walk caches change of the state. -/

theorem takeWalker_frame {s t : State} {m : Miss} (h : s.takeWalker m = some t) :
    ∃ w n, t = { s with walks := w, nextId := n } := by
  unfold State.takeWalker at h
  (repeat' split at h) <;> cases h <;> exact ⟨_, _, rfl⟩

theorem serveMisses_frame (s : State) (die : Nat) (ms : List Miss) :
    ∃ w m n, s.serveMisses die ms = { s with walks := w, misses := m, nextId := n } := by
  induction ms generalizing s with
  | nil => exact ⟨_, _, _, rfl⟩
  | cons m ms ih =>
    unfold State.serveMisses
    split
    · exact ih s
    split
    case h_1 t ht =>
      obtain ⟨w, n, rfl⟩ := takeWalker_frame ht
      obtain ⟨w', m', n', h⟩ := ih { s with walks := w, nextId := n, misses := s.misses.filter (fun x => x != m) }
      exact ⟨w', m', n', h⟩
    case h_2 => exact ih s

theorem putTlb_frame (s : State) (t : TlbEntry) (cap : Nat) : ∃ l n, s.putTlb t cap = { s with tlb := l, free := n } := by
  unfold State.putTlb
  dsimp only
  split <;> exact ⟨_, _, rfl⟩

theorem foldl_tlb_frame {α : Type} {f : State → α → State} (hf : ∀ s x, ∃ l n, f s x = { s with tlb := l, free := n })
    (xs : List α) (s : State) : ∃ l n, xs.foldl f s = { s with tlb := l, free := n } := by
  induction xs generalizing s with
  | nil => exact ⟨_, _, rfl⟩
  | cons x xs ih =>
    obtain ⟨l, n, h⟩ := hf s x
    obtain ⟨l', n', h'⟩ := ih (f s x)
    exact ⟨l', n', by rw [List.foldl_cons, h', h]⟩

theorem putTlb_putTlb_frame (s : State) (t u : TlbEntry) (a b : Nat) :
    ∃ l n, (s.putTlb t a).putTlb u b = { s with tlb := l, free := n } := by
  obtain ⟨l, n, h⟩ := putTlb_frame s t a
  obtain ⟨l', n', h'⟩ := putTlb_frame (s.putTlb t a) u b
  exact ⟨l', n', by rw [h', h]⟩

theorem fillTlbs_frame (s : State) (w : Walk) (level : Nat) (leaf : Dword) :
    ∃ l n, s.fillTlbs w level leaf = { s with tlb := l, free := n } := by
  unfold State.fillTlbs
  obtain ⟨l, n, h⟩ := putTlb_frame s ⟨w.die, .last, w.fn, level, w.page * 2 ^ 16 / 2 ^ levelShift level, leaf⟩ 8192
  dsimp only
  rw [h]
  exact foldl_tlb_frame (fun s _ => putTlb_putTlb_frame s ..) _ _

theorem cacheTable_frame (s : State) (c : WalkCacheEntry) : ∃ l n, s.cacheTable c = { s with walkCache := l, free := n } := by
  unfold State.cacheTable
  (repeat' split) <;> exact ⟨_, _, rfl⟩

theorem cacheWay_frame (s : State) (die fn va level : Nat) :
    ∃ l n, s.cacheWay die fn va level = { s with walkCache := l, free := n } := by
  unfold State.cacheWay
  dsimp only
  split
  · exact ⟨_, _, rfl⟩
  next t2 _ =>
  obtain ⟨l, n, h⟩ := cacheTable_frame s ⟨die, fn, 3, va / 2 ^ levelShift 3, t2⟩
  rw [h]
  split
  · exact ⟨_, _, rfl⟩
  next t1 _ =>
  obtain ⟨l', n', h'⟩ := cacheTable_frame { s with walkCache := l, free := n } ⟨die, fn, 2, va / 2 ^ levelShift 2, t1⟩
  exact ⟨l', n', h'⟩

/-! A leaf in the TLBs (17 R456). -/

theorem putTlb_self (s : State) (t : TlbEntry) (cap : Nat) : t ∈ (s.putTlb t cap).tlb := by
  unfold State.putTlb
  dsimp only
  split <;> exact List.mem_append_right _ (List.mem_singleton_self t)

/-- What stands in one TLB stays when an entry enters another. -/
theorem putTlb_other {s : State} {x t : TlbEntry} (cap : Nat) (hx : x ∈ s.tlb) (hplace : x.place ≠ t.place) :
    x ∈ (s.putTlb t cap).tlb := by
  have hrest : x ∈ (s.tlb.partition (fun y : TlbEntry => y.die == t.die && y.place == t.place)).2 := by
    simp [hx, hplace]
  unfold State.putTlb
  dsimp only
  split
  · exact List.mem_append_left _ (List.mem_append_left _ hrest)
  · exact List.mem_append_left _ (List.mem_append_left _ (List.mem_append_left _ hrest))

/-- The leaf of a walk that ended stands in the last-level TLB of its die. -/
theorem fillTlbs_last (s : State) (w : Walk) (level : Nat) (leaf : Dword) :
    ⟨w.die, .last, w.fn, level, w.page * 2 ^ 16 / 2 ^ levelShift level, leaf⟩ ∈ (s.fillTlbs w level leaf).tlb := by
  unfold State.fillTlbs
  dsimp only
  have hfirst := putTlb_self s ⟨w.die, .last, w.fn, level, w.page * 2 ^ 16 / 2 ^ levelShift level, leaf⟩ 8192
  revert hfirst
  generalize s.putTlb _ 8192 = u
  generalize List.eraseDups (α := Nat) _ = cores
  induction cores generalizing u with
  | nil => exact id
  | cons c cs ih => exact fun h => ih _ (putTlb_other 32 (putTlb_other 64 h (by simp)) (by simp))

/-! Walks that are over (17 R455, R456). -/

/-- The walks of a number have all failed, and no later walk is given that number. -/
structure WalkOver (s : State) (k : Nat) : Prop where
  given : k < s.nextId
  failed : ∀ e ∈ s.walks, e.1 = k → e.2.failed.isSome = true

theorem takeWalker_over {s t : State} {m : Miss} {k : Nat} (hk : WalkOver s k) (h : s.takeWalker m = some t) :
    WalkOver t k ∧ t.walks.find k = s.walks.find k := by
  unfold State.takeWalker at h
  split at h
  case h_1 i x hfind =>
    have hne : k ≠ i := by
      rintro rfl
      have hfailed := hk.failed _ (List.mem_of_find?_eq_some hfind) rfl
      have hnone := List.find?_some hfind
      simp_all [Option.isNone_iff_eq_none]
    (repeat' split at h) <;> cases h
    · exact ⟨hk, rfl⟩
    · refine ⟨⟨hk.given, fun e he hek => ?_⟩, ?_⟩
      case refine_2 =>
        dsimp only
        exact Assoc.find_modify_ne _ _ hne
      obtain ⟨d, hd, rfl⟩ := List.mem_map.1 he
      by_cases hdi : d.1 = i
      · rw [if_pos hdi] at hek
        exact absurd (hek.symm.trans hdi) hne
      · rw [if_neg hdi] at hek ⊢
        exact hk.failed d hd hek
  case h_2 =>
    split at h <;> cases h
    refine ⟨⟨Nat.lt_succ_of_lt hk.given, fun e he hek => ?_⟩, Assoc.find_set_ne _ _ (Nat.ne_of_lt hk.given)⟩
    obtain rfl | he := Assoc.mem_set he
    · exact absurd hek.symm (Nat.ne_of_lt hk.given)
    · exact hk.failed e he hek

theorem serveMisses_over {s : State} {k : Nat} (hk : WalkOver s k) (die : Nat) (ms : List Miss) :
    (s.serveMisses die ms).walks.find k = s.walks.find k := by
  induction ms generalizing s with
  | nil => rfl
  | cons m ms ih =>
    unfold State.serveMisses
    split
    · exact ih hk
    split
    case h_1 t ht =>
      obtain ⟨hover, hfind⟩ := takeWalker_over hk ht
      exact (ih (s := { t with misses := t.misses.filter (fun x => x != m) }) ⟨hover.given, hover.failed⟩).trans hfind
    case h_2 => exact ih hk

/-! WALK_COMPLETE. -/

/-- The state after the leaf of a walk was found, before it enters the TLBs: A is set in the leaf of a 64 KiB page. -/
def State.setAccessed (s : State) (level : Nat) (e : Dword) (entry : Nat) : State :=
  if level = 1 ∧ !pteBit e 6 then s.writeBytes entry (bytesOfNat 8 (e.toNat + 2 ^ 6)) else s

theorem setAccessed_frame (s : State) (level : Nat) (e : Dword) (entry : Nat) :
    ∃ m p, s.setAccessed level e entry = { s with mem := m, poison := p } := by
  unfold State.setAccessed
  split
  · obtain ⟨p, h⟩ := writeBytes_frame s entry (bytesOfNat 8 (e.toNat + 2 ^ 6))
    exact ⟨_, p, h⟩
  · exact ⟨_, _, rfl⟩

theorem setAccessed_other (s : State) {level : Nat} (e : Dword) (entry : Nat) (h : level ≠ 1) : s.setAccessed level e entry = s :=
  if_neg (fun hl => h hl.1)

theorem setAccessed_mem {s : State} {e : Dword} {entry : Nat} (ha : pteBit e 6 = false) (hb : s.viralBlocks entry = false) :
    (s.setAccessed 1 e entry).mem = s.mem.writeN entry (bytesOfNat 8 (e.toNat + 2 ^ 6)) := by
  rw [State.setAccessed, if_pos ⟨rfl, by rw [ha]; rfl⟩, writeBytes_mem_of_not_blocked hb]

/-- The state after a walk that found its leaf. -/
def State.walkFound (s : State) (k : Nat) (w : Walk) (level : Nat) (e : Dword) (entry : Nat) : State :=
  let u := ((s.setAccessed level e entry).fillTlbs w level (if level = 1 then e ||| 0x40#64 else e)).cacheWay w.die w.fn
    (w.page * 2 ^ 16) level
  (State.serveMisses { u with walks := u.walks.drop k } w.die u.misses).wake

theorem exec_walkComplete_leaf {s : State} {k : Nat} {w : Walk} (hw : s.walks.find k = some w) (hf : w.failed = none)
    (hroot : (s.fn w.fn).root.getLsbD 0 = true) {level : Nat} {e : Dword} {entry : Nat}
    (hleaf : s.walkCached w.die w.fn (w.page * 2 ^ 16) = .leaf level e entry) :
    exec (.walkComplete k) s = .next (s.walkFound k w level e entry) := by
  show execWalkComplete k s = _
  simp only [execWalkComplete, hw, hf, hroot, hleaf, Option.isSome_none, Bool.false_eq_true, if_false, if_true]
  rfl

theorem exec_walkComplete_bad {s : State} {k : Nat} {w : Walk} (hw : s.walks.find k = some w) (hf : w.failed = none)
    (hroot : (s.fn w.fn).root.getLsbD 0 = true) {poison : Bool}
    (hbad : s.walkCached w.die w.fn (w.page * 2 ^ 16) = .bad poison) :
    exec (.walkComplete k) s =
      .next (if poison then (s.failWalk k w.die .translation).signal pfId 2 else s.failWalk k w.die .translation) := by
  show execWalkComplete k s = _
  simp only [execWalkComplete, hw, hf, hroot, hbad, Option.isSome_none, Bool.false_eq_true, if_false, if_true]

theorem walkFound_frame (s : State) (k : Nat) (w : Walk) (level : Nat) (e : Dword) (entry : Nat) :
    (s.walkFound k w level e entry).mem = (s.setAccessed level e entry).mem ∧
    (s.walkFound k w level e entry).tlb =
      ((s.setAccessed level e entry).fillTlbs w level (if level = 1 then e ||| 0x40#64 else e)).tlb := by
  unfold State.walkFound
  obtain ⟨l, n, h⟩ := cacheWay_frame ((s.setAccessed level e entry).fillTlbs w level (if level = 1 then e ||| 0x40#64 else e)) w.die
    w.fn (w.page * 2 ^ 16) level
  refine ⟨by simp, ?_⟩
  rw [h]
  generalize (s.setAccessed level e entry).fillTlbs w level (if level = 1 then e ||| 0x40#64 else e) = u
  obtain ⟨ws, ms, i, h'⟩ := serveMisses_frame { u with walkCache := l, free := n, walks := u.walks.drop k } w.die u.misses
  dsimp only [wake_tlb]
  rw [h']

theorem walkFound_walks {s : State} {k : Nat} (hk : k < s.nextId) (w : Walk) (level : Nat) (e : Dword) (entry : Nat) :
    (s.walkFound k w level e entry).walks.find k = none := by
  unfold State.walkFound
  obtain ⟨m, p, hset⟩ := setAccessed_frame s level e entry
  obtain ⟨l, n, hfill⟩ := fillTlbs_frame (s.setAccessed level e entry) w level (if level = 1 then e ||| 0x40#64 else e)
  obtain ⟨c, n', hway⟩ := cacheWay_frame ((s.setAccessed level e entry).fillTlbs w level (if level = 1 then e ||| 0x40#64 else e))
    w.die w.fn (w.page * 2 ^ 16) level
  rw [hway, hfill, hset]
  dsimp only [wake_walks]
  refine (serveMisses_over ?notTaken _ _).trans (Assoc.find_drop ..)
  exact ⟨hk, fun e he hek => absurd hek (by simpa using (List.mem_filter.1 he).2)⟩

theorem failWalk_walks {s : State} {k : Nat} {w : Walk} (hw : s.walks.find k = some w) (hk : k < s.nextId) (die : Nat) (c : Cause) :
    (s.failWalk k die c).walks.find k = some { w with failed := some c } := by
  have hover : WalkOver { s with walks := s.walks.modify k (fun x => { x with failed := some c }) } k := by
    refine ⟨hk, fun e he hek => ?_⟩
    obtain ⟨d, -, rfl⟩ := List.mem_map.1 he
    split at hek <;> simp_all
  refine (serveMisses_over hover _ _).trans ?_
  dsimp only
  rw [Assoc.find_modify, hw]
  rfl

/-! Host translations (17 R457). -/

theorem atsOf_about {s : State} {fn page : Nat} {e : AtsEntry} (h : s.atsOf fn page = some e) : e.about fn page = true :=
  (Bool.and_eq_true_iff.1 (List.find?_some (p := fun e : AtsEntry => e.about fn page && _) h)).1

/-- An entry that holds a piece and has not failed is found for it, once it has been set. -/
theorem setAts_atsOf (s : State) {fn page : Nat} {e : AtsEntry} (habout : e.about fn page = true) (hst : ∀ c, e.st ≠ .failed c) :
    (s.setAts fn page e).atsOf fn page = some e := by
  unfold State.atsOf State.setAts
  rw [List.find?_append, List.find?_eq_none.2, Option.none_or, List.find?_singleton, if_pos]
  · cases h : e.st <;> simp_all
  · exact fun x hx => by simpa only [Bool.not_eq_true', Bool.not_eq_true] using (List.mem_filter.1 hx).2

theorem turnAts_new (s : State) (e : AtsEntry) (st : AtsState) : { e with st := st } ∈ (s.turnAts e st).ats :=
  List.mem_append_right _ (List.mem_singleton_self _)

/-- A Page Request that is sent concerns no piece that does not wait for one. -/
theorem sendPage_keeps {s : State} {e : AtsEntry} (fn : Nat) (he : e ∈ s.ats) (hst : e.st ≠ .toPage) : e ∈ (s.sendPage fn).ats := by
  unfold State.sendPage
  split
  case h_1 x hfind _ =>
    have hx := List.find?_some hfind
    refine List.mem_append_left _ (List.mem_filter.2 ⟨he, bne_iff_ne.2 ?_⟩)
    rintro rfl
    exact hst (by simpa using (Bool.and_eq_true_iff.1 hx).2)
  case h_2 => exact he

theorem sendPage_fns (s : State) (fn : Nat) : (s.sendPage fn).fns = s.fns := by
  unfold State.sendPage
  split <;> rfl

/-- A grant of a request: the entry covers as many pieces as the host says, up to the leaf's. -/
def AtsEntry.grant (e : AtsEntry) (page frame size : Nat) (rd wr : Bool) : AtsEntry :=
  let n := max 1 (min size e.limit)
  ⟨e.fn, page / n * n, n, e.limit, .granted (frame / n * n) rd wr, []⟩

theorem grant_about {e : AtsEntry} {fn page : Nat} (h : e.about fn page = true) (frame size : Nat) (rd wr : Bool) :
    (e.grant page frame size rd wr).about fn page = true := by
  obtain ⟨⟨hfn, -⟩, -⟩ : (e.fn = fn ∧ e.page ≤ page) ∧ page < e.page + e.pages := by simpa [AtsEntry.about] using h
  have hdiv := Nat.div_add_mod' page (max 1 (min size e.limit))
  have hmod := Nat.mod_lt page (show 0 < max 1 (min size e.limit) by omega)
  simp only [AtsEntry.about, AtsEntry.grant, hfn, beq_self_eq_true, Bool.true_and, Bool.and_eq_true, decide_eq_true_eq]
  omega

section
variable {s : State} {fn page : Nat} {e : AtsEntry} (h : s.atsOf fn page = some e)
include h

theorem exec_atsCompletion_grant (hst : e.st = .requested) (frame size : Nat) (rd wr : Bool) :
    exec (.atsCompletion fn page (.grant frame size rd wr)) s = .next (s.setAts fn page (e.grant page frame size rd wr)).wake := by
  show execAtsCompletion fn page (.grant frame size rd wr) s = _
  rw [execAtsCompletion, h]
  exact congrArg Host.Outcome.next (if_pos hst)

theorem exec_atsCompletion_deny (hst : e.st = .requested) :
    exec (.atsCompletion fn page .deny) s = .next (s.turnAts e (s.needsPri fn)).wake := by
  show execAtsCompletion fn page .deny s = _
  rw [execAtsCompletion, h]
  exact congrArg Host.Outcome.next (if_pos hst)

theorem exec_priResponse_success (hst : e.st = .paging) :
    exec (.priResponse fn page .success) s = .next ((s.turnAts e .requested).sendPage fn).wake := by
  show execPriResponse fn page .success s = _
  rw [execPriResponse, h]
  exact congrArg Host.Outcome.next (if_pos hst)

theorem exec_priResponse_invalid (hst : e.st = .paging) :
    exec (.priResponse fn page .invalidRequest) s = .next ((s.turnAts e (.failed .translation)).sendPage fn).wake := by
  show execPriResponse fn page .invalidRequest s = _
  rw [execPriResponse, h]
  exact congrArg Host.Outcome.next (if_pos hst)

theorem exec_priResponse_failure (hst : e.st = .paging) :
    exec (.priResponse fn page .responseFailure) s =
      .next (((s.turnAts e (.failed .permission)).modFn fn (fun x => { x with priFailed := true })).sendPage fn).wake := by
  show execPriResponse fn page .responseFailure s = _
  rw [execPriResponse, h]
  exact congrArg Host.Outcome.next (if_pos hst)

end

/-! Invalidations (17 R455, R458). -/

/-- The entries of a function that an ATS invalidation of some pieces drops. -/
def AtsEntry.dropped (fn page pages : Nat) (e : AtsEntry) : Bool :=
  e.fn == fn && decide (e.page < page + pages) && decide (page < e.page + e.pages) &&
    (match e.st with | .granted _ _ _ => true | _ => false)

theorem dropped_of_granted {fn page pages frame : Nat} {rd wr : Bool} {e : AtsEntry} (hfn : e.fn = fn) (hlo : e.page < page + pages)
    (hhi : page < e.page + e.pages) (hst : e.st = .granted frame rd wr) : e.dropped fn page pages = true := by
  simp [AtsEntry.dropped, hfn, hlo, hhi, hst]

/-- The frame and size of a grant that an ATS invalidation drops. -/
def AtsEntry.freedFrame (fn page pages : Nat) (e : AtsEntry) : Option (Nat × Nat) :=
  match e.st with
  | .granted f _ _ => if e.dropped fn page pages then some (f, e.pages) else none
  | _ => none

theorem exec_atsInvalidate {s : State} (fn page pages : Nat) (h : s.atsInvals.length < 32) :
    exec (.atsInvalidate fn page pages) s =
      .next { s with ats := s.ats.filter (fun e => !e.dropped fn page pages),
                     atsInvals := s.atsInvals ++ [⟨fn, s.ats.filterMap (AtsEntry.freedFrame fn page pages)⟩] } := by
  show execAtsInvalidate fn page pages s = _
  rw [execAtsInvalidate, if_neg (by omega)]
  rfl

theorem tlbEntry_overlaps_other {x : TlbEntry} {fn : Nat} (h : x.fn ≠ fn) (first pages : Nat) : x.overlaps fn first pages = false := by
  simp [TlbEntry.overlaps, h]

/-- Settles O44: walks through the frames of the TLBs, the walk caches and the walkers; translations and invalidations by what each
event makes of the entries. -/
theorem translationEvents : Obligations.TranslationEvents := by
  unfold Obligations.TranslationEvents
  refine ⟨fun s k w hw hk hf hroot => ⟨fun level e entry hleaf => ?leaf, fun poison hbad => ?bad⟩,
    fun s fn page e he hst => ⟨fun frame size rd wr => ?grant, ?deny⟩, fun s fn page e he hst => ?pri,
    fun s fn page pages => ⟨fun hroom => ?atsInvalidate, fun hfull => ?atsFull⟩, fun s fn => ⟨fun hdone => ?invalidate, fun hidle => ?done⟩⟩
  case leaf =>
    obtain ⟨hmem, htlb⟩ := walkFound_frame s k w level e entry
    refine ⟨_, exec_walkComplete_leaf hw hf hroot hleaf, walkFound_walks hk .., htlb ▸ fillTlbs_last .., fun hl => ?_, ?_⟩
    · rw [hmem, setAccessed_other s e entry hl]
    · rintro rfl ha hb hwf
      obtain ⟨hread, hout⟩ := writeN_written hwf entry (bytesOfNat_length 8 (e.toNat + 2 ^ 6))
      rw [hmem, setAccessed_mem ha hb, hread]
      exact ⟨natOfBytes_bytesOfNat .., hout⟩
  case bad =>
    refine ⟨_, exec_walkComplete_bad hw hf hroot hbad, ?_, ?_⟩ <;> split <;> simp [failWalk_walks hw hk]
  case grant =>
    obtain rfl : e.fn = fn := by
      have habout := atsOf_about he
      simp only [AtsEntry.about, Bool.and_eq_true, beq_iff_eq] at habout
      exact habout.1.1
    exact ⟨_, exec_atsCompletion_grant he hst .., setAts_atsOf s (grant_about (atsOf_about he) ..) (by simp [AtsEntry.grant])⟩
  case deny => exact ⟨_, exec_atsCompletion_deny he hst, turnAts_new ..⟩
  case pri =>
    refine ⟨⟨_, exec_priResponse_success he hst, sendPage_keeps fn (turnAts_new ..) (by simp)⟩,
      ⟨_, exec_priResponse_invalid he hst, sendPage_keeps fn (turnAts_new ..) (by simp)⟩,
      ⟨_, exec_priResponse_failure he hst, sendPage_keeps fn ?_ (by simp), ?_⟩⟩
    · exact turnAts_new ..
    · rw [State.fn, wake_fns, sendPage_fns]
      exact congrArg Fn.priFailed (modFn_fn ..)
  case atsInvalidate =>
    refine ⟨_, _, exec_atsInvalidate fn page pages hroom, rfl, ?_, ?_⟩
    · rintro e he ⟨hfn, hlo, hhi⟩ frame rd wr hst
      have hkept := (List.mem_filter.1 he).2
      rw [dropped_of_granted hfn hlo hhi hst] at hkept
      exact absurd hkept (by decide)
    · rintro e he ⟨hfn, hlo, hhi⟩ frame rd wr hst
      refine List.mem_filterMap.2 ⟨e, he, ?_⟩
      simp only [AtsEntry.freedFrame, hst, dropped_of_granted hfn hlo hhi hst, if_true]
  case atsFull =>
    show execAtsInvalidate fn page pages s = _
    rw [execAtsInvalidate, if_pos hfull]
  case invalidate =>
    refine ⟨s.startInvalidation fn, rfl, ?_, ?_, ?_, fun x hx hfn => ?_⟩ <;> simp only [State.startInvalidation, hdone, if_true]
    · simp only [State.fn, State.modFn, Assoc.getD, Assoc.find_set, Option.getD_some]
    · exact fun x hx => by simpa using (List.mem_filter.1 hx).2
    · exact fun x hx => by simpa using (List.mem_filter.1 hx).2
    · exact List.mem_filter.2 ⟨hx, by rw [tlbEntry_overlaps_other hfn]; rfl⟩
  case done =>
    refine ⟨_, rfl, ?_⟩
    rw [hidle, Bool.false_or]
    split
    · assumption
    · exact congrArg Fn.invdone (modFn_fn ..)

end Sys2Proof.Machine

/-! What stays while writes land, runs stop, groups halt and finish, and faults are answered (03 R88; 07 R176; 16 R418, R422;
17 R439 to R443). -/

namespace Sys2Proof.Machine

open Sys2Proof

/-- What no landing, no end of a run and no end of a group changes of it. -/
def Group.lasting (g : Group) : Option PendingTrap × TrapRegs × Nat × Nat × Nat × Bool :=
  (g.pendingTrap, g.regs, g.deadlock, g.wdog, g.launch, g.killed)

/-- What no end of a group changes of its launch. -/
def Launch.lasting (l : Launch) : Nat × Bool × Bool := (l.part, l.complete, l.killed)

/-- No run has begun, and the slot is the same. -/
structure Stops (s t : State) : Prop where
  cur : t.cur = s.cur
  runs : ∀ k, s.runs.find k = none → t.runs.find k = none

/-- No run has begun, and groups and launches have kept what lasts. -/
structure Calm (s t : State) : Prop extends Stops s t where
  groups : ∀ k, (t.groups.find k).map Group.lasting = (s.groups.find k).map Group.lasting
  launches : ∀ k, (t.launches.find k).map Launch.lasting = (s.launches.find k).map Launch.lasting

namespace Stops
variable {s t u : State}

theorem refl (s : State) : Stops s s := ⟨rfl, fun _ h => h⟩

theorem trans (h : Stops s t) (k : Stops t u) : Stops s u := ⟨k.cur.trans h.cur, fun i hi => k.runs i (h.runs i hi)⟩

theorem of_eq (hc : t.cur = s.cur) (hr : t.runs = s.runs) : Stops s t := ⟨hc, fun _ h => hr ▸ h⟩

end Stops

namespace Calm
variable {s t u : State}

theorem of_stops (h : Stops s t) (hg : t.groups = s.groups) (hl : t.launches = s.launches) : Calm s t :=
  ⟨h, fun _ => hg ▸ rfl, fun _ => hl ▸ rfl⟩

theorem of_eq (hc : t.cur = s.cur) (hr : t.runs = s.runs) (hg : t.groups = s.groups) (hl : t.launches = s.launches) : Calm s t :=
  of_stops (.of_eq hc hr) hg hl

theorem refl (s : State) : Calm s s := of_eq rfl rfl rfl rfl

theorem trans (h : Calm s t) (k : Calm t u) : Calm s u :=
  ⟨h.toStops.trans k.toStops, fun i => (k.groups i).trans (h.groups i), fun i => (k.launches i).trans (h.launches i)⟩

theorem foldl {α : Type} {f : State → α → State} (h : ∀ x a, Calm x (f x a)) (l : List α) (s : State) : Calm s (l.foldl f s) :=
  List.foldlRecOn (motive := fun t => Calm s t) _ _ (.refl s) (fun _ ht a _ => ht.trans (h _ a))

theorem modGroup (s : State) (gid : Nat) {f : Group → Group} (hf : ∀ g, (f g).lasting = g.lasting) : Calm s (s.modGroup gid f) := by
  refine ⟨.of_eq rfl rfl, fun k => ?_, fun _ => rfl⟩
  by_cases hk : k = gid
  · subst hk
    rw [modGroup_find, Option.map_map]
    exact congrArg (Option.map · _) (funext hf)
  · rw [modGroup_find_ne _ _ hk]

theorem modLaunch (s : State) (l : Nat) {f : Launch → Launch} (hf : ∀ x, (f x).lasting = x.lasting) : Calm s (s.modLaunch l f) := by
  refine ⟨.of_eq rfl rfl, fun _ => rfl, fun k => ?_⟩
  by_cases hk : k = l
  · subst hk
    rw [modLaunch_find, Option.map_map]
    exact congrArg (Option.map · _) (funext hf)
  · rw [modLaunch_find_ne _ _ hk]

/-- A group that is still found has kept what lasts. -/
theorem find (h : Calm s t) {k : Nat} {g : Group} (hg : s.groups.find k = some g) :
    ∃ x, t.groups.find k = some x ∧ x.lasting = g.lasting := by
  have hk := h.groups k
  rw [hg] at hk
  exact Option.map_eq_some_iff.1 hk

end Calm

theorem modStream_lasting (g : Group) (st : Stream) (f : StreamState → StreamState) : (g.modStream st f).lasting = g.lasting := by
  cases st <;> rfl

theorem setPc_lasting (g : Group) (st : Stream) (m : Word) (pc : Dword) (k : PcKind) : (g.setPc st m pc k).lasting = g.lasting :=
  modStream_lasting ..

theorem modLanes_lasting (g : Group) (st : Stream) (m : Word) (f : LaneCtl → LaneCtl) : (g.modLanes st m f).lasting = g.lasting :=
  modStream_lasting ..

/-! Landing (03 R88, R89). -/

theorem Stops.dropRun (s : State) (slot : Nat) : Stops s { s with runs := s.runs.drop slot } := by
  refine ⟨rfl, fun k hk => ?_⟩
  by_cases h : k = slot
  · subst h
    exact Assoc.find_drop ..
  · exact (Assoc.find_drop_ne _ h).trans hk

theorem Stops.modRun (s : State) (slot : Nat) (f : Run → Run) : Stops s (s.modRun slot f) := by
  refine ⟨rfl, fun k hk => ?_⟩
  by_cases h : k = slot
  · subst h
    rw [modRun_find, hk]
    rfl
  · rw [modRun_find_ne _ _ h, hk]

/-- A map with the same keys has no more of them. -/
theorem find_map_none {α : Type} {m : Assoc α} (f : Nat × α → α) {k : Nat} (h : m.find k = none) :
    Assoc.find (m.map (fun e => (e.1, f e))) k = none := by
  induction m with
  | nil => rfl
  | cons e m ih =>
    simp only [Assoc.find, List.map_cons] at h ⊢
    split at h
    · cases h
    · rw [if_neg ‹_›]
      exact ih h

namespace Calm

theorem unpin (s : State) (gid : Nat) (ws : List RegWrite) : Calm s (s.unpin gid ws) := by
  unfold State.unpin
  split
  · exact refl s
  · refine of_stops ⟨rfl, fun k hk => ?_⟩ rfl rfl
    exact find_map_none _ hk

theorem land (s : State) (cyc gid : Nat) (w : RegWrite) : Calm s (s.land cyc gid w) := by
  have hgroup : (∀ n x, w ≠ .mReg n x) → s.land cyc gid w = (s.repair gid w.repairs).modGroup gid w.onGroup := by
    intro hw
    cases w with
    | mReg n x => exact absurd rfl (hw n x)
    | _ => rfl
  cases w with
  | mReg n x =>
    simp only [State.land]
    split <;> exact of_eq rfl rfl rfl rfl
  | _ =>
    rw [hgroup (by simp)]
    refine trans (t := s.repair gid _) (of_eq rfl rfl rfl rfl) (modGroup _ gid fun g => ?_)
    obtain ⟨_, _, _, _, _, _, hframe⟩ := onGroup_frame g _
    rw [hframe]
    rfl

theorem landAllWrites (s : State) (cyc gid : Nat) (ws : List RegWrite) : Calm s (s.landAllWrites cyc gid ws) := by
  refine ((unpin s gid ws).trans (foldl (fun x w => land x cyc gid w) ws _)).trans (modGroup _ gid fun g => ?_)
  obtain ⟨_, h⟩ := noteLanded_frame g cyc ws
  rw [h]
  rfl

theorem landLate (s : State) (gid : Nat) (st : Stream) (now : Nat) : Calm s (s.landLate gid st now) := by
  unfold State.landLate
  split
  · exact refl s
  · exact (modGroup s gid fun _ => modStream_lasting ..).trans (foldl (fun x (l : Landing) => landAllWrites x l.due gid l.writes) _ _)

theorem landAll (s : State) (gid : Nat) (st : Stream) : Calm s (s.landAll gid st) := by
  unfold State.landAll
  split
  · exact refl s
  · exact landLate ..

theorem landAlls (s : State) (gid : Nat) : Calm s ((s.landAll gid .addr).landAll gid .comp) := (landAll ..).trans (landAll ..)

/-! Runs that end (07 R198). -/

theorem leaveRun (s : State) (r : Run) (m : Nat × Word) : Calm s (s.leaveRun r m) := by
  unfold State.leaveRun
  split
  · exact refl s
  · exact (modGroup s m.1 fun g => (modStream_lasting ..).trans (setPc_lasting ..)).trans (landLate ..)

theorem endRun (s : State) (slot : Nat) : Calm s (s.endRun slot) := by
  unfold State.endRun
  split
  · exact refl s
  · exact (of_stops (Stops.dropRun s slot) rfl rfl).trans (foldl (fun x m => leaveRun x _ m) _ _)

theorem stopStream (s : State) (gid : Nat) (st : Stream) : Calm s (s.stopStream gid st) := by
  unfold State.stopStream
  split
  · exact refl s
  split
  · exact endRun ..
  · exact (of_stops (Stops.modRun ..) rfl rfl).trans (leaveRun ..)

/-! Groups that halt and finish (16 R418, R422; 07 R176). -/

theorem haltIfQuiet (s : State) (gid : Nat) : Calm s (s.haltIfQuiet gid) := by
  unfold State.haltIfQuiet
  split
  · exact refl s
  split
  · exact (landAlls s gid).trans (modGroup _ gid fun _ => rfl)
  · exact refl s

theorem finishGang (s : State) (gk : Nat) : Calm s (s.finishGang gk) := by
  unfold State.finishGang
  split
  · exact refl s
  next c _ =>
  dsimp only
  split
  · exact refl s
  split
  · have hcounts : Calm s ((s.modGang gk (fun c => { c with status := .finished, pending := false })).modLaunch c.launch
        (fun l => { l with finished := l.finished + 1 })) := by
      refine trans (of_eq ?_ ?_ ?_ ?_) (modLaunch _ c.launch ?_)
      case refine_5 => exact fun _ => rfl
      all_goals rfl
    refine (hcounts.trans ?_).trans (foldl (fun x t => ?_) _ _)
    · split <;> exact of_eq rfl rfl rfl rfl
    · split <;> exact of_eq rfl rfl rfl rfl
  · exact refl s

theorem finishGroup (s : State) (gid : Nat) : Calm s (s.finishGroup gid) := by
  unfold State.finishGroup
  split
  · exact refl s
  · have hdone : Calm s (((s.landAll gid .addr).landAll gid .comp).modGroup gid (fun g => { g with status := .finished, q := [] })) :=
      (landAlls s gid).trans (modGroup _ gid fun _ => rfl)
    dsimp only
    refine hdone.trans (trans ?_ (finishGang ..))
    exact of_eq rfl rfl rfl rfl

theorem reap (s : State) (gid : Nat) : Calm s (s.reap gid) := by
  unfold State.reap
  split
  · exact refl s
  split_ifs
  · exact refl s
  · exact finishGroup ..
  · exact refl s

theorem reapKilled (s : State) : Calm s s.reapKilled := foldl reap _ _

end Calm

/-! Faults that are raised and answered (17 R439, R441). -/

theorem Stops.modGroup (s : State) (gid : Nat) (f : Group → Group) : Stops s (s.modGroup gid f) := .of_eq rfl rfl

/-- The state of `raise` before the fault is recorded: the streams have stopped and their writes have landed. -/
def State.stopped (s : State) (gid : Nat) : State :=
  (((s.stopStream gid .addr).stopStream gid .comp).landAll gid .addr).landAll gid .comp

theorem Calm.stopped (s : State) (gid : Nat) : Calm s (s.stopped gid) :=
  ((stopStream ..).trans (stopStream ..)).trans (landAlls ..)

/-- The fault that a group records, unless it has one recorded. -/
def Group.record (g : Group) (c : Cause) (regs : TrapRegs) : Group :=
  match g.pendingTrap with
  | some _ => g
  | none => { g with pendingTrap := some ⟨c, regs⟩ }

theorem raise_eq (s : State) (gid : Nat) (c : Cause) (regs : TrapRegs) :
    s.raise gid c regs = (s.stopped gid).modGroup gid (fun g => g.record c regs) := rfl

/-- A group with no fault recorded has the fault that is raised, and keeps its clocks and its launch. -/
theorem raise_find {s : State} {gid : Nat} {g : Group} (hg : s.groups.find gid = some g) (hp : g.pendingTrap = none) (c : Cause)
    (regs : TrapRegs) :
    ∃ h, (s.raise gid c regs).groups.find gid = some h ∧
      h.lasting = (some ⟨c, regs⟩, g.regs, g.deadlock, g.wdog, g.launch, g.killed) := by
  obtain ⟨x, hx, hlast⟩ := (Calm.stopped s gid).find hg
  simp only [Group.lasting, hp, Prod.mk.injEq] at hlast
  obtain ⟨hnone, hregs, hdead, hwdog, hlaunch, hkilled⟩ := hlast
  refine ⟨x.record c regs, by rw [raise_eq, modGroup_find, hx]; rfl, ?_⟩
  simp only [Group.record, hnone, Group.lasting, hregs, hdead, hwdog, hlaunch, hkilled]

namespace Stops

theorem raise (s : State) (gid : Nat) (c : Cause) (regs : TrapRegs) : Stops s (s.raise gid c regs) :=
  (Calm.stopped s gid).toStops.trans (modGroup ..)

theorem raiseAt (s : State) (gid : Nat) (st : Stream) (m : Word) (pc : Dword) (k : PcKind) (f : FaultInfo) :
    Stops s (s.raiseAt gid st m pc k f) := by
  unfold State.raiseAt
  split
  · exact refl s
  · exact (raise ..).trans (modGroup ..)

theorem postRecord (s : State) (f : Nat) (r : FaultRec) : Stops s (s.postRecord f r) := by
  unfold State.postRecord
  split
  · exact of_eq rfl rfl
  split <;> exact of_eq rfl rfl

theorem escalate (s : State) (gid : Nat) (p : PendingTrap) : Stops s (s.escalate gid p) := by
  unfold State.escalate
  split
  · exact refl s
  · exact (modGroup ..).trans (postRecord ..)

theorem settle (s : State) (gid : Nat) : Stops s (s.settle gid) := by
  unfold State.settle
  split
  · exact refl s
  split
  · exact refl s
  split_ifs
  · exact refl s
  · exact modGroup ..
  · exact escalate ..
  · exact modGroup ..

theorem afterWork (s : State) (gid : Nat) : Stops s (s.afterWork gid) :=
  (settle s gid).trans (((Calm.haltIfQuiet ..).trans (Calm.reap ..)).trans (Calm.reapKilled ..)).toStops

end Stops

/-! Launches and groups that are killed stay killed (17 R443). -/

/-- No group has begun or changed its launch, no launch has ended or changed its partition, and what was killed still is. -/
structure Doomed (s t : State) : Prop where
  groups : ∀ k h, t.groups.find k = some h → ∃ g, s.groups.find k = some g ∧ h.launch = g.launch ∧ (g.killed = true → h.killed = true)
  launches : ∀ k l, s.launches.find k = some l →
    ∃ m, t.launches.find k = some m ∧ m.part = l.part ∧ m.complete = l.complete ∧ (l.killed = true → m.killed = true)

namespace Doomed
variable {s t u : State}

theorem trans (h : Doomed s t) (k : Doomed t u) : Doomed s u := by
  refine ⟨fun i x hx => ?_, fun i l hl => ?_⟩
  · obtain ⟨y, hy, hlaunch, hkilled⟩ := k.groups i x hx
    obtain ⟨z, hz, hlaunch', hkilled'⟩ := h.groups i y hy
    exact ⟨z, hz, hlaunch.trans hlaunch', hkilled ∘ hkilled'⟩
  · obtain ⟨m, hm, hpart, hcomplete, hkilled⟩ := h.launches i l hl
    obtain ⟨n, hn, hpart', hcomplete', hkilled'⟩ := k.launches i m hm
    exact ⟨n, hn, hpart'.trans hpart, hcomplete'.trans hcomplete, hkilled' ∘ hkilled⟩

end Doomed

theorem Calm.doomed {s t : State} (h : Calm s t) : Doomed s t := by
  refine ⟨fun k x hx => ?_, fun k l hl => ?_⟩
  · have hk := h.groups k
    rw [hx] at hk
    obtain ⟨g, hg, hlast⟩ := Option.map_eq_some_iff.1 hk.symm
    simp only [Group.lasting, Prod.mk.injEq] at hlast
    obtain ⟨-, -, -, -, hlaunch, hkilled⟩ := hlast
    exact ⟨g, hg, hlaunch.symm, hkilled ▸ id⟩
  · have hk := h.launches k
    rw [hl] at hk
    obtain ⟨m, hm, hlast⟩ := Option.map_eq_some_iff.1 hk
    simp only [Launch.lasting, Prod.mk.injEq] at hlast
    obtain ⟨hpart, hcomplete, hkilled⟩ := hlast
    exact ⟨m, hm, hpart, hcomplete, hkilled ▸ id⟩

namespace Doomed

theorem refl (s : State) : Doomed s s := (Calm.refl s).doomed

theorem of_eq {s t : State} (hg : t.groups = s.groups) (hl : t.launches = s.launches) : Doomed s t :=
  ⟨fun _ h hh => ⟨h, hg ▸ hh, rfl, id⟩, fun _ l hll => ⟨l, hl ▸ hll, rfl, rfl, id⟩⟩

theorem foldl {α : Type} {f : State → α → State} (h : ∀ x a, Doomed x (f x a)) (l : List α) (s : State) : Doomed s (l.foldl f s) :=
  List.foldlRecOn (motive := fun t => Doomed s t) _ _ (.refl s) (fun _ ht a _ => ht.trans (h _ a))

theorem modGroup (s : State) (gid : Nat) {f : Group → Group} (hf : ∀ g, (f g).launch = g.launch ∧ (f g).killed = g.killed) :
    Doomed s (s.modGroup gid f) := by
  refine ⟨fun k x hx => ?_, fun _ l hl => ⟨l, hl, rfl, rfl, id⟩⟩
  by_cases hk : k = gid
  · subst hk
    obtain ⟨g, hg, rfl⟩ := Option.map_eq_some_iff.1 ((modGroup_find s k f).symm.trans hx)
    exact ⟨g, hg, (hf g).1, (hf g).2 ▸ id⟩
  · exact ⟨x, (modGroup_find_ne s f hk).symm.trans hx, rfl, id⟩

theorem killLaunch (s : State) (l : Nat) : Doomed s (s.killLaunch l) := by
  obtain ⟨ls, gs, h, hls, hgs⟩ := killLaunch_frame s l
  rw [h]
  refine ⟨fun k x hx => ?_, fun k m hm => ?_⟩
  · obtain ⟨p, hp⟩ := hgs.find k
    obtain ⟨g, hg, rfl⟩ := Option.map_eq_some_iff.1 (hp.symm.trans hx)
    exact ⟨g, hg, by split <;> rfl, fun hk => by split; exacts [rfl, hk]⟩
  · rcases hls k with he | he
    · exact ⟨m, he.trans hm, rfl, rfl, id⟩
    · exact ⟨m.stopped, he.trans (congrArg _ hm), rfl, rfl, fun _ => rfl⟩

theorem postRecord (s : State) (f : Nat) (r : FaultRec) : Doomed s (s.postRecord f r) := by
  unfold State.postRecord
  split
  · exact of_eq rfl rfl
  split
  · exact killLaunch ..
  · exact of_eq rfl rfl

theorem escalate (s : State) (gid : Nat) (p : PendingTrap) : Doomed s (s.escalate gid p) := by
  unfold State.escalate
  split
  · exact refl s
  · refine trans (modGroup s gid ?_) (postRecord ..)
    exact fun _ => ⟨rfl, rfl⟩

theorem settle (s : State) (gid : Nat) : Doomed s (s.settle gid) := by
  unfold State.settle
  split
  · exact refl s
  split
  · exact refl s
  split_ifs
  · exact refl s
  · exact modGroup s gid fun _ => ⟨rfl, rfl⟩
  · exact escalate ..
  · exact modGroup s gid fun _ => ⟨rfl, rfl⟩

theorem afterWork (s : State) (gid : Nat) : Doomed s (s.afterWork gid) :=
  (settle s gid).trans (((Calm.haltIfQuiet ..).trans (Calm.reap ..)).trans (Calm.reapKilled ..)).doomed

end Doomed

/-- Every group of a launch that is killed is. -/
theorem killLaunch_killed (s : State) (l : Nat) {k : Nat} {h : Group} (hh : (s.killLaunch l).groups.find k = some h)
    (hl : h.launch = l) : h.killed = true := by
  obtain ⟨g, -, rfl⟩ := Option.map_eq_some_iff.1
    ((Assoc.find_map s.groups k (fun _ g => if g.launch = l then { g with killed := true } else g)).symm.trans hh)
  split at hl
  · rw [if_pos ‹_›]
  · contradiction

end Sys2Proof.Machine

/-! TRAP, HALT and RTT (17 R446 to R448). -/

namespace Sys2Proof.Machine

open Sys2Proof

/-- The context of a member is that of its group. -/
theorem ctx_of_member {s : State} {r : Run} {cs : List Ctx} {u : Uses} {lat : Ctx → Option Nat} (h : Going s r cs u lat)
    {m : Nat × Word} {g : Group} (hm : m ∈ r.members) (hg : s.groups.find m.1 = some g) : ∃ c ∈ cs, c.g = g := by
  have hctx : ∃ c, s.ctx r m = some c ∧ c.g = g := by
    rw [State.ctx, hg]
    exact ⟨_, rfl, rfl⟩
  obtain ⟨c, hc, hcg⟩ := hctx
  exact ⟨c, h.groups ▸ List.mem_filterMap.2 ⟨m, hm, hc⟩, hcg⟩

/-- An instruction that every member of the bundle may execute is issued. -/
theorem issueIn_all {s : State} {r : Run} {cs : List Ctx} {u : Uses} {lat : Ctx → Option Nat} (h : Going s r cs u lat)
    {ok : Group → Bool} (hok : ∀ c ∈ cs, ok c.g = true) (go : State → State) : s.issueIn ok go = go s := by
  unfold State.issueIn
  refine if_pos ?_
  rw [h.run]
  refine List.all_eq_true.2 (fun m hm => ?_)
  cases hg : s.groups.find m.1 with
  | none => rfl
  | some g =>
    obtain ⟨c, hc, rfl⟩ := ctx_of_member h hm hg
    exact hok c hc

theorem slotOf_seenFaults (s : State) (fn : Nat) (w : Waiter) (gid : Nat) (st : Stream) :
    (s.seenFaults fn w).slotOf gid st = s.slotOf gid st := rfl

/-- The slot whose run is the only one of a group is free once the group's streams have stopped. -/
theorem stopped_frees {s : State} {gid slot : Nat} {r : Run} (hslot : s.slotOf gid r.stream = some (slot, r))
    (hother : s.slotOf gid r.stream.other = none) (halone : r.members.length ≤ 1) : (s.stopped gid).runs.find slot = none := by
  have hend (st : Stream) (hst : st = r.stream) : (s.stopStream gid st).runs.find slot = none := by
    rw [hst, State.stopStream, hslot]
    dsimp only
    rw [if_pos halone]
    unfold State.endRun
    split
    · assumption
    · next q _ =>
      exact (Calm.foldl (fun x m => Calm.leaveRun x q m) q.members { s with runs := s.runs.drop slot }).runs slot (Assoc.find_drop ..)
  have hkept (st : Stream) (hst : s.slotOf gid st = none) : s.stopStream gid st = s := by rw [State.stopStream, hst]
  refine (Calm.landAlls ..).runs slot ?_
  cases hst : r.stream with
  | addr => exact (Calm.stopStream ..).runs slot (hend .addr hst.symm)
  | comp =>
    rw [hst] at hother
    rw [hkept .addr hother]
    exact hend .comp hst.symm

/-- A run of one group that faults is over. -/
theorem takeFault_frees {s : State} {r : Run} {c : Ctx} {f : FaultInfo} {g : Group} {slot : Nat} (hg : s.groups.find c.gid = some g)
    (hslot : s.slotOf c.gid r.stream = some (slot, r)) (hother : s.slotOf c.gid r.stream.other = none) (halone : r.members.length ≤ 1) :
    (s.takeFault r 1 c (.fault f)).runs.find slot = none := by
  refine (Stops.afterWork _ c.gid).runs slot ?_
  have hfound : (s.seenFaults c.g.fn (.slot s.cur)).groups.find c.gid = some g := hg
  rw [State.raiseAt, hfound]
  exact stopped_frees (s := s.seenFaults c.g.fn (.slot s.cur)) hslot hother halone

theorem exec_rtt_outside {s : State} {r : Run} {gid : Nat} {m : Word} {g : Group} (hr : s.runs.find s.cur = some r)
    (hm : r.members = [(gid, m)]) (hg : s.groups.find gid = some g) (htrap : g.trapMode = false)
    (hslot : s.slotOf gid r.stream = some (s.cur, r)) (hother : s.slotOf gid r.stream.other = none) :
    exec .rtt s = .next (s.afterFaults r (r.members.filterMap (s.ctx r)) 1 (fun _ => .fault (FaultInfo.plain .illegalOpcode))) := by
  show Host.Outcome.next (s.issueIn (fun g => g.trapMode) _) = _
  obtain ⟨c, hc, hgid, hcg⟩ : ∃ c, s.ctx r (gid, m) = some c ∧ c.gid = gid ∧ c.g = g := by
    rw [State.ctx, hg]
    exact ⟨_, rfl, rfl, rfl⟩
  have hctx : r.members.filterMap (s.ctx r) = [c] := by rw [hm, List.filterMap_cons_some hc, List.filterMap_nil]
  have hfault : s.faultMembers (fun g => !g.trapMode) .illegalOpcode =
      s.takeFault r 1 c (.fault (FaultInfo.plain .illegalOpcode)) := by
    simp only [State.faultMembers, hr, hctx, List.foldl_cons, List.foldl_nil, hcg, htrap, Bool.not_false, if_true]
  have hfree : (s.takeFault r 1 c (.fault (FaultInfo.plain .illegalOpcode))).runs.find s.cur = none :=
    takeFault_frees (hgid ▸ hg) (hgid ▸ hslot) (hgid ▸ hother) (by rw [hm]; exact Nat.le_refl 1)
  have hcur : (s.takeFault r 1 c (.fault (FaultInfo.plain .illegalOpcode))).cur = s.cur :=
    (Stops.afterWork _ c.gid).cur.trans (Stops.raiseAt (s.seenFaults c.g.fn (.slot s.cur)) ..).cur
  have hout : (r.members.all fun m => ((s.groups.find m.1).map (fun g => g.trapMode)).getD true) = false := by
    simp [hm, hg, htrap]
  simp only [State.issueIn, hr, Option.map_some, Option.getD_some, hout, Bool.false_eq_true, if_false, hfault, hcur, hfree,
    Option.isSome_none, State.afterFaults, hctx, List.foldl_cons, List.foldl_nil]

/-- Settles O28: TRAP and HALT fault in every group, RTT transfers in trap mode, and outside it the bundle's only group faults, which
ends the run. -/
theorem trapHaltReturn : Obligations.TrapHaltReturn := by
  unfold Obligations.TrapHaltReturn
  refine ⟨fun a ra s r cs hgo hact => ?trap, fun s r cs hgo hact => ?halt, fun s r cs hgo htrap => ?inTrap,
    fun s r gid m g hr hm hg htrap hslot hother => exec_rtt_outside hr hm hg htrap hslot hother⟩
  case trap =>
    refine congrArg Host.Outcome.next (issue_fault hgo.run hgo.groups (fun c hc => ?_) (fun _ _ => rfl))
    refine (hgo.judge hc).trans ?_
    rw [if_neg (hact c hc)]
    exact if_neg (Bool.eq_false_iff.1 (hgo.clean c hc))
  case halt =>
    refine congrArg Host.Outcome.next (issue_fault hgo.run hgo.groups (fun c hc => ?_) (fun _ _ => rfl))
    rw [hgo.judge hc, if_neg (hact c hc)]
  case inTrap =>
    show Host.Outcome.next (s.issueIn (fun g => g.trapMode) _) = _
    rw [issueIn_all hgo htrap]
    refine congrArg (fun t => Host.Outcome.next (State.returnTraps t s)) (issue_jump hgo (fun c _ => ?_))
    by_cases h0 : c.act = 0
    · simp only [h0, if_true]
    · simp only [h0, if_false]

end Sys2Proof.Machine

/-! Trap entry and return, and what a fault records (17 R436, R439, R441, R447). -/

namespace Sys2Proof.Machine

open Sys2Proof

/-! Entry. -/

theorem enterTrap_lane (g : Group) (p : PendingTrap) (i : Fin 32) :
    (g.enterTrap p).sc.lanes[i] =
      if g.sc.lanes[i].exited = true then { g.sc.lanes[i] with faulting := false }
      else { g.sc.lanes[i] with pc := g.cfg.trapvec, kind := .header, park := .none, faulting := false } := by
  unfold Group.enterTrap
  refine (modLanes_lane _ .comp _ _ .comp i).trans ?_
  cases hx : g.sc.lanes[i].exited <;> simp_all [Group.stream, StreamState.liveMask]

theorem enterTrap_saved (g : Group) (p : PendingTrap) (i : Fin 32) : (g.enterTrap p).saved[i] = g.sc.lanes[i].save := by
  unfold Group.enterTrap
  exact Vector.getElem_ofFn ..

/-- A recorded fault of a quiet group with a handler is delivered. -/
theorem settle_delivers {s : State} {gid : Nat} {g : Group} {p : PendingTrap} (hg : s.groups.find gid = some g)
    (hp : g.pendingTrap = some p) (hq : s.quiet gid = true) (hvec : g.cfg.trapvec ≠ 0) (htrap : g.trapMode = false)
    (hwd : p.cause ≠ .watchdog) (hhalt : p.cause ≠ .halted) (hlive : g.sc.allExited = false) :
    (s.settle gid).groups.find gid = some (g.enterTrap p) := by
  simp only [State.settle, hg, hp, hq]
  have hstay : ¬ (g.cfg.trapvec = 0 ∨ g.trapMode = true ∨ p.cause = .watchdog ∨ p.cause = .halted ∨ g.sc.allExited = true) := by
    simp only [hvec, htrap, hwd, hhalt, hlive, Bool.false_eq_true, or_self, not_false_eq_true]
  rw [if_neg (by simp), if_neg (fun h => hvec h.2.1), if_neg hstay, modGroup_find, hg]
  rfl

/-- TRANSIT with no handler waits for the page. -/
theorem settle_transit {s : State} {gid : Nat} {g : Group} {p : PendingTrap} (hg : s.groups.find gid = some g)
    (hp : g.pendingTrap = some p) (hq : s.quiet gid = true) (hc : p.cause = .transit) (hvec : g.cfg.trapvec = 0)
    (htrap : g.trapMode = false) :
    (s.settle gid).groups.find gid = some { g with regs := p.regs, pendingTrap := none, transitWait := true } := by
  simp only [State.settle, hg, hp, hq]
  rw [if_neg (by simp), if_pos (by simp [hc, hvec, htrap]), modGroup_find, hg]
  rfl

theorem settle_escalates {s : State} {gid : Nat} {g : Group} {p : PendingTrap} (hg : s.groups.find gid = some g)
    (hp : g.pendingTrap = some p) (hq : s.quiet gid = true)
    (hstop : g.cfg.trapvec = 0 ∨ g.trapMode = true ∨ p.cause = .watchdog ∨ p.cause = .halted ∨ g.sc.allExited = true)
    (hstay : p.cause ≠ .transit ∨ g.cfg.trapvec ≠ 0 ∨ g.trapMode = true) : s.settle gid = s.escalate gid p := by
  simp only [State.settle, hg, hp, hq]
  rw [if_neg (by simp), if_neg (fun h => ?_), if_pos hstop]
  obtain ⟨hc, hvec, htrap⟩ := h
  simp [hc, hvec] at hstay
  simp [hstay] at htrap

/-- The group that a fault halts. -/
def Group.haltedBy (g : Group) (p : PendingTrap) : Group :=
  { g with firstRegs := if g.trapMode then some g.regs else none, regs := p.regs, pendingTrap := none, status := .halted,
           escalated := some noSeq }

/-- A record that is posted changes nothing of a group, but may kill its launch. -/
theorem postRecord_find (s : State) (f : Nat) (r : FaultRec) {k : Nat} {g : Group} (hg : s.groups.find k = some g) :
    ∃ b : Bool, (s.postRecord f r).groups.find k = some (if b then { g with killed := true } else g) := by
  unfold State.postRecord
  split
  · exact ⟨false, hg⟩
  split
  · next x _ =>
    obtain ⟨_, gs, h, -, hgs⟩ := killLaunch_frame s x.launch
    obtain ⟨q, hq⟩ := hgs.find k
    exact ⟨q g, by rw [h]; exact hq.trans (by rw [hg]; rfl)⟩
  · exact ⟨false, hg⟩

theorem escalate_find {s : State} {gid : Nat} {g : Group} (hg : s.groups.find gid = some g) (p : PendingTrap) :
    ∃ b : Bool, (s.escalate gid p).groups.find gid = some (if b then { g.haltedBy p with killed := true } else g.haltedBy p) := by
  simp only [State.escalate, hg]
  refine postRecord_find _ _ _ ?_
  rw [modGroup_find, hg]
  rfl

theorem postRecord_waiting {s : State} {f : Nat} {r : FaultRec} (hring : ringEnabled (s.fn f).frsize = true) (hgid : r.gid.isNone = false) :
    ((s.postRecord f r).fn f).waiting = (s.fn f).waiting ++ [r] := by
  rw [State.postRecord, if_pos (by rw [hring, hgid]; rfl), modFn_fn]

theorem escalate_waiting {s : State} {gid : Nat} {g : Group} (hg : s.groups.find gid = some g) (p : PendingTrap)
    (hring : ringEnabled (s.fn g.fn).frsize = true) :
    ∃ r : FaultRec, ((s.escalate gid p).fn g.fn).waiting = (s.fn g.fn).waiting ++ [r] ∧ r.regs = p.regs ∧ r.gid = some gid := by
  simp only [State.escalate, hg]
  refine ⟨_, postRecord_waiting hring ?_, ?_, ?_⟩
  all_goals rfl

/-! Return. -/

/-- A lane that returns: its saved place, or the word that TRAPPC names when it faulted. -/
theorem resume_enterTrap_lane (g : Group) (p : PendingTrap) (i : Fin 32) :
    (g.enterTrap p).resume.sc.lanes[i] =
      resumeLane (g.enterTrap p).sc.lanes[i] g.sc.lanes[i].save g.cfg.codec (p.regs.pc.setWidth 32) := by
  rw [← enterTrap_saved g p i]
  exact Vector.getElem_ofFn ..

theorem resumeLane_exited {l : LaneCtl} (h : l.exited = true) (back : SavedLane) (base : Dword) (off : Word) :
    resumeLane l back base off = l := if_pos h

theorem resumeLane_kept {l : LaneCtl} (h : l.exited = false) {back : SavedLane} (hf : back.faulting = false) (base : Dword) (off : Word) :
    (resumeLane l back base off).pc = back.pc ∧ (resumeLane l back base off).park = back.park ∧
      (resumeLane l back base off).exited = false := by
  simp [resumeLane, h, hf]

theorem resumeLane_moved {l : LaneCtl} (h : l.exited = false) {back : SavedLane} (hf : back.faulting = true) (base : Dword) {off : Word}
    (hoff : off ≠ noResume) :
    (resumeLane l back base off).pc = base + (off.setWidth 64 <<< 2) ∧ (resumeLane l back base off).park = .none := by
  simp [resumeLane, h, hf, hoff]

theorem back_exited (g : Group) (p : PendingTrap) {i : Fin 32} (hi : g.sc.lanes[i].exited = true) :
    (g.enterTrap p).resume.sc.lanes[i] = { g.sc.lanes[i] with faulting := false } := by
  rw [resume_enterTrap_lane, enterTrap_lane, if_pos hi]
  exact resumeLane_exited (l := { g.sc.lanes[i] with faulting := false }) hi ..

theorem enterTrap_live (g : Group) (p : PendingTrap) {i : Fin 32} (hi : g.sc.lanes[i].exited = false) :
    (g.enterTrap p).sc.lanes[i].exited = false := by
  rw [enterTrap_lane, if_neg (Bool.eq_false_iff.1 hi)]
  exact hi

theorem back_kept (g : Group) (p : PendingTrap) {i : Fin 32} (hi : g.sc.lanes[i].exited = false) (hf : g.sc.lanes[i].faulting = false) :
    (g.enterTrap p).resume.sc.lanes[i].pc = g.sc.lanes[i].pc ∧ (g.enterTrap p).resume.sc.lanes[i].park = g.sc.lanes[i].park ∧
      (g.enterTrap p).resume.sc.lanes[i].exited = false := by
  rw [resume_enterTrap_lane]
  exact resumeLane_kept (enterTrap_live g p hi) (back := g.sc.lanes[i].save) hf ..

theorem back_moved (g : Group) (p : PendingTrap) {i : Fin 32} (hi : g.sc.lanes[i].exited = false) (hf : g.sc.lanes[i].faulting = true)
    (hpc : p.regs.pc.setWidth 32 ≠ noResume) :
    (g.enterTrap p).resume.sc.lanes[i].pc = g.cfg.codec + ((p.regs.pc.setWidth 32).setWidth 64 <<< 2) ∧
      (g.enterTrap p).resume.sc.lanes[i].park = .none := by
  rw [resume_enterTrap_lane]
  exact resumeLane_moved (enterTrap_live g p hi) (back := g.sc.lanes[i].save) hf _ hpc

/-! What a fault records. -/

theorem causeWord_toNat (f : FaultInfo) (st : Stream) :
    (causeWord f false st).toNat = f.cause.code + 2 ^ 8 * f.kind.code + (if st = .addr then 2 ^ 16 else 0) + (if f.write then 2 ^ 18 else 0) := by
  have hcause : f.cause.code < 2 ^ 8 := by cases f.cause <;> decide
  have hkind : f.kind.code < 2 ^ 4 := by cases f.kind <;> decide
  have hstream : (if st = .addr then 2 ^ 16 else 0) ≤ 2 ^ 16 := by split <;> decide
  have hwrite : (if f.write = true then 2 ^ 18 else 0) ≤ 2 ^ 18 := by split <;> decide
  rw [causeWord, BitVec.toNat_ofNat]
  generalize (if st = .addr then 2 ^ 16 else 0) = a at hstream ⊢
  generalize (if f.write = true then 2 ^ 18 else 0) = b at hwrite ⊢
  exact Nat.mod_eq_of_lt (by simp only [Bool.false_eq_true, if_false]; omega)

/-- The registers of a fault that an instruction meets (17 Table 17.1). -/
def FaultInfo.regs (f : FaultInfo) (g : Group) (st : Stream) (pc : Dword) : TrapRegs :=
  ⟨causeWord f false st,
    if st = .addr then trapPc (pcOffset (g.codeBase st) pc) noResume else trapPc noResume (pcOffset (g.codeBase st) pc),
    BitVec.ofNat 64 f.addr⟩

theorem raiseAt_find {s : State} {gid : Nat} {g : Group} (hg : s.groups.find gid = some g) (hp : g.pendingTrap = none) (st : Stream)
    (m : Word) (pc : Dword) (k : PcKind) (f : FaultInfo) :
    ∃ h, (s.raiseAt gid st m pc k f).groups.find gid = some h ∧ h.pendingTrap = some ⟨f.cause, f.regs g st pc⟩ ∧
      ∀ L, laneIn m L = true → ((h.stream st).lanes[L]).pc = pc ∧ ((h.stream st).lanes[L]).faulting = true := by
  obtain ⟨x, hx, hlast⟩ := raise_find hg hp f.cause (f.regs g st pc)
  obtain ⟨hpend, -⟩ := Prod.mk.inj hlast
  refine ⟨(x.setPc st m pc k).modLanes st m (fun l => { l with faulting := true }), ?_, ?_, fun L hL => ?_⟩
  · simp only [State.raiseAt, hg]
    rw [modGroup_find]
    exact congrArg _ hx
  · have hkept := (modLanes_lasting (x.setPc st m pc k) st m (fun l => { l with faulting := true })).trans (setPc_lasting x st m pc k)
    exact (Prod.mk.inj hkept).1.trans hpend
  · rw [modLanes_lane, if_pos ⟨rfl, hL⟩, Group.setPc, modLanes_lane, if_pos ⟨rfl, hL⟩]
    exact ⟨rfl, rfl⟩

/-- Settles O31: delivery, halting and waiting by the branches of `settle`; the return lane by lane; what is recorded by what stays
while the streams stop. -/
theorem trapEntryAndReturn : Obligations.TrapEntryAndReturn := by
  unfold Obligations.TrapEntryAndReturn
  refine ⟨fun s gid g p hg hp hq => ⟨?handled, ?halted, fun hc hvec htrap => ?transit⟩, fun g p htrap => ?back,
    fun s gid g st m pc k f hg hp => ?recorded⟩
  case handled =>
    intro hvec htrap hwd hhalt hlive
    refine ⟨_, settle_delivers hg hp hq hvec htrap hwd hhalt hlive, rfl, rfl, rfl, fun i => enterTrap_saved g p i, fun i hi => ?_,
      fun i hi => ?_, rfl, rfl, rfl, rfl, rfl, rfl, rfl, rfl, rfl⟩ <;> rw [enterTrap_lane]
    · rw [if_neg (by rw [hi]; decide)]
      exact ⟨rfl, rfl⟩
    · rw [if_pos hi]
  case halted =>
    intro hstop hstay
    rw [settle_escalates hg hp hq hstop hstay]
    obtain ⟨b, hb⟩ := escalate_find hg p
    refine ⟨⟨_, hb, ?_⟩, escalate_waiting hg p⟩
    cases b <;> exact ⟨rfl, rfl, rfl, fun _ => rfl⟩
  case transit => exact ⟨_, settle_transit hg hp hq hc hvec htrap, rfl, rfl, rfl⟩
  case back =>
    have hlow : p.regs.pc.extractLsb' 0 32 = p.regs.pc.setWidth 32 := by
      simp [BitVec.extractLsb']
    simp only [hlow]
    exact ⟨rfl, rfl, rfl, rfl, rfl, rfl, fun i hi => ⟨back_kept g p hi, back_moved g p hi⟩, fun i hi => back_exited g p hi⟩
  case recorded =>
    obtain ⟨h, hh, hpend, hlanes⟩ := raiseAt_find hg hp st m pc k f
    refine ⟨h, _, hh, hpend, rfl, rfl, causeWord_toNat f st, ?_, ?_, hlanes⟩ <;> rintro rfl <;> rfl

end Sys2Proof.Machine

/-! Events of groups and arbitration (07 R182, R194 to R196; 16 R404; 17 R449; 19 R483). -/

namespace Sys2Proof.Machine

open Sys2Proof

/-! Sleep and pages in motion. -/

/-- A lane whose deadline has passed wakes. -/
def LaneCtl.awake (now : Nat) (l : LaneCtl) : LaneCtl :=
  match l.park with
  | .sleep d => if d ≤ now then { l with park := .none } else l
  | _ => l

theorem awake_park {l : LaneCtl} {d : Nat} (now : Nat) (h : l.park = .sleep d) :
    (l.awake now).park = if d ≤ now then .none else .sleep d := by
  simp only [LaneCtl.awake, h]
  split
  · rfl
  · exact h

/-- Every lane of both streams whose deadline has passed wakes. -/
def Group.wakeLanes (g : Group) (now : Nat) : Group :=
  (g.modLanes .addr (BitVec.allOnes 32) (LaneCtl.awake now)).modLanes .comp (BitVec.allOnes 32) (LaneCtl.awake now)

theorem laneIn_allOnes (L : Fin 32) : laneIn (BitVec.allOnes 32) L = true := by
  revert L
  decide

theorem wakeLanes_lane (g : Group) (now : Nat) (st : Stream) (L : Fin 32) :
    ((g.wakeLanes now).stream st).lanes[L] = ((g.stream st).lanes[L]).awake now := by
  rw [Group.wakeLanes, modLanes_lane, modLanes_lane, laneIn_allOnes]
  cases st <;> simp

theorem exec_sleepWake (s : State) (gid : Nat) :
    exec (.sleepWake gid) s =
      .next (s.modGroup gid (fun g => if g.status = .running then g.wakeLanes s.reftime else g)) := rfl

theorem exec_transitResume {s : State} {gid : Nat} {g : Group} (hg : s.groups.find gid = some g) (hwait : g.transitWait = true)
    (hrun : g.status = .running) (hover : s.translateNow g.fn g.part .clean g.regs.addr.toNat ≠ .fault .transit) :
    exec (.transitResume gid) s = .next (s.modGroup gid Group.resume).wake := by
  have htransit : s.transitOver g = true := by
    unfold State.transitOver
    split
    · exact absurd ‹_› hover
    · rfl
  show execTransitResume gid s = _
  simp [execTransitResume, hg, hwait, hrun, htransit]

/-! Faults that time brings. -/

/-- A group that has recorded a fault keeps its clocks, and the fault stays recorded or has been answered. -/
theorem settle_recorded {s : State} {gid : Nat} {g : Group} {p : PendingTrap} (hg : s.groups.find gid = some g)
    (hp : g.pendingTrap = some p) :
    ∃ h, (s.settle gid).groups.find gid = some h ∧ h.deadlock = g.deadlock ∧ h.wdog = g.wdog ∧
      (h.pendingTrap = some p ∨ h.regs = p.regs) := by
  simp only [State.settle, hg, hp]
  split_ifs
  · exact ⟨g, hg, rfl, rfl, .inl hp⟩
  · exact ⟨_, (modGroup_find ..).trans (congrArg _ hg), rfl, rfl, .inr rfl⟩
  · obtain ⟨b, hb⟩ := escalate_find hg p
    cases b <;> exact ⟨_, hb, rfl, rfl, .inr rfl⟩
  · exact ⟨_, (modGroup_find ..).trans (congrArg _ hg), rfl, rfl, .inr rfl⟩

theorem afterWork_recorded {s : State} {gid : Nat} {g : Group} {p : PendingTrap} (hg : s.groups.find gid = some g)
    (hp : g.pendingTrap = some p) :
    ∃ h, (s.afterWork gid).groups.find gid = some h ∧ h.deadlock = g.deadlock ∧ h.wdog = g.wdog ∧
      (h.pendingTrap = some p ∨ h.regs = p.regs) := by
  obtain ⟨x, hx, hdead, hwdog, hp'⟩ := settle_recorded hg hp
  obtain ⟨h, hh, hlast⟩ := (((Calm.haltIfQuiet (s.settle gid) gid).trans (Calm.reap ..)).trans (Calm.reapKilled ..)).find hx
  simp only [Group.lasting, Prod.mk.injEq] at hlast
  obtain ⟨hpend, hregs, hdead', hwdog', -, -⟩ := hlast
  exact ⟨h, hh, hdead'.trans hdead, hwdog'.trans hwdog, by rw [hpend, hregs]; exact hp'⟩

theorem deadlocked_pendingTrap {s : State} {gid : Nat} {g : Group} (h : s.deadlocked gid g = true) : g.pendingTrap = none := by
  unfold State.deadlocked at h
  simp only [Bool.and_eq_true, Option.isNone_iff_eq_none] at h
  exact h.1.1.2

/-- The lanes of a stream that stand at its next instruction. -/
def State.stuckLanes (s : State) (gid : Nat) (g : Group) (st : Stream) : Word := ((s.nextOf gid g st).map Prod.snd).getD 0

/-- The registers of a queue deadlock: both streams have resume points (17 R436). -/
def State.deadlockRegs (s : State) (gid : Nat) (g : Group) : TrapRegs :=
  let off (st : Stream) : Word := ((s.nextOf gid g st).map (fun x => pcOffset (g.codeBase st) x.1)).getD noResume
  ⟨causeWord (FaultInfo.plain .queueDeadlock) false .comp, trapPc (off .addr) (off .comp), 0⟩

theorem modStream_pendingTrap (g : Group) (st : Stream) (f : StreamState → StreamState) :
    (g.modStream st f).pendingTrap = g.pendingTrap := by
  cases st <;> rfl

/-- Lanes of a stream fault. -/
def Group.markFaults (g : Group) (st : Stream) (m : Word) : Group := g.modLanes st m (fun l => { l with faulting := true })

theorem markFaults_pendingTrap (g : Group) (st : Stream) (m : Word) : (g.markFaults st m).pendingTrap = g.pendingTrap :=
  modStream_pendingTrap ..

/-- The count of a deadlock begins again. -/
def Group.recount (g : Group) : Group := { g with deadlock := 0 }

theorem recount_pendingTrap (g : Group) : g.recount.pendingTrap = g.pendingTrap := rfl

theorem recount_deadlock (g : Group) : g.recount.deadlock = 0 := rfl

/-- The lanes fault and the count begins again. -/
def Group.deadlocks (g : Group) (ma mc : Word) : Group := ((g.markFaults .addr ma).markFaults .comp mc).recount

theorem deadlocks_pendingTrap (g : Group) (ma mc : Word) : (g.deadlocks ma mc).pendingTrap = g.pendingTrap :=
  (recount_pendingTrap _).trans ((markFaults_pendingTrap (g.markFaults .addr ma) .comp mc).trans (markFaults_pendingTrap g .addr ma))

theorem deadlocks_deadlock (g : Group) (ma mc : Word) : (g.deadlocks ma mc).deadlock = 0 := recount_deadlock _

/-- Code 0x15 and no access kind (17 Tables 17.1, 17.2). -/
theorem deadlockCause : causeWord (FaultInfo.plain .queueDeadlock) false .comp = 0x15#32 := by decide

/-- Code 0x17 and no access kind. -/
theorem watchdogCause : causeWord (FaultInfo.plain .watchdog) false .comp = 0x17#32 := by decide

theorem modGroup_modGroup (s : State) (k : Nat) (f f' : Group → Group) :
    (s.modGroup k f).modGroup k f' = s.modGroup k (fun g => f' (f g)) := by
  simp only [State.modGroup, Assoc.modify, List.map_map]
  congr 1
  refine List.map_congr_left (fun e _ => ?_)
  dsimp only [Function.comp]
  split <;> simp_all

theorem exec_queueDeadlock {s : State} {gid : Nat} {g : Group} (hg : s.groups.find gid = some g) (hcount : 4096 ≤ g.deadlock)
    (hdead : s.deadlocked gid g = true) :
    exec (.queueDeadlock gid) s =
      .next ((((s.raise gid .queueDeadlock (s.deadlockRegs gid g)).modGroup gid (fun x =>
        x.deadlocks (s.stuckLanes gid g .addr) (s.stuckLanes gid g .comp))).afterWork gid).wake) := by
  show execQueueDeadlock gid s = _
  simp only [execQueueDeadlock, hg, hcount, hdead, true_and, if_true, modGroup_modGroup]
  rfl

theorem exec_watchdog {s : State} {gid : Nat} {g : Group} (hg : s.groups.find gid = some g)
    (hlimit : (s.fn g.fn).wdcfg.toNat % 2 ^ 16 ≠ 0) (hcount : (s.fn g.fn).wdcfg.toNat % 2 ^ 16 * 2 ^ 20 ≤ g.wdog)
    (hrun : g.status = .running) (hp : g.pendingTrap = none) :
    exec (.watchdog gid) s =
      .next ((((s.raiseLate gid .comp (FaultInfo.plain .watchdog)).modGroup gid (fun x => { x with wdog := 0 })).afterWork gid).wake) := by
  show execWatchdog gid s = _
  simp only [execWatchdog, hg]
  rw [if_pos ⟨hlimit, hcount, hrun, by rw [hp]; rfl⟩]

/-! Arbitration (07 R194 to R196). -/

theorem chosenFirst_irrefl (st : Stream) (a : Group) : chosenFirst st a a = false := by simp [chosenFirst]

theorem chosenFirst_trans {st : Stream} {a b c : Group} (hab : chosenFirst st a b = true) (hbc : chosenFirst st b c = true) :
    chosenFirst st a c = true := by
  simp only [chosenFirst, ne_eq, ite_not] at *
  split_ifs at * <;> simp only [decide_eq_true_eq] at * <;> omega

/-- The better of the best offer so far and another. -/
def preferOffer (st : Stream) (b : Option (Nat × Group × Dword × PcKind × Word × Pick)) (o : Nat × Group × Dword × PcKind × Word × Pick) :
    Option (Nat × Group × Dword × PcKind × Word × Pick) :=
  match b with
  | some c => if chosenFirst st o.2.1 c.2.1 then some o else b
  | none => some o

/-- An offer that none of a list stands before. -/
def firstOf (st : Stream) (os : List (Nat × Group × Dword × PcKind × Word × Pick)) (b : Nat × Group × Dword × PcKind × Word × Pick) :
    Prop := b ∈ os ∧ ∀ o ∈ os, chosenFirst st o.2.1 b.2.1 = false

theorem preferOffer_first {st : Stream} {os : List (Nat × Group × Dword × PcKind × Word × Pick)}
    {b o : Nat × Group × Dword × PcKind × Word × Pick} (hb : firstOf st os b) :
    ∃ c, preferOffer st (some b) o = some c ∧ firstOf st (os ++ [o]) c := by
  obtain ⟨hmem, hfirst⟩ := hb
  by_cases ho : chosenFirst st o.2.1 b.2.1 = true
  · refine ⟨o, if_pos ho, by simp, fun x hx => ?_⟩
    obtain hx | hx := List.mem_append.1 hx
    · exact Bool.eq_false_iff.2 (fun h => Bool.eq_false_iff.1 (hfirst x hx) (chosenFirst_trans h ho))
    · rw [List.mem_singleton.1 hx]
      exact chosenFirst_irrefl st o.2.1
  · refine ⟨b, if_neg ho, List.mem_append_left _ hmem, fun x hx => ?_⟩
    obtain hx | hx := List.mem_append.1 hx
    · exact hfirst x hx
    · rw [List.mem_singleton.1 hx]
      exact Bool.eq_false_iff.2 ho

theorem foldl_preferOffer {st : Stream} (os : List (Nat × Group × Dword × PcKind × Word × Pick))
    {seen : List (Nat × Group × Dword × PcKind × Word × Pick)} {b c : Nat × Group × Dword × PcKind × Word × Pick} (hb : firstOf st seen b)
    (hc : os.foldl (preferOffer st) (some b) = some c) : firstOf st (seen ++ os) c := by
  induction os generalizing seen b with
  | nil => simpa using Option.some.inj hc ▸ hb
  | cons o os ih =>
    obtain ⟨d, hd, hfirst⟩ := preferOffer_first (o := o) hb
    rw [List.foldl_cons, hd] at hc
    simpa using ih hfirst hc

theorem chooseOffer_first {st : Stream} {os : List (Nat × Group × Dword × PcKind × Word × Pick)}
    {b : Nat × Group × Dword × PcKind × Word × Pick} (h : chooseOffer st os = some b) : firstOf st os b := by
  cases os with
  | nil => cases h
  | cons o os =>
    refine foldl_preferOffer os (seen := [o]) (b := o) ⟨List.mem_singleton_self o, fun x hx => ?_⟩ h
    rw [List.mem_singleton.1 hx]
    exact chosenFirst_irrefl st o.2.1

/-- Drawing keeps the group that was chosen at the head, and fills the bundle up to four. -/
theorem drawGroups_spec (pc : Dword) (os : List (Nat × Group × Dword × PcKind × Word × Pick)) {b : List (Nat × Word)} {e : Nat × Word}
    (hhead : b.head? = some e) (hlen : b.length ≤ 4) : (drawGroups pc os b).head? = some e ∧ (drawGroups pc os b).length ≤ 4 := by
  induction os generalizing b with
  | nil => exact ⟨hhead, hlen⟩
  | cons o os ih =>
    unfold drawGroups
    dsimp only
    split_ifs with hfits
    · simp only [Bool.and_eq_true, decide_eq_true_eq] at hfits
      obtain ⟨⟨⟨hroom, -⟩, -⟩, -⟩ := hfits
      refine ih ?_ (by rw [List.length_append, List.length_singleton]; omega)
      rw [List.head?_append, hhead]
      rfl
    · exact ih hhead hlen

theorem foldl_modGroup_runs {α : Type} (l : List α) (k : α → Nat) (f : α → Group → Group) (s : State) :
    (l.foldl (fun s e => s.modGroup (k e) (f e)) s).runs = s.runs :=
  List.foldlRecOn (motive := fun t : State => t.runs = s.runs) _ _ rfl (fun _ ht _ _ => ht)

theorem enterClause_runs (s : State) (st : Stream) (ms : List (Nat × Word)) (c : Clause) : (s.enterClause st ms c).runs = s.runs := by
  unfold State.enterClause
  split
  · exact foldl_modGroup_runs ..
  · rfl

theorem readCpred_find {s : State} {slot : Nat} {r : Run} (h : s.runs.find slot = some r) :
    ∃ cp, (s.readCpred slot).runs.find slot = some { r with cpred := cp } := by
  simp only [State.readCpred, h]
  split
  · exact ⟨_, (modRun_find ..).trans (congrArg _ h)⟩
  · exact ⟨r.cpred, h⟩

/-- The slot carries the clause, with the chosen group first. -/
theorem beginRun_find (s : State) (slot gid : Nat) (g : Group) (m : Word) (c : Clause)
    (os : List (Nat × Group × Dword × PcKind × Word × Pick)) :
    ∃ r, (s.beginRun slot gid g m c os).runs.find slot = some r ∧ r.stream = slotStream slot ∧ r.members.head? = some (gid, m) ∧
      r.members.length ≤ 4 ∧ r.pc = c.hdr + BitVec.ofNat 64 (4 * (c.skip + 1)) ∧ r.code = c.words := by
  obtain ⟨ms, hms, hhead, hlen⟩ : ∃ ms, ms = (if c.skip = 0 && !c.instrs.any confined then
      drawGroups c.hdr ((os.filter (fun o => o.2.1.team == g.team && o.1 != gid)).foldl (fun l o => insertOffer o l) []) [(gid, m)]
      else [(gid, m)]) ∧ ms.head? = some (gid, m) ∧ ms.length ≤ 4 := by
    refine ⟨_, rfl, ?_⟩
    split
    · exact drawGroups_spec _ _ rfl (Nat.le_add_left 1 3)
    · exact ⟨rfl, Nat.le_add_left 1 3⟩
  have hset (t : State) (ht : t.runs = s.runs.set slot { c.run (slotStream slot) ms with ready := some (s.slotReady slot) }) :
      ∃ r, (t.readCpred slot).runs.find slot = some r ∧ r.stream = slotStream slot ∧ r.members.head? = some (gid, m) ∧
        r.members.length ≤ 4 ∧ r.pc = c.hdr + BitVec.ofNat 64 (4 * (c.skip + 1)) ∧ r.code = c.words := by
    obtain ⟨cp, hcp⟩ := readCpred_find (ht ▸ Assoc.find_set s.runs slot _)
    exact ⟨_, hcp, rfl, hhead, hlen, rfl, rfl⟩
  unfold State.beginRun
  simp only [← hms]
  refine hset _ ?_
  split <;> exact (enterClause_runs ..).trans (foldl_modGroup_runs ..)

theorem exec_arbitration {s : State} {slot gid : Nat} {g : Group} {pc : Dword} {k : PcKind} {m : Word} {c : Clause}
    (hfree : s.runs.find slot = none) (hclock : s.clockRuns (slotCore slot / 96) = true) (hlower : s.lowerChooses slot = false)
    (hchosen : chooseOffer (slotStream slot) ((s.offers slot).filter (fun o => o.2.2.2.2.2.ready)) = some (gid, g, pc, k, m, .clause c)) :
    exec (.arbitration slot) s = .next ((s.requestOffers slot (s.offers slot)).beginRun slot gid g m c (s.offers slot)) := by
  show execArbitration slot s = _
  simp only [execArbitration, hfree, hclock, hlower, hchosen, Option.isSome_none, Bool.not_true, Bool.or_self, Bool.false_eq_true,
    if_false]

/-- Settles O32: faults that time brings stay recorded or are answered; a slot's choice by the order of `chosenFirst`. -/
theorem groupEvents : Obligations.GroupEvents := by
  unfold Obligations.GroupEvents
  refine ⟨fun s gid g hg hrun => ?sleep, fun s gid g hg hwait hrun hover => ?transit, fun s gid g hg hcount hdead => ?deadlock,
    fun s gid g hg hlimit hcount hrun hp => ?watchdog, fun s slot hlower => ?lower,
    fun s slot gid g pc k m c hfree hclock hlower hchosen => ?begins, fun st os b h => chooseOffer_first h⟩
  case sleep =>
    refine ⟨_, _, exec_sleepWake s gid, (modGroup_find ..).trans (congrArg _ hg), fun st L d hd => ?_⟩
    dsimp only
    rw [if_pos hrun, wakeLanes_lane, awake_park _ hd]
  case transit =>
    exact ⟨_, _, exec_transitResume hg hwait hrun hover, (modGroup_find ..).trans (congrArg _ hg), rfl, rfl⟩
  case deadlock =>
    obtain ⟨x, hx, hlast⟩ := raise_find hg (deadlocked_pendingTrap hdead) .queueDeadlock (s.deadlockRegs gid g)
    have hfault := (Prod.mk.inj hlast).1
    obtain ⟨h, hh, hzero, -, hp⟩ := afterWork_recorded (p := ⟨.queueDeadlock, s.deadlockRegs gid g⟩)
      ((modGroup_find _ _ (fun x => x.deadlocks (s.stuckLanes gid g .addr) (s.stuckLanes gid g .comp))).trans (congrArg _ hx))
      ((deadlocks_pendingTrap ..).trans hfault)
    refine ⟨_, h, _, exec_queueDeadlock hg hcount hdead, ?_, hzero.trans (deadlocks_deadlock ..), deadlockCause, hp⟩
    rw [wake_groups, hh]
  case watchdog =>
    obtain ⟨x, hx, hlast⟩ := raise_find hg hp .watchdog ⟨causeWord (FaultInfo.plain .watchdog) false .comp, trapPc noResume noResume,
      BitVec.ofNat 64 (FaultInfo.plain .watchdog).addr⟩
    have hfault := (Prod.mk.inj hlast).1
    obtain ⟨h, hh, -, hzero, hp'⟩ := afterWork_recorded
      ((modGroup_find _ _ (fun x : Group => { x with wdog := 0 })).trans (congrArg _ hx)) hfault
    refine ⟨_, h, _, exec_watchdog hg hlimit hcount hrun hp, ?_, hzero, watchdogCause, hp'⟩
    rw [wake_groups]
    exact hh
  case lower =>
    show execArbitration slot s = _
    rw [execArbitration, if_pos (by rw [hlower, Bool.or_true])]
  case begins =>
    obtain ⟨r, hr, hstream, hhead, hlen, hpc, hcode⟩ := beginRun_find (s.requestOffers slot (s.offers slot)) slot gid g m c (s.offers slot)
    exact ⟨_, r, exec_arbitration hfree hclock hlower hchosen, hr, hstream, hhead, hlen, hpc, hcode,
      (beginRun_mem ..).trans (requestOffers_mem ..)⟩

end Sys2Proof.Machine

/-! Answers to fault records, and records that enter their ring (17 R441 to R443; 19 R484). -/

namespace Sys2Proof.Machine

open Sys2Proof

/-! Messages (19 R484, R485). -/

theorem signal_sent {s : State} {fn : Nat} (vec : Nat) (h : s.sentNow fn < 65536) : s.signal fn vec = s.message fn vec := if_pos h

/-- Nothing of a function has changed but the messages that it has sent. -/
def SameButSent (a b : Fn) : Prop := b = { a with sent := b.sent }

theorem SameButSent.refl (a : Fn) : SameButSent a a := rfl

theorem SameButSent.modFn (s : State) (f : Nat) (x : Nat × Nat) (k : Nat) :
    SameButSent (s.fn k) ((s.modFn f (fun y => { y with sent := x })).fn k) := by
  by_cases hk : k = f
  · subst hk
    rw [modFn_fn]
    rfl
  · rw [modFn_fn_ne _ _ hk]
    exact .refl _

theorem message_fn (s : State) (f vec k : Nat) : SameButSent (s.fn k) ((s.message f vec).fn k) :=
  SameButSent.modFn s f (s.reftime / 1000000000, s.sentNow f + 1) k

/-- FWVIOL of a violation (19 Table 19.7). -/
def violationWord (management : Bool) (clamp addr : Nat) : Nat :=
  addr / 2 ^ 12 % 2 ^ 52 * 2 ^ 12 + clamp % 16 * 2 ^ 8 + (if management then 2 else 1)

/-- The state of a violation before its message. -/
def State.clamped (s : State) (management : Bool) (clamp addr : Nat) : State :=
  { s.modDie 0 (fun x => { x with fwviol := BitVec.ofNat 64 (violationWord management clamp addr) }) with
                frozenMgmt := s.frozenMgmt || management, frozenPup := s.frozenPup || !management }

theorem violate_eq (s : State) (management : Bool) (clamp addr : Nat) :
    s.violate management clamp addr = if (s.clamped management clamp addr).sentNow pfId < 65536
      then (s.clamped management clamp addr).message pfId 1 else s.clamped management clamp addr := rfl

theorem violate_fn (s : State) (management : Bool) (clamp addr k : Nat) :
    SameButSent (s.fn k) ((s.violate management clamp addr).fn k) := by
  rw [violate_eq]
  split
  · exact message_fn (s.clamped management clamp addr) ..
  · exact .refl (s.fn k)

/-- A signal changes nothing of a function but the messages that it has sent. -/
theorem signal_fn (s : State) (f vec k : Nat) : SameButSent (s.fn k) ((s.signal f vec).fn k) := by
  by_cases hsent : s.sentNow f < 65536
  · rw [signal_sent vec hsent]
    exact message_fn s f vec k
  · rw [State.signal, if_neg hsent]
    dsimp only
    generalize (if decide (vec = 2) = true then s.frozenMgmt else s.frozenPup) = frozen
    cases frozen
    · exact violate_fn ..
    · exact .refl _

/-! RESUME and KILL. -/

/-- The group that an answer lets go on: a nested fault returns to the handler. -/
def Group.released (g : Group) : Group :=
  match g.firstRegs with
  | some r => g.resumeNested r
  | none => g.resume

theorem released_gang (g : Group) : g.released.gang = g.gang := by
  unfold Group.released
  split <;> rfl

/-- It runs, or halts with its gang. -/
def Group.goesOn (g : Group) (stands : Nat → Bool) : Group :=
  { g.released with escalated := none, status := if stands g.released.gang then .halted else .running }

theorem exec_resume {s : State} {fn seq gid : Nat} {g : Group} (h : s.awaitingGroup fn seq = some (gid, g)) :
    exec (.resume fn seq) s = .next (s.modGroup gid (fun x => x.goesOn s.gangStands)).wake := by
  show execResume fn seq s = _
  rw [execResume, h]
  rfl

/-- The state of KILL before the groups of the launch are looked after. -/
def State.killed (s : State) (gid : Nat) (g : Group) : State := (s.modGroup gid (fun x => { x with escalated := none })).killLaunch g.launch

theorem exec_kill {s : State} {fn seq gid : Nat} {g : Group} (h : s.awaitingGroup fn seq = some (gid, g)) :
    exec (.kill fn seq) s =
      .next (((Assoc.keys ((s.killed gid g).groups.filter (fun e => e.2.launch == g.launch))).foldl State.afterWork (s.killed gid g)).wake) := by
  show execKill fn seq s = _
  rw [execKill, h]
  rfl

/-- Every group of the launch is killed, and stays so while groups halt and finish. -/
theorem kill_killed (s : State) (gid : Nat) (g : Group) (ks : List Nat) {k : Nat} {h : Group}
    (hh : (ks.foldl State.afterWork (s.killed gid g)).groups.find k = some h) (hl : h.launch = g.launch) : h.killed = true := by
  obtain ⟨x, hx, hlaunch, hkilled⟩ := (Doomed.foldl Doomed.afterWork ks (s.killed gid g)).groups k h hh
  exact hkilled (killLaunch_killed _ _ hx (hlaunch.symm.trans hl))

/-! Records (17 R441). -/

/-- The place of the next record in its ring. -/
def Fn.recordPlace (f : Fn) : Nat := (f.frbase.toNat / 4096 * 4096 + 64 * (f.frtail % f.frsize)) % 2 ^ 64

/-- The state after a record has been written, before its message. -/
def State.recorded (s : State) (fn : Nat) (r : FaultRec) (rest : List FaultRec) (key : Nat) : State :=
  let u := ((s.classify key (homeDie key) none true).writeBytes key (r.bytes (s.fn fn).seq)).modFn fn (fun x =>
    { x with waiting := rest, seq := x.seq + 1, frtail := (x.frtail + 1) % x.frsize })
  match r.gid with
  | some k => u.modGroup k (fun g => { g with escalated := some (s.fn fn).seq.toNat })
  | none => u

theorem exec_faultRecordAppend {s : State} {fn : Nat} {r : FaultRec} {rest : List FaultRec} {key : Nat}
    (hw : (s.fn fn).waiting = r :: rest) (hring : ringEnabled (s.fn fn).frsize = true) (hroom : (s.fn fn).ringFull = false)
    (hhome : s.homeWaits key = false) (hx : s.translateNow fn r.part .write (s.fn fn).recordPlace = .ok key) :
    exec (.faultRecordAppend fn) s = .next ((s.recorded fn r rest key).signal fn 0) := by
  show execFaultRecordAppend fn s = _
  unfold Fn.recordPlace at hx
  simp only [execFaultRecordAppend, hw, hring, hroom, hhome, hx, Bool.not_true, Bool.false_eq_true, if_false]
  rfl

/-- The registers of the function once its record stands in the ring. -/
def Fn.appended (f : Fn) (rest : List FaultRec) : Fn := { f with waiting := rest, seq := f.seq + 1, frtail := (f.frtail + 1) % f.frsize }

/-- The state after the bytes of a record have been written. -/
def State.recordBytes (s : State) (key : Nat) (bs : List Byte) : State := (s.classify key (homeDie key) none true).writeBytes key bs

theorem recordBytes_spec {s : State} {key : Nat} (hb : s.viralBlocks key = false) (bs : List Byte) :
    (s.recordBytes key bs).mem = s.mem.writeN key bs ∧ (s.recordBytes key bs).fns = s.fns ∧
      (s.recordBytes key bs).units = s.units ∧ (s.recordBytes key bs).msix = s.msix := by
  obtain ⟨gs, ls, cs, lo, hclass⟩ := classify_frame s key (homeDie key) none true
  obtain ⟨p, hwrite⟩ := writeBytes_frame (s.classify key (homeDie key) none true) key bs
  have hblocks : (s.classify key (homeDie key) none true).viralBlocks key = false := by rw [hclass]; exact hb
  unfold State.recordBytes
  rw [hwrite, hblocks, hclass]
  exact ⟨rfl, rfl, rfl, rfl⟩

theorem recorded_fields (s : State) (fn : Nat) (r : FaultRec) (rest : List FaultRec) (key : Nat) :
    let u := s.recordBytes key (r.bytes (s.fn fn).seq)
    (s.recorded fn r rest key).mem = u.mem ∧ (s.recorded fn r rest key).fns = (u.modFn fn (fun x => x.appended rest)).fns ∧
      (s.recorded fn r rest key).units = u.units ∧ (s.recorded fn r rest key).msix = u.msix := by
  unfold State.recorded
  dsimp only
  split <;> exact ⟨rfl, rfl, rfl, rfl⟩

theorem fn_congr {s t : State} (h : t.fns = s.fns) (k : Nat) : t.fn k = s.fn k := by rw [State.fn, h, State.fn]

/-- What the record leaves of memory, the registers of its function and the messages. -/
theorem recorded_spec {s : State} {fn : Nat} {r : FaultRec} {rest : List FaultRec} {key : Nat} (hb : s.viralBlocks key = false) :
    (s.recorded fn r rest key).mem = s.mem.writeN key (r.bytes (s.fn fn).seq) ∧
    (s.recorded fn r rest key).fn fn = (s.fn fn).appended rest ∧
    (s.recorded fn r rest key).units = s.units ∧ (s.recorded fn r rest key).msix = s.msix := by
  obtain ⟨hmem, hfns, hunits, hmsix⟩ := recorded_fields s fn r rest key
  obtain ⟨hmem', hfns', hunits', hmsix'⟩ := recordBytes_spec hb (r.bytes (s.fn fn).seq)
  refine ⟨hmem.trans hmem', ?_, hunits.trans hunits', hmsix.trans hmsix'⟩
  rw [fn_congr hfns fn, modFn_fn, fn_congr hfns' fn]

/-- Settles O33: answers by what they do to the group, KILL by what stays of launches that are killed, records by the frames of the
operations that write them. -/
theorem faultAnswers : Obligations.FaultAnswers := by
  unfold Obligations.FaultAnswers
  refine ⟨fun s fn seq gid g hawait hg => ⟨?resume, ?kill⟩, fun s fn r rest key hw hring hroom hhome hb hwf hx => ?append⟩
  case resume =>
    refine ⟨_, g.goesOn s.gangStands, exec_resume hawait, ?_, rfl, ?_⟩
    · rw [wake_groups, modGroup_find, hg]
      rfl
    · rw [Group.goesOn, released_gang]
  case kill => exact ⟨_, exec_kill hawait, fun k h hh hl => kill_killed s gid g _ hh hl⟩
  case append =>
    obtain ⟨hmem, hfn, hunits, hmsix⟩ := recorded_spec (s := s) (fn := fn) (r := r) (rest := rest) hb
    have hsent : ((s.recorded fn r rest key).signal fn 0).fn fn = _ := signal_fn (s.recorded fn r rest key) fn 0 fn
    rw [hfn] at hsent
    refine ⟨_, exec_faultRecordAppend hw hring hroom hhome hx, ?_, ?_, ?_, ?_, fun hlimit => ?_⟩
    · rw [signal_mem, hmem]
      exact Bytes.readN_writeN hwf ..
    · rw [hsent]; rfl
    · rw [hsent]; rfl
    · rw [hsent]; rfl
    · have hnow : (s.recorded fn r rest key).sentNow fn = s.sentNow fn := by
        simp only [State.sentNow, State.reftime, hfn, hunits]
        rfl
      rw [signal_sent 0 (hnow.trans_lt hlimit), State.message, hmsix]

end Sys2Proof.Machine

/-! Cold reset and function-level resets (19 R477, R478, R490). -/

namespace Sys2Proof.Machine

open Sys2Proof

/-- What the later steps of a function-level reset leave alone. -/
structure SameTenants (s t : State) : Prop where
  groups : t.groups = s.groups
  launches : t.launches = s.launches
  subs : t.subs = s.subs
  fns : t.fns = s.fns

namespace SameTenants
variable {s t u : State}

theorem refl (s : State) : SameTenants s s := ⟨rfl, rfl, rfl, rfl⟩

theorem trans (h : SameTenants s t) (k : SameTenants t u) : SameTenants s u :=
  ⟨k.groups.trans h.groups, k.launches.trans h.launches, k.subs.trans h.subs, k.fns.trans h.fns⟩

theorem foldl {α : Type} {f : State → α → State} (h : ∀ x a, SameTenants x (f x a)) (l : List α) (s : State) :
    SameTenants s (l.foldl f s) :=
  List.foldlRecOn (motive := fun t => SameTenants s t) _ _ (.refl s) (fun _ ht a _ => ht.trans (h _ a))

end SameTenants

theorem freeRecord_sameTenants (s : State) (fn kind lrec key : Nat) : SameTenants s (s.freeRecord fn kind lrec key) := by
  unfold State.freeRecord
  split <;> exact ⟨rfl, rfl, rfl, rfl⟩

theorem releaseContext_sameTenants (s : State) (ctx : Nat) : SameTenants s (s.releaseContext ctx) := by
  unfold State.releaseContext
  split
  · exact .refl _
  · refine .foldl (fun x e => ?_) _ s
    extract_lets y z
    have hy : SameTenants x y := .foldl (fun _ _ => freeRecord_sameTenants ..) _ x
    have hz : SameTenants y z := ⟨rfl, rfl, rfl, rfl⟩
    clear_value y z
    refine (hy.trans hz).trans (.foldl (fun w o => ?_) _ z)
    refine .trans ?_ (.foldl (fun _ _ => ?_) (blockRows o.1) _) <;> exact ⟨rfl, rfl, rfl, rfl⟩

theorem dropContexts_sameTenants (s : State) (fn : Nat) : SameTenants s (s.dropContexts fn) := by
  unfold State.dropContexts
  extract_lets y ctxs z
  have hy : SameTenants s y := by
    refine .foldl (fun _ _ => ?_) _ s
    exact ⟨rfl, rfl, rfl, rfl⟩
  have hz : SameTenants y z := .foldl releaseContext_sameTenants _ y
  clear_value y ctxs z
  refine (hy.trans hz).trans ?_
  exact ⟨rfl, rfl, rfl, rfl⟩

theorem sendPkt_sameTenants (s : State) (part vc : Nat) (ty : PacketType) (p : Packet) : SameTenants s (s.sendPkt part vc ty p) := by
  unfold State.sendPkt
  split <;> exact ⟨rfl, rfl, rfl, rfl⟩

theorem dropWaiting_sameTenants (s : State) (input : Nat) (x : InPacket) : SameTenants s (s.dropWaiting input x) := by
  unfold State.dropWaiting
  dsimp only
  split
  · split <;> exact ⟨rfl, rfl, rfl, rfl⟩
  · exact ⟨rfl, rfl, rfl, rfl⟩

theorem leaveLost_sameTenants (s : State) (fn part : Nat) : SameTenants s (s.leaveLost fn part) :=
  .foldl (fun x _ => .foldl (fun y _ => sendPkt_sameTenants y ..) _ x) _ s

theorem dropFabric_sameTenants (s : State) (fn : Nat) : SameTenants s (s.dropFabric fn) := by
  unfold State.dropFabric
  extract_lets part mine waiting boxed x y z w
  have hx : SameTenants s x := .foldl (fun _ _ => dropWaiting_sameTenants ..) _ s
  have hy : SameTenants x y := .foldl (fun _ e => by split <;> exact ⟨rfl, rfl, rfl, rfl⟩) _ x
  have hz : SameTenants y z := ⟨rfl, rfl, rfl, rfl⟩
  have hw : SameTenants z w := leaveLost_sameTenants ..
  clear_value x y z w
  refine ((hx.trans hy).trans (hz.trans hw)).trans ?_
  exact ⟨rfl, rfl, rfl, rfl⟩

/-! The reset of one function. -/

/-- The state before the registers of the function take their reset values. -/
def State.emptied (s : State) (fn : Nat) : State :=
  ((((((s.dropSubs fn).dropGroups fn).dropContexts fn).dropCommands fn).dropFabric fn).cleanHostLines)

theorem dropGroups_tenants (s : State) (fn : Nat) :
    (s.dropGroups fn).groups = s.groups.filter (fun e => e.2.fn != fn) ∧
      (s.dropGroups fn).launches = s.launches.filter (fun e => e.2.fn != fn) ∧
      (s.dropGroups fn).subs = s.subs ∧ (s.dropGroups fn).fns = s.fns := by
  unfold State.dropGroups
  extract_lets gone mine x ls
  have hx : SameTenants s x := by
    refine .foldl (fun _ _ => ?_) _ s
    exact ⟨rfl, rfl, rfl, rfl⟩
  clear_value x ls
  obtain ⟨hgroups, hlaunches, hsubs, hfns⟩ := hx
  refine ⟨?_, ?_, hsubs, hfns⟩
  · dsimp only
    rw [hgroups]
  · dsimp only
    rw [hlaunches]

theorem dropCommands_sameTenants (s : State) (fn : Nat) : SameTenants s (s.dropCommands fn) := ⟨rfl, rfl, rfl, rfl⟩

theorem cleanHostLines_sameTenants (s : State) : SameTenants s s.cleanHostLines := ⟨rfl, rfl, rfl, rfl⟩

theorem emptied_sameTenants (s : State) (fn : Nat) : SameTenants ((s.dropSubs fn).dropGroups fn) (s.emptied fn) := by
  unfold State.emptied
  exact (dropContexts_sameTenants ..).trans ((dropCommands_sameTenants ..).trans
    ((dropFabric_sameTenants ..).trans (cleanHostLines_sameTenants _)))

theorem flr_eq (s : State) (fn : Nat) (keep : Bool) : s.flr fn keep = ((s.emptied fn).resetRegs fn keep).wake := rfl

theorem resetRegs_sameButFns (s : State) (fn : Nat) (keep : Bool) : (s.resetRegs fn keep).groups = s.groups ∧
    (s.resetRegs fn keep).launches = s.launches ∧ (s.resetRegs fn keep).subs = s.subs := ⟨rfl, rfl, rfl⟩

/-- What a function-level reset leaves of groups, launches and submissions. -/
theorem flr_tenants (s : State) (fn : Nat) (keep : Bool) :
    (s.flr fn keep).groups = s.groups.filter (fun e => e.2.fn != fn) ∧ (s.flr fn keep).launches = s.launches.filter (fun e => e.2.fn != fn) ∧
      (s.flr fn keep).subs = s.subs.filter (fun e => e.2.fn != fn) := by
  obtain ⟨hgroups, hlaunches, hsubs, -⟩ := emptied_sameTenants s fn
  obtain ⟨hgroups', hlaunches', hsubs', -⟩ := dropGroups_tenants (s.dropSubs fn) fn
  obtain ⟨hgroups'', hlaunches'', hsubs''⟩ := resetRegs_sameButFns (s.emptied fn) fn keep
  rw [flr_eq, wake_groups, wake_launches, wake_subs]
  exact ⟨hgroups''.trans (hgroups.trans hgroups'), hlaunches''.trans (hlaunches.trans hlaunches'), hsubs''.trans (hsubs.trans hsubs')⟩

theorem emptied_fn (s : State) (fn k : Nat) : (s.emptied fn).fn k = s.fn k :=
  fn_congr ((emptied_sameTenants s fn).fns.trans (dropGroups_tenants (s.dropSubs fn) fn).2.2.2) k

/-- The registers of a function that has been reset. -/
def Fn.afterFlr (f : Fn) (keep : Bool) : Fn := { Fn.reset with sched := if keep then f.boundOnly else Fn.reset.sched, sent := f.sent }

theorem resetRegs_fns (s : State) (fn : Nat) (keep : Bool) : (s.resetRegs fn keep).fns = (s.modFn fn (fun x => x.afterFlr keep)).fns := rfl

theorem resetRegs_tlb (s : State) (fn : Nat) (keep : Bool) : (s.resetRegs fn keep).tlb = s.tlb.filter (fun t => t.fn != fn) := rfl

theorem flr_tlb (s : State) (fn : Nat) (keep : Bool) : (s.flr fn keep).tlb = (s.emptied fn).tlb.filter (fun t => t.fn != fn) := by
  rw [flr_eq, wake_tlb, resetRegs_tlb]

theorem flr_fns (s : State) (fn : Nat) (keep : Bool) : (s.flr fn keep).fns = ((s.emptied fn).modFn fn (fun x => x.afterFlr keep)).fns := by
  rw [flr_eq, wake_fns]
  exact resetRegs_fns ..

theorem flr_fn (s : State) (fn : Nat) (keep : Bool) : (s.flr fn keep).fn fn = (s.fn fn).afterFlr keep := by
  rw [fn_congr (flr_fns s fn keep) fn, modFn_fn, emptied_fn]

theorem flr_fn_ne (s : State) {fn k : Nat} (keep : Bool) (h : k ≠ fn) : (s.flr fn keep).fn k = s.fn k := by
  rw [fn_congr (flr_fns s fn keep) k, modFn_fn_ne _ _ h, emptied_fn]

/-- What is found in a filtered map passes the filter. -/
theorem find_filter {α : Type} {m : Assoc α} {p : α → Bool} {k : Nat} {x : α}
    (h : Assoc.find (m.filter (fun e => p e.2)) k = some x) : p x = true := (List.mem_filter.1 (Assoc.mem_of_find h)).2

/-- What passes the filter is still found. -/
theorem find_filter_of_find {α : Type} {m : Assoc α} {p : α → Bool} {k : Nat} {x : α} (h : m.find k = some x) (hp : p x = true) :
    Assoc.find (m.filter (fun e => p e.2)) k = some x := by
  induction m with
  | nil => cases h
  | cons e m ih =>
    obtain ⟨i, y⟩ := e
    simp only [Assoc.find] at h
    split at h
    · obtain rfl := Option.some.inj h
      subst i
      simp [hp, Assoc.find]
    · have hne : ¬ i = k := ‹_›
      by_cases hy : p y = true
      · simp only [List.filter_cons, hy, if_true, Assoc.find, if_neg hne]
        exact ih h
      · simp only [List.filter_cons, hy, Bool.false_eq_true, if_false]
        exact ih h

/-! The reset of the physical function. -/

/-- The binding is what a reset of the physical function keeps of VFSCHED (19 Table 19.3). -/
theorem boundOnly_bound (f : Fn) (x : Fn) (h : x.sched = f.boundOnly) : x.bound = f.bound := by
  have hbit : f.boundOnly.getLsbD 5 = f.sched.getLsbD 5 := by
    simp only [Fn.boundOnly, BitVec.getLsbD_or, BitVec.getLsbD_and]
    rw [show (Fn.reset.sched).getLsbD 5 = false by decide, show (0x3F : Dword).getLsbD 5 = true by decide]
    simp
  have hlow : f.boundOnly.toNat % 2 ^ 5 = f.sched.toNat % 2 ^ 5 := by
    simp only [Fn.boundOnly, BitVec.toNat_or, BitVec.toNat_and]
    rw [Nat.or_mod_two_pow, Nat.and_mod_two_pow, Nat.and_mod_two_pow,
      show (0x7FFFFFFFFC0 : Dword).toNat % 2 ^ 5 = 0 by decide, show (0x3F : Dword).toNat % 2 ^ 5 = 2 ^ 5 - 1 by decide,
      Nat.and_zero, Nat.zero_or, Nat.and_two_pow_sub_one_eq_mod, Nat.mod_mod]
  unfold Fn.bound
  rw [h, hbit]
  exact congrArg (fun n => if f.sched.getLsbD 5 then some n else none) hlow

theorem flr_bound (s : State) (fn k : Nat) : ((s.flr fn true).fn k).bound = (s.fn k).bound := by
  by_cases hk : k = fn
  · subst hk
    exact boundOnly_bound (s.fn k) _ (by rw [flr_fn]; rfl)
  · rw [flr_fn_ne s true hk]

theorem foldl_flr_bound (fns : List Nat) (s : State) (k : Nat) :
    ((fns.foldl (fun s fn => s.flr fn true) s).fn k).bound = (s.fn k).bound :=
  List.foldlRecOn (motive := fun t : State => (t.fn k).bound = (s.fn k).bound) _ _ rfl (fun t ht fn _ => (flr_bound t fn k).trans ht)

/-- No group of a function that has been reset is left. -/
theorem foldl_flr_groups (fns : List Nat) (s : State) :
    (fns.foldl (fun s fn => s.flr fn true) s).groups = s.groups.filter (fun e => !fns.contains e.2.fn) := by
  induction fns generalizing s with
  | nil => simp
  | cons fn fns ih =>
    rw [List.foldl_cons, ih, (flr_tenants s fn true).1, List.filter_filter]
    refine List.filter_congr (fun e _ => ?_)
    simp only [List.contains_cons, Bool.not_or, bne, Bool.and_comm]

/-- The registers of a function in the physical function's space. -/
def Fn.unscheduled (f : Fn) : Fn := { f with sched := f.boundOnly, vfcq := 0, vffq := 0 }

theorem resetPfSpace_fn (s : State) (k : Nat) :
    (s.resetPfSpace.fn k).bound = (s.fn k).bound ∧ (s.resetPfSpace.fn k).vfcq = 0 := by
  have hfind : s.resetPfSpace.fns.find k = (s.fns.find k).map Fn.unscheduled := Assoc.find_map s.fns k (fun _ f => f.unscheduled)
  unfold State.fn Assoc.getD
  rw [hfind]
  cases s.fns.find k with
  | none => exact ⟨rfl, rfl⟩
  | some f => exact ⟨boundOnly_bound f f.unscheduled rfl, rfl⟩

theorem resetPfSpace_groups (s : State) : s.resetPfSpace.groups = s.groups := rfl

theorem exec_coldReset (s : State) : exec .coldReset s = execColdReset s := rfl

theorem exec_vfFlr (s : State) {fn : Nat} (h : fn < 64) : exec (.vfFlr fn) s = .next (s.flr fn false) :=
  congrArg Host.Outcome.next (if_pos h)

theorem exec_pfFlr (s : State) : exec .pfFlr s = .next ((List.range 65).foldl (fun s fn => s.flr fn true) s).resetPfSpace := rfl

/-! Errors (19 R481, R482, R485). -/

theorem violationWord_lt (m : Bool) (clamp addr : Nat) : violationWord m clamp addr < 2 ^ 64 := by
  unfold violationWord
  cases m <;> simp only [Bool.false_eq_true, if_false, if_true] <;> omega

theorem clamped_die (s : State) (m : Bool) (clamp addr : Nat) :
    ((s.clamped m clamp addr).die 0).fwviol.toNat = violationWord m clamp addr := by
  have hset : (s.clamped m clamp addr).die 0 =
      (s.modDie 0 (fun x => { x with fwviol := BitVec.ofNat 64 (violationWord m clamp addr) })).die 0 := rfl
  rw [hset, die_modDie (by decide)]
  exact Nat.mod_eq_of_lt (violationWord_lt m clamp addr)

theorem violate_spec (s : State) (m : Bool) (clamp addr : Nat) :
    (s.violate m clamp addr).frozenMgmt = (s.frozenMgmt || m) ∧ (s.violate m clamp addr).frozenPup = (s.frozenPup || !m) ∧
      (s.violate m clamp addr).dies = (s.clamped m clamp addr).dies := by
  rw [violate_eq]
  split <;> exact ⟨rfl, rfl, rfl⟩

theorem clamped_sentNow (s : State) (m : Bool) (clamp addr fn : Nat) : (s.clamped m clamp addr).sentNow fn = s.sentNow fn := rfl

theorem violate_msix {s : State} (m : Bool) (clamp addr : Nat) (h : s.sentNow 64 < 65536) :
    (s.violate m clamp addr).msix = s.msix ++ [(64, 1)] := by
  rw [violate_eq, if_pos (by exact h)]
  rfl

/-! A channel that is lost (19 R481). -/

theorem killLaunch_launch {s : State} {l : Nat} {x : Launch} (h : s.launches.find l = some x) :
    ∃ y, (s.killLaunch l).launches.find l = some y ∧ y.killed = true :=
  ⟨x.stopped, (Assoc.find_modify s.launches l Launch.stopped).trans (congrArg _ h), rfl⟩

/-- A launch that some step of a run of steps kills is killed at its end. -/
theorem foldl_kills {α : Type} {f : State → α → State} (hf : ∀ x a, Doomed x (f x a)) {as : List α} {a : α} (ha : a ∈ as) {s : State}
    {k : Nat} {l : Launch} (hl : s.launches.find k = some l)
    (hkill : ∀ u m, u.launches.find k = some m → m.part = l.part → m.complete = l.complete →
      ∃ n, (f u a).launches.find k = some n ∧ n.killed = true) :
    ∃ n, (as.foldl f s).launches.find k = some n ∧ n.killed = true := by
  obtain ⟨before, behind, rfl⟩ := List.append_of_mem ha
  obtain ⟨m, hm, hpart, hcomplete, -⟩ := (Doomed.foldl hf before s).launches k l hl
  obtain ⟨n, hn, hkilled⟩ := hkill _ m hm hpart hcomplete
  obtain ⟨x, hx, -, -, hstays⟩ := (Doomed.foldl hf behind (f (before.foldl f s) a)).launches k n hn
  rw [List.foldl_append, List.foldl_cons]
  exact ⟨x, hx, hstays hkilled⟩

theorem killPart_doomed (s : State) (part : Nat) : Doomed s (s.killPart part) :=
  (Doomed.foldl Doomed.killLaunch _ s).trans (Doomed.foldl Doomed.afterWork _ _)

/-- Every launch of the partition that runs is killed. -/
theorem killPart_killed {s : State} {part k : Nat} {l : Launch} (hl : s.launches.find k = some l) (hpart : l.part = part)
    (hruns : l.complete = false) : ∃ m, (s.killPart part).launches.find k = some m ∧ m.killed = true := by
  have hmem : k ∈ Assoc.keys (s.launches.filter (fun e => e.2.part == part && !e.2.complete)) :=
    List.mem_map.2 ⟨(k, l), List.mem_filter.2 ⟨Assoc.mem_of_find hl, by simp [hpart, hruns]⟩, rfl⟩
  obtain ⟨m, hm, hkilled⟩ := foldl_kills Doomed.killLaunch hmem hl (fun u m hm _ _ => killLaunch_launch hm)
  obtain ⟨n, hn, -, -, hstays⟩ := (Doomed.foldl Doomed.afterWork _ _).launches k m hm
  exact ⟨n, hn, hstays hkilled⟩

/-- What a lost channel does to one partition: its launches are killed, and its functions are told. -/
def State.losePart (s : State) (channel part : Nat) : State :=
  (s.affectedFns part).foldl (fun s fn => s.postLog fn part (BitVec.ofNat 32 Cause.poison.code) channel []) (s.killPart part)

theorem losePart_doomed (channel : Nat) (s : State) (part : Nat) : Doomed s (s.losePart channel part) :=
  (killPart_doomed s part).trans (Doomed.foldl (fun _ _ => Doomed.postRecord ..) _ _)

theorem losePart_killed (channel : Nat) {s : State} {part k : Nat} {l : Launch} (hl : s.launches.find k = some l) (hpart : l.part = part)
    (hruns : l.complete = false) : ∃ m, (s.losePart channel part).launches.find k = some m ∧ m.killed = true := by
  obtain ⟨m, hm, hkilled⟩ := killPart_killed hl hpart hruns
  obtain ⟨n, hn, -, -, hstays⟩ := (Doomed.foldl (fun (x : State) fn => Doomed.postRecord x fn
    ⟨⟨BitVec.ofNat 32 Cause.poison.code, 0, BitVec.ofNat 64 channel⟩, 0, 0, 0, x.reftime, [], none, part⟩) (s.affectedFns part)
    (s.killPart part)).launches k m hm
  exact ⟨n, hn, hstays hkilled⟩

/-- The state of LLC_TAG_ERROR before the way is retired. -/
def State.loseChannel (s : State) (channel : Nat) : State :=
  ((s.parts.filter (fun e => s.usesChannel e.1 e.2 channel)).map Prod.fst).foldl (fun s part => s.losePart channel part) s

theorem loseChannel_mem (s : State) (channel : Nat) : (s.loseChannel channel).mem = s.mem := by
  refine foldl_mem (fun x part => ?_)
  exact (foldl_mem (fun _ _ => postLog_mem ..)).trans (killPart_mem ..)

theorem exec_llcTagError (s : State) (channel way : Nat) : exec (.llcTagError channel way) s =
    .next { s.loseChannel channel with
      retiredWays := if (s.loseChannel channel).retiredWays.contains (channel, way) then (s.loseChannel channel).retiredWays
        else (s.loseChannel channel).retiredWays ++ [(channel, way)] }.wake := rfl

/-- Settles O50: the resets by what each step leaves of groups, launches, submissions and registers; a lost channel by what stays of
launches that are killed. -/
theorem resetsAndErrors : Obligations.ResetsAndErrors := by
  unfold Obligations.ResetsAndErrors
  refine ⟨fun s => ?cold, fun s fn hfn => ?function, fun s => ?physical, fun s m clamp addr => ?violation, fun s => ?uncontained,
    fun s channel way => ?channel⟩
  case cold =>
    refine ⟨_, exec_coldReset s, rfl, rfl, rfl, rfl, rfl, rfl, rfl, rfl, rfl, rfl, rfl, rfl, rfl, fun a => ?_⟩
    refine (Bytes.read_filter s.mem (fun i => decide (hostBase ≤ i)) a).trans ?_
    by_cases ha : a < hostBase
    · rw [if_pos ha, if_neg (by simpa using ha)]
    · rw [if_neg ha, if_pos (by simpa using ha)]
  case function =>
    obtain ⟨hgroups, hlaunches, hsubs⟩ := flr_tenants s fn false
    refine ⟨_, exec_vfFlr s hfn, ?_, ?_, ?_, ?_, ?_, ?_⟩
    · rw [hgroups]
      exact fun k g hg => by simpa using find_filter (p := fun x : Group => x.fn != fn) hg
    · rw [hlaunches]
      exact fun k l hl => by simpa using find_filter (p := fun x : Launch => x.fn != fn) hl
    · rw [hsubs]
      exact fun k x hx => by simpa using find_filter (p := fun x : Submission => x.fn != fn) hx
    · rw [flr_tlb]
      exact fun x hx => by simpa using (List.mem_filter.1 hx).2
    · rw [flr_fn]
      rfl
    · rw [hgroups]
      exact fun k g hg hne => find_filter_of_find (p := fun x : Group => x.fn != fn) hg (by simpa using hne)
  case physical =>
    refine ⟨_, exec_pfFlr s, fun k g hg => ?_, rfl, rfl, rfl, fun fn _ => ?_⟩
    · rw [resetPfSpace_groups, foldl_flr_groups] at hg
      have hnone := find_filter (p := fun x : Group => !(List.range 65).contains x.fn) hg
      simp only [List.contains_eq_mem, List.mem_range, Bool.not_eq_true', decide_eq_false_iff_not] at hnone
      omega
    · obtain ⟨hbound, hvfcq⟩ := resetPfSpace_fn ((List.range 65).foldl (fun s fn => s.flr fn true) s) fn
      exact ⟨hbound.trans (foldl_flr_bound _ s fn), hvfcq⟩
  case violation =>
    obtain ⟨hmgmt, hpup, hdies⟩ := violate_spec s m clamp addr
    refine ⟨_, rfl, hmgmt, hpup, fun h => violate_msix m clamp addr h, ?_⟩
    rw [State.die, hdies]
    exact clamped_die ..
  case uncontained =>
    refine ⟨_, rfl, signal_viral .., fun h => ?_, signal_mem .., signal_groups ..⟩
    rw [signal_sent (s := { s with viral := true }) (fn := pfId) 2 h]
    rfl
  case channel =>
    refine ⟨_, exec_llcTagError s channel way, ?_, loseChannel_mem s channel, fun e he huses k l hl hpart hruns => ?_⟩
    · rw [wake_retiredWays]
      dsimp only
      split_ifs with hretired
      · simpa using hretired
      · exact List.mem_append_right _ (List.mem_singleton_self _)
    · have hhit : e.1 ∈ (s.parts.filter (fun e => s.usesChannel e.1 e.2 channel)).map Prod.fst :=
        List.mem_map.2 ⟨e, List.mem_filter.2 ⟨he, huses⟩, rfl⟩
      exact foldl_kills (losePart_doomed channel) hhit hl
        (fun u m hm hmp hmc => losePart_killed channel hm (hmp.trans hpart) (hmc.trans hruns))

end Sys2Proof.Machine

/-! What leaves the fabric alone, packets that leave where they stood, and answers to packets (20 R494, R507 to R509). -/

namespace Sys2Proof.Machine

open Sys2Proof

/-! Accesses and failures leave the fabric and the clock alone. -/

/-- The fabric and the clock are as before. -/
structure SameFabric (s t : State) : Prop where
  fabric : t.fabric = s.fabric
  units : t.units = s.units

namespace SameFabric
variable {s t u : State}

theorem refl (s : State) : SameFabric s s := ⟨rfl, rfl⟩

theorem trans (h : SameFabric s t) (k : SameFabric t u) : SameFabric s u := ⟨k.fabric.trans h.fabric, k.units.trans h.units⟩

theorem foldl {α : Type} {f : State → α → State} (h : ∀ x a, SameFabric x (f x a)) (l : List α) (s : State) :
    SameFabric s (l.foldl f s) :=
  List.foldlRecOn (motive := fun t => SameFabric s t) _ _ (.refl s) (fun _ ht a _ => ht.trans (h _ a))

theorem classify (s : State) (key die : Nat) (core : Option Nat) (w : Bool) : SameFabric s (s.classify key die core w) := by
  obtain ⟨_, _, _, _, h⟩ := classify_frame s key die core w
  rw [h]
  exact ⟨rfl, rfl⟩

theorem writeBytes (s : State) (key : Nat) (bs : List Byte) : SameFabric s (s.writeBytes key bs) := by
  obtain ⟨_, h⟩ := writeBytes_frame s key bs
  rw [h]
  exact ⟨rfl, rfl⟩

theorem writePoison (s : State) (key n : Nat) : SameFabric s (s.writePoison key n) := by
  unfold State.writePoison
  split <;> exact ⟨rfl, rfl⟩

/-- Bytes stored by one access, poisoned or not. -/
theorem stored (s : State) (key die n : Nat) (bs : List Byte) (bad : Bool) :
    SameFabric s (if bad then ((s.classify key die none true).writeBytes key bs).writePoison key n
      else (s.classify key die none true).writeBytes key bs) := by
  split
  · exact ((classify ..).trans (writeBytes ..)).trans (writePoison ..)
  · exact (classify ..).trans (writeBytes ..)

theorem storePiece (s : State) (die : Nat) (bs : List Byte) (bad : List Nat) (i key : Nat) :
    SameFabric s (s.storePiece die bs bad i key) := stored s key die _ _ (bad.contains i)

theorem decrement (s : State) (key : Nat) (count : Int) (die : Nat) : SameFabric s (s.decrement key 0 count die) := by
  unfold State.decrement
  rw [if_pos rfl]
  exact (classify ..).trans (writeBytes ..)

theorem signal (s : State) (fn vec : Nat) : SameFabric s (s.signal fn vec) := ⟨signal_fabric .., signal_units ..⟩

theorem noteWalk (s : State) (fn va : Nat) : SameFabric s (s.noteWalk fn va) := by
  unfold State.noteWalk
  split
  · exact signal ..
  · exact refl s

theorem noteFailed (s : State) (fn : Nat) (va : Option Nat) : SameFabric s (s.noteFailed fn va) := by
  have hseen (t : State) : SameFabric t (t.seenFaults fn .own) := ⟨rfl, rfl⟩
  unfold State.noteFailed
  cases va with
  | none => exact hseen s
  | some a => exact (noteWalk s fn (a % 2 ^ 64)).trans (hseen _)

end SameFabric

/-- Bytes that are stored stand in memory where nothing keeps them from there (19 R482). -/
theorem stored_mem {s : State} {key : Nat} (hv : s.viralBlocks key = false) (die n : Nat) (bs : List Byte) (bad : Bool) :
    (if bad then ((s.classify key die none true).writeBytes key bs).writePoison key n
      else (s.classify key die none true).writeBytes key bs).mem = s.mem.writeN key bs := by
  have hblocks : (s.classify key die none true).viralBlocks key = false := by
    rw [State.viralBlocks, classify_viral]
    exact hv
  split
  · rw [writePoison_mem, writeBytes_mem_of_not_blocked hblocks, classify_mem]
  · rw [writeBytes_mem_of_not_blocked hblocks, classify_mem]

theorem storePiece_mem {s : State} {key : Nat} (hv : s.viralBlocks key = false) (die : Nat) (bs : List Byte) (bad : List Nat)
    (i : Nat) : (s.storePiece die bs bad i key).mem = s.mem.writeN key ((bs.drop (16 * i)).take 16) :=
  stored_mem hv die _ _ (bad.contains i)

theorem addElement_mem {s : State} {key : Nat} (hv : s.viralBlocks key = false) (efmt e : Nat) (bs : List Byte) (bad : List Nat)
    (i : Nat) : (s.addElement efmt e bs bad i key).mem =
      s.mem.writeN key (bytesOfNat e (tileSum efmt e (natOfBytes (s.mem.readN key e)) (natAt bs (e * i) e))) :=
  stored_mem hv (homeDie key) e _ (bad.contains (e * i / 16))

/-- The next piece of data is stored, unless its home keeps it waiting. -/
theorem nextPiece_more {s : State} {ks : List Nat} {i k : Nat} (hk : ks[i]? = some k) (hw : s.homeWaits k = false) (from_ : Nat)
    (die : Nat → Nat) (bs : List Byte) (bad : List Nat) :
    s.nextPiece from_ die bs bad ks i = some (.more (s.storePiece (die k) bs bad i k) [] []) := by
  rw [State.nextPiece, hk, Option.map_some, hw]
  rfl

theorem nextPiece_none {s : State} {ks : List Nat} {i : Nat} (hk : ks.length ≤ i) (from_ : Nat) (die : Nat → Nat) (bs : List Byte)
    (bad : List Nat) : s.nextPiece from_ die bs bad ks i = none := by
  rw [State.nextPiece, List.getElem?_eq_none hk, Option.map_none]

/-! A packet that leaves where it stood. -/

/-- The fabric and its packets in inputs, and those that a partition sends itself, may have changed; nothing else. -/
theorem unbox_frame (s : State) (port : Nat) (ty : PacketType) (p : Packet) : ∃ ps l,
    s.unbox port ty p = { s with fabric := { s.fabric with ports := ps, localBox := l } } := by
  unfold State.unbox
  split <;> exact ⟨_, _, rfl⟩

/-! The commands that answers are for. -/

/-- What closes a packet of a command. -/
def FabPending.close (f : FabPending) (node vf seq : Nat) : FabPending :=
  { f with unanswered := f.unanswered.filter (fun u => !(u.dnode == node && u.dvf == vf && u.seq == seq)) }

theorem close_closed (f : FabPending) {node vf seq : Nat} {v : OpenPkt} (hv : v ∈ (f.close node vf seq).unanswered) :
    ¬ (v.dnode = node ∧ v.dvf = vf ∧ v.seq = seq) := by
  rintro ⟨rfl, rfl, rfl⟩
  simp [FabPending.close] at hv

theorem modCmd_find (s : State) (id : Nat) (g : FabPending → FabPending) :
    (s.modCmd id g).fabric.cmds.find id = (s.fabric.cmds.find id).map g := by
  rw [State.modCmd, modFabric_fabric]
  exact Assoc.find_modify ..

theorem modCmd_find_ne (s : State) {id k : Nat} (g : FabPending → FabPending) (h : k ≠ id) :
    (s.modCmd id g).fabric.cmds.find k = s.fabric.cmds.find k := by
  rw [State.modCmd, modFabric_fabric]
  exact Assoc.find_modify_ne _ _ h

theorem answered_find (s : State) (id node vf seq : Nat) :
    (s.answered id node vf seq 0).fabric.cmds.find id = (s.fabric.cmds.find id).map (fun f => f.close node vf seq) := by
  rw [State.answered, modCmd_find]
  rfl

theorem answered_find_cause (s : State) (id node vf seq : Nat) {cause : Nat} (h : cause ≠ 0) :
    (s.answered id node vf seq cause).fabric.cmds.find id =
      (s.fabric.cmds.find id).map (fun f => (f.close node vf seq).failed cause) := by
  rw [State.answered, modCmd_find]
  simp only [if_neg h]
  rfl

/-- One more access is counted in an open packet. -/
def FabPending.moved (f : FabPending) (u : OpenPkt) : FabPending :=
  { f with unanswered := f.unanswered.map (fun v => if v = u then { v with moved := v.moved + 1 } else v) }

theorem movedAnswer_find (s : State) (id : Nat) (u : OpenPkt) :
    (s.movedAnswer id u).fabric.cmds.find id = (s.fabric.cmds.find id).map (fun f => f.moved u) :=
  modCmd_find s id (fun f => f.moved u)

theorem mem_moved {f : FabPending} {u : OpenPkt} (h : u ∈ f.unanswered) : { u with moved := u.moved + 1 } ∈ (f.moved u).unanswered :=
  List.mem_map.2 ⟨u, h, if_pos rfl⟩

theorem openOf_some {s : State} {part : Nat} {p : Packet} {f : FabPending} {u : OpenPkt} (h : s.openOf part p = some (f, u)) :
    s.fabric.cmds.find p.cmdtag = some f ∧ u ∈ f.unanswered := by
  unfold State.openOf at h
  obtain ⟨f', hf, h⟩ := Option.bind_eq_some_iff.1 h
  split at h
  · obtain ⟨u', hu, he⟩ := Option.map_eq_some_iff.1 h
    cases he
    exact ⟨hf, List.mem_of_find?_eq_some hu⟩
  · cases h

/-! Answers (20 R507, R509). -/

section
variable {s : State} {port : Nat} {ty : PacketType} {p : Packet} {part : Nat} {f : FabPending} {u : OpenPkt}
  (h : Answers s port ty p part f u) {store : State → FabPending → OpenPkt → Deliver}
include h

theorem takeAnswer_done {a : PacketType} {data : List Byte} {bad : List Nat} (hd : store s f u = .done s a data bad) :
    s.takeAnswer port ty p store = ((s.unbox port ty p).answered p.cmdtag p.snode p.svf p.seq 0).wake := by
  rw [State.takeAnswer, h.here]
  dsimp only
  rw [h.open_]
  dsimp only
  rw [hd]

theorem takeAnswer_more {t : State} {got : List Byte} {bad : List Nat} (hd : store s f u = .more t got bad) :
    s.takeAnswer port ty p store = (t.movedAnswer p.cmdtag u).wake := by
  rw [State.takeAnswer, h.here]
  dsimp only
  rw [h.open_]
  dsimp only
  rw [hd]

theorem takeAnswer_refuse {c : Nat} {va : Option Nat} (hd : store s f u = .refuse c va) :
    s.takeAnswer port ty p store =
      (((s.noteFailed f.fn va).unbox port ty p).answered p.cmdtag p.snode p.svf p.seq c).wake := by
  rw [State.takeAnswer, h.here]
  dsimp only
  rw [h.open_]
  dsimp only
  rw [hd]

/-- The packet of an answer is closed. -/
theorem unbox_answered : ((s.unbox port ty p).answered p.cmdtag p.snode p.svf p.seq 0).fabric.cmds.find p.cmdtag =
    some (f.close p.snode p.svf p.seq) := by
  obtain ⟨_, _, hbox⟩ := unbox_frame s port ty p
  obtain ⟨hf, -⟩ := openOf_some h.open_
  rw [answered_find, hbox]
  exact congrArg _ hf

/-- The command of a NACK fails with its cause. -/
theorem unbox_answered_cause {c : Nat} (hc : c ≠ 0) (va : Option Nat) :
    (((s.noteFailed f.fn va).unbox port ty p).answered p.cmdtag p.snode p.svf p.seq c).fabric.cmds.find p.cmdtag =
      some ((f.close p.snode p.svf p.seq).failed c) := by
  obtain ⟨_, _, hbox⟩ := unbox_frame (s.noteFailed f.fn va) port ty p
  obtain ⟨hf, -⟩ := openOf_some h.open_
  have hcmds : ((s.noteFailed f.fn va).unbox port ty p).fabric.cmds = s.fabric.cmds := by
    rw [hbox]
    show (s.noteFailed f.fn va).fabric.cmds = _
    rw [(SameFabric.noteFailed s f.fn va).fabric]
  rw [answered_find_cause _ _ _ _ _ hc, hcmds, hf]
  rfl

/-- An answer whose data is in place closes its packet. -/
theorem answer_closes {i : Instr} (he : exec i s = .next (s.takeAnswer port ty p store)) {a : PacketType} {data : List Byte}
    {bad : List Nat} (hd : store s f u = .done s a data bad) :
    ∃ t g, exec i s = .next t ∧ t.fabric.cmds.find p.cmdtag = some g ∧
      (∀ v ∈ g.unanswered, ¬ (v.dnode = p.snode ∧ v.dvf = p.svf ∧ v.seq = p.seq)) ∧ g.cause = f.cause ∧ t.mem = s.mem := by
  refine ⟨_, f.close p.snode p.svf p.seq, he.trans (congrArg _ (takeAnswer_done h hd)), ?_, fun v hv => close_closed f hv, rfl, ?_⟩
  · rw [wake_fabric]
    exact unbox_answered h
  · rw [wake_mem, answered_mem, unbox_mem]

end

section
variable {p : Packet} {s : State} {f : FabPending} {u : OpenPkt}
  (hlive : (f.laddr = 0 && f.kind == .atomic || f.cause != 0) = false) {ks : List Nat}
  (hplaces : s.places f.fn f.part .write (accessesOf (f.laddr + u.off) p.data.length 16) = .at_ ks)
include hlive hplaces

theorem storeReturned_eq : storeReturned p 16 s f u =
    (s.nextPiece (queueDie f.q) (fun _ => queueDie f.q) p.data p.bad ks u.moved).getD (.done s .ack [] []) := by
  unfold storeReturned
  rw [hlive, hplaces]
  rfl

theorem storeReturned_piece {k : Nat} (hk : ks[u.moved]? = some k) (hw : s.homeWaits k = false) :
    storeReturned p 16 s f u = .more (s.storePiece (queueDie f.q) p.data p.bad u.moved k) [] [] := by
  rw [storeReturned_eq hlive hplaces, nextPiece_more hk hw, Option.getD_some]

theorem storeReturned_end (hk : ks.length ≤ u.moved) : storeReturned p 16 s f u = .done s .ack [] [] := by
  rw [storeReturned_eq hlive hplaces, nextPiece_none hk, Option.getD_none]

/-- Returned data is stored at LADDR, one access at a time, and then its packet is closed. -/
theorem returned_stored {port : Nat} {ty : PacketType} {part : Nat} (h : Answers s port ty p part f u) {i : Instr}
    (he : exec i s = .next (s.takeAnswer port ty p (storeReturned p 16))) :
    let piece : List Byte := (p.data.drop (16 * u.moved)).take 16
    (∀ k, ks[u.moved]? = some k → s.homeWaits k = false → s.viralBlocks k = false → s.mem.wf = true →
      ∃ t g, exec i s = .next t ∧ t.mem.readN k piece.length = piece ∧ sameOutside s.mem t.mem k piece.length ∧
        t.fabric.cmds.find p.cmdtag = some g ∧ { u with moved := u.moved + 1 } ∈ g.unanswered) ∧
    (ks.length ≤ u.moved →
      ∃ t g, exec i s = .next t ∧ t.mem = s.mem ∧ t.fabric.cmds.find p.cmdtag = some g ∧
        (∀ v ∈ g.unanswered, ¬ (v.dnode = p.snode ∧ v.dvf = p.svf ∧ v.seq = p.seq)) ∧ g.cause = f.cause) := by
  refine ⟨fun k hk hw hv hwf => ?_, fun hend => ?_⟩
  · obtain ⟨hf, hu⟩ := openOf_some h.open_
    obtain ⟨hread, hout⟩ := stored_of_mem hwf (storePiece_mem hv (queueDie f.q) p.data p.bad u.moved) rfl
    refine ⟨_, f.moved u, he.trans (congrArg _ (takeAnswer_more h (storeReturned_piece hlive hplaces hk hw))), ?_, ?_, ?_, mem_moved hu⟩
    · rwa [wake_mem, movedAnswer_mem]
    · rwa [wake_mem, movedAnswer_mem]
    · rw [wake_fabric, movedAnswer_find, (SameFabric.storePiece ..).fabric, hf]
      rfl
  · obtain ⟨t, g, ht, hg, hclosed, hcause, hmem⟩ := answer_closes h he (storeReturned_end hlive hplaces hend)
    exact ⟨t, g, ht, hmem, hg, hclosed, hcause⟩

end

end Sys2Proof.Machine

/-! Transit, links and lost members (20 R495 to R504, R513). -/

namespace Sys2Proof.Machine

open Sys2Proof

/-! Transit (20 R495, R498 to R501, R504). -/

theorem wake_port (s : State) (n : Nat) : s.wake.port n = s.port n := rfl

theorem head_mem {q : Port} {vc : Nat} {x : InPacket} (h : q.head vc = some x) : x ∈ q.inq := List.mem_of_find?_eq_some h

theorem head_vc {q : Port} {vc : Nat} {x : InPacket} (h : q.head vc = some x) : x.vc = vc := by
  simpa using List.find?_some h

/-- A packet that heads its VC, has no hop yet and is not local asks for one. -/
theorem asks_of_head {s : State} {part port : Nat} {x : InPacket} (hhead : (s.port port).head x.vc = some x) (hroute : x.route = none)
    (hdropped : x.dropped = false) (haway : x.pkt.dnode ≠ s.pnode part) : s.asks part port x = true := by
  simp [State.asks, Port.heads, hhead, hroute, hdropped, haway]

theorem replace_mem {x y : InPacket} {l : List InPacket} (h : x ∈ l) : y ∈ l.replace x y := by
  induction l with
  | nil => cases h
  | cons a l ih =>
    by_cases ha : x = a
    · simp [ha]
    · simp [List.replace_cons, beq_false_of_ne ha, ih ((List.mem_cons.1 h).resolve_left ha)]

/-- A packet that is granted its hop stands in its input with it. -/
theorem grant_route (s : State) {port : Nat} {x : InPacket} (out : Nat × Nat) (h : x ∈ (s.port port).inq) :
    ∃ y ∈ ((s.grant port x out).port port).inq, y.pkt = x.pkt ∧ y.vc = x.vc ∧ y.route = some out := by
  let y : InPacket :=
    { x with route := some out, refused := none, lent := if out.2 = 7 then 0 else Nat.min (s.port out.1).far.shared x.pkt.flits }
  refine ⟨y, ?_, rfl, rfl, rfl⟩
  unfold State.grant
  dsimp only
  rw [modPort_port]
  refine replace_mem ?_
  by_cases hp : port = out.1
  · subst hp
    rw [modPort_port]
    split <;> exact h
  · rwa [modPort_port_ne _ _ hp]

/-- It takes its slots at the far end, but on VC7. -/
theorem grant_far (s : State) (port : Nat) (x : InPacket) {out : Nat × Nat} (h : out.2 ≠ 7) :
    ((s.grant port x out).port out.1).far = (s.port out.1).far.take out.2 x.pkt.flits := by
  unfold State.grant
  dsimp only
  by_cases hp : out.1 = port
  · subst hp
    rw [modPort_port, modPort_port, if_neg h]
    rfl
  · rw [modPort_port_ne _ _ hp, modPort_port, if_neg h]

section
variable {s : State} {port part : Nat} {x : InPacket} (howner : s.inputOwner port = some part)
  (hhead : (s.port port).head x.vc = some x) (hroute : x.route = none) (hdropped : x.dropped = false)
  (haway : x.pkt.dnode ≠ s.pnode part)
include howner hhead hroute hdropped haway

theorem exec_forwardedPacket_hop {out : Nat × Nat} (hesc : x.esc = false) (hhop : s.nextHop part x.pkt.dnode x.vc = some out) (room : Bool) :
    exec (.forwardedPacket port x.vc x.ty x.pkt room) s =
      .next (if room && (s.port out.1).roomFar out.2 x.pkt.flits && s.winsOutput part port x out then (s.grant port x out).wake else s) := by
  show execForwardedPacket port x.vc x.ty x.pkt room s = _
  rw [execForwardedPacket, howner, hhead]
  simp [InPacket.is, hesc, asks_of_head hhead hroute hdropped haway, hhop]

theorem exec_forwardedPacket_refused (hesc : x.esc = false) (hhop : s.nextHop part x.pkt.dnode x.vc = none) (room : Bool) :
    exec (.forwardedPacket port x.vc x.ty x.pkt room) s =
      .next ((s.modPort port (fun q => q.discard x s.fabricCycle)).giveUp part 0x09 (decide (144 ≤ port)) x.ty x.pkt).wake := by
  show execForwardedPacket port x.vc x.ty x.pkt room s = _
  rw [execForwardedPacket, howner, hhead]
  simp [InPacket.is, hesc, asks_of_head hhead hroute hdropped haway, hhop]

theorem exec_escape_hop {out : Nat} (hhop : s.routeEsc part x.pkt.dnode = some out) :
    exec (.escape port x.vc) s = .next (if x.esc && (s.port out).roomFar 7 1 && s.winsOutput part port x (out, 7)
      then (s.grant port x (out, 7)).wake else s) := by
  show execEscape port x.vc s = _
  rw [execEscape, howner, hhead]
  simp only [asks_of_head hhead hroute hdropped haway, hhop, Bool.and_true]

theorem exec_escape_stays (hesc : x.esc = false) : exec (.escape port x.vc) s = .next s := by
  cases hhop : s.routeEsc part x.pkt.dnode with
  | some out => rw [exec_escape_hop howner hhead hroute hdropped haway hhop, hesc]; rfl
  | none =>
    show execEscape port x.vc s = _
    rw [execEscape, howner, hhead]
    simp only [hhop]

end

/-- A packet for another node is injected, and one of a port leaves that where it is. -/
theorem sendPkt_inject {s : State} {part : Nat} {p : Packet} (vc : Nat) (ty : PacketType) (h : p.dnode ≠ s.pnode part) :
    s.sendPkt part vc ty p =
      s.modPort (injectPort part) (fun x => { x with inq := x.inq ++ [.injected vc ty p s.fabricCycle] }) := if_neg h

/-- What a packet of elsewhere that is given up gives its SNODE. -/
theorem giveUp_nack {s : State} {part port : Nat} (hport : port < 144) {p : Packet} (h : p.snode ≠ s.pnode part) (cause : Nat)
    (ty : PacketType) (f : Port → Port) :
    (((s.modPort port f).giveUp part cause (decide (144 ≤ port)) ty p).port (injectPort part)).inq =
      (s.port (injectPort part)).inq ++ [.injected 4 .nack (p.answer p.domain cause [] []) s.fabricCycle] := by
  have hne : injectPort part ≠ port := by unfold injectPort; omega
  have hlow : decide (144 ≤ port) = false := decide_eq_false (by omega)
  have hsend : (p.answer p.domain cause [] []).dnode ≠ (s.modPort port f).pnode part := h
  rw [State.giveUp, if_neg (show ¬ p.snode = (s.modPort port f).pnode part from h), hlow, if_neg Bool.false_ne_true, State.reply,
    sendPkt_inject _ _ hsend, modPort_port, modPort_port_ne _ _ hne]
  rfl

/-! The escape VC (20 R500). -/

/-- What a packet that has been refused for 64 cycles becomes. -/
def State.escaped (s : State) (part : Nat) (x : InPacket) : InPacket :=
  { x with esc := x.esc ||
      (((x.refused.map (fun c => decide (c + 64 ≤ s.fabricCycle))).getD false) && (s.routeEsc part x.pkt.dnode).isSome) }

/-- What becomes of the packets of an input. -/
def State.escapedPort (s : State) (n : Nat) (q : Port) : Port :=
  ((s.inputOwner n).map (fun part => { q with inq := q.inq.map (s.escaped part) })).getD q

theorem latchEscapes_ports (s : State) :
    s.latchEscapes.fabric.ports = s.fabric.ports.map (fun e => (e.1, s.escapedPort e.1 e.2)) := by
  refine List.map_congr_left fun e _ => ?_
  unfold State.escapedPort
  cases s.inputOwner e.1 <;> rfl

theorem latchEscapes_inq {s : State} {port part : Nat} (howner : s.inputOwner port = some part) :
    (s.latchEscapes.port port).inq = (s.port port).inq.map (s.escaped part) := by
  have hfind : s.latchEscapes.fabric.ports.find port = (s.fabric.ports.find port).map (s.escapedPort port) := by
    rw [latchEscapes_ports]
    exact Assoc.find_map ..
  unfold State.port Assoc.getD
  rw [hfind]
  cases s.fabric.ports.find port with
  | none => rfl
  | some q => simp [State.escapedPort, howner]

/-! Flits (20 R498, R503). -/

section
variable {s : State} {port : Nat} {f : Flit} (hport : port < 144) (hup : (s.port port).up = true)
include hport hup

theorem flitIn_bad (h : f.crc ≠ f.check) : s.flitIn port f = s.modPort port (fun x =>
    { x with ask := some x.rxSeq, mismatches := x.mismatches + (if f.seq = x.rxSeq then 1 else 0) }) := by
  simp [State.flitIn, Nat.not_le.2 hport, hup, h]

theorem flitIn_unexpected (h : f.crc = f.check) (hseq : f.seq ≠ (s.port port).rxSeq) : s.flitIn port f = s := by
  simp [State.flitIn, Nat.not_le.2 hport, hup, h, hseq]

/-- The port after the expected flit, as far as its credits go. -/
def Port.expected (x : Port) (f : Flit) : Port :=
  { x with rxSeq := x.rxSeq + 1, ask := none, mismatches := 0, far := x.far.plus f.credits }

theorem flitIn_credits (h : f.crc = f.check) (hseq : f.seq = (s.port port).rxSeq) (hbody : f.body = none) :
    s.flitIn port f = (s.modPort port (fun x => x.expected f)).wake := by
  simp only [State.flitIn, Nat.not_le.2 hport, hup, h, hseq, hbody, decide_false, Bool.not_true, Bool.or_self, Bool.false_eq_true,
    if_false, bne_self_eq_false, ne_eq, not_true_eq_false, Option.isSome_none, Bool.false_and]
  rfl

theorem flitIn_packet {ty : PacketType} {p : Packet} {i : Nat} (h : f.crc = f.check) (hseq : f.seq = (s.port port).rxSeq)
    (hbody : f.body = some (ty, p, i)) (hfree : (s.port port).slotFree s.fabricCycle f = true) :
    ∃ local_ now, s.flitIn port f = ((s.modPort port (fun x => x.expected f)).modPort port (fun x => x.accept f ty p i local_ now)).wake := by
  refine ⟨(s.portOwner port).any (fun o => s.pnode o == p.dnode), s.fabricCycle, ?_⟩
  simp only [State.flitIn, Nat.not_le.2 hport, hup, h, hseq, hbody, hfree, decide_false, Bool.not_true, Bool.or_self, Bool.false_eq_true,
    if_false, bne_self_eq_false, ne_eq, not_true_eq_false, Option.isSome_some, Bool.and_false]
  rfl

end

/-- The first flit of a packet that is not there yet enters an input. -/
theorem accept_first {q : Port} {f : Flit} {ty : PacketType} {p : Packet} (hvc : f.vc ≤ 6)
    (hnew : ∀ y ∈ q.inq, y.is f.vc ty p = false) (local_ : Bool) (now : Nat) :
    (q.accept f ty p 0 local_ now).rxSeq = q.rxSeq ∧
      ∃ y ∈ (q.accept f ty p 0 local_ now).inq, y.is f.vc ty p = true ∧ y.arrived = 1 ∧ y.slots = [f.shared] := by
  let x : InPacket := ⟨f.vc, ty, p, now, 0, 0, [], none, false, false, none, 0⟩
  have hx : x.is f.vc ty p = true := by simp [x, InPacket.is]
  have hfind : (q.inq ++ [x]).find? (fun z => z.is f.vc ty p && z.arrived == 0) = some x := by
    rw [List.find?_append, List.find?_eq_none.2 (fun y hy => by simp [hnew y hy])]
    simp [hx, x]
  have haccept : q.accept f ty p 0 local_ now =
      { q with inq := ((q.inq ++ [x]).replace x { x with arrived := 1, slots := [f.shared] }).filter
                 (fun z => !(z.dropped && z.arrived == z.pkt.flits)) } := by
    have hnot : (f.vc == 7) = false := beq_false_of_ne (by omega)
    unfold Port.accept
    rw [if_pos rfl]
    dsimp only
    rw [hfind]
    simp only [x, hnot, Bool.false_and, Bool.or_self, Bool.false_eq_true, if_false, List.nil_append]
  rw [haccept]
  refine ⟨rfl, { x with arrived := 1, slots := [f.shared] }, List.mem_filter.2 ⟨replace_mem (by simp), rfl⟩, ?_, rfl, rfl⟩
  simp [x, InPacket.is]

/-! Links that go down (20 R504). -/

/-- Links are as they were, up or down, with what they may have to send again. -/
def SameLinks (s t : State) : Prop := ∀ n, (t.port n).up = (s.port n).up ∧ (t.port n).retry = (s.port n).retry

/-- The functions and the clock are as before. -/
structure SameClocks (s t : State) : Prop where
  fns : t.fns = s.fns
  units : t.units = s.units

theorem sendPkt_sameLinks (s : State) (part vc : Nat) (ty : PacketType) (p : Packet) : SameLinks s (s.sendPkt part vc ty p) := by
  intro n
  unfold State.sendPkt
  split
  · exact ⟨rfl, rfl⟩
  · by_cases hn : n = injectPort part
    · subst hn
      rw [modPort_port]
      exact ⟨rfl, rfl⟩
    · rw [modPort_port_ne _ _ hn]
      exact ⟨rfl, rfl⟩

theorem giveUp_sameLinks (s : State) (part cause : Nat) (injected : Bool) (ty : PacketType) (p : Packet) :
    SameLinks s (s.giveUp part cause injected ty p) := by
  unfold State.giveUp
  split
  · split
    · split_ifs
      · exact fun _ => ⟨rfl, rfl⟩
      · exact fun _ => ⟨rfl, rfl⟩
    · exact fun _ => ⟨rfl, rfl⟩
  · split_ifs
    · exact fun _ => ⟨rfl, rfl⟩
    · exact sendPkt_sameLinks s part 4 .nack (p.answer p.domain cause [] [])

theorem sendPkt_sameClocks (s : State) (part vc : Nat) (ty : PacketType) (p : Packet) : SameClocks s (s.sendPkt part vc ty p) := by
  unfold State.sendPkt
  split <;> exact ⟨rfl, rfl⟩

theorem giveUp_sameClocks (s : State) (part cause : Nat) (injected : Bool) (ty : PacketType) (p : Packet) :
    SameClocks s (s.giveUp part cause injected ty p) := by
  unfold State.giveUp
  split
  · split
    · split_ifs <;> exact ⟨rfl, rfl⟩
    · exact ⟨rfl, rfl⟩
  · split_ifs
    · exact ⟨rfl, rfl⟩
    · exact sendPkt_sameClocks ..

theorem SameLinks.trans {s t u : State} (h : SameLinks s t) (k : SameLinks t u) : SameLinks s u :=
  fun n => ⟨(k n).1.trans (h n).1, (k n).2.trans (h n).2⟩

theorem SameLinks.foldl {α : Type} {f : State → α → State} (h : ∀ x a, SameLinks x (f x a)) (l : List α) (s : State) :
    SameLinks s (l.foldl f s) :=
  List.foldlRecOn (motive := fun t => SameLinks s t) _ _ (fun _ => ⟨rfl, rfl⟩) (fun _ ht a _ => ht.trans (h _ a))

theorem SameClocks.foldl {α : Type} {f : State → α → State} (h : ∀ x a, SameClocks x (f x a)) (l : List α) (s : State) :
    SameClocks s (l.foldl f s) :=
  List.foldlRecOn (motive := fun t => SameClocks s t) _ _ ⟨rfl, rfl⟩
    (fun t ht a _ => ⟨(h t a).fns.trans ht.fns, (h t a).units.trans ht.units⟩)

/-- A link that is closed is down, and keeps nothing to send again. -/
theorem closeLink_port (s : State) (port : Nat) :
    ((s.closeLink port).port port).up = false ∧ ((s.closeLink port).port port).retry = [] := by
  unfold State.closeLink
  extract_lets x queued waiting sent held t r u
  have hdown : (u.port port).up = false ∧ (u.port port).retry = [] := by
    rw [show u.port port = _ from modPort_port ..]
    exact ⟨rfl, rfl⟩
  clear_value u
  split
  case h_1 part _ =>
    obtain ⟨hup, hretry⟩ := SameLinks.foldl
      (fun t (e : PacketType × Packet × Bool) => giveUp_sameLinks t part 0x0A e.2.2 e.1 e.2.1) held u port
    exact ⟨hup.trans hdown.1, hretry.trans hdown.2⟩
  case h_2 => exact hdown

theorem closeLink_sameClocks (s : State) (port : Nat) : SameClocks s (s.closeLink port) := by
  unfold State.closeLink
  extract_lets x queued waiting sent held t r u
  have hqueued : SameClocks s t :=
    .foldl (f := fun s e => s.modPort e.1 (fun p => p.discard e.2 s.fabricCycle)) (fun _ _ => ⟨rfl, rfl⟩) queued s
  have hclosed : SameClocks s u := ⟨hqueued.fns, hqueued.units⟩
  clear_value u
  split
  case h_1 part _ =>
    have hgiven : SameClocks u _ :=
      .foldl (fun t (e : PacketType × Packet × Bool) => giveUp_sameClocks t part 0x0A e.2.2 e.1 e.2.1) held u
    exact ⟨hgiven.fns.trans hclosed.fns, hgiven.units.trans hclosed.units⟩
  case h_2 => exact hclosed

/-- Records wait for their rings: the fabric and the clock are as before, and every function has sent the messages that it had. -/
structure Logged (s t : State) : Prop extends SameFabric s t where
  sent : ∀ k, (t.fn k).sent = (s.fn k).sent

theorem postLog_logged (s : State) (f part : Nat) (cause : Word) (addr : Nat) (detail : List Byte) :
    Logged s (s.postLog f part cause addr detail) := by
  have hfn (u : Fn → Fn) (hu : ∀ x, (u x).sent = x.sent) : Logged s (s.modFn f u) := by
    refine ⟨⟨rfl, rfl⟩, fun k => ?_⟩
    by_cases hk : k = f
    · subst hk
      rw [modFn_fn]
      exact hu _
    · rw [modFn_fn_ne _ _ hk]
  unfold State.postLog State.postRecord
  split
  · exact hfn _ fun _ => rfl
  · exact hfn _ fun _ => rfl

theorem Logged.foldl {α : Type} {f : State → α → State} (h : ∀ x a, Logged x (f x a)) (l : List α) (s : State) :
    Logged s (l.foldl f s) :=
  List.foldlRecOn (motive := fun t => Logged s t) _ _ ⟨.refl s, fun _ => rfl⟩
    (fun t ht a _ => ⟨ht.toSameFabric.trans (h t a).toSameFabric, fun k => ((h t a).sent k).trans (ht.sent k)⟩)

/-- The detail of the record of a link that went down. -/
def linkDetail (port : Nat) : List Byte :=
  bytesOfNat 1 0xFF ++ bytesOfNat 1 (port / 36) ++ bytesOfNat 1 0x0A ++ bytesOfNat 5 0 ++ bytesOfNat 8 port

/-- The records of a link that went down, one for each function of its partition. -/
def State.logLink (s : State) (port part : Nat) : State :=
  (s.tenants part).foldl (fun t fn =>
    t.postLog fn part (BitVec.ofNat 32 (Cause.cmdfail.code + 2 ^ 8 * AccessKind.engine.code)) 0 (linkDetail port)) s

theorem exec_linkDown {s : State} {port part : Nat} (howner : s.portOwner port = some part)
    (hfall : (s.port port).mustFall s.units = true) :
    exec (.linkDown port) s = .next (((s.closeLink port).logLink port part).signal pfId 2).wake := by
  show execLinkDown port s = _
  unfold execLinkDown
  rw [hfall, howner]
  rfl

theorem exec_linkDown_stays {s : State} {port : Nat} (h : (s.port port).mustFall s.units = false) : exec (.linkDown port) s = .next s := by
  show execLinkDown port s = _
  rw [execLinkDown, h]
  rfl

theorem exec_linkRetry {s : State} {port n : Nat} (hup : (s.port port).up = true)
    (hagain : (s.port port).retry.filter (fun f => decide (n ≤ f.seq)) ≠ []) :
    exec (.linkRetry port n) s = .next (s.modPort port (fun x =>
      { x with resend := (s.port port).retry.filter (fun f => decide (n ≤ f.seq)),
               retries := x.retries + BitVec.ofNat 32 ((s.port port).retry.filter (fun f => decide (n ≤ f.seq))).length,
               fails := if x.fails.1 = n then (n, x.fails.2 + 1) else (n, 1) })).wake := by
  show execLinkRetry port n s = _
  simp [execLinkRetry, hup, hagain]

theorem exec_linkTrained {s : State} {port : Nat} (hen : (s.port port).en = true) (htrain : (s.port port).training = true) :
    exec (.linkTrained port) s = .next (s.modPort port (fun x => { x with up := true, training := false })).wake := by
  show execLinkTrained port s = _
  rw [execLinkTrained, hen, htrain]
  rfl

theorem exec_linkTrained_stays {s : State} {port : Nat} (h : (s.port port).en = false ∨ (s.port port).training = false) :
    exec (.linkTrained port) s = .next s := by
  show execLinkTrained port s = _
  rw [execLinkTrained, if_neg]
  rcases h with h | h <;> simp [h]

/-! Lost members (20 R513). -/

/-- A member of a function's collective is lost, and the function's commands to it have failed. -/
structure MemberIsLost (fn coll : Nat) (node : Nat × Nat) (t : State) : Prop where
  members : ∀ w ∈ t.fabric.members, w.fn = fn → w.coll = coll → node ∈ w.members → node ∈ w.lost
  cmds : ∀ e ∈ t.fabric.cmds, e.2.fn = fn → e.2.kind ≠ .leave → e.2.kind ≠ .join → node ∈ e.2.dests →
    e.2.cause ≠ 0 ∧ e.2.unanswered = []

/-- A membership with one more lost member. -/
def Membership.lose (m : Membership) (node : Nat × Nat) : Membership :=
  { m with lost := if m.members.contains node && !m.lost.contains node then m.lost ++ [node] else m.lost }

/-- The memberships of one collective of a function, one of them with one more lost member. -/
def Membership.loseOf (m : Membership) (fn coll : Nat) (node : Nat × Nat) : Membership :=
  if m.fn = fn ∧ m.coll = coll then m.lose node else m

/-- A command fails when a member is lost. -/
def FabPending.losesTo (f : FabPending) (fn coll : Nat) (node : Nat × Nat) : Bool :=
  f.fn == fn && f.kind != .leave && (if f.kind = .join then f.coll == coll else f.dests.contains node)

/-- What becomes of a command of which a destination is lost. -/
def FabPending.lose (f : FabPending) (fn coll : Nat) (node : Nat × Nat) : FabPending :=
  if f.losesTo fn coll node then
    { f.failed 0x0E with unanswered := [] }
  else if f.fn == fn && f.dests.contains node then
    { f with unanswered := f.unanswered.filter (fun u => (u.dnode, u.dvf) != node) }
  else f

theorem loseMember_members (s : State) (fn coll : Nat) (node : Nat × Nat) :
    (s.loseMember fn coll node).fabric.members = s.fabric.members.map (fun m => m.loseOf fn coll node) := rfl

theorem loseMember_cmds (s : State) (fn coll : Nat) (node : Nat × Nat) :
    (s.loseMember fn coll node).fabric.cmds = s.fabric.cmds.map (fun e => (e.1, e.2.lose fn coll node)) := by
  refine List.map_congr_left fun e _ => ?_
  rw [FabPending.lose, apply_ite (Prod.mk e.1), apply_ite (Prod.mk e.1)]
  rfl

theorem lose_same (m : Membership) (fn coll : Nat) (node : Nat × Nat) : (m.loseOf fn coll node).fn = m.fn ∧
    (m.loseOf fn coll node).coll = m.coll ∧ (m.loseOf fn coll node).members = m.members := by
  unfold Membership.loseOf
  split_ifs <;> exact ⟨rfl, rfl, rfl⟩

theorem mem_lose {m : Membership} {node : Nat × Nat} (h : node ∈ m.members) : node ∈ (m.lose node).lost := by
  unfold Membership.lose
  by_cases hl : node ∈ m.lost <;> simp [h, hl]

theorem mem_lose_of_mem {m : Membership} {node : Nat × Nat} (fn coll : Nat) (h : node ∈ m.lost) : node ∈ (m.loseOf fn coll node).lost := by
  unfold Membership.loseOf
  split_ifs
  · simp [Membership.lose, h]
  · exact h

theorem pending_lose_same (f : FabPending) (fn coll : Nat) (node : Nat × Nat) : (f.lose fn coll node).fn = f.fn ∧
    (f.lose fn coll node).kind = f.kind ∧ (f.lose fn coll node).dests = f.dests := by
  unfold FabPending.lose
  split_ifs <;> exact ⟨rfl, rfl, rfl⟩

theorem failed_cause (f : FabPending) {c : Nat} (h : c ≠ 0) : (f.failed c).cause ≠ 0 := by
  unfold FabPending.failed
  dsimp only
  split_ifs <;> assumption

theorem pending_lose_hit {f : FabPending} {fn coll : Nat} {node : Nat × Nat} (hfn : f.fn = fn) (hleave : f.kind ≠ .leave)
    (hjoin : f.kind ≠ .join) (hnode : node ∈ f.dests) : (f.lose fn coll node).cause ≠ 0 ∧ (f.lose fn coll node).unanswered = [] := by
  unfold FabPending.lose
  rw [if_pos (by simp [FabPending.losesTo, hfn, hleave, hjoin, hnode])]
  exact ⟨failed_cause f (by decide), rfl⟩

theorem pending_lose_keeps {f : FabPending} (fn coll : Nat) (node : Nat × Nat) (h : f.cause ≠ 0 ∧ f.unanswered = []) :
    (f.lose fn coll node).cause ≠ 0 ∧ (f.lose fn coll node).unanswered = [] := by
  unfold FabPending.lose
  split_ifs
  · exact ⟨failed_cause f (by decide), rfl⟩
  · exact ⟨h.1, by rw [h.2]; rfl⟩
  · exact h

/-- A member that is lost to a function is. -/
theorem loseMember_isLost (s : State) (fn coll : Nat) (node : Nat × Nat) : MemberIsLost fn coll node (s.loseMember fn coll node) := by
  refine ⟨fun w hw hfn hcoll hnode => ?_, fun e he hfn hleave hjoin hnode => ?_⟩
  · rw [loseMember_members] at hw
    obtain ⟨m, -, rfl⟩ := List.mem_map.1 hw
    obtain ⟨hmfn, hmcoll, hmembers⟩ := lose_same m fn coll node
    rw [hmembers] at hnode
    rw [Membership.loseOf, if_pos ⟨hmfn.symm.trans hfn, hmcoll.symm.trans hcoll⟩]
    exact mem_lose hnode
  · rw [loseMember_cmds] at he
    obtain ⟨d, -, rfl⟩ := List.mem_map.1 he
    obtain ⟨hdfn, hkind, hdests⟩ := pending_lose_same d.2 fn coll node
    dsimp only at hfn hleave hjoin hnode
    rw [hdfn] at hfn
    rw [hkind] at hleave hjoin
    rw [hdests] at hnode
    exact pending_lose_hit hfn hleave hjoin hnode

/-- It stays so while it is lost to others. -/
theorem loseMember_stays {s : State} {fn coll : Nat} {node : Nat × Nat} (h : MemberIsLost fn coll node s) (fn' coll' : Nat) :
    MemberIsLost fn coll node (s.loseMember fn' coll' node) := by
  refine ⟨fun w hw hfn hcoll hnode => ?_, fun e he hfn hleave hjoin hnode => ?_⟩
  · rw [loseMember_members] at hw
    obtain ⟨m, hm, rfl⟩ := List.mem_map.1 hw
    obtain ⟨hmfn, hmcoll, hmembers⟩ := lose_same m fn' coll' node
    rw [hmembers] at hnode
    exact mem_lose_of_mem _ _ (h.members m hm (hmfn.symm.trans hfn) (hmcoll.symm.trans hcoll) hnode)
  · rw [loseMember_cmds] at he
    obtain ⟨d, hd, rfl⟩ := List.mem_map.1 he
    obtain ⟨hdfn, hkind, hdests⟩ := pending_lose_same d.2 fn' coll' node
    dsimp only at hfn hleave hjoin hnode
    rw [hdfn] at hfn
    rw [hkind] at hleave hjoin
    rw [hdests] at hnode
    exact pending_lose_keeps _ _ _ (h.cmds d hd hfn hleave hjoin hnode)

/-- It is lost to the functions of all memberships that lose it. -/
theorem foldl_loseMember_isLost (node : Nat × Nat) {ms : List Membership} {m : Membership} (hm : m ∈ ms) (s : State) :
    MemberIsLost m.fn m.coll node (ms.foldl (fun t m => t.loseMember m.fn m.coll node) s) := by
  obtain ⟨before, behind, rfl⟩ := List.append_of_mem hm
  rw [List.foldl_append, List.foldl_cons]
  exact List.foldlRecOn (motive := fun t => MemberIsLost m.fn m.coll node t) _ _ (loseMember_isLost ..)
    (fun _ ht w _ => loseMember_stays ht w.fn w.coll)

/-- A member has not been reached for 10 microseconds. -/
def State.memberLate (s : State) (node : Nat × Nat) (m : Membership) : Bool :=
  m.away.any (fun a => a.1 == node && decide (a.2 + 10000 * Config.unitsPerNs ≤ s.units)) && !m.lost.contains node

theorem exec_memberLost (s : State) (node vf : Nat) : exec (.memberLost node vf) s =
    .next ((s.fabric.members.filter (s.memberLate (node, vf))).foldl (fun t m => t.loseMember m.fn m.coll (node, vf)) s).wake := rfl

theorem memberLate_of {s : State} {node : Nat × Nat} {m : Membership} (hlost : node ∉ m.lost)
    (hlate : ∃ u, (node, u) ∈ m.away ∧ u + 10000 * Config.unitsPerNs ≤ s.units) : s.memberLate node m = true := by
  obtain ⟨u, hu, hle⟩ := hlate
  simp only [State.memberLate, Bool.and_eq_true, List.any_eq_true, Bool.not_eq_true', List.contains_eq_mem, decide_eq_false_iff_not]
  exact ⟨⟨(node, u), hu, by simpa using hle⟩, hlost⟩

end Sys2Proof.Machine

/-! Answers, transit, links and members: the obligation (20 R495 to R504, R509, R513). -/

namespace Sys2Proof.Machine

open Sys2Proof

theorem answers_spec (s : State) (port : Nat) (p : Packet) (part : Nat) (f : FabPending) (u : OpenPkt) :
    let closed (g : FabPending) : Prop := ∀ v ∈ g.unanswered, ¬ (v.dnode = p.snode ∧ v.dvf = p.svf ∧ v.seq = p.seq)
    (Answers s port .ack p part f u → ∃ t g, exec (.ack port p) s = .next t ∧ t.fabric.cmds.find p.cmdtag = some g ∧ closed g ∧
      g.cause = f.cause ∧ t.mem = s.mem) ∧
    (Answers s port .nack p part f u → p.cause ≠ 0 → ∃ t g, exec (.nack port p) s = .next t ∧ t.fabric.cmds.find p.cmdtag = some g ∧
      closed g ∧ g.cause = (if f.cause = 0 then p.cause else f.cause) ∧ t.mem = s.mem) := by
  refine ⟨fun h => answer_closes h rfl rfl, fun h hc => ?_⟩
  refine ⟨_, (f.close p.snode p.svf p.seq).failed p.cause, congrArg Host.Outcome.next (takeAnswer_refuse h rfl), ?_,
    fun v hv => close_closed f hv, rfl, ?_⟩
  · rw [wake_fabric]
    exact unbox_answered_cause h hc none
  · rw [wake_mem, answered_mem, unbox_mem, noteFailed_mem]

/-- What returns to a command that has not failed is stored. -/
theorem storeReturned_live {f : FabPending} (hcause : f.cause = 0) (h : f.kind = .getRequest ∨ f.laddr ≠ 0) :
    (f.laddr = 0 && f.kind == .atomic || f.cause != 0) = false := by
  rcases h with h | h <;> simp [hcause, h]

theorem transit_spec {s : State} {port part : Nat} {x : InPacket} (howner : s.inputOwner port = some part)
    (hhead : (s.port port).head x.vc = some x) (hroute : x.route = none) (hdropped : x.dropped = false)
    (haway : x.pkt.dnode ≠ s.pnode part) :
    let onItsWay (t : State) (out : Nat × Nat) : Prop := ∃ y ∈ (t.port port).inq, y.pkt = x.pkt ∧ y.vc = x.vc ∧ y.route = some out
    (∀ out, x.esc = false → s.nextHop part x.pkt.dnode x.vc = some out → (s.port out.1).roomFar out.2 x.pkt.flits = true →
      s.winsOutput part port x out = true →
      ∃ t, exec (.forwardedPacket port x.vc x.ty x.pkt true) s = .next t ∧ onItsWay t out ∧
        (out.2 ≠ 7 → (t.port out.1).far = (s.port out.1).far.take out.2 x.pkt.flits)) ∧
    (∀ out room, x.esc = false → s.nextHop part x.pkt.dnode x.vc = some out → (s.port out.1).roomFar out.2 x.pkt.flits = false ∨ room = false →
      exec (.forwardedPacket port x.vc x.ty x.pkt room) s = .next s) ∧
    (∀ room, x.esc = false → s.nextHop part x.pkt.dnode x.vc = none → port < 144 → x.pkt.snode ≠ s.pnode part →
      ∃ t, exec (.forwardedPacket port x.vc x.ty x.pkt room) s = .next t ∧ t.mem = s.mem ∧
        (t.port (injectPort part)).inq = (s.port (injectPort part)).inq ++
          [.injected 4 .nack (x.pkt.answer x.pkt.domain 0x09 [] []) s.fabricCycle]) ∧
    (∀ out, x.esc = true → s.routeEsc part x.pkt.dnode = some out → (s.port out).roomFar 7 1 = true →
      s.winsOutput part port x (out, 7) = true → ∃ t, exec (.escape port x.vc) s = .next t ∧ onItsWay t (out, 7)) ∧
    (x.esc = false → exec (.escape port x.vc) s = .next s) := by
  have hmem := head_mem hhead
  refine ⟨fun out hesc hhop hroom hwins => ?granted, fun out room hesc hhop hroom => ?full, fun room hesc hhop hport hsnode => ?noRoute,
    fun out hesc hhop hroom hwins => ?escapes, exec_escape_stays howner hhead hroute hdropped haway⟩
  case granted =>
    have he := exec_forwardedPacket_hop howner hhead hroute hdropped haway hesc hhop true
    rw [hroom, hwins] at he
    exact ⟨_, he, grant_route s out hmem, grant_far s port x⟩
  case full =>
    rw [exec_forwardedPacket_hop howner hhead hroute hdropped haway hesc hhop room, if_neg]
    rcases hroom with h | h <;> simp [h]
  case noRoute =>
    refine ⟨_, exec_forwardedPacket_refused howner hhead hroute hdropped haway hesc hhop room, ?_, ?_⟩
    · rw [wake_mem, giveUp_mem, modPort_mem]
    · exact giveUp_nack hport hsnode 0x09 x.ty (fun q => q.discard x s.fabricCycle)
  case escapes =>
    have he := exec_escape_hop howner hhead hroute hdropped haway hhop
    rw [hesc, hroom, hwins] at he
    exact ⟨_, he, grant_route s (out, 7) hmem⟩

theorem flitIn_spec {s : State} {port : Nat} (f : Flit) (hport : port < 144) (hup : (s.port port).up = true) :
    let t := s.flitIn port f
    (f.crc ≠ f.check → (t.port port).inq = (s.port port).inq ∧ (t.port port).ask = some (s.port port).rxSeq ∧
      (t.port port).rxSeq = (s.port port).rxSeq) ∧
    (f.crc = f.check → f.seq ≠ (s.port port).rxSeq → t = s) ∧
    (f.crc = f.check → f.seq = (s.port port).rxSeq → f.body = none → (t.port port).rxSeq = f.seq + 1 ∧ (t.port port).ask = none ∧
      (t.port port).far = (s.port port).far.plus f.credits ∧ (t.port port).inq = (s.port port).inq) ∧
    (∀ ty p, f.crc = f.check → f.seq = (s.port port).rxSeq → f.body = some (ty, p, 0) → f.vc ≤ 6 →
      (s.port port).slotFree s.fabricCycle f = true → (∀ y ∈ (s.port port).inq, y.is f.vc ty p = false) →
      (t.port port).rxSeq = f.seq + 1 ∧ ∃ y ∈ (t.port port).inq, y.is f.vc ty p = true ∧ y.arrived = 1 ∧ y.slots = [f.shared]) := by
  intro t
  refine ⟨fun hbad => ?bad, flitIn_unexpected hport hup, fun hcrc hseq hbody => ?credits, fun ty p hcrc hseq hbody hvc hfree hnew => ?packet⟩
  case bad =>
    have ht : t.port port = _ := (congrArg (fun u => State.port u port) (flitIn_bad hport hup hbad)).trans (modPort_port ..)
    rw [ht]
    exact ⟨rfl, rfl, rfl⟩
  case credits =>
    have ht : t.port port = (s.port port).expected f :=
      (congrArg (fun u => State.port u port) (flitIn_credits hport hup hcrc hseq hbody)).trans
        (modPort_port s port (fun x => x.expected f))
    rw [ht, hseq]
    exact ⟨rfl, rfl, rfl, rfl⟩
  case packet =>
    obtain ⟨local_, now, ht⟩ := flitIn_packet hport hup hcrc hseq hbody hfree
    have hp : t.port port = ((s.port port).expected f).accept f ty p 0 local_ now := by
      refine (congrArg (fun u => State.port u port) ht).trans ?_
      refine (modPort_port (s.modPort port (fun x => x.expected f)) port (fun x => x.accept f ty p 0 local_ now)).trans ?_
      rw [modPort_port]
    obtain ⟨hrx, hy⟩ := accept_first (q := (s.port port).expected f) hvc hnew local_ now
    rw [hp, hrx, hseq]
    exact ⟨rfl, hy⟩

/-- A link that goes down, with its records and its message. -/
theorem linkDown_spec {s : State} {port part : Nat} (howner : s.portOwner port = some part)
    (hfall : (s.port port).mustFall s.units = true) :
    ∃ t, exec (.linkDown port) s = .next t ∧ (t.port port).up = false ∧ (t.port port).retry = [] ∧ t.mem = s.mem ∧
      (s.sentNow pfId < 65536 → (pfId, 2) ∈ t.msix) := by
  have hlog : Logged (s.closeLink port) ((s.closeLink port).logLink port part) := .foldl (fun _ _ => postLog_logged ..) _ _
  obtain ⟨hfns, hunits⟩ := closeLink_sameClocks s port
  obtain ⟨hup, hretry⟩ := closeLink_port s port
  have hfabric : (((s.closeLink port).logLink port part).signal pfId 2).wake.fabric = (s.closeLink port).fabric := by
    rw [wake_fabric, signal_fabric, hlog.fabric]
  have hport : (((s.closeLink port).logLink port part).signal pfId 2).wake.port port = (s.closeLink port).port port :=
    congrArg (fun f : Fabric => f.ports.getD port Port.reset) hfabric
  refine ⟨_, exec_linkDown howner hfall, (congrArg Port.up hport).trans hup, (congrArg Port.retry hport).trans hretry, ?_, fun hlimit => ?_⟩
  · rw [wake_mem, signal_mem]
    refine Eq.trans ?_ (closeLink_mem s port)
    simp [State.logLink]
  · have hnow : ((s.closeLink port).logLink port part).sentNow pfId = s.sentNow pfId := by
      unfold State.sentNow State.reftime
      rw [hlog.sent, hlog.units, hunits, fn_congr hfns]
    rw [wake_msix, signal_sent 2 (hnow.trans_lt hlimit)]
    exact List.mem_append_right _ (List.mem_singleton_self _)

theorem links_spec (s : State) (port n : Nat) :
    (let again := (s.port port).retry.filter (fun f => decide (n ≤ f.seq))
     (s.port port).up = true → again ≠ [] → ∃ t, exec (.linkRetry port n) s = .next t ∧ (t.port port).resend = again ∧
      (t.port port).retries = (s.port port).retries + BitVec.ofNat 32 again.length) ∧
    (∃ t, exec (.linkRetrain port) s = .next t ∧ (t.port port).en = true ∧ (t.port port).training = !(s.port port).up) ∧
    ((s.port port).en = true → (s.port port).training = true →
      ∃ t, exec (.linkTrained port) s = .next t ∧ (t.port port).up = true ∧ (t.port port).far = (s.port port).far) := by
  refine ⟨fun hup hagain => ⟨_, exec_linkRetry hup hagain, ?_⟩, ⟨_, rfl, ?_⟩, fun hen htrain => ⟨_, exec_linkTrained hen htrain, ?_⟩⟩
  · rw [wake_port, modPort_port]
    exact ⟨rfl, rfl⟩
  · rw [modPort_port]
    exact ⟨rfl, rfl⟩
  · rw [wake_port, modPort_port]
    exact ⟨rfl, rfl⟩

/-- Settles O42: each part by the lemma about its events. -/
theorem fabricAnswersAndLinks : Obligations.FabricAnswersAndLinks := by
  unfold Obligations.FabricAnswersAndLinks
  refine ⟨fun s port p part f u => ?answers, fun s port part x howner hhead hroute hdropped haway => ?transit,
    fun s port part c x howner hx hrefused hlate hesc => ?escape, fun s port f hport hup => flitIn_spec f hport hup, fun s port n => ?links,
    fun s node vf => ?lost⟩
  case answers =>
    obtain ⟨hack, hnack⟩ := answers_spec s port p part f u
    refine ⟨hack, hnack, fun ks h hkind hcause hplaces => ?_, fun ks h hkind hcause hladdr hplaces => ?_⟩
    · exact returned_stored (storeReturned_live hcause (.inl hkind)) hplaces h rfl
    · exact returned_stored (storeReturned_live hcause (.inr hladdr)) hplaces h rfl
  case transit => exact transit_spec howner hhead hroute hdropped haway
  case escape =>
    rw [latchEscapes_inq howner]
    refine List.mem_map.2 ⟨x, hx, ?_⟩
    simp [State.escaped, hrefused, hlate, hesc]
  case links =>
    obtain ⟨hretry, hretrain, htrained⟩ := links_spec s port n
    exact ⟨hretry, fun part howner hfall => linkDown_spec howner hfall, exec_linkDown_stays, hretrain, htrained, exec_linkTrained_stays⟩
  case lost =>
    refine ⟨_, exec_memberLost s node vf, fun m hm _ hlost hlate => ?_⟩
    obtain ⟨hmembers, hcmds⟩ := foldl_loseMember_isLost (node, vf) (List.mem_filter.2 ⟨hm, memberLate_of hlost hlate⟩) s
    exact ⟨hmembers, hcmds⟩

end Sys2Proof.Machine

/-! Fabric commands at their source (20 R505 to R513). -/

namespace Sys2Proof.Machine

open Sys2Proof

/-! What a command reads leaves its source alone. -/

/-- The fabric, the queues, the functions' registers but for the recorder's, and the partitions of launches are as before. -/
structure SameSource (s t : State) : Prop extends SameFabric s t where
  queues : t.queues = s.queues
  fns : ∀ k, SameFn (s.fn k) (t.fn k)
  parts : ∀ k, (t.launches.find k).map (fun l => l.part) = (s.launches.find k).map (fun l => l.part)

namespace SameSource
variable {s t u : State}

theorem refl (s : State) : SameSource s s := ⟨.refl s, rfl, fun _ => .refl _, fun _ => rfl⟩

theorem trans (h : SameSource s t) (k : SameSource t u) : SameSource s u :=
  ⟨h.toSameFabric.trans k.toSameFabric, k.queues.trans h.queues, fun i => (h.fns i).trans (k.fns i),
    fun i => (k.parts i).trans (h.parts i)⟩

theorem of_recorded (h : Recorded s t) : SameSource s t := by
  refine ⟨?_, h.queues, h.fn, ?_⟩ <;> obtain ⟨_, _, _, _, _, rfl, -, hlaunches, -⟩ := h
  · exact ⟨rfl, rfl⟩
  · exact hlaunches.part

theorem of_classified (h : Classified s t) : SameSource s t := by
  obtain ⟨_, _, _, _, rfl⟩ := h
  exact ⟨⟨rfl, rfl⟩, rfl, fun _ => .refl _, fun _ => rfl⟩

theorem cmdAccess (s : State) (q : Nat) (c : QCmd) (key : Nat) (w : Bool) : SameSource s (s.cmdAccess q c key w) :=
  ((of_recorded (orderCmd_frame s q c key)).trans (of_classified (classify_classified ..))).trans
    (of_recorded (orderCmdChange_frame ..))

theorem cmdRead {q : Nat} {c : QCmd} {va fuel n : Nat} {bs : List Byte} {bad : List Bool} (h : s.cmdRead q c va fuel n = .got bs bad t) :
    SameSource s t := by
  induction fuel generalizing s va n bs bad with
  | zero => cases n <;> (cases h; exact refl _)
  | succ fuel ih =>
    cases n with
    | zero => cases h; exact refl _
    | succ n =>
      simp only [State.cmdRead] at h
      split at h
      · cases h
      · cases h
      · next key _ =>
        split at h
        · next hrest =>
          cases h
          exact (cmdAccess s q c key false).trans (ih hrest)
        · next hno => exact absurd h (hno _ _ _)

theorem readBytes {q : Nat} {c : QCmd} {va n : Nat} {bs : List Byte} {bad : List Bool} (h : s.readBytes q c va n = .got bs bad t) :
    SameSource s t := cmdRead h

variable (h : SameSource s t)
include h

theorem cmdPart (c : QCmd) : t.cmdPart c = s.cmdPart c := by
  obtain ⟨_, _, _, hfn⟩ := h.fns c.fn
  unfold State.cmdPart
  rw [h.parts, hfn]

theorem fabcfg (fn : Nat) : (t.fn fn).fabcfg = (s.fn fn).fabcfg := by
  obtain ⟨_, _, _, hfn⟩ := h.fns fn
  rw [hfn]

theorem mayFabric (fn : Nat) : t.mayFabric fn = s.mayFabric fn := by rw [State.mayFabric, h.fabcfg, State.mayFabric]

theorem domain (fn : Nat) : t.domain fn = s.domain fn := by rw [State.domain, h.fabcfg, State.domain]

theorem pnode (part : Nat) : t.pnode part = s.pnode part := by rw [State.pnode, h.fabric, State.pnode]

theorem port (n : Nat) : t.port n = s.port n := by rw [State.port, h.fabric, State.port]

theorem fabricCycle : t.fabricCycle = s.fabricCycle := by rw [State.fabricCycle, h.units, State.fabricCycle]

theorem membership (fn coll : Nat) : t.membership fn coll = s.membership fn coll := by
  rw [State.membership, h.fabric, State.membership]

theorem nextSeq (q fn dnode dvf : Nat) : t.nextSeq q fn dnode dvf = s.nextSeq q fn dnode dvf := by
  rw [State.nextSeq, State.txOf, h.fabric, State.nextSeq, State.txOf]

end SameSource

/-! A command that starts. -/

/-- A command that is pending, with nothing sent. -/
def FabPending.begun (q : Nat) (c : QCmd) (part : Nat) (x : FabCmd) (h : FabShape) (dests : List (Nat × Nat)) : FabPending :=
  { q := q, fn := c.fn, part := part, launch := c.launch, kind := h.kind, bar := x.bar.toNat, count := h.count, laddr := x.laddr.toNat,
    coll := h.coll, dests := dests, total := h.total, sent := 0, unanswered := [], cause := 0 }

/-- The state after a command has begun. -/
def State.begun (s : State) (q : Nat) (c : QCmd) (p : Progress) (x : FabCmd) (h : FabShape) (dests : List (Nat × Nat)) : State :=
  ({ s with nextId := s.nextId + 1 }.modFabric (fun y =>
    { y with cmds := y.cmds.set s.nextId (.begun q c (s.cmdPart c) x h dests) })).setProgress q
      { p with stage := 1, x := s.nextId, pos := 0 }

theorem begun_find (s : State) (q : Nat) (c : QCmd) (p : Progress) (x : FabCmd) (h : FabShape) (dests : List (Nat × Nat)) :
    (s.begun q c p x h dests).fabric.cmds.find s.nextId = some (.begun q c (s.cmdPart c) x h dests) := Assoc.find_set ..

theorem begun_mem (s : State) (q : Nat) (c : QCmd) (p : Progress) (x : FabCmd) (h : FabShape) (dests : List (Nat × Nat)) :
    (s.begun q c p x h dests).mem = s.mem := rfl

theorem begun_progress (s : State) (q : Nat) (c : QCmd) (p : Progress) (x : FabCmd) (h : FabShape) (dests : List (Nat × Nat)) :
    (s.begun q c p x h dests).wake.progress q = { p with stage := 1, x := s.nextId, pos := 0 } := setProgress_progress ..

theorem startFab_eq {s : State} {c : QCmd} {x : FabCmd} {h : FabShape} (hbad : h.bad = false) (hmay : s.mayFabric c.fn = true)
    (hmis : h.misaligned = false) (hbar : x.bar.toNat % 16 = 0) (q : Nat) (p : Progress) (dests : List (Nat × Nat))
    (more : State → Nat → State) : s.startFab q c p x h dests more = .more (more (s.begun q c p x h dests) s.nextId) :=
  judgeFields_go (by rw [hbad, hmay]; rfl) hmis hbar

/-- A fabric command starts by becoming pending with its packets to send. -/
def BecomesPending (s : State) (q : Nat) (c : QCmd) (i : Instr) (kind : PacketType) (total : Nat) : Prop :=
  ∃ t f, exec i s = .next t ∧ t.fabric.cmds.find s.nextId = some f ∧ f.kind = kind ∧ f.total = total ∧ f.sent = 0 ∧
    f.unanswered = [] ∧ f.cause = 0 ∧ f.fn = c.fn ∧ (t.progress q).stage = 1 ∧ (t.progress q).x = s.nextId ∧ t.mem = s.mem

section
variable {s : State} {q : Nat} {c : QCmd} {p : Progress} {x : FabCmd} (h : CmdRuns s q c p)
include h

theorem becomesPending_of {i : Instr} {body : State → QCmd → Progress → CmdOut} (he : exec i s = .next (s.runCommand q body)) {sh : FabShape}
    {dests : List (Nat × Nat)} (hb : body s c p = .more (s.begun q c p x sh dests)) : BecomesPending s q c i sh.kind sh.total := by
  refine ⟨(s.begun q c p x sh dests).wake, .begun q c (s.cmdPart c) x sh dests, he.trans (congrArg _ (runCommand_more h hb)), ?_, rfl,
    rfl, rfl, rfl, rfl, rfl, ?_, ?_, ?_⟩
  · rw [wake_fabric]
    exact begun_find ..
  · rw [begun_progress]
  · rw [begun_progress]
  · rw [wake_mem]
    exact begun_mem ..

variable (hstage : p.stage = 0) (hbar : x.bar.toNat % 16 = 0) (hmay : s.mayFabric c.fn = true) {i : Instr} {sh : FabShape}
  (hbad : sh.bad = false) (hmis : sh.misaligned = false)
include hstage hbar hmay hbad hmis

theorem runData_starts {opx : Nat} (he : exec i s = .next (s.runData q x sh opx)) : BecomesPending s q c i sh.kind sh.total := by
  unfold State.runData at he
  refine becomesPending_of (x := x) (dests := [(x.dnode.toNat, x.dvf.toNat)]) h he ?_
  exact (if_pos hstage).trans (startFab_eq hbad hmay hmis hbar q p _ (fun s _ => s))

theorem runAsk_starts {len : Nat → Nat} {opx : Nat} (he : exec i s = .next (s.runAsk q x sh len opx)) :
    BecomesPending s q c i sh.kind sh.total := by
  unfold State.runAsk at he
  refine becomesPending_of (x := x) (dests := [(x.dnode.toNat, x.dvf.toNat)]) h he ?_
  exact (if_pos hstage).trans (startFab_eq hbad hmay hmis hbar q p _ (fun s _ => s))

end

/-! The fields that commands are judged by. -/

/-- A length, an RBAR and an OPERAND that PUT and its kin may have. -/
structure SizedCmd (x : FabCmd) : Prop where
  low : 16 ≤ x.len.toNat
  len : x.len.toNat % 16 = 0
  rbar : x.rbar.toNat % 16 = 0
  operand : x.operand = 0

namespace SizedCmd
variable {x : FabCmd} (h : SizedCmd x)
include h

theorem badLen {top : Nat} (htop : x.len.toNat ≤ top) (hcls : x.cls.toNat ≤ 1) : x.badLen top = false := by
  simp only [FabCmd.badLen, Bool.or_eq_false_iff, decide_eq_false_iff_not]
  exact ⟨⟨Nat.not_lt.2 h.low, Nat.not_lt.2 htop⟩, Nat.not_lt.2 hcls⟩

theorem offLen : x.offLen = false := by simp [FabCmd.offLen, h.len, h.rbar]

theorem off16 (hladdr : x.laddr.toNat % 16 = 0) (hraddr : x.raddr.toNat % 16 = 0) : x.off16 = false := by
  simp [FabCmd.off16, h.offLen, hladdr, hraddr]

end SizedCmd

/-- An address that is aligned for the wider ATOMIC is for each. -/
theorem atomicWidth_aligned {a : Nat} (h : a % 8 = 0) (opx : Nat) : a % atomicWidth opx = 0 := by
  unfold atomicWidth
  split <;> omega

/-! Collectives (20 R512, R513). -/

section
variable {s : State} {q : Nat} {c : QCmd} {p : Progress} {x : FabCmd} (h : CmdRuns s q c p) (hstage : p.stage = 0)
  (hbar : x.bar.toNat % 16 = 0) (hmay : s.mayFabric c.fn = true) (hdest : x.noDest = true)
include h hstage hbar hmay hdest

theorem collleave_starts (hladdr : x.laddr = 0) (hopx : x.opx.toNat < 2 ^ 32)
    (hearlier : s.fabric.cmds.any (fun e => e.2.q == q) = false) {m : Membership} (hm : s.membership c.fn x.coll = some m)
    (hjoined : m.joined = true) : BecomesPending s q c (.collleave q x) .leave
      (m.members.filter (fun y => y != (s.pnode (s.cmdPart c), c.fn) && !m.lost.contains y)).length := by
  have hne : ¬ p.stage = 1 := by omega
  refine becomesPending_of (x := x) (sh := ⟨.leave, 1, false, false, x.coll, _⟩)
    (dests := m.members.filter (fun y => y != (s.pnode (s.cmdPart c), c.fn) && !m.lost.contains y)) h
    (show exec (.collleave q x) s = execCollleave q x s from rfl) ((if_neg hne).trans ?_)
  rw [judgeFields_go (by rw [decide_eq_false (Nat.not_le.2 hopx)]; simp [hdest, hladdr, hmay]) rfl hbar, if_neg (by simp [hearlier]), hm]
  simp only [hjoined, Bool.not_true, Bool.false_eq_true, if_false]
  exact startFab_eq rfl hmay rfl hbar q p _ (fun s _ => s)

theorem collleave_waits (hladdr : x.laddr = 0) (hopx : x.opx.toNat < 2 ^ 32)
    (hearlier : s.fabric.cmds.any (fun e => e.2.q == q) = true) : exec (.collleave q x) s = .next (s.unseen s c.fn) := by
  have hne : ¬ p.stage = 1 := by omega
  refine congrArg Host.Outcome.next ((runCommand_eq h).trans ?_)
  rw [if_neg hne, judgeFields_go (by rw [decide_eq_false (Nat.not_le.2 hopx)]; simp [hdest, hladdr, hmay]) rfl hbar, if_pos hearlier]
  rfl

/-- The JOINs of other members that came before the COLLJOIN. -/
def State.earlyJoins (s : State) (fn coll : Nat) (others : List (Nat × Nat)) : List (Nat × Nat × Nat × Nat) :=
  s.fabric.keptJoins.filter (fun j => j.1 == fn && j.2.1 == coll && others.contains j.2.2)

/-- A membership that a COLLJOIN begins. -/
def State.joins (s : State) (fn coll : Nat) (ms : List (Nat × Nat)) (early : List (Nat × Nat × Nat × Nat)) (id : Nat) : State :=
  s.modFabric (fun x =>
    { x with members := x.members ++ [⟨fn, coll, ms, early.map (fun j => j.2.2), false, id, [], []⟩],
             keptJoins := x.keptJoins.filter (fun j => !early.contains j) })

omit h hstage hbar hmay hdest in
theorem joins_membership {s : State} {fn coll : Nat} (hnone : s.membership fn coll = none) (ms : List (Nat × Nat))
    (early : List (Nat × Nat × Nat × Nat)) (id : Nat) :
    (s.joins fn coll ms early id).membership fn coll = some ⟨fn, coll, ms, early.map (fun j => j.2.2), false, id, [], []⟩ := by
  refine List.find?_append.trans ?_
  rw [show s.fabric.members.find? _ = none from hnone]
  simp

/-- A COLLJOIN that is pending, with nothing sent. -/
def FabPending.joining (q : Nat) (c : QCmd) (part : Nat) (x : FabCmd) (others : List (Nat × Nat)) : FabPending :=
  .begun q c part x ⟨.join, 1, false, false, x.coll, others.length⟩ others

/-- The state after a COLLJOIN has begun, with its membership. -/
def State.joining (s : State) (q : Nat) (c : QCmd) (p : Progress) (x : FabCmd) (ms others : List (Nat × Nat)) : State :=
  (s.begun q c p x ⟨.join, 1, false, false, x.coll, others.length⟩ others).joins c.fn x.coll ms
    (s.earlyJoins c.fn x.coll others) s.nextId

omit h hstage hbar hmay hdest in
theorem joining_find (s : State) (q : Nat) (c : QCmd) (p : Progress) (x : FabCmd) (ms others : List (Nat × Nat)) :
    (s.joining q c p x ms others).fabric.cmds.find s.nextId = some (.joining q c (s.cmdPart c) x others) :=
  begun_find s q c p x ⟨.join, 1, false, false, x.coll, others.length⟩ others

omit h hstage hbar hmay hdest in
theorem joining_progress (s : State) (q : Nat) (c : QCmd) (p : Progress) (x : FabCmd) (ms others : List (Nat × Nat)) :
    (s.joining q c p x ms others).wake.progress q = { p with stage := 1, x := s.nextId, pos := 0 } :=
  begun_progress s q c p x ⟨.join, 1, false, false, x.coll, others.length⟩ others

theorem exec_colljoin {bs : List Byte} {bad : List Bool} {s1 : State} (hopx : x.opx.toNat < 2 ^ 40) (hlo : 2 ≤ x.nmemb)
    (hhi : x.nmemb ≤ 64) (hnone : s.membership c.fn x.coll = none) (hladdr : x.laddr.toNat % 4 = 0)
    (hroom : s.fabric.members.countP (fun m => m.fn == c.fn) < 16)
    (hread : s.readBytes q c x.laddr.toNat (4 * x.nmemb) = .got bs bad s1)
    (hme : (membersOf bs x.nmemb).contains (s.pnode (s.cmdPart c), c.fn) = true) (hnodup : (membersOf bs x.nmemb).Nodup) :
    let others := (membersOf bs x.nmemb).filter (fun y => y != (s.pnode (s.cmdPart c), c.fn))
    exec (.colljoin q x) s = .next (s1.joining q c p x (membersOf bs x.nmemb) others).wake := by
  have hne : ¬ p.stage = 1 := by omega
  have hsame := SameSource.readBytes hread
  refine congrArg Host.Outcome.next (runCommand_more h ((if_neg hne).trans ?_))
  have hbad : (!x.noDest || decide (2 ^ 40 ≤ x.opx.toNat) || decide (x.nmemb < 2) || decide (64 < x.nmemb) || !s.mayFabric c.fn ||
      (s.membership c.fn x.coll).isSome) = false := by
    rw [decide_eq_false (Nat.not_le.2 hopx)]
    simp [hdest, hmay, hnone, Nat.not_lt.2 hlo, Nat.not_lt.2 hhi]
  rw [judgeFields_go hbad (by simp [hladdr]) hbar, if_neg (Nat.not_le.2 hroom), hread]
  dsimp only
  rw [hsame.cmdPart, hsame.pnode, if_neg (by simp only [hme, hnodup]; decide)]
  exact startFab_eq rfl ((hsame.mayFabric c.fn).trans hmay) rfl hbar q p _
    (fun s id => s.joins c.fn x.coll (membersOf bs x.nmemb) (s1.earlyJoins c.fn x.coll _) id)

end

end Sys2Proof.Machine

/-! Packets that a command sends, commands that end, and the obligation (20 R505 to R513). -/

namespace Sys2Proof.Machine

open Sys2Proof

/-! A packet of a command (20 R505, R507). -/

/-- The packet that a command sends next. -/
def State.nextPacket (s : State) (id : Nat) (f : FabPending) (x : Cargo) : Packet :=
  { ndata := (x.data.length + 63) / 64, last := x.last, dnode := x.dnode, dvf := x.dvf, svf := f.fn,
    snode := s.pnode f.part, sq := sqField f.q, cause := 0, domain := s.domain f.fn, seq := s.nextSeq f.q f.fn x.dnode x.dvf,
    addr := x.addr, len := x.len, cmdtag := id, rbar := x.rbar, opx := x.opx, data := x.data, bad := x.bad }

/-- A command that has sent one more packet, which is open. -/
def FabPending.sentOne (f : FabPending) (u : OpenPkt) : FabPending := { f with sent := f.sent + 1, unanswered := f.unanswered ++ [u] }

/-- The state after a packet is numbered and counted, before it goes. -/
def State.numbered (s : State) (id : Nat) (f : FabPending) (x : Cargo) : State :=
  (s.modCmd id (fun y => y.sentOne ⟨x.dnode, x.dvf, s.nextSeq f.q f.fn x.dnode x.dvf, x.off, 0⟩)).setSeq f.q f.fn x.dnode x.dvf
    ((s.nextSeq f.q f.fn x.dnode x.dvf + 1) % 2 ^ 32)

theorem emit_eq (s : State) (id : Nat) (f : FabPending) (x : Cargo) :
    s.emit id f x = (s.numbered id f x).sendPkt f.part x.vc x.ty (s.nextPacket id f x) := rfl

/-- What takes the place of the entries that meet a condition is found for it. -/
theorem find_replaced {α : Type} {p : α → Bool} {a : α} (h : p a = true) (l : List α) :
    (l.filter (fun x => !p x) ++ [a]).find? p = some a := by
  rw [List.find?_append, List.find?_eq_none.2, Option.none_or, List.find?_singleton, if_pos h]
  intro x hx
  simpa using (List.mem_filter.1 hx).2

/-- Numbers of streams that are set are read again. -/
theorem setSeq_nextSeq (s : State) (q fn dnode dvf seq : Nat) : (s.setSeq q fn dnode dvf seq).nextSeq q fn dnode dvf = seq := by
  unfold State.nextSeq State.txOf State.setSeq
  dsimp only
  rw [modFabric_fabric]
  dsimp only
  rw [find_replaced (by simp)]
  rfl

section
variable {s : State} {id : Nat} {f : FabPending} {x : Cargo} (haway : x.dnode ≠ s.pnode f.part)
include haway

/-- A packet for another node is injected. -/
theorem emit_injects : s.emit id f x = (s.numbered id f x).modPort (injectPort f.part) (fun y =>
    { y with inq := y.inq ++ [.injected x.vc x.ty (s.nextPacket id f x) s.fabricCycle] }) :=
  (emit_eq ..).trans (sendPkt_inject _ _ haway)

theorem emit_inq : ((s.emit id f x).port (injectPort f.part)).inq =
    (s.port (injectPort f.part)).inq ++ [.injected x.vc x.ty (s.nextPacket id f x) s.fabricCycle] := by
  rw [emit_injects haway, modPort_port]
  rfl

theorem emit_find (hf : s.fabric.cmds.find id = some f) :
    ∃ g, (s.emit id f x).fabric.cmds.find id = some g ∧ g.sent = f.sent + 1 := by
  refine ⟨f.sentOne ⟨x.dnode, x.dvf, s.nextSeq f.q f.fn x.dnode x.dvf, x.off, 0⟩, ?_, rfl⟩
  rw [emit_injects haway]
  refine (modCmd_find s id (fun y => y.sentOne _)).trans ?_
  rw [hf]
  rfl

theorem emit_nextSeq : (s.emit id f x).nextSeq f.q f.fn x.dnode x.dvf = (s.nextSeq f.q f.fn x.dnode x.dvf + 1) % 2 ^ 32 := by
  rw [emit_injects haway]
  exact setSeq_nextSeq ..

end

theorem emit_queues (s : State) (id : Nat) (f : FabPending) (x : Cargo) : (s.emit id f x).queues = s.queues := by
  rw [emit_eq, State.sendPkt]
  split <;> rfl

/-! What is sent whole leaves the queue. -/

/-- The state after a packet of a command was sent: the command leaves its queue with its last. -/
def State.pumped (s : State) (q id : Nat) (whole : Bool) : State := if whole then s.sentAll q id else s

theorem pumped_ports (s : State) (q id : Nat) (whole : Bool) : (s.pumped q id whole).fabric.ports = s.fabric.ports := by
  cases whole <;> rfl

theorem pumped_tx (s : State) (q id : Nat) (whole : Bool) : (s.pumped q id whole).fabric.tx = s.fabric.tx := by
  cases whole <;> rfl

theorem pumped_find {s : State} {id : Nat} {g : FabPending} (h : s.fabric.cmds.find id = some g) (q : Nat) (whole : Bool) :
    ∃ g', (s.pumped q id whole).fabric.cmds.find id = some g' ∧ g'.sent = g.sent := by
  cases whole with
  | false => exact ⟨g, h, rfl⟩
  | true =>
    refine ⟨{ g with total := g.sent }, ?_, rfl⟩
    refine (modCmd_find s id (fun f => { f with total := f.sent })).trans ?_
    rw [h]
    rfl

theorem pumped_queue {s t : State} {q : Nat} (h : SameCommands s t q) (id : Nat) : ((t.pumped q id true).queue q).cmds = (s.queue q).cmds.tail :=
  (SameCommands.popped (h.trans (.of_queues (t := t.modCmd id (fun f => { f with total := f.sent })) rfl q))).1

section
variable {s : State} {q : Nat} {c : QCmd} {p : Progress} {f : FabPending} {dest : Nat × Nat}
  {cargo : State → Nat → List Byte → List Bool → Cargo} {read : Nat → Nat × Nat} {bs : List Byte} {bad : List Bool} {s1 : State}

theorem pumpFab_sends (hf : s.fabric.cmds.find p.x = some f) (hmore : f.sent < f.total) (hpeer : s.lostPeer f.fn dest.1 dest.2 = false)
    (hheld : s.streamHeld q f.fn dest.1 dest.2 = false) (hread : s.readBytes q c (read f.sent).1 (read f.sent).2 = .got bs bad s1) :
    s.pumpFab q c p dest cargo read =
      .more ((s1.emit p.x f (cargo s1 f.sent bs bad)).pumped q p.x (decide (f.sent + 1 = f.total))) := by
  unfold State.pumpFab
  rw [hf]
  dsimp only
  rw [if_neg (Nat.not_le.2 hmore), hpeer, if_neg Bool.false_ne_true, hheld, if_neg Bool.false_ne_true, hread]
  simp only [State.pumped, decide_eq_true_eq]

end

/-- What a packet of PUT carries. -/
def putCargo (x : FabCmd) (k : Nat) (bs : List Byte) (bad : List Bool) : Cargo :=
  { ty := .put, vc := x.vc, dnode := x.dnode.toNat, dvf := x.dvf.toNat, off := 1024 * k, len := packetLen x.len.toNat k,
    addr := (x.raddr.toNat + 1024 * k) % 2 ^ 64, rbar := if k + 1 = packetsOf x.len.toNat then x.rbar.toNat else 0, opx := 0,
    data := bs, bad := badPieces bad, last := k + 1 == packetsOf x.len.toNat }

section
variable {s : State} {q : Nat} {c : QCmd} {p : Progress} {x : FabCmd} {f : FabPending} {bs : List Byte} {bad : List Bool} {s1 : State}
  (h : CmdRuns s q c p) (hstage : p.stage = 1) (hf : s.fabric.cmds.find p.x = some f) (hmore : f.sent < f.total)
  (hpeer : s.lostPeer f.fn x.dnode.toNat x.dvf.toNat = false) (hheld : s.streamHeld q f.fn x.dnode.toNat x.dvf.toNat = false)
  (hread : s.readBytes q c (x.laddr.toNat + 1024 * f.sent) (packetLen x.len.toNat f.sent) = .got bs bad s1)
include h hstage hf hmore hpeer hheld hread

/-- A further step of PUT. -/
theorem exec_put_step : exec (.put q x) s =
    .next ((s1.emit p.x f (putCargo x f.sent bs bad)).pumped q p.x (decide (f.sent + 1 = f.total))).wake := by
  have hne : ¬ p.stage = 0 := by omega
  show Host.Outcome.next (s.runData q x _ 0) = _
  unfold State.runData
  refine congrArg Host.Outcome.next (runCommand_more h ((if_neg hne).trans ?_))
  exact pumpFab_sends (dest := (x.dnode.toNat, x.dvf.toNat)) (cargo := fun _ => putCargo x)
    (read := fun k => (x.laddr.toNat + 1024 * k, packetLen x.len.toNat k)) hf hmore hpeer hheld hread

theorem put_step (hq : f.q = q) (htotal : f.total = packetsOf x.len.toNat) (haway : x.dnode.toNat ≠ s.pnode f.part) :
    ∃ t g k, exec (.put q x) s = .next t ∧ t.fabric.cmds.find p.x = some g ∧ g.sent = f.sent + 1 ∧
      (t.port (injectPort f.part)).inq = (s.port (injectPort f.part)).inq ++ [.injected (2 * x.cls.toNat) .put k s.fabricCycle] ∧
      k.data = bs ∧ k.addr = (x.raddr.toNat + 1024 * f.sent) % 2 ^ 64 ∧
      k.len = packetLen x.len.toNat f.sent ∧ k.cmdtag = p.x ∧ k.last = (f.sent + 1 == f.total) ∧
      k.seq = s.nextSeq q f.fn x.dnode.toNat x.dvf.toNat ∧ k.domain = s.domain f.fn ∧
      t.nextSeq q f.fn x.dnode.toNat x.dvf.toNat = (s.nextSeq q f.fn x.dnode.toNat x.dvf.toNat + 1) % 2 ^ 32 ∧
      (f.sent + 1 = f.total → (t.queue q).cmds = (s.queue q).cmds.tail) := by
  subst hq
  have hsame := SameSource.readBytes hread
  have hcargo : (putCargo x f.sent bs bad).dnode ≠ s1.pnode f.part := by
    rw [hsame.pnode]
    exact haway
  obtain ⟨g, hg, hsent⟩ := emit_find (id := p.x) hcargo ((congrArg (fun y : Fabric => y.cmds.find p.x) hsame.fabric).trans hf)
  have hinq := emit_inq (id := p.x) hcargo
  have hseq := emit_nextSeq (id := p.x) hcargo
  have hqueues : SameCommands s (s1.emit p.x f (putCargo x f.sent bs bad)) f.q :=
    .of_queues ((emit_queues ..).trans hsame.queues) f.q
  have hexec := exec_put_step h hstage hf hmore hpeer hheld hread
  rw [hsame.port, hsame.fabricCycle] at hinq
  rw [hsame.nextSeq] at hseq
  generalize s1.emit p.x f (putCargo x f.sent bs bad) = u at hg hinq hseq hqueues hexec
  obtain ⟨g', hg', hsent'⟩ := pumped_find hg f.q (decide (f.sent + 1 = f.total))
  refine ⟨_, g', s1.nextPacket p.x f (putCargo x f.sent bs bad), hexec, hg', hsent'.trans hsent, ?_, rfl, rfl, rfl, rfl, ?_, hsame.nextSeq ..,
    hsame.domain .., ?_, fun hlast => ?_⟩
  · rw [wake_port, State.port, pumped_ports]
    exact hinq
  · rw [htotal]
    rfl
  · refine Eq.trans ?_ hseq
    rw [State.nextSeq, State.txOf, wake_fabric, pumped_tx]
    rfl
  · rw [decide_eq_true hlast, wake_queue]
    exact pumped_queue hqueues p.x

end

/-! Commands that end (20 R507, R512). -/

theorem endFab_cmds (s : State) (id : Nat) (f : FabPending) : (s.endFab id f).fabric.cmds = s.fabric.cmds.drop id := by
  unfold State.endFab
  dsimp only
  split
  · split_ifs <;> rfl
  · rfl
  · rfl

theorem logFab_fabric (s : State) (f : FabPending) (cause : Nat) : (s.logFab f cause).fabric = s.fabric := by
  unfold State.logFab
  split
  · rfl
  · exact (postLog_logged ..).fabric

theorem endFab_viralBlocks (s : State) (id : Nat) (f : FabPending) (k : Nat) : (s.endFab id f).viralBlocks k = s.viralBlocks k := by
  unfold State.endFab
  dsimp only
  split
  · split_ifs <;> rfl
  · rfl
  · rfl

section
variable {s : State} {id : Nat} {f : FabPending} (hf : s.fabric.cmds.find id = some f) (hdone : s.fabDone f = true)
include hf hdone

theorem exec_complete_free (hbar : f.bar = 0) :
    exec (.fabricCommandComplete id) s = .next ((s.endFab id f).logFab f f.cause).wake := by
  show execFabricCommandComplete id s = _
  unfold execFabricCommandComplete
  rw [hf]
  dsimp only
  rw [hdone, if_neg (by decide), if_pos hbar]

theorem exec_complete_object {k : Nat} (hbar : f.bar ≠ 0) (hx : s.translateNow f.fn f.part .both f.bar = .ok k)
    (hw : s.homeWaits k = false) : exec (.fabricCommandComplete id) s =
      .next (((s.endFab id f).decrement k f.cause f.count (queueDie f.q)).logFab f f.cause).wake := by
  show execFabricCommandComplete id s = _
  unfold execFabricCommandComplete
  rw [hf]
  dsimp only
  rw [hdone, if_neg (by decide), if_neg hbar, hx]
  dsimp only
  rw [hw]
  rfl

/-- A command with no object ends. -/
theorem complete_free (hbar : f.bar = 0) :
    ∃ t, exec (.fabricCommandComplete id) s = .next t ∧ t.fabric.cmds.find id = none ∧ t.mem = s.mem := by
  refine ⟨_, exec_complete_free hf hdone hbar, ?_, ?_⟩
  · rw [wake_fabric, logFab_fabric, endFab_cmds]
    exact Assoc.find_drop ..
  · rw [wake_mem, logFab_mem, endFab_mem]

/-- An object falls by the whole count of its command. -/
theorem complete_object (hwf : s.mem.wf = true) {k : Nat} (hbar : f.bar ≠ 0) (hcause : f.cause = 0)
    (hx : s.translateNow f.fn f.part .both f.bar = .ok k) (hw : s.homeWaits k = false) (hv : s.viralBlocks k = false) :
    ∃ t, exec (.fabricCommandComplete id) s = .next t ∧ t.fabric.cmds.find id = none ∧ sameOutside s.mem t.mem k 8 ∧
      natOfBytes (t.mem.readN k 8) = wrapNat 64 ((natOfBytes (s.mem.readN k 8) : Int) - f.count) := by
  have he := exec_complete_object hf hdone hbar hx hw
  rw [hcause] at he
  have hmem := decrement_mem ((endFab_viralBlocks s id f k).trans hv) f.count (queueDie f.q)
  rw [endFab_mem] at hmem
  obtain ⟨hread, hout⟩ := stored_of_mem (n := 8) hwf hmem (bytesOfNat_length ..)
  refine ⟨_, he, ?_, ?_, ?_⟩
  · rw [wake_fabric, logFab_fabric, (SameFabric.decrement ..).fabric, endFab_cmds]
    exact Assoc.find_drop ..
  · rw [wake_mem, logFab_mem]
    exact hout
  · rw [wake_mem, logFab_mem, hread, natOfBytes_bytesOfNat]
    exact Nat.mod_eq_of_lt (wrapNat_lt_two_pow 64 _)

end

/-- A COLLJOIN with its membership. -/
theorem colljoin_starts {s : State} {q : Nat} {c : QCmd} {p : Progress} {x : FabCmd} (h : CmdRuns s q c p) (hstage : p.stage = 0)
    (hbar : x.bar.toNat % 16 = 0) (hmay : s.mayFabric c.fn = true) (hdest : x.noDest = true) {bs : List Byte} {bad : List Bool}
    {s1 : State} (hopx : x.opx.toNat < 2 ^ 40) (hlo : 2 ≤ x.nmemb) (hhi : x.nmemb ≤ 64) (hnone : s.membership c.fn x.coll = none)
    (hladdr : x.laddr.toNat % 4 = 0) (hroom : s.fabric.members.countP (fun m => m.fn == c.fn) < 16)
    (hread : s.readBytes q c x.laddr.toNat (4 * x.nmemb) = .got bs bad s1)
    (hme : (membersOf bs x.nmemb).contains (s.pnode (s.cmdPart c), c.fn) = true) (hnodup : (membersOf bs x.nmemb).Nodup) :
    ∃ t m f, exec (.colljoin q x) s = .next t ∧ t.membership c.fn x.coll = some m ∧ m.members = membersOf bs x.nmemb ∧
      m.joined = false ∧ m.lost = [] ∧ (t.progress q).stage = 1 ∧ t.fabric.cmds.find (t.progress q).x = some f ∧ f.kind = .join ∧
      f.dests = m.members.filter (fun y => y != (s.pnode (s.cmdPart c), c.fn)) := by
  have he := exec_colljoin h hstage hbar hmay hdest hopx hlo hhi hnone hladdr hroom hread hme hnodup
  have hnone1 : s1.membership c.fn x.coll = none := ((SameSource.readBytes hread).membership ..).trans hnone
  refine ⟨_, _, .joining q c (s1.cmdPart c) x _, he, joins_membership hnone1 .., rfl, rfl, rfl, ?_, ?_, rfl, rfl⟩
  · rw [joining_progress]
  · rw [joining_progress]
    exact joining_find s1 ..

/-- Settles O40: what a command starts with, the packet that PUT sends next, and the commands that end, each by its lemma. -/
theorem fabricCommands : Obligations.FabricCommands := by
  unfold Obligations.FabricCommands
  refine ⟨fun s q c p x h hstage hbar hmay hcls => ?starts, fun s q c p x f bs bad s1 h hstage hf hmore hpeer hheld hq htotal haway hread =>
    put_step h hstage hf hmore hpeer hheld hread hq htotal haway, fun s id f hf hdone hwf => ?ends⟩
  case starts =>
    intro starts sized aligned
    have hsized (hz : sized) : SizedCmd x := ⟨hz.1, hz.2.1, hz.2.2.1, hz.2.2.2⟩
    refine ⟨fun ⟨hz, hl, hr⟩ htop hopx => ?put, fun ⟨hz, hl, hr⟩ htop hopx hrbar => ?get, fun hz htop hopx hraddr => ?send,
      fun ⟨hz, hl, hr⟩ htop hopx => ?reduceput, fun hlen hopx hr hl => ?atomic, fun m hdest hl hopx hearlier hm hjoined => ?leave,
      fun hdest hl hopx hearlier => ?waits, fun bs bad s1 hdest hopx hlo hhi hnone hl hroom hread hme hnodup => ?join⟩
    case put =>
      refine runData_starts (sh := ⟨.put, _, _, _, 0, _⟩) h hstage hbar hmay ?_ ((hsized hz).off16 hl hr) rfl
      simp only [(hsized hz).badLen htop hcls, hopx, hz.2.2.2, bne_self_eq_false, Bool.or_self]
    case get =>
      refine runAsk_starts (sh := ⟨.getRequest, _, _, _, 0, _⟩) h hstage hbar hmay ?_ ((hsized hz).off16 hl hr) rfl
      simp only [(hsized hz).badLen htop hcls, hopx, hrbar, hz.2.2.2, bne_self_eq_false, Bool.or_self]
    case send =>
      refine runData_starts (sh := ⟨.send, _, _, _, 0, _⟩) h hstage hbar hmay ?_ (hsized hz).offLen rfl
      simp only [(hsized hz).badLen htop hcls, hopx, hraddr, hz.2.2.2, bne_self_eq_false, Bool.or_self]
    case reduceput =>
      refine runData_starts (sh := ⟨.reducePut, _, _, _, 0, _⟩) h hstage hbar hmay ?_ ((hsized hz).off16 hl hr) rfl
      simp only [(hsized hz).badLen htop hcls, hz.2.2.2, bne_self_eq_false, Bool.or_false, Bool.false_or]
      rcases hopx with h | h | h <;> simp [h]
    case atomic =>
      refine runAsk_starts (sh := ⟨.atomic, _, _, _, 0, _⟩) h hstage hbar hmay ?_ ?_ rfl
      · simp [hlen, hopx, hcls]
      · simp [atomicWidth_aligned hr, atomicWidth_aligned hl]
    case leave => exact collleave_starts h hstage hbar hmay hdest hl hopx hearlier hm hjoined
    case waits => exact ⟨_, collleave_waits h hstage hbar hmay hdest hl hopx hearlier, rfl, unseen_mem .., rfl⟩
    case join => exact colljoin_starts h hstage hbar hmay hdest hopx hlo hhi hnone hl hroom hread hme hnodup
  case ends =>
    exact ⟨complete_free hf hdone, fun k hbar hcause hx hw hv => complete_object hf hdone hwf hbar hcause hx hw hv⟩

end Sys2Proof.Machine

/-! Request packets that are delivered (20 R494, R507, R508). -/

namespace Sys2Proof.Machine

open Sys2Proof

/-! What the obligation says of the state after a delivery. -/

/-- The packet's stream is as `ok` says. -/
def InStream (t : State) (p : Packet) (ok : RxStream → Prop) : Prop := ∃ x, t.fabric.rx.find? (fun y => y.isOf p) = some x ∧ ok x

/-- The stream has passed the packet. -/
def StreamPassed (p : Packet) (t : State) : Prop := InStream t p (fun x => x.next = (p.seq + 1) % 2 ^ 32 ∧ x.moved = 0)

/-- The packet is answered. -/
def AnsweredWith (s : State) (port : Nat) (p : Packet) (part : Nat) (ty : PacketType) (cause : Nat) (data : List Byte) (bad : List Nat)
    (t : State) : Prop :=
  let k := p.answer (s.domain p.dvf) cause data bad
  if p.snode = s.pnode part then ∃ l, t.fabric.localBox = l ++ [(part, ty, k)]
  else port ≤ 144 → (t.port (injectPort part)).inq = (s.port (injectPort part)).inq ++ [.injected 4 ty k s.fabricCycle]

/-- One access of the packet has stored some bytes. -/
def PieceStored (s : State) (p : Packet) (bs : List Byte) (k : Nat) (t : State) : Prop :=
  t.mem.readN k bs.length = bs ∧ sameOutside s.mem t.mem k bs.length ∧ InStream t p (fun x => x.moved = (s.rxOf p).moved + 1)

/-- The packet is answered with a NACK, and changes no byte. -/
def TurnedAway (s : State) (port : Nat) (p : Packet) (part cause : Nat) (t : State) : Prop :=
  t.mem = s.mem ∧ StreamPassed p t ∧ AnsweredWith s port p part .nack cause [] [] t

/-- The bytes of the packet's command. -/
def RxStream.bytes (r : RxStream) (p : Packet) : Nat := (if r.tag = some p.cmdtag then r.tally else 0) + p.len

/-- The packet is acknowledged, and the object that it names, if any, has fallen. -/
def PacketEnded (s : State) (port : Nat) (p : Packet) (part : Nat) (rb : List Nat) (t : State) : Prop :=
  StreamPassed p t ∧ AnsweredWith s port p part .ack 0 [] [] t ∧ (rb = [] → t.mem = s.mem) ∧
  ∀ k, rb = [k] → sameOutside s.mem t.mem k 8 ∧
    natOfBytes (t.mem.readN k 8) = wrapNat 64 ((natOfBytes (s.mem.readN k 8) : Int) - ((s.rxOf p).bytes p : Nat))

/-! Streams. -/

/-- Two streams have the same ends. -/
def RxStream.SameEnds (a b : RxStream) : Prop :=
  b.snode = a.snode ∧ b.svf = a.svf ∧ b.sq = a.sq ∧ b.dnode = a.dnode ∧ b.dvf = a.dvf

theorem after_sameEnds (r : RxStream) (p : Packet) (refused : Option Nat) : r.SameEnds (r.after p refused) := ⟨rfl, rfl, rfl, rfl, rfl⟩

theorem passGone_sameEnds (gone : List (Packet × Nat)) (n : Nat) (r : RxStream) : r.SameEnds (r.passGone gone n) := by
  induction n generalizing r with
  | zero => exact ⟨rfl, rfl, rfl, rfl, rfl⟩
  | succ n ih =>
    unfold RxStream.passGone
    split
    · next g _ => exact ih (r.after g.1 (some g.2))
    · exact ⟨rfl, rfl, rfl, rfl, rfl⟩

theorem isOf_of_sameEnds {a b : RxStream} {p : Packet} (h : a.SameEnds b) (ha : a.isOf p = true) : b.isOf p = true := by
  obtain ⟨hnode, hvf, hq, hdnode, hdvf⟩ := h
  rw [RxStream.isOf, hnode, hvf, hq, hdnode, hdvf]
  exact ha

theorem rxOf_isOf (s : State) (p : Packet) : (s.rxOf p).isOf p = true := by
  refine isOf_of_sameEnds (passGone_sameEnds ..) ?_
  cases hfind : s.fabric.rx.find? (fun r => r.isOf p) with
  | none => simp [RxStream.isOf]
  | some r => exact List.find?_some (p := fun r : RxStream => r.isOf p) hfind

theorem after_isOf (s : State) (p : Packet) (refused : Option Nat) : ((s.rxOf p).after p refused).isOf p = true :=
  isOf_of_sameEnds (after_sameEnds ..) (rxOf_isOf s p)

theorem setRx_find (s : State) {r : RxStream} {p : Packet} (h : r.isOf p = true) :
    (s.setRx r p).fabric.rx.find? (fun y => y.isOf p) = some r := find_replaced (p := fun y : RxStream => y.isOf p) h _

/-! Answers. -/

/-- Where packets stand, the numbers of the partitions and the clock are as before: what the place of an answer depends on. -/
structure SameAnswers (s t : State) : Prop where
  ports : t.fabric.ports = s.fabric.ports
  pnodes : t.fabric.pnode = s.fabric.pnode
  units : t.units = s.units

theorem SameAnswers.refl (s : State) : SameAnswers s s := ⟨rfl, rfl, rfl⟩

theorem SameAnswers.of_fabric {s t : State} (h : SameFabric s t) : SameAnswers s t :=
  ⟨congrArg Fabric.ports h.fabric, congrArg Fabric.pnode h.fabric, h.units⟩

/-- A packet that a partition sends itself. -/
theorem sendPkt_local {s : State} {part : Nat} {p : Packet} (vc : Nat) (ty : PacketType) (h : p.dnode = s.pnode part) :
    s.sendPkt part vc ty p = s.modFabric (fun x => { x with localBox := x.localBox ++ [(part, ty, p)] }) := if_pos h

/-- A packet leaves where it stood, its stream goes on, and an answer goes to its sender. -/
def State.repliedTo (x : State) (port : Nat) (ty : PacketType) (p : Packet) (part : Nat) (r : RxStream) (a : PacketType) (k : Packet) :
    State := (((x.unbox port ty p).setRx r p).reply part a k).wake

section
variable (x : State) (port : Nat) (ty : PacketType) (p : Packet) (part : Nat) (r : RxStream) (a : PacketType) (k : Packet)

theorem repliedTo_mem : (x.repliedTo port ty p part r a k).mem = x.mem := by
  rw [State.repliedTo, wake_mem, reply_mem, setRx_mem, unbox_mem]

theorem unbox_members : (x.unbox port ty p).fabric.members = x.fabric.members ∧
    (x.unbox port ty p).fabric.keptJoins = x.fabric.keptJoins := by
  obtain ⟨_, _, h⟩ := unbox_frame x port ty p
  rw [h]
  exact ⟨rfl, rfl⟩

/-- An answer leaves the streams and the memberships alone. -/
theorem reply_frame : (x.reply part a k).fabric.rx = x.fabric.rx ∧ (x.reply part a k).fabric.members = x.fabric.members ∧
    (x.reply part a k).fabric.keptJoins = x.fabric.keptJoins := by
  unfold State.reply State.sendPkt
  split <;> exact ⟨rfl, rfl, rfl⟩

theorem repliedTo_members : (x.repliedTo port ty p part r a k).fabric.members = x.fabric.members ∧
    (x.repliedTo port ty p part r a k).fabric.keptJoins = x.fabric.keptJoins := by
  obtain ⟨-, hmembers, hkept⟩ := reply_frame ((x.unbox port ty p).setRx r p) part a k
  obtain ⟨hmembers', hkept'⟩ := unbox_members x port ty p
  exact ⟨hmembers.trans hmembers', hkept.trans hkept'⟩

theorem repliedTo_find (hr : r.isOf p = true) :
    (x.repliedTo port ty p part r a k).fabric.rx.find? (fun y => y.isOf p) = some r := by
  obtain ⟨hrx, -⟩ := reply_frame ((x.unbox port ty p).setRx r p) part a k
  rw [State.repliedTo, wake_fabric, hrx]
  exact setRx_find _ hr

/-- The place where a partition injects its packets keeps them when a packet leaves a port. -/
theorem unbox_inject (hport : port ≤ 144) : ((x.unbox port ty p).port (injectPort part)) = x.port (injectPort part) := by
  unfold State.unbox
  split
  · rfl
  · exact modPort_port_ne _ _ (by unfold injectPort; omega)

end

/-- An answer goes to the packet's SNODE. -/
theorem reply_answers {s x : State} (h : SameAnswers s x) (port : Nat) (p : Packet) (part : Nat) (a : PacketType)
    (cause : Nat) (data : List Byte) (bad : List Nat) {y : State} (hpnode : y.fabric.pnode = x.fabric.pnode) (hunits : y.units = x.units)
    (hport : port ≤ 144 → y.port (injectPort part) = x.port (injectPort part)) :
    AnsweredWith s port p part a cause data bad (y.reply part a (p.answer (s.domain p.dvf) cause data bad)).wake := by
  have hnode : y.pnode part = s.pnode part := by rw [State.pnode, hpnode, h.pnodes, State.pnode]
  have hcycle : y.fabricCycle = s.fabricCycle := by rw [State.fabricCycle, hunits, h.units, State.fabricCycle]
  have hinject : x.port (injectPort part) = s.port (injectPort part) := by rw [State.port, h.ports, State.port]
  unfold AnsweredWith State.reply
  dsimp only
  split_ifs with hlocal
  · rw [sendPkt_local (p := p.answer _ _ _ _) _ _ (hlocal.trans hnode.symm)]
    exact ⟨_, rfl⟩
  · intro hle
    rw [sendPkt_inject _ _ (fun he => hlocal (he.trans hnode)), wake_port, modPort_port, hport hle, hinject, hcycle]

theorem repliedTo_answers {s x : State} (h : SameAnswers s x) (port : Nat) (ty : PacketType) (p : Packet) (part : Nat) (r : RxStream)
    (a : PacketType) (cause : Nat) (data : List Byte) (bad : List Nat) :
    AnsweredWith s port p part a cause data bad
      (x.repliedTo port ty p part r a (p.answer (s.domain p.dvf) cause data bad)) := by
  obtain ⟨_, _, hbox⟩ := unbox_frame x port ty p
  refine reply_answers h port p part a cause data bad (y := (x.unbox port ty p).setRx r p) ?_ ?_ (unbox_inject x port ty p part)
  · show (x.unbox port ty p).fabric.pnode = _
    rw [hbox]
  · show (x.unbox port ty p).units = _
    rw [hbox]

theorem repliedTo_passed (s x : State) (port : Nat) (ty : PacketType) (p : Packet) (part : Nat) (refused : Option Nat) (a : PacketType)
    (k : Packet) : StreamPassed p (x.repliedTo port ty p part ((s.rxOf p).after p refused) a k) :=
  ⟨_, repliedTo_find x port ty p part _ a k (after_isOf s p refused), rfl, rfl⟩

/-! Deliveries. -/

section
variable {s : State} {port : Nat} {ty : PacketType} {p : Packet} {part : Nat} {perform : State → Nat → RxStream → Deliver}

/-- What a packet that is turned away gives. -/
theorem deliver_away (hhere : s.localPart port ty p = some part) (hordered : (s.rxOf p).inOrder p = true) {cause : Nat}
    (haway : (s.rxOf p).refuses p = some cause ∨
      ((s.rxOf p).refuses p = none ∧ (s.rxOf p).moved = 0 ∧ s.admits part p = false ∧ cause = 0x0C)) :
    s.deliver port ty p perform = (s.noteFailed p.dvf none).repliedTo port ty p part ((s.rxOf p).after p (some cause)) .nack
      (p.answer (s.domain p.dvf) cause [] []) := by
  rw [State.deliver, hhere]
  dsimp only
  rw [hordered, if_neg (by decide)]
  rcases haway with hrefuses | ⟨hrefuses, hmoved, hadmits, rfl⟩
  · rw [hrefuses]
    rfl
  · rw [hrefuses, hmoved, hadmits]
    rfl

variable (h : Arrives s port ty p part)
include h

theorem Arrives.passes : ¬ ((s.rxOf p).moved == 0 && !s.admits part p) = true := by
  intro hstops
  obtain ⟨hzero, hrefused⟩ := Bool.and_eq_true_iff.1 hstops
  rw [h.admitted (beq_iff_eq.1 hzero)] at hrefused
  exact absurd hrefused (by decide)

theorem deliver_more {x : State} {got : List Byte} {bad : List Nat} (hd : perform s part (s.rxOf p) = .more x got bad) :
    s.deliver port ty p perform = (x.setRx { s.rxOf p with
      moved := (s.rxOf p).moved + 1, got := (s.rxOf p).got ++ got, gotBad := (s.rxOf p).gotBad ++ bad } p).wake := by
  rw [State.deliver, h.here]
  dsimp only
  rw [h.ordered, if_neg (by decide), h.wanted]
  dsimp only
  rw [if_neg h.passes, hd]

theorem deliver_slot {x : State} {tail : Nat} (hd : perform s part (s.rxOf p) = .slot x tail) :
    s.deliver port ty p perform = (x.setRx { s.rxOf p with moved := 1, slot := some tail } p).wake := by
  rw [State.deliver, h.here]
  dsimp only
  rw [h.ordered, if_neg (by decide), h.wanted]
  dsimp only
  rw [if_neg h.passes, hd]

theorem deliver_refuse {c : Nat} {va : Option Nat} (hd : perform s part (s.rxOf p) = .refuse c va) :
    s.deliver port ty p perform = (s.noteFailed p.dvf va).repliedTo port ty p part ((s.rxOf p).after p (some c)) .nack
      (p.answer (s.domain p.dvf) c [] []) := by
  rw [State.deliver, h.here]
  dsimp only
  rw [h.ordered, if_neg (by decide), h.wanted]
  dsimp only
  rw [if_neg h.passes, hd]
  rfl

theorem deliver_done {x : State} {a : PacketType} {data : List Byte} {bad : List Nat}
    (hd : perform s part (s.rxOf p) = .done x a data bad) :
    s.deliver port ty p perform = x.repliedTo port ty p part ((s.rxOf p).after p none) a (p.answer (x.domain p.dvf) 0 data bad) := by
  rw [State.deliver, h.here]
  dsimp only
  rw [h.ordered, if_neg (by decide), h.wanted]
  dsimp only
  rw [if_neg h.passes, hd]
  rfl

end

/-- A packet that is turned away, its failure noted. -/
theorem turnedAway_of (s : State) (port : Nat) (ty : PacketType) (p : Packet) (part cause : Nat) (va : Option Nat) :
    TurnedAway s port p part cause ((s.noteFailed p.dvf va).repliedTo port ty p part ((s.rxOf p).after p (some cause)) .nack
      (p.answer (s.domain p.dvf) cause [] [])) := by
  refine ⟨?_, repliedTo_passed .., repliedTo_answers (.of_fabric (SameFabric.noteFailed s p.dvf va)) ..⟩
  rw [repliedTo_mem, noteFailed_mem]

/-! What the steps of a packet leave. -/

section
variable {s : State} {port : Nat} {ty : PacketType} {p : Packet} {part : Nat} {perform : State → Nat → RxStream → Deliver}
  {i : Instr} (he : exec i s = .next (s.deliver port ty p perform))
include he

theorem delivers_away (hhere : s.localPart port ty p = some part) (hordered : (s.rxOf p).inOrder p = true) {cause : Nat}
    (haway : (s.rxOf p).refuses p = some cause ∨
      ((s.rxOf p).refuses p = none ∧ (s.rxOf p).moved = 0 ∧ s.admits part p = false ∧ cause = 0x0C)) :
    ∃ t, exec i s = .next t ∧ TurnedAway s port p part cause t :=
  ⟨_, he.trans (congrArg _ (deliver_away hhere hordered haway)), turnedAway_of ..⟩

variable (h : Arrives s port ty p part)
include h

theorem delivers_refuse {c : Nat} {va : Option Nat} (hd : perform s part (s.rxOf p) = .refuse c va) :
    ∃ t, exec i s = .next t ∧ TurnedAway s port p part c t :=
  ⟨_, he.trans (congrArg _ (deliver_refuse h hd)), turnedAway_of ..⟩

/-- A step that stores some bytes. -/
theorem delivers_piece {x : State} {got : List Byte} {bad : List Nat} (hd : perform s part (s.rxOf p) = .more x got bad) {bs : List Byte}
    {k : Nat} (hwf : s.mem.wf = true) (hmem : x.mem = s.mem.writeN k bs) : ∃ t, exec i s = .next t ∧ PieceStored s p bs k t := by
  obtain ⟨hread, hout⟩ := stored_of_mem hwf hmem rfl
  refine ⟨_, he.trans (congrArg _ (deliver_more h hd)), ?_, ?_, _, setRx_find x (rxOf_isOf s p), rfl⟩
  · rwa [wake_mem, setRx_mem]
  · rwa [wake_mem, setRx_mem]

/-- A step that reads some bytes. -/
theorem delivers_got {x : State} {got : List Byte} {bad : List Nat} (hd : perform s part (s.rxOf p) = .more x got bad)
    (hmem : x.mem = s.mem) : ∃ t, exec i s = .next t ∧ t.mem = s.mem ∧
      InStream t p (fun y => y.moved = (s.rxOf p).moved + 1 ∧ y.got = (s.rxOf p).got ++ got) := by
  refine ⟨_, he.trans (congrArg _ (deliver_more h hd)), ?_, _, setRx_find x (rxOf_isOf s p), rfl, rfl⟩
  rwa [wake_mem, setRx_mem]

/-- A step that takes a slot of a ring. -/
theorem delivers_slot {x : State} {tail : Nat} (hd : perform s part (s.rxOf p) = .slot x tail) (hmem : x.mem = s.mem) :
    ∃ t, exec i s = .next t ∧ t.mem = s.mem ∧ InStream t p (fun y => y.moved = 1 ∧ y.slot = some tail) := by
  refine ⟨_, he.trans (congrArg _ (deliver_slot h hd)), ?_, _, setRx_find x (rxOf_isOf s p), rfl, rfl⟩
  rwa [wake_mem, setRx_mem]

/-- The last step of a packet, with its answer. -/
theorem delivers_done {x : State} {a : PacketType} {data : List Byte} {bad : List Nat}
    (hd : perform s part (s.rxOf p) = .done x a data bad) (hsame : SameAnswers s x) (hfns : x.fns = s.fns) :
    ∃ t, exec i s = .next t ∧ t.mem = x.mem ∧ StreamPassed p t ∧ AnsweredWith s port p part a 0 data bad t ∧
      t.fabric.members = x.fabric.members ∧ t.fabric.keptJoins = x.fabric.keptJoins := by
  have hdomain : x.domain p.dvf = s.domain p.dvf := by rw [State.domain, fn_congr hfns, State.domain]
  have hdone := deliver_done h hd
  rw [hdomain] at hdone
  exact ⟨_, he.trans (congrArg _ hdone), repliedTo_mem .., repliedTo_passed .., repliedTo_answers hsame .., (repliedTo_members ..).1,
    (repliedTo_members ..).2⟩

end

/-! The last step of a command's packets (20 R508). -/

theorem decrement_fns (s : State) (key : Nat) (count : Int) (die : Nat) : (s.decrement key 0 count die).fns = s.fns := by
  obtain ⟨_, _, _, _, hclass⟩ := classify_frame s key die none true
  unfold State.decrement
  simp only [if_true]
  obtain ⟨_, hwrite⟩ := writeBytes_frame (s.classify key die none true) key _
  rw [hwrite, hclass]

section
variable {s : State} {rb : List Nat} (p : Packet) (r : RxStream)

theorem lastAccess_done (hrb : ∀ k ∈ rb, s.homeWaits k = false) (from_ : Nat) :
    s.lastAccess from_ rb p r = .done (s.rbarMade rb p r) .ack [] [] := by
  refine if_neg ?_
  simpa using hrb

theorem rbarMade_sameFabric (rb : List Nat) : SameFabric s (s.rbarMade rb p r) := by
  cases rb with
  | nil => exact .refl s
  | cons k ks => exact SameFabric.decrement ..

theorem rbarMade_fns (rb : List Nat) : (s.rbarMade rb p r).fns = s.fns := by
  cases rb with
  | nil => rfl
  | cons k ks => exact decrement_fns ..

theorem rbarMade_mem (hv : s.viral = false) (k : Nat) : (s.rbarMade [k] p r).mem =
    s.mem.writeN k (bytesOfNat 8 (wrapNat 64 ((natOfBytes (s.mem.readN k 8) : Int) - (r.bytes p : Nat)))) :=
  decrement_mem (by rw [State.viralBlocks, hv]; rfl) (r.bytes p : Nat) (homeDie k)

end

/-- The last step of a packet that has made its accesses. -/
theorem delivers_end {s : State} {port : Nat} {ty : PacketType} {p : Packet} {part : Nat} {perform : State → Nat → RxStream → Deliver}
    {i : Instr} (he : exec i s = .next (s.deliver port ty p perform)) (h : Arrives s port ty p part) (hwf : s.mem.wf = true)
    (hv : s.viral = false) {from_ : Nat} {rb : List Nat} (hd : perform s part (s.rxOf p) = s.lastAccess from_ rb p (s.rxOf p))
    (hrb : ∀ k ∈ rb, s.homeWaits k = false) : ∃ t, exec i s = .next t ∧ PacketEnded s port p part rb t := by
  obtain ⟨t, ht, hmem, hpassed, hanswered, -, -⟩ := delivers_done he h (hd.trans (lastAccess_done p (s.rxOf p) hrb from_))
    (.of_fabric (rbarMade_sameFabric ..)) (rbarMade_fns ..)
  refine ⟨t, ht, hpassed, hanswered, ?_, ?_⟩
  · rintro rfl
    exact hmem
  · rintro k rfl
    obtain ⟨hread, hout⟩ := stored_of_mem (n := 8) hwf (hmem.trans (rbarMade_mem p (s.rxOf p) hv k)) (bytesOfNat_length ..)
    refine ⟨hout, ?_⟩
    rw [hread, natOfBytes_bytesOfNat]
    exact Nat.mod_eq_of_lt (wrapNat_lt_two_pow 64 _)

end Sys2Proof.Machine

/-! What each request packet does, and the obligation (20 R507 to R513). -/

namespace Sys2Proof.Machine

open Sys2Proof

/-! PUT, GET and REDUCEPUT. -/

section
variable {s : State} {port : Nat} {p : Packet} {part : Nat} (hwf : s.mem.wf = true) (hv : s.viral = false)
include hwf hv

omit hwf in
theorem no_viralBlocks (k : Nat) : s.viralBlocks k = false := by
  rw [State.viralBlocks, hv]
  rfl

/-- PUT stores its data piece by piece, and ends. -/
theorem putData_spec (h : Arrives s port .put p part) {ks rb : List Nat}
    (hplaces : s.places p.dvf part .write (accessesOf p.addr p.len 16) = .at_ ks) (hrb : s.rbarKey p part = .at_ rb) :
    (∀ k, ks[(s.rxOf p).moved]? = some k → s.homeWaits k = false →
      ∃ t, exec (.putData port p) s = .next t ∧ PieceStored s p ((p.data.drop (16 * (s.rxOf p).moved)).take 16) k t) ∧
    (ks.length ≤ (s.rxOf p).moved → (∀ k ∈ rb, s.homeWaits k = false) →
      ∃ t, exec (.putData port p) s = .next t ∧ PacketEnded s port p part rb t) := by
  refine ⟨fun k hk hw => ?_, fun hend hfree => ?_⟩
  · refine delivers_piece (x := s.storePiece (homeDie k) p.data p.bad (s.rxOf p).moved k) (got := []) (bad := []) rfl h ?_ hwf
      (storePiece_mem (no_viralBlocks hv k) ..)
    rw [hplaces, hrb]
    dsimp only
    rw [nextPiece_more hk hw, Option.getD_some]
  · refine delivers_end (from_ := port / 36) rfl h hwf hv ?_ hfree
    rw [hplaces, hrb]
    dsimp only
    rw [nextPiece_none hend, Option.getD_none]

omit hwf hv in
theorem putData_refused (h : Arrives s port .put p part) {c a : Nat}
    (hplaces : s.places p.dvf part .write (accessesOf p.addr p.len 16) = .refuse c a) :
    ∃ t, exec (.putData port p) s = .next t ∧ TurnedAway s port p part c t := by
  refine delivers_refuse (va := some a) rfl h ?_
  rw [hplaces]

omit hwf hv in
/-- GET reads its data piece by piece, and gives it back. -/
theorem getRequest_spec (h : Arrives s port .getRequest p part) {ks : List Nat}
    (hplaces : s.places p.dvf part .read (accessesOf p.addr p.len 16) = .at_ ks) :
    (∀ k, ks[(s.rxOf p).moved]? = some k → s.homeWaits k = false → ∃ t, exec (.getRequest port p) s = .next t ∧ t.mem = s.mem ∧
      InStream t p (fun x => x.moved = (s.rxOf p).moved + 1 ∧ x.got = (s.rxOf p).got ++ s.mem.readN k 16)) ∧
    (ks.length ≤ (s.rxOf p).moved → ∃ t, exec (.getRequest port p) s = .next t ∧ t.mem = s.mem ∧ StreamPassed p t ∧
      AnsweredWith s port p part .getData 0 (s.rxOf p).got (s.rxOf p).gotBad t) := by
  refine ⟨fun k hk hw => ?_, fun hend => ?_⟩
  · refine delivers_got (x := s.classify k (homeDie k) none false) (bad := if s.poisonIn k 16 then [(s.rxOf p).moved] else []) rfl h ?_
      (classify_mem ..)
    rw [hplaces]
    dsimp only
    rw [hk]
    dsimp only
    rw [hw]
    rfl
  · obtain ⟨t, ht, hmem, hpassed, hanswered, -, -⟩ := delivers_done (i := .getRequest port p) (x := s) (a := .getData)
      (data := (s.rxOf p).got) (bad := (s.rxOf p).gotBad) rfl h (by
        rw [hplaces]
        dsimp only
        rw [List.getElem?_eq_none hend]) (.refl s) rfl
    exact ⟨t, ht, hmem, hpassed, hanswered⟩

/-- REDUCEPUT adds its elements, and ends. -/
theorem reduceput_spec (h : Arrives s port .reducePut p part) {ks rb : List Nat} {e : Nat}
    (hesize : esizeOf (p.opx / 2 ^ 64 % 2 ^ 8) = some e) (hplaces : s.places p.dvf part .both (accessesOf p.addr p.len e) = .at_ ks)
    (hrb : s.rbarKey p part = .at_ rb) :
    (∀ k, ks[(s.rxOf p).moved]? = some k → s.homeWaits k = false →
      ∃ t, exec (.reduceputPacket port p) s = .next t ∧ PieceStored s p (bytesOfNat e
        (tileSum (p.opx / 2 ^ 64 % 2 ^ 8) e (natOfBytes (s.mem.readN k e)) (natAt p.data (e * (s.rxOf p).moved) e))) k t) ∧
    (ks.length ≤ (s.rxOf p).moved → (∀ k ∈ rb, s.homeWaits k = false) →
      ∃ t, exec (.reduceputPacket port p) s = .next t ∧ PacketEnded s port p part rb t) := by
  refine ⟨fun k hk hw => ?_, fun hend hfree => ?_⟩
  · refine delivers_piece (x := s.addElement (p.opx / 2 ^ 64 % 2 ^ 8) e p.data p.bad (s.rxOf p).moved k) (got := []) (bad := []) rfl h ?_
      hwf (addElement_mem (no_viralBlocks hv k) ..)
    dsimp only
    rw [hesize, Option.getD_some, hplaces, hrb]
    dsimp only
    rw [hk]
    dsimp only
    rw [hw]
    rfl
  · refine delivers_end (from_ := port / 36) rfl h hwf hv ?_ hfree
    dsimp only
    rw [hesize, Option.getD_some, hplaces, hrb]
    dsimp only
    rw [List.getElem?_eq_none hend]

/-! ATOMIC. -/

/-- Bytes that an ATOMIC packet acts on. -/
def Packet.width (p : Packet) : Nat := atomicWidth (p.opx / 2 ^ 64)

/-- ATOMIC writes its new value, and gives the old one back. -/
theorem atomicPacket_spec (h : Arrives s port .atomic p part) {k : Nat} (hplaces : s.places p.dvf part .both [p.addr] = .at_ [k])
    (hw : s.homeWaits k = false) :
    ∃ t, exec (.atomicPacket port p) s = .next t ∧ sameOutside s.mem t.mem k (Packet.width p) ∧ StreamPassed p t ∧
      AnsweredWith s port p part .atomicResult 0 (s.mem.readN k (Packet.width p)) (if s.poisonIn k (Packet.width p) then [0] else []) t ∧
      natOfBytes (t.mem.readN k (Packet.width p)) =
        atomicNew p.opx (natOfBytes (s.mem.readN k (Packet.width p))) % 2 ^ (8 * Packet.width p) := by
  let bs := bytesOfNat (Packet.width p) (atomicNew p.opx (natOfBytes (s.mem.readN k (Packet.width p))))
  have hold : bytesOfNat (Packet.width p) (natOfBytes (s.mem.readN k (Packet.width p))) = s.mem.readN k (Packet.width p) := by
    have hbytes := bytesOfNat_natOfBytes (s.mem.readN k (Packet.width p))
    rwa [Bytes.readN_length] at hbytes
  have hsame : SameFabric s ((s.classify k (homeDie k) none true).writeBytes k bs) := (SameFabric.classify ..).trans (.writeBytes ..)
  have hfns : ((s.classify k (homeDie k) none true).writeBytes k bs).fns = s.fns := by
    obtain ⟨_, _, _, _, hclass⟩ := classify_frame s k (homeDie k) none true
    obtain ⟨_, hwrite⟩ := writeBytes_frame (s.classify k (homeDie k) none true) k bs
    rw [hwrite, hclass]
  obtain ⟨t, ht, hmem, hpassed, hanswered, -, -⟩ := delivers_done (i := .atomicPacket port p) (a := .atomicResult)
    (x := (s.classify k (homeDie k) none true).writeBytes k bs) (data := s.mem.readN k (Packet.width p))
    (bad := if s.poisonIn k (Packet.width p) then [0] else []) rfl h (by
      dsimp only
      rw [hplaces]
      refine (if_neg (ne_true_of_eq_false hw)).trans ?_
      exact congrArg (fun d => Deliver.done _ _ d _) hold) (.of_fabric hsame) hfns
  have hwritten : t.mem = s.mem.writeN k bs := hmem.trans (stored_mem (no_viralBlocks hv k) (homeDie k) 0 bs false)
  obtain ⟨hread, hout⟩ := stored_of_mem (n := Packet.width p) hwf hwritten (bytesOfNat_length ..)
  refine ⟨t, ht, hout, hpassed, hanswered, ?_⟩
  rw [hread, natOfBytes_bytesOfNat]

end

/-! SEND (20 R511). -/

section
variable {s : State} {port : Nat} {p : Packet} {part : Nat} (h : Arrives s port .send p part)
include h

theorem sendPacket_noRing (hring : ringEnabled (s.fn p.dvf).rxsize = false) :
    ∃ t, exec (.sendPacket port p) s = .next t ∧ TurnedAway s port p part 0x0D t := by
  refine delivers_refuse (va := none) rfl h ?_
  dsimp only
  rw [hring]
  rfl

variable (hring : ringEnabled (s.fn p.dvf).rxsize = true) {head : Nat}
  (hhead : s.places p.dvf part .both [(s.fn p.dvf).rxbase.toNat / 4096 * 4096] = .at_ [head]) (hw : s.homeWaits head = false)
include hring hhead hw

omit h in
/-- What SEND does at a ring that is there (20 R511). -/
theorem sendPacket_performs : ∃ perform, exec (.sendPacket port p) s = .next (s.deliver port .send p perform) ∧
    ((s.rxOf p).slot = none → perform s part (s.rxOf p) =
      if ringRefuses (s.fn p.dvf).rxsize (natOfBytes (s.mem.readN head 8)) (natOfBytes (s.mem.readN (head + 8) 8)) then .refuse 0x0D none
      else if s.ringBusy p then .wait s
      else .slot (s.classify head (homeDie head) none false) (natOfBytes (s.mem.readN head 8))) ∧
    (∀ tail ks rb, (s.rxOf p).slot = some tail → s.places p.dvf part .write (accessesOf
        ((s.fn p.dvf).rxbase.toNat / 4096 * 4096 + 2048 * (1 + tail % (s.fn p.dvf).rxsize)) (64 + p.len) 16) = .at_ ks →
      s.rbarKey p part = .at_ rb → perform s part (s.rxOf p) =
        if (s.rxOf p).moved = ks.length + 1 then
          .more ((s.classify head (homeDie head) none true).writeBytes head (bytesOfNat 8 (tail + 1))) [] []
        else (s.nextPiece (port / 36) homeDie (slotBytes p) (p.bad.map (fun i => i + 4)) ks ((s.rxOf p).moved - 1)).getD
          (s.lastAccess (port / 36) rb p (s.rxOf p))) := by
  refine ⟨_, rfl, fun hslot => ?_, fun tail ks rb hslot hplaces hrb => ?_⟩
  · dsimp only
    rw [hring, hhead]
    refine (if_neg (ne_true_of_eq_false hw)).trans ?_
    rw [hslot]
    rfl
  · dsimp only
    rw [hring, hhead]
    refine (if_neg (ne_true_of_eq_false hw)).trans ?_
    rw [hslot]
    dsimp only
    rw [hplaces, hrb]
    rfl

theorem sendPacket_full (hslot : (s.rxOf p).slot = none)
    (hfull : ringRefuses (s.fn p.dvf).rxsize (natOfBytes (s.mem.readN head 8)) (natOfBytes (s.mem.readN (head + 8) 8)) = true) :
    ∃ t, exec (.sendPacket port p) s = .next t ∧ TurnedAway s port p part 0x0D t := by
  obtain ⟨_, he, hempty, -⟩ := sendPacket_performs hring hhead hw (port := port)
  exact delivers_refuse he h ((hempty hslot).trans (if_pos hfull))

theorem sendPacket_takes (hslot : (s.rxOf p).slot = none)
    (hroom : ringRefuses (s.fn p.dvf).rxsize (natOfBytes (s.mem.readN head 8)) (natOfBytes (s.mem.readN (head + 8) 8)) = false)
    (hbusy : s.ringBusy p = false) : ∃ t, exec (.sendPacket port p) s = .next t ∧ t.mem = s.mem ∧
      InStream t p (fun x => x.moved = 1 ∧ x.slot = some (natOfBytes (s.mem.readN head 8))) := by
  obtain ⟨_, he, hempty, -⟩ := sendPacket_performs hring hhead hw (port := port)
  refine delivers_slot (x := s.classify head (homeDie head) none false) he h ((hempty hslot).trans ?_) (classify_mem ..)
  rw [hroom, hbusy]
  rfl

/-- SEND fills its slot piece by piece, advances TAIL, and ends. -/
theorem sendPacket_fills (hwf : s.mem.wf = true) (hv : s.viral = false) {tail : Nat} {ks rb : List Nat}
    (hslot : (s.rxOf p).slot = some tail) (hrb : s.rbarKey p part = .at_ rb)
    (hplaces : s.places p.dvf part .write (accessesOf
      ((s.fn p.dvf).rxbase.toNat / 4096 * 4096 + 2048 * (1 + tail % (s.fn p.dvf).rxsize)) (64 + p.len) 16) = .at_ ks)
    (hmoved : 0 < (s.rxOf p).moved) :
    (∀ k, ks[(s.rxOf p).moved - 1]? = some k → s.homeWaits k = false → ∃ t, exec (.sendPacket port p) s = .next t ∧
      PieceStored s p (((slotBytes p).drop (16 * ((s.rxOf p).moved - 1))).take 16) k t) ∧
    ((s.rxOf p).moved = ks.length + 1 → ∃ t, exec (.sendPacket port p) s = .next t ∧
      PieceStored s p (bytesOfNat 8 (tail + 1)) head t) ∧
    ((s.rxOf p).moved = ks.length + 2 → (∀ k ∈ rb, s.homeWaits k = false) →
      ∃ t, exec (.sendPacket port p) s = .next t ∧ PacketEnded s port p part rb t) := by
  obtain ⟨_, he, -, hfill⟩ := sendPacket_performs hring hhead hw (port := port)
  have hd := hfill tail ks rb hslot hplaces hrb
  refine ⟨fun k hk hkw => ?piece, fun hlast => ?tail, fun hend hfree => ?ends⟩
  case piece =>
    have hlt : (s.rxOf p).moved - 1 < ks.length := (List.getElem?_eq_some_iff.1 hk).1
    rw [if_neg (by omega), nextPiece_more hk hkw, Option.getD_some] at hd
    exact delivers_piece he h hd hwf (storePiece_mem (no_viralBlocks hv k) ..)
  case tail =>
    rw [if_pos hlast] at hd
    exact delivers_piece he h hd hwf (stored_mem (no_viralBlocks hv head) (homeDie head) 0 (bytesOfNat 8 (tail + 1)) false)
  case ends =>
    rw [if_neg (by omega), nextPiece_none (by omega), Option.getD_none] at hd
    exact delivers_end he h hwf hv hd hfree

end

/-! JOIN and LEAVE (20 R512, R513). -/

/-- A membership changes only where its function and collective are named. -/
theorem modMember_membership (s : State) (fn coll : Nat) {f : Membership → Membership} (hf : ∀ m, (f m).fn = m.fn ∧ (f m).coll = m.coll) :
    (s.modMember fn coll f).membership fn coll = (s.membership fn coll).map f := by
  show (s.fabric.members.map (fun m => if m.fn = fn ∧ m.coll = coll then f m else m)).find? _ = (s.fabric.members.find? _).map f
  induction s.fabric.members with
  | nil => rfl
  | cons m ms ih =>
    obtain ⟨hfn, hcoll⟩ := hf m
    by_cases hm : m.fn = fn ∧ m.coll = coll
    · simp [hm, hfn, hcoll]
    · rw [List.map_cons, if_neg hm, List.find?_cons_of_neg (by simpa using hm), List.find?_cons_of_neg (by simpa using hm), ih]

theorem membership_congr {s t : State} (h : t.fabric.members = s.fabric.members) (fn coll : Nat) :
    t.membership fn coll = s.membership fn coll := by rw [State.membership, h, State.membership]

/-- The sender of a JOIN is heard. -/
def Membership.hears (m : Membership) (node : Nat × Nat) : Membership := { m with heard := m.heard ++ [node] }

section
variable {s : State} {port : Nat} {p : Packet} {part : Nat}

/-- A JOIN that no pending COLLJOIN waits for is kept. -/
theorem joinPacket_kept (h : Arrives s port .join p part)
    (hno : ∀ m, s.membership p.dvf p.coll = some m → m.joined = true ∨ (p.snode, p.svf) ∉ m.members) :
    ∃ t, exec (.joinPacket port p) s = .next t ∧ t.mem = s.mem ∧ StreamPassed p t ∧ AnsweredWith s port p part .ack 0 [] [] t ∧
      (p.dvf, p.coll, (p.snode, p.svf)) ∈ t.fabric.keptJoins ∧ t.fabric.members = s.fabric.members := by
  obtain ⟨t, ht, hmem, hpassed, hanswered, hmembers, hkept⟩ := delivers_done (i := .joinPacket port p) (a := .ack) (data := []) (bad := [])
    (x := s.modFabric (fun x => { x with keptJoins := x.keptJoins ++ [(p.dvf, p.coll, (p.snode, p.svf))] })) rfl h (by
      dsimp only
      cases hm : s.membership p.dvf p.coll with
      | none => rfl
      | some m => rcases hno m hm with hj | hj <;> simp [hj]) ⟨rfl, rfl, rfl⟩ rfl
  exact ⟨t, ht, hmem, hpassed, hanswered, hkept ▸ List.mem_append_right _ (List.mem_singleton_self _), hmembers⟩

/-- A JOIN that a pending COLLJOIN waits for is heard. -/
theorem joinPacket_heard (h : Arrives s port .join p part) {m : Membership} (hm : s.membership p.dvf p.coll = some m)
    (hpending : m.joined = false) (hmember : (p.snode, p.svf) ∈ m.members) :
    ∃ t, exec (.joinPacket port p) s = .next t ∧ t.mem = s.mem ∧ StreamPassed p t ∧ AnsweredWith s port p part .ack 0 [] [] t ∧
      t.membership p.dvf p.coll = some (m.hears (p.snode, p.svf)) := by
  have hhears : (!m.joined && m.members.contains (p.snode, p.svf)) = true := by simp [hpending, hmember]
  obtain ⟨t, ht, hmem, hpassed, hanswered, hmembers, -⟩ := delivers_done (i := .joinPacket port p) (a := .ack) (data := []) (bad := [])
    (x := s.modMember p.dvf p.coll (fun m => m.hears (p.snode, p.svf))) rfl h (by
      dsimp only
      rw [hm]
      exact congrArg (fun y => Deliver.done y .ack [] []) (if_pos hhears)) ⟨rfl, rfl, rfl⟩ rfl
  refine ⟨t, ht, hmem, hpassed, hanswered, ?_⟩
  rw [membership_congr hmembers,
    modMember_membership s p.dvf p.coll (f := fun m => m.hears (p.snode, p.svf)) (fun _ => ⟨rfl, rfl⟩), hm]
  rfl

/-- A membership without a member that has left. -/
def Membership.without (m : Membership) (node : Nat × Nat) : Membership :=
  { m with members := m.members.filter (fun x => x != node), lost := m.lost.filter (fun x => x != node) }

/-- What LEAVE does when it is not sent on behalf of a lost member. -/
theorem leavePacket_performs (s : State) (port part : Nat) {p : Packet} (hcause : p.cause ≠ 0x0E) :
    ∃ perform, exec (.leavePacket port p false) s = .next (s.deliver port .leave p perform) ∧ perform s part (s.rxOf p) =
      .done ((s.modMember p.dvf p.coll (fun m => m.without (p.snode, p.svf))).forgetJoin p.dvf p.coll (p.snode, p.svf)) .ack [] [] := by
  refine ⟨_, (?_ : execLeavePacket port p false s = .next (s.deliver port .leave p (fun s _ _ =>
    .done ((s.modMember p.dvf p.coll (fun m => m.without (p.snode, p.svf))).forgetJoin p.dvf p.coll (p.snode, p.svf)) .ack [] []))), rfl⟩
  unfold execLeavePacket
  dsimp only
  rw [beq_false_of_ne hcause, if_neg (by decide), if_neg (by decide)]
  rfl

/-- LEAVE removes its member. -/
theorem leavePacket_leaves (h : Arrives s port .leave p part) (hcause : p.cause ≠ 0x0E) :
    ∃ t, exec (.leavePacket port p false) s = .next t ∧ t.mem = s.mem ∧ StreamPassed p t ∧ AnsweredWith s port p part .ack 0 [] [] t ∧
      ∀ m, t.membership p.dvf p.coll = some m → (p.snode, p.svf) ∉ m.members := by
  obtain ⟨_, he, hd⟩ := leavePacket_performs s port part hcause
  obtain ⟨t, ht, hmem, hpassed, hanswered, hmembers, -⟩ := delivers_done he h hd ⟨rfl, rfl, rfl⟩ rfl
  refine ⟨t, ht, hmem, hpassed, hanswered, fun m hm => ?_⟩
  rw [membership_congr hmembers] at hm
  obtain ⟨n, -, rfl⟩ := Option.map_eq_some_iff.1
    ((modMember_membership s p.dvf p.coll (f := fun m => m.without (p.snode, p.svf)) (fun _ => ⟨rfl, rfl⟩)).symm.trans hm)
  simp [Membership.without]

/-- The state after the LEAVE of a lost member, before its answer. -/
def State.lostLeft (s : State) (port : Nat) (p : Packet) : State :=
  ((s.unbox port .leave p).forgetJoin p.dvf p.coll (p.snode, p.svf)).loseMember p.dvf p.coll (p.snode, p.svf)

theorem lostLeft_frame (s : State) (port : Nat) (p : Packet) :
    (s.lostLeft port p).fabric.ports = (s.unbox port .leave p).fabric.ports ∧
      (s.lostLeft port p).fabric.pnode = (s.unbox port .leave p).fabric.pnode ∧
      (s.lostLeft port p).units = (s.unbox port .leave p).units := by
  unfold State.lostLeft
  generalize s.unbox port .leave p = u
  exact ⟨rfl, rfl, rfl⟩

/-- The LEAVE of a lost member. -/
theorem exec_leavePacket_lost (hhere : s.localPart port .leave p = some part) (hcause : p.cause = 0x0E) :
    exec (.leavePacket port p true) s = .next (if s.admits part p then
      ((s.lostLeft port p).reply part .ack (p.answer (s.domain p.dvf) 0 [] [])).wake
      else ((s.unbox port .leave p).reply part .nack (p.answer (s.domain p.dvf) 0x0C [] [])).wake) := by
  show execLeavePacket port p true s = _
  unfold execLeavePacket
  dsimp only
  rw [hcause, if_neg (by decide), if_pos rfl, hhere]
  rfl

/-- An answer to a packet that has left, whatever else is changed but for the ports. -/
theorem unbox_answers (s : State) (port : Nat) (p : Packet) (part : Nat) (a : PacketType) (cause : Nat) {y : State}
    (hports : y.fabric.ports = (s.unbox port .leave p).fabric.ports) (hpnodes : y.fabric.pnode = (s.unbox port .leave p).fabric.pnode)
    (hunits : y.units = (s.unbox port .leave p).units) :
    AnsweredWith s port p part a cause [] [] (y.reply part a (p.answer (s.domain p.dvf) cause [] [])).wake := by
  obtain ⟨_, _, hbox⟩ := unbox_frame s port .leave p
  refine reply_answers (.refl s) port p part a cause [] [] ?_ ?_ (fun hport => ?_)
  · rw [hpnodes, hbox]
  · rw [hunits, hbox]
  · rw [State.port, hports]
    exact unbox_inject s port .leave p part hport

theorem leavePacket_lost (hhere : s.localPart port .leave p = some part) (hcause : p.cause = 0x0E) :
    (s.admits part p = true → ∃ t, exec (.leavePacket port p true) s = .next t ∧ t.mem = s.mem ∧
      AnsweredWith s port p part .ack 0 [] [] t ∧
      ∀ m, t.membership p.dvf p.coll = some m → (p.snode, p.svf) ∈ m.members → (p.snode, p.svf) ∈ m.lost) ∧
    (s.admits part p = false → ∃ t, exec (.leavePacket port p true) s = .next t ∧ t.mem = s.mem ∧
      AnsweredWith s port p part .nack 0x0C [] [] t ∧ t.fabric.members = s.fabric.members) := by
  have he := exec_leavePacket_lost hhere hcause
  refine ⟨fun hadmits => ?_, fun hadmits => ?_⟩
  · rw [if_pos hadmits] at he
    obtain ⟨hports, hpnodes, hunits⟩ := lostLeft_frame s port p
    refine ⟨_, he, ?_, unbox_answers s port p part .ack 0 hports hpnodes hunits, fun m hm hmember => ?_⟩
    · rw [wake_mem, reply_mem, State.lostLeft, loseMember_mem, forgetJoin_mem, unbox_mem]
    · obtain ⟨-, hmembers, -⟩ := reply_frame (s.lostLeft port p) part .ack (p.answer (s.domain p.dvf) 0 [] [])
      rw [membership_congr (t := State.wake _) hmembers] at hm
      obtain ⟨hfn, hcoll⟩ : m.fn = p.dvf ∧ m.coll = p.coll := by simpa using List.find?_some hm
      exact (loseMember_isLost ..).members m (List.mem_of_find?_eq_some hm) hfn hcoll hmember
  · rw [if_neg (ne_true_of_eq_false hadmits)] at he
    refine ⟨_, he, ?_, unbox_answers s port p part .nack 0x0C (y := s.unbox port .leave p) rfl rfl rfl, ?_⟩
    · rw [wake_mem, reply_mem, unbox_mem]
    · rw [wake_fabric, (reply_frame ..).2.1, (unbox_members ..).1]

end

/-! Packets that are turned away. -/

/-- What a packet that is not admitted, or whose command was refused, gives. -/
theorem turned_away {s : State} {port part : Nat} {p : Packet} {i : Instr} {ty : PacketType}
    (he : ∃ perform, exec i s = .next (s.deliver port ty p perform)) (cause : Nat) (hhere : s.localPart port ty p = some part)
    (hordered : (s.rxOf p).inOrder p = true) (haway : (s.rxOf p).refuses p = some cause ∨
      ((s.rxOf p).refuses p = none ∧ (s.rxOf p).moved = 0 ∧ s.admits part p = false ∧ cause = 0x0C)) :
    ∃ t, exec i s = .next t ∧ TurnedAway s port p part cause t := by
  obtain ⟨_, he⟩ := he
  exact delivers_away he hhere hordered haway

/-- Settles O41: each packet's steps by its lemmas; what is turned away is so before anything is performed. -/
theorem fabricPackets : Obligations.FabricPackets := by
  unfold Obligations.FabricPackets
  intro s port p part hwf hv r goes stream answered stores closed ended turnedAway piece
  refine ⟨fun ks rb h hplaces hrb => putData_spec hwf hv h hplaces hrb, fun c a h hplaces => putData_refused h hplaces,
    fun ks h hplaces => getRequest_spec h hplaces, fun head h => ?send, fun k h hplaces hw => atomicPacket_spec hwf hv h hplaces hw,
    fun ks rb e h hesize hplaces hrb => reduceput_spec hwf hv h hesize hplaces hrb, fun h => ?join,
    fun h hcause => leavePacket_leaves h hcause, fun hhere hcause => leavePacket_lost hhere hcause, ?away⟩
  case send =>
    refine ⟨fun hring => sendPacket_noRing h hring, fun hring hhead hw => ⟨fun hslot hfull => sendPacket_full h hring hhead hw hslot hfull,
      fun hslot hroom hbusy => sendPacket_takes h hring hhead hw hslot hroom hbusy, fun tail ks rb hslot hrb hplaces hmoved => ?_⟩⟩
    exact sendPacket_fills h hring hhead hw hwf hv hslot hrb hplaces hmoved
  case join =>
    by_cases hpending : ∃ m, s.membership p.dvf p.coll = some m ∧ m.joined = false ∧ (p.snode, p.svf) ∈ m.members
    · obtain ⟨m, hm, hjoined, hmember⟩ := hpending
      obtain ⟨t, ht, hmem, hpassed, hanswered, hheard⟩ := joinPacket_heard h hm hjoined hmember
      refine ⟨t, ht, hmem, hpassed, hanswered, fun hno => ?_, fun n hn _ _ => ?_⟩
      · rcases hno m hm with hj | hj
        · exact absurd hj (by simp [hjoined])
        · exact absurd hmember hj
      · exact ⟨_, hheard, List.mem_append_right _ (List.mem_singleton_self _)⟩
    · have hno : ∀ m, s.membership p.dvf p.coll = some m → m.joined = true ∨ (p.snode, p.svf) ∉ m.members := by
        intro m hm
        by_contra hboth
        obtain ⟨hjoined, hmember⟩ := not_or.1 hboth
        exact hpending ⟨m, hm, Bool.eq_false_of_not_eq_true hjoined, not_not.1 hmember⟩
      obtain ⟨t, ht, hmem, hpassed, hanswered, hkept, -⟩ := joinPacket_kept h hno
      exact ⟨t, ht, hmem, hpassed, hanswered, fun _ => hkept, fun m hm hjoined hmember => absurd ⟨m, hm, hjoined, hmember⟩ hpending⟩
  case away =>
    refine ⟨turned_away ⟨_, rfl⟩, turned_away ⟨_, rfl⟩, turned_away ⟨_, rfl⟩, turned_away ⟨_, rfl⟩, turned_away ⟨_, rfl⟩,
      turned_away ⟨_, rfl⟩, fun hcause => ?_⟩
    obtain ⟨perform, he, -⟩ := leavePacket_performs s port part hcause
    exact turned_away ⟨perform, he⟩

end Sys2Proof.Machine
